-- ==== Sys2Proof/Word.lean ====
section
/-! DEFINITION. The word types of the ULQ-4896 (00_scope.md, *Registers and access* and *Numbers, units and names*):
a register word has 32 bits, a slot word and a cistern word 64, a byte 8, TICK_COUNT 48. -/

namespace Sys2Proof

/-- A register word, a pool word or a sample in Q1.31 (00_scope.md). -/
abbrev Word := BitVec 32

/-- A byte of a byte-addressed memory or of a message. -/
abbrev Byte := BitVec 8

/-- A slot word (R104) or a cistern word (R97). -/
abbrev DWord := BitVec 64

/-- A tick number: a value of the 48-bit TICK_COUNT (R29). -/
abbrev TickNo := BitVec 48

end Sys2Proof
end

