-- ==== Sys2Proof/Syntax.lean ====
section
/-! DEFINITION. The commands of the block: one constructor of Instr for each row of spec/opcode_table.json, and the
types of their operands. An operand is what the row's rule says comes from outside (an index, an address and value,
a measurement, a received message). -/

namespace Sys2Proof

/-- The four requesters of the register arbiter (R13). -/
inductive Requester where
  | hsp | mailbox | s0 | s1
deriving DecidableEq, Repr


/-- The port a mailbox request came through (R358): the host SPI, the two-wire target, MREQ cells from a chain node, or
a message on host queue 1 from a chain node. -/
inductive MbxPort where
  | hsp
  | twt
  | cells (node : Nat)
  | queue (node : Nat)
deriving DecidableEq, Repr

/-- Who sends a mailbox request: its port, and the FAB cycle of the tick in which the register accesses it makes are
granted (R13, R35). -/
structure Sender where
  port : MbxPort
  cyc : Nat
deriving DecidableEq, Repr

/-- A tick parcel, split at the boundaries that R269 fixes: the 32-byte beacon, the 32-byte cells of the control area,
the 40-byte bundle slots and the segments of the side area. -/
structure Parcel where
  beacon : List Byte
  cells : List (List Byte) := []
  slots : List (List Byte) := []
  side : List (List Byte) := []
deriving DecidableEq, Repr


/-- How one try of a two-wire transfer goes wrong (R351 to R353): the byte where it does, 0 the address byte, and the bit. -/
inductive TwcErr where
  | nackAddr
  | nackData (byte : BitVec 8)
  | arbLost (byte : BitVec 8) (bit : Fin 8)
  | arbSr (byte : BitVec 8)
  | pec (byte : BitVec 8)
deriving DecidableEq, Repr

/-- How one try of a two-wire transfer ends: with the bytes read, or with an error. -/
inductive TwcEnd where
  | ok (data : List Byte)
  | err (e : TwcErr)
deriving DecidableEq, Repr

/-- What the boot SPI controller learns of the flash at a boot (R354, R355): the JEDEC ID, log2 of the density in bits, and
the read mode that SFDP declares: 0 none with 4-byte addresses, 1 fast read, 2 quad read. -/
structure FlashId where
  jedec : BitVec 24
  density : BitVec 8
  read : Fin 3
deriving DecidableEq, Repr

/-- What a phase detector saw (R53): for `cycles` consecutive reference cycles the error stayed within `err` ps (for a lock), or was `err` ps or
more (for a loss); or no reference edge came for two expected periods. -/
structure PhaseRun where
  err : Nat := 0
  cycles : Nat := 0
  noEdge : Bool := false
deriving DecidableEq, Repr

/-- What a divider load found (R56, R57): the microseconds it took, and the band and fine-tune code. -/
structure BandFound where
  us : Nat := 0
  band : Nat := 0
  fine : Nat := 0
deriving DecidableEq, Repr

/-- What the analogue loop of PLL `p` saw. -/
structure PllLossSeen where
  p : Fin 4
  seen : PhaseRun
deriving DecidableEq, Repr

/-- What PLL-A's outer loop saw of its source, and the mean trim before it (R61). -/
structure SourceLossSeen where
  trim : Word
  seen : PhaseRun
deriving DecidableEq, Repr

/-- A period of source code `c` + 1 in ns, the last of `run` consecutive bad ones, with the mean trim before them (R63). -/
structure BadPeriodSeen where
  c : Fin 4
  period : Nat
  run : Nat
  trim : Word
deriving DecidableEq, Repr

/-- A sense that an event conversion takes (R214, R215): the first or the second state of half-bridge P or N, or PVDD. -/
inductive Sense where
  | p (second : Bool)
  | n (second : Bool)
  | pvdd
deriving DecidableEq, Repr

/-- A frame-sync edge (R250): its direction, and the bit clocks of the frame that it ends. -/
structure FrameSeen where
  rising : Bool := true
  bits : Nat
deriving DecidableEq, Repr

/-- The ratio that a lane measures, in units of 2^-20 (R245). -/
structure LaneRatio where
  lane : Fin 96
  ratio : BitVec 24
deriving DecidableEq, Repr

/-- An overrun of the words received, or an underrun of those sent, by a serial port (R251), at a slot of its frame. -/
structure XrunSeen where
  port : Fin 2
  tx : Bool := false
  slot : Fin 32 := 0
deriving DecidableEq, Repr

/-- Why receive is lost (R282): the module, the signal or the synchronisation of the line, or so many consecutive parcels missing at a port. -/
structure LossSeen where
  port : Fin 2
  line : Bool := false
  missing : Nat := 0
deriving DecidableEq, Repr

/-- For how many milliseconds a target has held SCL low, in which byte of the transfer (R353). -/
structure StretchSeen where
  byte : BitVec 8
  ms : Nat
deriving DecidableEq, Repr

/-- The levels at which the supplies have stayed for 1 ms, or fallen for 10 µs, in mV (R418). -/
structure SupplyLevels where
  vaon : Nat := 0
  vddSoc : Nat := 0
  vddFab : Nat := 0
  vddSd : Nat := 0
  vddhSd : Nat := 0
  vdda18 : Nat := 0
  vdda5 : Nat := 0
  vddioA : Nat := 0
  vddioB : Nat := 0
deriving DecidableEq, Repr

/-- What a load test sees of its stage: the level of PSC_RDYk_N, and the average voltage at the load in mV (R233). -/
structure StageSeen where
  line : Bool
  mv : Nat := 0
deriving DecidableEq, Repr


/-- The commands: one constructor for each row of spec/opcode_table.json, with the row's operands. -/
inductive Instr where
  /-- WEIR (R23): At the end of every tick's slot period the device runs the 192-cycle weir in its fixed order. -/
  | weir (samples : List (BitVec 12 × Word))
  /-- CHECKPOINT_DRAIN_DONE (R100): The checkpoint shadow finishes draining into the alternate checkpoint buffer and FAB_Bb_CKPT records the tick. -/
  | checkpointDrainDone (b : Fin 10)
  /-- FADE_END (R152): After F fade ticks the old basin is freed, the channel becomes IDLE and DONE is set. -/
  | fadeEnd (h : Fin 4)
  /-- METER_WINDOW_END (R124): When a meter window ends, its peak and clip are copied into FAB_Bb_METERm and a new window starts. -/
  | meterWindowEnd (b : Fin 10) (m : Fin 32)
  /-- TC_STAGE (R32): A granted write to a TC field enters staging, or is held while the buffer is closed, after any staged-view checks. -/
  | tcStage (who : Requester) (a : BitVec 24) (v : Word) (cyc : Nat)
  /-- REGISTER_WRITE (R6): A write to a register with no behaviour of its own applies to each field according to its type. -/
  | registerWrite (who : Requester) (a : BitVec 24) (v : Word) (cyc : Nat)
  /-- DEV_COMMIT_GO (R35): A write of DEV_COMMIT.GO makes the current or next tick the commit tick, or is refused with BUSY. -/
  | devCommitGo (cyc : Nat)
  /-- DEV_COMMIT_CANCEL (R40): A write of DEV_COMMIT.CANCEL disarms an armed commit with cause CANCELLED. -/
  | devCommitCancel (go : Bool) (cyc : Nat)
  /-- DEV_COMMIT_AT_LO_WRITE (R39): A write of DEV_COMMIT_AT_LO arms a commit at the target tick, or is refused with BUSY or LATE. -/
  | devCommitAtLoWrite (v : Word) (cyc : Nat)
  /-- DEV_TICK_LO_READ (R31): A read of DEV_TICK_LO returns the low word and latches the high word into DEV_TICK_HI. -/
  | devTickLoRead (cyc : Nat)
  /-- DEV_COMMIT_LAST_LO_READ (R31): A read of DEV_COMMIT_LAST_LO latches bits 47:32 of the last commit tick into DEV_COMMIT_LAST_HI. -/
  | devCommitLastLoRead
  /-- REF_GOOD (R50): After 4,096 in-tolerance REF periods, REF is declared good and the PLLs may start. -/
  | refGood
  /-- REF_LOST (R65): REF loss moves SYS to LPO, parks every output, stops the fabric and enters SAFE. -/
  | refLost
  /-- PLL_LOCK (R53): A PLL declares lock after LOCK_CNT reference cycles inside its window. -/
  | pllLock (p : Fin 4) (seen : PhaseRun) (found : BandFound) (outer : Option Word)
  /-- PLL_LOSS (R54): A PLL that declares loss has its output taken over by its bypass clock or holdover, with the consequences downstream. -/
  | pllLoss (e : PllLossSeen)
  /-- RELOCK_ATTEMPT (R55): Within 1 ms of a PLL loss, the stewards start a relock with a full band search. -/
  | relockAttempt (p : Fin 4)
  /-- CLK_PLL_UPD_WRITE (R58): A write of CLK_PLL_UPD loads a PLL's shadow dividers at once, or schedules PLL-A's load for the next commit. -/
  | clkPllUpdWrite (mask : BitVec 4)
  /-- CACHE_FLUSH (R57): A write of CLK_PLLx_CACHE.FLUSH empties that PLL's band cache. -/
  | cacheFlush (p : Fin 4)
  /-- SOURCE_QUALIFIED (R60): A monitored audio reference becomes qualified or unqualified, which may start a decision. -/
  | sourceQualified (c : Fin 4) (n bad adv : Nat)
  /-- SOURCE_LOSS (R61): Loss of PLL-A's active source puts PLL-A into HOLDOVER at once. -/
  | sourceLoss (e : SourceLossSeen)
  /-- REFERENCE_DECISION (R59): The steward selects the first qualified listed source and enters ACQUIRE, stays in holdover, or starts a family change. -/
  | referenceDecision
  /-- HOLD_LIMIT_EXPIRY (R61): Holdover lasting HOLD_LIMIT moves PLL-A to FREE, or sets CLK_EVT.HOLD_LIMIT if FREE is not listed. -/
  | holdLimitExpiry
  /-- REVERT (R62): A better source qualified for REVERT_HOLD seconds becomes active through ACQUIRE. -/
  | revert (c : Fin 4)
  /-- WCLK_GLITCH (R63): A reference period outside ±0.5 % is left out of the phase detector and counted. -/
  | wclkGlitch (e : BadPeriodSeen)
  /-- RATE_FOLLOW (R63): A source returning at another rate of the same family mutes the outputs, changes the tick rate, re-checks fit and unmutes. -/
  | rateFollow
  /-- FAMILY_CHANGE (R64): A family change mutes, stops the fabric, retunes PLL-A and PLL-P, restarts on the new source and unmutes. -/
  | familyChange (us : BitVec 16)
  /-- PULSE_DELIVERY (R69): A crossing's pulse channel delivers an event, merged or discarded under COMPAT. -/
  | pulseDelivery (n : Fin 28) (src : Fin 256) (more : Nat)
  /-- XING_TIMEOUT (R74): A far clock with no edge for TMO + 1 cycles while the crossing waits is declared silent, and its transfers are discarded or refused. -/
  | xingTimeout (n : Fin 28) (waiting : Nat) (wake : Bool)
  /-- POINTER_RESYNC (R77): The resynchronisation handshake completes after release or a returning edge, RDY rises and SILENT clears. -/
  | pointerResync (n : Fin 28)
  /-- BASIN_FAULT (R91): A parity error or a canary firing faults a basin, which takes the fault path. -/
  | basinFault (b : Fin 10) (canary : Bool)
  /-- SHELF_RELOAD_DONE (R162): The shelf reload of a target completes and its state region is restored from the last checkpoint. -/
  | shelfReloadDone (t : Fin 10)
  /-- CISTERN_TURN (R98): At its frame position a requester's queued cistern access is served, and DLR data becomes readable 8 cycles later. -/
  | cisternTurn (f : Fin 16) (j : Fin 4)
  /-- CISTERN_CORRECTED_ERROR (R102): A single-bit cistern error is corrected and written back, and a repeat in a row starts a row march. -/
  | cisternCorrectedError (w : BitVec 22)
  /-- CISTERN_UNCORRECTABLE_ERROR (R102): An uncorrectable cistern error returns zero, or invalidates a checkpoint or shelf copy, and starts recovery. -/
  | cisternUncorrectableError (w : BitVec 22)
  /-- SCRUB (R102): At its frame position the scrubber reads, corrects and writes back the next cistern word. -/
  | scrub (found : Fin 3)
  /-- FAB_CIS_DATA_READ (R97): A read of FAB_CIS_DATA returns the addressed cistern half word and advances the address when INC is set. -/
  | fabCisDataRead
  /-- FAB_CIS_DATA_WRITE (R97): A write of FAB_CIS_DATA merges into the cistern word in position 12 and advances the address when INC is set. -/
  | fabCisDataWrite (v : Word)
  /-- RAW_WINDOW_ACCESS (R9): An access to the raw basin windows reaches the selected basin, or is refused while field-locked. -/
  | rawWindowAccess (a : BitVec 24) (write : Option Word)
  /-- NOP (R113): The slot word does nothing for one cycle. -/
  | nop (b : Fin 10) (j : Fin 4)
  /-- TICKEND (R89): The slot word ends the jet's cascade for this tick. -/
  | tickend (b : Fin 10) (j : Fin 4)
  /-- SKIP (R115): When its condition holds, the slot word suppresses the effects of the next N slot words. -/
  | skip (b : Fin 10) (j : Fin 4)
  /-- MAC (R114): The slot word adds a product to an accumulator and stores the shifted result. -/
  | mac (b : Fin 10) (j : Fin 4)
  /-- MSU (R114): The slot word subtracts a product from an accumulator and stores the shifted result. -/
  | msu (b : Fin 10) (j : Fin 4)
  /-- MUL (R114): The slot word stores a product without touching the accumulators. -/
  | mul (b : Fin 10) (j : Fin 4)
  /-- ADD (R114): The slot word stores the saturated 40-bit sum of two operands. -/
  | add (b : Fin 10) (j : Fin 4)
  /-- SUB (R114): The slot word stores the saturated 40-bit difference of two operands. -/
  | sub (b : Fin 10) (j : Fin 4)
  /-- ABS (R114): The slot word stores the absolute value of its operand. -/
  | abs (b : Fin 10) (j : Fin 4)
  /-- MIN (R114): The slot word stores the smaller of two operands. -/
  | min (b : Fin 10) (j : Fin 4)
  /-- MAX (R114): The slot word stores the larger of two operands. -/
  | max (b : Fin 10) (j : Fin 4)
  /-- SHL (R114): The slot word shifts left with saturation, either an operand or an accumulator in place. -/
  | shl (b : Fin 10) (j : Fin 4)
  /-- SHR (R114): The slot word shifts right arithmetically, either an operand or an accumulator in place. -/
  | shr (b : Fin 10) (j : Fin 4)
  /-- SAT (R113): The slot word saturates its operand to the store format. -/
  | sat (b : Fin 10) (j : Fin 4)
  /-- BQ (R116): The slot word executes one step of a five-step biquad section. -/
  | bq (b : Fin 10) (j : Fin 4)
  /-- FIRT (R117): The slot word computes N FIR taps through the data and coefficient pointers. -/
  | firt (b : Fin 10) (j : Fin 4)
  /-- RAMP (R118): The slot word smooths a gain state toward its target and applies the new gain to the input. -/
  | ramp (b : Fin 10) (j : Fin 4)
  /-- LOG2 (R119): The slot word stores the log2 of its operand's magnitude in Q6.26. -/
  | log2 (b : Fin 10) (j : Fin 4)
  /-- EXP2 (R119): The slot word stores 2 raised to a Q6.26 operand, as Q1.31. -/
  | exp2 (b : Fin 10) (j : Fin 4)
  /-- PEAK (R119): The slot word updates a decaying peak state word. -/
  | peak (b : Fin 10) (j : Fin 4)
  /-- RMSACC (R119): The slot word updates a smoothed mean-square state word. -/
  | rmsacc (b : Fin 10) (j : Fin 4)
  /-- DLW (R120): The slot word queues a sample-pair write at the present index of a cistern delay line. -/
  | dlw (b : Fin 10) (j : Fin 4)
  /-- DLR (R120): The slot word queues an interpolated read of a cistern delay line into a W register. -/
  | dlr (b : Fin 10) (j : Fin 4)
  /-- TBL (R122): The slot word looks up a coefficient table, with optional interpolation, through page redirection. -/
  | tbl (b : Fin 10) (j : Fin 4)
  /-- RIN (R123): The slot word copies an inbound port, shifted left, to its destination. -/
  | rin (b : Fin 10) (j : Fin 4)
  /-- ROUT (R123): The slot word stores its operand, shifted right and saturated, to an outbound port. -/
  | rout (b : Fin 10) (j : Fin 4)
  /-- METER (R124): The slot word feeds a sample magnitude into a windowed peak meter. -/
  | meter (b : Fin 10) (j : Fin 4)
  /-- CONFIRM_ON_LIVE (R147): After 60 s of continuous LIVE with CONFIRM_ON_LIVE, the booted trial slot is confirmed. -/
  | confirmOnLive
  /-- IMAGE_BUFFER_TIMEOUT (R368): An image buffer left open for 10 s with no data is aborted. -/
  | imageBufferTimeout
  /-- FAB_HO_CANCEL (R157): A write of FAB_HOh_CTL.CANCEL cancels a pending hand-over and releases its new basin. -/
  | fabHoCancel (h : Fin 4)
  /-- FAB_BB_TMARK_WRITE (R158): A write of FAB_Bb_TMARK marks a table page complete. -/
  | fabBbTmarkWrite (b : Fin 10) (t : Fin 32) (pageB : Bool)
  /-- CLIP (R175): A saturated input sample or an L-path overload is flagged, counted and held in AIN_LIVE. -/
  | clip (k : Fin 16) (ovl : Bool)
  /-- AIN_LIVE_HOLD_EXPIRY (R175): An AIN_LIVE bit clears HOLD ms after the channel's last affected sample. -/
  | ainLiveHoldExpiry (k : Fin 16)
  /-- AIN_CALCTL_WRITE (R177): A write of AIN_CALCTL starts the input calibration on the named channels. -/
  | ainCalctlWrite (mask : BitVec 16)
  /-- CAL_DONE (R177): A converter calibration run finishes on every named channel, stores its factors and sets CAL_DONE. -/
  | calDone (aout : Bool) (fail : BitVec 16)
  /-- VDDA_5_LOST (R178): VDDA_5 below 4.5 V for 10 µs makes every input and headphone channel unavailable. -/
  | vdda5Lost
  /-- VDDA_5_RESTORED (R178): VDDA_5 above 4.75 V for 10 ms runs calibration on the inputs and restarts the headphones. -/
  | vdda5Restored
  /-- PH_DONE (R180): After the settle time the members ramp back to RUNNING and PH_DONE is set. -/
  | phDone (g : Fin 8)
  /-- TRANSITION_END (R187): A limiter transition ends when the weight or the DC level reaches its target. -/
  | transitionEnd (k : Fin 16)
  /-- SLEW_ENGAGEMENT (R188): The safety cap acts in RUN, and each engagement is counted once. -/
  | slewEngagement (k : Fin 16)
  /-- DCLR_N_ASSERT (R189): A filtered assertion of DCLR_N puts every line output at its clear code within 2 µs. -/
  | dclrNAssert
  /-- DCLR_N_RELEASE (R189): The release of DCLR_N moves the outputs toward their targets, or holds them under DCLR_LATCH. -/
  | dclrNRelease
  /-- CLRACK (R189): A write of AOUT_CTL.CLRACK with the ball released lets held outputs leave their clear codes. -/
  | clrack
  /-- AOUT_CALCTL_WRITE (R193): A write of AOUT_CALCTL starts the line-output calibration on the named channels. -/
  | aoutCalctlWrite (mask : BitVec 16)
  /-- JACK_INSERT (R199): A jack present for DEB ms sets JACKn and INSn and may start the amplifier. -/
  | jackInsert (n : Fin 2)
  /-- JACK_REMOVE (R199): A jack removed for DEB ms mutes and stops the amplifier and forgets its impedance. -/
  | jackRemove (n : Fin 2)
  /-- HP_START (R197): When its conditions become true, a headphone amplifier starts the pump, runs the impedance test, sets its limit and ramps its volume. -/
  | hpStart (n : Fin 2) (zL zR : Nat)
  /-- HP_STOP (R197): When a start condition fails, the amplifier runs its start order in reverse. -/
  | hpStop (n : Fin 2)
  /-- HP_OVERCURRENT (R200): A headphone current trip cuts and clamps both channels of the amplifier and enters FAULT. -/
  | hpOvercurrent (n : Fin 2)
  /-- HP_RETEST (R200): 50 ms after a trip the impedance test decides whether the amplifier restarts or latches. -/
  | hpRetest (n : Fin 2) (zL zR : Nat)
  /-- HP_UNLATCH (R200): A write of HP_AMPn_CTL.UNLATCH leaves LATCHED and starts the amplifier. -/
  | hpUnlatch (n : Fin 2)
  /-- VOLUME_STEP (R196): Every 8 ticks a headphone attenuation moves one 0.5 dB step toward its target. -/
  | volumeStep (n : Fin 2) (right : Bool)
  /-- CHANNEL_START (R222): When all its start conditions hold, a PSC channel checks readiness, precharges, ramps the common mode and then the input gain. -/
  | channelStart (k : Fin 8) (line : Bool) (uv : Nat)
  /-- CHANNEL_STOP (R223): A PSC channel ramps its gain and common mode to zero and runs the all-off order. -/
  | channelStop (k : Fin 8)
  /-- RDY_TIMEOUT (R222): A ready line not high within PSC_RDYCFG.TO at start puts the channel into FAULT with cause RDY. -/
  | rdyTimeout (k : Fin 8)
  /-- PRECHG_TIMEOUT (R222): Capacitors not in window within PSC_PRECHG.TO put the channel into FAULT with cause PRECHG. -/
  | prechgTimeout (k : Fin 8)
  /-- PSC_RDY_LOW (R225): A low ready line longer than FILT is a stage fault, leading to all-off and FAULT with cause RDY. -/
  | pscRdyLow (k : Fin 8)
  /-- FAULT_RESTART (R225): Once the ready line has stayed high for 10 ms, a faulted channel restarts, or latches on the fourth restart in 10 s. -/
  | faultRestart (k : Fin 8)
  /-- LOOP_SAMPLE (R212): At each loop sample the device updates the loop filter and limits the modulation. -/
  | loopSample (k : Fin 8) (v cur : Word)
  /-- FC_ESTIMATE (R216): A flying-capacitor sample corrects the estimate, or FC_STALE is set after 64 missed opportunities. -/
  | fcEstimate (k : Fin 8) (half : Bool)
  /-- PSC_UNLATCH (R225): A write of PSC_CTL.UNLATCH leaves LATCHED and starts the channel if its conditions hold. -/
  | pscUnlatch (k : Fin 8)
  /-- ILIM_TRIP (R228): A current comparator trip freewheels for the carrier half, or starts all-off on the CNT-th tripped carrier. -/
  | ilimTrip (k : Fin 8) (uv : Nat) (v : Word)
  /-- LIMITING_END (R229): One full carrier without a trip returns STATE to the state held before the trip. -/
  | limitingEnd (k : Fin 8)
  /-- DC_LOAD_TEST (R233): A DC test voltage is ramped onto the load, measured and ramped down, and the load is classified. -/
  | dcLoadTest (k : Fin 8) (seen : StageSeen) (ua : Nat)
  /-- PSC_DCTEST_RUN (R235): A write of PSC_DCTEST.RUN runs the DC load test on a channel in OFF. -/
  | pscDctestRun (k : Fin 8)
  /-- PILOT_WINDOW_END (R236): At the end of a pilot window the device writes PSC_Z, or discards the window. -/
  | pilotWindowEnd (k : Fin 8) (mag : Nat) (phase : BitVec 16) (re : Nat)
  /-- COIL_TEMP_UPDATE (R238): Every millisecond the device updates the voice-coil temperature model. -/
  | coilTempUpdate (k : Fin 8) (irms : Nat)
  /-- CAB_EEPROM_READ (R241): The stewards read the cabinet EEPROM record and override the image's driver parameters, or set CABERR. -/
  | cabEepromRead (rec : Option (List Byte))
  /-- LANE_LOCK (R246): An ASRC lane locks, ramps in and sets LOCK. -/
  | laneLock (q : Fin 96) (ratio : BitVec 24)
  /-- LANE_UNLOCK (R246): An ASRC lane loses lock and delivers zero from the next weir. -/
  | laneUnlock (seen : LaneRatio)
  /-- TABLE_BUILD (R247): A lane's background filter table build completes and its page flips. -/
  | tableBuild (q : Fin 96)
  /-- FRAME_ERR (R250): A SAP frame with a changed bit-clock count is delivered short and sets FRAME_ERR. -/
  | frameErr (n : Fin 2) (seen : FrameSeen) (rate10 : Nat) (wires : List Nat)
  /-- XRUN (R251): A port crossing overrun or underrun drops or repeats data and sets XRUN. -/
  | xrun (seen : XrunSeen)
  /-- LRMIS (R251): A legacy port's WS disagrees with the slot it assumes. -/
  | lrmis (n : Fin 2)
  /-- PORT_LOST (R253): A slave port with no frame sync for two frame periods is declared lost. -/
  | portLost (n : Fin 2)
  /-- SLIP (R254): A slip-mode buffer repeats or drops a whole frame. -/
  | slip (n : Fin 2) (tx : Bool)
  /-- SAP_MASK_WRITE (R257): A write to a SAP slot mask takes effect whole at the next frame start. -/
  | sapMaskWrite (n : Fin 2) (tx : Bool) (wire : Fin 4) (value : Word)
  /-- MOD_ABS_CHANGE (R264): CPp_MOD_ABS high puts the port in NOMODULE, and low starts the rate search. -/
  | modAbsChange (p : Fin 2) (high : Bool)
  /-- LOS_CHANGE (R264): CPp_LOS high declares receive loss at once. -/
  | losChange (p : Fin 2) (high : Bool)
  /-- TX_FAULT (R264): CPp_TX_FAULT high puts the port in TXFAULT and pulses TX_DIS, with up to three retries. -/
  | txFault (p : Fin 2) (high : Bool)
  /-- RATE_SEARCH (R266): Every 20 ms without PCS lock, the node loads PLL-C for the next lower enabled rate. -/
  | rateSearch
  /-- NOLOCK (R266): A port in SEARCH for 1 s with signal present sets NOLOCK. -/
  | nolock (p : Fin 2)
  /-- HELLO_SEND (R267): Every 10 µs a port in HELLO sends a hello block with its capability block. -/
  | helloSend (p : Fin 2)
  /-- HELLO_BLOCK (R267): A port receives and checks a partner's capability block. -/
  | helloBlock (p : Fin 2) (block : List Byte)
  /-- PARCEL_EMIT (R275): At its tick a node emits a parcel in each direction as closure, holdover or turnaround origin. -/
  | parcelEmit (d : Fin 2) (dep : BitVec 32)
  /-- PARCEL_RECEIVE (R276): A forwarder receives a parcel and forwards it cut-through, rewriting its own slots, the beacon and the link cell. -/
  | parcelReceive (p : Fin 2) (pc : Parcel) (now : BitVec 32)
  /-- EXCLUDE_RECEIVED (R279): A node that receives EXCLUDE puts both ports in EXCLUDED and sends keepalive parcels only. -/
  | excludeReceived (p : Fin 2)
  /-- CHAIN_RESTART (R281): A write of CHAIN_CPp_CTL.RESTART takes the port down, clears exclusion and OPEN and searches again. -/
  | chainRestart (p : Fin 2)
  /-- RECEIVE_LOSS (R282): A port declares receive loss, enters RX_DOWN and sets DOWN. -/
  | receiveLoss (seen : LossSeen)
  /-- LINK_TEST (R286): A granted link test stops parcels and runs a PRBS31 exchange. -/
  | linkTest (p : Fin 2)
  /-- TEST_DONE (R286): After 2 ms the link returns to service, enables FEC, or enters OPEN. -/
  | testDone (p : Fin 2) (errors : Bool)
  /-- ANNOUNCE (R291): An ANNOUNCE cell asks the master for a slot, gives a hint or releases a slot. -/
  | announce (src mseq stream hint : BitVec 16) (release : Bool)
  /-- GRANT (R291): A GRANT cell gives a bundle its slot, or NOSLOT. -/
  | grant (src dst mseq stream slot : BitVec 16)
  /-- ANNOUNCE_REPEAT (R291): Every 100 ms a node with an enabled bundle and no slot sends an ANNOUNCE. -/
  | announceRepeat (b : Fin 12)
  /-- REPORT (R301): A REPORT cell carries a node's offset limits and clock quality every 1,024 ticks. -/
  | report (msg : Option (BitVec 16 × BitVec 16 × BitVec 16 × BitVec 16 × BitVec 8))
  /-- TEST_REQ (R304): A TEST_REQ cell queues a link test at the master, or reports a test done. -/
  | testReq (src mseq : BitVec 16) (p : Fin 2)
  /-- TEST_GRANT (R304): A TEST_GRANT cell triggers the granted node's link test. -/
  | testGrant (src mseq node : BitVec 16) (p : Fin 2)
  /-- POFS (R300): A POFS cell sets a new presentation offset from tick T on every node. -/
  | pofs (src mseq p : BitVec 16) (t : BitVec 48)
  /-- MREQ (R303): A mailbox request arriving in MREQ cells is executed, or refused by adoption. -/
  | mreq (src mseq : BitVec 16) (frame : List Byte)
  /-- MRSP (R303): A mailbox response arrives in MRSP cells. -/
  | mrsp (src mseq : BitVec 16) (frame : List Byte)
  /-- ELECTION_START (R296): A capable node with a port up for 3 ticks and no master beacon becomes timing master. -/
  | electionStart
  /-- BETTER_MASTER_SEEN (R296): A node follows a better master, and a master that sees one becomes a forwarder. -/
  | betterMasterSeen (p : Fin 2) (id hops : BitVec 10) (q : BitVec 8)
  /-- CHALLENGE (R296): A follower better than its master for REELECT_HOLD seconds becomes master. -/
  | challenge
  /-- ORPHAN (R296): No beacon from the master for 3 parcel periods sets ORPHAN and applies the start rule. -/
  | orphan
  /-- TICK_COUNT_RELOAD (R297): A follower whose TICK_COUNT differs from the chain's reloads it in the weir of the tick in which it locks. -/
  | tickCountReload (n : TickNo)
  /-- POFS_SET (R299): After D holds steady for 64 parcels the master sets P at chain start. -/
  | pofsSet
  /-- DUP_ID (R305): A node that sees its own ID in another's beacon or cell stops writing bundles and cells. -/
  | dupId
  /-- QUEUE_TX_GO (R306): A write of CHAIN_Qq_TXCTL.GO queues the written frame for sending. -/
  | queueTxGo (q : Fin 2) (len : BitVec 13)
  /-- QUEUE_FRAME_RECEIVED (R306): A side or message frame received for a host queue is kept, or dropped when the queue is full. -/
  | queueFrameReceived (q : Fin 2) (src num : BitVec 16) (frame : List Byte)
  /-- CHAIN_QUEUE_RX_READ (R306): A read of CHAIN_Qq_RX returns the next four bytes and moves past the end of the head frame. -/
  | chainQueueRxRead (q : Fin 2)
  /-- W1_FIRE (R313): W1 detects energy above the noise floor for HANG frames and starts W2. -/
  | w1Fire
  /-- W2_FIRE (R313): W2's coarse score reaches TH2 and starts W3. -/
  | w2Fire (t : Fin 4) (path : List (Nat × Nat))
  /-- MATCH (R314): W3 matches a template, records it, freezes the pre-roll and raises a wake. -/
  | lsnMatch (t : Fin 4) (variant dur index : BitVec 8) (path : List (Nat × Nat)) (pstart : BitVec 16) (pred : BitVec 16) (ring : List Byte)
  /-- W2_TIMEOUT (R314): W2 without a result within 1.5 s stops. -/
  | w2Timeout
  /-- W3_END (R314): W3 without a match within 3 s stops and sets W3_END. -/
  | w3End
  /-- AUTOREL (R314): A frozen pre-roll releases itself after AUTOREL seconds. -/
  | autorel
  /-- PRE_ROLL_RELEASE (R314): A write of LSN_PRE_CTL.RELEASE unfreezes the pre-roll. -/
  | preRollRelease
  /-- REWIND (R315): A write of LSN_PRE_CTL.REWIND returns the pre-roll read position to the oldest sample. -/
  | rewind
  /-- LSN_PRE_DATA_READ (R315): A read of LSN_PRE_DATA returns the next eight samples and advances the read position. -/
  | lsnPreDataRead
  /-- CHK_DONE (R318): A check window ends after LEN ticks, or early, and sets CHK_DONE. -/
  | chkDone (levels : List (BitVec 16))
  /-- EVENT_CONVERSION (R327): A PWM event triggers a gauge conversion of a flying-capacitor state, or is skipped. -/
  | eventConversion (k : Fin 8) (sense : Sense) (uv : Nat) (ownBusy otherBusy : Bool)
  /-- INJECTED_TRIGGER (R328): An injected trigger runs the injected sequence, or merges into a run in progress. -/
  | injectedTrigger (c : Fin 2) (k : Fin 8) (volts : List Int)
  /-- GAUGE_SW_TRIGGER (R328): A write of GAUGE_x_INJCTL.SW triggers the injected sequence. -/
  | gaugeSwTrigger (c : Fin 2) (volts : List Int)
  /-- REGULAR_TRIGGER (R329): A regular trigger starts a regular pass, or is skipped while a pass runs. -/
  | regularTrigger (c : Fin 2) (volts : List Int)
  /-- GAUGE_TIMER (R329): The gauge timer expires and triggers the sequences bound to it. -/
  | gaugeTimer (regA injA regB injB : List Int)
  /-- STEWARD_CONVERSION (R326): The stewards' 1 kHz schedule converts REFCHK, supplies, temperatures, NTCs and GX. -/
  | stewardConversion (ntc : List Int) (gx : Option (Int × Int))
  /-- RESULT_DELIVERY (R333): The collector delivers a result to its buffer, the stewards or crossing 6. -/
  | resultDelivery
  /-- GAUGE_BUF_RD_WRITE (R334): A write of GAUGE_BUFn_RD advances the read index, clamped to WR. -/
  | gaugeBufRdWrite (n : Fin 8) (rd : BitVec 16)
  /-- GAUGE_CAL_A (R324): A write of GAUGE_CTL.CAL_A starts calibration of GA. -/
  | gaugeCalA
  /-- GAUGE_CAL_B (R324): A write of GAUGE_CTL.CAL_B starts calibration of GB. -/
  | gaugeCalB
  /-- GAUGE_REF_WRITE (R322): A write that changes GAUGE_CTL.REF switches the reference, or is refused while a PSC channel runs. -/
  | gaugeRefWrite (ref : Fin 4)
  /-- REFRDY (R322): The reference settles, REFRDY rises and calibration runs after a change. -/
  | refrdy
  /-- GAUGE_CAL_DONE (R324): A gauge calibration run finishes and stores its factors. -/
  | gaugeCalDone (c : Fin 2) (shorted : Int) (refchk : Nat)
  /-- HSP_REGISTER_READ (R341): An HSP read frame fetches register words after posted writes and returns them after a ready word. -/
  | hspRegisterRead (frame : List Word) (cut : Bool) (cyc : Nat)
  /-- HSP_REGISTER_WRITE (R340): An HSP write frame posts its register words into the write buffer. -/
  | hspRegisterWrite (frame : List Word) (cut : Bool)
  /-- SYS_RAM_READ (R341): An HSP read frame returns SYS RAM words. -/
  | sysRamRead (frame : List Word) (cut : Bool) (cyc : Nat)
  /-- SYS_RAM_WRITE (R340): An HSP write frame writes SYS RAM words. -/
  | sysRamWrite (frame : List Word) (cut : Bool)
  /-- POSTED_WRITE (R340): A posted HSP word is granted by the register arbiter and written. -/
  | postedWrite (cyc : Nat)
  /-- HOST_MBX_GO (R344): A write of HOST_MBX_CTL.GO passes the written request to the mailbox engine, or is ignored while busy. -/
  | hostMbxGo (len : BitVec 13) (cyc : Nat)
  /-- HOST_MBX_DISCARD (R344): A write of HOST_MBX_CTL.DISCARD releases the response. -/
  | hostMbxDiscard
  /-- HOST_MBX_RX_READ (R344): A read of HOST_MBX_RX returns the next four response bytes. -/
  | hostMbxRxRead
  /-- MAILBOX_WRITE (R347): A TWT MAILBOX write passes one request to the mailbox engine at the STOP. -/
  | mailboxWrite (x : BitVec 7) (pins : BitVec 2) (bs : List Byte) (cyc : Nat)
  /-- MAILBOX_READ (R347): A TWT MAILBOX read returns response bytes, and releases the response when read to the end. -/
  | mailboxRead (x : BitVec 7) (pins : BitVec 2) (n : Nat)
  /-- STATUS_READ (R347): A TWT STATUS read returns the eight status bytes. -/
  | statusRead (x : BitVec 7) (pins : BitVec 2) (n : Nat)
  /-- STREAM_WRITE (R347): A TWT STREAM write appends bytes to the open image buffer. -/
  | streamWrite (x : BitVec 7) (pins : BitVec 2) (bs : List Byte)
  /-- CLAIM_READ (R347): A TWT CLAIM read makes one claim for target HB. -/
  | claimRead (x : BitVec 7) (pins : BitVec 2)
  /-- CLAIM_WRITE (R347): A two-byte TWT CLAIM write completes the ID it carries. -/
  | claimWrite (x : BitVec 7) (pins : BitVec 2) (bs : List Byte)
  /-- TWT_WAKE (R348): An address match in DORMANT or LISTEN stretches SCL, wakes the device and hands the transfer to the port. -/
  | twtWake (x : BitVec 7) (pins : BitVec 2)
  /-- TWT_ABORT (R349): A START or STOP before an acknowledge abandons the byte, and a MAILBOX request is discarded whole. -/
  | twtAbort (x : BitVec 7) (pins : BitVec 2) (bs : List Byte)
  /-- TWC_TRANSFER (R350): The two-wire controller runs the next queued transfer once the bus is free. -/
  | twcTransfer (fin : TwcEnd)
  /-- TWC_RETRY (R351): After a STOP and the backoff time the controller retries the transfer. -/
  | twcRetry (fin : TwcEnd)
  /-- STRETCH_TO (R353): A target holding SCL longer than STRETCH_TO ends the transfer. -/
  | stretchTo (seen : StretchSeen)
  /-- BUS_STUCK (R353): SDA held low for 1 ms makes the controller send up to 9 SCL pulses and a STOP. -/
  | busStuck
  /-- GET_INFO (R367): The command returns identification, image state and the power mode. -/
  | getInfo (snd : Sender)
  /-- GET_STATE (R367): The command returns DEV_SVC. -/
  | getState (snd : Sender)
  /-- REG_READ (R367): The command reads N registers. -/
  | regRead (snd : Sender) (a : Word) (n : BitVec 16)
  /-- REG_WRITE (R367): The command writes N registers and stops at the first refused word. -/
  | regWrite (snd : Sender) (a : Word) (ws : List Word)
  /-- RESET (R367): With the right key the command sends its response and resets the device within 1 ms. -/
  | resetCommand (snd : Sender) (key : BitVec 16)
  /-- GO_LIVE (R365): The command moves the device to LIVE and starts its outputs. -/
  | goLive (snd : Sender)
  /-- GO_LOADED (R365): The command parks the outputs and moves the device to LOADED. -/
  | goLoaded (snd : Sender)
  /-- UNLOAD (R364): The command returns the device from LOADED or SAFE to BARE. -/
  | unload (snd : Sender)
  /-- ENTER_SAFE (R366): The command enters SAFE with cause HOST. -/
  | enterSafe (snd : Sender)
  /-- COMMIT_CMD (R367): The COMMIT command writes DEV_COMMIT.GO and returns the commit tick. -/
  | commitCmd (snd : Sender)
  /-- COMMIT_AT (R367): The command arms a commit at an absolute tick, or returns BUSY or LATE. -/
  | commitAt (snd : Sender) (t : TickNo)
  /-- COMMIT_CANCEL (R367): The command disarms an armed commit. -/
  | commitCancel (snd : Sender)
  /-- BASIN_HOLD (R160): The command stages HOLD for the handle's basin. -/
  | basinHold (snd : Sender) (L : Byte)
  /-- BASIN_RESUME (R160): The command stages the release of HOLD for the handle's basin. -/
  | basinResume (snd : Sender) (L : Byte)
  /-- POOL_WRITE (R367): The command writes pool words to the shelf and then the pool. -/
  | poolWrite (snd : Sender) (L : Byte) (a : BitVec 16) (ws : List Word)
  /-- IMAGE_OPEN (R367): The command opens the image buffer for a full or partial image. -/
  | imageOpen (snd : Sender) (kind : Byte) (total : Word)
  /-- IMAGE_DATA (R367): The command appends bytes to the image buffer at the expected offset. -/
  | imageData (snd : Sender) (off : Word) (bs : List Byte)
  /-- IMAGE_CLOSE (R367): The command checks and applies a partial image, or writes a full image to flash. -/
  | imageClose (snd : Sender) (bad : Option Word)
  /-- IMAGE_CONFIRM (R147): The command confirms a trial slot and raises the anti-rollback counter. -/
  | imageConfirm (snd : Sender)
  /-- IMAGE_ABORT (R367): The command discards the open image buffer. -/
  | imageAbort (snd : Sender)
  /-- FLASH_READ (R367): The command returns boot-flash bytes. -/
  | flashRead (snd : Sender) (a : Word) (n : BitVec 16)
  /-- CONV_CAL (R367): The command calibrates the named inputs and line outputs. -/
  | convCal (snd : Sender) (ain aout : BitVec 16)
  /-- GAUGE_CAL (R367): The command calibrates the named gauge converters. -/
  | gaugeCal (snd : Sender) (m : Byte)
  /-- TWC_XFER (R367): The command queues one two-wire transfer and returns its read bytes. -/
  | twcXfer (snd : Sender) (a rlen pec : Byte) (ws : List Byte)
  /-- ADOPT (R435): The command sets the owner, with presence required. -/
  | adopt (snd : Sender) (owner : BitVec 16)
  /-- RELEASE (R435): The command clears the adoption. -/
  | release (snd : Sender)
  /-- SET_IDENTITY (R435): The command sets the node ID and restarts both chain ports. -/
  | setIdentity (snd : Sender) (node : BitVec 16)
  /-- FACTORY_RESET (R435): The command erases non-kept ledger records, resets the node ID and resets into BARE. -/
  | factoryReset (snd : Sender)
  /-- POLICY_PERSIST (R435): The command writes a POLICY record for every policy register. -/
  | policyPersist (snd : Sender)
  /-- UNLOCK_CHALLENGE (R429): The command returns a fresh 16-byte nonce. -/
  | unlockChallenge (snd : Sender)
  /-- UNLOCK_RESPONSE (R430): The command checks the MAC and opens an unlock session, or fails. -/
  | unlockResponse (snd : Sender) (mac : BitVec 128)
  /-- LEDGER_READ (R399): The command returns ledger records from the requested index. -/
  | ledgerRead (snd : Sender) (index : Word) (n : BitVec 16)
  /-- IC_CLAIM (R376): A read of IC_CLAIM_x claims the best eligible source and snapshots its status. -/
  | icClaim (t : Fin 4)
  /-- IC_COMPLETE (R377): A write of IC_COMPLETE_x returns the held source to idle, or to pending. -/
  | icComplete (t : Fin 4) (n : Fin 256)
  /-- IC_SWSET_WRITE (R374): A write of IC_SWSET raises a software source as a pulse. -/
  | icSwsetWrite (n : Fin 64)
  /-- SOURCE_EVENT (R374): A source assertion or pulse makes its gateway pending. -/
  | sourceEvent (n : Fin 256) (merged : Bool)
  /-- ELIGIBILITY_EVALUATION (R375): Every 4 SYS cycles the controller re-evaluates eligibility and drives the interrupt balls and wakes. -/
  | eligibilityEvaluation
  /-- TARGETED_TEST (R384): After an error the stewards test the unit that erred. -/
  | targetedTest (cls : Fin 16) (unit : BitVec 8) (first : Fin 2)
  /-- TEST_CLASSIFICATION (R384): A targeted test ends, classifies the error and applies the outcome and the policies. -/
  | testClassification (cls : Fin 16) (unit : BitVec 8) (pass : Bool) (meas : Word) (differs : Bool)
  /-- DIE_TEMPERATURE_SAMPLE (R390): At each 1 kHz sample the stewards compare TJ with TWARN, THOT and TCRIT. -/
  | dieTemperatureSample (ts : List (BitVec 16))
  /-- HEARTBEAT_MISS (R391): A core missing 10 heartbeats is reset and reloaded by the other core, or held. -/
  | heartbeatMiss (core : Fin 2)
  /-- AON_WATCHDOG (R391): Both cores silent for 100 ms reset the device. -/
  | aonWatchdog
  /-- LEDGER_WRITE (R398): The stewards program one record, rotating sectors when full. -/
  | ledgerWrite (ok : Bool)
  /-- HOURS_TIMER (R397): Every 4 powered hours a HOURS record is written. -/
  | hoursTimer
  /-- SKIM_PASS (R401): A due skim pass measures ageing, slack and PSC figures, and then re-plans. -/
  | skimPass (am : List (BitVec 16)) (slack : List (BitVec 8)) (figures : List (Option (List (BitVec 16) × BitVec 16 × BitVec 16)))
  /-- SKIM (R401): A write of STEW_CTL.SKIM makes a skim pass due at once. -/
  | skim
  /-- RETEST (R384): A write of STEW_CTL.RETEST runs the targeted test on the named unit. -/
  | retest (cls : Fin 16) (unit : BitVec 8)
  /-- MARGIN_COMMIT (R403): After 1 s with only the stewards' values staged, the stewards write GO themselves. -/
  | marginCommit (cyc : Nat)
  /-- MODE_REQUEST (R409): A write of PWRM_CTL with GO requests a power mode, or is refused. -/
  | modeRequest (m : Fin 8)
  /-- MODE_ENTRY (R411): The device parks and switches domains off in order to enter a lower mode. -/
  | modeEntry
  /-- CLOCK_GATE (R410): The power manager gates or ungates a domain's clock as its condition holds. -/
  | clockGate
  /-- WAKE (R414): An enabled wake source records itself and starts the return to RUN. -/
  | wake (code : Fin 16)
  /-- WAKE_N (R414): WAKE_N low for 1 ms is a wake source. -/
  | wakeN
  /-- AON_TIMER (R414): PWRM_TMR expires and wakes the device. -/
  | aonTimer
  /-- CHAIN_WAKE_PATTERN (R413): A normal beacon after 64 keepalives wakes a node in STANDBY. -/
  | chainWakePattern
  /-- STANDBY_RETURN (R415): A return from STANDBY powers domains, reloads handles from the shelf and resumes. -/
  | standbyReturn
  /-- SLEEP_RETURN (R416): A return from LISTEN or DORMANT powers SYS, starts REF and the PLLs, and reboots the image. -/
  | sleepReturn (flash : FlashId)
  /-- POR (R418): Required supplies good, or a supply dip, hold and release the power-on reset. -/
  | por (levels : SupplyLevels)
  /-- RESET_N (R460): A filtered RESET_N runs all-off on the PSC channels and then resets the device. -/
  | resetN
  /-- START_UP (R421): From POR release the device starts clocks, reads the ledger, calibrates and boots its image. -/
  | startUp (flash : FlashId)
  /-- PWRM_RST_WRITE (R420): A write of PWRM_RST resets one domain's logic for 1 µs and restores its shadow. -/
  | pwrmRstWrite (doms : BitVec 8)
  /-- VDD_FAB_WRITE (R422): The stewards write a VDD_FAB setpoint to the PMBus regulator. -/
  | vddFabWrite (vout : Option (BitVec 8)) (status : BitVec 16) (mv : BitVec 10)
  /-- GPIO_EDGE (R423): A selected edge on a GPIO sets its event bit. -/
  | gpioEdge (g : Fin 8) (high : Bool)
  /-- PRESENCE_PRESS (R433): A debounced press opens or restarts the presence window and may wake the device. -/
  | presencePress
  /-- PRESENCE_WINDOW_END (R433): The presence window expires. -/
  | presenceWindowEnd
  /-- JUMPER (R434): PRESENCE_N held low for 10 min is recognised as a jumper. -/
  | jumper
  /-- SEAL_BREAK (R436): SEAL high for 10 ms records a break and may end the unlock session. -/
  | sealBreak (high : Bool)
  /-- SEAL_CLR (R436): A write of SEC_CTL.SEAL_CLR clears SEAL_BROKEN when allowed. -/
  | sealClr
  /-- RELOCK (R432): A write of SEC_CTL.RELOCK ends the unlock session. -/
  | relock
  /-- NONCE_EXPIRY (R429): An unlock nonce expires 120 s after its challenge. -/
  | nonceExpiry
  /-- LOCKOUT_END (R431): The 15-minute unlock lockout ends and FAILS returns to 0. -/
  | lockoutEnd
  /-- SEC_FPROG_GO (R437): A write of SEC_FPROG with GO and the key programs an eFuse target, or is refused. -/
  | secFprogGo (v : Word)
  /-- FPROG_DONE (R437): An eFuse program completes, is read back and reports its result. -/
  | fprogDone (ok : Bool)
  /-- SHELF_REWRITE (R102): The stewards finish rewriting an invalid shelf copy from the image in flash, which clears SHELF_STALE and lets a held relocation reload. -/
  | shelfRewrite (L : Fin 10)
  /-- PCS_LOCK (R266): A searching or receive-lost chain port gains PCS lock, the node keeps that rate, and the port enters HELLO. -/
  | pcsLock (p : Fin 2)
  /-- RATIO_CLASS_CHANGE (R247): A lane's ratio stays more than 0.5 % past a class boundary for 20 ms, so the device starts or queues a background table build and sets REBUILD. -/
  | ratioClassChange (q : Fin 96) (ratio : BitVec 24)
  /-- FRAME_SYNC_EDGE (R250): A SAP frame-sync edge starts a frame: the port restarts its slot count, applies staged masks, starts a slave port after EN, and updates its rate measurement, QUAL and OFFRATE. -/
  | frameSyncEdge (n : Fin 2) (seen : FrameSeen) (rate10 : Nat) (wires : List Nat)
  /-- TEST_GRANT_TIMEOUT (R304): 20 ms after a link-test grant with no TEST_DONE report, the master sends the next queued grant. -/
  | testGrantTimeout
  /-- PRESENCE_RELEASE (R433): PRESENCE_N rises after being held low, which ends presence if the window has closed or the press had become a jumper. -/
  | presenceRelease
deriving DecidableEq, Repr

end Sys2Proof
end

