-- ==== Sys2Proof/Decode.lean ====
section
/-! DEFINITION. The word decoder asked for by the host. No row of spec/opcode_table.json gives its command bits: a
command is an event or an access, not an encoded word. So no word spells a command. -/

namespace Sys2Proof

/-- The command that the `nbits` bits of `w` spell by the opcode table: the table gives no row bits, so none. -/
def decodeTableWord (_nbits _w : Nat) : Option Instr := none

end Sys2Proof
end

