-- ==== Sys2Proof/Machine/Tab.lean ====
section
/-! DEFINITION. The one container of the model: a list of (key, value) pairs in canonical form. Keys rise strictly and
no entry holds what an unlisted key reads as, so that equal contents are equal data. The register bank, the byte
memories, the pools, the cascades and every indexed group of hidden state are such tables; what an unlisted key reads
as is the function `d` (the reset table for the bank, the erased byte for the flash). -/

namespace Sys2Proof.Machine

/-- A table from Nat keys to values, in canonical form. -/
abbrev Tab (α : Type) := List (Nat × α)

/-- The value at key `a`; an unlisted key reads as `d a`. -/
def tabGet {α : Type} (d : Nat → α) : Tab α → Nat → α
  | [], a => d a
  | (k, v) :: t, a => if k = a then v else tabGet d t a

/-- The table without an entry for `a`. -/
def tabErase {α : Type} (a : Nat) : Tab α → Tab α
  | [] => []
  | (k, v) :: t => if k = a then tabErase a t else (k, v) :: tabErase a t

/-- The entry (a, v) placed before the first greater key. -/
def tabInsert {α : Type} (a : Nat) (v : α) : Tab α → Tab α
  | [] => [(a, v)]
  | (k, w) :: t => if a < k then (a, v) :: (k, w) :: t else (k, w) :: tabInsert a v t

/-- The table with `v` at `a`: writing what an unlisted key reads as removes the entry. -/
def tabPut {α : Type} [DecidableEq α] (d : Nat → α) (m : Tab α) (a : Nat) (v : α) : Tab α :=
  if v = d a then tabErase a m else tabInsert a v (tabErase a m)

/-- The canonical form: keys above `lo` and strictly rising, no entry equal to the default. -/
def tabWfFrom {α : Type} [DecidableEq α] (d : Nat → α) : Nat → Tab α → Bool
  | _, [] => true
  | lo, (k, v) :: t => decide (lo ≤ k) && decide (v ≠ d k) && tabWfFrom d (k + 1) t

/-- The canonical form of a table. -/
def tabWf {α : Type} [DecidableEq α] (d : Nat → α) (m : Tab α) : Bool := tabWfFrom d 0 m

/-- Consecutive puts of a list of values from key `a` upward. -/
def tabPutList {α : Type} [DecidableEq α] (d : Nat → α) : Tab α → Nat → List α → Tab α
  | m, _, [] => m
  | m, a, v :: vs => tabPutList d (tabPut d m a v) (a + 1) vs

/-- The values at `n` consecutive keys from `a`. -/
def tabRange {α : Type} (d : Nat → α) (m : Tab α) (a n : Nat) : List α :=
  (List.range n).map fun i => tabGet d m (a + i)

end Sys2Proof.Machine
end

