-- ==== Sys2Proof/Machine/Codec.lean ====
section
/-! DEFINITION. Bytes and check codes: little-endian words (R357 and the image, chain and ledger layouts), CRC-32
(R127), CRC-8 (R343) and CRC-16 (R273). -/

namespace Sys2Proof.Machine

/-- A number from bytes, least significant first. -/
def leNat : List Byte → Nat
  | [] => 0
  | b :: bs => b.toNat + 256 * leNat bs

/-- `n` bytes of a number, least significant first. -/
def leBytes : Nat → Nat → List Byte
  | 0, _ => []
  | n + 1, v => BitVec.ofNat 8 v :: leBytes n (v / 256)

/-- The number at byte offset `off` of width `n` bytes, least significant first; bytes past the end read 0. -/
def leAt (bs : List Byte) (off n : Nat) : Nat := leNat ((bs.drop off).take n)

/-- The byte at an offset; past the end 0. -/
def byteAt (bs : List Byte) (off : Nat) : Nat := (bs.getD off 0).toNat

/-- The bytes of words, least significant first. -/
def wordsBytes (ws : List Word) : List Byte := (ws.map fun w => leBytes 4 w.toNat).flatten

/-- Words from bytes, least significant first; a last part word is dropped. -/
def bytesWords : List Byte → List Word
  | a :: b :: c :: d :: rest => BitVec.ofNat 32 (leNat [a, b, c, d]) :: bytesWords rest
  | _ => []

/-- A sign-extended value of `w` bits. -/
def sext (w v : Nat) : Int := if v % 2 ^ w < 2 ^ (w - 1) then (v % 2 ^ w : Nat) else (v % 2 ^ w : Nat) - (2 ^ w : Nat)

/-- One bit of the reflected CRC-32 (R127). -/
def crc32Bit : Nat → Nat → Nat
  | 0, c => c
  | n + 1, c => crc32Bit n (if c % 2 = 1 then (c / 2) ^^^ 0xEDB88320 else c / 2)

/-- CRC-32 of R127: reflected polynomial 0x04C1_1DB7, initial value and final XOR all ones. -/
def crc32 (bs : List Byte) : Nat := (bs.foldl (fun c b => crc32Bit 8 (c ^^^ b.toNat)) 0xFFFFFFFF) ^^^ 0xFFFFFFFF

/-- One bit of a CRC taken most significant bit first. -/
def crcMsbBit (w poly : Nat) : Nat → Nat → Nat
  | 0, c => c
  | n + 1, c => crcMsbBit w poly n (if c / 2 ^ (w - 1) % 2 = 1 then (2 * c % 2 ^ w) ^^^ poly else 2 * c % 2 ^ w)

/-- CRC-8 of R343: polynomial 0x07, initial value 0, most significant bit first. -/
def crc8 (bs : List Byte) : Nat := bs.foldl (fun c b => crcMsbBit 8 0x07 8 (c ^^^ b.toNat)) 0

/-- CRC-16 of R273: polynomial 0x1021, initial value 0xFFFF, no reflection. -/
def crc16 (bs : List Byte) : Nat := bs.foldl (fun c b => crcMsbBit 16 0x1021 8 (c ^^^ (b.toNat * 256))) 0xFFFF

end Sys2Proof.Machine
end

