-- ==== Sys2Proof/Config.lean ====
section
/-! DEFINITION. What a particular part fixes (fused values, R442), and the free values: constants without a body for
what the spec leaves open. Nothing can be proved about a value here beyond what its use adds. -/

namespace Sys2Proof

/-- DEV_ID.REV, fused (R2). -/
opaque Config.revision : BitVec 8

/-- The temperature grade: true for grade I, false for grade C (R1, R2). -/
opaque Config.gradeI : Bool

/-- Word `n` of DEV_UID, fused (R3). -/
opaque Config.uidWord : Nat → Word

/-- STEW_MARGIN.EXP, fused (R442). -/
opaque Config.marginExp : BitVec 7

/-- STEW_VFAB.SLOPE, fused (R442). -/
opaque Config.vfabSlope : BitVec 8

/-- Free value number `n`: a value the spec leaves open, a new one at each draw (State.free counts them). -/
opaque Config.free : Nat → Word

/-- What a reserved operand code reads as, by code and by draw: refused at load, and given no value when a raw window
brings it in (R105). -/
opaque Config.reservedOperand : Nat → Nat → Word

/-- Whether an inexact quotient `num / den` is rounded up, where the spec does not say how a result is rounded. -/
opaque Config.roundUp : Int → Int → Bool

/-- The excursion gain reduction shown in 0.5 dB steps for a gain in units of 2^-16: the spec gives the unit, not the
rounding of the logarithm (PSC_MODEL.GR_X). -/
opaque Config.gainReduction : Nat → Nat

/-- The factor of `d` thousandths of a dB in units of 2^-16: the spec makes the digital gain ramp linear in dB (R168) and
does not state how its factor is rounded. -/
opaque Config.dbGain : Int → Nat

/-- The first-order high-pass filter of AIN_CHk_CFG.HPF at a rate code (R173): its output from the present input, the input before and the output
before; the spec gives the corner and the order, not the coefficients. -/
opaque Config.highPass : Nat → Nat → Int → Int → Int → Int

/-- The interpolation filter of an output at a rate code (R185), linear-phase where `linear`: from its memory, 0 at a restart, and the next sample
the memory after it and the output, both in units of 2^-31; the spec gives passband, ripple, stopband and delay, not the coefficients. -/
opaque Config.interpolate : Bool → Nat → Nat → Int → Nat × Int

/-- The minimum-phase filter that brings the input of a power-stage channel to the loop rate (R211) at a rate code: its memory after the next
sample, in units of 2^-31, and the input at a loop sample of the tick; the spec gives the delay, not the coefficients. -/
opaque Config.upsample : Nat → Nat → Int → Nat
opaque Config.upsampled : Nat → Nat → Nat → Int

/-- The second-order low-pass of the excursion model (R239) in a family, at a resonance in 0.1 Hz and a quality factor in 0.001: its output from the
input and the last two outputs; the spec gives the filter, not how it is computed at the loop rate. -/
opaque Config.excursionFilter : Nat → Nat → Nat → Int → Int → Int → Int

/-- The polyphase filter of a lane (R247): its memory after another input sample, in units of 2^-31, and, of a class, with FAST or without, at a
ratio in units of 2^-20, the memory after a tick and the output, GD + 2 ticks behind the input (R248); the spec gives band edges and ripple, not the
coefficients. -/
opaque Config.laneInput : Nat → Int → Nat
opaque Config.laneOutput : Nat → Bool → Nat → Nat → Nat × Int

/-- The decimator of a beam (R310) at a PDM clock in Hz and a rate code: from its memory, 0 when the settings switch, and the streams of its member
microphones of this tick with their delays in PDM periods the memory after it and the average of the delayed members at the tick rate, in units of
2^-31; the spec gives passband and latency, not the coefficients. -/
opaque Config.beamFilter : Nat → Nat → Nat → List (Nat × Word) → Nat × Int

/-- W1's energy of a 10 ms frame of a microphone in the detector's band, by LSN_W1CFG.MODE, in units of 0.005 dB, and whether the voice band dominates
it (R313). -/
opaque Config.w1Energy : Nat → Nat → Nat → Int
opaque Config.w1Voice : Nat → Nat → Bool

/-- A byte of the feature frame with the given number (R312): the energy that microphones, with their delays, bring in a band. -/
opaque Config.feature : List (Nat × Nat) → Nat → Nat → Byte

/-- This node's residence in ns at a link rate code with FEC off or on: constant, and below the bound of R277; the table
gives a typical figure only. -/
opaque Config.residence : Nat → Bool → Nat

/-- The external gauge reference on VREFG, in mV (R322): the board fixes it. -/
opaque Config.extRefMv : Nat

/-- Pelturath's patch key in ROM, as its point (R136). -/
opaque Config.romKey : Nat × Nat

/-- The PATCH_LEVEL of the ROM (R141). -/
opaque Config.romPatchLevel : Nat

/-- DEV_ID.GRADE: 0x01 for C and 0x02 for I (R2). -/
def Config.gradeCode : Word := if Config.gradeI then 0x02 else 0x01

/-- The reset word of STEW_POL_THERM, by grade (R441). -/
def Config.thermReset : Word := if Config.gradeI then 0x007A766E else 0x007A6C64

end Sys2Proof
end

