-- ==== Sys2Proof/Machine/Registers.lean ====
section
/-! DEFINITION. The register map of 24_register_index.md (R440): one row for each register or register array,
with the bits of each field type of R6, the reset word of R441 and the power domain that R15 asks about; and one name
for each field of the field tables. Addresses, field places and resets are the field tables' own. -/

namespace Sys2Proof.Machine

/-- The eight power domains of R19 (01_architecture.md), in the bit order of PWRM_STAT.DOM_ON. -/
inductive Dom where
  | aon | sys | fab | chn | ain | aout | pst | lsn
deriving DecidableEq, Repr

/-- A register field: the register's byte address, its lowest bit and its width in bits. -/
structure Fld where
  addr : Nat
  lo : Nat
  width : Nat
deriving DecidableEq, Repr

/-- A register array of R440: first address, two index ranges with their strides, the bits of each type of R6
(bits in none of them are reserved, R7), the reset word of R441 and the power domain. -/
structure RegRow where
  base : Nat
  count1 : Nat
  stride1 : Nat
  count2 : Nat
  stride2 : Nat
  rw : Word
  ro : Word
  wo : Word
  w1c : Word
  tc : Word
  reset : Word
  dom : Dom
deriving DecidableEq, Repr

/-- Rows of block DEV (R440). -/
def rowsDev : List RegRow := [
  ⟨0x0, 1, 0x1000000, 1, 0x1000000, 0x0, 0xFFFFFFFF, 0x0, 0x0, 0x0, (0x48960000 ||| (Config.revision.zeroExtend 32 <<< 8) ||| Config.gradeCode), .sys⟩,  -- DEV_ID
  ⟨0x10, 1, 0x1000000, 1, 0x1000000, 0x0, 0xFFFFFFFF, 0x0, 0x0, 0x0, (Config.uidWord 0), .sys⟩,  -- DEV_UIDn
  ⟨0x14, 1, 0x1000000, 1, 0x1000000, 0x0, 0xFFFFFFFF, 0x0, 0x0, 0x0, (Config.uidWord 1), .sys⟩,  -- DEV_UIDn
  ⟨0x18, 1, 0x1000000, 1, 0x1000000, 0x0, 0xFFFFFFFF, 0x0, 0x0, 0x0, (Config.uidWord 2), .sys⟩,  -- DEV_UIDn
  ⟨0x1C, 1, 0x1000000, 1, 0x1000000, 0x0, 0xFFFFFFFF, 0x0, 0x0, 0x0, (Config.uidWord 3), .sys⟩,  -- DEV_UIDn
  ⟨0x40, 1, 0x1000000, 1, 0x1000000, 0x0, 0xFFFFFFFF, 0x0, 0x0, 0x0, 0x0, .sys⟩,  -- DEV_TICK_LO
  ⟨0x44, 1, 0x1000000, 1, 0x1000000, 0x0, 0xFFFF, 0x0, 0x0, 0x0, 0x0, .sys⟩,  -- DEV_TICK_HI
  ⟨0x48, 1, 0x1000000, 1, 0x1000000, 0x0, 0x80003FFF, 0x0, 0x0, 0x0, 0x0, .sys⟩,  -- DEV_TICK_PHASE
  ⟨0x4C, 1, 0x1000000, 1, 0x1000000, 0x0, 0x0, 0x0, 0x0, 0x7, 0x1, .sys⟩,  -- DEV_TICK_CTL
  ⟨0x50, 1, 0x1000000, 1, 0x1000000, 0x0, 0x0, 0x3, 0x0, 0x0, 0x0, .sys⟩,  -- DEV_COMMIT
  ⟨0x54, 1, 0x1000000, 1, 0x1000000, 0xFFFFFFFF, 0x0, 0x0, 0x0, 0x0, 0x0, .sys⟩,  -- DEV_COMMIT_AT_LO
  ⟨0x58, 1, 0x1000000, 1, 0x1000000, 0xFFFF, 0x0, 0x0, 0x0, 0x0, 0x0, .sys⟩,  -- DEV_COMMIT_AT_HI
  ⟨0x5C, 1, 0x1000000, 1, 0x1000000, 0x0, 0x71C, 0x0, 0x3, 0x0, 0x0, .sys⟩,  -- DEV_COMMIT_STAT
  ⟨0x60, 1, 0x1000000, 1, 0x1000000, 0x0, 0xFFFFFFFF, 0x0, 0x0, 0x0, 0x0, .sys⟩,  -- DEV_COMMIT_LAST_LO
  ⟨0x64, 1, 0x1000000, 1, 0x1000000, 0x0, 0xFFFF, 0x0, 0x0, 0x0, 0x0, .sys⟩,  -- DEV_COMMIT_LAST_HI
  ⟨0x80, 1, 0x1000000, 1, 0x1000000, 0x0, 0xFFF001FF, 0x0, 0x0, 0x0, 0x0, .sys⟩,  -- DEV_IMG_STAT
  ⟨0x84, 1, 0x1000000, 1, 0x1000000, 0x0, 0xFFFFFFFF, 0x0, 0x0, 0x0, 0x0, .sys⟩,  -- DEV_IMG_DETAIL
  ⟨0x88, 1, 0x1000000, 1, 0x1000000, 0x0, 0xFFFFFFFF, 0x0, 0x0, 0x0, 0x0, .sys⟩,  -- DEV_IMG_ID
  ⟨0x8C, 1, 0x1000000, 1, 0x1000000, 0x0, 0xFFFF, 0x0, 0x0, 0x0, 0x0, .sys⟩,  -- DEV_IMG_VER
  ⟨0x90, 1, 0x1000000, 1, 0x1000000, 0x0, 0xFFFF0013, 0x0, 0x0, 0x0, 0x3, .sys⟩,  -- DEV_IMG_BOOT
  ⟨0xA0, 1, 0x1000000, 1, 0x1000000, 0x0, 0xFFFF0F03, 0x0, 0x0, 0x0, 0x0, .sys⟩,  -- DEV_SVC
  ⟨0xA4, 1, 0x1000000, 1, 0x1000000, 0x0, 0xFFFFFF03, 0x0, 0x0, 0x0, 0x0, .sys⟩  -- DEV_MBX_DONE
  ]

/-- Rows of block CLK (R440). -/
def rowsClk : List RegRow := [
  ⟨0x10000, 1, 0x1000000, 1, 0x1000000, 0x0, 0x3F, 0x0, 0x0, 0x0, 0x0, .sys⟩,  -- CLK_STAT
  ⟨0x10004, 1, 0x1000000, 1, 0x1000000, 0x0, 0x0, 0x0, 0x3FF, 0x0, 0x0, .sys⟩,  -- CLK_EVT
  ⟨0x10008, 1, 0x1000000, 1, 0x1000000, 0x0, 0x0, 0xF, 0x0, 0x0, 0x0, .sys⟩,  -- CLK_PLL_UPD
  ⟨0x10100, 1, 0x1000000, 4, 0x40, 0x2, 0x1, 0x0, 0x0, 0x0, 0x1, .sys⟩,  -- CLK_PLLx_CTL
  ⟨0x10104, 1, 0x1000000, 1, 0x40, 0x1FF, 0x0, 0x0, 0x0, 0x0, 0x80, .sys⟩,  -- CLK_PLLx_INT
  ⟨0x10144, 1, 0x1000000, 1, 0x40, 0x1FF, 0x0, 0x0, 0x0, 0x0, 0x82, .sys⟩,  -- CLK_PLLx_INT
  ⟨0x10184, 1, 0x1000000, 1, 0x40, 0x1FF, 0x0, 0x0, 0x0, 0x0, 0x1A3, .sys⟩,  -- CLK_PLLx_INT
  ⟨0x101C4, 1, 0x1000000, 1, 0x40, 0x1FF, 0x0, 0x0, 0x0, 0x0, 0x80, .sys⟩,  -- CLK_PLLx_INT
  ⟨0x10108, 1, 0x1000000, 1, 0x40, 0xFFFFFF, 0x0, 0x0, 0x0, 0x0, 0x0, .sys⟩,  -- CLK_PLLx_NUM
  ⟨0x10148, 1, 0x1000000, 1, 0x40, 0xFFFFFF, 0x0, 0x0, 0x0, 0x0, 0x5, .sys⟩,  -- CLK_PLLx_NUM
  ⟨0x10188, 1, 0x1000000, 1, 0x40, 0xFFFFFF, 0x0, 0x0, 0x0, 0x0, 0x4EF, .sys⟩,  -- CLK_PLLx_NUM
  ⟨0x101C8, 1, 0x1000000, 1, 0x40, 0xFFFFFF, 0x0, 0x0, 0x0, 0x0, 0x0, .sys⟩,  -- CLK_PLLx_NUM
  ⟨0x1010C, 1, 0x1000000, 1, 0x40, 0xFFFFFF, 0x0, 0x0, 0x0, 0x0, 0x1, .sys⟩,  -- CLK_PLLx_DEN
  ⟨0x1014C, 1, 0x1000000, 1, 0x40, 0xFFFFFF, 0x0, 0x0, 0x0, 0x0, 0x18, .sys⟩,  -- CLK_PLLx_DEN
  ⟨0x1018C, 1, 0x1000000, 1, 0x40, 0xFFFFFF, 0x0, 0x0, 0x0, 0x0, 0x800, .sys⟩,  -- CLK_PLLx_DEN
  ⟨0x101CC, 1, 0x1000000, 1, 0x40, 0xFFFFFF, 0x0, 0x0, 0x0, 0x0, 0x1, .sys⟩,  -- CLK_PLLx_DEN
  ⟨0x10110, 1, 0x1000000, 1, 0x40, 0xFFFFFF7F, 0x0, 0x0, 0x0, 0x0, 0x400428, .sys⟩,  -- CLK_PLLx_LOCK
  ⟨0x10150, 1, 0x1000000, 3, 0x40, 0xFFFFFF7F, 0x0, 0x0, 0x0, 0x0, 0x4000802, .sys⟩,  -- CLK_PLLx_LOCK
  ⟨0x10114, 1, 0x1000000, 4, 0x40, 0x0, 0xFFFFFF03, 0x0, 0x0, 0x0, 0x0, .sys⟩,  -- CLK_PLLx_STAT
  ⟨0x10118, 1, 0x1000000, 4, 0x40, 0x0, 0xFF, 0x80000000, 0x0, 0x0, 0x0, .sys⟩,  -- CLK_PLLx_CACHE
  ⟨0x10200, 1, 0x1000000, 1, 0x1000000, 0x0, 0x0, 0x0, 0x0, 0xFFF, 0x5, .sys⟩,  -- CLK_PLLA_SRC
  ⟨0x10204, 1, 0x1000000, 1, 0x1000000, 0x0, 0x0, 0x0, 0x0, 0xFFFFFFFE, 0xA000026, .sys⟩,  -- CLK_PLLA_POL
  ⟨0x10208, 1, 0x1000000, 1, 0x1000000, 0x0, 0x1FE7, 0x0, 0x0, 0x0, 0xA4, .sys⟩,  -- CLK_PLLA_REFST
  ⟨0x1020C, 1, 0x1000000, 1, 0x1000000, 0x0, 0xFFFFFFFF, 0x0, 0x0, 0x0, 0x0, .sys⟩,  -- CLK_PLLA_TRIM
  ⟨0x10210, 1, 0x1000000, 1, 0x1000000, 0x0, 0xFFFFFFFF, 0x0, 0x0, 0x0, 0x7, .sys⟩,  -- CLK_WCLK_STAT
  ⟨0x10214, 1, 0x1000000, 1, 0x1000000, 0x7, 0x0, 0x0, 0x0, 0x0, 0x0, .sys⟩  -- CLK_WCLKO_CTL
  ]

/-- Rows of block XING (R440). -/
def rowsXing : List RegRow := [
  ⟨0x20000, 1, 0x1000000, 1, 0x1000000, 0x0, 0x0, 0x0, 0x7, 0x0, 0x0, .sys⟩,  -- XING_EVT
  ⟨0x20004, 1, 0x1000000, 1, 0x1000000, 0x0, 0xFFFF011F, 0x0, 0x0, 0x0, 0x0, .sys⟩,  -- XING_TMO_LOG
  ⟨0x20100, 1, 0x1000000, 28, 0x4, 0x8000FFFF, 0x0, 0x0, 0x0, 0x0, 0xFFFF, .sys⟩,  -- XING_CFGn
  ⟨0x20200, 1, 0x1000000, 28, 0x4, 0x0, 0xE000007F, 0x0, 0x18000000, 0x0, 0x0, .sys⟩,  -- XING_STATn
  ⟨0x20300, 1, 0x1000000, 28, 0x4, 0x0, 0xFFFFFFFF, 0x0, 0x0, 0x0, 0x0, .sys⟩  -- XING_DROPn
  ]

/-- Rows of block FAB (R440). -/
def rowsFab : List RegRow := [
  ⟨0x100000, 1, 0x1000000, 10, 0x1000, 0x0, 0x0, 0x0, 0x0, 0x1, 0x0, .fab⟩,  -- FAB_Bb_CTL
  ⟨0x100004, 1, 0x1000000, 8, 0x1000, 0x0, 0xF00FF807, 0x0, 0x0, 0x0, 0xF0000000, .fab⟩,  -- FAB_Bb_STAT
  ⟨0x108004, 1, 0x1000000, 2, 0x1000, 0x0, 0xF00FF807, 0x0, 0x0, 0x0, 0xF0000001, .fab⟩,  -- FAB_Bb_STAT
  ⟨0x100008, 1, 0x1000000, 10, 0x1000, 0x0, 0x7FF7FFF, 0x0, 0x0, 0x0, 0x0, .fab⟩,  -- FAB_Bb_STATE
  ⟨0x10000C, 1, 0x1000000, 10, 0x1000, 0x0, 0x0, 0x0, 0x0, 0xFFFFFFFF, 0x0, .fab⟩,  -- FAB_Bb_TBLSEL
  ⟨0x100010, 10, 0x1000, 4, 0x4, 0x0, 0x7FFF, 0x0, 0x0, 0x0, 0x0, .fab⟩,  -- FAB_Bb_COSTj
  ⟨0x100020, 1, 0x1000000, 10, 0x1000, 0x0, 0xFFFFFFFF, 0x0, 0x0, 0x0, 0x0, .fab⟩,  -- FAB_Bb_CKPT
  ⟨0x100100, 10, 0x1000, 32, 0x8, 0x0, 0xFFFF7FFF, 0x0, 0x0, 0x0, 0x0, .fab⟩,  -- FAB_Bb_TDESCt
  ⟨0x100104, 10, 0x1000, 32, 0x8, 0x0, 0x7FFF, 0x0, 0x0, 0x0, 0x0, .fab⟩,  -- FAB_Bb_TLENt
  ⟨0x10F004, 1, 0x1000000, 1, 0x1000000, 0x0, 0x0, 0x0, 0x3F, 0x0, 0x0, .fab⟩,  -- FAB_EVT
  ⟨0x10F008, 1, 0x1000000, 1, 0x1000000, 0x0, 0x3F, 0x0, 0x0, 0x0, 0x8, .fab⟩,  -- FAB_RESV
  ⟨0x10F040, 1, 0x1000000, 10, 0x4, 0x0, 0x0, 0x0, 0x0, 0x8000000F, 0x0, .fab⟩,  -- FAB_MAPL
  ⟨0x10F080, 1, 0x1000000, 1, 0x1000000, 0xF, 0x0, 0x0, 0x0, 0x0, 0x0, .fab⟩,  -- FAB_WIN_SEL
  ⟨0x10F100, 1, 0x1000000, 1, 0x1000000, 0x81FFFFFC, 0x0, 0x0, 0x0, 0x0, 0x80000000, .sys⟩,  -- FAB_CIS_ADDR
  ⟨0x10F104, 1, 0x1000000, 1, 0x1000000, 0xFFFFFFFF, 0x0, 0x0, 0x0, 0x0, 0x0, .sys⟩,  -- FAB_CIS_DATA
  ⟨0x10F108, 1, 0x1000000, 1, 0x1000000, 0x0, 0x1, 0x0, 0x2, 0x0, 0x0, .sys⟩,  -- FAB_CIS_STAT
  ⟨0x10F10C, 1, 0x1000000, 1, 0x1000000, 0x0, 0xFFFFFFFF, 0x0, 0x0, 0x0, 0x0, .sys⟩,  -- FAB_CIS_ECC
  ⟨0x10F110, 1, 0x1000000, 1, 0x1000000, 0x0, 0x1FFFFF8, 0x0, 0x0, 0x0, 0x0, .sys⟩,  -- FAB_CIS_UEADDR
  ⟨0x10F140, 1, 0x1000000, 4, 0x4, 0x0, 0x7F7F7F7F, 0x0, 0x0, 0x0, 0x0, .sys⟩,  -- FAB_CIS_SPAREn
  ⟨0x100200, 10, 0x1000, 32, 0x4, 0x0, 0xFFFFFFFF, 0x0, 0x0, 0x0, 0x0, .fab⟩,  -- FAB_Bb_METERm
  ⟨0x10F00C, 1, 0x1000000, 1, 0x1000000, 0x0, 0x0, 0x0, 0x1F, 0x0, 0x0, .fab⟩,  -- FAB_HO_EVT
  ⟨0x10F010, 1, 0x1000000, 1, 0x1000000, 0x0, 0xFFFF0003, 0x0, 0x0, 0x0, 0x0, .fab⟩,  -- FAB_RELOC
  ⟨0x10F014, 1, 0x1000000, 1, 0x1000000, 0x0, 0x7F, 0x0, 0x0, 0x0, 0x0, .fab⟩,  -- FAB_HO_DEF
  ⟨0x10F200, 1, 0x1000000, 4, 0x80, 0x387F0000, 0xFF0F, 0x80000000, 0x0, 0x0, 0x0, .fab⟩,  -- FAB_HOh_CTL
  ⟨0x10F204, 1, 0x1000000, 4, 0x80, 0x0, 0xFFFF0003, 0x0, 0x0, 0x0, 0x0, .fab⟩,  -- FAB_HOh_STAT
  ⟨0x10F240, 4, 0x80, 16, 0x4, 0xFFFFFFFF, 0x0, 0x0, 0x0, 0x0, 0x0, .fab⟩,  -- FAB_HOh_SMAPe
  ⟨0x100030, 1, 0x1000000, 10, 0x1000, 0x0, 0xFFFFFFFF, 0x0, 0x0, 0x0, 0x0, .fab⟩,  -- FAB_Bb_TCOMPA
  ⟨0x100034, 1, 0x1000000, 10, 0x1000, 0x0, 0xFFFFFFFF, 0x0, 0x0, 0x0, 0x0, .fab⟩,  -- FAB_Bb_TCOMPB
  ⟨0x100038, 1, 0x1000000, 10, 0x1000, 0x0, 0xFFFFFFFF, 0x0, 0x0, 0x0, 0x0, .fab⟩,  -- FAB_Bb_TWAIT
  ⟨0x10003C, 1, 0x1000000, 10, 0x1000, 0x0, 0x0, 0x8000001F, 0x0, 0x0, 0x0, .fab⟩  -- FAB_Bb_TMARK
  ]

/-- Rows of block RX (R440). -/
def rowsRx : List RegRow := [
  ⟨0x110000, 1, 0x1000000, 96, 0x4, 0x0, 0x0, 0x0, 0x0, 0x8FFF0FFF, 0x0, .fab⟩,  -- RX_ROUTEk
  ⟨0x110200, 1, 0x1000000, 1, 0x1000000, 0x0, 0xFF, 0x0, 0x0, 0x0, 0x0, .fab⟩,  -- RX_STAT
  ⟨0x110204, 1, 0x1000000, 1, 0x1000000, 0x0, 0x0, 0x0, 0x7, 0x0, 0x0, .fab⟩  -- RX_EVT
  ]

/-- Rows of block AIN (R440). -/
def rowsAin : List RegRow := [
  ⟨0x140000, 1, 0x1000000, 1, 0x1000000, 0x0, 0x7, 0x0, 0x0, 0x0, 0x0, .ain⟩,  -- AIN_STAT
  ⟨0x140004, 1, 0x1000000, 1, 0x1000000, 0x0, 0x0, 0x0, 0x3F, 0x0, 0x0, .ain⟩,  -- AIN_EVT
  ⟨0x140008, 1, 0x1000000, 1, 0x1000000, 0x0, 0x0, 0x0, 0xFFFF, 0x0, 0x0, .ain⟩,  -- AIN_CLIP
  ⟨0x14000C, 1, 0x1000000, 1, 0x1000000, 0x0, 0x0, 0x0, 0xFFFF, 0x0, 0x0, .ain⟩,  -- AIN_OVL
  ⟨0x140010, 1, 0x1000000, 1, 0x1000000, 0x0, 0xFFFFFFFF, 0x0, 0x0, 0x0, 0x0, .ain⟩,  -- AIN_LIVE
  ⟨0x140014, 1, 0x1000000, 1, 0x1000000, 0xFFFF, 0x0, 0x0, 0x0, 0x0, 0x64, .ain⟩,  -- AIN_HOLD
  ⟨0x140018, 1, 0x1000000, 1, 0x1000000, 0x0, 0x0, 0xFFFF, 0x0, 0x0, 0x0, .ain⟩,  -- AIN_CALCTL
  ⟨0x14001C, 1, 0x1000000, 1, 0x1000000, 0x0, 0xFFFFFFFF, 0x0, 0x0, 0x0, 0x0, .ain⟩,  -- AIN_CALST
  ⟨0x140040, 1, 0x1000000, 8, 0x4, 0x0, 0x0, 0x0, 0x0, 0xC0FFFFFF, 0x320000, .ain⟩,  -- AIN_PHGRPg
  ⟨0x140100, 1, 0x1000000, 16, 0x10, 0x0, 0x0, 0x0, 0x0, 0xFFF37F, 0x140006, .ain⟩,  -- AIN_CHk_CFG
  ⟨0x140104, 1, 0x1000000, 16, 0x10, 0x0, 0xFF07, 0x0, 0x0, 0x0, 0x0, .ain⟩,  -- AIN_CHk_STAT
  ⟨0x140108, 1, 0x1000000, 16, 0x10, 0x0, 0xFFFFFFFF, 0x0, 0x0, 0x0, 0x0, .ain⟩,  -- AIN_CHk_MATCH
  ⟨0x14010C, 1, 0x1000000, 16, 0x10, 0x0, 0xFFFFFFFF, 0x0, 0x0, 0x0, 0x0, .ain⟩  -- AIN_CHk_CNT
  ]

/-- Rows of block AOUT (R440). -/
def rowsAout : List RegRow := [
  ⟨0x150000, 1, 0x1000000, 1, 0x1000000, 0x0, 0xF, 0x0, 0x0, 0x0, 0x0, .aout⟩,  -- AOUT_STAT
  ⟨0x150004, 1, 0x1000000, 1, 0x1000000, 0x0, 0x0, 0x0, 0xF, 0x0, 0x0, .aout⟩,  -- AOUT_EVT
  ⟨0x150008, 1, 0x1000000, 1, 0x1000000, 0x3, 0x0, 0x80000000, 0x0, 0x0, 0x0, .aout⟩,  -- AOUT_CTL
  ⟨0x15000C, 1, 0x1000000, 1, 0x1000000, 0x0, 0x0, 0xFFFF, 0x0, 0x0, 0x0, .aout⟩,  -- AOUT_CALCTL
  ⟨0x150010, 1, 0x1000000, 1, 0x1000000, 0x0, 0xFFFFFFFF, 0x0, 0x0, 0x0, 0x0, .aout⟩,  -- AOUT_CALST
  ⟨0x150040, 1, 0x1000000, 16, 0x4, 0x0, 0x0, 0x0, 0x0, 0xFFFFFF, 0x0, .aout⟩,  -- AOUT_CLRCODEk
  ⟨0x150100, 1, 0x1000000, 16, 0x10, 0x0, 0x0, 0x0, 0x0, 0xFFFF00E3, 0x0, .aout⟩,  -- AOUT_CHk_CFG
  ⟨0x150104, 1, 0x1000000, 16, 0x10, 0x0, 0x0, 0x0, 0x0, 0xFFFFF, 0x1000, .aout⟩,  -- AOUT_CHk_SLEWT
  ⟨0x150108, 1, 0x1000000, 16, 0x10, 0x0, 0x0, 0x0, 0x0, 0xFFFFF, 0xFFF00, .aout⟩,  -- AOUT_CHk_SLEWS
  ⟨0x15010C, 1, 0x1000000, 16, 0x10, 0x0, 0xFFFF0007, 0x0, 0x0, 0x0, 0x0, .aout⟩  -- AOUT_CHk_STAT
  ]

/-- Rows of block HP (R440). -/
def rowsHp : List RegRow := [
  ⟨0x160000, 1, 0x1000000, 1, 0x1000000, 0x0, 0x33, 0x0, 0x0, 0x0, 0x0, .aout⟩,  -- HP_STAT
  ⟨0x160004, 1, 0x1000000, 1, 0x1000000, 0x0, 0x0, 0x0, 0xFF, 0x0, 0x0, .aout⟩,  -- HP_EVT
  ⟨0x160008, 1, 0x1000000, 1, 0x1000000, 0xFF000F, 0x0, 0x0, 0x0, 0x0, 0x320000, .aout⟩,  -- HP_DETCFG
  ⟨0x160010, 1, 0x1000000, 1, 0x4, 0x83FF00FF, 0x0, 0x0, 0x0, 0x0, 0x80100018, .aout⟩,  -- HP_LIMTi
  ⟨0x160014, 1, 0x1000000, 1, 0x4, 0x83FF00FF, 0x0, 0x0, 0x0, 0x0, 0x8040000C, .aout⟩,  -- HP_LIMTi
  ⟨0x160018, 1, 0x1000000, 2, 0x4, 0x83FF00FF, 0x0, 0x0, 0x0, 0x0, 0x0, .aout⟩,  -- HP_LIMTi
  ⟨0x160100, 1, 0x1000000, 2, 0x20, 0x0, 0x0, 0x80000000, 0x0, 0x1, 0x0, .aout⟩,  -- HP_AMPn_CTL
  ⟨0x160104, 1, 0x1000000, 2, 0x20, 0x0, 0x0, 0x0, 0x0, 0xFFFF, 0xFFFF, .aout⟩,  -- HP_AMPn_VOL
  ⟨0x160108, 1, 0x1000000, 2, 0x20, 0x0, 0x3FF03FF, 0x0, 0x0, 0x0, 0x0, .aout⟩,  -- HP_AMPn_Z
  ⟨0x16010C, 1, 0x1000000, 2, 0x20, 0x0, 0xF0FFFF07, 0x0, 0x0, 0x0, 0x0, .aout⟩  -- HP_AMPn_STAT
  ]

/-- Rows of block PSC (R440). -/
def rowsPsc : List RegRow := [
  ⟨0x170000, 1, 0x1000000, 8, 0x400, 0x0, 0x0, 0x80000000, 0x0, 0xF1, 0x30, .pst⟩,  -- PSC_CTL
  ⟨0x170004, 1, 0x1000000, 8, 0x400, 0x0, 0xF3FC007, 0x0, 0x0, 0x0, 0x300000, .pst⟩,  -- PSC_STAT
  ⟨0x170008, 1, 0x1000000, 8, 0x400, 0x0, 0x0, 0x0, 0xFF, 0x0, 0x0, .pst⟩,  -- PSC_EVT
  ⟨0x17000C, 1, 0x1000000, 8, 0x400, 0x0, 0x0, 0x0, 0x0, 0xFF00FF, 0x320014, .pst⟩,  -- PSC_RAMP
  ⟨0x170010, 1, 0x1000000, 8, 0x400, 0x0, 0x0, 0x0, 0x0, 0xFFFFFF, 0x282828, .pst⟩,  -- PSC_DEADT
  ⟨0x170014, 1, 0x1000000, 8, 0x400, 0x0, 0x0, 0x0, 0x0, 0x3FF00FF, 0x3CD0028, .pst⟩,  -- PSC_MOD
  ⟨0x170020, 8, 0x400, 7, 0x4, 0x0, 0x0, 0x0, 0x0, 0xFFFFFFFF, 0x0, .pst⟩,  -- PSC_LFf_i
  ⟨0x170040, 8, 0x400, 7, 0x4, 0x0, 0x0, 0x0, 0x0, 0xFFFFFFFF, 0x0, .pst⟩,  -- PSC_LFf_i
  ⟨0x170060, 1, 0x1000000, 8, 0x400, 0x0, 0x0, 0x0, 0x0, 0xFFFFFFFF, 0x5014309D, .pst⟩,  -- PSC_FCBAL
  ⟨0x170064, 1, 0x1000000, 8, 0x400, 0x0, 0x0, 0x0, 0x0, 0xFFFFFFFF, 0x0, .pst⟩,  -- PSC_FCCAP
  ⟨0x170068, 1, 0x1000000, 8, 0x400, 0x0, 0xFFFFFFFF, 0x0, 0x0, 0x0, 0x0, .pst⟩,  -- PSC_FCEST
  ⟨0x17006C, 1, 0x1000000, 8, 0x400, 0x0, 0xFFFF, 0x0, 0x0, 0x0, 0x0, .pst⟩,  -- PSC_PVDD
  ⟨0x170070, 1, 0x1000000, 8, 0x400, 0x0, 0x0, 0x0, 0x0, 0xFFFFFFFF, 0x6661432, .pst⟩,  -- PSC_PRECHG
  ⟨0x170074, 1, 0x1000000, 8, 0x400, 0x0, 0x0, 0x0, 0x0, 0x3FFFFF, 0x40064, .pst⟩,  -- PSC_RDYCFG
  ⟨0x172000, 1, 0x1000000, 1, 0x1000000, 0x0, 0xFFFF, 0x0, 0x0, 0x0, 0x0, .pst⟩,  -- PSC_SUM
  ⟨0x170100, 1, 0x1000000, 8, 0x400, 0x0, 0x0, 0x0, 0x0, 0xFFFFF, 0x80564, .pst⟩,  -- PSC_ILIM
  ⟨0x170104, 1, 0x1000000, 8, 0x400, 0x0, 0x0, 0x0, 0x0, 0xFFFFFFFF, 0x33301F4, .pst⟩,  -- PSC_SCALE
  ⟨0x170108, 1, 0x1000000, 8, 0x400, 0x0, 0x0, 0x80000000, 0x0, 0x7FFFFFFF, 0xA0A0AC8, .pst⟩,  -- PSC_DCTEST
  ⟨0x17010C, 1, 0x1000000, 8, 0x400, 0x0, 0xF0FFFFFF, 0x0, 0x0, 0x0, 0x0, .pst⟩,  -- PSC_DCRES
  ⟨0x170110, 1, 0x1000000, 8, 0x400, 0x0, 0x0, 0x0, 0x0, 0xFFF7FFFF, 0x28300064, .pst⟩,  -- PSC_PILOT
  ⟨0x170114, 1, 0x1000000, 8, 0x400, 0x0, 0xFFFFFFFF, 0x0, 0x0, 0x0, 0x0, .pst⟩,  -- PSC_Z
  ⟨0x170118, 1, 0x1000000, 8, 0x400, 0x0, 0x0, 0x0, 0x0, 0xFFFFFFFF, 0x0, .pst⟩,  -- PSC_NTC
  ⟨0x17011C, 1, 0x1000000, 8, 0x400, 0x0, 0x0, 0x0, 0x3FF, 0x0, 0x0, .pst⟩,  -- PSC_PROT_EVT
  ⟨0x170120, 8, 0x400, 1, 0x400, 0x0, 0x0, 0x0, 0x0, 0xFFFFFF80, 0x1900, .pst⟩,  -- PSC_CABn
  ⟨0x170124, 8, 0x400, 1, 0x400, 0x0, 0x0, 0x0, 0x0, 0xFFFFFFFF, 0x0, .pst⟩,  -- PSC_CABn
  ⟨0x170128, 8, 0x400, 1, 0x400, 0x0, 0x0, 0x0, 0x0, 0xFFFFFFFF, 0x0, .pst⟩,  -- PSC_CABn
  ⟨0x17012C, 8, 0x400, 1, 0x400, 0x0, 0x0, 0x0, 0x0, 0xFFFFFFFF, 0x0, .pst⟩,  -- PSC_CABn
  ⟨0x170130, 8, 0x400, 1, 0x400, 0x0, 0x0, 0x0, 0x0, 0xFFFFFFFF, 0x0, .pst⟩,  -- PSC_CABn
  ⟨0x170134, 8, 0x400, 1, 0x400, 0x0, 0x0, 0x0, 0x0, 0xFFFFFFFF, 0x64, .pst⟩,  -- PSC_CABn
  ⟨0x170140, 1, 0x1000000, 8, 0x400, 0x0, 0xFF00FFFF, 0x0, 0x0, 0x0, 0x0, .pst⟩,  -- PSC_MODEL
  ⟨0x170144, 1, 0x1000000, 8, 0x400, 0x0, 0xFFFF, 0x0, 0x0, 0x0, 0x0, .pst⟩,  -- PSC_XPK
  ⟨0x172004, 1, 0x1000000, 1, 0x1000000, 0x0, 0x0, 0x0, 0x0, 0xFF00FFFF, 0x50000000, .pst⟩  -- PSC_CABSRC
  ]

/-- Rows of block ASRC (R440). -/
def rowsAsrc : List RegRow := [
  ⟨0x120000, 1, 0x1000000, 96, 0x10, 0x0, 0x0, 0x0, 0x0, 0xC000017F, 0x0, .fab⟩,  -- ASRC_LANEq_CFG
  ⟨0x120004, 1, 0x1000000, 96, 0x10, 0x0, 0xFFFFFFCF, 0x0, 0x0, 0x0, 0x0, .fab⟩,  -- ASRC_LANEq_STAT
  ⟨0x120800, 1, 0x1000000, 3, 0x4, 0x0, 0x0, 0x0, 0xFFFFFFFF, 0x0, 0x0, .fab⟩,  -- ASRC_UNLOCKn
  ⟨0x12080C, 1, 0x1000000, 1, 0x1000000, 0x0, 0x0, 0x0, 0xF, 0x0, 0x0, .fab⟩  -- ASRC_EVT
  ]

/-- Rows of block SAP (R440). -/
def rowsSap : List RegRow := [
  ⟨0x130000, 1, 0x1000000, 2, 0x100, 0x0, 0x0, 0x0, 0x0, 0xBCFFFC00, 0x619000, .fab⟩,  -- SAPn_CTL
  ⟨0x130010, 2, 0x100, 4, 0x4, 0xFFFFFFFF, 0x0, 0x0, 0x0, 0x0, 0x0, .fab⟩,  -- SAPn_RXMASKw
  ⟨0x130020, 2, 0x100, 4, 0x4, 0xFFFFFFFF, 0x0, 0x0, 0x0, 0x0, 0x0, .fab⟩,  -- SAPn_TXMASKw
  ⟨0x130030, 1, 0x1000000, 2, 0x100, 0x0, 0xFFFFC01F, 0x0, 0x0, 0x0, 0x0, .fab⟩,  -- SAPn_STAT
  ⟨0x130034, 1, 0x1000000, 2, 0x100, 0x0, 0x0, 0x0, 0x1F, 0x0, 0x0, .fab⟩,  -- SAPn_EVT
  ⟨0x130038, 1, 0x1000000, 2, 0x100, 0x0, 0xFFFFFFFF, 0x0, 0x0, 0x0, 0x0, .fab⟩  -- SAPn_SLIPCNT
  ]

/-- Rows of block CHAIN (R440). -/
def rowsChain : List RegRow := [
  ⟨0x1A0000, 1, 0x1000000, 1, 0x1000000, 0x0, 0x0, 0x0, 0x0, 0xFFFFE000, 0x10102000, .chn⟩,  -- CHAIN_LINK_POL
  ⟨0x1A0004, 1, 0x1000000, 1, 0x1000000, 0x0, 0x3FF01F3, 0x0, 0x0, 0x0, 0x0, .chn⟩,  -- CHAIN_LINK_STAT
  ⟨0x1A0008, 1, 0x1000000, 1, 0x1000000, 0x0, 0x0, 0x0, 0x7, 0x0, 0x0, .chn⟩,  -- CHAIN_LINK_EVT
  ⟨0x1A0100, 1, 0x1000000, 2, 0x80, 0x0, 0x0, 0x80000000, 0x0, 0x371, 0x170, .chn⟩,  -- CHAIN_CPp_CTL
  ⟨0x1A0104, 1, 0x1000000, 2, 0x80, 0x0, 0x3FFF7F, 0x0, 0x0, 0x0, 0x0, .chn⟩,  -- CHAIN_CPp_STAT
  ⟨0x1A0108, 1, 0x1000000, 2, 0x80, 0x0, 0x0, 0x0, 0x3FF, 0x0, 0x0, .chn⟩,  -- CHAIN_CPp_EVT
  ⟨0x1A010C, 1, 0x1000000, 2, 0x80, 0x0, 0xFFFFFFFF, 0x0, 0x0, 0x0, 0x0, .chn⟩,  -- CHAIN_CPp_LDLY
  ⟨0x1A0110, 1, 0x1000000, 2, 0x80, 0x0, 0xFFFFFFFF, 0x0, 0x0, 0x0, 0x0, .chn⟩,  -- CHAIN_CPp_RES
  ⟨0x1A0114, 1, 0x1000000, 2, 0x80, 0x0, 0xFFFFFFFF, 0x0, 0x0, 0x0, 0x0, .chn⟩,  -- CHAIN_CPp_ERR
  ⟨0x1A0118, 1, 0x1000000, 2, 0x80, 0x0, 0xFFFFFFFF, 0x0, 0x0, 0x0, 0x0, .chn⟩,  -- CHAIN_CPp_PEERCAP
  ⟨0x1A0400, 1, 0x1000000, 1, 0x1000000, 0x0, 0x0, 0x0, 0x0, 0xFFFFFFF0, 0x800080A0, .chn⟩,  -- CHAIN_TIME_POL
  ⟨0x1A0404, 1, 0x1000000, 1, 0x1000000, 0x0, 0x0, 0x0, 0x0, 0xF3FF03FF, 0x43FF0002, .chn⟩,  -- CHAIN_RX_POL
  ⟨0x1A0408, 1, 0x1000000, 1, 0x1000000, 0x0, 0xFFFFF7FF, 0x0, 0x0, 0x0, 0xC0000000, .chn⟩,  -- CHAIN_TIME_STAT
  ⟨0x1A040C, 1, 0x1000000, 1, 0x1000000, 0x0, 0x3FF03FF, 0x0, 0x0, 0x0, 0x0, .chn⟩,  -- CHAIN_POFS
  ⟨0x1A0410, 1, 0x1000000, 1, 0x1000000, 0x0, 0xFFFFFFFF, 0x0, 0x0, 0x0, 0x0, .chn⟩,  -- CHAIN_LOOP
  ⟨0x1A0414, 1, 0x1000000, 1, 0x1000000, 0x0, 0xFFFFFFFF, 0x0, 0x0, 0x0, 0x0, .chn⟩,  -- CHAIN_TERR
  ⟨0x1A0418, 1, 0x1000000, 1, 0x1000000, 0x0, 0x0, 0x0, 0x7F, 0x0, 0x0, .chn⟩,  -- CHAIN_TIME_EVT
  ⟨0x1A041C, 1, 0x1000000, 1, 0x1000000, 0x0, 0x3FF03FF, 0x0, 0x0, 0x0, 0x0, .chn⟩,  -- CHAIN_SLOTS
  ⟨0x1A0420, 1, 0x1000000, 1, 0x1000000, 0x0, 0x0, 0x0, 0x1F, 0x0, 0x0, .chn⟩,  -- CHAIN_STRM_EVT
  ⟨0x1A0440, 1, 0x1000000, 12, 0x4, 0x0, 0x41FF0000, 0x0, 0x0, 0x8000003F, 0x0, .chn⟩,  -- CHAIN_TXb
  ⟨0x1A0480, 1, 0x1000000, 12, 0x4, 0x0, 0x60000000, 0x0, 0x0, 0x8000FFFF, 0x0, .chn⟩,  -- CHAIN_RXs
  ⟨0x1A04C0, 1, 0x1000000, 12, 0x4, 0x0, 0xFFFFFFFF, 0x0, 0x0, 0x0, 0x0, .chn⟩,  -- CHAIN_RXs_CNT
  ⟨0x1A0500, 1, 0x1000000, 2, 0x10, 0x0, 0x0, 0xFFFFFFFF, 0x0, 0x0, 0x0, .chn⟩,  -- CHAIN_Qq_TX
  ⟨0x1A0504, 1, 0x1000000, 2, 0x10, 0x0, 0x0, 0x80001FFF, 0x40000000, 0x0, 0x0, .chn⟩,  -- CHAIN_Qq_TXCTL
  ⟨0x1A0508, 1, 0x1000000, 2, 0x10, 0x0, 0xFFFFFFFF, 0x0, 0x0, 0x0, 0x0, .chn⟩,  -- CHAIN_Qq_RX
  ⟨0x1A050C, 1, 0x1000000, 2, 0x10, 0x0, 0xFFFFFFFF, 0x0, 0x0, 0x0, 0x0, .chn⟩,  -- CHAIN_Qq_RXSTAT
  ⟨0x1A0540, 1, 0x1000000, 1, 0x1000000, 0x0, 0x800003FF, 0x0, 0x0, 0x0, 0x0, .chn⟩  -- CHAIN_OWNER
  ]

/-- Rows of block LSN (R440). -/
def rowsLsn : List RegRow := [
  ⟨0x190000, 1, 0x1000000, 1, 0x1000000, 0x0, 0x0, 0x0, 0x0, 0xFFF00077, 0x4, .aon⟩,  -- LSN_CTL
  ⟨0x190004, 1, 0x1000000, 1, 0x1000000, 0x0, 0xF8, 0x0, 0x0, 0x0, 0x0, .aon⟩,  -- LSN_STAT
  ⟨0x190008, 1, 0x1000000, 1, 0x1000000, 0x0, 0x0, 0x0, 0x3F, 0x0, 0x0, .aon⟩,  -- LSN_EVT
  ⟨0x19000C, 1, 0x1000000, 1, 0x1000000, 0x0, 0x0, 0x0, 0x0, 0xFFFF010F, 0x180A0000, .aon⟩,  -- LSN_W1CFG
  ⟨0x190010, 1, 0x1000000, 1, 0x1000000, 0x0, 0x0, 0x0, 0x0, 0xFFFFFFFF, 0xA0321010, .aon⟩,  -- LSN_WCFG
  ⟨0x190014, 1, 0x1000000, 1, 0x1000000, 0x0, 0xF8FFFF00, 0x0, 0x0, 0x0, 0x0, .aon⟩,  -- LSN_MATCH
  ⟨0x190018, 1, 0x1000000, 1, 0x1000000, 0x0, 0xFFFFFFFF, 0x0, 0x0, 0x0, 0x0, .aon⟩,  -- LSN_PRE_INFO
  ⟨0x19001C, 1, 0x1000000, 1, 0x1000000, 0x0, 0xFFFF007F, 0x0, 0x0, 0x0, 0x0, .aon⟩,  -- LSN_PRE_HDR
  ⟨0x190020, 1, 0x1000000, 1, 0x1000000, 0x0, 0xFFFFFFFF, 0x0, 0x0, 0x0, 0x0, .aon⟩,  -- LSN_PRE_DATA
  ⟨0x190024, 1, 0x1000000, 1, 0x1000000, 0x0, 0x0, 0x3, 0x0, 0x0, 0x0, .aon⟩,  -- LSN_PRE_CTL
  ⟨0x190030, 1, 0x1000000, 4, 0x4, 0x0, 0xFCFFFF00, 0x0, 0x0, 0x0, 0x0, .aon⟩,  -- LSN_TMPLt
  ⟨0x190100, 1, 0x1000000, 4, 0x80, 0x0, 0x0, 0x0, 0x0, 0x80FFFFFF, 0x0, .lsn⟩,  -- LSN_BEAMb_CTL
  ⟨0x190140, 4, 0x80, 8, 0x4, 0x0, 0x0, 0x0, 0x0, 0x7FF07FF, 0x0, .lsn⟩,  -- LSN_BEAMb_DLYi
  ⟨0x190400, 1, 0x1000000, 1, 0x1000000, 0x0, 0x0, 0x0, 0x0, 0x83FFFFFF, 0x280800, .lsn⟩,  -- LSN_CHK_CTL
  ⟨0x190404, 1, 0x1000000, 1, 0x1000000, 0x0, 0xE000FFFF, 0x0, 0x0, 0x0, 0x0, .lsn⟩,  -- LSN_CHK_ONSET
  ⟨0x190440, 1, 0x1000000, 31, 0x4, 0x0, 0xFFFF, 0x0, 0x0, 0x0, 0x8000, .lsn⟩  -- LSN_CHK_BANDi
  ]

/-- Rows of block GAUGE (R440). -/
def rowsGauge : List RegRow := [
  ⟨0x180000, 1, 0x1000000, 1, 0x1000000, 0x33, 0x0, 0xC0000000, 0x0, 0x0, 0x3, .sys⟩,  -- GAUGE_CTL
  ⟨0x180004, 1, 0x1000000, 1, 0x1000000, 0x0, 0x1FF, 0x0, 0x0, 0x0, 0x0, .sys⟩,  -- GAUGE_STAT
  ⟨0x180008, 1, 0x1000000, 1, 0x1000000, 0x0, 0x0, 0x0, 0xFF, 0x0, 0x0, .sys⟩,  -- GAUGE_EVT
  ⟨0x18000C, 1, 0x1000000, 1, 0x1000000, 0x0, 0xFF, 0x0, 0x0, 0x0, 0x0, .sys⟩,  -- GAUGE_WMST
  ⟨0x180010, 1, 0x1000000, 1, 0x1000000, 0x0, 0x0, 0x0, 0x0, 0x8000FFFF, 0x5FF, .sys⟩,  -- GAUGE_TMR
  ⟨0x180014, 1, 0x1000000, 1, 0x1000000, 0x0, 0x0, 0x0, 0x0, 0x3FFFFFFF, 0x200A3100, .sys⟩,  -- GAUGE_PLCFG
  ⟨0x180018, 1, 0x1000000, 1, 0x1000000, 0x0, 0xFFFFFFFF, 0x0, 0x0, 0x0, 0x0, .sys⟩,  -- GAUGE_PLSTAT
  ⟨0x180020, 1, 0x1000000, 1, 0x1000000, 0x0, 0xFFFFFFFF, 0x0, 0x0, 0x0, 0x80000000, .sys⟩,  -- GAUGE_GA_CAL
  ⟨0x180024, 1, 0x1000000, 1, 0x1000000, 0x0, 0xFFFFFFFF, 0x0, 0x0, 0x0, 0x80000000, .sys⟩,  -- GAUGE_GB_CAL
  ⟨0x180100, 1, 0x1000000, 2, 0x100, 0x0, 0x0, 0x0, 0x0, 0xFE1F0FFF, 0x0, .sys⟩,  -- GAUGE_x_SEQ
  ⟨0x180104, 1, 0x1000000, 2, 0x100, 0x0, 0x0, 0x40000000, 0x0, 0xBF00FF00, 0x0, .sys⟩,  -- GAUGE_x_INJCTL
  ⟨0x180108, 1, 0x1000000, 2, 0x100, 0x0, 0xFFFFFFFF, 0x0, 0x0, 0x0, 0x0, .sys⟩,  -- GAUGE_x_CNT
  ⟨0x180140, 2, 0x100, 32, 0x4, 0x0, 0x0, 0x0, 0x0, 0x3FFFF000, 0x8000, .sys⟩,  -- GAUGE_x_REGe
  ⟨0x1801C0, 2, 0x100, 8, 0x4, 0x0, 0x0, 0x0, 0x0, 0x3FFFF000, 0x8000, .sys⟩,  -- GAUGE_x_INJe
  ⟨0x180400, 1, 0x1000000, 8, 0x10, 0x0, 0x0, 0x0, 0x0, 0xFFFFC, 0x0, .sys⟩,  -- GAUGE_BUFn_BASE
  ⟨0x180404, 1, 0x1000000, 8, 0x10, 0x0, 0x0, 0x0, 0x0, 0x800FFFFF, 0x80, .sys⟩,  -- GAUGE_BUFn_CFG
  ⟨0x180408, 1, 0x1000000, 8, 0x10, 0x0, 0xFFFFFFFF, 0x0, 0x0, 0x0, 0x0, .sys⟩,  -- GAUGE_BUFn_WR
  ⟨0x18040C, 1, 0x1000000, 8, 0x10, 0xFFFF, 0x0, 0x0, 0x0, 0x0, 0x0, .sys⟩  -- GAUGE_BUFn_RD
  ]

/-- Rows of block HOST (R440). -/
def rowsHost : List RegRow := [
  ⟨0x50000, 1, 0x1000000, 1, 0x1000000, 0x1, 0x0, 0x0, 0x0, 0x0, 0x0, .sys⟩,  -- HOST_HSP_CFG
  ⟨0x50004, 1, 0x1000000, 1, 0x1000000, 0x0, 0xFFFF0000, 0x0, 0x1F, 0x0, 0x0, .sys⟩,  -- HOST_HSP_STAT
  ⟨0x50008, 1, 0x1000000, 1, 0x1000000, 0x0, 0xC0FFFFFF, 0x0, 0x0, 0x0, 0x0, .sys⟩,  -- HOST_HSP_ERRADDR
  ⟨0x50010, 1, 0x1000000, 1, 0x1000000, 0x0, 0x0, 0xFFFFFFFF, 0x0, 0x0, 0x0, .sys⟩,  -- HOST_MBX_TX
  ⟨0x50014, 1, 0x1000000, 1, 0x1000000, 0x0, 0x0, 0xC0001FFF, 0x0, 0x0, 0x0, .sys⟩,  -- HOST_MBX_CTL
  ⟨0x50018, 1, 0x1000000, 1, 0x1000000, 0x0, 0xFFFFFFFF, 0x0, 0x0, 0x0, 0x0, .sys⟩,  -- HOST_MBX_RX
  ⟨0x5001C, 1, 0x1000000, 1, 0x1000000, 0x0, 0xC0001FFF, 0x0, 0x20000000, 0x0, 0x0, .sys⟩,  -- HOST_MBX_STAT
  ⟨0x50040, 1, 0x1000000, 1, 0x1000000, 0xF8F17F7F, 0x0, 0x0, 0x0, 0x0, 0x78017C40, .sys⟩,  -- HOST_TWT_CFG
  ⟨0x50044, 1, 0x1000000, 1, 0x1000000, 0x0, 0xFFFF0003, 0x0, 0x0, 0x0, 0x0, .sys⟩,  -- HOST_TWT_STAT
  ⟨0x50048, 1, 0x1000000, 1, 0x1000000, 0x0, 0x0, 0x0, 0xF, 0x0, 0x0, .sys⟩,  -- HOST_TWT_EVT
  ⟨0x50080, 1, 0x1000000, 1, 0x1000000, 0xF8FFFF00, 0x0, 0x0, 0x0, 0x0, 0x580A1900, .sys⟩,  -- HOST_TWC_CFG
  ⟨0x50084, 1, 0x1000000, 1, 0x1000000, 0x0, 0xF0FF077F, 0x0, 0x0, 0x0, 0x0, .sys⟩,  -- HOST_TWC_STAT
  ⟨0x50088, 1, 0x1000000, 1, 0x1000000, 0x0, 0xFFFFFFFF, 0x0, 0x0, 0x0, 0x0, .sys⟩,  -- HOST_TWC_CNT
  ⟨0x500C0, 1, 0x1000000, 1, 0x1000000, 0x0, 0xFFFFFF, 0x0, 0x0, 0x0, 0x0, .sys⟩,  -- HOST_BSP_ID
  ⟨0x500C4, 1, 0x1000000, 1, 0x1000000, 0x0, 0xFF000007, 0x0, 0x0, 0x0, 0x0, .sys⟩  -- HOST_BSP_STAT
  ]

/-- Rows of block IC (R440). -/
def rowsIc : List RegRow := [
  ⟨0x40000, 1, 0x1000000, 1, 0x1000000, 0x1, 0x0, 0x0, 0x0, 0x0, 0x0, .sys⟩,  -- IC_CFG
  ⟨0x40004, 1, 0x1000000, 1, 0x1000000, 0x0, 0x0, 0x0, 0x3, 0x0, 0x0, .sys⟩,  -- IC_EVT
  ⟨0x40008, 1, 0x1000000, 1, 0x1000000, 0x0, 0x3, 0x0, 0x0, 0x0, 0x0, .sys⟩,  -- IC_STAT
  ⟨0x4000C, 1, 0x1000000, 1, 0x1000000, 0x7, 0x0, 0x0, 0x0, 0x0, 0x0, .sys⟩,  -- IC_TGT_SLEEP
  ⟨0x40010, 1, 0x1000000, 1, 0x1000000, 0x0, 0x0, 0x3F, 0x0, 0x0, 0x0, .sys⟩,  -- IC_SWSET
  ⟨0x40020, 1, 0x1000000, 8, 0x4, 0x0, 0xFFFFFFFF, 0x0, 0x0, 0x0, 0x0, .sys⟩,  -- IC_PENDn
  ⟨0x40040, 1, 0x1000000, 8, 0x4, 0x0, 0xFFFFFFFF, 0x0, 0x0, 0x0, 0x0, .sys⟩,  -- IC_ACTn
  ⟨0x40100, 1, 0x1000000, 4, 0x40, 0xF, 0x0, 0x0, 0x0, 0x0, 0x0, .sys⟩,  -- IC_THR_x
  ⟨0x40104, 1, 0x1000000, 4, 0x40, 0x0, 0xFFFF, 0x0, 0x0, 0x0, 0x0, .sys⟩,  -- IC_CLAIM_x
  ⟨0x40108, 1, 0x1000000, 4, 0x40, 0x0, 0xFFFFFFFF, 0x0, 0x0, 0x0, 0x0, .sys⟩,  -- IC_SNAP_x
  ⟨0x4010C, 1, 0x1000000, 4, 0x40, 0x0, 0x0, 0xFF, 0x0, 0x0, 0x0, .sys⟩,  -- IC_COMPLETE_x
  ⟨0x40110, 1, 0x1000000, 4, 0x40, 0x0, 0xF0F, 0x0, 0x0, 0x0, 0x0, .sys⟩,  -- IC_RUN_x
  ⟨0x40404, 1, 0x1000000, 255, 0x4, 0x0, 0x10000, 0x0, 0x0, 0x1F0F, 0x0, .sys⟩  -- IC_SRCn
  ]

/-- Rows of block STEW (R440). -/
def rowsStew : List RegRow := [
  ⟨0x70000, 1, 0x1000000, 1, 0x1000000, 0xF0FF, 0x0, 0xC0000000, 0x0, 0x0, 0x0, .sys⟩,  -- STEW_CTL
  ⟨0x70004, 1, 0x1000000, 1, 0x1000000, 0x0, 0xF00000FF, 0x0, 0x0, 0x0, 0xC0000000, .sys⟩,  -- STEW_STAT
  ⟨0x70008, 1, 0x1000000, 1, 0x1000000, 0x0, 0x0, 0x0, 0x1FFF, 0x0, 0x0, .sys⟩,  -- STEW_EVT
  ⟨0x7000C, 1, 0x1000000, 1, 0x1000000, 0x0, 0x0, 0x0, 0xFFFF, 0x0, 0x0, .sys⟩,  -- STEW_FSTAT
  ⟨0x70010, 1, 0x1000000, 1, 0x1000000, 0x0, 0xFFFCFFFF, 0x0, 0x0, 0x0, 0x0, .sys⟩,  -- STEW_LAST
  ⟨0x70014, 1, 0x1000000, 1, 0x1000000, 0x0, 0xFFFFFFFF, 0x0, 0x0, 0x0, 0x0, .sys⟩,  -- STEW_LAST_DATA
  ⟨0x70018, 1, 0x1000000, 1, 0x1000000, 0x0, 0xFFFFFFFF, 0x0, 0x0, 0x0, 0x0, .sys⟩,  -- STEW_MINUTES
  ⟨0x7001C, 1, 0x1000000, 1, 0x1000000, 0x0, 0xFFFF0007, 0x0, 0x0, 0x0, 0x0, .sys⟩,  -- STEW_THERM
  ⟨0x70020, 1, 0x1000000, 1, 0x1000000, 0x0, 0xFF0FFFFF, 0x0, 0x0, 0x0, (0x800FFFFF ||| (Config.marginExp.zeroExtend 32 <<< 24)), .sys⟩,  -- STEW_MARGIN
  ⟨0x70024, 1, 0x1000000, 1, 0x1000000, 0x0, 0xFF0FFFFF, 0x0, 0x0, 0x0, (0x000B42D0 ||| (Config.vfabSlope.zeroExtend 32 <<< 24)), .sys⟩,  -- STEW_VFAB
  ⟨0x70040, 1, 0x1000000, 16, 0x4, 0x0, 0xFFFF, 0x0, 0x0, 0x0, 0x0, .sys⟩,  -- STEW_AMn
  ⟨0x70080, 1, 0x1000000, 10, 0x4, 0x0, 0xC00000FF, 0x0, 0x0, 0x0, 0x80000000, .sys⟩,  -- STEW_SLACKb
  ⟨0x700C0, 1, 0x1000000, 1, 0x1000000, 0x0, 0xFFFFFFFF, 0x0, 0x0, 0x0, 0x0, .sys⟩,  -- STEW_LEDGER_NEW
  ⟨0x700C4, 1, 0x1000000, 1, 0x1000000, 0x0, 0xFFFFFFFF, 0x0, 0x0, 0x0, 0x0, .sys⟩,  -- STEW_LEDGER_OLD
  ⟨0x700C8, 1, 0x1000000, 1, 0x1000000, 0x0, 0xFFFFFF01, 0x0, 0x0, 0x0, 0x0, .sys⟩,  -- STEW_LEDGER_STAT
  ⟨0x70100, 1, 0x1000000, 1, 0x1000000, 0x0, 0x0, 0x0, 0x0, 0x733, 0x300, .sys⟩,  -- STEW_POL_GEN
  ⟨0x70104, 1, 0x1000000, 1, 0x1000000, 0x0, 0x0, 0x0, 0x0, 0xFFFFFFFF, 0x3FFE0000, .sys⟩,  -- STEW_POL_FAULT
  ⟨0x70108, 1, 0x1000000, 1, 0x1000000, 0x0, 0x0, 0x0, 0x0, 0xFFFF, 0x0, .sys⟩,  -- STEW_POL_SAFE
  ⟨0x7010C, 1, 0x1000000, 1, 0x1000000, 0x0, 0x0, 0x0, 0x0, 0xFFFFFF, Config.thermReset, .sys⟩,  -- STEW_POL_THERM
  ⟨0x70110, 1, 0x1000000, 1, 0x1000000, 0x0, 0x0, 0x0, 0x0, 0xFFFFFFFF, 0x28065007, .sys⟩,  -- STEW_POL_MARGIN
  ⟨0x70114, 1, 0x1000000, 1, 0x1000000, 0x0, 0x0, 0x0, 0x0, 0xFFFFF, 0x2238, .sys⟩,  -- STEW_POL_WARN
  ⟨0x70118, 1, 0x1000000, 1, 0x1000000, 0x0, 0x0, 0x0, 0x0, 0x1FF0003, 0x3C0002, .sys⟩  -- STEW_POL_SEC
  ]

/-- Rows of block PWRM (R440). -/
def rowsPwrm : List RegRow := [
  ⟨0x30000, 1, 0x1000000, 1, 0x1000000, 0x0, 0x0, 0x80000007, 0x0, 0x0, 0x0, .sys⟩,  -- PWRM_CTL
  ⟨0x30004, 1, 0x1000000, 1, 0x1000000, 0x0, 0x87FF00FF, 0x0, 0x0, 0x0, 0x00FF00FF, .sys⟩,  -- PWRM_STAT
  ⟨0x30008, 1, 0x1000000, 1, 0x1000000, 0x0, 0x0, 0x0, 0x1F, 0x0, 0x0, .sys⟩,  -- PWRM_EVT
  ⟨0x3000C, 1, 0x1000000, 1, 0x1000000, 0xFE, 0x0, 0x0, 0x0, 0x0, 0xDE, .sys⟩,  -- PWRM_WAKE_EN
  ⟨0x30010, 1, 0x1000000, 1, 0x1000000, 0x0, 0xFF0000FF, 0x0, 0x0, 0x0, 0x0, .sys⟩,  -- PWRM_WAKE_SRC
  ⟨0x30014, 1, 0x1000000, 1, 0x1000000, 0x80FFFFFF, 0x0, 0x0, 0x0, 0x0, 0x0, .sys⟩,  -- PWRM_TMR
  ⟨0x30018, 1, 0x1000000, 1, 0x1000000, 0x0, 0x0, 0xFF, 0x0, 0x0, 0x0, .sys⟩,  -- PWRM_RST
  ⟨0x30020, 1, 0x1000000, 1, 0x1000000, 0x8000FF7F, 0x0, 0x0, 0x0, 0x0, 0x8000FF40, .sys⟩,  -- PWRM_VFAB_CFG
  ⟨0x30024, 1, 0x1000000, 1, 0x1000000, 0x0, 0x800003FF, 0x0, 0x0, 0x0, 0x0, .sys⟩  -- PWRM_VFAB_STAT
  ]

/-- Rows of block GPIO (R440). -/
def rowsGpio : List RegRow := [
  ⟨0x1B0000, 1, 0x1000000, 1, 0x1000000, 0xFF, 0x0, 0x0, 0x0, 0x0, 0x0, .aon⟩,  -- GPIO_DIR
  ⟨0x1B0004, 1, 0x1000000, 1, 0x1000000, 0x0, 0x0, 0x0, 0x0, 0xFF, 0x0, .aon⟩,  -- GPIO_OUT
  ⟨0x1B0008, 1, 0x1000000, 1, 0x1000000, 0x0, 0xFF, 0x0, 0x0, 0x0, 0x0, .aon⟩,  -- GPIO_IN
  ⟨0x1B000C, 1, 0x1000000, 1, 0x1000000, 0xFFFF, 0x0, 0x0, 0x0, 0x0, 0x0, .aon⟩,  -- GPIO_EDGE
  ⟨0x1B0010, 1, 0x1000000, 1, 0x1000000, 0x0, 0x0, 0x0, 0xFF, 0x0, 0x0, .aon⟩  -- GPIO_EVT
  ]

/-- Rows of block SEC (R440). -/
def rowsSec : List RegRow := [
  ⟨0x60000, 1, 0x1000000, 1, 0x1000000, 0x0, 0xFFFFF1FF, 0x0, 0x0, 0x0, 0x0, .sys⟩,  -- SEC_STAT
  ⟨0x60004, 1, 0x1000000, 1, 0x1000000, 0x0, 0x0, 0x0, 0xFF, 0x0, 0x0, .sys⟩,  -- SEC_EVT
  ⟨0x60008, 1, 0x1000000, 1, 0x1000000, 0x0, 0x0, 0xC0000000, 0x0, 0x0, 0x0, .sys⟩,  -- SEC_CTL
  ⟨0x6000C, 1, 0x1000000, 1, 0x1000000, 0x0, 0x78000000, 0x80FF000F, 0x0, 0x0, 0x0, .sys⟩,  -- SEC_FPROG
  ⟨0x60020, 1, 0x1000000, 8, 0x4, 0x0, 0x0, 0xFFFFFFFF, 0x0, 0x0, 0x0, .sys⟩,  -- SEC_FDATAi
  ⟨0x60100, 4, 0x20, 8, 0x4, 0x0, 0xFFFFFFFF, 0x0, 0x0, 0x0, 0x0, .sys⟩  -- SEC_KEYn_Hi
  ]

/-- The rows of the block whose base is `0x10000 * n` (block base map of 24_register_index.md). -/
def rowsOfBlock : Nat → List RegRow
  | 0x0 => rowsDev
  | 0x1 => rowsClk
  | 0x2 => rowsXing
  | 0x10 => rowsFab
  | 0x11 => rowsRx
  | 0x14 => rowsAin
  | 0x15 => rowsAout
  | 0x16 => rowsHp
  | 0x17 => rowsPsc
  | 0x12 => rowsAsrc
  | 0x13 => rowsSap
  | 0x1A => rowsChain
  | 0x19 => rowsLsn
  | 0x18 => rowsGauge
  | 0x5 => rowsHost
  | 0x4 => rowsIc
  | 0x7 => rowsStew
  | 0x3 => rowsPwrm
  | 0x1B => rowsGpio
  | 0x6 => rowsSec
  | _ => []

/-- Whether address `a` is a member of the row's array: base + stride × index (R440). -/
def RegRow.covers (r : RegRow) (a : Nat) : Bool :=
  r.base ≤ a &&
    (let off := a - r.base
     let rest := off % r.stride1
     off / r.stride1 < r.count1 && rest / r.stride2 < r.count2 && rest % r.stride2 == 0)

/-- The register at address `a`, if R440 assigns one there. -/
def regRow (a : Nat) : Option RegRow := (rowsOfBlock (a / 0x10000)).find? (·.covers a)

/-- The source identifiers of kind PULSE of R371 (20_interrupts.md): mailbox completion, SAFE entry, two-wire
controller failure and the software sources. -/
def pulseSource (n : Nat) : Bool := n == 0x003 || n == 0x004 || n == 0x05A || (0x0C0 ≤ n && n ≤ 0x0FF)

/-- The reset word of the register at `a` (R441, R442); an unassigned address reads 0 (R8). IC_SRCn.KIND is set per
source (R371). -/
def regReset (a : Nat) : Word :=
  if 0x040404 ≤ a && a ≤ 0x0407FC && a % 4 == 0 then
    if pulseSource ((a - 0x040400) / 4) then 0x00010000 else 0
  else
    match regRow a with
    | some r => r.reset
    | none => 0

/-! ### Fields of block DEV -/

/-- DEV_ID: Device identification (00_scope.md, after R2). -/
def Reg.DEV_ID.word : Fld := ⟨0x0, 0, 32⟩
def Reg.DEV_ID.PART : Fld := ⟨0x0, 16, 16⟩
def Reg.DEV_ID.REV : Fld := ⟨0x0, 8, 8⟩
def Reg.DEV_ID.GRADE : Fld := ⟨0x0, 0, 8⟩

/-- DEV_UIDn: Unique identifier word n (n = 0–3) (00_scope.md, after R4). -/
def Reg.DEV_UID.word (n : Nat) : Fld := ⟨0x10 + 0x4 * n, 0, 32⟩
def Reg.DEV_UID.UID (n : Nat) : Fld := ⟨0x10 + 0x4 * n, 0, 32⟩

/-- DEV_TICK_LO: Tick counter, low word (02_tick_and_commit.md, after R30). -/
def Reg.DEV_TICK_LO.word : Fld := ⟨0x40, 0, 32⟩
def Reg.DEV_TICK_LO.COUNT : Fld := ⟨0x40, 0, 32⟩

/-- DEV_TICK_HI: Tick counter, high word (02_tick_and_commit.md, after R30). -/
def Reg.DEV_TICK_HI.word : Fld := ⟨0x44, 0, 32⟩
def Reg.DEV_TICK_HI.COUNT : Fld := ⟨0x44, 0, 16⟩

/-- DEV_TICK_PHASE: Position within the tick (02_tick_and_commit.md, after R31). -/
def Reg.DEV_TICK_PHASE.word : Fld := ⟨0x48, 0, 32⟩
def Reg.DEV_TICK_PHASE.WEIR : Fld := ⟨0x48, 31, 1⟩
def Reg.DEV_TICK_PHASE.CYCLE : Fld := ⟨0x48, 0, 14⟩

/-- DEV_TICK_CTL: Tick rate (02_tick_and_commit.md, after R31). -/
def Reg.DEV_TICK_CTL.word : Fld := ⟨0x4C, 0, 32⟩
def Reg.DEV_TICK_CTL.RATE : Fld := ⟨0x4C, 0, 3⟩

/-- DEV_COMMIT: Commit control (02_tick_and_commit.md, after R45). -/
def Reg.DEV_COMMIT.word : Fld := ⟨0x50, 0, 32⟩
def Reg.DEV_COMMIT.CANCEL : Fld := ⟨0x50, 1, 1⟩
def Reg.DEV_COMMIT.GO : Fld := ⟨0x50, 0, 1⟩

/-- DEV_COMMIT_AT_LO: Commit target, low word (02_tick_and_commit.md, after R45). -/
def Reg.DEV_COMMIT_AT_LO.word : Fld := ⟨0x54, 0, 32⟩
def Reg.DEV_COMMIT_AT_LO.TICK : Fld := ⟨0x54, 0, 32⟩

/-- DEV_COMMIT_AT_HI: Commit target, high word (02_tick_and_commit.md, after R45). -/
def Reg.DEV_COMMIT_AT_HI.word : Fld := ⟨0x58, 0, 32⟩
def Reg.DEV_COMMIT_AT_HI.TICK : Fld := ⟨0x58, 0, 16⟩

/-- DEV_COMMIT_STAT: Commit status (02_tick_and_commit.md, after R45). -/
def Reg.DEV_COMMIT_STAT.word : Fld := ⟨0x5C, 0, 32⟩
def Reg.DEV_COMMIT_STAT.LAST_ERR : Fld := ⟨0x5C, 8, 3⟩
def Reg.DEV_COMMIT_STAT.STAGED : Fld := ⟨0x5C, 4, 1⟩
def Reg.DEV_COMMIT_STAT.ARMED : Fld := ⟨0x5C, 3, 1⟩
def Reg.DEV_COMMIT_STAT.PENDING : Fld := ⟨0x5C, 2, 1⟩
def Reg.DEV_COMMIT_STAT.ERR : Fld := ⟨0x5C, 1, 1⟩
def Reg.DEV_COMMIT_STAT.DONE : Fld := ⟨0x5C, 0, 1⟩

/-- DEV_COMMIT_LAST_LO: Last commit tick, low word (02_tick_and_commit.md, after R45). -/
def Reg.DEV_COMMIT_LAST_LO.word : Fld := ⟨0x60, 0, 32⟩
def Reg.DEV_COMMIT_LAST_LO.TICK : Fld := ⟨0x60, 0, 32⟩

/-- DEV_COMMIT_LAST_HI: Last commit tick, high word (02_tick_and_commit.md, after R45). -/
def Reg.DEV_COMMIT_LAST_HI.word : Fld := ⟨0x64, 0, 32⟩
def Reg.DEV_COMMIT_LAST_HI.TICK : Fld := ⟨0x64, 0, 16⟩

/-- DEV_IMG_STAT: Image load status (07_image_format.md, after R150). -/
def Reg.DEV_IMG_STAT.word : Fld := ⟨0x80, 0, 32⟩
def Reg.DEV_IMG_STAT.REASON : Fld := ⟨0x80, 24, 8⟩
def Reg.DEV_IMG_STAT.SOURCE : Fld := ⟨0x80, 22, 2⟩
def Reg.DEV_IMG_STAT.PARTIAL : Fld := ⟨0x80, 21, 1⟩
def Reg.DEV_IMG_STAT.LOADING : Fld := ⟨0x80, 20, 1⟩
def Reg.DEV_IMG_STAT.SECTION : Fld := ⟨0x80, 0, 9⟩

/-- DEV_IMG_DETAIL: Refusal detail (07_image_format.md, after R150). -/
def Reg.DEV_IMG_DETAIL.word : Fld := ⟨0x84, 0, 32⟩
def Reg.DEV_IMG_DETAIL.DETAIL : Fld := ⟨0x84, 0, 32⟩

/-- DEV_IMG_ID: Loaded image (07_image_format.md, after R150). -/
def Reg.DEV_IMG_ID.word : Fld := ⟨0x88, 0, 32⟩
def Reg.DEV_IMG_ID.ID : Fld := ⟨0x88, 0, 32⟩

/-- DEV_IMG_VER: Rollback state (07_image_format.md, after R150). -/
def Reg.DEV_IMG_VER.word : Fld := ⟨0x8C, 0, 32⟩
def Reg.DEV_IMG_VER.FUSED : Fld := ⟨0x8C, 8, 8⟩
def Reg.DEV_IMG_VER.ROLLBACK : Fld := ⟨0x8C, 0, 8⟩

/-- DEV_IMG_BOOT: Boot slot result (07_image_format.md, after R150). -/
def Reg.DEV_IMG_BOOT.word : Fld := ⟨0x90, 0, 32⟩
def Reg.DEV_IMG_BOOT.REASON_A : Fld := ⟨0x90, 24, 8⟩
def Reg.DEV_IMG_BOOT.REASON_B : Fld := ⟨0x90, 16, 8⟩
def Reg.DEV_IMG_BOOT.TRIAL : Fld := ⟨0x90, 4, 1⟩
def Reg.DEV_IMG_BOOT.BOOTED : Fld := ⟨0x90, 0, 2⟩

/-- DEV_SVC: Service state (19_commands_and_states.md, after R370). -/
def Reg.DEV_SVC.word : Fld := ⟨0xA0, 0, 32⟩
def Reg.DEV_SVC.CNT : Fld := ⟨0xA0, 16, 16⟩
def Reg.DEV_SVC.CAUSE : Fld := ⟨0xA0, 8, 4⟩
def Reg.DEV_SVC.STATE : Fld := ⟨0xA0, 0, 2⟩

/-- DEV_MBX_DONE: Last completion (19_commands_and_states.md, after R370). -/
def Reg.DEV_MBX_DONE.word : Fld := ⟨0xA4, 0, 32⟩
def Reg.DEV_MBX_DONE.CODE : Fld := ⟨0xA4, 16, 16⟩
def Reg.DEV_MBX_DONE.STATUS : Fld := ⟨0xA4, 8, 8⟩
def Reg.DEV_MBX_DONE.PORT : Fld := ⟨0xA4, 0, 2⟩

/-! ### Fields of block CLK -/

/-- CLK_STAT: Clock status (03_clocks.md, after R66). -/
def Reg.CLK_STAT.word : Fld := ⟨0x10000, 0, 32⟩
def Reg.CLK_STAT.FAMILY : Fld := ⟨0x10000, 5, 1⟩
def Reg.CLK_STAT.REF_OK : Fld := ⟨0x10000, 4, 1⟩
def Reg.CLK_STAT.LOCKED : Fld := ⟨0x10000, 0, 4⟩

/-- CLK_EVT: Clock events (03_clocks.md, after R66). -/
def Reg.CLK_EVT.word : Fld := ⟨0x10004, 0, 32⟩
def Reg.CLK_EVT.HOLD_LIMIT : Fld := ⟨0x10004, 9, 1⟩
def Reg.CLK_EVT.UPD_ERR : Fld := ⟨0x10004, 8, 1⟩
def Reg.CLK_EVT.HOP_DONE : Fld := ⟨0x10004, 7, 1⟩
def Reg.CLK_EVT.WCLK_RATE : Fld := ⟨0x10004, 6, 1⟩
def Reg.CLK_EVT.WCLK_GLITCH : Fld := ⟨0x10004, 5, 1⟩
def Reg.CLK_EVT.SRC_CHANGE : Fld := ⟨0x10004, 4, 1⟩
def Reg.CLK_EVT.PLLP_BYP : Fld := ⟨0x10004, 3, 1⟩
def Reg.CLK_EVT.PLLC_LOSS : Fld := ⟨0x10004, 2, 1⟩
def Reg.CLK_EVT.PLLS_BYP : Fld := ⟨0x10004, 1, 1⟩
def Reg.CLK_EVT.PLLA_FAULT : Fld := ⟨0x10004, 0, 1⟩

/-- CLK_PLL_UPD: Divider load (03_clocks.md, after R66). -/
def Reg.CLK_PLL_UPD.word : Fld := ⟨0x10008, 0, 32⟩
def Reg.CLK_PLL_UPD.LOAD : Fld := ⟨0x10008, 0, 4⟩

/-- CLK_PLLx_CTL: PLL control (03_clocks.md, after R66). -/
def Reg.CLK_PLL_CTL.word (p : Nat) : Fld := ⟨0x10100 + 0x40 * p, 0, 32⟩
def Reg.CLK_PLL_CTL.FORCE_BYP (p : Nat) : Fld := ⟨0x10100 + 0x40 * p, 1, 1⟩
def Reg.CLK_PLL_CTL.EN (p : Nat) : Fld := ⟨0x10100 + 0x40 * p, 0, 1⟩

/-- CLK_PLLx_INT: Integer divider (03_clocks.md, after R66). -/
def Reg.CLK_PLL_INT.word (p : Nat) : Fld := ⟨0x10104 + 0x40 * p, 0, 32⟩
def Reg.CLK_PLL_INT.INT (p : Nat) : Fld := ⟨0x10104 + 0x40 * p, 0, 9⟩

/-- CLK_PLLx_NUM: Fraction numerator (03_clocks.md, after R66). -/
def Reg.CLK_PLL_NUM.word (p : Nat) : Fld := ⟨0x10108 + 0x40 * p, 0, 32⟩
def Reg.CLK_PLL_NUM.NUM (p : Nat) : Fld := ⟨0x10108 + 0x40 * p, 0, 24⟩

/-- CLK_PLLx_DEN: Fraction modulus (03_clocks.md, after R66). -/
def Reg.CLK_PLL_DEN.word (p : Nat) : Fld := ⟨0x1010C + 0x40 * p, 0, 32⟩
def Reg.CLK_PLL_DEN.DEN (p : Nat) : Fld := ⟨0x1010C + 0x40 * p, 0, 24⟩

/-- CLK_PLLx_LOCK: Lock rule (03_clocks.md, after R66). -/
def Reg.CLK_PLL_LOCK.word (p : Nat) : Fld := ⟨0x10110 + 0x40 * p, 0, 32⟩
def Reg.CLK_PLL_LOCK.LOCK_CNT (p : Nat) : Fld := ⟨0x10110 + 0x40 * p, 16, 16⟩
def Reg.CLK_PLL_LOCK.LOSS_CNT (p : Nat) : Fld := ⟨0x10110 + 0x40 * p, 8, 8⟩
def Reg.CLK_PLL_LOCK.WIN (p : Nat) : Fld := ⟨0x10110 + 0x40 * p, 0, 7⟩

/-- CLK_PLLx_STAT: PLL state (03_clocks.md, after R66). -/
def Reg.CLK_PLL_STAT.word (p : Nat) : Fld := ⟨0x10114 + 0x40 * p, 0, 32⟩
def Reg.CLK_PLL_STAT.HOP_US (p : Nat) : Fld := ⟨0x10114 + 0x40 * p, 16, 16⟩
def Reg.CLK_PLL_STAT.BAND (p : Nat) : Fld := ⟨0x10114 + 0x40 * p, 8, 8⟩
def Reg.CLK_PLL_STAT.CACHE_HIT (p : Nat) : Fld := ⟨0x10114 + 0x40 * p, 1, 1⟩
def Reg.CLK_PLL_STAT.BYPASSED (p : Nat) : Fld := ⟨0x10114 + 0x40 * p, 0, 1⟩

/-- CLK_PLLx_CACHE: Band cache (03_clocks.md, after R66). -/
def Reg.CLK_PLL_CACHE.word (p : Nat) : Fld := ⟨0x10118 + 0x40 * p, 0, 32⟩
def Reg.CLK_PLL_CACHE.FLUSH (p : Nat) : Fld := ⟨0x10118 + 0x40 * p, 31, 1⟩
def Reg.CLK_PLL_CACHE.VALID (p : Nat) : Fld := ⟨0x10118 + 0x40 * p, 0, 8⟩

/-- CLK_PLLA_SRC: Audio reference order (03_clocks.md, after R66). -/
def Reg.CLK_PLLA_SRC.word : Fld := ⟨0x10200, 0, 32⟩
def Reg.CLK_PLLA_SRC.ENTRY3 : Fld := ⟨0x10200, 9, 3⟩
def Reg.CLK_PLLA_SRC.ENTRY2 : Fld := ⟨0x10200, 6, 3⟩
def Reg.CLK_PLLA_SRC.ENTRY1 : Fld := ⟨0x10200, 3, 3⟩
def Reg.CLK_PLLA_SRC.ENTRY0 : Fld := ⟨0x10200, 0, 3⟩

/-- CLK_PLLA_POL: Audio reference policy (03_clocks.md, after R66). -/
def Reg.CLK_PLLA_POL.word : Fld := ⟨0x10204, 0, 32⟩
def Reg.CLK_PLLA_POL.REVERT_HOLD : Fld := ⟨0x10204, 24, 8⟩
def Reg.CLK_PLLA_POL.HOLD_LIMIT : Fld := ⟨0x10204, 8, 16⟩
def Reg.CLK_PLLA_POL.SLEW : Fld := ⟨0x10204, 5, 3⟩
def Reg.CLK_PLLA_POL.FREE_FAMILY : Fld := ⟨0x10204, 4, 1⟩
def Reg.CLK_PLLA_POL.FAMILY_FOLLOW : Fld := ⟨0x10204, 3, 1⟩
def Reg.CLK_PLLA_POL.RATE_FOLLOW : Fld := ⟨0x10204, 2, 1⟩
def Reg.CLK_PLLA_POL.REVERT : Fld := ⟨0x10204, 1, 1⟩

/-- CLK_PLLA_REFST: Audio reference state (03_clocks.md, after R66). -/
def Reg.CLK_PLLA_REFST.word : Fld := ⟨0x10208, 0, 32⟩
def Reg.CLK_PLLA_REFST.QUALIFIED : Fld := ⟨0x10208, 8, 5⟩
def Reg.CLK_PLLA_REFST.ACTIVE : Fld := ⟨0x10208, 5, 3⟩
def Reg.CLK_PLLA_REFST.STATE : Fld := ⟨0x10208, 0, 3⟩

/-- CLK_PLLA_TRIM: Outer-loop trim (03_clocks.md, after R66). -/
def Reg.CLK_PLLA_TRIM.word : Fld := ⟨0x1020C, 0, 32⟩
def Reg.CLK_PLLA_TRIM.TRIM : Fld := ⟨0x1020C, 0, 32⟩

/-- CLK_WCLK_STAT: WCLK monitor (03_clocks.md, after R66). -/
def Reg.CLK_WCLK_STAT.word : Fld := ⟨0x10210, 0, 32⟩
def Reg.CLK_WCLK_STAT.GLITCH : Fld := ⟨0x10210, 16, 16⟩
def Reg.CLK_WCLK_STAT.PERIOD : Fld := ⟨0x10210, 3, 13⟩
def Reg.CLK_WCLK_STAT.RATE : Fld := ⟨0x10210, 0, 3⟩

/-- CLK_WCLKO_CTL: Word clock output (03_clocks.md, after R66). -/
def Reg.CLK_WCLKO_CTL.word : Fld := ⟨0x10214, 0, 32⟩
def Reg.CLK_WCLKO_CTL.DIV : Fld := ⟨0x10214, 1, 2⟩
def Reg.CLK_WCLKO_CTL.EN : Fld := ⟨0x10214, 0, 1⟩

/-! ### Fields of block XING -/

/-- XING_EVT: Crossing events (04_domain_crossings.md, after R78). -/
def Reg.XING_EVT.word : Fld := ⟨0x20000, 0, 32⟩
def Reg.XING_EVT.MERGED : Fld := ⟨0x20000, 2, 1⟩
def Reg.XING_EVT.OVERRUN : Fld := ⟨0x20000, 1, 1⟩
def Reg.XING_EVT.TIMEOUT : Fld := ⟨0x20000, 0, 1⟩

/-- XING_TMO_LOG: Last timeout (04_domain_crossings.md, after R78). -/
def Reg.XING_TMO_LOG.word : Fld := ⟨0x20004, 0, 32⟩
def Reg.XING_TMO_LOG.COUNT : Fld := ⟨0x20004, 16, 16⟩
def Reg.XING_TMO_LOG.WAKE : Fld := ⟨0x20004, 8, 1⟩
def Reg.XING_TMO_LOG.XNUM : Fld := ⟨0x20004, 0, 5⟩

/-- XING_CFGn: Crossing configuration (04_domain_crossings.md, after R78). -/
def Reg.XING_CFG.word (n : Nat) : Fld := ⟨0x20100 + 0x4 * n, 0, 32⟩
def Reg.XING_CFG.COMPAT (n : Nat) : Fld := ⟨0x20100 + 0x4 * n, 31, 1⟩
def Reg.XING_CFG.TMO (n : Nat) : Fld := ⟨0x20100 + 0x4 * n, 0, 16⟩

/-- XING_STATn: Crossing state (04_domain_crossings.md, after R78). -/
def Reg.XING_STAT.word (n : Nat) : Fld := ⟨0x20200 + 0x4 * n, 0, 32⟩
def Reg.XING_STAT.RDY (n : Nat) : Fld := ⟨0x20200 + 0x4 * n, 31, 1⟩
def Reg.XING_STAT.SILENT (n : Nat) : Fld := ⟨0x20200 + 0x4 * n, 30, 1⟩
def Reg.XING_STAT.WAKE_PEND (n : Nat) : Fld := ⟨0x20200 + 0x4 * n, 29, 1⟩
def Reg.XING_STAT.OVERRUN (n : Nat) : Fld := ⟨0x20200 + 0x4 * n, 28, 1⟩
def Reg.XING_STAT.MERGED (n : Nat) : Fld := ⟨0x20200 + 0x4 * n, 27, 1⟩
def Reg.XING_STAT.LEVEL (n : Nat) : Fld := ⟨0x20200 + 0x4 * n, 0, 7⟩

/-- XING_DROPn: Discarded transfers (04_domain_crossings.md, after R78). -/
def Reg.XING_DROP.word (n : Nat) : Fld := ⟨0x20300 + 0x4 * n, 0, 32⟩
def Reg.XING_DROP.COUNT (n : Nat) : Fld := ⟨0x20300 + 0x4 * n, 0, 32⟩

/-! ### Fields of block FAB -/

/-- FAB_Bb_CTL: Basin control (05_basins_and_jets.md, after R103). -/
def Reg.FAB_B_CTL.word (b : Nat) : Fld := ⟨0x100000 + 0x1000 * b, 0, 32⟩
def Reg.FAB_B_CTL.HOLD (b : Nat) : Fld := ⟨0x100000 + 0x1000 * b, 0, 1⟩

/-- FAB_Bb_STAT: Basin status (05_basins_and_jets.md, after R103). -/
def Reg.FAB_B_STAT.word (b : Nat) : Fld := ⟨0x100004 + 0x1000 * b, 0, 32⟩
def Reg.FAB_B_STAT.HANDLE (b : Nat) : Fld := ⟨0x100004 + 0x1000 * b, 28, 4⟩
def Reg.FAB_B_STAT.SHELF_STALE (b : Nat) : Fld := ⟨0x100004 + 0x1000 * b, 19, 1⟩
def Reg.FAB_B_STAT.FIT_JETS (b : Nat) : Fld := ⟨0x100004 + 0x1000 * b, 15, 4⟩
def Reg.FAB_B_STAT.CAUSE (b : Nat) : Fld := ⟨0x100004 + 0x1000 * b, 12, 3⟩
def Reg.FAB_B_STAT.FIT_FAIL (b : Nat) : Fld := ⟨0x100004 + 0x1000 * b, 11, 1⟩
def Reg.FAB_B_STAT.STATE (b : Nat) : Fld := ⟨0x100004 + 0x1000 * b, 0, 3⟩

/-- FAB_Bb_STATE: State region (05_basins_and_jets.md, after R103). -/
def Reg.FAB_B_STATE.word (b : Nat) : Fld := ⟨0x100008 + 0x1000 * b, 0, 32⟩
def Reg.FAB_B_STATE.LEN (b : Nat) : Fld := ⟨0x100008 + 0x1000 * b, 16, 11⟩
def Reg.FAB_B_STATE.BASE (b : Nat) : Fld := ⟨0x100008 + 0x1000 * b, 0, 15⟩

/-- FAB_Bb_TBLSEL: Table page selects (05_basins_and_jets.md, after R103). -/
def Reg.FAB_B_TBLSEL.word (b : Nat) : Fld := ⟨0x10000C + 0x1000 * b, 0, 32⟩
def Reg.FAB_B_TBLSEL.PAGE (b : Nat) : Fld := ⟨0x10000C + 0x1000 * b, 0, 32⟩

/-- FAB_Bb_COSTj: Cascade cost of jet j (05_basins_and_jets.md, after R103). -/
def Reg.FAB_B_COST.word (b j : Nat) : Fld := ⟨0x100010 + 0x1000 * b + 0x4 * j, 0, 32⟩
def Reg.FAB_B_COST.COST (b j : Nat) : Fld := ⟨0x100010 + 0x1000 * b + 0x4 * j, 0, 15⟩

/-- FAB_Bb_CKPT: Last checkpoint (05_basins_and_jets.md, after R103). -/
def Reg.FAB_B_CKPT.word (b : Nat) : Fld := ⟨0x100020 + 0x1000 * b, 0, 32⟩
def Reg.FAB_B_CKPT.TICK (b : Nat) : Fld := ⟨0x100020 + 0x1000 * b, 0, 32⟩

/-- FAB_Bb_TDESCt: Table t bases (05_basins_and_jets.md, after R103). -/
def Reg.FAB_B_TDESC.word (b t : Nat) : Fld := ⟨0x100100 + 0x1000 * b + 0x8 * t, 0, 32⟩
def Reg.FAB_B_TDESC.VALID (b t : Nat) : Fld := ⟨0x100100 + 0x1000 * b + 0x8 * t, 31, 1⟩
def Reg.FAB_B_TDESC.BASE_B (b t : Nat) : Fld := ⟨0x100100 + 0x1000 * b + 0x8 * t, 16, 15⟩
def Reg.FAB_B_TDESC.BASE_A (b t : Nat) : Fld := ⟨0x100100 + 0x1000 * b + 0x8 * t, 0, 15⟩

/-- FAB_Bb_TLENt: Table t length (05_basins_and_jets.md, after R103). -/
def Reg.FAB_B_TLEN.word (b t : Nat) : Fld := ⟨0x100104 + 0x1000 * b + 0x8 * t, 0, 32⟩
def Reg.FAB_B_TLEN.LEN (b t : Nat) : Fld := ⟨0x100104 + 0x1000 * b + 0x8 * t, 0, 15⟩

/-- FAB_EVT: Fabric events (05_basins_and_jets.md, after R103). -/
def Reg.FAB_EVT.word : Fld := ⟨0x10F004, 0, 32⟩
def Reg.FAB_EVT.SPARE_OUT : Fld := ⟨0x10F004, 5, 1⟩
def Reg.FAB_EVT.CIS_UE : Fld := ⟨0x10F004, 4, 1⟩
def Reg.FAB_EVT.CIS_CE : Fld := ⟨0x10F004, 3, 1⟩
def Reg.FAB_EVT.MAP_ERR : Fld := ⟨0x10F004, 2, 1⟩
def Reg.FAB_EVT.FAULT : Fld := ⟨0x10F004, 1, 1⟩
def Reg.FAB_EVT.FIT_FAIL : Fld := ⟨0x10F004, 0, 1⟩

/-- FAB_RESV: Reserves (05_basins_and_jets.md, after R103). -/
def Reg.FAB_RESV.word : Fld := ⟨0x10F008, 0, 32⟩
def Reg.FAB_RESV.COUNT : Fld := ⟨0x10F008, 2, 4⟩
def Reg.FAB_RESV.RELEASED : Fld := ⟨0x10F008, 0, 2⟩

/-- FAB_MAPL: Handle map (L = 0–9) (05_basins_and_jets.md, after R103). -/
def Reg.FAB_MAP.word (L : Nat) : Fld := ⟨0x10F040 + 0x4 * L, 0, 32⟩
def Reg.FAB_MAP.EN (L : Nat) : Fld := ⟨0x10F040 + 0x4 * L, 31, 1⟩
def Reg.FAB_MAP.PHYS (L : Nat) : Fld := ⟨0x10F040 + 0x4 * L, 0, 4⟩

/-- FAB_WIN_SEL: Raw window basin (05_basins_and_jets.md, after R103). -/
def Reg.FAB_WIN_SEL.word : Fld := ⟨0x10F080, 0, 32⟩
def Reg.FAB_WIN_SEL.BASIN : Fld := ⟨0x10F080, 0, 4⟩

/-- FAB_CIS_ADDR: Cistern address (05_basins_and_jets.md, after R103). -/
def Reg.FAB_CIS_ADDR.word : Fld := ⟨0x10F100, 0, 32⟩
def Reg.FAB_CIS_ADDR.INC : Fld := ⟨0x10F100, 31, 1⟩
def Reg.FAB_CIS_ADDR.ADDR : Fld := ⟨0x10F100, 2, 23⟩

/-- FAB_CIS_DATA: Cistern data (05_basins_and_jets.md, after R103). -/
def Reg.FAB_CIS_DATA.word : Fld := ⟨0x10F104, 0, 32⟩
def Reg.FAB_CIS_DATA.DATA : Fld := ⟨0x10F104, 0, 32⟩

/-- FAB_CIS_STAT: Cistern access status (05_basins_and_jets.md, after R103). -/
def Reg.FAB_CIS_STAT.word : Fld := ⟨0x10F108, 0, 32⟩
def Reg.FAB_CIS_STAT.DENIED : Fld := ⟨0x10F108, 1, 1⟩
def Reg.FAB_CIS_STAT.BUSY : Fld := ⟨0x10F108, 0, 1⟩

/-- FAB_CIS_ECC: Cistern error counts (05_basins_and_jets.md, after R103). -/
def Reg.FAB_CIS_ECC.word : Fld := ⟨0x10F10C, 0, 32⟩
def Reg.FAB_CIS_ECC.UE : Fld := ⟨0x10F10C, 16, 16⟩
def Reg.FAB_CIS_ECC.CE : Fld := ⟨0x10F10C, 0, 16⟩

/-- FAB_CIS_UEADDR: Last uncorrectable address (05_basins_and_jets.md, after R103). -/
def Reg.FAB_CIS_UEADDR.word : Fld := ⟨0x10F110, 0, 32⟩
def Reg.FAB_CIS_UEADDR.WORD : Fld := ⟨0x10F110, 3, 22⟩

/-- FAB_CIS_SPAREn: Spare rows in use (n = 0–3) (05_basins_and_jets.md, after R103). -/
def Reg.FAB_CIS_SPARE.word (n : Nat) : Fld := ⟨0x10F140 + 0x4 * n, 0, 32⟩
def Reg.FAB_CIS_SPARE.USED3 (n : Nat) : Fld := ⟨0x10F140 + 0x4 * n, 24, 7⟩
def Reg.FAB_CIS_SPARE.USED2 (n : Nat) : Fld := ⟨0x10F140 + 0x4 * n, 16, 7⟩
def Reg.FAB_CIS_SPARE.USED1 (n : Nat) : Fld := ⟨0x10F140 + 0x4 * n, 8, 7⟩
def Reg.FAB_CIS_SPARE.USED0 (n : Nat) : Fld := ⟨0x10F140 + 0x4 * n, 0, 7⟩

/-- FAB_Bb_METERm: Meter m (m = 0–31) (06_slot_words.md, after R124). -/
def Reg.FAB_B_METER.word (b m : Nat) : Fld := ⟨0x100200 + 0x1000 * b + 0x4 * m, 0, 32⟩
def Reg.FAB_B_METER.CLIP (b m : Nat) : Fld := ⟨0x100200 + 0x1000 * b + 0x4 * m, 31, 1⟩
def Reg.FAB_B_METER.PEAK (b m : Nat) : Fld := ⟨0x100200 + 0x1000 * b + 0x4 * m, 0, 31⟩

/-- FAB_HO_EVT: Hand-over events (08_live_reconfiguration.md, after R165). -/
def Reg.FAB_HO_EVT.word : Fld := ⟨0x10F00C, 0, 32⟩
def Reg.FAB_HO_EVT.MAP_CLIP : Fld := ⟨0x10F00C, 4, 1⟩
def Reg.FAB_HO_EVT.OLD_FAULT : Fld := ⟨0x10F00C, 3, 1⟩
def Reg.FAB_HO_EVT.CANCELLED : Fld := ⟨0x10F00C, 2, 1⟩
def Reg.FAB_HO_EVT.DONE : Fld := ⟨0x10F00C, 1, 1⟩
def Reg.FAB_HO_EVT.CHAN_BUSY : Fld := ⟨0x10F00C, 0, 1⟩

/-- FAB_RELOC: Last relocation (08_live_reconfiguration.md, after R165). -/
def Reg.FAB_RELOC.word : Fld := ⟨0x10F010, 0, 32⟩
def Reg.FAB_RELOC.HANDLE : Fld := ⟨0x10F010, 28, 4⟩
def Reg.FAB_RELOC.FROM : Fld := ⟨0x10F010, 24, 4⟩
def Reg.FAB_RELOC.TO : Fld := ⟨0x10F010, 20, 4⟩
def Reg.FAB_RELOC.GAP : Fld := ⟨0x10F010, 16, 4⟩
def Reg.FAB_RELOC.NOSHELF : Fld := ⟨0x10F010, 1, 1⟩
def Reg.FAB_RELOC.FAIL : Fld := ⟨0x10F010, 0, 1⟩

/-- FAB_HO_DEF: Default crossfade (08_live_reconfiguration.md, after R165). -/
def Reg.FAB_HO_DEF.word : Fld := ⟨0x10F014, 0, 32⟩
def Reg.FAB_HO_DEF.XFADE : Fld := ⟨0x10F014, 0, 7⟩

/-- FAB_HOh_CTL: Hand-over channel h (h = 0–3) (08_live_reconfiguration.md, after R165). -/
def Reg.FAB_HO_CTL.word (h : Nat) : Fld := ⟨0x10F200 + 0x80 * h, 0, 32⟩
def Reg.FAB_HO_CTL.CANCEL (h : Nat) : Fld := ⟨0x10F200 + 0x80 * h, 31, 1⟩
def Reg.FAB_HO_CTL.PRIME (h : Nat) : Fld := ⟨0x10F200 + 0x80 * h, 28, 2⟩
def Reg.FAB_HO_CTL.SHAPE (h : Nat) : Fld := ⟨0x10F200 + 0x80 * h, 27, 1⟩
def Reg.FAB_HO_CTL.XFADE (h : Nat) : Fld := ⟨0x10F200 + 0x80 * h, 16, 7⟩
def Reg.FAB_HO_CTL.NEW (h : Nat) : Fld := ⟨0x10F200 + 0x80 * h, 12, 4⟩
def Reg.FAB_HO_CTL.OLD (h : Nat) : Fld := ⟨0x10F200 + 0x80 * h, 8, 4⟩
def Reg.FAB_HO_CTL.HANDLE (h : Nat) : Fld := ⟨0x10F200 + 0x80 * h, 0, 4⟩

/-- FAB_HOh_STAT: Hand-over channel state (08_live_reconfiguration.md, after R165). -/
def Reg.FAB_HO_STAT.word (h : Nat) : Fld := ⟨0x10F204 + 0x80 * h, 0, 32⟩
def Reg.FAB_HO_STAT.LEFT (h : Nat) : Fld := ⟨0x10F204 + 0x80 * h, 16, 16⟩
def Reg.FAB_HO_STAT.STATE (h : Nat) : Fld := ⟨0x10F204 + 0x80 * h, 0, 2⟩

/-- FAB_HOh_SMAPe: State-map entry e (e = 0–15) (08_live_reconfiguration.md, after R165). -/
def Reg.FAB_HO_SMAP.word (h e : Nat) : Fld := ⟨0x10F240 + 0x80 * h + 0x4 * e, 0, 32⟩
def Reg.FAB_HO_SMAP.EN (h e : Nat) : Fld := ⟨0x10F240 + 0x80 * h + 0x4 * e, 31, 1⟩
def Reg.FAB_HO_SMAP.COUNT (h e : Nat) : Fld := ⟨0x10F240 + 0x80 * h + 0x4 * e, 20, 11⟩
def Reg.FAB_HO_SMAP.DST (h e : Nat) : Fld := ⟨0x10F240 + 0x80 * h + 0x4 * e, 10, 10⟩
def Reg.FAB_HO_SMAP.SRC (h e : Nat) : Fld := ⟨0x10F240 + 0x80 * h + 0x4 * e, 0, 10⟩

/-- FAB_Bb_TCOMPA: Page A complete (08_live_reconfiguration.md, after R165). -/
def Reg.FAB_B_TCOMPA.word (b : Nat) : Fld := ⟨0x100030 + 0x1000 * b, 0, 32⟩
def Reg.FAB_B_TCOMPA.DONE (b : Nat) : Fld := ⟨0x100030 + 0x1000 * b, 0, 32⟩

/-- FAB_Bb_TCOMPB: Page B complete (08_live_reconfiguration.md, after R165). -/
def Reg.FAB_B_TCOMPB.word (b : Nat) : Fld := ⟨0x100034 + 0x1000 * b, 0, 32⟩
def Reg.FAB_B_TCOMPB.DONE (b : Nat) : Fld := ⟨0x100034 + 0x1000 * b, 0, 32⟩

/-- FAB_Bb_TWAIT: Tables without a complete page (08_live_reconfiguration.md, after R165). -/
def Reg.FAB_B_TWAIT.word (b : Nat) : Fld := ⟨0x100038 + 0x1000 * b, 0, 32⟩
def Reg.FAB_B_TWAIT.WAIT (b : Nat) : Fld := ⟨0x100038 + 0x1000 * b, 0, 32⟩

/-- FAB_Bb_TMARK: Mark a page complete (08_live_reconfiguration.md, after R165). -/
def Reg.FAB_B_TMARK.word (b : Nat) : Fld := ⟨0x10003C + 0x1000 * b, 0, 32⟩
def Reg.FAB_B_TMARK.PAGE (b : Nat) : Fld := ⟨0x10003C + 0x1000 * b, 31, 1⟩
def Reg.FAB_B_TMARK.TABLE (b : Nat) : Fld := ⟨0x10003C + 0x1000 * b, 0, 5⟩

/-! ### Fields of block RX -/

/-- RX_ROUTEk: Rill k (k = 0–95) (05_basins_and_jets.md, after R103). -/
def Reg.RX_ROUTE.word (k : Nat) : Fld := ⟨0x110000 + 0x4 * k, 0, 32⟩
def Reg.RX_ROUTE.EN (k : Nat) : Fld := ⟨0x110000 + 0x4 * k, 31, 1⟩
def Reg.RX_ROUTE.SRC (k : Nat) : Fld := ⟨0x110000 + 0x4 * k, 16, 12⟩
def Reg.RX_ROUTE.SINK (k : Nat) : Fld := ⟨0x110000 + 0x4 * k, 0, 12⟩

/-- RX_STAT: Exchange status (05_basins_and_jets.md, after R103). -/
def Reg.RX_STAT.word : Fld := ⟨0x110200, 0, 32⟩
def Reg.RX_STAT.LIMITED : Fld := ⟨0x110200, 7, 1⟩
def Reg.RX_STAT.ACTIVE : Fld := ⟨0x110200, 0, 7⟩

/-- RX_EVT: Exchange events (05_basins_and_jets.md, after R103). -/
def Reg.RX_EVT.word : Fld := ⟨0x110204, 0, 32⟩
def Reg.RX_EVT.RATE_LIMIT : Fld := ⟨0x110204, 2, 1⟩
def Reg.RX_EVT.BAD_EP : Fld := ⟨0x110204, 1, 1⟩
def Reg.RX_EVT.DUP_SINK : Fld := ⟨0x110204, 0, 1⟩

/-! ### Fields of block AIN -/

/-- AIN_STAT: Input status (09_analogue_inputs.md, after R183). -/
def Reg.AIN_STAT.word : Fld := ⟨0x140000, 0, 32⟩
def Reg.AIN_STAT.CAL_BUSY : Fld := ⟨0x140000, 2, 1⟩
def Reg.AIN_STAT.NOSUPPLY : Fld := ⟨0x140000, 1, 1⟩
def Reg.AIN_STAT.READY : Fld := ⟨0x140000, 0, 1⟩

/-- AIN_EVT: Input events (09_analogue_inputs.md, after R183). -/
def Reg.AIN_EVT.word : Fld := ⟨0x140004, 0, 32⟩
def Reg.AIN_EVT.GRP_ERR : Fld := ⟨0x140004, 5, 1⟩
def Reg.AIN_EVT.PH_DONE : Fld := ⟨0x140004, 4, 1⟩
def Reg.AIN_EVT.CAL_DONE : Fld := ⟨0x140004, 3, 1⟩
def Reg.AIN_EVT.SUPPLY : Fld := ⟨0x140004, 2, 1⟩
def Reg.AIN_EVT.OVL : Fld := ⟨0x140004, 1, 1⟩
def Reg.AIN_EVT.CLIP : Fld := ⟨0x140004, 0, 1⟩

/-- AIN_CLIP: Clip flags (09_analogue_inputs.md, after R183). -/
def Reg.AIN_CLIP.word : Fld := ⟨0x140008, 0, 32⟩
def Reg.AIN_CLIP.CH : Fld := ⟨0x140008, 0, 16⟩

/-- AIN_OVL: Overload flags (09_analogue_inputs.md, after R183). -/
def Reg.AIN_OVL.word : Fld := ⟨0x14000C, 0, 32⟩
def Reg.AIN_OVL.CH : Fld := ⟨0x14000C, 0, 16⟩

/-- AIN_LIVE: Held indications (09_analogue_inputs.md, after R183). -/
def Reg.AIN_LIVE.word : Fld := ⟨0x140010, 0, 32⟩
def Reg.AIN_LIVE.OVL : Fld := ⟨0x140010, 16, 16⟩
def Reg.AIN_LIVE.CLIP : Fld := ⟨0x140010, 0, 16⟩

/-- AIN_HOLD: Indication hold (09_analogue_inputs.md, after R183). -/
def Reg.AIN_HOLD.word : Fld := ⟨0x140014, 0, 32⟩
def Reg.AIN_HOLD.MS : Fld := ⟨0x140014, 0, 16⟩

/-- AIN_CALCTL: Calibration start (09_analogue_inputs.md, after R183). -/
def Reg.AIN_CALCTL.word : Fld := ⟨0x140018, 0, 32⟩
def Reg.AIN_CALCTL.MASK : Fld := ⟨0x140018, 0, 16⟩

/-- AIN_CALST: Calibration state (09_analogue_inputs.md, after R183). -/
def Reg.AIN_CALST.word : Fld := ⟨0x14001C, 0, 32⟩
def Reg.AIN_CALST.FAIL : Fld := ⟨0x14001C, 16, 16⟩
def Reg.AIN_CALST.BUSY : Fld := ⟨0x14001C, 0, 16⟩

/-- AIN_PHGRPg: Phantom group g (g = 0–7) (09_analogue_inputs.md, after R183). -/
def Reg.AIN_PHGRP.word (g : Nat) : Fld := ⟨0x140040 + 0x4 * g, 0, 32⟩
def Reg.AIN_PHGRP.EN (g : Nat) : Fld := ⟨0x140040 + 0x4 * g, 31, 1⟩
def Reg.AIN_PHGRP.POL (g : Nat) : Fld := ⟨0x140040 + 0x4 * g, 30, 1⟩
def Reg.AIN_PHGRP.SETTLE (g : Nat) : Fld := ⟨0x140040 + 0x4 * g, 16, 8⟩
def Reg.AIN_PHGRP.MEMBERS (g : Nat) : Fld := ⟨0x140040 + 0x4 * g, 0, 16⟩

/-- AIN_CHk_CFG: Channel configuration (k = 0–15) (09_analogue_inputs.md, after R183). -/
def Reg.AIN_CH_CFG.word (k : Nat) : Fld := ⟨0x140100 + 0x10 * k, 0, 32⟩
def Reg.AIN_CH_CFG.GRAMP (k : Nat) : Fld := ⟨0x140100 + 0x10 * k, 16, 8⟩
def Reg.AIN_CH_CFG.INV (k : Nat) : Fld := ⟨0x140100 + 0x10 * k, 15, 1⟩
def Reg.AIN_CH_CFG.HPF (k : Nat) : Fld := ⟨0x140100 + 0x10 * k, 13, 2⟩
def Reg.AIN_CH_CFG.FILT (k : Nat) : Fld := ⟨0x140100 + 0x10 * k, 12, 1⟩
def Reg.AIN_CH_CFG.MODE (k : Nat) : Fld := ⟨0x140100 + 0x10 * k, 8, 2⟩
def Reg.AIN_CH_CFG.GAIN (k : Nat) : Fld := ⟨0x140100 + 0x10 * k, 0, 7⟩

/-- AIN_CHk_STAT: Channel state (09_analogue_inputs.md, after R183). -/
def Reg.AIN_CH_STAT.word (k : Nat) : Fld := ⟨0x140104 + 0x10 * k, 0, 32⟩
def Reg.AIN_CH_STAT.WEIGHT (k : Nat) : Fld := ⟨0x140104 + 0x10 * k, 8, 8⟩
def Reg.AIN_CH_STAT.STATE (k : Nat) : Fld := ⟨0x140104 + 0x10 * k, 0, 3⟩

/-- AIN_CHk_MATCH: Path match correction (09_analogue_inputs.md, after R183). -/
def Reg.AIN_CH_MATCH.word (k : Nat) : Fld := ⟨0x140108 + 0x10 * k, 0, 32⟩
def Reg.AIN_CH_MATCH.GCORR (k : Nat) : Fld := ⟨0x140108 + 0x10 * k, 16, 16⟩
def Reg.AIN_CH_MATCH.DCORR (k : Nat) : Fld := ⟨0x140108 + 0x10 * k, 0, 16⟩

/-- AIN_CHk_CNT: Clip and overload counts (09_analogue_inputs.md, after R183). -/
def Reg.AIN_CH_CNT.word (k : Nat) : Fld := ⟨0x14010C + 0x10 * k, 0, 32⟩
def Reg.AIN_CH_CNT.OVL (k : Nat) : Fld := ⟨0x14010C + 0x10 * k, 16, 16⟩
def Reg.AIN_CH_CNT.CLIP (k : Nat) : Fld := ⟨0x14010C + 0x10 * k, 0, 16⟩

/-! ### Fields of block AOUT -/

/-- AOUT_STAT: Line-output status (10_outputs_and_headphones.md, after R203). -/
def Reg.AOUT_STAT.word : Fld := ⟨0x150000, 0, 32⟩
def Reg.AOUT_STAT.DCLR : Fld := ⟨0x150000, 3, 1⟩
def Reg.AOUT_STAT.CAL_BUSY : Fld := ⟨0x150000, 2, 1⟩
def Reg.AOUT_STAT.HELD : Fld := ⟨0x150000, 1, 1⟩
def Reg.AOUT_STAT.READY : Fld := ⟨0x150000, 0, 1⟩

/-- AOUT_EVT: Line-output events (10_outputs_and_headphones.md, after R203). -/
def Reg.AOUT_EVT.word : Fld := ⟨0x150004, 0, 32⟩
def Reg.AOUT_EVT.CAL_DONE : Fld := ⟨0x150004, 3, 1⟩
def Reg.AOUT_EVT.SLEW : Fld := ⟨0x150004, 2, 1⟩
def Reg.AOUT_EVT.DCLR_REL : Fld := ⟨0x150004, 1, 1⟩
def Reg.AOUT_EVT.DCLR : Fld := ⟨0x150004, 0, 1⟩

/-- AOUT_CTL: Clear control (10_outputs_and_headphones.md, after R203). -/
def Reg.AOUT_CTL.word : Fld := ⟨0x150008, 0, 32⟩
def Reg.AOUT_CTL.CLRACK : Fld := ⟨0x150008, 31, 1⟩
def Reg.AOUT_CTL.DCLR_HP : Fld := ⟨0x150008, 1, 1⟩
def Reg.AOUT_CTL.DCLR_LATCH : Fld := ⟨0x150008, 0, 1⟩

/-- AOUT_CALCTL: Calibration start (10_outputs_and_headphones.md, after R203). -/
def Reg.AOUT_CALCTL.word : Fld := ⟨0x15000C, 0, 32⟩
def Reg.AOUT_CALCTL.MASK : Fld := ⟨0x15000C, 0, 16⟩

/-- AOUT_CALST: Calibration state (10_outputs_and_headphones.md, after R203). -/
def Reg.AOUT_CALST.word : Fld := ⟨0x150010, 0, 32⟩
def Reg.AOUT_CALST.FAIL : Fld := ⟨0x150010, 16, 16⟩
def Reg.AOUT_CALST.BUSY : Fld := ⟨0x150010, 0, 16⟩

/-- AOUT_CLRCODEk: Clear code (k = 0–15) (10_outputs_and_headphones.md, after R203). -/
def Reg.AOUT_CLRCODE.word (k : Nat) : Fld := ⟨0x150040 + 0x4 * k, 0, 32⟩
def Reg.AOUT_CLRCODE.CODE (k : Nat) : Fld := ⟨0x150040 + 0x4 * k, 0, 24⟩

/-- AOUT_CHk_CFG: Channel configuration (10_outputs_and_headphones.md, after R203). -/
def Reg.AOUT_CH_CFG.word (k : Nat) : Fld := ⟨0x150100 + 0x10 * k, 0, 32⟩
def Reg.AOUT_CH_CFG.TRIM (k : Nat) : Fld := ⟨0x150100 + 0x10 * k, 16, 16⟩
def Reg.AOUT_CH_CFG.INV (k : Nat) : Fld := ⟨0x150100 + 0x10 * k, 7, 1⟩
def Reg.AOUT_CH_CFG.FILT (k : Nat) : Fld := ⟨0x150100 + 0x10 * k, 6, 1⟩
def Reg.AOUT_CH_CFG.SAFE (k : Nat) : Fld := ⟨0x150100 + 0x10 * k, 5, 1⟩
def Reg.AOUT_CH_CFG.TARGET (k : Nat) : Fld := ⟨0x150100 + 0x10 * k, 0, 2⟩

/-- AOUT_CHk_SLEWT: Transition limiter (10_outputs_and_headphones.md, after R203). -/
def Reg.AOUT_CH_SLEWT.word (k : Nat) : Fld := ⟨0x150104 + 0x10 * k, 0, 32⟩
def Reg.AOUT_CH_SLEWT.STEP (k : Nat) : Fld := ⟨0x150104 + 0x10 * k, 8, 12⟩
def Reg.AOUT_CH_SLEWT.RATE (k : Nat) : Fld := ⟨0x150104 + 0x10 * k, 0, 8⟩

/-- AOUT_CHk_SLEWS: Safety limiter (10_outputs_and_headphones.md, after R203). -/
def Reg.AOUT_CH_SLEWS.word (k : Nat) : Fld := ⟨0x150108 + 0x10 * k, 0, 32⟩
def Reg.AOUT_CH_SLEWS.STEP (k : Nat) : Fld := ⟨0x150108 + 0x10 * k, 8, 12⟩
def Reg.AOUT_CH_SLEWS.RATE (k : Nat) : Fld := ⟨0x150108 + 0x10 * k, 0, 8⟩

/-- AOUT_CHk_STAT: Channel state (10_outputs_and_headphones.md, after R203). -/
def Reg.AOUT_CH_STAT.word (k : Nat) : Fld := ⟨0x15010C + 0x10 * k, 0, 32⟩
def Reg.AOUT_CH_STAT.SLEWCNT (k : Nat) : Fld := ⟨0x15010C + 0x10 * k, 16, 16⟩
def Reg.AOUT_CH_STAT.STATE (k : Nat) : Fld := ⟨0x15010C + 0x10 * k, 0, 3⟩

/-! ### Fields of block HP -/

/-- HP_STAT: Headphone status (10_outputs_and_headphones.md, after R203). -/
def Reg.HP_STAT.word : Fld := ⟨0x160000, 0, 32⟩
def Reg.HP_STAT.CP_OK : Fld := ⟨0x160000, 5, 1⟩
def Reg.HP_STAT.NOSUPPLY : Fld := ⟨0x160000, 4, 1⟩
def Reg.HP_STAT.JACK1 : Fld := ⟨0x160000, 1, 1⟩
def Reg.HP_STAT.JACK0 : Fld := ⟨0x160000, 0, 1⟩

/-- HP_EVT: Headphone events (10_outputs_and_headphones.md, after R203). -/
def Reg.HP_EVT.word : Fld := ⟨0x160004, 0, 32⟩
def Reg.HP_EVT.SUPPLY : Fld := ⟨0x160004, 7, 1⟩
def Reg.HP_EVT.LATCH : Fld := ⟨0x160004, 6, 1⟩
def Reg.HP_EVT.OC : Fld := ⟨0x160004, 5, 1⟩
def Reg.HP_EVT.ZDONE : Fld := ⟨0x160004, 4, 1⟩
def Reg.HP_EVT.REM1 : Fld := ⟨0x160004, 3, 1⟩
def Reg.HP_EVT.REM0 : Fld := ⟨0x160004, 1, 1⟩
def Reg.HP_EVT.INS1 : Fld := ⟨0x160004, 2, 1⟩
def Reg.HP_EVT.INS0 : Fld := ⟨0x160004, 0, 1⟩

/-- HP_DETCFG: Jack detection (10_outputs_and_headphones.md, after R203). -/
def Reg.HP_DETCFG.word : Fld := ⟨0x160008, 0, 32⟩
def Reg.HP_DETCFG.DEB : Fld := ⟨0x160008, 16, 8⟩
def Reg.HP_DETCFG.IGNORE : Fld := ⟨0x160008, 2, 2⟩
def Reg.HP_DETCFG.POL : Fld := ⟨0x160008, 0, 2⟩

/-- HP_LIMTi: Limit table entry i (i = 0–3) (10_outputs_and_headphones.md, after R203). -/
def Reg.HP_LIMT.word (i : Nat) : Fld := ⟨0x160010 + 0x4 * i, 0, 32⟩
def Reg.HP_LIMT.EN (i : Nat) : Fld := ⟨0x160010 + 0x4 * i, 31, 1⟩
def Reg.HP_LIMT.ZMAX (i : Nat) : Fld := ⟨0x160010 + 0x4 * i, 16, 10⟩
def Reg.HP_LIMT.LIMIT (i : Nat) : Fld := ⟨0x160010 + 0x4 * i, 0, 8⟩

/-- HP_AMPn_CTL: Amplifier control (n = 0, 1) (10_outputs_and_headphones.md, after R203). -/
def Reg.HP_AMP_CTL.word (n : Nat) : Fld := ⟨0x160100 + 0x20 * n, 0, 32⟩
def Reg.HP_AMP_CTL.UNLATCH (n : Nat) : Fld := ⟨0x160100 + 0x20 * n, 31, 1⟩
def Reg.HP_AMP_CTL.EN (n : Nat) : Fld := ⟨0x160100 + 0x20 * n, 0, 1⟩

/-- HP_AMPn_VOL: Volume (10_outputs_and_headphones.md, after R203). -/
def Reg.HP_AMP_VOL.word (n : Nat) : Fld := ⟨0x160104 + 0x20 * n, 0, 32⟩
def Reg.HP_AMP_VOL.LEFT (n : Nat) : Fld := ⟨0x160104 + 0x20 * n, 8, 8⟩
def Reg.HP_AMP_VOL.RIGHT (n : Nat) : Fld := ⟨0x160104 + 0x20 * n, 0, 8⟩

/-- HP_AMPn_Z: Measured impedance (10_outputs_and_headphones.md, after R203). -/
def Reg.HP_AMP_Z.word (n : Nat) : Fld := ⟨0x160108 + 0x20 * n, 0, 32⟩
def Reg.HP_AMP_Z.LEFT (n : Nat) : Fld := ⟨0x160108 + 0x20 * n, 16, 10⟩
def Reg.HP_AMP_Z.RIGHT (n : Nat) : Fld := ⟨0x160108 + 0x20 * n, 0, 10⟩

/-- HP_AMPn_STAT: Amplifier state (10_outputs_and_headphones.md, after R203). -/
def Reg.HP_AMP_STAT.word (n : Nat) : Fld := ⟨0x16010C + 0x20 * n, 0, 32⟩
def Reg.HP_AMP_STAT.TRIPS (n : Nat) : Fld := ⟨0x16010C + 0x20 * n, 28, 4⟩
def Reg.HP_AMP_STAT.LIM_L (n : Nat) : Fld := ⟨0x16010C + 0x20 * n, 16, 8⟩
def Reg.HP_AMP_STAT.LIM_R (n : Nat) : Fld := ⟨0x16010C + 0x20 * n, 8, 8⟩
def Reg.HP_AMP_STAT.STATE (n : Nat) : Fld := ⟨0x16010C + 0x20 * n, 0, 3⟩

/-! ### Fields of block PSC -/

/-- PSC_CTL: Channel control (11_power_stage_control.md, after R226). -/
def Reg.PSC_CTL.word (k : Nat) : Fld := ⟨0x170000 + 0x400 * k, 0, 32⟩
def Reg.PSC_CTL.UNLATCH (k : Nat) : Fld := ⟨0x170000 + 0x400 * k, 31, 1⟩
def Reg.PSC_CTL.FREQ (k : Nat) : Fld := ⟨0x170000 + 0x400 * k, 6, 2⟩
def Reg.PSC_CTL.LEVELS (k : Nat) : Fld := ⟨0x170000 + 0x400 * k, 4, 2⟩
def Reg.PSC_CTL.EN (k : Nat) : Fld := ⟨0x170000 + 0x400 * k, 0, 1⟩

/-- PSC_STAT: Channel state (11_power_stage_control.md, after R226). -/
def Reg.PSC_STAT.word (k : Nat) : Fld := ⟨0x170004 + 0x400 * k, 0, 32⟩
def Reg.PSC_STAT.CAUSE (k : Nat) : Fld := ⟨0x170004 + 0x400 * k, 24, 4⟩
def Reg.PSC_STAT.LEVELS (k : Nat) : Fld := ⟨0x170004 + 0x400 * k, 20, 2⟩
def Reg.PSC_STAT.RETRIES (k : Nat) : Fld := ⟨0x170004 + 0x400 * k, 16, 4⟩
def Reg.PSC_STAT.RDY (k : Nat) : Fld := ⟨0x170004 + 0x400 * k, 15, 1⟩
def Reg.PSC_STAT.FC_STALE (k : Nat) : Fld := ⟨0x170004 + 0x400 * k, 14, 1⟩
def Reg.PSC_STAT.STATE (k : Nat) : Fld := ⟨0x170004 + 0x400 * k, 0, 3⟩

/-- PSC_EVT: Channel events (11_power_stage_control.md, after R226). -/
def Reg.PSC_EVT.word (k : Nat) : Fld := ⟨0x170008 + 0x400 * k, 0, 32⟩
def Reg.PSC_EVT.FCIMB (k : Nat) : Fld := ⟨0x170008 + 0x400 * k, 7, 1⟩
def Reg.PSC_EVT.FCWARN (k : Nat) : Fld := ⟨0x170008 + 0x400 * k, 6, 1⟩
def Reg.PSC_EVT.CLIP (k : Nat) : Fld := ⟨0x170008 + 0x400 * k, 5, 1⟩
def Reg.PSC_EVT.CLKERR (k : Nat) : Fld := ⟨0x170008 + 0x400 * k, 4, 1⟩
def Reg.PSC_EVT.LATCH (k : Nat) : Fld := ⟨0x170008 + 0x400 * k, 3, 1⟩
def Reg.PSC_EVT.FAULT (k : Nat) : Fld := ⟨0x170008 + 0x400 * k, 2, 1⟩
def Reg.PSC_EVT.STOPPED (k : Nat) : Fld := ⟨0x170008 + 0x400 * k, 1, 1⟩
def Reg.PSC_EVT.STARTED (k : Nat) : Fld := ⟨0x170008 + 0x400 * k, 0, 1⟩

/-- PSC_RAMP: Start and stop ramps (11_power_stage_control.md, after R226). -/
def Reg.PSC_RAMP.word (k : Nat) : Fld := ⟨0x17000C + 0x400 * k, 0, 32⟩
def Reg.PSC_RAMP.CM (k : Nat) : Fld := ⟨0x17000C + 0x400 * k, 16, 8⟩
def Reg.PSC_RAMP.DIFF (k : Nat) : Fld := ⟨0x17000C + 0x400 * k, 0, 8⟩

/-- PSC_DEADT: Dead time per cell (11_power_stage_control.md, after R226). -/
def Reg.PSC_DEADT.word (k : Nat) : Fld := ⟨0x170010 + 0x400 * k, 0, 32⟩
def Reg.PSC_DEADT.CELL3 (k : Nat) : Fld := ⟨0x170010 + 0x400 * k, 16, 8⟩
def Reg.PSC_DEADT.CELL2 (k : Nat) : Fld := ⟨0x170010 + 0x400 * k, 8, 8⟩
def Reg.PSC_DEADT.CELL1 (k : Nat) : Fld := ⟨0x170010 + 0x400 * k, 0, 8⟩

/-- PSC_MOD: Modulation limits (11_power_stage_control.md, after R226). -/
def Reg.PSC_MOD.word (k : Nat) : Fld := ⟨0x170014 + 0x400 * k, 0, 32⟩
def Reg.PSC_MOD.MAXMOD (k : Nat) : Fld := ⟨0x170014 + 0x400 * k, 16, 10⟩
def Reg.PSC_MOD.MINPW (k : Nat) : Fld := ⟨0x170014 + 0x400 * k, 0, 8⟩

/-- PSC_LFf_i: Loop coefficients (f = 0: 48 kHz family, 1: 44.1 kHz family; i = 0–6) (11_power_stage_control.md, after R226). -/
def Reg.PSC_LF.word (k f i : Nat) : Fld := ⟨0x170020 + 0x400 * k + 0x20 * f + 0x4 * i, 0, 32⟩
def Reg.PSC_LF.COEF (k f i : Nat) : Fld := ⟨0x170020 + 0x400 * k + 0x20 * f + 0x4 * i, 0, 32⟩

/-- PSC_FCBAL: Balance control (11_power_stage_control.md, after R226). -/
def Reg.PSC_FCBAL.word (k : Nat) : Fld := ⟨0x170060 + 0x400 * k, 0, 32⟩
def Reg.PSC_FCBAL.TRIP (k : Nat) : Fld := ⟨0x170060 + 0x400 * k, 24, 8⟩
def Reg.PSC_FCBAL.TRIM_MAX (k : Nat) : Fld := ⟨0x170060 + 0x400 * k, 16, 8⟩
def Reg.PSC_FCBAL.SMP (k : Nat) : Fld := ⟨0x170060 + 0x400 * k, 12, 4⟩
def Reg.PSC_FCBAL.SETTLE (k : Nat) : Fld := ⟨0x170060 + 0x400 * k, 0, 12⟩

/-- PSC_FCCAP: Effective capacitance (11_power_stage_control.md, after R226). -/
def Reg.PSC_FCCAP.word (k : Nat) : Fld := ⟨0x170064 + 0x400 * k, 0, 32⟩
def Reg.PSC_FCCAP.C2 (k : Nat) : Fld := ⟨0x170064 + 0x400 * k, 16, 16⟩
def Reg.PSC_FCCAP.C1 (k : Nat) : Fld := ⟨0x170064 + 0x400 * k, 0, 16⟩

/-- PSC_FCEST: Capacitor estimates (11_power_stage_control.md, after R226). -/
def Reg.PSC_FCEST.word (k : Nat) : Fld := ⟨0x170068 + 0x400 * k, 0, 32⟩
def Reg.PSC_FCEST.FC2 (k : Nat) : Fld := ⟨0x170068 + 0x400 * k, 16, 16⟩
def Reg.PSC_FCEST.FC1 (k : Nat) : Fld := ⟨0x170068 + 0x400 * k, 0, 16⟩

/-- PSC_PVDD: Measured supply (11_power_stage_control.md, after R226). -/
def Reg.PSC_PVDD.word (k : Nat) : Fld := ⟨0x17006C + 0x400 * k, 0, 32⟩
def Reg.PSC_PVDD.MV10 (k : Nat) : Fld := ⟨0x17006C + 0x400 * k, 0, 16⟩

/-- PSC_PRECHG: Precharge check and scaling (11_power_stage_control.md, after R226). -/
def Reg.PSC_PRECHG.word (k : Nat) : Fld := ⟨0x170070 + 0x400 * k, 0, 32⟩
def Reg.PSC_PRECHG.BETA (k : Nat) : Fld := ⟨0x170070 + 0x400 * k, 16, 16⟩
def Reg.PSC_PRECHG.WIN (k : Nat) : Fld := ⟨0x170070 + 0x400 * k, 8, 8⟩
def Reg.PSC_PRECHG.TO (k : Nat) : Fld := ⟨0x170070 + 0x400 * k, 0, 8⟩

/-- PSC_RDYCFG: Ready line (11_power_stage_control.md, after R226). -/
def Reg.PSC_RDYCFG.word (k : Nat) : Fld := ⟨0x170074 + 0x400 * k, 0, 32⟩
def Reg.PSC_RDYCFG.FILT (k : Nat) : Fld := ⟨0x170074 + 0x400 * k, 16, 6⟩
def Reg.PSC_RDYCFG.TO (k : Nat) : Fld := ⟨0x170074 + 0x400 * k, 0, 16⟩

/-- PSC_SUM: Summary of all channels (11_power_stage_control.md, after R226). -/
def Reg.PSC_SUM.word : Fld := ⟨0x172000, 0, 32⟩
def Reg.PSC_SUM.LATCHED : Fld := ⟨0x172000, 8, 8⟩
def Reg.PSC_SUM.EVT : Fld := ⟨0x172000, 0, 8⟩

/-- PSC_ILIM: Current limit (12_loads_and_protection.md, after R243). -/
def Reg.PSC_ILIM.word (k : Nat) : Fld := ⟨0x170100 + 0x400 * k, 0, 32⟩
def Reg.PSC_ILIM.CNT (k : Nat) : Fld := ⟨0x170100 + 0x400 * k, 16, 4⟩
def Reg.PSC_ILIM.SHORTV (k : Nat) : Fld := ⟨0x170100 + 0x400 * k, 8, 8⟩
def Reg.PSC_ILIM.LIM (k : Nat) : Fld := ⟨0x170100 + 0x400 * k, 0, 8⟩

/-- PSC_SCALE: Sense scaling (12_loads_and_protection.md, after R243). -/
def Reg.PSC_SCALE.word (k : Nat) : Fld := ⟨0x170104 + 0x400 * k, 0, 32⟩
def Reg.PSC_SCALE.ALPHA (k : Nat) : Fld := ⟨0x170104 + 0x400 * k, 16, 16⟩
def Reg.PSC_SCALE.RSHUNT (k : Nat) : Fld := ⟨0x170104 + 0x400 * k, 0, 16⟩

/-- PSC_DCTEST: DC load test (12_loads_and_protection.md, after R243). -/
def Reg.PSC_DCTEST.word (k : Nat) : Fld := ⟨0x170108 + 0x400 * k, 0, 32⟩
def Reg.PSC_DCTEST.RUN (k : Nat) : Fld := ⟨0x170108 + 0x400 * k, 31, 1⟩
def Reg.PSC_DCTEST.VT (k : Nat) : Fld := ⟨0x170108 + 0x400 * k, 24, 7⟩
def Reg.PSC_DCTEST.ITEST (k : Nat) : Fld := ⟨0x170108 + 0x400 * k, 16, 8⟩
def Reg.PSC_DCTEST.RMIN (k : Nat) : Fld := ⟨0x170108 + 0x400 * k, 8, 8⟩
def Reg.PSC_DCTEST.RMAX (k : Nat) : Fld := ⟨0x170108 + 0x400 * k, 0, 8⟩

/-- PSC_DCRES: Last test result (12_loads_and_protection.md, after R243). -/
def Reg.PSC_DCRES.word (k : Nat) : Fld := ⟨0x17010C + 0x400 * k, 0, 32⟩
def Reg.PSC_DCRES.RESULT (k : Nat) : Fld := ⟨0x17010C + 0x400 * k, 28, 4⟩
def Reg.PSC_DCRES.R (k : Nat) : Fld := ⟨0x17010C + 0x400 * k, 0, 24⟩

/-- PSC_PILOT: Pilot tone (12_loads_and_protection.md, after R243). -/
def Reg.PSC_PILOT.word (k : Nat) : Fld := ⟨0x170110 + 0x400 * k, 0, 32⟩
def Reg.PSC_PILOT.EN (k : Nat) : Fld := ⟨0x170110 + 0x400 * k, 31, 1⟩
def Reg.PSC_PILOT.LEVEL (k : Nat) : Fld := ⟨0x170110 + 0x400 * k, 24, 7⟩
def Reg.PSC_PILOT.INT (k : Nat) : Fld := ⟨0x170110 + 0x400 * k, 20, 4⟩
def Reg.PSC_PILOT.FREQ (k : Nat) : Fld := ⟨0x170110 + 0x400 * k, 0, 19⟩

/-- PSC_Z: Measured impedance (12_loads_and_protection.md, after R243). -/
def Reg.PSC_Z.word (k : Nat) : Fld := ⟨0x170114 + 0x400 * k, 0, 32⟩
def Reg.PSC_Z.MAG (k : Nat) : Fld := ⟨0x170114 + 0x400 * k, 16, 16⟩
def Reg.PSC_Z.PHASE (k : Nat) : Fld := ⟨0x170114 + 0x400 * k, 0, 16⟩

/-- PSC_NTC: Stage temperature thresholds (12_loads_and_protection.md, after R243). -/
def Reg.PSC_NTC.word (k : Nat) : Fld := ⟨0x170118 + 0x400 * k, 0, 32⟩
def Reg.PSC_NTC.LIM (k : Nat) : Fld := ⟨0x170118 + 0x400 * k, 16, 16⟩
def Reg.PSC_NTC.MAX (k : Nat) : Fld := ⟨0x170118 + 0x400 * k, 0, 16⟩

/-- PSC_PROT_EVT: Protection events (12_loads_and_protection.md, after R243). -/
def Reg.PSC_PROT_EVT.word (k : Nat) : Fld := ⟨0x17011C + 0x400 * k, 0, 32⟩
def Reg.PSC_PROT_EVT.HOT (k : Nat) : Fld := ⟨0x17011C + 0x400 * k, 9, 1⟩
def Reg.PSC_PROT_EVT.CABERR (k : Nat) : Fld := ⟨0x17011C + 0x400 * k, 8, 1⟩
def Reg.PSC_PROT_EVT.XLIM (k : Nat) : Fld := ⟨0x17011C + 0x400 * k, 7, 1⟩
def Reg.PSC_PROT_EVT.TLIM (k : Nat) : Fld := ⟨0x17011C + 0x400 * k, 6, 1⟩
def Reg.PSC_PROT_EVT.PILOT (k : Nat) : Fld := ⟨0x17011C + 0x400 * k, 5, 1⟩
def Reg.PSC_PROT_EVT.OPEN (k : Nat) : Fld := ⟨0x17011C + 0x400 * k, 4, 1⟩
def Reg.PSC_PROT_EVT.DCDONE (k : Nat) : Fld := ⟨0x17011C + 0x400 * k, 3, 1⟩
def Reg.PSC_PROT_EVT.SHORT (k : Nat) : Fld := ⟨0x17011C + 0x400 * k, 2, 1⟩
def Reg.PSC_PROT_EVT.OCP (k : Nat) : Fld := ⟨0x17011C + 0x400 * k, 1, 1⟩
def Reg.PSC_PROT_EVT.ILIM (k : Nat) : Fld := ⟨0x17011C + 0x400 * k, 0, 1⟩

/-- PSC_CABn (12_loads_and_protection.md, R238 to R243), word `n` of channel `k`. -/
def Reg.PSC_CAB.word (k n : Nat) : Fld := ⟨0x170120 + 0x400 * k + 4 * n, 0, 32⟩
def Reg.PSC_CAB.RE0 (k : Nat) : Fld := ⟨0x170120 + 0x400 * k, 16, 16⟩
def Reg.PSC_CAB.T0 (k : Nat) : Fld := ⟨0x170120 + 0x400 * k, 8, 8⟩
def Reg.PSC_CAB.MAT (k : Nat) : Fld := ⟨0x170120 + 0x400 * k, 7, 1⟩
def Reg.PSC_CAB.RTH (k n : Nat) : Fld := ⟨0x170120 + 0x400 * k + 4 * n, 16, 16⟩
def Reg.PSC_CAB.TAU (k n : Nat) : Fld := ⟨0x170120 + 0x400 * k + 4 * n, 0, 16⟩
def Reg.PSC_CAB.TLIM (k : Nat) : Fld := ⟨0x17012C + 0x400 * k, 24, 8⟩
def Reg.PSC_CAB.TMAX (k : Nat) : Fld := ⟨0x17012C + 0x400 * k, 16, 8⟩
def Reg.PSC_CAB.FS (k : Nat) : Fld := ⟨0x17012C + 0x400 * k, 0, 16⟩
def Reg.PSC_CAB.QTS (k : Nat) : Fld := ⟨0x170130 + 0x400 * k, 16, 16⟩
def Reg.PSC_CAB.XGAIN (k : Nat) : Fld := ⟨0x170130 + 0x400 * k, 0, 16⟩
def Reg.PSC_CAB.XMAX (k : Nat) : Fld := ⟨0x170134 + 0x400 * k, 16, 16⟩
def Reg.PSC_CAB.XREL (k : Nat) : Fld := ⟨0x170134 + 0x400 * k, 0, 16⟩

/-- PSC_MODEL: Model state (12_loads_and_protection.md, after R243). -/
def Reg.PSC_MODEL.word (k : Nat) : Fld := ⟨0x170140 + 0x400 * k, 0, 32⟩
def Reg.PSC_MODEL.TVC (k : Nat) : Fld := ⟨0x170140 + 0x400 * k, 24, 8⟩
def Reg.PSC_MODEL.GR_T (k : Nat) : Fld := ⟨0x170140 + 0x400 * k, 8, 8⟩
def Reg.PSC_MODEL.GR_X (k : Nat) : Fld := ⟨0x170140 + 0x400 * k, 0, 8⟩

/-- PSC_XPK: Predicted excursion (12_loads_and_protection.md, after R243). -/
def Reg.PSC_XPK.word (k : Nat) : Fld := ⟨0x170144 + 0x400 * k, 0, 32⟩
def Reg.PSC_XPK.XPK (k : Nat) : Fld := ⟨0x170144 + 0x400 * k, 0, 16⟩

/-- PSC_CABSRC: Cabinet EEPROM (12_loads_and_protection.md, after R243). -/
def Reg.PSC_CABSRC.word : Fld := ⟨0x172004, 0, 32⟩
def Reg.PSC_CABSRC.EN : Fld := ⟨0x172004, 31, 1⟩
def Reg.PSC_CABSRC.ADDR : Fld := ⟨0x172004, 24, 7⟩
def Reg.PSC_CABSRC.OFS : Fld := ⟨0x172004, 0, 16⟩

/-! ### Fields of block ASRC -/

/-- ASRC_LANEq_CFG: Lane q (q = 0–95) (13_rates_and_serial_ports.md, after R261). -/
def Reg.ASRC_LANE_CFG.word (q : Nat) : Fld := ⟨0x120000 + 0x10 * q, 0, 32⟩
def Reg.ASRC_LANE_CFG.EN (q : Nat) : Fld := ⟨0x120000 + 0x10 * q, 31, 1⟩
def Reg.ASRC_LANE_CFG.FAST (q : Nat) : Fld := ⟨0x120000 + 0x10 * q, 30, 1⟩
def Reg.ASRC_LANE_CFG.PORT (q : Nat) : Fld := ⟨0x120000 + 0x10 * q, 8, 1⟩
def Reg.ASRC_LANE_CFG.SLOT (q : Nat) : Fld := ⟨0x120000 + 0x10 * q, 0, 7⟩

/-- ASRC_LANEq_STAT: Lane state (13_rates_and_serial_ports.md, after R261). -/
def Reg.ASRC_LANE_STAT.word (q : Nat) : Fld := ⟨0x120004 + 0x10 * q, 0, 32⟩
def Reg.ASRC_LANE_STAT.RATIO (q : Nat) : Fld := ⟨0x120004 + 0x10 * q, 8, 24⟩
def Reg.ASRC_LANE_STAT.CLASS (q : Nat) : Fld := ⟨0x120004 + 0x10 * q, 6, 2⟩
def Reg.ASRC_LANE_STAT.RANGE (q : Nat) : Fld := ⟨0x120004 + 0x10 * q, 3, 1⟩
def Reg.ASRC_LANE_STAT.TWAIT (q : Nat) : Fld := ⟨0x120004 + 0x10 * q, 2, 1⟩
def Reg.ASRC_LANE_STAT.REBUILD (q : Nat) : Fld := ⟨0x120004 + 0x10 * q, 1, 1⟩
def Reg.ASRC_LANE_STAT.LOCKED (q : Nat) : Fld := ⟨0x120004 + 0x10 * q, 0, 1⟩

/-- ASRC_UNLOCKn: Lost-lock flags (n = 0–2) (13_rates_and_serial_ports.md, after R261). -/
def Reg.ASRC_UNLOCK.word (n : Nat) : Fld := ⟨0x120800 + 0x4 * n, 0, 32⟩
def Reg.ASRC_UNLOCK.LANE (n : Nat) : Fld := ⟨0x120800 + 0x4 * n, 0, 32⟩

/-- ASRC_EVT: ASRC events (13_rates_and_serial_ports.md, after R261). -/
def Reg.ASRC_EVT.word : Fld := ⟨0x12080C, 0, 32⟩
def Reg.ASRC_EVT.ATTACH_ERR : Fld := ⟨0x12080C, 3, 1⟩
def Reg.ASRC_EVT.TWAIT : Fld := ⟨0x12080C, 2, 1⟩
def Reg.ASRC_EVT.UNLOCK : Fld := ⟨0x12080C, 1, 1⟩
def Reg.ASRC_EVT.LOCK : Fld := ⟨0x12080C, 0, 1⟩

/-! ### Fields of block SAP -/

/-- SAPn_CTL: Port control (13_rates_and_serial_ports.md, after R261). -/
def Reg.SAP_CTL.word (n : Nat) : Fld := ⟨0x130000 + 0x100 * n, 0, 32⟩
def Reg.SAP_CTL.EN (n : Nat) : Fld := ⟨0x130000 + 0x100 * n, 31, 1⟩
def Reg.SAP_CTL.DATA (n : Nat) : Fld := ⟨0x130000 + 0x100 * n, 28, 2⟩
def Reg.SAP_CTL.MASTER (n : Nat) : Fld := ⟨0x130000 + 0x100 * n, 27, 1⟩
def Reg.SAP_CTL.LEGACY (n : Nat) : Fld := ⟨0x130000 + 0x100 * n, 26, 1⟩
def Reg.SAP_CTL.FBITS (n : Nat) : Fld := ⟨0x130000 + 0x100 * n, 21, 3⟩
def Reg.SAP_CTL.SLOTS (n : Nat) : Fld := ⟨0x130000 + 0x100 * n, 16, 5⟩
def Reg.SAP_CTL.WIDTH (n : Nat) : Fld := ⟨0x130000 + 0x100 * n, 14, 2⟩
def Reg.SAP_CTL.FSW (n : Nat) : Fld := ⟨0x130000 + 0x100 * n, 13, 1⟩
def Reg.SAP_CTL.DELAY (n : Nat) : Fld := ⟨0x130000 + 0x100 * n, 12, 1⟩
def Reg.SAP_CTL.BCLKPOL (n : Nat) : Fld := ⟨0x130000 + 0x100 * n, 11, 1⟩
def Reg.SAP_CTL.FSPOL (n : Nat) : Fld := ⟨0x130000 + 0x100 * n, 10, 1⟩

/-- SAPn_RXMASKw: Receive slots of wire w (w = 0–3) (13_rates_and_serial_ports.md, after R261). -/
def Reg.SAP_RXMASK.word (n w : Nat) : Fld := ⟨0x130010 + 0x100 * n + 0x4 * w, 0, 32⟩
def Reg.SAP_RXMASK.SLOT (n w : Nat) : Fld := ⟨0x130010 + 0x100 * n + 0x4 * w, 0, 32⟩

/-- SAPn_TXMASKw: Transmit slots of wire w (13_rates_and_serial_ports.md, after R261). -/
def Reg.SAP_TXMASK.word (n w : Nat) : Fld := ⟨0x130020 + 0x100 * n + 0x4 * w, 0, 32⟩
def Reg.SAP_TXMASK.SLOT (n w : Nat) : Fld := ⟨0x130020 + 0x100 * n + 0x4 * w, 0, 32⟩

/-- SAPn_STAT: Port state (13_rates_and_serial_ports.md, after R261). -/
def Reg.SAP_STAT.word (n : Nat) : Fld := ⟨0x130030 + 0x100 * n, 0, 32⟩
def Reg.SAP_STAT.RATE (n : Nat) : Fld := ⟨0x130030 + 0x100 * n, 14, 18⟩
def Reg.SAP_STAT.CFGERR (n : Nat) : Fld := ⟨0x130030 + 0x100 * n, 4, 1⟩
def Reg.SAP_STAT.OFFRATE (n : Nat) : Fld := ⟨0x130030 + 0x100 * n, 3, 1⟩
def Reg.SAP_STAT.LRMIS (n : Nat) : Fld := ⟨0x130030 + 0x100 * n, 2, 1⟩
def Reg.SAP_STAT.QUAL (n : Nat) : Fld := ⟨0x130030 + 0x100 * n, 1, 1⟩
def Reg.SAP_STAT.RUN (n : Nat) : Fld := ⟨0x130030 + 0x100 * n, 0, 1⟩

/-- SAPn_EVT: Port events (13_rates_and_serial_ports.md, after R261). -/
def Reg.SAP_EVT.word (n : Nat) : Fld := ⟨0x130034 + 0x100 * n, 0, 32⟩
def Reg.SAP_EVT.LOST (n : Nat) : Fld := ⟨0x130034 + 0x100 * n, 4, 1⟩
def Reg.SAP_EVT.LRMIS (n : Nat) : Fld := ⟨0x130034 + 0x100 * n, 3, 1⟩
def Reg.SAP_EVT.FRAME_ERR (n : Nat) : Fld := ⟨0x130034 + 0x100 * n, 2, 1⟩
def Reg.SAP_EVT.SLIP (n : Nat) : Fld := ⟨0x130034 + 0x100 * n, 1, 1⟩
def Reg.SAP_EVT.XRUN (n : Nat) : Fld := ⟨0x130034 + 0x100 * n, 0, 1⟩

/-- SAPn_SLIPCNT: Slip counts (13_rates_and_serial_ports.md, after R261). -/
def Reg.SAP_SLIPCNT.word (n : Nat) : Fld := ⟨0x130038 + 0x100 * n, 0, 32⟩
def Reg.SAP_SLIPCNT.DROP (n : Nat) : Fld := ⟨0x130038 + 0x100 * n, 16, 16⟩
def Reg.SAP_SLIPCNT.REPEAT (n : Nat) : Fld := ⟨0x130038 + 0x100 * n, 0, 16⟩

/-! ### Fields of block CHAIN -/

/-- CHAIN_LINK_POL: Link policy (14_chain_links.md, after R287). -/
def Reg.CHAIN_LINK_POL.word : Fld := ⟨0x1A0000, 0, 32⟩
def Reg.CHAIN_LINK_POL.EXCL_CNT : Fld := ⟨0x1A0000, 24, 8⟩
def Reg.CHAIN_LINK_POL.DEG_CNT : Fld := ⟨0x1A0000, 16, 8⟩
def Reg.CHAIN_LINK_POL.DEG_ACT : Fld := ⟨0x1A0000, 14, 2⟩
def Reg.CHAIN_LINK_POL.LOWER_ON_RESTART : Fld := ⟨0x1A0000, 13, 1⟩

/-- CHAIN_LINK_STAT: Node link state (14_chain_links.md, after R287). -/
def Reg.CHAIN_LINK_STAT.word : Fld := ⟨0x1A0004, 0, 32⟩
def Reg.CHAIN_LINK_STAT.NODE_ID : Fld := ⟨0x1A0004, 16, 10⟩
def Reg.CHAIN_LINK_STAT.ORIG1 : Fld := ⟨0x1A0004, 8, 1⟩
def Reg.CHAIN_LINK_STAT.ORIG0 : Fld := ⟨0x1A0004, 7, 1⟩
def Reg.CHAIN_LINK_STAT.CLOSURE : Fld := ⟨0x1A0004, 6, 1⟩
def Reg.CHAIN_LINK_STAT.TOPO : Fld := ⟨0x1A0004, 4, 2⟩
def Reg.CHAIN_LINK_STAT.RATE : Fld := ⟨0x1A0004, 0, 2⟩

/-- CHAIN_LINK_EVT: Node link events (14_chain_links.md, after R287). -/
def Reg.CHAIN_LINK_EVT.word : Fld := ⟨0x1A0008, 0, 32⟩
def Reg.CHAIN_LINK_EVT.CEIL : Fld := ⟨0x1A0008, 2, 1⟩
def Reg.CHAIN_LINK_EVT.RATE : Fld := ⟨0x1A0008, 1, 1⟩
def Reg.CHAIN_LINK_EVT.TOPO : Fld := ⟨0x1A0008, 0, 1⟩

/-- CHAIN_CPp_CTL: Port control (14_chain_links.md, after R287). -/
def Reg.CHAIN_CP_CTL.word (p : Nat) : Fld := ⟨0x1A0100 + 0x80 * p, 0, 32⟩
def Reg.CHAIN_CP_CTL.RESTART (p : Nat) : Fld := ⟨0x1A0100 + 0x80 * p, 31, 1⟩
def Reg.CHAIN_CP_CTL.FEC_REQ (p : Nat) : Fld := ⟨0x1A0100 + 0x80 * p, 9, 1⟩
def Reg.CHAIN_CP_CTL.FEC_ABLE (p : Nat) : Fld := ⟨0x1A0100 + 0x80 * p, 8, 1⟩
def Reg.CHAIN_CP_CTL.RATES (p : Nat) : Fld := ⟨0x1A0100 + 0x80 * p, 4, 3⟩
def Reg.CHAIN_CP_CTL.EN (p : Nat) : Fld := ⟨0x1A0100 + 0x80 * p, 0, 1⟩

/-- CHAIN_CPp_STAT: Port state (14_chain_links.md, after R287). -/
def Reg.CHAIN_CP_STAT.word (p : Nat) : Fld := ⟨0x1A0104 + 0x80 * p, 0, 32⟩
def Reg.CHAIN_CP_STAT.PEER_ID (p : Nat) : Fld := ⟨0x1A0104 + 0x80 * p, 12, 10⟩
def Reg.CHAIN_CP_STAT.PEER_PORT (p : Nat) : Fld := ⟨0x1A0104 + 0x80 * p, 11, 1⟩
def Reg.CHAIN_CP_STAT.TX_FAULT (p : Nat) : Fld := ⟨0x1A0104 + 0x80 * p, 10, 1⟩
def Reg.CHAIN_CP_STAT.LOS (p : Nat) : Fld := ⟨0x1A0104 + 0x80 * p, 9, 1⟩
def Reg.CHAIN_CP_STAT.MOD_ABS (p : Nat) : Fld := ⟨0x1A0104 + 0x80 * p, 8, 1⟩
def Reg.CHAIN_CP_STAT.FEC (p : Nat) : Fld := ⟨0x1A0104 + 0x80 * p, 6, 1⟩
def Reg.CHAIN_CP_STAT.RATE (p : Nat) : Fld := ⟨0x1A0104 + 0x80 * p, 4, 2⟩
def Reg.CHAIN_CP_STAT.STATE (p : Nat) : Fld := ⟨0x1A0104 + 0x80 * p, 0, 4⟩

/-- CHAIN_CPp_EVT: Port events (14_chain_links.md, after R287). -/
def Reg.CHAIN_CP_EVT.word (p : Nat) : Fld := ⟨0x1A0108 + 0x80 * p, 0, 32⟩
def Reg.CHAIN_CP_EVT.TEST_DONE (p : Nat) : Fld := ⟨0x1A0108 + 0x80 * p, 9, 1⟩
def Reg.CHAIN_CP_EVT.NOLOCK (p : Nat) : Fld := ⟨0x1A0108 + 0x80 * p, 8, 1⟩
def Reg.CHAIN_CP_EVT.SFP (p : Nat) : Fld := ⟨0x1A0108 + 0x80 * p, 7, 1⟩
def Reg.CHAIN_CP_EVT.MISMATCH (p : Nat) : Fld := ⟨0x1A0108 + 0x80 * p, 6, 1⟩
def Reg.CHAIN_CP_EVT.DEGRADE (p : Nat) : Fld := ⟨0x1A0108 + 0x80 * p, 5, 1⟩
def Reg.CHAIN_CP_EVT.RES_WARN (p : Nat) : Fld := ⟨0x1A0108 + 0x80 * p, 4, 1⟩
def Reg.CHAIN_CP_EVT.EXCLUDED (p : Nat) : Fld := ⟨0x1A0108 + 0x80 * p, 3, 1⟩
def Reg.CHAIN_CP_EVT.PEER_EXCL (p : Nat) : Fld := ⟨0x1A0108 + 0x80 * p, 2, 1⟩
def Reg.CHAIN_CP_EVT.DOWN (p : Nat) : Fld := ⟨0x1A0108 + 0x80 * p, 1, 1⟩
def Reg.CHAIN_CP_EVT.UP (p : Nat) : Fld := ⟨0x1A0108 + 0x80 * p, 0, 1⟩

/-- CHAIN_CPp_LDLY: Link delay (14_chain_links.md, after R287). -/
def Reg.CHAIN_CP_LDLY.word (p : Nat) : Fld := ⟨0x1A010C + 0x80 * p, 0, 32⟩
def Reg.CHAIN_CP_LDLY.DLY (p : Nat) : Fld := ⟨0x1A010C + 0x80 * p, 0, 32⟩

/-- CHAIN_CPp_RES: Residence (14_chain_links.md, after R287). -/
def Reg.CHAIN_CP_RES.word (p : Nat) : Fld := ⟨0x1A0110 + 0x80 * p, 0, 32⟩
def Reg.CHAIN_CP_RES.PEER (p : Nat) : Fld := ⟨0x1A0110 + 0x80 * p, 16, 16⟩
def Reg.CHAIN_CP_RES.OWN (p : Nat) : Fld := ⟨0x1A0110 + 0x80 * p, 0, 16⟩

/-- CHAIN_CPp_ERR: Error counts (14_chain_links.md, after R287). -/
def Reg.CHAIN_CP_ERR.word (p : Nat) : Fld := ⟨0x1A0114 + 0x80 * p, 0, 32⟩
def Reg.CHAIN_CP_ERR.BERR (p : Nat) : Fld := ⟨0x1A0114 + 0x80 * p, 16, 16⟩
def Reg.CHAIN_CP_ERR.PERR (p : Nat) : Fld := ⟨0x1A0114 + 0x80 * p, 0, 16⟩

/-- CHAIN_CPp_PEERCAP: Partner capability (14_chain_links.md, after R287). -/
def Reg.CHAIN_CP_PEERCAP.word (p : Nat) : Fld := ⟨0x1A0118 + 0x80 * p, 0, 32⟩
def Reg.CHAIN_CP_PEERCAP.W1 (p : Nat) : Fld := ⟨0x1A0118 + 0x80 * p, 0, 32⟩

/-- CHAIN_TIME_POL: Timing policy (15_chain_streams_and_time.md, after R307). -/
def Reg.CHAIN_TIME_POL.word : Fld := ⟨0x1A0400, 0, 32⟩
def Reg.CHAIN_TIME_POL.MASTER_CAP : Fld := ⟨0x1A0400, 31, 1⟩
def Reg.CHAIN_TIME_POL.POFS_FOLLOW : Fld := ⟨0x1A0400, 30, 1⟩
def Reg.CHAIN_TIME_POL.POFS_FIXED : Fld := ⟨0x1A0400, 20, 10⟩
def Reg.CHAIN_TIME_POL.MARGIN : Fld := ⟨0x1A0400, 16, 4⟩
def Reg.CHAIN_TIME_POL.PRIO : Fld := ⟨0x1A0400, 12, 4⟩
def Reg.CHAIN_TIME_POL.REELECT_HOLD : Fld := ⟨0x1A0400, 4, 8⟩

/-- CHAIN_RX_POL: Receive policy (15_chain_streams_and_time.md, after R307). -/
def Reg.CHAIN_RX_POL.word : Fld := ⟨0x1A0404, 0, 32⟩
def Reg.CHAIN_RX_POL.HOLD : Fld := ⟨0x1A0404, 28, 4⟩
def Reg.CHAIN_RX_POL.POFS_MAX : Fld := ⟨0x1A0404, 16, 10⟩
def Reg.CHAIN_RX_POL.POFS_MIN : Fld := ⟨0x1A0404, 0, 10⟩

/-- CHAIN_TIME_STAT: Timing state (15_chain_streams_and_time.md, after R307). -/
def Reg.CHAIN_TIME_STAT.word : Fld := ⟨0x1A0408, 0, 32⟩
def Reg.CHAIN_TIME_STAT.ROLE : Fld := ⟨0x1A0408, 30, 2⟩
def Reg.CHAIN_TIME_STAT.MASTER_ID : Fld := ⟨0x1A0408, 20, 10⟩
def Reg.CHAIN_TIME_STAT.MASTER_Q : Fld := ⟨0x1A0408, 12, 8⟩
def Reg.CHAIN_TIME_STAT.UPPORT : Fld := ⟨0x1A0408, 10, 1⟩
def Reg.CHAIN_TIME_STAT.HOPS : Fld := ⟨0x1A0408, 0, 10⟩

/-- CHAIN_POFS: Presentation offset (15_chain_streams_and_time.md, after R307). -/
def Reg.CHAIN_POFS.word : Fld := ⟨0x1A040C, 0, 32⟩
def Reg.CHAIN_POFS.P : Fld := ⟨0x1A040C, 16, 10⟩
def Reg.CHAIN_POFS.P_AUTO : Fld := ⟨0x1A040C, 0, 10⟩

/-- CHAIN_LOOP: Longest path (15_chain_streams_and_time.md, after R307). -/
def Reg.CHAIN_LOOP.word : Fld := ⟨0x1A0410, 0, 32⟩
def Reg.CHAIN_LOOP.D : Fld := ⟨0x1A0410, 0, 32⟩

/-- CHAIN_TERR: Tick-phase error (15_chain_streams_and_time.md, after R307). -/
def Reg.CHAIN_TERR.word : Fld := ⟨0x1A0414, 0, 32⟩
def Reg.CHAIN_TERR.ERR : Fld := ⟨0x1A0414, 0, 32⟩

/-- CHAIN_TIME_EVT: Timing events (15_chain_streams_and_time.md, after R307). -/
def Reg.CHAIN_TIME_EVT.word : Fld := ⟨0x1A0418, 0, 32⟩
def Reg.CHAIN_TIME_EVT.DUP_ID : Fld := ⟨0x1A0418, 6, 1⟩
def Reg.CHAIN_TIME_EVT.POFS_CAP : Fld := ⟨0x1A0418, 5, 1⟩
def Reg.CHAIN_TIME_EVT.POFS_LOW : Fld := ⟨0x1A0418, 4, 1⟩
def Reg.CHAIN_TIME_EVT.POFS_CHG : Fld := ⟨0x1A0418, 3, 1⟩
def Reg.CHAIN_TIME_EVT.RELOAD : Fld := ⟨0x1A0418, 2, 1⟩
def Reg.CHAIN_TIME_EVT.ORPHAN : Fld := ⟨0x1A0418, 1, 1⟩
def Reg.CHAIN_TIME_EVT.MASTER : Fld := ⟨0x1A0418, 0, 1⟩

/-- CHAIN_SLOTS: Slot use (15_chain_streams_and_time.md, after R307). -/
def Reg.CHAIN_SLOTS.word : Fld := ⟨0x1A041C, 0, 32⟩
def Reg.CHAIN_SLOTS.USED : Fld := ⟨0x1A041C, 16, 10⟩
def Reg.CHAIN_SLOTS.MAX : Fld := ⟨0x1A041C, 0, 10⟩

/-- CHAIN_STRM_EVT: Stream events (15_chain_streams_and_time.md, after R307). -/
def Reg.CHAIN_STRM_EVT.word : Fld := ⟨0x1A0420, 0, 32⟩
def Reg.CHAIN_STRM_EVT.DUP_STREAM : Fld := ⟨0x1A0420, 4, 1⟩
def Reg.CHAIN_STRM_EVT.NOSLOT : Fld := ⟨0x1A0420, 3, 1⟩
def Reg.CHAIN_STRM_EVT.SOLE : Fld := ⟨0x1A0420, 2, 1⟩
def Reg.CHAIN_STRM_EVT.LATE : Fld := ⟨0x1A0420, 1, 1⟩
def Reg.CHAIN_STRM_EVT.MISS : Fld := ⟨0x1A0420, 0, 1⟩

/-- CHAIN_TXb: Transmit bundle b (b = 0–11) (15_chain_streams_and_time.md, after R307). -/
def Reg.CHAIN_TX.word (b : Nat) : Fld := ⟨0x1A0440 + 0x4 * b, 0, 32⟩
def Reg.CHAIN_TX.EN (b : Nat) : Fld := ⟨0x1A0440 + 0x4 * b, 31, 1⟩
def Reg.CHAIN_TX.GRANTED (b : Nat) : Fld := ⟨0x1A0440 + 0x4 * b, 30, 1⟩
def Reg.CHAIN_TX.SLOT (b : Nat) : Fld := ⟨0x1A0440 + 0x4 * b, 16, 9⟩
def Reg.CHAIN_TX.LOCAL (b : Nat) : Fld := ⟨0x1A0440 + 0x4 * b, 0, 6⟩

/-- CHAIN_RXs: Subscription s (s = 0–11) (15_chain_streams_and_time.md, after R307). -/
def Reg.CHAIN_RX.word (s : Nat) : Fld := ⟨0x1A0480 + 0x4 * s, 0, 32⟩
def Reg.CHAIN_RX.EN (s : Nat) : Fld := ⟨0x1A0480 + 0x4 * s, 31, 1⟩
def Reg.CHAIN_RX.SOLE (s : Nat) : Fld := ⟨0x1A0480 + 0x4 * s, 30, 1⟩
def Reg.CHAIN_RX.VALID (s : Nat) : Fld := ⟨0x1A0480 + 0x4 * s, 29, 1⟩
def Reg.CHAIN_RX.STREAM (s : Nat) : Fld := ⟨0x1A0480 + 0x4 * s, 0, 16⟩

/-- CHAIN_RXs_CNT: Subscription counts (15_chain_streams_and_time.md, after R307). -/
def Reg.CHAIN_RX_CNT.word (s : Nat) : Fld := ⟨0x1A04C0 + 0x4 * s, 0, 32⟩
def Reg.CHAIN_RX_CNT.LATE (s : Nat) : Fld := ⟨0x1A04C0 + 0x4 * s, 16, 16⟩
def Reg.CHAIN_RX_CNT.MISS (s : Nat) : Fld := ⟨0x1A04C0 + 0x4 * s, 0, 16⟩

/-- CHAIN_Qq_TX: Queue transmit data (q = 0, 1) (15_chain_streams_and_time.md, after R307). -/
def Reg.CHAIN_Q_TX.word (q : Nat) : Fld := ⟨0x1A0500 + 0x10 * q, 0, 32⟩
def Reg.CHAIN_Q_TX.DATA (q : Nat) : Fld := ⟨0x1A0500 + 0x10 * q, 0, 32⟩

/-- CHAIN_Qq_TXCTL: Queue transmit control (15_chain_streams_and_time.md, after R307). -/
def Reg.CHAIN_Q_TXCTL.word (q : Nat) : Fld := ⟨0x1A0504 + 0x10 * q, 0, 32⟩
def Reg.CHAIN_Q_TXCTL.GO (q : Nat) : Fld := ⟨0x1A0504 + 0x10 * q, 31, 1⟩
def Reg.CHAIN_Q_TXCTL.FULL (q : Nat) : Fld := ⟨0x1A0504 + 0x10 * q, 30, 1⟩
def Reg.CHAIN_Q_TXCTL.LEN (q : Nat) : Fld := ⟨0x1A0504 + 0x10 * q, 0, 13⟩

/-- CHAIN_Qq_RX: Queue receive data (15_chain_streams_and_time.md, after R307). -/
def Reg.CHAIN_Q_RX.word (q : Nat) : Fld := ⟨0x1A0508 + 0x10 * q, 0, 32⟩
def Reg.CHAIN_Q_RX.DATA (q : Nat) : Fld := ⟨0x1A0508 + 0x10 * q, 0, 32⟩

/-- CHAIN_Qq_RXSTAT: Queue receive state (15_chain_streams_and_time.md, after R307). -/
def Reg.CHAIN_Q_RXSTAT.word (q : Nat) : Fld := ⟨0x1A050C + 0x10 * q, 0, 32⟩
def Reg.CHAIN_Q_RXSTAT.DROP (q : Nat) : Fld := ⟨0x1A050C + 0x10 * q, 24, 8⟩
def Reg.CHAIN_Q_RXSTAT.SRC (q : Nat) : Fld := ⟨0x1A050C + 0x10 * q, 14, 10⟩
def Reg.CHAIN_Q_RXSTAT.AVAIL (q : Nat) : Fld := ⟨0x1A050C + 0x10 * q, 13, 1⟩
def Reg.CHAIN_Q_RXSTAT.LEN (q : Nat) : Fld := ⟨0x1A050C + 0x10 * q, 0, 13⟩

/-- CHAIN_OWNER: Adoption (15_chain_streams_and_time.md, after R307). -/
def Reg.CHAIN_OWNER.word : Fld := ⟨0x1A0540, 0, 32⟩
def Reg.CHAIN_OWNER.ADOPTED : Fld := ⟨0x1A0540, 31, 1⟩
def Reg.CHAIN_OWNER.OWNER : Fld := ⟨0x1A0540, 0, 10⟩

/-! ### Fields of block LSN -/

/-- LSN_CTL: Listening control (16_listening.md, after R473). -/
def Reg.LSN_CTL.word : Fld := ⟨0x190000, 0, 32⟩
def Reg.LSN_CTL.AUTOREL : Fld := ⟨0x190000, 24, 8⟩
def Reg.LSN_CTL.TMASK : Fld := ⟨0x190000, 20, 4⟩
def Reg.LSN_CTL.W3EN : Fld := ⟨0x190000, 6, 1⟩
def Reg.LSN_CTL.W2EN : Fld := ⟨0x190000, 5, 1⟩
def Reg.LSN_CTL.W1EN : Fld := ⟨0x190000, 4, 1⟩
def Reg.LSN_CTL.PCLK : Fld := ⟨0x190000, 1, 2⟩
def Reg.LSN_CTL.EN : Fld := ⟨0x190000, 0, 1⟩

/-- LSN_STAT: Listening state (16_listening.md, after R473). -/
def Reg.LSN_STAT.word : Fld := ⟨0x190004, 0, 32⟩
def Reg.LSN_STAT.FROZEN : Fld := ⟨0x190004, 7, 1⟩
def Reg.LSN_STAT.CFGERR : Fld := ⟨0x190004, 6, 1⟩
def Reg.LSN_STAT.STAGE : Fld := ⟨0x190004, 4, 2⟩
def Reg.LSN_STAT.CLKSRC : Fld := ⟨0x190004, 3, 1⟩

/-- LSN_EVT: Listening events (16_listening.md, after R473). -/
def Reg.LSN_EVT.word : Fld := ⟨0x190008, 0, 32⟩
def Reg.LSN_EVT.TMPL_ERR : Fld := ⟨0x190008, 5, 1⟩
def Reg.LSN_EVT.CHK_DONE : Fld := ⟨0x190008, 4, 1⟩
def Reg.LSN_EVT.W3_END : Fld := ⟨0x190008, 3, 1⟩
def Reg.LSN_EVT.W3_UP : Fld := ⟨0x190008, 2, 1⟩
def Reg.LSN_EVT.W2_UP : Fld := ⟨0x190008, 1, 1⟩
def Reg.LSN_EVT.MATCH : Fld := ⟨0x190008, 0, 1⟩

/-- LSN_W1CFG: W1 configuration (16_listening.md, after R473). -/
def Reg.LSN_W1CFG.word : Fld := ⟨0x19000C, 0, 32⟩
def Reg.LSN_W1CFG.TH1 : Fld := ⟨0x19000C, 24, 8⟩
def Reg.LSN_W1CFG.HANG : Fld := ⟨0x19000C, 16, 8⟩
def Reg.LSN_W1CFG.MODE : Fld := ⟨0x19000C, 8, 1⟩
def Reg.LSN_W1CFG.MIC : Fld := ⟨0x19000C, 0, 4⟩

/-- LSN_WCFG: W2 and W3 microphones (16_listening.md, after R473). -/
def Reg.LSN_WCFG.word : Fld := ⟨0x190010, 0, 32⟩
def Reg.LSN_WCFG.TH2 : Fld := ⟨0x190010, 24, 8⟩
def Reg.LSN_WCFG.W3MIC3 : Fld := ⟨0x190010, 20, 4⟩
def Reg.LSN_WCFG.W3MIC2 : Fld := ⟨0x190010, 16, 4⟩
def Reg.LSN_WCFG.W3MIC1 : Fld := ⟨0x190010, 12, 4⟩
def Reg.LSN_WCFG.W3MIC0 : Fld := ⟨0x190010, 8, 4⟩
def Reg.LSN_WCFG.W2MICB : Fld := ⟨0x190010, 4, 4⟩
def Reg.LSN_WCFG.W2MICA : Fld := ⟨0x190010, 0, 4⟩

/-- LSN_MATCH: Last match (16_listening.md, after R473). -/
def Reg.LSN_MATCH.word : Fld := ⟨0x190014, 0, 32⟩
def Reg.LSN_MATCH.TEMPLATE : Fld := ⟨0x190014, 30, 2⟩
def Reg.LSN_MATCH.VARIANT : Fld := ⟨0x190014, 27, 3⟩
def Reg.LSN_MATCH.SCORE : Fld := ⟨0x190014, 16, 8⟩
def Reg.LSN_MATCH.DUR : Fld := ⟨0x190014, 8, 8⟩

/-- LSN_PRE_INFO: Pre-roll extent (16_listening.md, after R473). -/
def Reg.LSN_PRE_INFO.word : Fld := ⟨0x190018, 0, 32⟩
def Reg.LSN_PRE_INFO.PSTART : Fld := ⟨0x190018, 16, 16⟩
def Reg.LSN_PRE_INFO.LEN : Fld := ⟨0x190018, 0, 16⟩

/-- LSN_PRE_HDR: ADPCM start state (16_listening.md, after R473). -/
def Reg.LSN_PRE_HDR.word : Fld := ⟨0x19001C, 0, 32⟩
def Reg.LSN_PRE_HDR.PRED : Fld := ⟨0x19001C, 16, 16⟩
def Reg.LSN_PRE_HDR.INDEX : Fld := ⟨0x19001C, 0, 7⟩

/-- LSN_PRE_DATA: Pre-roll data (16_listening.md, after R473). -/
def Reg.LSN_PRE_DATA.word : Fld := ⟨0x190020, 0, 32⟩
def Reg.LSN_PRE_DATA.DATA : Fld := ⟨0x190020, 0, 32⟩

/-- LSN_PRE_CTL: Pre-roll control (16_listening.md, after R473). -/
def Reg.LSN_PRE_CTL.word : Fld := ⟨0x190024, 0, 32⟩
def Reg.LSN_PRE_CTL.REWIND : Fld := ⟨0x190024, 1, 1⟩
def Reg.LSN_PRE_CTL.RELEASE : Fld := ⟨0x190024, 0, 1⟩

/-- LSN_TMPLt: Template t (t = 0–3) (16_listening.md, after R473). -/
def Reg.LSN_TMPL.word (t : Nat) : Fld := ⟨0x190030 + 0x4 * t, 0, 32⟩
def Reg.LSN_TMPL.VALID (t : Nat) : Fld := ⟨0x190030 + 0x4 * t, 31, 1⟩
def Reg.LSN_TMPL.NVAR (t : Nat) : Fld := ⟨0x190030 + 0x4 * t, 28, 3⟩
def Reg.LSN_TMPL.KIND (t : Nat) : Fld := ⟨0x190030 + 0x4 * t, 26, 2⟩
def Reg.LSN_TMPL.NFRM (t : Nat) : Fld := ⟨0x190030 + 0x4 * t, 16, 8⟩
def Reg.LSN_TMPL.THRESH (t : Nat) : Fld := ⟨0x190030 + 0x4 * t, 8, 8⟩

/-- LSN_BEAMb_CTL: Beam b (b = 0–3) (16_listening.md, after R473). -/
def Reg.LSN_BEAM_CTL.word (b : Nat) : Fld := ⟨0x190100 + 0x80 * b, 0, 32⟩
def Reg.LSN_BEAM_CTL.EN (b : Nat) : Fld := ⟨0x190100 + 0x80 * b, 31, 1⟩
def Reg.LSN_BEAM_CTL.GAIN (b : Nat) : Fld := ⟨0x190100 + 0x80 * b, 16, 8⟩
def Reg.LSN_BEAM_CTL.MEMBERS (b : Nat) : Fld := ⟨0x190100 + 0x80 * b, 0, 16⟩

/-- LSN_BEAMb_DLYi: Delays (i = 0–7) (16_listening.md, after R473). -/
def Reg.LSN_BEAM_DLY.word (b i : Nat) : Fld := ⟨0x190140 + 0x80 * b + 0x4 * i, 0, 32⟩
def Reg.LSN_BEAM_DLY.ODD (b i : Nat) : Fld := ⟨0x190140 + 0x80 * b + 0x4 * i, 16, 11⟩
def Reg.LSN_BEAM_DLY.EVEN (b i : Nat) : Fld := ⟨0x190140 + 0x80 * b + 0x4 * i, 0, 11⟩

/-- LSN_CHK_CTL: Check window (16_listening.md, after R473). -/
def Reg.LSN_CHK_CTL.word : Fld := ⟨0x190400, 0, 32⟩
def Reg.LSN_CHK_CTL.EN : Fld := ⟨0x190400, 31, 1⟩
def Reg.LSN_CHK_CTL.BEAM : Fld := ⟨0x190400, 24, 2⟩
def Reg.LSN_CHK_CTL.THR : Fld := ⟨0x190400, 16, 8⟩
def Reg.LSN_CHK_CTL.LEN : Fld := ⟨0x190400, 0, 16⟩

/-- LSN_CHK_ONSET: Check onset (16_listening.md, after R473). -/
def Reg.LSN_CHK_ONSET.word : Fld := ⟨0x190404, 0, 32⟩
def Reg.LSN_CHK_ONSET.FOUND : Fld := ⟨0x190404, 31, 1⟩
def Reg.LSN_CHK_ONSET.POL : Fld := ⟨0x190404, 30, 1⟩
def Reg.LSN_CHK_ONSET.VOID : Fld := ⟨0x190404, 29, 1⟩
def Reg.LSN_CHK_ONSET.TICKS : Fld := ⟨0x190404, 0, 16⟩

/-- LSN_CHK_BANDi: Band level (i = 0–30) (16_listening.md, after R473). -/
def Reg.LSN_CHK_BAND.word (i : Nat) : Fld := ⟨0x190440 + 0x4 * i, 0, 32⟩
def Reg.LSN_CHK_BAND.LEVEL (i : Nat) : Fld := ⟨0x190440 + 0x4 * i, 0, 16⟩

/-! ### Fields of block GAUGE -/

/-- GAUGE_CTL: Gauge control (17_gauge.md, after R336). -/
def Reg.GAUGE_CTL.word : Fld := ⟨0x180000, 0, 32⟩
def Reg.GAUGE_CTL.CAL_B : Fld := ⟨0x180000, 31, 1⟩
def Reg.GAUGE_CTL.CAL_A : Fld := ⟨0x180000, 30, 1⟩
def Reg.GAUGE_CTL.REF : Fld := ⟨0x180000, 4, 2⟩
def Reg.GAUGE_CTL.EN_B : Fld := ⟨0x180000, 1, 1⟩
def Reg.GAUGE_CTL.EN_A : Fld := ⟨0x180000, 0, 1⟩

/-- GAUGE_STAT: Gauge state (17_gauge.md, after R336). -/
def Reg.GAUGE_STAT.word : Fld := ⟨0x180004, 0, 32⟩
def Reg.GAUGE_STAT.REFRDY : Fld := ⟨0x180004, 8, 1⟩
def Reg.GAUGE_STAT.STATE_B : Fld := ⟨0x180004, 4, 4⟩
def Reg.GAUGE_STAT.STATE_A : Fld := ⟨0x180004, 0, 4⟩

/-- GAUGE_EVT: Gauge events (17_gauge.md, after R336). -/
def Reg.GAUGE_EVT.word : Fld := ⟨0x180008, 0, 32⟩
def Reg.GAUGE_EVT.REF_ERR : Fld := ⟨0x180008, 7, 1⟩
def Reg.GAUGE_EVT.FLAG : Fld := ⟨0x180008, 6, 1⟩
def Reg.GAUGE_EVT.PLAUS : Fld := ⟨0x180008, 5, 1⟩
def Reg.GAUGE_EVT.CAL_DONE : Fld := ⟨0x180008, 4, 1⟩
def Reg.GAUGE_EVT.BUF_OVF : Fld := ⟨0x180008, 3, 1⟩
def Reg.GAUGE_EVT.INJ_OVR : Fld := ⟨0x180008, 2, 1⟩
def Reg.GAUGE_EVT.REG_OVR : Fld := ⟨0x180008, 1, 1⟩
def Reg.GAUGE_EVT.WM : Fld := ⟨0x180008, 0, 1⟩

/-- GAUGE_WMST: Watermark state (17_gauge.md, after R336). -/
def Reg.GAUGE_WMST.word : Fld := ⟨0x18000C, 0, 32⟩
def Reg.GAUGE_WMST.BUF : Fld := ⟨0x18000C, 0, 8⟩

/-- GAUGE_TMR: Gauge timer (17_gauge.md, after R336). -/
def Reg.GAUGE_TMR.word : Fld := ⟨0x180010, 0, 32⟩
def Reg.GAUGE_TMR.EN : Fld := ⟨0x180010, 31, 1⟩
def Reg.GAUGE_TMR.PERIOD : Fld := ⟨0x180010, 0, 16⟩

/-- GAUGE_PLCFG: Plausibility check (17_gauge.md, after R336). -/
def Reg.GAUGE_PLCFG.word : Fld := ⟨0x180014, 0, 32⟩
def Reg.GAUGE_PLCFG.SRC : Fld := ⟨0x180014, 24, 6⟩
def Reg.GAUGE_PLCFG.INTERVAL : Fld := ⟨0x180014, 16, 8⟩
def Reg.GAUGE_PLCFG.CNT : Fld := ⟨0x180014, 12, 4⟩
def Reg.GAUGE_PLCFG.WIN : Fld := ⟨0x180014, 0, 12⟩

/-- GAUGE_PLSTAT: Plausibility result (17_gauge.md, after R336). -/
def Reg.GAUGE_PLSTAT.word : Fld := ⟨0x180018, 0, 32⟩
def Reg.GAUGE_PLSTAT.FAILS : Fld := ⟨0x180018, 16, 16⟩
def Reg.GAUGE_PLSTAT.DIFF : Fld := ⟨0x180018, 0, 16⟩

/-- GAUGE_GA_CAL: GA calibration factors (17_gauge.md, after R336). -/
def Reg.GAUGE_GA_CAL.word : Fld := ⟨0x180020, 0, 32⟩
def Reg.GAUGE_GA_CAL.GAIN : Fld := ⟨0x180020, 16, 16⟩
def Reg.GAUGE_GA_CAL.OFS : Fld := ⟨0x180020, 0, 16⟩

/-- GAUGE_GB_CAL: GB calibration factors (17_gauge.md, after R336). -/
def Reg.GAUGE_GB_CAL.word : Fld := ⟨0x180024, 0, 32⟩
def Reg.GAUGE_GB_CAL.GAIN : Fld := ⟨0x180024, 16, 16⟩
def Reg.GAUGE_GB_CAL.OFS : Fld := ⟨0x180024, 0, 16⟩

/-- GAUGE_x_SEQ: Regular sequence (17_gauge.md, after R336). -/
def Reg.GAUGE_SEQ.word (c : Nat) : Fld := ⟨0x180100 + 0x100 * c, 0, 32⟩
def Reg.GAUGE_SEQ.EN (c : Nat) : Fld := ⟨0x180100 + 0x100 * c, 31, 1⟩
def Reg.GAUGE_SEQ.TRIG (c : Nat) : Fld := ⟨0x180100 + 0x100 * c, 28, 3⟩
def Reg.GAUGE_SEQ.PCH (c : Nat) : Fld := ⟨0x180100 + 0x100 * c, 25, 3⟩
def Reg.GAUGE_SEQ.LEN (c : Nat) : Fld := ⟨0x180100 + 0x100 * c, 16, 5⟩
def Reg.GAUGE_SEQ.DELAY (c : Nat) : Fld := ⟨0x180100 + 0x100 * c, 0, 12⟩

/-- GAUGE_x_INJCTL: Injected sequence (17_gauge.md, after R336). -/
def Reg.GAUGE_INJCTL.word (c : Nat) : Fld := ⟨0x180104 + 0x100 * c, 0, 32⟩
def Reg.GAUGE_INJCTL.EN (c : Nat) : Fld := ⟨0x180104 + 0x100 * c, 31, 1⟩
def Reg.GAUGE_INJCTL.SW (c : Nat) : Fld := ⟨0x180104 + 0x100 * c, 30, 1⟩
def Reg.GAUGE_INJCTL.TRIG (c : Nat) : Fld := ⟨0x180104 + 0x100 * c, 27, 3⟩
def Reg.GAUGE_INJCTL.LEN (c : Nat) : Fld := ⟨0x180104 + 0x100 * c, 24, 3⟩
def Reg.GAUGE_INJCTL.PMASK (c : Nat) : Fld := ⟨0x180104 + 0x100 * c, 8, 8⟩

/-- GAUGE_x_CNT: Overrun counts (17_gauge.md, after R336). -/
def Reg.GAUGE_CNT.word (c : Nat) : Fld := ⟨0x180108 + 0x100 * c, 0, 32⟩
def Reg.GAUGE_CNT.INJ_OVR (c : Nat) : Fld := ⟨0x180108 + 0x100 * c, 16, 16⟩
def Reg.GAUGE_CNT.REG_OVR (c : Nat) : Fld := ⟨0x180108 + 0x100 * c, 0, 16⟩

/-- GAUGE_x_REGe: Regular entry e (e = 0–31) (17_gauge.md, after R336). -/
def Reg.GAUGE_REG.word (c e : Nat) : Fld := ⟨0x180140 + 0x100 * c + 0x4 * e, 0, 32⟩
def Reg.GAUGE_REG.CH (c e : Nat) : Fld := ⟨0x180140 + 0x100 * c + 0x4 * e, 24, 6⟩
def Reg.GAUGE_REG.AVG (c e : Nat) : Fld := ⟨0x180140 + 0x100 * c + 0x4 * e, 20, 4⟩
def Reg.GAUGE_REG.SHIFT (c e : Nat) : Fld := ⟨0x180140 + 0x100 * c + 0x4 * e, 16, 4⟩
def Reg.GAUGE_REG.DEST (c e : Nat) : Fld := ⟨0x180140 + 0x100 * c + 0x4 * e, 12, 4⟩

/-- GAUGE_x_INJe: Injected entry e (e = 0–7) (17_gauge.md, after R336). -/
def Reg.GAUGE_INJ.word (c e : Nat) : Fld := ⟨0x1801C0 + 0x100 * c + 0x4 * e, 0, 32⟩
def Reg.GAUGE_INJ.CH (c e : Nat) : Fld := ⟨0x1801C0 + 0x100 * c + 0x4 * e, 24, 6⟩
def Reg.GAUGE_INJ.AVG (c e : Nat) : Fld := ⟨0x1801C0 + 0x100 * c + 0x4 * e, 20, 4⟩
def Reg.GAUGE_INJ.SHIFT (c e : Nat) : Fld := ⟨0x1801C0 + 0x100 * c + 0x4 * e, 16, 4⟩
def Reg.GAUGE_INJ.DEST (c e : Nat) : Fld := ⟨0x1801C0 + 0x100 * c + 0x4 * e, 12, 4⟩

/-- GAUGE_BUFn_BASE: Buffer n area (n = 0–7) (17_gauge.md, after R336). -/
def Reg.GAUGE_BUF_BASE.word (n : Nat) : Fld := ⟨0x180400 + 0x10 * n, 0, 32⟩
def Reg.GAUGE_BUF_BASE.ADDR (n : Nat) : Fld := ⟨0x180400 + 0x10 * n, 2, 18⟩

/-- GAUGE_BUFn_CFG: Buffer configuration (17_gauge.md, after R336). -/
def Reg.GAUGE_BUF_CFG.word (n : Nat) : Fld := ⟨0x180404 + 0x10 * n, 0, 32⟩
def Reg.GAUGE_BUF_CFG.EN (n : Nat) : Fld := ⟨0x180404 + 0x10 * n, 31, 1⟩
def Reg.GAUGE_BUF_CFG.SIZE (n : Nat) : Fld := ⟨0x180404 + 0x10 * n, 16, 4⟩
def Reg.GAUGE_BUF_CFG.WM (n : Nat) : Fld := ⟨0x180404 + 0x10 * n, 0, 16⟩

/-- GAUGE_BUFn_WR: Buffer write state (17_gauge.md, after R336). -/
def Reg.GAUGE_BUF_WR.word (n : Nat) : Fld := ⟨0x180408 + 0x10 * n, 0, 32⟩
def Reg.GAUGE_BUF_WR.DROP (n : Nat) : Fld := ⟨0x180408 + 0x10 * n, 16, 16⟩
def Reg.GAUGE_BUF_WR.WR (n : Nat) : Fld := ⟨0x180408 + 0x10 * n, 0, 16⟩

/-- GAUGE_BUFn_RD: Buffer read index (17_gauge.md, after R336). -/
def Reg.GAUGE_BUF_RD.word (n : Nat) : Fld := ⟨0x18040C + 0x10 * n, 0, 32⟩
def Reg.GAUGE_BUF_RD.RD (n : Nat) : Fld := ⟨0x18040C + 0x10 * n, 0, 16⟩

/-! ### Fields of block HOST -/

/-- HOST_HSP_CFG: Host SPI configuration (18_host_ports.md, after R356). -/
def Reg.HOST_HSP_CFG.word : Fld := ⟨0x50000, 0, 32⟩
def Reg.HOST_HSP_CFG.CRC : Fld := ⟨0x50000, 0, 1⟩

/-- HOST_HSP_STAT: Host SPI errors (18_host_ports.md, after R356). -/
def Reg.HOST_HSP_STAT.word : Fld := ⟨0x50004, 0, 32⟩
def Reg.HOST_HSP_STAT.ERRS : Fld := ⟨0x50004, 16, 16⟩
def Reg.HOST_HSP_STAT.OVERFLOW : Fld := ⟨0x50004, 4, 1⟩
def Reg.HOST_HSP_STAT.ABORT : Fld := ⟨0x50004, 3, 1⟩
def Reg.HOST_HSP_STAT.CRC_ERR : Fld := ⟨0x50004, 2, 1⟩
def Reg.HOST_HSP_STAT.MISALIGN : Fld := ⟨0x50004, 1, 1⟩
def Reg.HOST_HSP_STAT.REFUSED : Fld := ⟨0x50004, 0, 1⟩

/-- HOST_HSP_ERRADDR: First refused access (18_host_ports.md, after R356). -/
def Reg.HOST_HSP_ERRADDR.word : Fld := ⟨0x50008, 0, 32⟩
def Reg.HOST_HSP_ERRADDR.OP : Fld := ⟨0x50008, 30, 2⟩
def Reg.HOST_HSP_ERRADDR.ADDR : Fld := ⟨0x50008, 0, 24⟩

/-- HOST_MBX_TX: Mailbox request data (18_host_ports.md, after R356). -/
def Reg.HOST_MBX_TX.word : Fld := ⟨0x50010, 0, 32⟩
def Reg.HOST_MBX_TX.DATA : Fld := ⟨0x50010, 0, 32⟩

/-- HOST_MBX_CTL: Mailbox control (18_host_ports.md, after R356). -/
def Reg.HOST_MBX_CTL.word : Fld := ⟨0x50014, 0, 32⟩
def Reg.HOST_MBX_CTL.GO : Fld := ⟨0x50014, 31, 1⟩
def Reg.HOST_MBX_CTL.DISCARD : Fld := ⟨0x50014, 30, 1⟩
def Reg.HOST_MBX_CTL.LEN : Fld := ⟨0x50014, 0, 13⟩

/-- HOST_MBX_RX: Mailbox response data (18_host_ports.md, after R356). -/
def Reg.HOST_MBX_RX.word : Fld := ⟨0x50018, 0, 32⟩
def Reg.HOST_MBX_RX.DATA : Fld := ⟨0x50018, 0, 32⟩

/-- HOST_MBX_STAT: Mailbox state (18_host_ports.md, after R356). -/
def Reg.HOST_MBX_STAT.word : Fld := ⟨0x5001C, 0, 32⟩
def Reg.HOST_MBX_STAT.RESP : Fld := ⟨0x5001C, 31, 1⟩
def Reg.HOST_MBX_STAT.BUSY : Fld := ⟨0x5001C, 30, 1⟩
def Reg.HOST_MBX_STAT.REJECT : Fld := ⟨0x5001C, 29, 1⟩
def Reg.HOST_MBX_STAT.LEN : Fld := ⟨0x5001C, 0, 13⟩

/-- HOST_TWT_CFG: Two-wire target configuration (18_host_ports.md, after R356). -/
def Reg.HOST_TWT_CFG.word : Fld := ⟨0x50040, 0, 32⟩
def Reg.HOST_TWT_CFG.MODE : Fld := ⟨0x50040, 31, 1⟩
def Reg.HOST_TWT_CFG.WEN : Fld := ⟨0x50040, 27, 4⟩
def Reg.HOST_TWT_CFG.DFILT : Fld := ⟨0x50040, 20, 4⟩
def Reg.HOST_TWT_CFG.WAKE : Fld := ⟨0x50040, 16, 1⟩
def Reg.HOST_TWT_CFG.MASK : Fld := ⟨0x50040, 8, 7⟩
def Reg.HOST_TWT_CFG.BASE : Fld := ⟨0x50040, 0, 7⟩

/-- HOST_TWT_STAT: Two-wire target state (18_host_ports.md, after R356). -/
def Reg.HOST_TWT_STAT.word : Fld := ⟨0x50044, 0, 32⟩
def Reg.HOST_TWT_STAT.ABORTS : Fld := ⟨0x50044, 16, 16⟩
def Reg.HOST_TWT_STAT.PINS : Fld := ⟨0x50044, 0, 2⟩

/-- HOST_TWT_EVT: Two-wire target events (18_host_ports.md, after R356). -/
def Reg.HOST_TWT_EVT.word : Fld := ⟨0x50048, 0, 32⟩
def Reg.HOST_TWT_EVT.CFG_ERR : Fld := ⟨0x50048, 3, 1⟩
def Reg.HOST_TWT_EVT.WAKE : Fld := ⟨0x50048, 2, 1⟩
def Reg.HOST_TWT_EVT.ABORT : Fld := ⟨0x50048, 1, 1⟩
def Reg.HOST_TWT_EVT.NACK : Fld := ⟨0x50048, 0, 1⟩

/-- HOST_TWC_CFG: Two-wire controller configuration (18_host_ports.md, after R356). -/
def Reg.HOST_TWC_CFG.word : Fld := ⟨0x50080, 0, 32⟩
def Reg.HOST_TWC_CFG.SPEED : Fld := ⟨0x50080, 30, 2⟩
def Reg.HOST_TWC_CFG.RETRY : Fld := ⟨0x50080, 27, 3⟩
def Reg.HOST_TWC_CFG.BACKOFF : Fld := ⟨0x50080, 16, 8⟩
def Reg.HOST_TWC_CFG.STRETCH_TO : Fld := ⟨0x50080, 8, 8⟩

/-- HOST_TWC_STAT: Last controller error (18_host_ports.md, after R356). -/
def Reg.HOST_TWC_STAT.word : Fld := ⟨0x50084, 0, 32⟩
def Reg.HOST_TWC_STAT.ERR : Fld := ⟨0x50084, 28, 4⟩
def Reg.HOST_TWC_STAT.BYTE : Fld := ⟨0x50084, 16, 8⟩
def Reg.HOST_TWC_STAT.BIT : Fld := ⟨0x50084, 8, 3⟩
def Reg.HOST_TWC_STAT.ADDR : Fld := ⟨0x50084, 0, 7⟩

/-- HOST_TWC_CNT: Controller counts (18_host_ports.md, after R356). -/
def Reg.HOST_TWC_CNT.word : Fld := ⟨0x50088, 0, 32⟩
def Reg.HOST_TWC_CNT.ARB : Fld := ⟨0x50088, 16, 16⟩
def Reg.HOST_TWC_CNT.FAIL : Fld := ⟨0x50088, 0, 16⟩

/-- HOST_BSP_ID: Boot flash identity (18_host_ports.md, after R356). -/
def Reg.HOST_BSP_ID.word : Fld := ⟨0x500C0, 0, 32⟩
def Reg.HOST_BSP_ID.JEDEC : Fld := ⟨0x500C0, 0, 24⟩

/-- HOST_BSP_STAT: Boot flash mode (18_host_ports.md, after R356). -/
def Reg.HOST_BSP_STAT.word : Fld := ⟨0x500C4, 0, 32⟩
def Reg.HOST_BSP_STAT.DENSITY : Fld := ⟨0x500C4, 24, 8⟩
def Reg.HOST_BSP_STAT.READ : Fld := ⟨0x500C4, 1, 2⟩
def Reg.HOST_BSP_STAT.OK : Fld := ⟨0x500C4, 0, 1⟩

/-! ### Fields of block IC -/

/-- IC_CFG: Controller mode (20_interrupts.md, after R382). -/
def Reg.IC_CFG.word : Fld := ⟨0x40000, 0, 32⟩
def Reg.IC_CFG.MODE : Fld := ⟨0x40000, 0, 1⟩

/-- IC_EVT: Controller events (20_interrupts.md, after R382). -/
def Reg.IC_EVT.word : Fld := ⟨0x40004, 0, 32⟩
def Reg.IC_EVT.CFG_IGN : Fld := ⟨0x40004, 1, 1⟩
def Reg.IC_EVT.BAD_COMPLETE : Fld := ⟨0x40004, 0, 1⟩

/-- IC_STAT: Wake state (20_interrupts.md, after R382). -/
def Reg.IC_STAT.word : Fld := ⟨0x40008, 0, 32⟩
def Reg.IC_STAT.WAKE_HB : Fld := ⟨0x40008, 1, 1⟩
def Reg.IC_STAT.WAKE_HA : Fld := ⟨0x40008, 0, 1⟩

/-- IC_TGT_SLEEP: Sleeping targets (20_interrupts.md, after R382). -/
def Reg.IC_TGT_SLEEP.word : Fld := ⟨0x4000C, 0, 32⟩
def Reg.IC_TGT_SLEEP.SLEEP : Fld := ⟨0x4000C, 0, 3⟩

/-- IC_SWSET: Software sources (20_interrupts.md, after R382). -/
def Reg.IC_SWSET.word : Fld := ⟨0x40010, 0, 32⟩
def Reg.IC_SWSET.SRC : Fld := ⟨0x40010, 0, 6⟩

/-- IC_PENDn: Pending sources (n = 0–7) (20_interrupts.md, after R382). -/
def Reg.IC_PEND.word (n : Nat) : Fld := ⟨0x40020 + 0x4 * n, 0, 32⟩
def Reg.IC_PEND.PEND (n : Nat) : Fld := ⟨0x40020 + 0x4 * n, 0, 32⟩

/-- IC_ACTn: Sources in service (n = 0–7) (20_interrupts.md, after R382). -/
def Reg.IC_ACT.word (n : Nat) : Fld := ⟨0x40040 + 0x4 * n, 0, 32⟩
def Reg.IC_ACT.ACT (n : Nat) : Fld := ⟨0x40040 + 0x4 * n, 0, 32⟩

/-- IC_THR_x: Threshold (20_interrupts.md, after R382). -/
def Reg.IC_THR.word (t : Nat) : Fld := ⟨0x40100 + 0x40 * t, 0, 32⟩
def Reg.IC_THR.THR (t : Nat) : Fld := ⟨0x40100 + 0x40 * t, 0, 4⟩

/-- IC_CLAIM_x: Claim (20_interrupts.md, after R382). -/
def Reg.IC_CLAIM.word (t : Nat) : Fld := ⟨0x40104 + 0x40 * t, 0, 32⟩
def Reg.IC_CLAIM.CLAIM (t : Nat) : Fld := ⟨0x40104 + 0x40 * t, 0, 16⟩

/-- IC_SNAP_x: Claim snapshot (20_interrupts.md, after R382). -/
def Reg.IC_SNAP.word (t : Nat) : Fld := ⟨0x40108 + 0x40 * t, 0, 32⟩
def Reg.IC_SNAP.STATUS (t : Nat) : Fld := ⟨0x40108 + 0x40 * t, 0, 32⟩

/-- IC_COMPLETE_x: Completion (20_interrupts.md, after R382). -/
def Reg.IC_COMPLETE.word (t : Nat) : Fld := ⟨0x4010C + 0x40 * t, 0, 32⟩
def Reg.IC_COMPLETE.ID (t : Nat) : Fld := ⟨0x4010C + 0x40 * t, 0, 8⟩

/-- IC_RUN_x: Running state (20_interrupts.md, after R382). -/
def Reg.IC_RUN.word (t : Nat) : Fld := ⟨0x40110 + 0x40 * t, 0, 32⟩
def Reg.IC_RUN.DEPTH (t : Nat) : Fld := ⟨0x40110 + 0x40 * t, 8, 4⟩
def Reg.IC_RUN.LEVEL (t : Nat) : Fld := ⟨0x40110 + 0x40 * t, 0, 4⟩

/-- IC_SRCn: Source n (n = 1–255) (20_interrupts.md, after R382). -/
def Reg.IC_SRC.word (n : Nat) : Fld := ⟨0x40400 + 0x4 * n, 0, 32⟩
def Reg.IC_SRC.KIND (n : Nat) : Fld := ⟨0x40400 + 0x4 * n, 16, 1⟩
def Reg.IC_SRC.WAKE (n : Nat) : Fld := ⟨0x40400 + 0x4 * n, 12, 1⟩
def Reg.IC_SRC.MASK (n : Nat) : Fld := ⟨0x40400 + 0x4 * n, 8, 4⟩
def Reg.IC_SRC.LEVEL (n : Nat) : Fld := ⟨0x40400 + 0x4 * n, 0, 4⟩

/-! ### Fields of block STEW -/

/-- STEW_CTL: Steward control (21_faults_ageing_recovery.md, after R407). -/
def Reg.STEW_CTL.word : Fld := ⟨0x70000, 0, 32⟩
def Reg.STEW_CTL.SKIM : Fld := ⟨0x70000, 31, 1⟩
def Reg.STEW_CTL.RETEST : Fld := ⟨0x70000, 30, 1⟩
def Reg.STEW_CTL.RT_CLASS : Fld := ⟨0x70000, 12, 4⟩
def Reg.STEW_CTL.RT_UNIT : Fld := ⟨0x70000, 0, 8⟩

/-- STEW_STAT: Steward state (21_faults_ageing_recovery.md, after R407). -/
def Reg.STEW_STAT.word : Fld := ⟨0x70004, 0, 32⟩
def Reg.STEW_STAT.CORES : Fld := ⟨0x70004, 30, 2⟩
def Reg.STEW_STAT.SKIM : Fld := ⟨0x70004, 28, 2⟩
def Reg.STEW_STAT.TESTS : Fld := ⟨0x70004, 0, 8⟩

/-- STEW_EVT: Steward events (21_faults_ageing_recovery.md, after R407). -/
def Reg.STEW_EVT.word : Fld := ⟨0x70008, 0, 32⟩
def Reg.STEW_EVT.THERM_CRIT : Fld := ⟨0x70008, 12, 1⟩
def Reg.STEW_EVT.THERM_HOT : Fld := ⟨0x70008, 11, 1⟩
def Reg.STEW_EVT.THERM_WARN : Fld := ⟨0x70008, 10, 1⟩
def Reg.STEW_EVT.GX_SUSPECT : Fld := ⟨0x70008, 9, 1⟩
def Reg.STEW_EVT.STEWARD : Fld := ⟨0x70008, 8, 1⟩
def Reg.STEW_EVT.LEDGER_ERR : Fld := ⟨0x70008, 7, 1⟩
def Reg.STEW_EVT.PLAN : Fld := ⟨0x70008, 6, 1⟩
def Reg.STEW_EVT.RECAL_DUE : Fld := ⟨0x70008, 5, 1⟩
def Reg.STEW_EVT.MARGIN_LOW : Fld := ⟨0x70008, 4, 1⟩
def Reg.STEW_EVT.SKIM_DONE : Fld := ⟨0x70008, 3, 1⟩
def Reg.STEW_EVT.RETIRED : Fld := ⟨0x70008, 2, 1⟩
def Reg.STEW_EVT.LASTING : Fld := ⟨0x70008, 1, 1⟩
def Reg.STEW_EVT.TEST_DONE : Fld := ⟨0x70008, 0, 1⟩

/-- STEW_FSTAT: Fault flags (21_faults_ageing_recovery.md, after R407). -/
def Reg.STEW_FSTAT.word : Fld := ⟨0x7000C, 0, 32⟩
def Reg.STEW_FSTAT.CLASS : Fld := ⟨0x7000C, 0, 16⟩

/-- STEW_LAST: Last error (21_faults_ageing_recovery.md, after R407). -/
def Reg.STEW_LAST.word : Fld := ⟨0x70010, 0, 32⟩
def Reg.STEW_LAST.CLASS : Fld := ⟨0x70010, 28, 4⟩
def Reg.STEW_LAST.UNIT : Fld := ⟨0x70010, 20, 8⟩
def Reg.STEW_LAST.OUTCOME : Fld := ⟨0x70010, 18, 2⟩
def Reg.STEW_LAST.COUNT : Fld := ⟨0x70010, 0, 16⟩

/-- STEW_LAST_DATA: Last test measurement (21_faults_ageing_recovery.md, after R407). -/
def Reg.STEW_LAST_DATA.word : Fld := ⟨0x70014, 0, 32⟩
def Reg.STEW_LAST_DATA.DATA : Fld := ⟨0x70014, 0, 32⟩

/-- STEW_MINUTES: Powered time (21_faults_ageing_recovery.md, after R407). -/
def Reg.STEW_MINUTES.word : Fld := ⟨0x70018, 0, 32⟩
def Reg.STEW_MINUTES.MIN : Fld := ⟨0x70018, 0, 32⟩

/-- STEW_THERM: Die temperature (21_faults_ageing_recovery.md, after R407). -/
def Reg.STEW_THERM.word : Fld := ⟨0x7001C, 0, 32⟩
def Reg.STEW_THERM.TJ : Fld := ⟨0x7001C, 24, 8⟩
def Reg.STEW_THERM.PEAK : Fld := ⟨0x7001C, 16, 8⟩
def Reg.STEW_THERM.SENSOR : Fld := ⟨0x7001C, 0, 3⟩

/-- STEW_MARGIN: Remaining margin (21_faults_ageing_recovery.md, after R407). -/
def Reg.STEW_MARGIN.word : Fld := ⟨0x70020, 0, 32⟩
def Reg.STEW_MARGIN.STALE : Fld := ⟨0x70020, 31, 1⟩
def Reg.STEW_MARGIN.EXP : Fld := ⟨0x70020, 24, 7⟩
def Reg.STEW_MARGIN.HOURS : Fld := ⟨0x70020, 0, 20⟩

/-- STEW_VFAB: Fabric supply plan (21_faults_ageing_recovery.md, after R407). -/
def Reg.STEW_VFAB.word : Fld := ⟨0x70024, 0, 32⟩
def Reg.STEW_VFAB.SLOPE : Fld := ⟨0x70024, 24, 8⟩
def Reg.STEW_VFAB.TARGET : Fld := ⟨0x70024, 10, 10⟩
def Reg.STEW_VFAB.SETPOINT : Fld := ⟨0x70024, 0, 10⟩

/-- STEW_AMn: Ageing monitor n (n = 0–15) (21_faults_ageing_recovery.md, after R407). -/
def Reg.STEW_AM.word (n : Nat) : Fld := ⟨0x70040 + 0x4 * n, 0, 32⟩
def Reg.STEW_AM.DEGR (n : Nat) : Fld := ⟨0x70040 + 0x4 * n, 0, 16⟩

/-- STEW_SLACKb: Basin slack (b = 0–9) (21_faults_ageing_recovery.md, after R407). -/
def Reg.STEW_SLACK.word (b : Nat) : Fld := ⟨0x70080 + 0x4 * b, 0, 32⟩
def Reg.STEW_SLACK.STALE (b : Nat) : Fld := ⟨0x70080 + 0x4 * b, 31, 1⟩
def Reg.STEW_SLACK.STRESS (b : Nat) : Fld := ⟨0x70080 + 0x4 * b, 30, 1⟩
def Reg.STEW_SLACK.PS (b : Nat) : Fld := ⟨0x70080 + 0x4 * b, 0, 8⟩

/-- STEW_LEDGER_NEW: Newest record (21_faults_ageing_recovery.md, after R407). -/
def Reg.STEW_LEDGER_NEW.word : Fld := ⟨0x700C0, 0, 32⟩
def Reg.STEW_LEDGER_NEW.INDEX : Fld := ⟨0x700C0, 0, 32⟩

/-- STEW_LEDGER_OLD: Oldest record (21_faults_ageing_recovery.md, after R407). -/
def Reg.STEW_LEDGER_OLD.word : Fld := ⟨0x700C4, 0, 32⟩
def Reg.STEW_LEDGER_OLD.INDEX : Fld := ⟨0x700C4, 0, 32⟩

/-- STEW_LEDGER_STAT: Ledger state (21_faults_ageing_recovery.md, after R407). -/
def Reg.STEW_LEDGER_STAT.word : Fld := ⟨0x700C8, 0, 32⟩
def Reg.STEW_LEDGER_STAT.ERASES : Fld := ⟨0x700C8, 16, 16⟩
def Reg.STEW_LEDGER_STAT.FAILS : Fld := ⟨0x700C8, 8, 8⟩
def Reg.STEW_LEDGER_STAT.OK : Fld := ⟨0x700C8, 0, 1⟩

/-- STEW_POL_GEN: General policy (21_faults_ageing_recovery.md, after R407). -/
def Reg.STEW_POL_GEN.word : Fld := ⟨0x70100, 0, 32⟩
def Reg.STEW_POL_GEN.BASIN_STRIKES : Fld := ⟨0x70100, 8, 3⟩
def Reg.STEW_POL_GEN.FREQ_UP : Fld := ⟨0x70100, 5, 1⟩
def Reg.STEW_POL_GEN.MARGIN_COMMIT : Fld := ⟨0x70100, 4, 1⟩
def Reg.STEW_POL_GEN.RESERVE_COUNT : Fld := ⟨0x70100, 0, 2⟩

/-- STEW_POL_FAULT: FAULT_N policy (21_faults_ageing_recovery.md, after R407). -/
def Reg.STEW_POL_FAULT.word : Fld := ⟨0x70104, 0, 32⟩
def Reg.STEW_POL_FAULT.FLT_LAST : Fld := ⟨0x70104, 16, 16⟩
def Reg.STEW_POL_FAULT.FLT_ANY : Fld := ⟨0x70104, 0, 16⟩

/-- STEW_POL_SAFE: SAFE policy (21_faults_ageing_recovery.md, after R407). -/
def Reg.STEW_POL_SAFE.word : Fld := ⟨0x70108, 0, 32⟩
def Reg.STEW_POL_SAFE.MASK : Fld := ⟨0x70108, 0, 16⟩

/-- STEW_POL_THERM: Thermal policy (21_faults_ageing_recovery.md, after R407). -/
def Reg.STEW_POL_THERM.word : Fld := ⟨0x7010C, 0, 32⟩
def Reg.STEW_POL_THERM.TCRIT : Fld := ⟨0x7010C, 16, 8⟩
def Reg.STEW_POL_THERM.THOT : Fld := ⟨0x7010C, 8, 8⟩
def Reg.STEW_POL_THERM.TWARN : Fld := ⟨0x7010C, 0, 8⟩

/-- STEW_POL_MARGIN: Margin policy (21_faults_ageing_recovery.md, after R407). -/
def Reg.STEW_POL_MARGIN.word : Fld := ⟨0x70110, 0, 32⟩
def Reg.STEW_POL_MARGIN.SLACK_MIN : Fld := ⟨0x70110, 24, 8⟩
def Reg.STEW_POL_MARGIN.DT_GUARD : Fld := ⟨0x70110, 16, 8⟩
def Reg.STEW_POL_MARGIN.LIM_FLOOR : Fld := ⟨0x70110, 8, 8⟩
def Reg.STEW_POL_MARGIN.GCAL_D : Fld := ⟨0x70110, 0, 8⟩

/-- STEW_POL_WARN: Margin warning (21_faults_ageing_recovery.md, after R407). -/
def Reg.STEW_POL_WARN.word : Fld := ⟨0x70114, 0, 32⟩
def Reg.STEW_POL_WARN.MARGIN_WARN : Fld := ⟨0x70114, 0, 20⟩

/-- STEW_POL_SEC: Security policy (23_security_and_presence.md, after R439). -/
def Reg.STEW_POL_SEC.word : Fld := ⟨0x70118, 0, 32⟩
def Reg.STEW_POL_SEC.PRES_WIN : Fld := ⟨0x70118, 16, 9⟩
def Reg.STEW_POL_SEC.SEAL_BLOCK : Fld := ⟨0x70118, 1, 1⟩
def Reg.STEW_POL_SEC.PRES_JUMPER_OK : Fld := ⟨0x70118, 0, 1⟩

/-! ### Fields of block PWRM -/

/-- PWRM_CTL: Mode request (22_power_modes_and_reset.md, after R425). -/
def Reg.PWRM_CTL.word : Fld := ⟨0x30000, 0, 32⟩
def Reg.PWRM_CTL.GO : Fld := ⟨0x30000, 31, 1⟩
def Reg.PWRM_CTL.MODE : Fld := ⟨0x30000, 0, 3⟩

/-- PWRM_STAT: Power state (22_power_modes_and_reset.md, after R425). -/
def Reg.PWRM_STAT.word : Fld := ⟨0x30004, 0, 32⟩
def Reg.PWRM_STAT.CHANGING : Fld := ⟨0x30004, 31, 1⟩
def Reg.PWRM_STAT.MODE : Fld := ⟨0x30004, 24, 3⟩
def Reg.PWRM_STAT.DOM_ON : Fld := ⟨0x30004, 16, 8⟩
def Reg.PWRM_STAT.SUPPLY_OK : Fld := ⟨0x30004, 0, 8⟩

/-- PWRM_EVT: Power events (22_power_modes_and_reset.md, after R425). -/
def Reg.PWRM_EVT.word : Fld := ⟨0x30008, 0, 32⟩
def Reg.PWRM_EVT.VFAB_ERR : Fld := ⟨0x30008, 4, 1⟩
def Reg.PWRM_EVT.SUPPLY : Fld := ⟨0x30008, 3, 1⟩
def Reg.PWRM_EVT.REQ_ERR : Fld := ⟨0x30008, 2, 1⟩
def Reg.PWRM_EVT.WAKE : Fld := ⟨0x30008, 1, 1⟩
def Reg.PWRM_EVT.DONE : Fld := ⟨0x30008, 0, 1⟩

/-- PWRM_WAKE_EN: Wake enables (22_power_modes_and_reset.md, after R425). -/
def Reg.PWRM_WAKE_EN.word : Fld := ⟨0x3000C, 0, 32⟩
def Reg.PWRM_WAKE_EN.SRC : Fld := ⟨0x3000C, 1, 7⟩

/-- PWRM_WAKE_SRC: Wake and reset cause (22_power_modes_and_reset.md, after R425). -/
def Reg.PWRM_WAKE_SRC.word : Fld := ⟨0x30010, 0, 32⟩
def Reg.PWRM_WAKE_SRC.CAUSE : Fld := ⟨0x30010, 24, 8⟩
def Reg.PWRM_WAKE_SRC.LAST : Fld := ⟨0x30010, 0, 8⟩

/-- PWRM_TMR: AON timer (22_power_modes_and_reset.md, after R425). -/
def Reg.PWRM_TMR.word : Fld := ⟨0x30014, 0, 32⟩
def Reg.PWRM_TMR.EN : Fld := ⟨0x30014, 31, 1⟩
def Reg.PWRM_TMR.SEC : Fld := ⟨0x30014, 0, 24⟩

/-- PWRM_RST: Domain reset (22_power_modes_and_reset.md, after R425). -/
def Reg.PWRM_RST.word : Fld := ⟨0x30018, 0, 32⟩
def Reg.PWRM_RST.DOM : Fld := ⟨0x30018, 0, 8⟩

/-- PWRM_VFAB_CFG: VDD_FAB regulator (22_power_modes_and_reset.md, after R425). -/
def Reg.PWRM_VFAB_CFG.word : Fld := ⟨0x30020, 0, 32⟩
def Reg.PWRM_VFAB_CFG.EN : Fld := ⟨0x30020, 31, 1⟩
def Reg.PWRM_VFAB_CFG.PAGE : Fld := ⟨0x30020, 8, 8⟩
def Reg.PWRM_VFAB_CFG.ADDR : Fld := ⟨0x30020, 0, 7⟩

/-- PWRM_VFAB_STAT: VDD_FAB regulator state (22_power_modes_and_reset.md, after R425). -/
def Reg.PWRM_VFAB_STAT.word : Fld := ⟨0x30024, 0, 32⟩
def Reg.PWRM_VFAB_STAT.ABSENT : Fld := ⟨0x30024, 31, 1⟩
def Reg.PWRM_VFAB_STAT.MV : Fld := ⟨0x30024, 0, 10⟩

/-! ### Fields of block GPIO -/

/-- GPIO_DIR: Direction (22_power_modes_and_reset.md, after R425). -/
def Reg.GPIO_DIR.word : Fld := ⟨0x1B0000, 0, 32⟩
def Reg.GPIO_DIR.OUT : Fld := ⟨0x1B0000, 0, 8⟩

/-- GPIO_OUT: Output levels (22_power_modes_and_reset.md, after R425). -/
def Reg.GPIO_OUT.word : Fld := ⟨0x1B0004, 0, 32⟩
def Reg.GPIO_OUT.LEVEL : Fld := ⟨0x1B0004, 0, 8⟩

/-- GPIO_IN: Input levels (22_power_modes_and_reset.md, after R425). -/
def Reg.GPIO_IN.word : Fld := ⟨0x1B0008, 0, 32⟩
def Reg.GPIO_IN.LEVEL : Fld := ⟨0x1B0008, 0, 8⟩

/-- GPIO_EDGE: Event edges (22_power_modes_and_reset.md, after R425). -/
def Reg.GPIO_EDGE.word : Fld := ⟨0x1B000C, 0, 32⟩
def Reg.GPIO_EDGE.EDGE : Fld := ⟨0x1B000C, 0, 16⟩

/-- GPIO_EVT: GPIO events (22_power_modes_and_reset.md, after R425). -/
def Reg.GPIO_EVT.word : Fld := ⟨0x1B0010, 0, 32⟩
def Reg.GPIO_EVT.PIN : Fld := ⟨0x1B0010, 0, 8⟩

/-! ### Fields of block SEC -/

/-- SEC_STAT: Security state (23_security_and_presence.md, after R439). -/
def Reg.SEC_STAT.word : Fld := ⟨0x60000, 0, 32⟩
def Reg.SEC_STAT.LOCK_FUSE : Fld := ⟨0x60000, 31, 1⟩
def Reg.SEC_STAT.LOCKED : Fld := ⟨0x60000, 30, 1⟩
def Reg.SEC_STAT.SESSION : Fld := ⟨0x60000, 29, 1⟩
def Reg.SEC_STAT.PRES : Fld := ⟨0x60000, 28, 1⟩
def Reg.SEC_STAT.JUMPER : Fld := ⟨0x60000, 27, 1⟩
def Reg.SEC_STAT.SEAL_BROKEN : Fld := ⟨0x60000, 26, 1⟩
def Reg.SEC_STAT.SEAL_OPEN : Fld := ⟨0x60000, 25, 1⟩
def Reg.SEC_STAT.UKEY : Fld := ⟨0x60000, 24, 1⟩
def Reg.SEC_STAT.IKEY : Fld := ⟨0x60000, 23, 1⟩
def Reg.SEC_STAT.FAILS : Fld := ⟨0x60000, 20, 3⟩
def Reg.SEC_STAT.SLOT_SET : Fld := ⟨0x60000, 16, 4⟩
def Reg.SEC_STAT.SLOT_REVOKED : Fld := ⟨0x60000, 12, 4⟩
def Reg.SEC_STAT.PRES_LEFT : Fld := ⟨0x60000, 0, 9⟩

/-- SEC_EVT: Security events (23_security_and_presence.md, after R439). -/
def Reg.SEC_EVT.word : Fld := ⟨0x60004, 0, 32⟩
def Reg.SEC_EVT.PRESS : Fld := ⟨0x60004, 7, 1⟩
def Reg.SEC_EVT.FPROG_DONE : Fld := ⟨0x60004, 6, 1⟩
def Reg.SEC_EVT.FPROG_ERR : Fld := ⟨0x60004, 5, 1⟩
def Reg.SEC_EVT.JUMPER : Fld := ⟨0x60004, 4, 1⟩
def Reg.SEC_EVT.SEAL : Fld := ⟨0x60004, 3, 1⟩
def Reg.SEC_EVT.AUTH_FAIL : Fld := ⟨0x60004, 2, 1⟩
def Reg.SEC_EVT.UNLOCK : Fld := ⟨0x60004, 1, 1⟩
def Reg.SEC_EVT.DENIED : Fld := ⟨0x60004, 0, 1⟩

/-- SEC_CTL: Security control (23_security_and_presence.md, after R439). -/
def Reg.SEC_CTL.word : Fld := ⟨0x60008, 0, 32⟩
def Reg.SEC_CTL.RELOCK : Fld := ⟨0x60008, 31, 1⟩
def Reg.SEC_CTL.SEAL_CLR : Fld := ⟨0x60008, 30, 1⟩

/-- SEC_FPROG: eFuse program (23_security_and_presence.md, after R439). -/
def Reg.SEC_FPROG.word : Fld := ⟨0x6000C, 0, 32⟩
def Reg.SEC_FPROG.GO : Fld := ⟨0x6000C, 31, 1⟩
def Reg.SEC_FPROG.BUSY : Fld := ⟨0x6000C, 30, 1⟩
def Reg.SEC_FPROG.RESULT : Fld := ⟨0x6000C, 27, 3⟩
def Reg.SEC_FPROG.KEY : Fld := ⟨0x6000C, 16, 8⟩
def Reg.SEC_FPROG.TARGET : Fld := ⟨0x6000C, 0, 4⟩

/-- SEC_FDATAi: Program data (i = 0–7) (23_security_and_presence.md, after R439). -/
def Reg.SEC_FDATA.word (i : Nat) : Fld := ⟨0x60020 + 0x4 * i, 0, 32⟩
def Reg.SEC_FDATA.DATA (i : Nat) : Fld := ⟨0x60020 + 0x4 * i, 0, 32⟩

/-- SEC_KEYn_Hi: Key slot hash (n = 0–3, i = 0–7) (23_security_and_presence.md, after R439). -/
def Reg.SEC_KEY_H.word (n i : Nat) : Fld := ⟨0x60100 + 0x20 * n + 0x4 * i, 0, 32⟩
def Reg.SEC_KEY_H.HASH (n i : Nat) : Fld := ⟨0x60100 + 0x20 * n + 0x4 * i, 0, 32⟩

end Sys2Proof.Machine
end

