-- ==== Sys2Proof/Machine/State.lean ====
section
/-! DEFINITION. The state of the ULQ-4896 as plain data. The register bank `regs` holds the word in effect of every
register of 24_register_index.md; the structures below hold what the spec names behind the registers. The docstring of
each field cites the rule that names it; every reset value here is the spec's or is named in the assumption log. -/

namespace Sys2Proof.Machine

/-- No command ends in a fault: what the spec calls a fault is state (INVENTORY.md, Faults). The one constructor is
never answered. -/
inductive Fault where
  /-- Raised by nothing: a closed reason kept so that the outcome type has all three cases. Safe. -/
  | none
deriving DecidableEq, Repr

/-- Why a command has no next state. -/
inductive Refusal where
  /-- The command has no meaning in this model yet. Raised by exec's refused arms only. Safe: the model stops where
  the hardware goes on. -/
  | notModelled (mnemonic : String)
deriving DecidableEq, Repr

/-! ### Shared small types -/

/-- A linear ramp: from `start` to `goal` over `dur` ms beginning at time `at_`. -/
structure Ramp where
  start : Nat := 0
  goal : Nat := 0
  at_ : Nat := 0
  dur : Nat := 0
deriving DecidableEq, Repr

/-- One staged TC value: which bits of the word are staged, and their values (R32). -/
structure Staged where
  mask : Word := 0
  value : Word := 0
  /-- The staged bits that a steward wrote last (R403). -/
  stew : Word := 0
deriving DecidableEq, Repr

/-- A TC write granted in weir cycles 0 to 183 and held until the buffer reopens (R34). -/
structure HeldWrite where
  addr : Nat
  value : Word
  who : Requester
deriving DecidableEq, Repr

/-! ### Tick and commit (02_tick_and_commit.md) -/

/-- The tick generator and the commit (R29 to R42). -/
structure TickSt where
  /-- TICK_COUNT (R29). -/
  count : TickNo := 0
  /-- PLL-A has locked since POR, so ticks are counted (R29). -/
  started : Bool := false
  /-- Tick of the last applied commit (DEV_COMMIT_LAST, R36). -/
  last : TickNo := 0
  /-- The armed COMMIT_AT target (R39). -/
  target : Option TickNo := none
  /-- A GO commit waits for the weir of this tick; one granted inside the weir waits for that of the next (R35). -/
  goNow : Bool := false
  goNext : Bool := false
  /-- The reload value a beacon gives this tick (R29, R297). -/
  reload : Option TickNo := none
  /-- The staging buffer, by register address (R32). -/
  staged : Tab Staged := []
  /-- Writes held while the buffer is closed, oldest first (R34). -/
  held : List HeldWrite := []
  /-- Values stored at a commit for a domain that was off (R37), by register address. -/
  stored : Tab Staged := []
deriving DecidableEq, Repr

/-! ### Clocks (03_clocks.md) -/

/-- A divider setting: INT, NUM, DEN and the post-division (R52, R56). -/
structure PllSetting where
  int : Nat := 0
  num : Nat := 0
  den : Nat := 1
  post : Nat := 0
deriving DecidableEq, Repr

/-- One entry of a band cache (R56): its index, the setting, the band and fine-tune codes found, and TJ at the search. -/
structure BandEntry where
  slot : Nat
  setting : PllSetting
  band : Nat
  fine : Nat
  temp : Int
deriving DecidableEq, Repr

/-- Hidden state of PLL `p`: 0 A, 1 S, 2 C, 3 P. -/
structure PllSt where
  /-- The divider setting in effect. -/
  loaded : PllSetting := {}
  /-- A load or a relock that has not led to lock yet. -/
  busy : Bool := false
  /-- The running load or relock searches every band (R56). -/
  search : Bool := false
  /-- A loss that no relock attempt has answered yet (R55). -/
  relockDue : Bool := false
  /-- The stewards gave the PLL up until RESET_N or a retest (R384). -/
  dead : Bool := false
  /-- The band cache, most recently used first (R56). -/
  cache : List BandEntry := []
deriving DecidableEq, Repr

/-- A family change that runs (R64): 1 the mute, 2 the last tick, 3 clocks stopped, 4 the unmute; the source it goes to, the rate, and whether
that source was lost meanwhile. -/
structure HopSt where
  step : Nat := 1
  source : Nat
  rate : Nat
  lost : Bool := false
deriving DecidableEq, Repr

/-- A rate follow that runs (R63): its step, source and rate. -/
structure FollowSt where
  step : Nat := 1
  source : Nat
  rate : Nat
deriving DecidableEq, Repr

/-- Hidden state of the clocks. -/
structure ClkSt where
  pll : Tab PllSt := []
  /-- SYS runs from LPO (R65, R418). -/
  sysOnLpo : Bool := true
  /-- PLL-A's divider load waits for a commit (R58). -/
  updA : Bool := false
  /-- A decision of R59 is due, and it was caused by a loss. -/
  decide : Bool := false
  afterLoss : Bool := false
  /-- Trim held before ACQUIRE (R65). -/
  heldTrim : Word := 0
  /-- Rate code measured at source codes 1 to 4; unlisted 7, none (R60). -/
  rates : Tab Nat := []
  hop : Option HopSt := none
  follow : Option FollowSt := none
  /-- Mute gain of every output, units of 2^-16 (R63, R64, R191). -/
  mute : Ramp := ⟨65536, 65536, 0, 0⟩
  /-- PLL-A's VCO frequency above that of its loaded setting, in units of 2^-32: a step of R58 that SLEW has not run out yet. -/
  lag : Int := 0
  /-- PLL-A's analogue loop is lost, and the tick in progress runs to its end (R54). -/
  lastTick : Bool := false
  /-- AUD and FAB stand low between steps 2 and 5 of a family change (R17, R64). -/
  stopped : Bool := false
deriving DecidableEq, Repr

/-! ### Fabric: basins, jets, cistern, hand-over and relocation (05 to 08) -/

/-- A queued cistern access of a jet (R98, R120): the word it reaches (none: void, or suppressed by a skip or by R156),
what it writes or where its interpolated value goes, and the FAB cycle of its turn. -/
structure JetAccess where
  write : Bool
  word : Option Nat
  value : DWord := 0
  frac : Nat := 0
  round : Bool := false
  dst : Option Nat := none
  turn : Nat
deriving DecidableEq, Repr

/-- DLR data on its way to a W register: readable from cycle `ready` (R98). -/
structure Delivery where
  dst : Nat
  value : BitVec 40
  ready : Nat
deriving DecidableEq, Repr

/-- The condition flags (R82, R110). -/
structure JetFlags where
  s : Bool := false
  v : Bool := false
  n : Bool := false
  z : Bool := false
deriving DecidableEq, Repr

/-- A jet (R82): where it is in its cascade and its registers. -/
structure Jet where
  /-- Idle until the next tick: no cascade, TICKEND done, or its basin does not run (R89). -/
  ended : Bool := true
  slot : Nat := 0
  /-- FAB cycle at which the next slot word starts (R84). -/
  cycle : Nat := 0
  /-- Slot words still suppressed by SKIP (R115). -/
  skip : Nat := 0
  a0 : BitVec 72 := 0
  a1 : BitVec 72 := 0
  w : Tab (BitVec 40) := []
  p : Tab Word := []
  flags : JetFlags := {}
  queue : List JetAccess := []
  deliver : List Delivery := []
  /-- The host wrote one of its registers through the raw window in this tick (FAB_WIN_SEL). -/
  touched : Bool := false
deriving DecidableEq, Repr

/-- A write of this tick to the pool (address below 65536) or to outbound port addr − 65536, with its cycle and jet; jet 4
is the host. The order of cycles and jets decides what a read sees (R87). -/
structure PoolWrite where
  cycle : Nat
  jet : Nat
  addr : Nat
  value : Word
deriving DecidableEq, Repr

/-- A running meter window (R124). -/
structure MeterWin where
  /-- w + 1 of the METER word that feeds it; 0: none yet. -/
  w : Nat := 0
  peak : Nat := 0
  clip : Bool := false
  /-- A complete window not yet copied into its register: peak and clip. -/
  full : Option (Nat × Bool) := none
deriving DecidableEq, Repr

/-- A coefficient table (R85): number, first words of pages A and B, words per page. -/
structure TableDesc where
  t : Nat
  a : Nat
  b : Nat
  len : Nat
deriving DecidableEq, Repr

/-- A cistern region of a BASIN section: byte address and length (R133). -/
structure CisRegion where
  base : Nat
  len : Nat
deriving DecidableEq, Repr

/-- A captured state region with its tick (R100). -/
structure Ckpt where
  tick : TickNo
  words : List Word
deriving DecidableEq, Repr

/-- What a BASIN section loads (R133), as the shelf keeps it (R101). -/
structure BasinImage where
  nslot : List Nat := [0, 0, 0, 0]
  /-- Slot words by jet × 16384 + slot. -/
  cascade : Tab DWord := []
  pool : Tab Word := []
  stateBase : Nat := 0
  stateLen : Nat := 0
  tables : List TableDesc := []
  regions : List CisRegion := []
  /-- Pages complete at load (R158), bit t. -/
  compA : Nat := 0
  compB : Nat := 0
deriving DecidableEq, Repr

/-- What the replay area keeps of one tick (R99): its number and the basin's inbound and outbound port values. -/
structure ReplayTick where
  tick : TickNo
  inp : Tab Word
  outp : Tab Word
deriving DecidableEq, Repr

/-- A physical basin behind its registers. -/
structure Basin where
  nslot : List Nat := [0, 0, 0, 0]
  cascade : Tab DWord := []
  pool : Tab Word := []
  tables : List TableDesc := []
  regions : List CisRegion := []
  /-- Regions that this old basin no longer writes (R156). -/
  carried : List CisRegion := []
  /-- Handle the content was loaded for (R105: ID). -/
  handle : Nat := 0
  writes : List PoolWrite := []
  inp : Tab Word := []
  /-- Outbound values as last frozen (R23, R88). -/
  outp : Tab Word := []
  jets : Tab Jet := []
  meters : Tab MeterWin := []
  /-- Bit t: the jets read page B of table t in this tick (R159). -/
  page : Nat := 0
  /-- Checkpoint shadow not yet drained, the two buffers (none: invalid or empty), and which was written last (R100). -/
  shadow : Option Ckpt := none
  ckpt0 : Option Ckpt := none
  ckpt1 : Option Ckpt := none
  ckptLast1 : Bool := false
  /-- Port values of the last 8 ticks, newest first (R99). -/
  replay : List ReplayTick := []
  /-- Under BIST (R384). -/
  bist : Bool := false
  /-- Times of the faults of the last 24 powered hours, ms (R386). -/
  strikes : List Nat := []
deriving DecidableEq, Repr

/-- The shelf copy of a handle (R101, R102). -/
structure Shelf where
  image : Option BasinImage := none
  valid : Bool := false
  /-- Loaded by a partial image: no source in flash (R102). -/
  part : Bool := false
deriving DecidableEq, Repr

/-- Hidden state of hand-over channel `h` (R151 to R157). -/
structure HandOver where
  /-- F of R152. -/
  fade : Nat := 0
  /-- The old basin faulted while PENDING (R165). -/
  oldFault : Bool := false
  /-- The switch of this weir waits for its priming (R152 step 5). -/
  prime : Bool := false
deriving DecidableEq, Repr

/-- Where a relocation stands (R162, R163). -/
inductive RelocStep where
  /-- Waits for the reload path, or for the shelf copy to be rewritten. -/
  | waiting
  | reloading
  /-- State restored: the next weir switches. -/
  | restored
deriving DecidableEq, Repr

/-- A relocation that runs (R161 to R163). -/
structure Reloc where
  handle : Nat
  source : Nat
  target : Nat
  gap : Nat := 0
  step : RelocStep := .waiting
deriving DecidableEq, Repr

/-- The fabric behind its registers. -/
structure FabSt where
  basins : Tab Basin := []
  shelf : Tab Shelf := []
  chans : Tab HandOver := []
  relocs : List Reloc := []
  /-- Cistern words of the basin data and ASRC regions, by word address (R97, R99). -/
  cis : Tab DWord := []
  /-- What the host wrote into the device's own regions (R99), by 4-byte half; unlisted halves hold what the device keeps there. -/
  cisOwn : Tab (Option Word) := []
  /-- Next word of the scrubber (R102). -/
  scrub : Nat := 0
  /-- Row (bank × 1024 + row) to time + 1 of its last corrected error (R102). -/
  rowCe : Tab Nat := []
  /-- Rows mapped to spares (R102). -/
  spared : List Nat := []
  /-- Rows (as above) that await or undergo a march (R102, R384). -/
  march : List Nat := []
  /-- Rows that passed a march, with the time + 1 of it (R386). -/
  rowPass : Tab Nat := []
  /-- Samples moved to the chain transmit channels at the last weir (R92). -/
  chainTx : Tab Word := []
deriving DecidableEq, Repr

/-! ### Inputs (09_analogue_inputs.md) -/

/-- A mute of an input channel: the gain it started from (units of 2^-16), the time at which the output is at zero, and the times until which
a change of MODE (R169), a phantom change (R180), CONV_CAL (R177) and a start of the decimator (R174, R178) hold it there; 0 where one does
not. The ramp back of 2 ms begins at the last of them. -/
structure AinMute where
  from_ : Nat := 65536
  zeroAt : Nat
  mode : Nat := 0
  phantom : Nat := 0
  cal : Nat := 0
  settle : Nat := 0
deriving DecidableEq, Repr

/-- A sample that left the range: clipped, or with an overload of the modulator or the preamplifier (R175). -/
inductive AinHot where
  | none
  | clip
  | overload
deriving DecidableEq, Repr

/-- Hidden state of input channel `k`. -/
structure AinCh where
  /-- MODE in force at the input network, and the one the network goes to (R169). -/
  net : Nat := 0
  netTo : Nat := 0
  /-- Analogue gain code in force, G + 6; the one that the decimator output still carries; and the steps on their way there, each with the
  time at which it arrives, in units of 0.05 ms (R168). -/
  gain : Nat := 6
  gainOut : Nat := 6
  onWay : List (Nat × Nat) := []
  /-- Audible gain, in 0.001 dB of G + 6, ramping to the analogue gain; its times in units of 0.05 ms (R168). -/
  level : Ramp := { start := 6000, goal := 6000 }
  mute : Option AinMute := none
  /-- When CONV_CAL began on the channel (R177). -/
  calAt : Option Nat := none
  /-- Merge weight w in units of 2^-16, the weight its ramp to 0 starts from, and the ticks for which path L has stayed below -28 dBFS (R170). -/
  w : Nat := 0
  wFrom : Nat := 0
  quiet : Nat := 0
  /-- The last sample into and out of the high-pass filter (R173). -/
  hpX : Int := 0
  hpY : Int := 0
  /-- What has been reported of the next sample. -/
  hot : AinHot := .none
  /-- Tick of the last clipped and of the last overloaded sample (R175: runs are counted once). -/
  clipAt : Option TickNo := none
  ovlAt : Option TickNo := none
  /-- INV, HPF and FILT in use (they follow their commit by one weir, R173). -/
  inv : Bool := false
  hpf : Nat := 0
  filt : Bool := false
deriving DecidableEq, Repr

/-- A phantom change that runs (R180): the EN value it goes to, when it began, and S in ms. -/
structure PhChange where
  en : Bool
  at_ : Nat
  settle : Nat
deriving DecidableEq, Repr

/-- Hidden state of phantom group `g` (R180). -/
structure PhGroup where
  /-- The level driven on GPIOg: active or not. -/
  active : Bool := false
  change : Option PhChange := none
deriving DecidableEq, Repr

/-! ### Outputs (10_outputs_and_headphones.md) -/

/-- What a line output moves to (R186, R192). -/
inductive AoutGoal where
  | off | run | mute | clear
deriving DecidableEq, Repr

/-- Hidden state of line output `k` (R186 to R190). -/
structure AoutCh where
  /-- The goal of the limiter. -/
  goal : AoutGoal := .off
  /-- Weight of the RUN output, 0 to 2^23 (R187). -/
  g : Nat := 0
  /-- DC level in force, in 24-bit LSB (R187). -/
  dc : Int := 0
  /-- DC level the limiter moves to. -/
  dcGoal : Int := 0
  /-- TRIM in force on the RUN output. -/
  trim : Int := 0
  /-- Modulator cycles counted toward the next step of RATE_T. -/
  phase : Nat := 0
  /-- The code at the output of the limiter, in 24-bit LSB (R187, R188), and the modulator cycles counted toward the next group of RATE_S. -/
  code : Int := 0
  phaseS : Nat := 0
  /-- Last sample moved to the sink, the memory of the interpolator, and the audio term in 24-bit LSB (R185, R190). -/
  sample : Word := 0
  mem : Nat := 0
  aud : Int := 0
  /-- INV and FILT as the last weir left them (they follow their commit by one weir, R186). -/
  inv : Bool := false
  filt : Bool := false
  /-- Driven to its clear code by DCLR_N (R189). -/
  held : Bool := false
  /-- An engagement of the safety cap runs (R188). -/
  engaged : Bool := false
  /-- Ticks without capping since the last capped one (R188). -/
  calm : Nat := 0
  /-- Ticks since the first tick at a new rate, while the timeline of R190 runs. -/
  rateTicks : Option Nat := none
  /-- The audio term of the old rate, held for its ramp to zero (R190). -/
  last : Int := 0
  /-- When CONV_CAL began on the channel (R193). -/
  calAt : Option Nat := none
  /-- The 10 ms ramp to the clear code before AOUT is switched off: the code it began at, and when (R192). -/
  ramp : Option (Int × Nat) := none
deriving DecidableEq, Repr

/-- Hidden state of headphone amplifier `n` (R196 to R200). -/
structure HpAmp where
  /-- Attenuation in force, left and right, in 0.5 dB steps; 201 is mute (R196). -/
  attL : Nat := 201
  attR : Nat := 201
  /-- Ticks since the last volume step, left and right. -/
  tickL : Nat := 8
  tickR : Nat := 8
  /-- Outputs clamped to HPGNDn. -/
  clamped : Bool := true
  /-- The present jack insertion has been measured (R197 step 3). -/
  measured : Bool := false
  /-- Times of the trips of the last 10 s, in ms (R200). -/
  trips : List Nat := []
  /-- The amplifier is on its way to a stop or to parking: its volume ramps to mute (R197). -/
  stopping : Bool := false
  /-- Latched until the jack is reinserted or the host unlatches it, whatever STATE shows meanwhile (R200). -/
  latched : Bool := false
  /-- Last samples moved to the two sinks (R92), the memories of their interpolators and the audio terms, in units of 2^-31. -/
  sampleL : Word := 0
  sampleR : Word := 0
  memL : Nat := 0
  memR : Nat := 0
  audL : Int := 0
  audR : Int := 0
  /-- Ticks since the first tick at a new rate, and the audio terms of the old rate (R190). -/
  rateTicks : Option Nat := none
  lastL : Int := 0
  lastR : Int := 0
deriving DecidableEq, Repr

/-! ### Power stages (11_power_stage_control.md, 12_loads_and_protection.md) -/

/-- What the gate outputs of a channel do (R205, R220, R228, R223). -/
inductive GateDrive where
  /-- Every gate output low. -/
  | low
  /-- Probe pulses of R222 step 3, one cell alone at a time. -/
  | probe
  /-- Carriers run. -/
  | switching
  /-- Every H low, every L high (R228). -/
  | freewheel
  /-- The DC load test drives half-bridge P (R233). -/
  | dcTest
deriving DecidableEq, Repr

/-- Where a start or stop stands (R222, R223). -/
inductive PscStep where
  | none
  | waitReady
  /-- The line is high; 1 ms to the first probe. -/
  | settle
  | precharge
  | cmRamp
  | gainRamp
  | stopGain
  | stopCm
  /-- Every L switch on for one carrier (R223 step 3). -/
  | stopLow
deriving DecidableEq, Repr

/-- Where a DC load test stands (R233), and what it serves: a restart after a trip (R231) or the host (R235). -/
inductive DcTest where
  | none
  | waiting (restart : Bool)
  /-- Step 1 of R233: the ready line, the 1 ms after it, and the probes. -/
  | line (restart : Bool)
  | settle (restart : Bool)
  | probing (restart : Bool)
  | running (restart : Bool)
deriving DecidableEq, Repr

/-- Which state of a half-bridge an event conversion samples (R213, R215), by the voltage of its node: V1, PVDD − V2, V2 or
PVDD − V1. -/
inductive FcNode where
  | v1 | notV2 | v2 | notV1
deriving DecidableEq, Repr

/-- A sample that has reached the estimator: of half-bridge N or P, and its code. -/
structure FcCode where
  half : Bool
  node : FcNode
  code : Nat
deriving DecidableEq, Repr

/-- Hidden state of power-stage channel `k`. -/
structure PscCh where
  drive : GateDrive := .low
  step : PscStep := .none
  /-- The device releases PSC_RDYk_N (R222). -/
  rdyReleased : Bool := false
  /-- Common-mode duty, units of 2^-16 (R222). -/
  cm : Ramp := {}
  /-- Input gain, units of 2^-16 (R222). -/
  gain : Ramp := {}
  /-- A stop that ends in FAULT (R223 step 5), with its cause in PSC_STAT. -/
  stopFault : Bool := false
  /-- Loop integrators x1 to x4 and the loop output m, units of 2^-31 (R212). -/
  x1 : Int := 0
  x2 : Int := 0
  x3 : Int := 0
  x4 : Int := 0
  m : Int := 0
  /-- The loop limit acted in this tick (R212). -/
  clipTick : Bool := false
  /-- Consecutive estimates of half-bridges P and N beyond TRIP (R219). -/
  fcBad : Nat := 0
  fcBadN : Nat := 0
  /-- Consecutive sampling opportunities without a sample (R216). -/
  fcMissed : Nat := 0
  /-- Sizes of the balance trims for FC1 and FC2 of half-bridges P and N, in units of 2^-32 of duty (R218). -/
  trims : List Nat := [0, 0, 0, 0]
  /-- The estimates of FC1 and FC2 of half-bridges P and N, as fractions of PVDD in units of 2^-32 (R216). -/
  est : List (Option Int) := [none, none, none, none]
  /-- The codes that have come over crossing 6 since the last estimates, and the last code of PVDD (R214). -/
  codes : List FcCode := []
  pvdd : Nat := 0
  /-- The carrier from which each sample of R215 is due again, P and N, first and second state, then PVDD. -/
  dueAt : Tab Nat := []
  /-- FREQ and the loop coefficients in effect, which follow their commit by one tick (R209): PSC_LF0_0 to PSC_LF1_6. -/
  freq : Nat := 0
  lf : List Word := []
  /-- Edge steps since the start of the tick, and the carriers of cell 1 of half-bridge P that have begun (R206, R228). -/
  pos : Nat := 0
  carriers : Nat := 0
  /-- The duties that the cells of P and N took at their last carrier start or centre, in units of 2^-32 (R207). -/
  duty : List Int := [0, 0, 0, 0, 0, 0]
  /-- The last ISNS sample, in units of 2^-31 of full scale. -/
  isns : Int := 0
  /-- The order of the last all-off: each cell, and when it goes low, in ps from the trigger (R220, R221). -/
  offAt : List (Nat × Nat) := []
  /-- Times of the restarts of the last 10 s, ms (R225). -/
  restarts : List Nat := []
  /-- Consecutive tripped carriers, and the last of them (R229). -/
  tripped : Nat := 0
  tripCarrier : Nat := 0
  /-- STATE before the first trip (R229). -/
  beforeTrip : Nat := 0
  /-- |VSNS| stayed below SHORTV in every counted carrier (R230). -/
  shortSoFar : Bool := true
  dcTest : DcTest := .none
  /-- The present pilot window is discarded (R236). -/
  pilotVoid : Bool := false
  /-- FREQ, LEVEL of the running pilot window (R236). -/
  pilotFreq : Nat := 100
  pilotLevel : Nat := 40
  /-- The pilot's ramp in and out, units of 2^-16, and the loop samples that it has run for (R236). -/
  pilotGain : Ramp := {}
  pilotAt : Nat := 0
  /-- The voltage of the DC load test on its way up, in mV (R233). -/
  testV : Ramp := {}
  /-- Temperature rises of coil and magnet, in units of 10^-9 K (R238). -/
  dTvc : Int := 0
  dTmag : Int := 0
  /-- Thermal gain reduction, units of 0.00025 dB (R240). -/
  gt : Nat := 0
  /-- Excursion gain, units of 2^-16 (R240). -/
  gx : Nat := 0x10000
  /-- Predicted excursion and its filter memory, in nm (R239). -/
  exc : Int := 0
  excPrev : Int := 0
  /-- Largest |x| in nm with its time, for the last 100 ms (R239). -/
  peaks : List (Nat × Nat) := []
  /-- Last sample moved to the sink, and the memory of its interpolator (R211). -/
  sample : Word := 0
  mem : Nat := 0
  /-- The last code of the stage NTC (R240). -/
  ntc : Nat := 0xFFFF
deriving DecidableEq, Repr

/-! ### Serial ports and rate conversion (13_rates_and_serial_ports.md) -/

/-- One frame of a port: the sample of each slot (wire × 32 + slot); an unlisted slot is 0. -/
abbrev SapFrame := Tab Word

/-- Hidden state of serial port `n` (R250 to R257). -/
structure SapPort where
  /-- EN = 1 is in effect and the port waits for its first frame (R256). -/
  waiting : Bool := false
  /-- EN = 0 is in effect and the frame in progress still runs (R256). -/
  ending : Bool := false
  /-- The role that the port started in (R252, R253). -/
  master : Bool := false
  /-- A slave port declared lost, until its frames return (R253). -/
  lost : Bool := false
  /-- Receive and transmit elastic buffers, oldest frame first (R254), and the last frame of each. -/
  rx : List SapFrame := []
  tx : List SapFrame := []
  lastRx : SapFrame := []
  lastTx : SapFrame := []
  /-- What the last weir gave a master port for its next frame (R258). -/
  nextTx : SapFrame := []
  /-- The measured rates of the last 10 ms, one each millisecond, newest first (R246). -/
  rates : List Nat := []
  /-- Bit clocks of the previous frame; 0 before the first (R250). -/
  prevBits : Nat := 0
  /-- Mask writes that wait for the next frame start (R257), oldest first: the register, 0 to 3 the receive masks and 4 to 7
  the transmit masks of wires 0 to 3, and its value. -/
  masks : List (Fin 8 × Word) := []
  /-- Legacy format: the words received, and those sent, have changed places since the port aligned (R251). -/
  swapped : Bool := false
  swappedTx : Bool := false
  /-- Native format: the slot of each wire from which an overrun leaves the frame being received zero (R261). -/
  cut : Option Nat := none
deriving DecidableEq, Repr

/-- Hidden state of lane `q` (R246 to R248). -/
structure AsrcLane where
  /-- The class whose complete page the lane reads, if any (R247). -/
  page : Option Nat := none
  /-- The class being built or queued for building. -/
  want : Option Nat := none
  /-- One of the four builds that run at once. -/
  building : Bool := false
  /-- The build is complete: the page flips at the end of the next weir. -/
  flip : Bool := false
  /-- Output ramp of 5 ms after lock, units of 2^-16 (R246). -/
  ramp : Ramp := {}
  /-- FAST in force (R248). -/
  fast : Bool := false
  /-- Milliseconds for which the ratio has stayed past a boundary of the class, up to 20 (R247). -/
  past : Nat := 0
  /-- What the lane's filter keeps of its input buffer (R244), and its output at this tick before the ramp. -/
  mem : Nat := 0
  out : Word := 0
deriving DecidableEq, Repr

/-! ### The chain (14_chain_links.md, 15_chain_streams_and_time.md) -/

/-- The fields of a received beacon (R271). -/
structure Beacon where
  flags : Nat
  tick : Nat
  master : Nat
  origin : Nat
  sender : Nat
  hops : Nat
  pofs : Nat
  nbundle : Nat
  clockQ : Nat
  arr : Nat
  dep : Nat
deriving DecidableEq, Repr

/-- A message being assembled from the cells of one direction (R302): its cell type, writer, number and bytes so far. -/
structure CellMsg where
  ctype : Nat
  src : Nat
  dst : Nat
  mseq : Nat
  data : List Byte
deriving DecidableEq, Repr

/-- A side frame being assembled from the segments of one direction (R274). -/
structure SideMsg where
  src : Nat
  fseq : Nat
  data : List Byte
deriving DecidableEq, Repr

/-- Hidden state of chain port `p`. The direction that leaves through port `p` comes in through the other port. -/
structure ChainPort where
  /-- CPp_TX_DIS is high (R264). -/
  txDis : Bool := true
  /-- TX_FAULT reset pulses given since the last settled link or RESTART (R264). -/
  faultTries : Nat := 0
  /-- Last valid hello block, how many identical ones in a row, own and partner's ACK (R267). -/
  hello : List Byte := []
  same : Nat := 0
  ack : Bool := false
  peerAck : Bool := false
  /-- Rates accepted on this link (CEILING, R267, R286), bit 0 1G, bit 1 2.5G, bit 2 10G. -/
  ceiling : Nat := 7
  /-- The last test asks for FEC (R286 step 4). -/
  fecStep : Bool := false
  /-- TICK_COUNT when the port last came UP (R296). -/
  upTick : Nat := 0
  /-- TICK, and arrival after the start of that tick, of the last good parcel (R272), 0.25 ns units. -/
  last : Option (Nat × Int) := none
  /-- TICK and DEP_OFS of the last 64 parcels sent, newest first (R278). -/
  deps : List (Nat × Int) := []
  /-- The last 64 link delay measurements, newest first, 0.25 ns units (R278). -/
  delays : List Int := []
  /-- Parcels received, and the numbers of the errored ones among the last 65,536 (R285). -/
  parcels : Nat := 0
  errs : List Nat := []
  /-- Consecutive measured parcels over the exclusion threshold (R279), and the last residence, 0.25 ns units. -/
  slow : Nat := 0
  residence : Nat := 0
  /-- The port has had incoming parcels (R275). -/
  everIn : Bool := false
  /-- The partner receives nothing on this link (R278). -/
  peerDown : Bool := false
  /-- The next parcel sent asks the partner for the test (R304). -/
  testAsk : Bool := false
  beacon : Option Beacon := none
  /-- The latest whole parcel received, for the closure (R275), and the last one sent. -/
  latest : Option Parcel := none
  sent : Option Parcel := none
  /-- Parcels sent as closure in the direction that comes in here, since the last own one came back (R284). -/
  missing : Nat := 0
  /-- Time from departure to return of an own parcel, 0.25 ns units (R298). -/
  trip : Int := 0
  /-- Control cells to write into parcels that leave here, oldest first (R302). -/
  cells : List (List Byte) := []
  /-- The side frame being sent here (R274): its FSEQ, whether its first segment is still to come, the bytes left. -/
  side : Option (Nat × Bool × List Byte) := none
  /-- Messages and side frames being assembled from what comes in here. -/
  frags : List CellMsg := []
  sideFrags : List SideMsg := []
  /-- Consecutive expected parcels that were missing or had a failed beacon (R282). -/
  bad : Nat := 0
  /-- Consecutive keepalive beacons received, up to 64 (R413). -/
  keeps : Nat := 0
deriving DecidableEq, Repr

/-- A kept copy of a subscribed stream (R293): its tick, its eight samples, and the ports that gave a valid one, bit p. -/
structure StreamCopy where
  tick : Nat
  samples : List Word
  ports : Nat
deriving DecidableEq, Repr

/-- Hidden state of subscription `s` (R290 to R294). -/
structure Subscription where
  /-- STREAM, plus 1, for which the rest holds; 0 while EN = 0. -/
  stream : Nat := 0
  copies : List StreamCopy := []
  /-- What the eight sources deliver, and deliver last. -/
  out : List Word := []
  last : List Word := []
  /-- Consecutive ticks without a copy, and whether one was ever presented since EN. -/
  missed : Nat := 0
  ever : Bool := false
deriving DecidableEq, Repr

/-- A transmit bundle: its grant and what the last weir formed (R289, R291). -/
structure Bundle where
  /-- The STREAM_ID that its slot was granted for, plus 1; 0 without a grant. -/
  stream : Nat := 0
  tick : Nat := 0
  mask : Nat := 0
  samples : List Word := []
deriving DecidableEq, Repr

/-- Hidden state of host queue `q` (R306): bytes being written, frames to send, received frames with their source node,
and how far the head frame has been read. -/
structure HostQueue where
  buf : List Byte := []
  tx : List (List Byte) := []
  rx : List (Nat × List Byte) := []
  pos : Nat := 0
deriving DecidableEq, Repr

/-- Hidden state of the chain block. -/
structure ChainSt where
  ports : Tab ChainPort := []
  subs : Tab Subscription := []
  bundles : Tab Bundle := []
  queues : Tab HostQueue := []
  /-- Rate code under search, 1 to 3; 0 none (R266). -/
  search : Nat := 0
  /-- Slots granted by this node as master: slot to STREAM_ID + 1 (R291). -/
  slots : Tab Nat := []
  /-- POFS_MIN reported to this node as master, by node (R299). -/
  reports : Tab Nat := []
  /-- Link tests asked for and not yet granted, and the one granted: node and port (R304). -/
  testQueue : List (Nat × Nat) := []
  testNow : Option (Nat × Nat) := none
  /-- Link tests that this node has asked for, by port (R285). -/
  asked : List Nat := []
  /-- Next message number, next side frame number, and the message numbers written last (R301, R305, R306). -/
  mseq : Nat := 0
  fseq : Nat := 0
  written : List Nat := []
  /-- Messages and side frames already taken: source and number, newest first (R302, R306). -/
  taken : List (Nat × Nat) := []
  sideTaken : List (Nat × Nat) := []
  /-- Another node bears this node's ID: no bundles and no control cells are written (R305). -/
  silent : Bool := false
  /-- A new P and the tick it applies from (R300). -/
  newP : Option (Nat × Nat) := none
  /-- Consecutive measurements of D within one tick period, with the smallest and largest, 0.25 ns units (R299). -/
  dHeld : Nat := 0
  dLow : Int := 0
  dHigh : Int := 0
  /-- TICK_COUNT at the last REPORT sent (R301). -/
  reportAt : Nat := 0
  /-- The timing master's RING as this node last saw or decided it (R284). -/
  ring : Bool := false
  /-- POFS_FIXED in effect when it was last looked at (R300). -/
  fixed : Nat := 0
  /-- TICK_COUNT when a beacon with HOLD = 0 that names the master was last received (R296). -/
  heardAt : Nat := 0
  /-- By how many ticks the chain's count at the upstream port is ahead of TICK_COUNT (R297). -/
  ahead : Int := 0
  /-- P lies above POFS_MAX (R299). -/
  capped : Bool := false
  /-- The wake pattern of R413 has been seen. -/
  pattern : Bool := false
deriving DecidableEq, Repr

/-! ### Listening (16_listening.md) -/

/-- A beam: the settings in force, the memory of its decimator and the sample that it last gave (R310), and the ticks since a committed change while
its ramps run (R311). -/
structure Beam where
  ctl : Word := 0
  delays : List Word := [0, 0, 0, 0, 0, 0, 0, 0]
  mem : Nat := 0
  out : Word := 0
  change : Option Nat := none
deriving DecidableEq, Repr

/-- An open check window (R318): its beam, ticks over, and its length. -/
structure CheckWin where
  beam : Nat
  ticks : Nat := 0
  len : Nat
deriving DecidableEq, Repr

/-- Hidden state of the listening block. -/
structure LsnSt where
  /-- W2 and W3 run (R313). -/
  w2 : Bool := false
  w3 : Bool := false
  /-- The frozen pre-roll, two samples a byte, oldest first, and the word that the next read returns (R315). -/
  ring : List Byte := []
  pos : Nat := 0
  /-- Stored templates, header and body (R316). -/
  templates : Tab (List Byte) := []
  /-- A template that waits for the end of W3 (R143, R320). -/
  waiting : List (Nat × List Byte) := []
  /-- The feature buffer: frames of 32 bytes, newest first, at most 200; the ms toward the next frame, and how many there have been (R312). -/
  features : List (List Byte) := []
  frameMs : Nat := 0
  frames : Nat := 0
  /-- W1 (R313): the ms toward its next frame, how many there have been, the noise floor in units of 0.005 dB, and how many consecutive frames
  have met the condition. -/
  w1Ms : Nat := 0
  w1Frames : Nat := 0
  w1Floor : Option Int := none
  w1Run : Nat := 0
  beams : Tab Beam := []
  check : Option CheckWin := none
deriving DecidableEq, Repr

/-! ### Gauge (17_gauge.md) -/

/-- A pass of a sequence that runs: the entries as they were at its start (R331), the next one, and the inputs of the
conversions still to come: µV, or 1/128 °C on a temperature channel. -/
structure GaugeRun where
  entries : List Word
  next : Nat := 0
  volts : List Int := []
deriving DecidableEq, Repr

/-- Hidden state of converter `c`, 0 GA and 1 GB: flagged and under test (R325), the passes that run, and the numbers of
the next ones (R332). -/
structure GaugeConv where
  flagged : Bool := false
  testing : Bool := false
  reg : Option GaugeRun := none
  inj : Option GaugeRun := none
  regPass : Nat := 0
  injPass : Nat := 0
  /-- The code of the converter's last conversion of REFCHK (R385). -/
  refchk : Option Nat := none
deriving DecidableEq, Repr

/-- A result in a holding register (R333): the word of R332, and where it goes: buffer 0 to 7, the stewards (8), or
16 + 4 × channel + sense over crossing 6. -/
structure GaugeResult where
  word : Word
  dest : Nat
  /-- The state that an event conversion of a switch node sampled (R215). -/
  node : FcNode := .v1
deriving DecidableEq, Repr

/-- Hidden state of the gauge block. -/
structure GaugeSt where
  convs : Tab GaugeConv := []
  /-- The three holding registers of the collector, oldest result first. -/
  holdInj : List GaugeResult := []
  holdA : List GaugeResult := []
  holdB : List GaugeResult := []
  /-- The last code delivered to an estimator, plus 1, by 4 × channel + sense (R326). -/
  events : Tab Nat := []
  /-- Converters that calibrate, and those that wait for it, bit 0 GA and bit 1 GB (R324). -/
  calNow : Nat := 0
  calNext : Nat := 0
  /-- A calibration of both follows REFRDY (R322). -/
  recal : Bool := false
  /-- Counts of REF / 16 since the last expiry of the gauge timer (R329). -/
  tmr : Nat := 0
  /-- Consecutive GX pairs beyond WIN (R335). -/
  plBad : Nat := 0
deriving DecidableEq, Repr

/-! ### Host ports (18_host_ports.md) -/

/-- A word in the HSP write buffer (R340): the frame it came in, for SYS RAM or for a register, its address and value. -/
structure PostedWord where
  frame : Nat
  ram : Bool
  addr : Nat
  value : Word
deriving DecidableEq, Repr

/-- A transfer that the host asked the two-wire controller for (R350, R367). -/
structure TwcXfer where
  port : MbxPort
  addr : Nat
  wdata : List Byte
  rlen : Nat
  pec : Bool
deriving DecidableEq, Repr

/-- Whose transfer the controller runs: the host's, or the stewards' setpoint of VDD_FAB. -/
inductive TwcWho where
  | host (x : TwcXfer)
  | vfab
deriving DecidableEq, Repr

/-- An HSP read that is being fetched (R341): its frame's number, its status word, its command word, whether it carries a CRC, and the words
fetched so far. -/
structure HspFetch where
  frame : Nat
  status : Word
  cmd : Word
  crc : Bool
  data : List Word := []
  cyc : Nat := 0
deriving DecidableEq, Repr

/-- Hidden state of the host ports. -/
structure HostSt where
  /-- The write buffer, oldest word first (R340). -/
  posted : List PostedWord := []
  fetch : Option HspFetch := none
  /-- Number of HSP frames so far, and those of the last and of waiting words that were counted in ERRS. -/
  frames : Nat := 0
  errFrames : List Nat := []
  /-- What the status byte says of the previous frame (R339). -/
  errCrc : Bool := false
  errAddr : Bool := false
  errRef : Bool := false
  errOvf : Bool := false
  /-- The words that the last HSP frame shifted out, wait words left aside (R339, R341). -/
  miso : List Word := []
  /-- Bytes written to HOST_MBX_TX since the last GO, and the response with the position of HOST_MBX_RX in it (R344). -/
  mbxTx : List Byte := []
  mbxRsp : List Byte := []
  mbxPos : Nat := 0
  /-- The response of the TWT port, the STATUS byte of its last one, and the bytes that its last read returned (R347). -/
  twtRsp : Option (List Byte) := none
  twtStatus : Nat := 0
  twtOut : List Byte := []
  /-- The transfer in progress came through the wake path (R348). -/
  twtWoken : Bool := false
  /-- Transfers that wait for the two-wire controller, and the one between two tries with the tries made (R350, R351). -/
  twcQueue : List TwcXfer := []
  twcNow : Option (TwcWho × Nat) := none
deriving DecidableEq, Repr

/-! ### Mailbox engine and service state (19_commands_and_states.md) -/

/-- A move of the service state that runs (R365): to LIVE, with no port when AUTOLIVE decided it; `applied` once the
weir has made STATE LIVE. -/
structure LiveMove where
  port : Option MbxPort := none
  applied : Bool := false
deriving DecidableEq, Repr

/-- The one image buffer (R367): its kind, announced length, bytes, port, and the time of the last data (R368). -/
structure ImgBuf where
  part : Bool
  total : Nat
  bytes : List Byte := []
  port : MbxPort
  at_ : Nat
deriving DecidableEq, Repr

/-- A full image that is being written to flash (R148): the port of its IMAGE_CLOSE, its bytes, the address at which the flash will
fail, the step due, and the descriptors of the new boot header. -/
structure FlashJob where
  port : MbxPort
  bytes : List Byte
  bad : Option Nat := none
  step : Nat := 0
  header : List Byte := []
deriving DecidableEq, Repr

/-- A request frame complete at the engine and waiting for it (R359). -/
structure MbxReq where
  sender : Sender
  frame : List Byte
  /-- For an IMAGE_CLOSE: the flash address at which the write will fail (R355). -/
  bad : Option Nat := none
deriving DecidableEq, Repr

/-- A REG_READ or REG_WRITE that runs (R367): its sender, first address, the words to write (none: a read) and its length, the next
word, and its status and payload so far. -/
structure Burst where
  sender : Sender
  addr : Nat
  words : Option (List Word)
  len : Nat
  next : Nat := 0
  status : Nat := 0
  payload : List Byte := []
deriving DecidableEq, Repr

/-- Hidden state of the mailbox engine and of the service state. -/
structure MbxSt where
  /-- Requests that wait while the engine runs another (R359). -/
  waiting : List MbxReq := []
  burst : Option Burst := none
  live : Option LiveMove := none
  /-- A GO_LOADED whose last stop is not done, with its port (R365). -/
  loaded : Option MbxPort := none
  /-- CONV_CAL that runs: its port, and whether the input and the output part are still to come (R177, R193). -/
  convCal : Option MbxPort := none
  convAin : Bool := false
  convAout : Bool := false
  /-- GAUGE_CAL that runs: its port and the converters still to come, bit 0 GA, bit 1 GB (R324). -/
  gaugeCal : Option MbxPort := none
  gaugeLeft : Nat := 0
  image : Option ImgBuf := none
  flashJob : Option FlashJob := none
  /-- The loaded full image asks for CONFIRM_ON_LIVE (R147). -/
  confirm : Bool := false
  /-- Ports with a TWC_XFER that has not completed (R368). -/
  twc : List MbxPort := []
  /-- A SAFE cause recorded while in BARE that no full image has met yet; 0 none (R366). -/
  bareCause : Nat := 0
  /-- Since the last failed relocation its handle was relocated or loaded again (R366). -/
  relocMended : Bool := false
  /-- When the present LIVE began (R147). -/
  liveSince : Nat := 0
  /-- Responses and completions for the chain, oldest first: node, over host queue 1, bytes (R303, R306, R368). -/
  chainOut : List (Nat × Bool × List Byte) := []
  /-- Status and payload of the last completion (R368); DEV_MBX_DONE holds the status. -/
  doneStatus : Nat := 0
  donePayload : List Byte := []
deriving DecidableEq, Repr

/-! ### Interrupt controller (20_interrupts.md) -/

/-- The three states of a gateway; a source in service is held by its target (R374, R376). -/
inductive GateSt where
  | idle
  | pending
  | inService (target : Nat)
deriving DecidableEq, Repr

/-- One gateway (R374): its state, whether the pending or claimed event stands for more than one pulse (R373), and the
event held while in service. -/
structure Gateway where
  st : GateSt := .idle
  merged : Bool := false
  heldEvt : Bool := false
  heldMerged : Bool := false
deriving DecidableEq, Repr

/-- The delivery side of the controller: the three host-facing deliveries (IRQA_N and IRQB_N asserted; an EVENT cell
due for CH) and the source a wake assertion is for (R378, R380). -/
structure IrqSt where
  gates : Tab Gateway := []
  irqA : Bool := false
  irqB : Bool := false
  chDue : Bool := false
  stDue : Bool := false
  wakeA : Option Nat := none
  wakeB : Option Nat := none
deriving DecidableEq, Repr

/-! ### Stewards: errors, tests and the ledger (21_faults_ageing_recovery.md) -/

/-- An error being handled (R384): its class and unit, how many errors it counts, whether its test runs, and the unit's
status register and the tick at detection (R396, R397). -/
structure StewErr where
  cls : Nat
  unit : Nat
  count : Nat := 1
  testing : Bool := false
  status : Word := 0
  tick : TickNo := 0
  /-- A retest that the host asked for, not an error (STEW_CTL.RETEST). -/
  retest : Bool := false
  /-- Converters tested so far (R385), or relock attempts made (R384). -/
  tries : Nat := 0
  /-- When the test that runs began, or the last relock attempt. -/
  at_ : Nat := 0
deriving DecidableEq, Repr

/-- A ledger record that waits to be programmed (R396): all but its number, which it takes then. -/
structure LedgerRec where
  ty : Nat
  cls : Nat := 0
  unit : Nat := 0
  outcome : Nat := 0
  tick : TickNo
  rep : Nat := 0
  minutes : Nat
  data : List Byte
deriving DecidableEq, Repr

/-- The last ERROR record of a class and unit (R398): when, and how many were suppressed since. -/
structure LastRec where
  cls : Nat
  unit : Nat
  at_ : Nat
  rep : Nat := 0
deriving DecidableEq, Repr

/-- Hidden state of the stewards. -/
structure StewSt where
  /-- Errors not yet classified (R384). -/
  errs : List StewErr := []
  /-- Records that wait for the ledger, oldest first; whether writing has stopped, and consecutive failures (R398). -/
  records : List LedgerRec := []
  stopped : Bool := false
  fails : Nat := 0
  last : List LastRec := []
  /-- Times in powered ms of losses of each PLL, of GX_SUSPECT results and of core failures: class, unit, time (R386, R391). -/
  history : List (Nat × Nat × Nat) := []
  /-- The plausibility check is suspended until the next skim pass (R386). -/
  gxOff : Bool := false
  /-- Cores held in reset, bit i (R391). -/
  held : Nat := 0
  /-- Consecutive samples at TWARN, THOT and TCRIT (R390), and a THERM_CRIT that still holds the device (R390). -/
  warm : Nat := 0
  hot : Nat := 0
  crit : Nat := 0
  critHold : Bool := false
  /-- Powered time in ms since the last powered minute, since the last HOURS record, and since the last complete skim pass
  (R397, R401). -/
  msMinute : Nat := 0
  msHours : Nat := 0
  msSkim : Nat := 0
  /-- FAB is on in STANDBY for a skim pass alone (R401). -/
  skimFab : Bool := false
  /-- A VDD_FAB setpoint on its way to the regulator, in mV; what its last transfer wrote (PMBus commands with their data); and a setpoint
  written that is not yet in effect (R422). -/
  vfab : Option Nat := none
  vsent : List (List Byte) := []
  vset : Option Nat := none
  /-- PSC_ILIM.LIM as the image or the cabinet EEPROM set it (R402), by channel; 0 none. -/
  lim0 : Tab Nat := []
  /-- Gauge offsets at the last skim pass, and days since the last gauge calibration of the stewards (R402). -/
  ofsA : Int := 0
  ofsB : Int := 0
  gaugeDays : Nat := 0
  /-- AIN_CHk_MATCH.GCORR at the channel's last CONV_CAL (R402). -/
  gcorr : Tab Nat := []
  /-- The PATCH body applied, which a reloaded core takes again (R391). -/
  patch : List Byte := []
deriving DecidableEq, Repr

/-! ### Power modes (22_power_modes_and_reset.md) -/

/-- An entry to a lower mode that runs (R411): the mode, and the step that is due. -/
structure PwrEntry where
  mode : Nat
  step : Nat := 1
deriving DecidableEq, Repr

/-- A return that runs (R415, R416), a FAB reset that ends like one (R420), or a start (R421): the mode it goes to, the step
that is due, and whether SYS was off (R416). -/
structure PwrReturn where
  mode : Nat := 0
  step : Nat := 1
  sleep : Bool := false
deriving DecidableEq, Repr

/-- Hidden state of the power manager; what R411 step 6 writes into AON persists with it. -/
structure PwrSt where
  entry : Option PwrEntry := none
  ret : Option PwrReturn := none
  /-- A start-up that runs, by the step of R421 that is due; 0 none. -/
  startUp : Nat := 1
  /-- The device is held in reset by POR (R418). -/
  inReset : Bool := false
  /-- Service state at the entry to LISTEN or DORMANT. -/
  svc : Nat := 0
  /-- WAKE_OUT is high (R417). -/
  wakeOut : Bool := true
  /-- Domains whose clock is gated, numbered as in DOM_ON (R410). -/
  gated : Nat := 0
  /-- The present boot skips slot selection (R435). -/
  noBoot : Bool := false
  /-- A reset that a command asked for, by its cause (R419) + 1, and the port that FACTORY_RESET completes to (R435). -/
  resetDue : Nat := 0
  factory : Option MbxPort := none
  /-- AOUT is parked for its reset (R420). -/
  aoutReset : Bool := false
deriving DecidableEq, Repr

/-! ### Security (23_security_and_presence.md) -/

/-- Hidden state of the security block. -/
structure SecSt where
  /-- The image key and the unlock key in the fuses; empty while not programmed (R426). -/
  ikey : List Byte := []
  ukey : List Byte := []
  /-- The lock state of the latest LOCK record (R399, R428). -/
  lockRec : Bool := false
  /-- The nonce of the last challenge (R429). -/
  nonce : Option (List Byte) := none
  /-- Length of the open presence window, s (R433). -/
  window : Nat := 0
  /-- The eFuse target that a running program serves (R437). -/
  target : Option Nat := none
deriving DecidableEq, Repr

/-! ### Crossings and the register bus (R5 to R15, R67 to R78) -/

/-- What an access serves: a row of its own, a word of a mailbox burst, a posted word of HSP frame `frame`, or a word of
the HSP read of frame `frame`. -/
inductive AccessFor where
  | row
  | burst
  | posted (frame : Nat)
  | fetch (frame : Nat)
deriving DecidableEq, Repr

/-- The part of its register that a write reaches: the whole word; its write-one act alone (a row that names one bit); or all but the TC
fields, which SYS has staged already (R32). -/
inductive WritePart where
  | whole
  | act
  | rest
deriving DecidableEq, Repr

/-- One whole access at the register arbiter (R13): its requester, address, the word written (none: a read), the FAB cycle
of its grant, what it serves, and the part that a write reaches. -/
structure Access where
  who : Requester
  addr : Nat
  write : Option Word
  cyc : Nat := 0
  serves : AccessFor := .row
  part : WritePart := .whole
deriving DecidableEq, Repr

/-- A word in a crossing's FIFO (R71). -/
inductive XingWord where
  | access (x : Access)
  | gauge (r : GaugeResult)
deriving DecidableEq, Repr

/-- A crossing (R67): the words in its FIFO toward the far side, oldest first, and the accesses held by back-pressure. -/
structure XingSt where
  words : List XingWord := []
  held : List Access := []
deriving DecidableEq, Repr

/-- How an access ended. -/
inductive BusEnd where
  | done
  /-- Refused: the domain is off (R15), or the window is closed by the field lock (R9). -/
  | refused
  /-- Refused by a crossing whose far clock is silent (R74). -/
  | timeout
  /-- Held until the staging buffer reopens (R34). -/
  | held
  /-- Waits on a crossing, or behind an access of its requester that does; its requester is held (R15). -/
  | waits
deriving DecidableEq, Repr

/-- The register arbiter (R13): the last access as its requester saw it (the word read, and how it ended), the requester granted
last, the accesses that wait for their requester to be free, and those that a reset has refused and whose requesters have
not been told yet (R76). -/
structure BusSt where
  data : Word := 0
  last : BusEnd := .done
  turn : Requester := .s1
  wait : List Access := []
  ended : List Access := []
deriving DecidableEq, Repr

/-! ### The whole state -/

/-- The state of the block. -/
structure State where
  /-- The register bank: the word in effect of each register (R440); unlisted addresses hold their reset word. -/
  regs : Tab Word := []
  /-- Milliseconds since reset; advances when the queue is empty. -/
  now : Nat := 0
  /-- The model's own counter of free values drawn (no field of the spec). -/
  free : Nat := 0
  /-- Start times of running waits, by wait number, as now + 1 (0: not running). -/
  timers : Tab Nat := []
  tick : TickSt := {}
  clk : ClkSt := {}
  fab : FabSt := {}
  bus : BusSt := {}
  xing : Tab XingSt := []
  irq : IrqSt := {}
  ain : Tab AinCh := []
  phantom : Tab PhGroup := []
  aout : Tab AoutCh := []
  hp : Tab HpAmp := []
  psc : Tab PscCh := []
  asrc : Tab AsrcLane := []
  sap : Tab SapPort := []
  stew : StewSt := {}
  mbx : MbxSt := {}
  host : HostSt := {}
  chain : ChainSt := {}
  lsn : LsnSt := {}
  gauge : GaugeSt := {}
  /-- SYS RAM by byte offset (R338); an unlisted byte reads as 0. -/
  ram : Tab Byte := []
  /-- The boot flash by byte address (R144, R354); an unlisted byte is erased, 0xFF. -/
  flash : Tab Byte := []
  sec : SecSt := {}
  pwr : PwrSt := {}
  /-- Commands waiting, first in, first out. -/
  pending : List Instr := []
deriving DecidableEq, Repr

/-- The machine right after reset. -/
def State.reset : State := {}

end Sys2Proof.Machine
end

