-- ==== Sys2Proof/Machine/Ops.lean ====
section
/-! DEFINITION. The named operations over the register bank, the waits, the free values and the interrupt gateways,
and what the whole device asks of them: power domains (R15), the service state (R363) and the power mode (R408). -/

namespace Sys2Proof.Machine

/-! ### Registers and fields -/

/-- The word in effect at register address `a` (R440). -/
def State.word (s : State) (a : Nat) : Word := tabGet regReset s.regs a

/-- The bank with `v` at `a`. -/
def State.setWord (s : State) (a : Nat) (v : Word) : State := { s with regs := tabPut regReset s.regs a v }

/-- The bits of a field within its word. -/
def Fld.mask (f : Fld) : Word := BitVec.ofNat 32 ((2 ^ f.width - 1) * 2 ^ f.lo)

/-- A field's value in effect. -/
def State.get (s : State) (f : Fld) : Nat := (s.word f.addr).toNat / 2 ^ f.lo % 2 ^ f.width

/-- A field is not zero. -/
def State.bit (s : State) (f : Fld) : Bool := s.get f != 0

/-- `w` with the bits of `f` replaced by `v` (reduced to the field's width). -/
def Fld.put (f : Fld) (w : Word) (v : Nat) : Word :=
  (w &&& ~~~f.mask) ||| (BitVec.ofNat 32 (v % 2 ^ f.width * 2 ^ f.lo))

/-- The bank with the field's value replaced. -/
def State.set (s : State) (f : Fld) (v : Nat) : State := s.setWord f.addr (f.put (s.word f.addr) v)

/-- The whole word replaced. -/
def State.setNat (s : State) (f : Fld) (v : Nat) : State := s.setWord f.addr (BitVec.ofNat 32 v)

/-- A one-bit flag is set (an event flag of type W1C, R6). -/
def State.flag (s : State) (f : Fld) : State := s.set f 1

/-- The flag is set when `c` holds. -/
def State.flagIf (s : State) (c : Bool) (f : Fld) : State := if c then s.flag f else s

/-- Bit `i` of a field. -/
def State.bitAt (s : State) (f : Fld) (i : Nat) : Bool := s.get f / 2 ^ i % 2 == 1

/-- Bit `i` of a field set to `b`. -/
def State.setBitAt (s : State) (f : Fld) (i : Nat) (b : Bool) : State :=
  s.set ⟨f.addr, f.lo + i, 1⟩ (if b then 1 else 0)

/-- A counting field goes up by `n` and saturates at its greatest value. -/
def State.count (s : State) (f : Fld) (n : Nat) : State := s.set f (min (s.get f + n) (2 ^ f.width - 1))

/-- A field read as a two's complement number. -/
def State.getInt (s : State) (f : Fld) : Int :=
  let v := s.get f
  if v < 2 ^ (f.width - 1) then v else (v : Int) - 2 ^ f.width

/-- A field written with a number, modulo its width. -/
def State.setInt (s : State) (f : Fld) (v : Int) : State := s.set f (v % 2 ^ f.width).toNat

/-- A Bool as a one-bit value. -/
def b2n (b : Bool) : Nat := if b then 1 else 0

/-! ### Numbers -/

/-- The quotient where the spec does not say how it is rounded: the exact value when it divides, else the whole
number below or above it, which of the two is free. -/
def roundDiv (num den : Int) : Int :=
  num.fdiv den + (if num.fmod den = 0 then 0 else if Config.roundUp num den then 1 else 0)

/-- A value held between two limits. -/
def clampInt (lo hi v : Int) : Int := max lo (min hi v)

/-- A value held between two limits. -/
def clampNat (lo hi v : Nat) : Nat := max lo (min hi v)

/-- π in units of 2^-96. -/
def piFixed : Int := 0x3243F6A8885A308D313198A2E

/-- The alternating series of the sine from its term `t` of index `n` on, `x` the angle, in units of 2^-96; `fuel` terms. -/
def sineTerms (x : Int) : Nat → Int → Int → Int
  | 0, _, _ => 0
  | fuel + 1, n, t => t + sineTerms x fuel (n + 2) (-(t * x * x) / (2 ^ 192 * ((n + 1) * (n + 2))))

/-- sin(π·k / 2f) in units of 2^-75, to the nearest: 20 terms of the series at 2^-96. -/
def quarterSine (k f : Nat) : Int :=
  let x := piFixed * k / (2 * f)
  (sineTerms x 20 1 x + 2 ^ 20) / 2 ^ 21

/-- Terms of the series of 1 − e^(−1/τ), from its term `t` of index `n` on. -/
def decayTerms (tau : Nat) : Nat → Nat → Int → Int
  | 0, _, _ => 0
  | fuel + 1, n, t => t + decayTerms tau fuel (n + 1) (-t / (tau * (n + 1)))

/-- 1 − e^(−1/τ) in units of 2^-96: the part of its way that a first-order lag of time constant `tau` ms goes in one millisecond; all of it where
τ is 0. -/
def lagGain (tau : Nat) : Int := if tau = 0 then 2 ^ 96 else decayTerms tau 30 1 (2 ^ 96 / tau)

/-- A value one millisecond on its way to a goal with time constant `tau` ms. -/
def lagged (v goal : Int) (tau : Nat) : Int := v + roundDiv ((goal - v) * lagGain tau) (2 ^ 96)

/-- The nearest whole number to a quotient; which one a half goes to is free. -/
def roundNear (num den : Nat) : Nat :=
  let r := 2 * (num % den)
  num / den + (if r < den then 0 else if den < r then 1 else if Config.roundUp num den then 1 else 0)

/-! ### Free values -/

/-- The next free value. -/
def State.fresh (s : State) : Word := Config.free s.free

/-- The state after a free value was drawn. -/
def State.drawn (s : State) : State := { s with free := s.free + 1 }

/-! ### Waits -/

/-- Wait `t` starts now. -/
def State.startTimer (s : State) (t : Nat) : State := { s with timers := tabPut (fun _ => 0) s.timers t (s.now + 1) }

/-- Wait `t` is not running. -/
def State.stopTimer (s : State) (t : Nat) : State := { s with timers := tabPut (fun _ => 0) s.timers t 0 }

/-- Wait `t` runs. -/
def State.timerOn (s : State) (t : Nat) : Bool := tabGet (fun _ => 0) s.timers t != 0

/-- Milliseconds since wait `t` started. -/
def State.elapsed (s : State) (t : Nat) : Nat := s.now + 1 - tabGet (fun _ => 0) s.timers t

/-- Wait `t` runs and has lasted `ms` milliseconds. -/
def State.due (s : State) (t ms : Nat) : Bool := s.timerOn t && decide (ms ≤ s.elapsed t)

/-- The value of a ramp at the present time. -/
def Ramp.value (r : Ramp) (now : Nat) : Nat :=
  if r.dur = 0 ∨ r.at_ + r.dur ≤ now then r.goal
  else if r.start ≤ r.goal then r.start + (r.goal - r.start) * (now - r.at_) / r.dur
  else r.start - (r.start - r.goal) * (now - r.at_) / r.dur

/-- The ramp has reached its goal. -/
def Ramp.done (r : Ramp) (now : Nat) : Bool := decide (r.dur = 0 ∨ r.at_ + r.dur ≤ now)

/-- A ramp from the present value to `goal` over `dur` ms. -/
def Ramp.next (r : Ramp) (now goal dur : Nat) : Ramp := ⟨r.value now, goal, now, dur⟩

/-- The times of a list that lie within the last `span` ms. -/
def recent (now span : Nat) (ts : List Nat) : List Nat := ts.filter fun t => decide (now < t + span)

/-! ### Power domains, modes and the service state -/

/-- The bit of PWRM_STAT.DOM_ON of a domain. -/
def Dom.index : Dom → Nat
  | .aon => 0
  | .sys => 1
  | .fab => 2
  | .chn => 3
  | .ain => 4
  | .aout => 5
  | .pst => 6
  | .lsn => 7

/-- The power domain is on (PWRM_STAT.DOM_ON). -/
def State.domOn (s : State) (d : Dom) : Bool := s.bitAt Reg.PWRM_STAT.DOM_ON d.index

/-- The power domain switched on or off. -/
def State.setDom (s : State) (d : Dom) (b : Bool) : State := s.setBitAt Reg.PWRM_STAT.DOM_ON d.index b

/-- The domain is on and works: FAB does not while it is on in STANDBY for a skim pass alone (R401). -/
def State.works (s : State) (d : Dom) : Bool := s.domOn d && !(d == .fab && s.stew.skimFab)

/-- Service state codes of R363. -/
abbrev svcBARE : Nat := 0
abbrev svcLOADED : Nat := 1
abbrev svcLIVE : Nat := 2
abbrev svcSAFE : Nat := 3

/-- The service state (DEV_SVC.STATE). -/
def State.svc (s : State) : Nat := s.get Reg.DEV_SVC.STATE

/-- Power mode codes of R408. -/
abbrev modeRUN : Nat := 0
abbrev modeQUIET : Nat := 1
abbrev modeSTANDBY : Nat := 2
abbrev modeLISTEN : Nat := 3
abbrev modeDORMANT : Nat := 4

/-- The power mode in effect (PWRM_STAT.MODE). -/
def State.mode (s : State) : Nat := s.get Reg.PWRM_STAT.MODE

/-- A change of mode is in progress. -/
def State.changing (s : State) : Bool := s.bit Reg.PWRM_STAT.CHANGING

/-- An entry to STANDBY, LISTEN or DORMANT has come to its stops (R411 step 2): a mode other than RUN and QUIET is entered. -/
def State.leaving (s : State) : Bool :=
  match s.pwr.entry with
  | some e => decide (2 ≤ e.mode ∧ 3 ≤ e.step)
  | none => false

/-- The mode whose domains hold: that of an entry once it switches domains off (R411 step 2). -/
def State.domMode (s : State) : Nat :=
  match s.pwr.entry with
  | some e => if 4 ≤ e.step then e.mode else s.mode
  | none => match s.pwr.ret with
    | some r => if 2 ≤ r.step && !r.sleep then r.mode else s.mode
    | none => s.mode

/-- The outputs may play: service state LIVE, power mode RUN and no change of mode in progress (R363, R408, R411). -/
def State.playing (s : State) : Bool := s.svc == svcLIVE && s.mode == modeRUN && !s.changing

/-- The power mode is RUN or QUIET and the device is not on its way out of it (R362). -/
def State.runMode (s : State) : Bool := (s.mode == modeRUN || s.mode == modeQUIET) && !s.changing

/-- The tick rate in Hz of a DEV_TICK_CTL.RATE code; a reserved code gives 0 (R22). -/
def tickHz (rate : Nat) : Nat :=
  match rate with
  | 0 => 44100
  | 1 => 48000
  | 2 => 88200
  | 3 => 96000
  | 4 => 176400
  | 5 => 192000
  | _ => 0

/-- The family of a rate code: 0 for 48 kHz, 1 for 44.1 kHz (R22). -/
def rateFamily (rate : Nat) : Nat := if rate % 2 = 1 then 0 else 1

/-- FAB cycles per tick and usable slots per jet of a rate code (R22). -/
def tickCycles (rate : Nat) : Nat := if rate ≤ 1 then 16384 else if rate ≤ 3 then 8192 else 4096
def usableSlots (rate : Nat) : Nat := tickCycles rate - 192

/-- The tick rate code in effect. -/
def State.rate (s : State) : Nat := s.get Reg.DEV_TICK_CTL.RATE

/-! ### The register bus -/

/-- How the last access ended, as its requester saw it. -/
def State.onBus (s : State) (data : Word) (last : BusEnd) : State := { s with bus := { s.bus with data := data, last := last } }

/-- A register access by the command of its own row, with the outcome `t`: refused like every access while SYS is off (R15). -/
def State.byRow (s t : State) : State := if s.domOn .sys then t else s.onBus 0 .refused

/-! ### Basins -/

/-- Basin states of R79. -/
abbrev bsFREE : Nat := 0
abbrev bsRESERVE : Nat := 1
abbrev bsLOADING : Nat := 2
abbrev bsREADY : Nat := 3
abbrev bsRUNNING : Nat := 4
abbrev bsHELD : Nat := 5
abbrev bsPARKED : Nat := 6
abbrev bsRETIRED : Nat := 7

/-- FAB_Bb_STAT.CAUSE. -/
abbrev bcNONE : Nat := 0
abbrev bcFIT : Nat := 1
abbrev bcCISQ : Nat := 2
abbrev bcPARITY : Nat := 3
abbrev bcCANARY : Nat := 4
abbrev bcOVERRUN : Nat := 5
abbrev bcSAFE : Nat := 6

def State.basinState (s : State) (b : Nat) : Nat := s.get (Reg.FAB_B_STAT.STATE b)

def State.setBasinState (s : State) (b v : Nat) : State := s.set (Reg.FAB_B_STAT.STATE b) v

def State.setFab (s : State) (f : FabSt) : State := { s with fab := f }

def State.basin (s : State) (b : Nat) : Basin := tabGet (fun _ => {}) s.fab.basins b

def State.setBasin (s : State) (b : Nat) (x : Basin) : State := s.setFab { s.fab with basins := tabPut (fun _ => {}) s.fab.basins b x }

/-! ### Interrupt sources (R371, R406, R425, R439) -/

/-- The status register of a source and the bits of it that are the source's status; none for a reserved number. -/
def sourceStatusField (n : Nat) : Option Fld :=
  match n with
  | 0x001 => some Reg.DEV_COMMIT_STAT.DONE
  | 0x002 => some Reg.DEV_COMMIT_STAT.ERR
  | 0x003 => some Reg.DEV_MBX_DONE.word
  | 0x004 => some Reg.DEV_SVC.word
  | 0x008 => some Reg.CLK_EVT.word
  | 0x009 => some Reg.XING_EVT.TIMEOUT
  | 0x00A => some Reg.XING_EVT.OVERRUN
  | 0x010 => some Reg.FAB_EVT.word
  | 0x011 => some Reg.FAB_HO_EVT.word
  | 0x012 => some Reg.RX_EVT.word
  | 0x020 => some Reg.ASRC_EVT.word
  | 0x021 => some (Reg.SAP_EVT.word 0)
  | 0x022 => some (Reg.SAP_EVT.word 1)
  | 0x028 => some Reg.AIN_EVT.word
  | 0x029 => some Reg.AOUT_EVT.word
  | 0x02A => some Reg.HP_EVT.word
  | 0x041 => some Reg.GAUGE_EVT.PLAUS
  | 0x042 => some Reg.GAUGE_WMST.word
  | 0x049 => some Reg.LSN_EVT.MATCH
  | 0x050 => some Reg.CHAIN_LINK_EVT.word
  | 0x051 => some (Reg.CHAIN_CP_EVT.word 0)
  | 0x052 => some (Reg.CHAIN_CP_EVT.word 1)
  | 0x053 => some Reg.CHAIN_TIME_EVT.word
  | 0x054 => some Reg.CHAIN_STRM_EVT.word
  | 0x055 => some (Reg.CHAIN_Q_RXSTAT.AVAIL 0)
  | 0x056 => some (Reg.CHAIN_Q_RXSTAT.AVAIL 1)
  | 0x058 => some Reg.HOST_MBX_STAT.RESP
  | 0x059 => some Reg.HOST_TWT_EVT.word
  | 0x05A => some Reg.HOST_TWC_STAT.word
  | 0x05B => some ⟨Reg.HOST_HSP_STAT.word.addr, 0, 5⟩
  | 0x060 => some ⟨Reg.STEW_EVT.word.addr, 0, 10⟩
  | 0x061 => some ⟨Reg.STEW_EVT.word.addr, 10, 3⟩
  | 0x062 => some Reg.STEW_FSTAT.word
  | 0x070 => some Reg.PWRM_EVT.word
  | 0x071 => some Reg.GPIO_EVT.word
  | 0x078 => some Reg.SEC_EVT.word
  | _ =>
    if 0x030 ≤ n && n < 0x038 then some (Reg.PSC_EVT.word (n - 0x030))
    else if 0x038 ≤ n && n < 0x040 then some (Reg.PSC_PROT_EVT.word (n - 0x038))
    else if 0x0C0 ≤ n && n < 0x100 then some Reg.IC_SWSET.word
    else none

/-- The status of source `n` as IC_SNAP_t holds it: named bits in their own positions with the others 0, or the whole
register (R371, R376). GAUGE and LSN events are all bits but the ones their own sources name. -/
def State.sourceStatus (s : State) (n : Nat) : Word :=
  if n = 0x040 then s.word Reg.GAUGE_EVT.word.addr &&& ~~~(Reg.GAUGE_EVT.PLAUS.mask ||| Reg.GAUGE_EVT.WM.mask)
  else if n = 0x048 then s.word Reg.LSN_EVT.word.addr &&& ~~~Reg.LSN_EVT.MATCH.mask
  else match sourceStatusField n with
    | some f => s.word f.addr &&& f.mask
    | none => 0

/-- The number names a source (R371). -/
def knownSource (n : Nat) : Bool := n == 0x040 || n == 0x048 || (sourceStatusField n).isSome

/-- A LEVEL source is asserted while any flag of its status is 1 (R371). -/
def State.sourceAsserted (s : State) (n : Nat) : Bool :=
  knownSource n && !pulseSource n && s.sourceStatus n != 0

/-- The gateway of source `n`. -/
def State.gate (s : State) (n : Nat) : Gateway := tabGet (fun _ => {}) s.irq.gates n

/-- The gateway of source `n` replaced. -/
def State.setGate (s : State) (n : Nat) (g : Gateway) : State :=
  { s with irq := { s.irq with gates := tabPut (fun _ => {}) s.irq.gates n g } }

/-- A pulse at a gateway (R374): pending, merged into a pending event, or held behind the one in service. -/
def Gateway.pulse (g : Gateway) (manyPulses : Bool) : Gateway :=
  match g.st with
  | .idle => { g with st := .pending, merged := manyPulses }
  | .pending => { g with merged := true }
  | .inService _ => { g with heldEvt := true, heldMerged := g.heldEvt || manyPulses }

/-- A pulse of source `n`; `manyPulses` when a crossing merged several into it (R70, R373). -/
def State.pulse (s : State) (n : Nat) (manyPulses : Bool) : State :=
  if pulseSource n then s.setGate n ((s.gate n).pulse manyPulses) else s

/-- The gateway of a LEVEL source follows its flags (R374). -/
def State.followLevel (s : State) (n : Nat) : State :=
  if pulseSource n || !knownSource n then s
  else match (s.gate n).st with
    | .idle => if s.sourceAsserted n then s.setGate n { st := .pending } else s
    | .pending => if s.sourceAsserted n then s else s.setGate n {}
    | .inService _ => s

end Sys2Proof.Machine
end

