-- ==== Sys2Proof/Machine/Errors.lean ====
section
/-! DEFINITION. What every block does at an error: it is noted for the stewards, who test the unit (R383, R384), and
the fault flag of its class is set when the policy asks for it at any error (R388). -/

namespace Sys2Proof.Machine

/-- Error classes of R383. -/
abbrev clsCISTERN : Nat := 1
abbrev clsBASIN : Nat := 2
abbrev clsCHAIN : Nat := 3
abbrev clsPSC_TRIP : Nat := 4
abbrev clsPSC_STAGE : Nat := 5
abbrev clsGAUGE : Nat := 6
abbrev clsPLL : Nat := 7
abbrev clsHP : Nat := 8
abbrev clsTHERMAL : Nat := 9
abbrev clsTWC : Nat := 10
abbrev clsSTEWARD : Nat := 11
abbrev clsRELOC : Nat := 12
abbrev clsREF : Nat := 13

/-- The status register of the unit that erred (R397: DATA of an ERROR record). -/
def State.errStatus (s : State) (cls unit : Nat) : Word :=
  match cls with
  | 1 => s.word Reg.FAB_CIS_ECC.word.addr
  | 2 => s.word (Reg.FAB_B_STAT.word unit).addr
  | 3 => s.word (Reg.CHAIN_CP_STAT.word unit).addr
  | 4 => s.word (Reg.PSC_STAT.word unit).addr
  | 5 => s.word (Reg.PSC_STAT.word unit).addr
  | 6 => s.word Reg.GAUGE_STAT.word.addr
  | 7 => s.word (Reg.CLK_PLL_STAT.word unit).addr
  | 8 => s.word (Reg.HP_AMP_STAT.word unit).addr
  | 9 => s.word Reg.STEW_THERM.word.addr
  | 10 => s.word Reg.HOST_TWC_STAT.word.addr
  | 11 => s.word Reg.STEW_STAT.word.addr
  | 12 => s.word Reg.FAB_RELOC.word.addr
  | 13 => s.word Reg.CLK_STAT.word.addr
  | _ => 0

/-- The entry of a class and unit counts one more error, or the new entry joins at the end (R384). -/
def noteErr (x : StewErr) : List StewErr → List StewErr
  | [] => [x]
  | e :: es =>
    if e.cls = x.cls ∧ e.unit = x.unit then { e with count := min (e.count + 1) 65535 } :: es
    else e :: noteErr x es

/-- An error of a class on a unit (R383): counted, and the flag of R388 for any error. -/
def State.errorSeen (s : State) (cls : Nat) : State :=
  let s := s.count Reg.STEW_LAST.COUNT 1
  if s.bitAt Reg.STEW_POL_FAULT.FLT_ANY cls then s.setBitAt Reg.STEW_FSTAT.CLASS cls true else s

/-- FAULT_N, asserted while a fault flag is set (R388). -/
def State.faultBall (s : State) : Bool := s.bit Reg.STEW_FSTAT.CLASS

/-- An event of a class and unit joins the history of recurrences (R386, R391). -/
def State.remember (s : State) (cls unit : Nat) : State := { s with stew := { s.stew with history := s.stew.history ++ [(cls, unit, s.now)] } }

/-- An error of classes 0x1 to 0x8, noted for the test that the stewards run (R384); the losses of a PLL are remembered (R386). -/
def State.error (s : State) (cls unit : Nat) : State :=
  let s := s.errorSeen cls
  let s := if cls = clsPLL then s.remember cls unit else s
  { s with stew := { s.stew with errs := noteErr { cls := cls, unit := unit, status := s.errStatus cls unit, tick := s.tick.count } s.stew.errs } }

/-! ### Ledger records (R396 to R398) -/

/-- A record joins the queue of the ledger. -/
def State.record (s : State) (ty cls unit outcome : Nat) (tick : TickNo) (rep : Nat) (data : List Byte) : State :=
  { s with stew := { s.stew with records := s.stew.records ++
    [⟨ty, cls, unit, outcome, tick, rep, s.get Reg.STEW_MINUTES.MIN, data⟩] } }

/-- A record that is not about an error. -/
def State.note (s : State) (ty : Nat) (data : List Byte) : State := s.record ty 0 0 0 s.tick.count 0 data

/-- An ERROR record: at most one per class and unit in a second; the others are counted (R398). -/
def State.errorRecord (s : State) (cls unit outcome : Nat) (tick : TickNo) (data : List Byte) : State :=
  let same := fun (r : LastRec) => r.cls == cls && r.unit == unit
  match s.stew.last.find? same with
  | some r =>
    if s.now < r.at_ + 1000 then
      { s with stew := { s.stew with last := s.stew.last.map fun q => if same q then { q with rep := min 65535 (q.rep + 1) } else q } }
    else
      { s with stew := { s.stew with last := s.stew.last.map fun q => if same q then ⟨cls, unit, s.now, 0⟩ else q } }.record 0x01 cls unit outcome tick r.rep data
  | none => { s with stew := { s.stew with last := ⟨cls, unit, s.now, 0⟩ :: s.stew.last } }.record 0x01 cls unit outcome tick 0 data

/-- The error entry of a class and unit is taken out (it has been classified). -/
def State.errorDone (s : State) (cls unit : Nat) : State :=
  { s with stew := { s.stew with errs := s.stew.errs.filter fun e => !(e.cls == cls && e.unit == unit) } }

/-- STEW_STAT.TESTS. -/
def State.showTests (s : State) : State := s.set Reg.STEW_STAT.TESTS (s.stew.errs.countP fun e => e.testing)

/-- An unclassified error of the class on the unit is noted. -/
def State.errorOpen (s : State) (cls unit : Nat) : Bool := s.stew.errs.any fun e => e.cls == cls && e.unit == unit

end Sys2Proof.Machine
end

