-- ==== Sys2Proof/Machine/Aout.lean ====
section
/-! DEFINITION. Line outputs (10_outputs_and_headphones.md, R184 to R193): targets, the slew limiter, DCLR_N, parking
and the converter calibration. -/

namespace Sys2Proof.Machine

/-- AOUT_CHk_STAT.STATE codes. -/
abbrev aoOFF : Nat := 0
abbrev aoRUN : Nat := 1
abbrev aoMUTED : Nat := 2
abbrev aoCLEAR : Nat := 3
abbrev aoTRANSITION : Nat := 4
abbrev aoPARKED : Nat := 5
abbrev aoSETTLING : Nat := 6

/-- The wait of R187 and R192 while a channel settles. -/
def tmAoutSettle (k : Nat) : Nat := 0x100 + k

/-- The waits of R192: the settling of the references at power-up, and the 100 ms before AOUT is switched off. -/
abbrev tmAoutReady : Nat := 0x110
abbrev tmPark : Nat := 0x111

/-- The line outputs may play: the service state, the power mode and no reset of AOUT on its way (R192, R420). -/
def State.aoPlaying (s : State) : Bool := s.playing && !s.pwr.aoutReset

/-- Full RUN weight: 2^23 (R187). -/
abbrev fullWeight : Nat := 8388608

def State.aoCh (s : State) (k : Nat) : AoutCh := tabGet (fun _ => {}) s.aout k

def State.setAoCh (s : State) (k : Nat) (c : AoutCh) : State := { s with aout := tabPut (fun _ => {}) s.aout k c }

/-- STATE of line output `k`. -/
def State.aoState (s : State) (k : Nat) : Nat := s.get (Reg.AOUT_CH_STAT.STATE k)

/-- Clear code of channel `k` as a number (AOUT_CLRCODEk). -/
def State.aoClear (s : State) (k : Nat) : Int := s.getInt (Reg.AOUT_CLRCODE.CODE k)

/-- TRIM of channel `k` as a number. -/
def State.aoTrim (s : State) (k : Nat) : Int := s.getInt (Reg.AOUT_CH_CFG.TRIM k)

/-- What the channel moves to (R186); parked channels whose TARGET is not OFF move to CLEAR (R192). -/
def State.aoGoal (s : State) (k : Nat) : AoutGoal :=
  let t := s.get (Reg.AOUT_CH_CFG.TARGET k)
  if t = 0 then .off
  else if !s.aoPlaying then .clear
  else if t = 1 then .run
  else if t = 2 then .mute
  else .clear

/-- DC level of a goal: TRIM for MUTE, the clear code for CLEAR, zero for OFF (R186, R187). -/
def State.aoLevel (s : State) (k : Nat) : AoutGoal → Int
  | .mute => s.aoTrim k
  | .clear => s.aoClear k
  | _ => 0

/-- The channel has reached its goal (R187: a transition ends when g or the DC level reaches its target). -/
def AoutCh.settled (c : AoutCh) (trim : Int) : Bool :=
  match c.goal with
  | .run => c.g == fullWeight && c.trim == trim
  | _ => c.g == 0 && c.dc == c.dcGoal

/-- STATE once a goal is reached; a parked channel at its clear code reads PARKED (R192). -/
def State.aoFinal (s : State) : AoutGoal → Nat
  | .off => aoOFF
  | .run => aoRUN
  | .mute => aoMUTED
  | .clear => if s.aoPlaying then aoCLEAR else aoPARKED

/-- The limiter's aim from the present output: from RUN, D is the new target's level at once; between DC levels the
level moves; to RUN, D stays the old target's (R187). -/
def AoutCh.aim (c : AoutCh) (goal : AoutGoal) (level trim : Int) : AoutCh :=
  match goal with
  | .run => { c with goal := .run, dcGoal := c.dc, trim := if c.g = 0 then trim else c.trim }
  | _ => { c with goal := goal, dc := if c.g = fullWeight then level else c.dc, dcGoal := level }

/-- A change of target, trim, clear code or parking reaches line output `k` (R187, R189, R192); while DCLR_N is asserted or outputs wait for
CLRACK none moves. -/
def State.aoRetarget (s : State) (k : Nat) : State :=
  let c := s.aoCh k
  let c := match c.ramp with
    | some _ => { c with ramp := none, g := 0, dc := c.code }
    | none => c
  let goal := s.aoGoal k
  if !s.domOn .aout || c.held || s.bit Reg.AOUT_STAT.DCLR || s.bit Reg.AOUT_STAT.HELD then s
  else if s.aoState k = aoOFF then
    if goal = .off then s
    else (s.setAoCh k { c with g := 0, dc := 0, dcGoal := 0 }
      |>.set (Reg.AOUT_CH_STAT.STATE k) aoSETTLING).startTimer (tmAoutSettle k)
  else if s.aoState k = aoSETTLING then s
  else
    let c := c.aim goal (s.aoLevel k goal) (s.aoTrim k)
    let s := s.setAoCh k c
    if c.settled (s.aoTrim k) && goal != .off then s.set (Reg.AOUT_CH_STAT.STATE k) (s.aoFinal goal)
    else s.set (Reg.AOUT_CH_STAT.STATE k) aoTRANSITION

/-- Every line output follows its target or its parking. -/
def State.aoRetargetAll (s : State) : State := (List.range 16).foldl State.aoRetarget s

/-- A number moved toward a goal by at most `d`. -/
def toward (v goal d : Int) : Int := if v ≤ goal then min goal (v + d) else max goal (v - d)

/-- `n` limiter steps of `step` LSB each (R187). -/
def AoutCh.move (c : AoutCh) (step n : Nat) (trim : Int) : AoutCh :=
  let d : Int := (step * n : Nat)
  match c.goal with
  | .run => { c with g := (toward c.g fullWeight d).toNat, trim := toward c.trim trim d }
  | _ => { c with g := (toward c.g 0 d).toNat, dc := toward c.dc c.dcGoal d }

/-- Modulator cycles per tick by DEV_TICK_CTL.RATE: AUD cycles per tick over two (R22, 10_outputs_and_headphones.md). -/
def modCycles (rate : Nat) : Nat := if rate ≤ 1 then 512 else if rate ≤ 3 then 256 else 128

/-- The timeline of R190 at `ticks` ticks of `hz` after its trigger: the gain of the audio term in units of 2^-16, and whether
it still takes the audio term of the old rate. -/
def rateGain (ticks : Option Nat) (hz : Nat) : Nat × Bool :=
  match ticks with
  | none => (65536, false)
  | some n =>
    let t := 1000 * n
    if t < hz then (65536 * (hz - t) / hz, true)
    else if t < 2 * hz then (0, false)
    else if t < 4 * hz then (65536 * (t - 2 * hz) / (2 * hz), false)
    else (65536, false)

/-- The audio term of the next sample (R185, R186, R190): the memory of the interpolator after it, and the term in units of 2^-31. -/
def audioTerm (linear : Bool) (rate mem : Nat) (sample : Int) (ticks : Option Nat) (last : Int) : Nat × Int :=
  let y := Config.interpolate linear rate mem sample
  let w := rateGain ticks (tickHz rate)
  (y.1, roundDiv ((if w.2 then last else clampInt (-2147483648) 2147483647 y.2) * w.1) 65536)

/-- The RUN and transition outputs of the limiter (R187): g × (audio + TRIM) + (1 − g) × D. -/
def AoutCh.blend (c : AoutCh) : Int :=
  clampInt (-8388608) 8388607 (roundDiv (c.g * (c.aud + c.trim) + (fullWeight - c.g : Int) * c.dc) fullWeight)

/-- A running engagement of the safety cap counts on: it ends after one full tick without capping (R188). -/
def AoutCh.calmer (c : AoutCh) : AoutCh :=
  if c.engaged then if c.calm = 0 then { c with calm := 1 } else { c with engaged := false, calm := 0 } else c

/-- A sample over the safety cap of line output `k`: a new engagement is counted, a running one goes on (R188). -/
def State.aoEngaged (s : State) (k : Nat) : State :=
  let c := s.aoCh k
  if c.engaged then s.setAoCh k { c with calm := 0 }
  else s.setAoCh k { c with engaged := true, calm := 0 } |>.count (Reg.AOUT_CH_STAT.SLEWCNT k) 1 |>.flag Reg.AOUT_EVT.SLEW

/-- One tick of line output `k` on the sample that the weir moved: the interpolator, the limiter (R187) and, in RUN with SAFE = 1, the safety cap,
which lets the output change by STEP_S in each group of RATE_S cycles (R188). -/
def State.aoTick (s : State) (k : Nat) : State :=
  let c := s.aoCh k
  let c := { c.calmer with rateTicks := c.rateTicks.map (· + 1) }
  let a := audioTerm c.filt s.rate c.mem (if c.inv then -c.sample.toInt else c.sample.toInt) c.rateTicks (256 * c.last)
  let c := { c with mem := a.1, aud := roundDiv a.2 256 }
  let rate := s.get (Reg.AOUT_CH_SLEWT.RATE k) + 1
  let n := c.phase + modCycles (s.get Reg.DEV_TICK_CTL.RATE)
  let c := if s.aoState k = aoTRANSITION && !c.held then
      { c.move (s.get (Reg.AOUT_CH_SLEWT.STEP k) + 1) (n / rate) (s.aoTrim k) with phase := n % rate }
    else { c with phase := 0 }
  let c := { c with inv := s.bit (Reg.AOUT_CH_CFG.INV k), filt := s.bit (Reg.AOUT_CH_CFG.FILT k) }
  let m := c.phaseS + modCycles (s.get Reg.DEV_TICK_CTL.RATE)
  let group := s.get (Reg.AOUT_CH_SLEWS.RATE k) + 1
  if c.held || c.ramp.isSome then s.setAoCh k c
  else if s.bit (Reg.AOUT_CH_CFG.SAFE k) && s.aoState k = aoRUN then
    let x := toward c.code c.blend ((m / group * (s.get (Reg.AOUT_CH_SLEWS.STEP k) + 1) : Nat) : Int)
    let s := s.setAoCh k { c with code := x, phaseS := m % group }
    if x = c.blend then s else s.aoEngaged k
  else s.setAoCh k { c with code := if s.aoState k = aoOFF || s.aoState k = aoSETTLING then 0 else c.blend, phaseS := 0 }

/-- The end of a transition or of a settling time of channel `k` (R187): SETTLING leads into a move as from MUTE, a
move to OFF ends powered down, every other goal ends in its own state. -/
def State.aoTransitionEnd (s : State) (k : Nat) : State :=
  let c := s.aoCh k
  if s.aoState k = aoSETTLING then
    if s.due (tmAoutSettle k) 10 then
      let s := s.stopTimer (tmAoutSettle k)
      if c.held then s.set (Reg.AOUT_CH_STAT.STATE k) aoCLEAR
      else
        let goal := s.aoGoal k
        let c := ({ c with g := 0, dc := 0 }).aim goal (s.aoLevel k goal) (s.aoTrim k)
        let s := s.setAoCh k c
        s.set (Reg.AOUT_CH_STAT.STATE k) (if c.settled (s.aoTrim k) then s.aoFinal goal else aoTRANSITION)
    else s
  else if s.aoState k = aoTRANSITION && c.settled (s.aoTrim k) then
    s.set (Reg.AOUT_CH_STAT.STATE k) (s.aoFinal c.goal)
  else s

/-- Every channel not OFF carries its clear code, the limiter bypassed (R189). -/
def State.aoClearAll (s : State) : State :=
  (List.range 16).foldl (fun s k =>
    if s.aoState k = aoOFF then s
    else
      let s' := s.setAoCh k { s.aoCh k with held := true, g := 0, dc := s.aoClear k, dcGoal := s.aoClear k, goal := .clear, code := s.aoClear k, ramp := none }
      if s.aoState k = aoSETTLING then s' else s'.set (Reg.AOUT_CH_STAT.STATE k) aoCLEAR) s

/-- Every held channel leaves its clear code toward its target, and one that was OFF takes the target it was given meanwhile (R189). -/
def State.aoRelease (s : State) : State :=
  (List.range 16).foldl (fun s k => (s.setAoCh k { s.aoCh k with held := false }).aoRetarget k) s

/-- The timeline of R190 starts on each running line output at the first tick of a new rate. -/
def State.aoRateChange (s : State) : State :=
  (List.range 16).foldl (fun s k =>
    if s.aoState k = aoRUN || s.aoState k = aoTRANSITION then s.setAoCh k { s.aoCh k with rateTicks := some 0, last := (s.aoCh k).aud, mem := 0 } else s) s

/-- The code that line output `k` puts out (R186, R187, R189, R191, R192): the limiter's, or the clear code that DCLR_N holds, or the ramp to it
before AOUT is switched off; then the mute of a family change or rate follow, which overrides DCLR_N until it opens again. -/
def State.aoOutput (s : State) (k : Nat) : Int :=
  let c := s.aoCh k
  let x : Int := if s.aoState k = aoOFF || (s.aoState k = aoSETTLING && !c.held) then 0
    else match c.ramp with
    | some r => r.1 + roundDiv ((s.aoClear k - r.1) * min 10 (s.now - r.2 : Nat)) 10
    | none => c.code
  if c.held && s.bit Reg.AOUT_STAT.DCLR && s.clk.mute.goal = 65536 then x else roundDiv (x * s.clk.mute.value s.now) 65536

/-- Every line output is parked or off (R192). -/
def State.linesParked (s : State) : Bool := (List.range 16).all fun k => s.aoState k = aoOFF || s.aoState k = aoPARKED || (s.aoCh k).held

/-- 100 ms after parking began, a line output that still moves takes a ramp of 10 ms to its clear code (R192). -/
def State.aoTakeClear (s : State) : State :=
  if s.due tmPark 100 then
    (List.range 16).foldl (fun s k =>
      let c := s.aoCh k
      if s.aoState k = aoTRANSITION && c.ramp.isNone then s.setAoCh k { c with ramp := some (c.code, s.now) } else s) s
  else s

/-- The line outputs when the AOUT domain switches off: off, at zero (R192). -/
def State.aoPowerOff (s : State) : State :=
  (List.range 16).foldl (fun s k => (s.setAoCh k {}).set (Reg.AOUT_CH_STAT.STATE k) aoOFF |>.stopTimer (tmAoutSettle k)) s
    |>.set Reg.AOUT_STAT.READY 0 |>.set Reg.AOUT_STAT.CAL_BUSY 0 |>.set Reg.AOUT_CALST.BUSY 0 |>.set Reg.AOUT_STAT.HELD 0 |>.stopTimer tmAoutReady

/-- The AOUT domain comes up: its references settle for 10 ms, with every channel at zero (R192). -/
def State.aoPowerUp (s : State) : State := ((s.set Reg.AOUT_STAT.READY 0).startTimer tmAoutReady).aoRetargetAll

/-- READY once the references have settled (R192). -/
def State.aoSettle (s : State) : State := if s.due tmAoutReady 10 then (s.set Reg.AOUT_STAT.READY 1).stopTimer tmAoutReady else s

/-- CONV_CAL starts on the line outputs of `mask` (R193). -/
def State.aoCalibrate (s : State) (mask : Nat) : State :=
  (List.range 16).foldl (fun s k => if mask / 2 ^ k % 2 = 1 then s.setAoCh k { s.aoCh k with calAt := some s.now } else s)
    (s.set Reg.AOUT_CALST.BUSY (s.get Reg.AOUT_CALST.BUSY ||| mask) |>.set Reg.AOUT_STAT.CAL_BUSY 1)

/-- A start of the line-output part by AOUT_CALCTL or by the command, on the channels of `mask` that are neither OFF nor SETTLING (R193); one that
calibrates already goes on with its own run, and with none left and none running the run is done at once. -/
def State.aoCalStart (s : State) (mask : Nat) : State :=
  let busy := s.get Reg.AOUT_CALST.BUSY
  let sel := (List.range 16).foldl (fun a k =>
    if mask / 2 ^ k % 2 = 1 && busy / 2 ^ k % 2 = 0 && s.aoState k != aoOFF && s.aoState k != aoSETTLING then a ||| 2 ^ k else a) 0
  if mask % 65536 = 0 then s
  else if sel = 0 then if busy = 0 then s.flag Reg.AOUT_EVT.CAL_DONE else s
  else s.aoCalibrate sel

/-- The line outputs whose calibration has had its 30 ms (R193). -/
def State.aoCalOver (s : State) : Nat :=
  (List.range 16).foldl (fun a k => match (s.aoCh k).calAt with
    | some t => if t + 30 ≤ s.now then a ||| 2 ^ k else a
    | none => a) 0

/-- The run of the channels that have had their 30 ms ends: those outside the correction range (`fail`) keep their factory trims (R193). -/
def State.aoCalDone (s : State) (fail : Nat) : State :=
  let done := s.aoCalOver
  if done = 0 then s
  else
    let busy := s.get Reg.AOUT_CALST.BUSY &&& (65535 - done)
    let s := (List.range 16).foldl (fun s k =>
      if done / 2 ^ k % 2 = 1 then (s.setAoCh k { s.aoCh k with calAt := none }).setBitAt Reg.AOUT_CALST.FAIL k (fail / 2 ^ k % 2 == 1) else s) s
    s.set Reg.AOUT_CALST.BUSY busy |>.set Reg.AOUT_STAT.CAL_BUSY (b2n (busy != 0)) |>.flag Reg.AOUT_EVT.CAL_DONE

/-- SLEW_ENGAGEMENT: the cap acts on a cycle of the present tick (R188). -/
def State.aoEngage (s : State) (k : Nat) : State :=
  if s.bit (Reg.AOUT_CH_CFG.SAFE k) && s.aoState k = aoRUN then s.aoEngaged k else s

/-! ### Commands -/

/-- TRANSITION_END (R187). -/
def execTransitionEnd (k : Fin 16) (s : State) : Host.Outcome State Fault Refusal := .next (s.aoTransitionEnd k)

/-- SLEW_ENGAGEMENT (R188). -/
def execSlewEngagement (k : Fin 16) (s : State) : Host.Outcome State Fault Refusal := .next (s.aoEngage k)

end Sys2Proof.Machine
end

