-- ==== Sys2Proof/Machine/Hp.lean ====
section
/-! DEFINITION. Headphone amplifiers and jacks (10_outputs_and_headphones.md, R195 to R201), and DCLR_N, which acts on
the line outputs and, when DCLR_HP is set, on the amplifiers (R189). -/

namespace Sys2Proof.Machine

/-- HP_AMPn_STAT.STATE codes. -/
abbrev hpOFF : Nat := 0
abbrev hpNOJACK : Nat := 1
abbrev hpSTARTING : Nat := 2
abbrev hpRUN : Nat := 3
abbrev hpPARKED : Nat := 4
abbrev hpFAULT : Nat := 5
abbrev hpLATCHED : Nat := 6
abbrev hpUNAVAILABLE : Nat := 7

/-- The waits of R200 from a trip to the end of its test, and of R197 from the trigger of a start. -/
def tmHpRetest (n : Nat) : Nat := 0x140 + n
def tmHpStart (n : Nat) : Nat := 0x142 + n

/-- The attenuation that stands for mute: below −100 dB (R196). -/
abbrev hpMute : Nat := 201

def State.hpAmp (s : State) (n : Nat) : HpAmp := tabGet (fun _ => {}) s.hp n

def State.setHpAmp (s : State) (n : Nat) (a : HpAmp) : State := { s with hp := tabPut (fun _ => {}) s.hp n a }

/-- STATE of amplifier `n`. -/
def State.hpState (s : State) (n : Nat) : Nat := s.get (Reg.HP_AMP_STAT.STATE n)

def State.setHpState (s : State) (n v : Nat) : State := s.set (Reg.HP_AMP_STAT.STATE n) v

/-- HP_STAT.JACKn. -/
def fldJack (n : Nat) : Fld := ⟨Reg.HP_STAT.word.addr, n, 1⟩

/-- HP_EVT.INSn and REMn. -/
def fldIns (n : Nat) : Fld := ⟨Reg.HP_EVT.word.addr, 2 * n, 1⟩
def fldRem (n : Nat) : Fld := ⟨Reg.HP_EVT.word.addr, 2 * n + 1, 1⟩

/-- The jack is taken as present: detected, or ignored (R199). -/
def State.jack (s : State) (n : Nat) : Bool := s.bit (fldJack n) || s.bitAt Reg.HP_DETCFG.IGNORE n

/-- DCLR_N parks the amplifiers (R189). -/
def State.dclrParksHp (s : State) : Bool :=
  s.bit Reg.AOUT_CTL.DCLR_HP && (s.bit Reg.AOUT_STAT.DCLR || s.bit Reg.AOUT_STAT.HELD)

/-- The conditions of R197: EN, the jack, VDDA_5, service state LIVE and the outputs not parked. -/
def State.hpWants (s : State) (n : Nat) : Bool :=
  s.domOn .aout && s.bit (Reg.HP_AMP_CTL.EN n) && s.jack n && !s.bit Reg.HP_STAT.NOSUPPLY && s.aoPlaying && !s.dclrParksHp

/-- The state of an amplifier that does not run: no supply, disabled, no jack, or parked (R197, R201). -/
def State.hpRest (s : State) (n : Nat) : Nat :=
  if s.bit Reg.HP_STAT.NOSUPPLY then hpUNAVAILABLE
  else if !s.bit (Reg.HP_AMP_CTL.EN n) then hpOFF
  else if !s.jack n then hpNOJACK
  else hpPARKED

/-- The charge pump is in regulation while some amplifier has left OFF and NOJACK and VDDA_5 is present (R195, R201). -/
def State.hpPump (s : State) : State :=
  let out (n : Nat) := s.hpState n != hpOFF && s.hpState n != hpNOJACK && s.hpState n != hpUNAVAILABLE
  s.set Reg.HP_STAT.CP_OK (b2n (!s.bit Reg.HP_STAT.NOSUPPLY && (out 0 || out 1)))

/-- Channels cut to mute and outputs clamped to HPGNDn. -/
def State.hpClamp (s : State) (n : Nat) : State :=
  (s.setHpAmp n { s.hpAmp n with attL := hpMute, attR := hpMute, clamped := true, stopping := false }).stopTimer (tmHpStart n)

/-- The amplifier, clamped, takes its resting state; a latched one shows LATCHED while it has its supply (R197, R200). -/
def State.hpSettle (s : State) (n : Nat) : State :=
  ((s.hpClamp n).setHpState n (if (s.hpAmp n).latched && !s.bit Reg.HP_STAT.NOSUPPLY then hpLATCHED else s.hpRest n)).hpPump

/-- The amplifier stops or parks by R197 in reverse: a running one ramps its volume to mute first. -/
def State.hpStop (s : State) (n : Nat) : State :=
  let a := s.hpAmp n
  if s.hpState n = hpRUN && !(decide (hpMute ≤ a.attL) && decide (hpMute ≤ a.attR)) then s.setHpAmp n { a with stopping := true }
  else s.hpSettle n

/-- Steps 1 and 2 of R197: the pump starts, the outputs are clamped, STATE = STARTING. -/
def State.hpBegin (s : State) (n : Nat) : State := (((s.hpClamp n).setHpState n hpSTARTING).hpPump).startTimer (tmHpStart n)

/-- The amplifier is at rest: a start may begin. -/
def State.hpResting (s : State) (n : Nat) : Bool :=
  let st := s.hpState n
  st == hpOFF || st == hpNOJACK || st == hpPARKED || st == hpUNAVAILABLE

/-- The amplifier follows its conditions: a resting one starts when they become true, one on its way to a stop goes on when they come back, and a
running one stops when one fails. A fault runs its course, and a latched amplifier stays latched (R197, R200). -/
def State.hpFollow (s : State) (n : Nat) : State :=
  let st := s.hpState n
  if st = hpLATCHED || st = hpFAULT then s
  else if s.hpWants n then if s.hpResting n then s.hpBegin n else s.setHpAmp n { s.hpAmp n with stopping := false }
  else s.hpStop n

/-- The value HP_AMPn_Z shows for a measured resistance in Ω (R198). -/
def hpZ (z : Nat) : Nat := if z < 4 then 0 else if 1000 < z then 1023 else z

/-- The attenuation floor for a measured value: the first enabled entry whose ZMAX is at least it (R198). -/
def State.hpLimit (s : State) (z : Nat) : Nat :=
  let hit (i : Nat) := s.bit (Reg.HP_LIMT.EN i) && decide (z ≤ s.get (Reg.HP_LIMT.ZMAX i))
  if hit 0 then s.get (Reg.HP_LIMT.LIMIT 0)
  else if hit 1 then s.get (Reg.HP_LIMT.LIMIT 1)
  else if hit 2 then s.get (Reg.HP_LIMT.LIMIT 2)
  else if hit 3 then s.get (Reg.HP_LIMT.LIMIT 3)
  else 0

/-- An impedance test: HP_AMPn_Z, and the limits in force (R198). -/
def State.hpMeasure (s : State) (n zL zR : Nat) : State :=
  let s := s.set (Reg.HP_AMP_Z.LEFT n) (hpZ zL) |>.set (Reg.HP_AMP_Z.RIGHT n) (hpZ zR)
  let s := s.set (Reg.HP_AMP_STAT.LIM_L n) (s.hpLimit (hpZ zL)) |>.set (Reg.HP_AMP_STAT.LIM_R n) (s.hpLimit (hpZ zR))
  s.setHpAmp n { s.hpAmp n with measured := true }

/-- Step 2 of R200: both channels cut and clamped, FAULT, OC, the trip counted; the stewards note the error. -/
def State.hpTrip (s : State) (n : Nat) : State :=
  let s := s.hpClamp n
  let trips := s.now :: recent s.now 10000 (s.hpAmp n).trips
  ((s.setHpAmp n { s.hpAmp n with trips := trips } |>.setHpState n hpFAULT |>.flag Reg.HP_EVT.OC
    |>.set (Reg.HP_AMP_STAT.TRIPS n) (min trips.length 15)).startTimer (tmHpRetest n)).error clsHP n

/-- Step 4 of R197: the limit is in force, the clamp is released, STATE = RUN; the volume then ramps from mute. -/
def State.hpRunNow (s : State) (n : Nat) : State :=
  (s.setHpAmp n { s.hpAmp n with clamped := false, attL := hpMute, attR := hpMute, tickL := 8, tickR := 8 }
    |>.setHpState n hpRUN).hpPump.stopTimer (tmHpStart n)

/-- HP_START: from a resting state steps 1 and 2 of R197; in STARTING steps 3 to 5, with the resistances that the test of 20 ms measures. A channel
below 4 Ω is treated as shorted under R200. -/
def State.hpStart (s : State) (n zL zR : Nat) : State :=
  if !s.hpWants n then s
  else if s.hpResting n then s.hpBegin n
  else if s.hpState n = hpSTARTING then
    if (s.hpAmp n).measured && !s.bitAt Reg.HP_DETCFG.IGNORE n then s.hpRunNow n
    else if !s.due (tmHpStart n) 20 then s
    else
      let s := s.hpMeasure n zL zR
      if hpZ zL = 0 || hpZ zR = 0 then s.hpTrip n else (s.flag Reg.HP_EVT.ZDONE).hpRunNow n
  else s

/-- HP_RETEST: the test that begins 50 ms after a trip has measured both channels at 70 ms; the amplifier restarts at step 4 of R197 or latches
(R200). -/
def State.hpRetest (s : State) (n zL zR : Nat) : State :=
  if s.hpState n = hpFAULT && s.due (tmHpRetest n) 70 then
    let s := (s.hpMeasure n zL zR).stopTimer (tmHpRetest n)
    if hpZ zL != 0 && hpZ zR != 0 && (recent s.now 10000 (s.hpAmp n).trips).length ≤ 3 then
      if s.hpWants n then (s.flag Reg.HP_EVT.ZDONE).hpRunNow n else s.hpSettle n
    else (s.setHpAmp n { s.hpAmp n with latched := true }).setHpState n hpLATCHED |>.flag Reg.HP_EVT.LATCH
  else s

/-- HP_UNLATCH: leave LATCHED and start under R197 (R200). -/
def State.hpUnlatch (s : State) (n : Nat) : State :=
  if s.hpState n = hpLATCHED then
    let s := s.setHpAmp n { s.hpAmp n with latched := false }
    if s.hpWants n then s.hpBegin n else s.hpSettle n
  else s

/-- The attenuation a channel moves to: the greater of VOL and the limit; 201 to 255 mute (R196). -/
def hpTarget (vol lim : Nat) : Nat := if 200 < vol then hpMute else max vol lim

/-- One 0.5 dB step; −100 dB is followed by the cut to mute (R196). -/
def hpStep (att goal : Nat) : Nat := if att < goal then att + 1 else if goal < att then att - 1 else att

/-- VOLUME_STEP on one channel of an amplifier in RUN, at most once every 8 ticks (R196); a stopping one moves to mute, and is clamped and stopped
when both channels are there (R197). -/
def State.hpVolumeStep (s : State) (n : Nat) (right : Bool) : State :=
  let a := s.hpAmp n
  if s.hpState n = hpRUN then
    let goal := fun (vol lim : Fld) => if a.stopping then hpMute else hpTarget (s.get vol) (s.get lim)
    let s := if right then
        let goal := goal (Reg.HP_AMP_VOL.RIGHT n) (Reg.HP_AMP_STAT.LIM_R n)
        if 8 ≤ a.tickR && a.attR != goal then s.setHpAmp n { a with attR := hpStep a.attR goal, tickR := 0 } else s
      else
        let goal := goal (Reg.HP_AMP_VOL.LEFT n) (Reg.HP_AMP_STAT.LIM_L n)
        if 8 ≤ a.tickL && a.attL != goal then s.setHpAmp n { a with attL := hpStep a.attL goal, tickL := 0 } else s
    if a.stopping then s.hpStop n else s
  else s

/-- One tick of an amplifier on the samples that the weir moved: the interpolators, the volume counters and the timeline of R190 (R185, R196). The
headphone channels have no FILT: they take the minimum-phase filter. -/
def State.hpTick (s : State) (n : Nat) : State :=
  let a := s.hpAmp n
  let t := a.rateTicks.map (· + 1)
  let l := audioTerm false s.rate a.memL a.sampleL.toInt t a.lastL
  let r := audioTerm false s.rate a.memR a.sampleR.toInt t a.lastR
  s.setHpAmp n { a with tickL := min 8 (a.tickL + 1), tickR := min 8 (a.tickR + 1), rateTicks := t, memL := l.1, audL := l.2, memR := r.1, audR := r.2 }

/-- The timeline of R190 starts on each running headphone amplifier at the first tick of a new rate. -/
def State.hpRateChange (s : State) : State :=
  let one := fun (s : State) (n : Nat) =>
    let a := s.hpAmp n
    if s.hpState n = hpRUN then s.setHpAmp n { a with rateTicks := some 0, lastL := a.audL, lastR := a.audR, memL := 0, memR := 0 } else s
  one (one s 0) 1

/-- What a headphone channel plays, as a Q1.31 value (R190, R191, R195, R196): nothing while clamped, muted or not in RUN. -/
def State.hpOutput (s : State) (n : Nat) (right : Bool) : Int :=
  let a := s.hpAmp n
  let att := if right then a.attR else a.attL
  if s.hpState n != hpRUN || a.clamped || decide (hpMute ≤ att) then 0
  else
    let x := if right then a.audR else a.audL
    let v := roundDiv (x * (if att = 0 then 65536 else Config.dbGain (-500 * (att : Int)))) 65536
    roundDiv (v * s.clk.mute.value s.now) 65536

/-- TRIPS counts the trips of the last 10 s (HP_AMPn_STAT). -/
def State.hpShowTrips (s : State) : State :=
  let one := fun (s : State) (n : Nat) => s.set (Reg.HP_AMP_STAT.TRIPS n) (min 15 (recent s.now 10000 (s.hpAmp n).trips).length)
  one (one s 0) 1

/-- The jack of HPn is recognised as inserted (R199); a latched amplifier leaves LATCHED (R200). -/
def State.jackInsert (s : State) (n : Nat) : State :=
  if s.bit (fldJack n) then s
  else
    let s := s.flag (fldJack n) |>.flag (fldIns n)
    let s := s.setHpAmp n { s.hpAmp n with latched := false }
    let s := if s.hpState n = hpLATCHED || s.hpState n = hpNOJACK then s.setHpState n (s.hpRest n) else s
    if s.hpWants n && s.hpResting n then s.hpBegin n else s.hpPump

/-- The jack of HPn is recognised as removed (R199): cut to mute at once, the measured impedance and limit forgotten. -/
def State.jackRemove (s : State) (n : Nat) : State :=
  if s.bit (fldJack n) then
    let s := s.set (fldJack n) 0 |>.flag (fldRem n)
    if s.bitAt Reg.HP_DETCFG.IGNORE n then s
    else
      let s := s.setHpAmp n { s.hpAmp n with measured := false, attL := hpMute, attR := hpMute, clamped := true }
      let s := s.set (Reg.HP_AMP_Z.LEFT n) 1023 |>.set (Reg.HP_AMP_Z.RIGHT n) 1023
        |>.set (Reg.HP_AMP_STAT.LIM_L n) 0 |>.set (Reg.HP_AMP_STAT.LIM_R n) 0
      if s.hpState n = hpLATCHED || s.hpState n = hpUNAVAILABLE then s else (s.hpSettle n).stopTimer (tmHpRetest n)
  else s

/-- VDDA_5 is declared lost: both amplifiers clamp and enter UNAVAILABLE (R201). -/
def State.hpSupplyLost (s : State) : State :=
  let s := s.set Reg.HP_STAT.NOSUPPLY 1 |>.flag Reg.HP_EVT.SUPPLY
  (((s.hpClamp 0).hpClamp 1).setHpState 0 hpUNAVAILABLE |>.setHpState 1 hpUNAVAILABLE |>.stopTimer (tmHpRetest 0)
    |>.stopTimer (tmHpRetest 1)).hpPump

/-- VDDA_5 is declared back: each amplifier whose conditions hold starts from step 1 of R197 (R201). -/
def State.hpSupplyBack (s : State) : State :=
  let s := s.set Reg.HP_STAT.NOSUPPLY 0 |>.flag Reg.HP_EVT.SUPPLY
  let go (s : State) (n : Nat) := if s.hpWants n && !(s.hpAmp n).latched then s.hpBegin n else s.hpSettle n
  go (go s 0) 1

/-- Both amplifiers follow their conditions (a change of EN, of the service state or of the mode). -/
def State.hpFollowAll (s : State) : State := (s.hpFollow 0).hpFollow 1

/-- The amplifiers when the AOUT domain switches off: clamped and off (R192). -/
def State.hpPowerOff (s : State) : State :=
  let one := fun (s : State) (n : Nat) => ((s.hpClamp n).setHpState n hpOFF).stopTimer (tmHpRetest n)
  (one (one s 0) 1).hpPump

/-- The amplifiers when the AOUT domain is up again: latched ones show it, the others follow their conditions. -/
def State.hpPowerUp (s : State) : State :=
  let one := fun (s : State) (n : Nat) => if (s.hpAmp n).latched then s.hpSettle n else s.hpFollow n
  one (one s 0) 1

/-- No amplifier is on its way to a stop (R192). -/
def State.hpStopped (s : State) : Bool := (List.range 2).all fun n => !(s.hpAmp n).stopping

/-- DCLR_N asserted after its filter (R189). -/
def State.dclrAssert (s : State) : State :=
  if s.bit Reg.AOUT_STAT.DCLR then s
  else (s.flag Reg.AOUT_STAT.DCLR |>.flag Reg.AOUT_EVT.DCLR).aoClearAll.hpFollowAll

/-- DCLR_N released (R189): the outputs leave their clear codes, or are held for CLRACK. -/
def State.dclrRelease (s : State) : State :=
  if s.bit Reg.AOUT_STAT.DCLR then
    let s := s.set Reg.AOUT_STAT.DCLR 0 |>.flag Reg.AOUT_EVT.DCLR_REL
    if s.bit Reg.AOUT_CTL.DCLR_LATCH then s.flag Reg.AOUT_STAT.HELD else (s.set Reg.AOUT_STAT.HELD 0).aoRelease.hpFollowAll
  else s

/-- CLRACK: held outputs are released, with the ball released (R189). -/
def State.clrAck (s : State) : State :=
  if s.bit Reg.AOUT_STAT.HELD && !s.bit Reg.AOUT_STAT.DCLR then (s.set Reg.AOUT_STAT.HELD 0).aoRelease.hpFollowAll else s

/-! ### Commands -/

/-- DCLR_N_ASSERT (R189). -/
def execDclrNAssert (s : State) : Host.Outcome State Fault Refusal := .next s.dclrAssert

/-- DCLR_N_RELEASE (R189). -/
def execDclrNRelease (s : State) : Host.Outcome State Fault Refusal := .next s.dclrRelease

/-- JACK_INSERT (R199). -/
def execJackInsert (n : Fin 2) (s : State) : Host.Outcome State Fault Refusal := .next (s.jackInsert n)

/-- JACK_REMOVE (R199). -/
def execJackRemove (n : Fin 2) (s : State) : Host.Outcome State Fault Refusal := .next (s.jackRemove n)

/-- HP_START (R197, R198). -/
def execHpStart (n : Fin 2) (zL zR : Nat) (s : State) : Host.Outcome State Fault Refusal := .next (s.hpStart n zL zR)

/-- HP_STOP (R197): starts stopping at once when any condition fails. -/
def execHpStop (n : Fin 2) (s : State) : Host.Outcome State Fault Refusal := .next (s.hpFollow n)

/-- HP_OVERCURRENT (R200). -/
def execHpOvercurrent (n : Fin 2) (s : State) : Host.Outcome State Fault Refusal :=
  .next (if s.hpState n = hpRUN then s.hpTrip n else s)

/-- HP_RETEST (R200). -/
def execHpRetest (n : Fin 2) (zL zR : Nat) (s : State) : Host.Outcome State Fault Refusal := .next (s.hpRetest n zL zR)

/-- VOLUME_STEP (R196). -/
def execVolumeStep (n : Fin 2) (right : Bool) (s : State) : Host.Outcome State Fault Refusal :=
  .next (s.hpVolumeStep n right)

end Sys2Proof.Machine
end

