-- ==== Sys2Proof/Machine/Ain.lean ====
section
/-! DEFINITION. Microphone and line inputs (09_analogue_inputs.md, R166 to R180): gain and mode changes, clip and
overload reports, calibration, supply loss and phantom groups. -/

namespace Sys2Proof.Machine

/-- AIN_CHk_STAT.STATE codes. -/
abbrev aiOFF : Nat := 0
abbrev aiRUNNING : Nat := 1
abbrev aiMUTING : Nat := 2
abbrev aiRAMP : Nat := 3
abbrev aiCAL : Nat := 4
abbrev aiSETTLING : Nat := 5
abbrev aiUNAVAILABLE : Nat := 6

/-- Waits: the holds of AIN_LIVE (R175), by channel; the settling of the references (R178). -/
def tmAinClip (k : Nat) : Nat := 0x300 + k
def tmAinOvl (k : Nat) : Nat := 0x310 + k
abbrev tmAinReady : Nat := 0x320

def State.aiCh (s : State) (k : Nat) : AinCh := tabGet (fun _ => {}) s.ain k

def State.setAiCh (s : State) (k : Nat) (c : AinCh) : State := { s with ain := tabPut (fun _ => {}) s.ain k c }

def State.ph (s : State) (g : Nat) : PhGroup := tabGet (fun _ => {}) s.phantom g

def State.setPh (s : State) (g : Nat) (p : PhGroup) : State := { s with phantom := tabPut (fun _ => {}) s.phantom g p }

/-- STATE of input channel `k`. -/
def State.aiState (s : State) (k : Nat) : Nat := s.get (Reg.AIN_CH_STAT.STATE k)

/-! ### Mutes (R169, R174, R177, R178, R180) -/

/-- When the ramp back begins. -/
def AinMute.up (m : AinMute) : Nat := max (max m.mode m.phantom) (max m.cal m.settle)

/-- The output gain of a mute at time `now`, in units of 2^-16: ramps of 2 ms down, unless it began at zero, and back. -/
def AinMute.gainAt (m : AinMute) (now : Nat) : Nat :=
  if now < m.zeroAt then m.from_ * (m.zeroAt - now) / 2
  else if now < m.up then 0
  else if now < m.up + 2 then 65536 * (now - m.up) / 2
  else 65536

/-- The gain of the mutes of a channel. -/
def AinCh.muteGain (c : AinCh) (now : Nat) : Nat :=
  match c.mute with
  | some m => m.gainAt now
  | none => 65536

/-- The mute of a channel for one more reason, which `hold` notes: one that has not begun its ramp back goes on; any other begins its ramp to zero
at the present gain, or is at zero at once where the output is. -/
def AinCh.muteFor (c : AinCh) (now : Nat) (atZero : Bool) (hold : AinMute → AinMute) : AinCh :=
  match c.mute with
  | some m => if now < m.up then { c with mute := some (hold (if atZero then { m with zeroAt := min m.zeroAt now } else m)) }
    else { c with mute := some (hold { from_ := m.gainAt now, zeroAt := if atZero || m.gainAt now = 0 then now else now + 2 }) }
  | none => { c with mute := some (hold { zeroAt := if atZero then now else now + 2 }) }

/-- STATE from the channel's mute and gain ramp at time `now` (R169, R177, R180). -/
def AinCh.stateAt (c : AinCh) (now : Nat) : Nat :=
  match c.mute with
  | some m =>
    if now < m.up then
      if now < m.cal then aiCAL else if now < m.zeroAt || now < m.phantom then aiMUTING else aiSETTLING
    else if now < m.up + 2 then aiRAMP
    else aiRUNNING
  | none => if c.net = 0 && c.netTo = 0 then aiOFF else if c.level.done (20 * now) then aiRUNNING else aiRAMP

/-- The channel at time `now`: the network switched once the output is at zero, an ended mute dropped, and the gain steps that have arrived
taken out of the way. -/
def AinCh.advance (c : AinCh) (now : Nat) : AinCh :=
  let here := c.onWay.filter fun e => decide (e.1 ≤ 20 * now)
  let c := { c with gainOut := match here.getLast? with | some e => e.2 | none => c.gainOut, onWay := c.onWay.filter fun e => decide (20 * now < e.1) }
  match c.mute with
  | none => c
  | some m =>
    let c := if c.net = c.netTo || now < m.zeroAt then c else { c with net := c.netTo }
    if c.net = 0 && c.netTo = 0 && now ≥ m.zeroAt && now ≥ m.cal then { c with mute := none }
    else if m.up + 2 ≤ now then { c with mute := none }
    else c

/-- Channel `k` is brought to the present time and its STATE shown; without VDDA_5 it is UNAVAILABLE (R178). -/
def State.aiAdvance (s : State) (k : Nat) : State :=
  let c := (s.aiCh k).advance s.now
  (s.setAiCh k c).set (Reg.AIN_CH_STAT.STATE k) (if s.bit Reg.AIN_STAT.NOSUPPLY then aiUNAVAILABLE else c.stateAt s.now)

/-- MODE as it acts: the reserved code is OFF (R166). -/
def State.aiModeCfg (s : State) (k : Nat) : Nat :=
  let m := s.get (Reg.AIN_CH_CFG.MODE k)
  if m = 3 then 0 else m

/-- t_in of the filter in use, in units of 0.05 ms (R172): 0.25 ms or 0.80 ms at every tick rate. -/
def AinCh.tIn (c : AinCh) : Nat := if c.filt then 16 else 5

/-- A committed MODE or GAIN takes hold (R168, R169). The analogue gain moves at once and its step reaches the decimator output t_in later,
where the audible ramp begins; a gain committed in a mute is the audible one when the mute ends (R183). -/
def State.aiFollow (s : State) (k : Nat) : State :=
  let c := (s.aiCh k).advance s.now
  let mode := s.aiModeCfg k
  let c := if mode = c.netTo then c
    else if c.net = 0 then { c.muteFor s.now true fun m => { m with mode := max m.mode (s.now + 20) } with netTo := mode, net := mode }
    else { c.muteFor s.now false fun m => { m with mode := max m.mode (s.now + 22) } with netTo := mode }
  let gain := min 66 (s.get (Reg.AIN_CH_CFG.GAIN k))
  let t := 20 * s.now + c.tIn
  let c := if gain = c.gain then c
    else
      let c := { c with gain := gain, onWay := c.onWay ++ [(t, gain)] }
      if c.mute.isSome then { c with level := { start := gain * 1000, goal := gain * 1000 } }
      else { c with level := { start := c.level.value (20 * s.now), goal := gain * 1000, at_ := t, dur := 10 * min 200 (s.get (Reg.AIN_CH_CFG.GRAMP k)) } }
  (s.setAiCh k c).aiAdvance k

/-- A committed EN of phantom group `g` that differs from the one in force (R180): its members not in OFF are muted
for 2 ms plus S. -/
def State.phFollow (s : State) (g : Nat) : State :=
  let p := s.ph g
  let en := s.bit (Reg.AIN_PHGRP.EN g)
  if p.change.isSome || en = p.active then s
  else
    let settle := 10 * s.get (Reg.AIN_PHGRP.SETTLE g)
    let s := s.setPh g { p with change := some ⟨en, s.now, settle⟩ }
    (List.range 16).foldl (fun s k =>
      let c := s.aiCh k
      if s.bitAt (Reg.AIN_PHGRP.MEMBERS g) k && (c.net != 0 || c.netTo != 0) then
        (s.setAiCh k (c.muteFor s.now false fun m => { m with phantom := max m.phantom (s.now + 2 + settle) })).aiAdvance k
      else s) s

/-- Step 2 of R180: 2 ms after the trigger GPIOg is driven to its new level. -/
def State.phDrive (s : State) (g : Nat) : State :=
  match (s.ph g).change with
  | some x => if x.at_ + 2 ≤ s.now then s.setPh g { s.ph g with active := x.en } else s
  | none => s

/-- PH_DONE: step 4 of R180, 4 ms plus S after the trigger; an EN committed meanwhile starts its own change. -/
def State.phDone (s : State) (g : Nat) : State :=
  match (s.ph g).change with
  | some x =>
    if x.at_ + 4 + x.settle ≤ s.now then
      let s := s.setPh g { active := x.en, change := none } |>.flag Reg.AIN_EVT.PH_DONE
      ((List.range 16).foldl State.aiAdvance s).phFollow g
    else s
  | none => s

/-- Every channel and group is brought to the present time, and READY is shown once the references have settled (R178). -/
def State.ainAdvanceAll (s : State) : State :=
  let s := if s.due tmAinReady 30 then (s.set Reg.AIN_STAT.READY 1).stopTimer tmAinReady else s
  (List.range 8).foldl State.phDrive ((List.range 16).foldl State.aiAdvance s)

/-- What the commit changed takes hold at the inputs: first the phantom groups, in whose mute a gain of the same commit moves (R183). -/
def State.ainFollowAll (s : State) : State := (List.range 16).foldl State.aiFollow ((List.range 8).foldl State.phFollow s)

/-! ### The sample of a channel (R170 to R173, R176) -/

/-- The digital gain of R168 in units of 2^-16: what the ramp still holds back of the analogue gain that the decimator output carries. -/
def AinCh.digital (c : AinCh) (now : Nat) : Nat :=
  let c := c.advance now
  let level := if 20 * now < c.level.at_ then c.level.start else c.level.value (20 * now)
  let d : Int := (level : Int) - 1000 * c.gainOut
  if d = 0 then 65536 else Config.dbGain d

/-- One sample of the merge (R170): a sample of path L at or above -24 dBFS takes all of L; with every sample below -28 dBFS for 20 ms, `n` ticks,
the weight ramps to 0 over 20 ms; else it is held. -/
def AinCh.steer (c : AinCh) (l : Int) (n : Nat) : AinCh :=
  let e := l.natAbs
  if 135497058 ≤ e then { c with w := 65536, wFrom := 65536, quiet := 0 }
  else if 85492864 ≤ e then { c with wFrom := c.w, quiet := 0 }
  else
    let q := c.quiet + 1
    let r := min (q - n) n
    { c with quiet := q, w := if q ≤ n then c.w else (roundDiv (c.wFrom * (n - r) : Nat) n).toNat, wFrom := if q ≤ n then c.w else c.wFrom }

/-- The sample of a channel and the channel after it; `clip` says that stage 4 of R173 saturated it. -/
structure AinFrame where
  c : AinCh
  l : Int
  out : Word
  clip : Bool

/-- Channel `k` at a weir, on the samples `l` and `h` of its two paths as they leave the decimator with the filter that FILT selects: path L is
corrected (R171), the two are merged (R170), and the stages of R173 follow. An overload gives full scale of the input's polarity (R176),
and a reported clip full scale. -/
def State.aiFrame (s : State) (k : Nat) (l h : Word) : AinFrame :=
  let c := s.aiCh k
  let g := s.getInt (Reg.AIN_CH_MATCH.GCORR k)
  let l := if g = 0 then l.toInt else roundDiv (l.toInt * Config.dbGain g) 65536
  let c := c.steer l (tickHz s.rate / 50)
  let x := roundDiv (c.w * l + (65536 - c.w) * h.toInt) 65536
  let y := if c.hpf = 0 then x else Config.highPass c.hpf s.rate x c.hpX c.hpY
  let v := if c.inv then -y else y
  let v := roundDiv (v * c.digital s.now * c.muteGain s.now) (65536 * 65536)
  let full := fun (neg : Bool) => if neg then (-2147483648 : Int) else 2147483647
  let out := match c.hot with
    | .none => clampInt (-2147483648) 2147483647 v
    | .clip => full (decide (v < 0))
    | .overload => full (decide (l < 0))
  { c := { c with hpX := x, hpY := y, hot := .none }, l := l, out := BitVec.ofInt 32 out, clip := decide (v < -2147483648 ∨ 2147483647 < v) }

/-- The channel has samples: it is neither OFF nor UNAVAILABLE, and AIN is on. -/
def State.aiLive (s : State) (k : Nat) : Bool := s.aiState k != aiOFF && s.aiState k != aiUNAVAILABLE && s.domOn .ain

/-- The sample that the channel delivers at the weir; zero in OFF and UNAVAILABLE. -/
def State.aiSample (s : State) (k : Nat) (l h : Word) : Word := if s.aiLive k then (s.aiFrame k l h).out else 0

/-- In RUN the match of the two paths is measured on a sample where both are valid, -60 to -28 dBFS (R171): the correction is what the measurement
gives, a free value within the range of R177; otherwise the last one holds. -/
def State.aiMeasure (s : State) (k : Nat) (l : Int) : State :=
  let w := fun (i : Nat) => (Config.free (s.free + 3 * k + i)).toNat
  if s.mode = modeRUN ∧ 2147484 ≤ l.natAbs ∧ l.natAbs < 85492864 then
    s.setInt (Reg.AIN_CH_MATCH.GCORR k) ((w 1 % 401 : Nat) - 200) |>.setInt (Reg.AIN_CH_MATCH.DCORR k) ((w 2 % 1001 : Nat) - 500)
  else s

/-! ### Clip and overload (R175) -/

/-- Tick `t` continues a run whose last affected sample was at `last`. -/
def sameRun (last : Option TickNo) (t : TickNo) : Bool :=
  match last with
  | some l => l == t || l + 1 == t
  | none => false

/-- One clipped sample, overloaded too when `ovl` (R175): its flags, its run and its hold. -/
def State.aiReport (s : State) (k : Nat) (ovl : Bool) : State :=
  let c := s.aiCh k
  let t := s.tick.count
  let s := s.setBitAt Reg.AIN_CLIP.CH k true |>.flag Reg.AIN_EVT.CLIP |>.setBitAt Reg.AIN_LIVE.CLIP k true
  let s := (if sameRun c.clipAt t then s else s.count (Reg.AIN_CH_CNT.CLIP k) 1).startTimer (tmAinClip k)
  if ovl then
    let s := s.setBitAt Reg.AIN_OVL.CH k true |>.flag Reg.AIN_EVT.OVL |>.setBitAt Reg.AIN_LIVE.OVL k true
    let s := (if sameRun c.ovlAt t then s else s.count (Reg.AIN_CH_CNT.OVL k) 1).startTimer (tmAinOvl k)
    s.setAiCh k { c with clipAt := some t, ovlAt := some t }
  else s.setAiCh k { c with clipAt := some t }

/-- The sample of the present tick lies at 0 dBFS or above, or left the linear range (R175, R176): it saturates in the weir. Nothing happens outside
RUNNING and the gain ramp. -/
def State.aiClip (s : State) (k : Nat) (ovl : Bool) : State :=
  if (s.aiState k = aiRUNNING || s.aiState k = aiRAMP) && (s.aiCh k).mute.isNone then
    let s := s.aiReport k ovl
    s.setAiCh k { s.aiCh k with hot := if ovl then .overload else .clip }
  else s

/-- AIN_LIVE of channel `k` is let go once HOLD ms have passed since the last affected sample (R175). -/
def State.aiHoldExpiry (s : State) (k : Nat) : State :=
  let ms := max 1 (s.get Reg.AIN_HOLD.MS)
  let s := if s.due (tmAinClip k) ms then (s.setBitAt Reg.AIN_LIVE.CLIP k false).stopTimer (tmAinClip k) else s
  if s.due (tmAinOvl k) ms then (s.setBitAt Reg.AIN_LIVE.OVL k false).stopTimer (tmAinOvl k) else s

/-- The end of a weir: the channel has had its sample, and a clip in it is reported. FILT, HPF and INV committed at this tick act from the
next weir on (R173). -/
def State.aiLatch (s : State) (k : Nat) (l h : Word) : State :=
  let f := s.aiFrame k l h
  let live := s.aiLive k
  let s := if live then
      let s := (s.setAiCh k f.c).set (Reg.AIN_CH_STAT.WEIGHT k) (roundDiv (255 * f.c.w : Nat) 65536).toNat
      let s := if f.clip && (s.aiCh k).clipAt != some s.tick.count then s.aiReport k false else s
      if s.aiState k = aiRUNNING || s.aiState k = aiRAMP then s.aiMeasure k f.l else s
    else s
  s.setAiCh k { s.aiCh k with inv := s.bit (Reg.AIN_CH_CFG.INV k), hpf := s.get (Reg.AIN_CH_CFG.HPF k), filt := s.bit (Reg.AIN_CH_CFG.FILT k) }

/-- Each running channel restarts its decimator: zero for 1 ms, then a ramp of 2 ms (R174); a mute that holds longer goes on. -/
def State.aiRestartAll (s : State) (zeroMs : Nat) : State :=
  (List.range 16).foldl (fun s k =>
    let c := s.aiCh k
    if c.net = 0 then s else (s.setAiCh k (c.muteFor s.now true fun m => { m with settle := max m.settle (s.now + zeroMs) })).aiAdvance k) s

/-! ### Calibration and supply (R177, R178) -/

/-- CONV_CAL starts on the channels of `mask` (R177): their outputs ramp to zero unless they are there, and ramp back 58 ms after the start. -/
def State.aiCalibrate (s : State) (mask : Nat) (atZero : Bool) : State :=
  let s := s.set Reg.AIN_CALST.BUSY (s.get Reg.AIN_CALST.BUSY ||| mask) |>.set Reg.AIN_STAT.CAL_BUSY 1
  (List.range 16).foldl (fun s k =>
    if mask / 2 ^ k % 2 = 1 then
      (s.setAiCh k { (s.aiCh k).muteFor s.now atZero fun m => { m with cal := s.now + 58 } with calAt := some s.now }).aiAdvance k
    else s) s

/-- A start by AIN_CALCTL or by the command: channels that calibrate already and channels in OFF are ignored; with none left and none
running the run is done at once. -/
def State.aiCalStart (s : State) (mask : Nat) : State :=
  let busy := s.get Reg.AIN_CALST.BUSY
  let sel := (List.range 16).foldl (fun a k =>
    if mask / 2 ^ k % 2 = 1 && busy / 2 ^ k % 2 = 0 && s.aiState k != aiOFF && s.aiState k != aiUNAVAILABLE then a ||| 2 ^ k else a) 0
  if mask % 65536 = 0 then s
  else if sel = 0 then if busy = 0 then s.flag Reg.AIN_EVT.CAL_DONE else s
  else s.aiCalibrate sel false

/-- The channels whose calibration has had its 60 ms. -/
def State.aiCalOver (s : State) : Nat :=
  (List.range 16).foldl (fun a k => match (s.aiCh k).calAt with
    | some t => if t + 60 ≤ s.now then a ||| 2 ^ k else a
    | none => a) 0

/-- The calibration of the channels that have had their 60 ms ends: those whose factors lie outside the correction range (`fail`) keep their
factory trims (R177). -/
def State.aiCalDone (s : State) (fail : Nat) : State :=
  let over_ := s.aiCalOver
  if over_ = 0 then s
  else
    let busy := s.get Reg.AIN_CALST.BUSY &&& (65535 - over_)
    let s := (List.range 16).foldl (fun s k =>
      if over_ / 2 ^ k % 2 = 1 then (s.setAiCh k { s.aiCh k with calAt := none }).setBitAt Reg.AIN_CALST.FAIL k (fail / 2 ^ k % 2 == 1) else s) s
    (List.range 16).foldl State.aiAdvance
      (s.set Reg.AIN_CALST.BUSY busy |>.set Reg.AIN_STAT.CAL_BUSY (b2n (busy != 0)) |>.flag Reg.AIN_EVT.CAL_DONE)

/-- A calibration is aborted. -/
def State.aiCalAbort (s : State) : State :=
  (List.range 16).foldl (fun s k => s.setAiCh k { s.aiCh k with calAt := none }) (s.set Reg.AIN_STAT.CAL_BUSY 0 |>.set Reg.AIN_CALST.BUSY 0)

/-- VDDA_5 is declared lost (R178, R201): every input is UNAVAILABLE with no ramp, a calibration is aborted. -/
def State.vdda5Lost (s : State) : State :=
  if s.bit Reg.AIN_STAT.NOSUPPLY then s
  else
    let s := s.aiCalAbort.set Reg.AIN_STAT.NOSUPPLY 1 |>.flag Reg.AIN_EVT.SUPPLY |>.setBitAt Reg.PWRM_STAT.SUPPLY_OK 6 false |>.flag Reg.PWRM_EVT.SUPPLY
    ((List.range 16).foldl State.aiAdvance s).hpSupplyLost

/-- VDDA_5 is declared back (R178, R201): CONV_CAL runs on every channel not in OFF, from outputs at zero, and the channels ramp in. -/
def State.vdda5Back (s : State) : State :=
  if s.bit Reg.AIN_STAT.NOSUPPLY then
    let s := s.set Reg.AIN_STAT.NOSUPPLY 0 |>.flag Reg.AIN_EVT.SUPPLY |>.setBitAt Reg.PWRM_STAT.SUPPLY_OK 6 true |>.flag Reg.PWRM_EVT.SUPPLY
    let on := (List.range 16).foldl (fun a k => if (s.aiCh k).net = 0 && (s.aiCh k).netTo = 0 then a else a ||| 2 ^ k) 0
    ((List.range 16).foldl State.aiAdvance (if on = 0 then s else s.aiCalibrate on true)).hpSupplyBack
  else s

/-- The AIN domain comes up: the references settle and channels deliver zero for 30 ms, then ramp in over 2 ms (R178); groups with EN = 1 run
R180 (R423). -/
def State.ainPowerUp (s : State) : State :=
  let s := (List.range 16).foldl (fun s k =>
    let m := s.aiModeCfg k
    let g := min 66 (s.get (Reg.AIN_CH_CFG.GAIN k))
    let c : AinCh := { net := m, netTo := m, gain := g, gainOut := g, level := { start := 1000 * g, goal := 1000 * g } }
    (s.setAiCh k (if m = 0 then c else { c with mute := some { zeroAt := s.now, settle := s.now + 30 } })).aiAdvance k) s
  (List.range 8).foldl State.phFollow ((s.set Reg.AIN_STAT.READY 0).startTimer tmAinReady)

/-- The AIN domain goes off: channels at zero, each group's GPIO driven inactive (R423). -/
def State.ainPowerOff (s : State) : State :=
  let s := (List.range 16).foldl (fun s k => (s.setAiCh k {}).set (Reg.AIN_CH_STAT.STATE k) aiOFF) s
  (List.range 8).foldl (fun s g => s.setPh g {}) s |>.set Reg.AIN_STAT.READY 0 |>.set Reg.AIN_STAT.CAL_BUSY 0
    |>.set Reg.AIN_CALST.BUSY 0 |>.stopTimer tmAinReady

/-! ### GPIO (R423) -/

/-- The level that the device drives on GPIO `g`, none for an input: a phantom group with members owns its ball (R179), else
GPIO_DIR and GPIO_OUT say. -/
def State.gpioDrive (s : State) (g : Nat) : Option Bool :=
  if s.get (Reg.AIN_PHGRP.MEMBERS g) != 0 then some ((s.ph g).active != s.bit (Reg.AIN_PHGRP.POL g))
  else if s.bitAt Reg.GPIO_DIR.OUT g then some (s.bitAt Reg.GPIO_OUT.LEVEL g) else none

/-- The level of GPIO `g` is `high`: a selected edge sets its event. -/
def State.gpioLevel (s : State) (g : Nat) (high : Bool) : State :=
  let was := s.bitAt Reg.GPIO_IN.LEVEL g
  let sel := s.get Reg.GPIO_EDGE.EDGE / 4 ^ g % 4
  let s := s.setBitAt Reg.GPIO_IN.LEVEL g high
  if s.pwr.inReset then s else if (high && !was && sel % 2 = 1) || (!high && was && sel / 2 = 1) then s.setBitAt Reg.GPIO_EVT.PIN g true else s

/-- Every ball that the device drives has its level, which the edges of GPIO_EVT see too. -/
def State.gpioFollow (s : State) : State :=
  (List.range 8).foldl (fun (s : State) g => match s.gpioDrive g with
    | some l => if s.bitAt Reg.GPIO_IN.LEVEL g == l then s else s.gpioLevel g l
    | none => s) s

/-! ### Commands -/

/-- CLIP (R175). -/
def execClip (k : Fin 16) (ovl : Bool) (s : State) : Host.Outcome State Fault Refusal := .next (s.aiClip k ovl)

/-- AIN_LIVE_HOLD_EXPIRY (R175). -/
def execAinLiveHoldExpiry (k : Fin 16) (s : State) : Host.Outcome State Fault Refusal := .next (s.aiHoldExpiry k)

/-- VDDA_5_LOST (R178). -/
def execVdda5Lost (s : State) : Host.Outcome State Fault Refusal := .next s.vdda5Lost

/-- VDDA_5_RESTORED (R178). -/
def execVdda5Restored (s : State) : Host.Outcome State Fault Refusal := .next s.vdda5Back

/-- PH_DONE (R180). -/
def execPhDone (g : Fin 8) (s : State) : Host.Outcome State Fault Refusal := .next (s.phDone g)

end Sys2Proof.Machine
end

