-- ==== Sys2Proof/Machine/Asrc.lean ====
section
/-! DEFINITION. Rate-converter lanes and serial audio ports (13_rates_and_serial_ports.md, R244 to R259). -/

namespace Sys2Proof.Machine

def State.sapP (s : State) (n : Nat) : SapPort := tabGet (fun _ => {}) s.sap n

def State.setSapP (s : State) (n : Nat) (p : SapPort) : State := { s with sap := tabPut (fun _ => {}) s.sap n p }

def State.lane (s : State) (q : Nat) : AsrcLane := tabGet (fun _ => {}) s.asrc q

def State.setLane (s : State) (q : Nat) (l : AsrcLane) : State := { s with asrc := tabPut (fun _ => {}) s.asrc q l }

/-! ### Lanes (R244 to R249) -/

/-- One in the units of ASRC_LANEq_STAT.RATIO: 2^20. -/
abbrev ratioOne : Nat := 1048576

/-- The class of a ratio (R247). -/
def ratioClass (r : Nat) : Nat := if r ≤ ratioOne then 0 else if r ≤ 2 * ratioOne then 1 else if r ≤ 4 * ratioOne then 2 else 3

/-- The ratio has gone more than 0.5 % past the boundary of class `cls` (R247). -/
def pastBoundary (cls r : Nat) : Bool :=
  let top := ratioOne * 2 ^ cls
  decide (1005 * top < 1000 * r) || (cls != 0 && decide (1000 * r < 995 * (top / 2)))

/-- The receive slot a lane names is an enabled slot of a slave port in ASRC mode (R249). -/
def State.laneAttached (s : State) (q : Nat) : Bool :=
  let n := s.get (Reg.ASRC_LANE_CFG.PORT q)
  let slot := s.get (Reg.ASRC_LANE_CFG.SLOT q)
  s.bit (Reg.SAP_CTL.EN n) && !s.bit (Reg.SAP_CTL.MASTER n) && s.get (Reg.SAP_CTL.DATA n) == 1 &&
    s.bitAt (Reg.SAP_RXMASK.SLOT n (slot / 32)) (slot % 32)

/-- The lane is enabled and its port delivers frames. -/
def State.laneHeld (s : State) (q : Nat) : Bool :=
  let n := s.get (Reg.ASRC_LANE_CFG.PORT q)
  s.domOn .fab && s.bit (Reg.ASRC_LANE_CFG.EN q) && s.laneAttached q && s.bit (Reg.SAP_STAT.RUN n) && !(s.sapP n).lost

/-- The lane's input delivers qualified frames (R246, R253). -/
def State.laneFed (s : State) (q : Nat) : Bool := s.laneHeld q && s.bit (Reg.SAP_STAT.QUAL (s.get (Reg.ASRC_LANE_CFG.PORT q)))

/-- The input rate and the ratio lie in the ranges of R245; RATE is in units of 10 Hz. -/
def ratioInRange (rate10 r : Nat) : Bool := decide (800 ≤ rate10 ∧ rate10 ≤ 21600 ∧ ratioOne ≤ 8 * r ∧ r ≤ 8 * ratioOne)

/-- The ratio of a frame rate in units of 10 Hz to a tick rate in Hz (R245), in units of 2^-20. -/
def laneRho (rate10 hz : Nat) : Nat := rate10 * 10 * ratioOne / hz

/-- Two ratios, or two rates, lie more than 0.5 % apart (R246). -/
def stepped (was now : Nat) : Bool := was != 0 && decide (1005 * was < 1000 * now ∨ 1000 * now < 995 * was)

/-- How many lanes build at present. -/
def State.builders (s : State) : Nat := (List.range 96).countP fun q => (s.lane q).building

/-- A free build slot goes to the lowest-numbered waiting lane; at most four build at once (R247). -/
def State.startBuilds (s : State) : State :=
  (List.range 96).foldl (fun s q =>
    let l := s.lane q
    if l.want.isSome && !l.building && !l.flip && s.builders < 4 then s.setLane q { l with building := true } else s) s

/-- The lane asks for a table of class `cls` in its background page (R247). -/
def State.wantTable (s : State) (q cls : Nat) : State :=
  (s.setLane q { s.lane q with want := some cls, building := false, flip := false } |>.set (Reg.ASRC_LANE_STAT.REBUILD q) 1).startBuilds

/-- LANE_LOCK: the lane locks at the measured ratio (R245, R246). Outside the ranges it does not lock and RANGE is 1. With no complete page
the output waits (R247); a page of another class filters until the new one flips. -/
def State.laneLock (s : State) (q ratio : Nat) : State :=
  if !s.laneFed q || s.bit (Reg.ASRC_LANE_STAT.LOCKED q) then s
  else if !ratioInRange (s.get (Reg.SAP_STAT.RATE (s.get (Reg.ASRC_LANE_CFG.PORT q)))) ratio then s.set (Reg.ASRC_LANE_STAT.RANGE q) 1
  else
    let s := s.set (Reg.ASRC_LANE_STAT.RANGE q) 0 |>.set (Reg.ASRC_LANE_STAT.RATIO q) ratio
      |>.set (Reg.ASRC_LANE_STAT.LOCKED q) 1 |>.flag Reg.ASRC_EVT.LOCK
    let l := s.lane q
    let s := if l.page.isSome then s.setLane q { l with ramp := ⟨0, 65536, s.now, 5⟩, past := 0 }
      else s.setLane q { l with ramp := {}, past := 0 } |>.set (Reg.ASRC_LANE_STAT.TWAIT q) 1 |>.flag Reg.ASRC_EVT.TWAIT
    if l.page = some (ratioClass ratio) then s else s.wantTable q (ratioClass ratio)

/-- A lane that is not to run any more delivers zero (R249). -/
def State.laneStop (s : State) (q : Nat) : State :=
  s.set (Reg.ASRC_LANE_STAT.LOCKED q) 0 |>.set (Reg.ASRC_LANE_STAT.TWAIT q) 0 |>.setLane q { s.lane q with ramp := {}, past := 0 }

/-- Loss of lock (R246): zero from the next weir, the lane's flag and UNLOCK set. -/
def State.laneUnlock (s : State) (q : Nat) : State :=
  if s.bit (Reg.ASRC_LANE_STAT.LOCKED q) then
    (s.laneStop q).setBitAt (Reg.ASRC_UNLOCK.LANE (q / 32)) (q % 32) true |>.flag Reg.ASRC_EVT.UNLOCK
  else s

/-- A locked lane measures its ratio (R246): it tracks it, and outside the ranges of R245 it loses lock. -/
def State.laneTrack (s : State) (q ratio : Nat) : State :=
  if s.bit (Reg.ASRC_LANE_STAT.LOCKED q) then
    let ok := ratioInRange (s.get (Reg.SAP_STAT.RATE (s.get (Reg.ASRC_LANE_CFG.PORT q)))) ratio
    let s := s.set (Reg.ASRC_LANE_STAT.RATIO q) ratio |>.set (Reg.ASRC_LANE_STAT.RANGE q) (b2n !ok)
    if ok then s else s.laneUnlock q
  else s

/-- LANE_UNLOCK: within 10 ms the measured ratio has become `ratio`: a step of more than 0.5 % is a loss, as is a lost port; a smaller one is
tracked (R246). -/
def State.laneStep (s : State) (q ratio : Nat) : State :=
  if stepped (s.get (Reg.ASRC_LANE_STAT.RATIO q)) ratio || !s.laneHeld q then s.laneUnlock q else s.laneTrack q ratio

/-- A millisecond past a boundary of the class counts (R247). -/
def State.laneMs (s : State) (q : Nat) : State :=
  let l := s.lane q
  let past := s.bit (Reg.ASRC_LANE_STAT.LOCKED q) && pastBoundary (s.get (Reg.ASRC_LANE_STAT.CLASS q)) (s.get (Reg.ASRC_LANE_STAT.RATIO q))
  let n := if past then min 20 (l.past + 1) else 0
  if n = l.past then s else s.setLane q { l with past := n }

/-- RATIO_CLASS_CHANGE: the lane measures a ratio; one that has stayed past a boundary for 20 ms asks for the table of its class (R247). -/
def State.laneClassChange (s : State) (q ratio : Nat) : State :=
  let s := s.laneTrack q ratio
  let l := s.lane q
  if s.bit (Reg.ASRC_LANE_STAT.LOCKED q) && l.past == 20 && l.want.isNone && pastBoundary (s.get (Reg.ASRC_LANE_STAT.CLASS q)) ratio then
    s.wantTable q (ratioClass ratio)
  else s

/-- TABLE_BUILD: the lane's build is complete; the page flips at the end of the next weir (R247). -/
def State.tableBuilt (s : State) (q : Nat) : State :=
  let l := s.lane q
  if l.building then (s.setLane q { l with building := false, flip := true }).startBuilds else s

/-- Weir cycles 184 to 191: a complete background page flips; a lane that waited for it starts its ramp (R247). -/
def State.laneFlip (s : State) (q : Nat) : State :=
  let l := s.lane q
  match l.flip, l.want with
  | true, some cls =>
    let waiting := s.bit (Reg.ASRC_LANE_STAT.TWAIT q)
    let l := { l with page := some cls, want := none, flip := false, past := 0, ramp := if waiting then ⟨0, 65536, s.now, 5⟩ else l.ramp }
    s.setLane q l |>.set (Reg.ASRC_LANE_STAT.CLASS q) cls |>.set (Reg.ASRC_LANE_STAT.REBUILD q) 0 |>.set (Reg.ASRC_LANE_STAT.TWAIT q) 0
  | _, _ => s

/-- A committed lane configuration takes hold: a change of FAST makes the lane lose lock, and one that is disabled or whose slot is not an
enabled slot of a slave port in ASRC mode delivers zero (R248, R249). -/
def State.laneFollow (s : State) (q : Nat) : State :=
  let fast := s.bit (Reg.ASRC_LANE_CFG.FAST q)
  let l := s.lane q
  let s := if l.fast = fast then s else (s.laneUnlock q).setLane q { (s.laneUnlock q).lane q with fast := fast }
  if s.bit (Reg.ASRC_LANE_STAT.LOCKED q) && !s.laneHeld q then s.laneStop q else s

/-- A sample of port `n` enters the input buffers of the lanes that it feeds (R244). -/
def State.laneInputs (s : State) (n : Nat) (frame : SapFrame) : State :=
  (List.range 96).foldl (fun s q =>
    if s.get (Reg.ASRC_LANE_CFG.PORT q) = n && s.laneHeld q then
      let v := tabGet (fun _ => (0 : Word)) frame (s.get (Reg.ASRC_LANE_CFG.SLOT q))
      s.setLane q { s.lane q with mem := Config.laneInput (s.lane q).mem v.toInt }
    else s) s

/-- A tick of a locked lane's filter (R244, R247): the polyphase table of the page that it reads. -/
def State.laneTake (s : State) (q : Nat) : State :=
  let l := s.lane q
  match s.bit (Reg.ASRC_LANE_STAT.LOCKED q), l.page with
  | true, some cls =>
    let y := Config.laneOutput cls l.fast (s.get (Reg.ASRC_LANE_STAT.RATIO q)) l.mem
    s.setLane q { l with mem := y.1, out := BitVec.ofInt 32 (clampInt (-2147483648) 2147483647 y.2) }
  | _, _ => s

/-- The lane's output at a weir: zero unless it is locked with a page; else the converted sample under the ramp of R246. -/
def State.laneSample (s : State) (q : Nat) : Word :=
  let l := s.lane q
  if s.bit (Reg.ASRC_LANE_STAT.LOCKED q) && l.page.isSome && !s.bit (Reg.ASRC_LANE_STAT.TWAIT q) then
    BitVec.ofInt 32 (roundDiv (l.out.toInt * l.ramp.value s.now) 65536)
  else 0

/-- A new measurement of port `n`, or a new tick rate: RANGE of its lanes, and the loss of those that leave the ranges (R245). -/
def State.lanesRange (s : State) (n : Nat) : State :=
  let rate10 := s.get (Reg.SAP_STAT.RATE n)
  let ok := ratioInRange rate10 (laneRho rate10 (tickHz s.rate))
  (List.range 96).foldl (fun s q =>
    if s.get (Reg.ASRC_LANE_CFG.PORT q) = n && s.laneHeld q then
      let s := s.set (Reg.ASRC_LANE_STAT.RANGE q) (b2n !ok)
      if ok then s else s.laneUnlock q
    else s) s

/-- The tick rate has changed: every locked lane computes its ratio anew (R259). -/
def State.lanesRetune (s : State) : State :=
  let s := (List.range 96).foldl (fun s q =>
    if s.bit (Reg.ASRC_LANE_STAT.LOCKED q) then
      s.set (Reg.ASRC_LANE_STAT.RATIO q) (laneRho (s.get (Reg.SAP_STAT.RATE (s.get (Reg.ASRC_LANE_CFG.PORT q)))) (tickHz s.rate))
    else s) s
  (s.lanesRange 0).lanesRange 1

/-! ### Ports (R250 to R257) -/

/-- Frame bits, slots and width of a port as its fields act. -/
def State.sapFbits (s : State) (n : Nat) : Nat :=
  match s.get (Reg.SAP_CTL.FBITS n) with
  | 0 => 32
  | 1 => 64
  | 2 => 128
  | 4 => 512
  | _ => 256

def State.sapWidth (s : State) (n : Nat) : Nat :=
  match s.get (Reg.SAP_CTL.WIDTH n) with
  | 0 => 16
  | 1 => 24
  | _ => 32

def State.sapSlots (s : State) (n : Nat) : Nat := if s.bit (Reg.SAP_CTL.LEGACY n) then 2 else s.get (Reg.SAP_CTL.SLOTS n) + 1

/-- A master port cannot start (R252). -/
def State.sapCfgErr (s : State) (n : Nat) : Bool :=
  decide (24576000 < tickHz s.rate * s.sapFbits n) || decide (s.sapFbits n < s.sapSlots n * s.sapWidth n)

/-- A stopped port (R256): every receive slot is zero; the frame in progress goes out to its end. -/
def State.sapStop (s : State) (n : Nat) : State :=
  let p := s.sapP n
  s.setSapP n { masks := p.masks, lastTx := p.lastTx, ending := s.bit (Reg.SAP_STAT.RUN n) || p.ending, master := p.master, swappedTx := p.swappedTx }
    |>.set (Reg.SAP_STAT.RUN n) 0 |>.set (Reg.SAP_STAT.QUAL n) 0 |>.set (Reg.SAP_STAT.OFFRATE n) 0 |>.set (Reg.SAP_STAT.LRMIS n) 0

/-- A port whose clock or supply is gone: no frame goes on. -/
def State.sapHalt (s : State) (n : Nat) : State :=
  let s := s.sapStop n
  s.setSapP n { masks := (s.sapP n).masks }

/-- The end of the frame in progress of a stopped port: its transmit wires are low from here on (R256). -/
def State.sapEnd (s : State) (n : Nat) : State :=
  if (s.sapP n).ending then s.setSapP n { s.sapP n with ending := false, lastTx := [], swappedTx := false } else s

/-- Mask register `k` of port `n`: 0 to 3 the receive masks of wires 0 to 3, 4 to 7 the transmit masks. -/
def sapMaskReg (n : Nat) (k : Fin 8) : Fld := if k.val < 4 then Reg.SAP_RXMASK.SLOT n k else Reg.SAP_TXMASK.SLOT n (k - 4)

/-- Mask writes take effect whole at a frame start (R257). -/
def State.sapMasks (s : State) (n : Nat) : State :=
  let p := s.sapP n
  (p.masks.foldl (fun s m => s.set (sapMaskReg n m.1) m.2.toNat) s).setSapP n { p with masks := [] }

/-- A mask write waits for the next frame start in place of an earlier one of the same register (R257). -/
def State.sapHoldMask (s : State) (n : Nat) (k : Fin 8) (v : Word) : State :=
  s.setSapP n { s.sapP n with masks := (s.sapP n).masks.filter (fun m => m.1 != k) ++ [(k, v)] }

/-- A committed EN, or a new tick rate, takes hold (R252, R256, R259). A master port starts with the next tick's first frame; a slave port
waits for its first frame-sync edge. A port that changes its role starts anew. -/
def State.sapFollow (s : State) (n : Nat) : State :=
  let master := s.bit (Reg.SAP_CTL.MASTER n)
  let live := s.bit (Reg.SAP_STAT.RUN n) || (s.sapP n).waiting
  if !s.bit (Reg.SAP_CTL.EN n) then
    if live || s.bit (Reg.SAP_STAT.CFGERR n) then (s.sapStop n).set (Reg.SAP_STAT.CFGERR n) 0 else s
  else if master && s.sapCfgErr n then (s.sapStop n).set (Reg.SAP_STAT.CFGERR n) 1
  else
    let s := s.set (Reg.SAP_STAT.CFGERR n) 0
    if live && (s.sapP n).master == master then s
    else
      let s := if live then s.sapStop n else s
      s.setSapP n { s.sapP n with waiting := true, master := master }

/-- The start of a tick of port `n` as master (R252, R256 to R258): a port that stops stops here, one that starts starts; the frame carries what
the weir before gave, and mask writes take effect. -/
def State.sapTick (s : State) (n : Nat) : State :=
  let s := if (s.sapP n).master then s.sapEnd n else s
  let p := s.sapP n
  if !p.master || !s.bit (Reg.SAP_CTL.EN n) then s
  else
    let s := if p.waiting then s.setSapP n { p with waiting := false } |>.set (Reg.SAP_STAT.RUN n) 1 else s
    if s.bit (Reg.SAP_STAT.RUN n) then (s.setSapP n { s.sapP n with lastTx := p.nextTx }).sapMasks n else s

/-- The port's word select is PLL-A's active and locked source: it does not slip (R254). -/
def State.sapIsReference (s : State) (n : Nat) : Bool :=
  s.get Reg.CLK_PLLA_REFST.ACTIVE == 3 + n && s.get Reg.CLK_PLLA_REFST.STATE == 0

/-- The elastic buffers of a slave port work: it runs, has its frames, and its rate is that of the tick (R253, R254). -/
def State.sapElastic (s : State) (n : Nat) : Bool :=
  s.bit (Reg.SAP_STAT.RUN n) && !(s.sapP n).master && !(s.sapP n).lost && !s.bit (Reg.SAP_STAT.OFFRATE n)

/-- The receive buffer works: in slip mode (R254). -/
def State.sapSlips (s : State) (n : Nat) : Bool := s.sapElastic n && s.get (Reg.SAP_CTL.DATA n) != 1

/-- One slip of the receive buffer (R254): an empty buffer repeats the last frame, a full one loses the oldest. -/
def State.sapSlipRx (s : State) (n : Nat) : State :=
  let p := s.sapP n
  if p.rx.isEmpty then
    let s := s.setSapP n { p with rx := [p.lastRx] }
    if s.sapIsReference n then s else s.count (Reg.SAP_SLIPCNT.REPEAT n) 1 |>.flag (Reg.SAP_EVT.SLIP n)
  else if 4 ≤ p.rx.length then
    let s := s.setSapP n { p with rx := p.rx.drop 1 }
    if s.sapIsReference n then s else s.count (Reg.SAP_SLIPCNT.DROP n) 1 |>.flag (Reg.SAP_EVT.SLIP n)
  else s

/-- One slip of the transmit buffer, under the same rule (R254). -/
def State.sapSlipTx (s : State) (n : Nat) : State :=
  let p := s.sapP n
  if p.tx.isEmpty then
    let s := s.setSapP n { p with tx := [p.lastTx] }
    if s.sapIsReference n then s else s.count (Reg.SAP_SLIPCNT.REPEAT n) 1 |>.flag (Reg.SAP_EVT.SLIP n)
  else if 4 ≤ p.tx.length then
    let s := s.setSapP n { p with tx := p.tx.drop 1 }
    if s.sapIsReference n then s else s.count (Reg.SAP_SLIPCNT.DROP n) 1 |>.flag (Reg.SAP_EVT.SLIP n)
  else s

/-- The measured frame rate (10 Hz units) differs from the tick rate by more than 1,000 ppm (R254). -/
def offRate (rate10 hz : Nat) : Bool := decide (hz * 1001 < rate10 * 10 * 1000 ∨ rate10 * 10 * 1000 < hz * 999)

/-- Both elastic buffers start two frames full (R254). -/
def SapPort.refill (p : SapPort) : SapPort := { p with rx := [[], []], tx := [[], []], lastRx := [], lastTx := [] }

/-- The measured rate of a slave port against the tick rate (R254, R259); the buffers start anew where it comes back. -/
def State.sapRate (s : State) (n : Nat) : State :=
  if s.bit (Reg.SAP_STAT.RUN n) && !(s.sapP n).master then
    let off := offRate (s.get (Reg.SAP_STAT.RATE n)) (tickHz s.rate)
    let was := s.bit (Reg.SAP_STAT.OFFRATE n)
    let s := s.set (Reg.SAP_STAT.OFFRATE n) (b2n off)
    if was && !off then s.setSapP n (s.sapP n).refill else s
  else s

/-- A slot as the WIDTH of the port keeps it: its upper bits; past the last slot there is none (R250). -/
def State.slotWord (s : State) (n slot : Nat) (v : Word) : Word :=
  if slot % 32 < s.sapSlots n then (v >>> (32 - s.sapWidth n)) <<< (32 - s.sapWidth n) else 0

/-- Slot `k` of the frame of `bits` bit clocks on a wire (R250). `w` holds the bits from the frame-sync edge to one bit clock past the next,
the first as the most significant; the slots start at the edge or DELAY bit clocks after it. A slot that the frame does not
reach whole is zero. -/
def State.slotBits (s : State) (n bits w k : Nat) : Word :=
  let width := s.sapWidth n
  if s.sapSlots n ≤ k || bits < (k + 1) * width then 0
  else
    let below := bits + 1 - (s.get (Reg.SAP_CTL.DELAY n) + (k + 1) * width)
    BitVec.ofNat 32 (w / 2 ^ below % 2 ^ width * 2 ^ (32 - width))

/-- The slot that a word of a legacy port is taken for: the two of a wire change places while the channels are swapped (R251). -/
def legacyPlace (swapped : Bool) (k : Nat) : Nat := if swapped && k < 2 then 1 - k else k

/-- The received frame as the masks let it through: an inactive slot delivers zero (R257), and so does one that an overrun has cut off (R261). -/
def State.sapGate (s : State) (n bits : Nat) (wires : List Nat) : SapFrame :=
  let p := s.sapP n
  (List.range 4).foldl (fun f w =>
    (List.range (s.sapSlots n)).foldl (fun f k =>
      if s.bitAt (Reg.SAP_RXMASK.SLOT n w) k && !(p.cut.any (· ≤ k)) then
        tabPut (fun _ => 0) f (32 * w + k) (s.slotBits n bits (wires.getD w 0) (legacyPlace p.swapped k))
      else f) f) []

/-- The direction of WS at which a frame starts (R251, FSPOL). -/
def State.sapStartEdge (s : State) (n : Nat) : Bool := !s.bit (Reg.SAP_CTL.LEGACY n) && !s.bit (Reg.SAP_CTL.FSPOL n)

/-- The first frame-sync edge after EN took effect: a slave port starts (R251, R254, R256). -/
def State.sapBegin (s : State) (n rate10 : Nat) : State :=
  let p := s.sapP n
  (s.setSapP n { p.refill with waiting := false, ending := false, lost := false, prevBits := 0, swapped := false, swappedTx := false,
                               cut := none, rates := [], nextTx := [] }
    |>.set (Reg.SAP_STAT.RUN n) 1 |>.set (Reg.SAP_STAT.RATE n) rate10).sapRate n |>.sapMasks n

/-- The level of WS at a word start of a legacy port disagrees with the slot that it assumes (R251). -/
def State.sapMismatch (s : State) (n : Nat) (rising : Bool) : State :=
  let p := s.sapP n
  if s.bit (Reg.SAP_CTL.LEGACY n) && ((p.swapped || p.swappedTx) != rising) then
    s.set (Reg.SAP_STAT.LRMIS n) 1 |>.flag (Reg.SAP_EVT.LRMIS n)
  else s

/-- A step of the measured rate by more than 0.5 % within 10 ms: the lanes on the port lose lock (R246). -/
def State.sapStepped (s : State) (n rate10 : Nat) : State :=
  if (s.sapP n).rates.any fun r => stepped r rate10 then
    (List.range 96).foldl (fun s q => if s.get (Reg.ASRC_LANE_CFG.PORT q) = n then s.laneUnlock q else s) s
  else s

/-- A frame-sync edge of slave port `n` (R250, R253 to R257): the frame that it ends, with its bit clocks, the measured rate in 10 Hz units and
the bits of its wires, is delivered; a transmit frame goes out, mask writes take effect. In native format only the edge of
FSPOL is one; a legacy port aligns to the first falling edge and watches no more. -/
def State.sapFrame (s : State) (n : Nat) (seen : FrameSeen) (rate10 : Nat) (wires : List Nat) : State :=
  let s := if (s.sapP n).master then s else s.sapEnd n
  let run := s.bit (Reg.SAP_STAT.RUN n)
  let legacy := s.bit (Reg.SAP_CTL.LEGACY n)
  if !s.domOn .fab || !s.bit (Reg.SAP_CTL.EN n) || s.bit (Reg.SAP_CTL.MASTER n) then s
  else if seen.rising != s.sapStartEdge n && !(legacy && run) then s
  else if !run then s.sapBegin n rate10
  else
    let p := s.sapP n
    let err := !legacy && p.prevBits != 0 && p.prevBits != seen.bits
    let frame := s.sapGate n seen.bits wires
    let s := (s.sapStepped n rate10).set (Reg.SAP_STAT.RATE n) rate10
      |>.set (Reg.SAP_STAT.QUAL n) (b2n (!err && decide (800 ≤ rate10 ∧ rate10 ≤ 21600)))
      |>.flagIf err (Reg.SAP_EVT.FRAME_ERR n)
    let s := s.setSapP n { (if p.lost then p.refill else s.sapP n) with lost := false, prevBits := seen.bits, cut := none }
    let s := ((s.sapRate n).lanesRange n).laneInputs n frame
    let s := if s.sapSlips n then
        let s := if 4 ≤ (s.sapP n).rx.length then s.sapSlipRx n else s
        s.setSapP n { s.sapP n with rx := (s.sapP n).rx ++ [frame] }
      else s
    let s := if s.sapElastic n then
        let s := if (s.sapP n).tx.isEmpty then s.sapSlipTx n else s
        s.setSapP n { s.sapP n with tx := (s.sapP n).tx.drop 1, lastTx := (s.sapP n).tx.headD [] }
      else s.setSapP n { s.sapP n with lastTx := [] }
    (s.sapMismatch n seen.rising).sapMasks n

/-- XRUN: in legacy format one word is dropped or repeated and the channels stay swapped (R251); in native format the frame is completed with zero
slots from the given one on (R261). -/
def State.sapXrun (s : State) (n : Nat) (tx : Bool) (slot : Nat) : State :=
  if s.bit (Reg.SAP_STAT.RUN n) then
    let p := s.sapP n
    let p := match s.bit (Reg.SAP_CTL.LEGACY n), tx with
      | true, false => { p with swapped := !p.swapped }
      | true, true => { p with swappedTx := !p.swappedTx }
      | false, false => { p with cut := some slot }
      | false, true => { p with lastTx := p.lastTx.filter fun e => e.1 % 32 < slot }
    s.setSapP n p |>.flag (Reg.SAP_EVT.XRUN n)
  else s

/-- LRMIS: the level of WS disagrees with the assumed slot of a legacy port (R251). -/
def State.sapLrmis (s : State) (n : Nat) : State :=
  if s.bit (Reg.SAP_STAT.RUN n) && s.bit (Reg.SAP_CTL.LEGACY n) then
    s.set (Reg.SAP_STAT.LRMIS n) 1 |>.flag (Reg.SAP_EVT.LRMIS n)
  else s

/-- PORT_LOST: no frame-sync edge for two expected frame periods (R253): zero on every receive slot, and in slip mode on every transmit slot; the
lanes on the port lose lock (R246). -/
def State.sapLost (s : State) (n : Nat) : State :=
  if s.bit (Reg.SAP_STAT.RUN n) && !(s.sapP n).master then
    let s := (List.range 96).foldl (fun s q => if s.get (Reg.ASRC_LANE_CFG.PORT q) = n then s.laneUnlock q else s) s
    s.set (Reg.SAP_STAT.QUAL n) 0 |>.flag (Reg.SAP_EVT.LOST n) |>.setSapP n { (s.sapP n).refill with lost := true, prevBits := 0 }
  else s

/-- The sample of receive slot `slot` of port `n` that a weir moves, from the frame at the front of the buffer; `master` gives the
words that a master port has received in the tick before. A slot that feeds a lane, a lost port or one off the tick rate delivers zero (R244, R253, R254). -/
def State.sapSample (s : State) (n slot : Nat) (master : Nat → Word) : Word :=
  if !s.domOn .fab || !s.bit (Reg.SAP_STAT.RUN n) then 0
  else if (s.sapP n).master then
    let k := 32 * (slot / 32) + legacyPlace (s.bit (Reg.SAP_CTL.LEGACY n) && (s.sapP n).swapped) (slot % 32)
    if s.bitAt (Reg.SAP_RXMASK.SLOT n (slot / 32)) (slot % 32) then s.slotWord n slot (master k) else 0
  else if s.sapSlips n then tabGet (fun _ => 0) ((s.sapP n).rx.headD []) slot
  else 0

/-- The weir takes the front frame of each running slave port (R254). -/
def State.sapTakeFrame (s : State) (n : Nat) : State :=
  if s.sapSlips n then
    let p := s.sapP n
    s.setSapP n { p with rx := p.rx.drop 1, lastRx := p.rx.headD p.lastRx }
  else s

/-- Before the move: a slave port's empty receive buffer repeats its last frame (R254). -/
def State.sapBeforeMove (s : State) (n : Nat) : State :=
  if s.sapSlips n && (s.sapP n).rx.isEmpty then s.sapSlipRx n else s

/-- What the transmit wires of port `n` carry in a slot of the frame that runs: a slot whose mask bit is 0, or past the last, is driven low
(R250, R257). -/
def State.sapWire (s : State) (n slot : Nat) : Word :=
  let p := s.sapP n
  let k := 32 * (slot / 32) + legacyPlace (s.bit (Reg.SAP_CTL.LEGACY n) && p.swappedTx) (slot % 32)
  if (s.bit (Reg.SAP_STAT.RUN n) || p.ending) && s.bitAt (Reg.SAP_TXMASK.SLOT n (slot / 32)) (slot % 32) then
    s.slotWord n slot (tabGet (fun _ => 0) p.lastTx k)
  else 0

/-- SAPn_DO of wire `w` in bit clock `i` from the edge that starts the frame (R250): the slots, most significant bit first, DELAY bit clocks after
it; low past the last. -/
def State.sapDataOut (s : State) (n w i : Nat) : Bool :=
  let width := s.sapWidth n
  let d := s.get (Reg.SAP_CTL.DELAY n)
  decide (d ≤ i ∧ i - d < s.sapSlots n * width) && (s.sapWire n (32 * w + (i - d) / width)).getLsbD (31 - (i - d) % width)

/-- A master port drives its clocks (R252, R256). -/
def State.sapClocked (s : State) (n : Nat) : Bool := (s.sapP n).master && (s.bit (Reg.SAP_STAT.RUN n) || (s.sapP n).ending)

/-- SAPn_WS of a master port in bit clock `i` of a frame (R252; FSW, FSPOL): one bit clock or half the frame from the edge that starts it. -/
def State.sapWsOut (s : State) (n i : Nat) : Bool :=
  let half := s.bit (Reg.SAP_CTL.FSW n) || s.bit (Reg.SAP_CTL.LEGACY n)
  s.sapClocked n && (decide (i < if half then s.sapFbits n / 2 else 1) == s.sapStartEdge n)

/-- SAPn_BCLK of a master port in half `h` of the frame's bit clocks (R252, BCLKPOL): data change where a bit clock begins, on the falling edge with
BCLKPOL = 0. -/
def State.sapBclkOut (s : State) (n h : Nat) : Bool := s.sapClocked n && (h % 2 == 1) != s.bit (Reg.SAP_CTL.BCLKPOL n)

/-- The weir's transmit frame: a master port sends it in the next frame (R258), and it joins the transmit buffer of a slave port, whose full
buffer drops its oldest (R254, R255). -/
def State.sapPutFrame (s : State) (n : Nat) (frame : SapFrame) : State :=
  if (s.sapP n).master then s.setSapP n { s.sapP n with nextTx := frame }
  else if s.sapElastic n then
    let s := if 4 ≤ (s.sapP n).tx.length then s.sapSlipTx n else s
    s.setSapP n { s.sapP n with tx := (s.sapP n).tx ++ [frame] }
  else s

/-- A millisecond of the port's rate measurement (R246, R253). -/
def State.sapMs (s : State) (n : Nat) : State :=
  if s.bit (Reg.SAP_STAT.RUN n) && !(s.sapP n).master then
    s.setSapP n { s.sapP n with rates := (s.get (Reg.SAP_STAT.RATE n) :: (s.sapP n).rates).take 10 }
  else s

/-- A millisecond of the ports and the lanes. -/
def State.asrcMs (s : State) : State := (List.range 96).foldl State.laneMs ((s.sapMs 0).sapMs 1)

/-- Lanes and ports take hold of what a commit gave them. -/
def State.asrcFollowAll (s : State) : State :=
  (List.range 96).foldl State.laneFollow ((s.sapFollow 0).sapFollow 1)

/-- Lanes and ports at a new tick rate (R259). -/
def State.asrcRateChange (s : State) : State := ((s.asrcFollowAll.sapRate 0).sapRate 1).lanesRetune

/-- Every lane loses lock (family change step 2, R259; the FAB domain off, R18). -/
def State.lanesUnlockAll (s : State) : State := (List.range 96).foldl State.laneUnlock s

/-! ### Commands -/

/-- LANE_LOCK (R246): the measured ratio in units of 2^-20. -/
def execLaneLock (q : Fin 96) (ratio : BitVec 24) (s : State) : Host.Outcome State Fault Refusal := .next (s.laneLock q ratio.toNat)

/-- LANE_UNLOCK (R246). -/
def execLaneUnlock (seen : LaneRatio) (s : State) : Host.Outcome State Fault Refusal := .next (s.laneStep seen.lane seen.ratio.toNat)

/-- TABLE_BUILD (R247). -/
def execTableBuild (q : Fin 96) (s : State) : Host.Outcome State Fault Refusal := .next (s.tableBuilt q)

/-- RATIO_CLASS_CHANGE (R247). -/
def execRatioClassChange (q : Fin 96) (ratio : BitVec 24) (s : State) : Host.Outcome State Fault Refusal :=
  .next (s.laneClassChange q ratio.toNat)

/-- FRAME_SYNC_EDGE (R250). -/
def execFrameSyncEdge (n : Fin 2) (seen : FrameSeen) (rate10 : Nat) (wires : List Nat) (s : State) : Host.Outcome State Fault Refusal :=
  .next (s.sapFrame n seen rate10 wires)

/-- FRAME_ERR (R250): a frame whose bit-clock count differs from the previous frame's is delivered as far as it goes. -/
def execFrameErr (n : Fin 2) (seen : FrameSeen) (rate10 : Nat) (wires : List Nat) (s : State) : Host.Outcome State Fault Refusal :=
  .next (if (s.sapP n).prevBits != 0 && (s.sapP n).prevBits != seen.bits && !s.bit (Reg.SAP_CTL.LEGACY n) then s.sapFrame n seen rate10 wires else s)

/-- XRUN (R251). -/
def execXrun (seen : XrunSeen) (s : State) : Host.Outcome State Fault Refusal := .next (s.sapXrun seen.port seen.tx seen.slot)

/-- LRMIS (R251). -/
def execLrmis (n : Fin 2) (s : State) : Host.Outcome State Fault Refusal := .next (s.sapLrmis n)

/-- PORT_LOST (R253). -/
def execPortLost (n : Fin 2) (s : State) : Host.Outcome State Fault Refusal := .next (s.sapLost n)

/-- SLIP (R254) of the receive or the transmit buffer of a running slave port. -/
def execSlip (n : Fin 2) (tx : Bool) (s : State) : Host.Outcome State Fault Refusal :=
  .next (if tx then if s.sapElastic n then s.sapSlipTx n else s else if s.sapSlips n then s.sapSlipRx n else s)

end Sys2Proof.Machine
end

