-- ==== Sys2Proof/Machine/Ram.lean ====
section
/-! DEFINITION. SYS RAM (R334, R338): 1 MiB of bytes reached in whole 32-bit words, low byte at the lower offset. -/

namespace Sys2Proof.Machine

/-- Bytes of SYS RAM (R338). -/
abbrev ramBytes : Nat := 0x100000

/-- The byte at an offset. -/
def State.ramByte (s : State) (a : Nat) : Byte := tabGet (fun _ => 0) s.ram a

/-- The word at a byte offset. -/
def State.ramWord (s : State) (a : Nat) : Word :=
  BitVec.ofNat 32 ((s.ramByte a).toNat + 256 * (s.ramByte (a + 1)).toNat + 65536 * (s.ramByte (a + 2)).toNat +
    16777216 * (s.ramByte (a + 3)).toNat)

/-- The RAM table with a word stored at a byte offset. -/
def ramStore (m : Tab Byte) (a : Nat) (v : Word) : Tab Byte :=
  tabPutList (fun _ => 0) m a [v.extractLsb' 0 8, v.extractLsb' 8 8, v.extractLsb' 16 8, v.extractLsb' 24 8]

/-- A word written at a byte offset; beyond the RAM it is discarded. -/
def State.setRamWord (s : State) (a : Nat) (v : Word) : State :=
  if a + 3 < ramBytes then { s with ram := ramStore s.ram a v } else s

end Sys2Proof.Machine
end

