-- ==== Sys2Proof/Machine/Psc.lean ====
section
/-! DEFINITION. Power-stage channels (11_power_stage_control.md, R204 to R226): starts and stops, the all-off order,
the loop, the flying capacitors and the restart rule. -/

namespace Sys2Proof.Machine

/-- PSC_STAT.STATE codes. -/
abbrev psOFF : Nat := 0
abbrev psSTARTING : Nat := 1
abbrev psRUN : Nat := 2
abbrev psSTOPPING : Nat := 3
abbrev psIDLE : Nat := 4
abbrev psFAULT : Nat := 5
abbrev psLATCHED : Nat := 6
abbrev psLIMITING : Nat := 7

/-- PSC_STAT.CAUSE codes (11 and 12). -/
abbrev pcCLOCK : Nat := 1
abbrev pcRDY : Nat := 2
abbrev pcPRECHG : Nat := 3
abbrev pcFCIMB : Nat := 4
abbrev pcCFG : Nat := 5
abbrev pcGAUGE : Nat := 6
abbrev pcOCP : Nat := 7
abbrev pcSHORT : Nat := 8
abbrev pcOPEN : Nat := 9
abbrev pcCOILTEMP : Nat := 10
abbrev pcSTAGETEMP : Nat := 11

/-- Waits of channel `k`: the ready line (R222 step 2), the precharge (step 3), a fault (R225, R231), the test (R233), the pilot window (R236). -/
def tmPscReady (k : Nat) : Nat := 0x200 + k
def tmPscPrecharge (k : Nat) : Nat := 0x210 + k
def tmPscFault (k : Nat) : Nat := 0x220 + k
def tmPscTest (k : Nat) : Nat := 0x230 + k
def tmPscPilot (k : Nat) : Nat := 0x240 + k

/-- cm at 0.5 and gain at 1, in units of 2^-16. -/
abbrev cmHalf : Nat := 0x8000
abbrev gainOne : Nat := 0x10000

def State.pscCh (s : State) (k : Nat) : PscCh := tabGet (fun _ => {}) s.psc k

def State.setPscCh (s : State) (k : Nat) (c : PscCh) : State := { s with psc := tabPut (fun _ => {}) s.psc k c }

def State.psState (s : State) (k : Nat) : Nat := s.get (Reg.PSC_STAT.STATE k)

def State.setPsState (s : State) (k v : Nat) : State := s.set (Reg.PSC_STAT.STATE k) v

/-- CM and DIFF in ms, limited as their field tables say. -/
def State.rampCm (s : State) (k : Nat) : Nat := clampNat 10 250 (s.get (Reg.PSC_RAMP.CM k))
def State.rampDiff (s : State) (k : Nat) : Nat := clampNat 1 250 (s.get (Reg.PSC_RAMP.DIFF k))

/-- The family in effect selects the coefficient bank (R212): 0 is 48 kHz, 1 is 44.1 kHz. -/
def State.pscBank (s : State) : Nat := s.get Reg.CLK_STAT.FAMILY

/-- PLL-P declares lock (CLK_STAT.LOCKED bit 3). -/
def State.pllPLocked (s : State) : Bool := s.bitAt Reg.CLK_STAT.LOCKED 3 && !s.bit (Reg.CLK_PLL_STAT.BYPASSED 3)

/-- A gauge converter is in service (R325: STATE = SERVICE). -/
def State.gaugeInService (s : State) : Bool := s.get Reg.GAUGE_STAT.STATE_A == 2 || s.get Reg.GAUGE_STAT.STATE_B == 2

/-- LEVELS of the control register, its reserved code acting as 4-level (R204). -/
def State.pscLevelsCfg (s : State) (k : Nat) : Nat :=
  let v := s.get (Reg.PSC_CTL.LEVELS k)
  if v = 0 then 3 else v

/-- K0 to K4 are all zero in the bank in effect (R212). -/
def State.pscNoCoef (s : State) (k : Nat) : Bool :=
  (List.range 5).all fun i => s.get (Reg.PSC_LF.COEF k s.pscBank i) == 0

/-- PLL-P serves, crossings 14 and 15 have started, and no family change runs (R221, R222, R224). -/
def State.pscClocked (s : State) : Bool :=
  s.domOn .pst && s.pllPLocked && s.bit (Reg.XING_STAT.RDY 14) && s.bit (Reg.XING_STAT.RDY 15) && s.clk.hop.isNone

/-- The start conditions of R222 apart from EN. -/
def State.pscReadyToRun (s : State) (k : Nat) : Bool := s.pscClocked && s.playing && s.gaugeInService && s.psState k != psLATCHED

/-- The start conditions of R222. -/
def State.pscWants (s : State) (k : Nat) : Bool := s.bit (Reg.PSC_CTL.EN k) && s.pscReadyToRun k

/-- The channel switches: carriers run, or its pulses are cut by a trip. -/
def PscCh.switches (c : PscCh) : Bool := c.drive == .switching || c.drive == .freewheel

/-! ### Carriers, duties and gate outputs (R204 to R208) -/

/-- Cells in use by the topology in effect (R204). -/
def State.pscCells (s : State) (k : Nat) : Nat := match s.get (Reg.PSC_STAT.LEVELS k) with
  | 1 => 1
  | 2 => 2
  | _ => 3

/-- Edge steps per second in the family in effect: half PWR cycles (R206). -/
def State.edgeHz (s : State) : Nat := if s.get Reg.CLK_STAT.FAMILY = 0 then 3145728000 else 2890137600

/-- The carriers of 16,384 edge steps by FREQ: where each begins, and its length (R206); the reserved code acts as 192 kHz. -/
def carriers (freq : Nat) : List (Nat × Nat) :=
  match freq with
  | 1 => [(0, 8192), (8192, 8192)]
  | 2 => [(0, 5461), (5461, 5461), (10922, 5462)]
  | _ => [(0, 16384)]

/-- The offset o_c of cell `c` of half-bridge P, or N where `half`, with `cells` in use and carrier length `l` (R207). -/
def cellOffset (cells : Nat) (half : Bool) (c l : Nat) : Nat :=
  let d := if cells = 2 then 2 else 3
  (if cells = 1 then 0 else roundNear ((c - 1) * l) d) +
    (if !half then 0 else roundNear l (if cells = 3 then 6 else if cells = 2 then 4 else 2))

/-- DEADT of cell `c` in 0.5 ns units, within its limits, and the dead time in edge steps, rounded up (R208). -/
def State.deadCode (s : State) (k c : Nat) : Nat := clampNat 4 160 (s.get ⟨(Reg.PSC_DEADT.CELL1 k).addr, 8 * (c - 1), 8⟩)
def State.deadSteps (s : State) (k c : Nat) : Nat := (s.deadCode k c * s.edgeHz + 1999999999) / 2000000000

/-- The duty of a half-bridge without trim, cm ± m / 2, in units of 2^-32; in the DC load test P carries the test voltage and N none (R207, R233). -/
def State.pscDuty (s : State) (k : Nat) (half : Bool) : Int :=
  let c := s.pscCh k
  if c.drive = .dcTest then
    if half then 0 else roundDiv (c.testV.value s.now * 2 ^ 32 : Nat) (10 * s.get (Reg.PSC_PVDD.MV10 k) : Nat)
  else (c.cm.value s.now * 65536 : Nat) + (if half then -c.m else c.m)

/-- The targets of FC1 and FC2 by topology, as fractions of PVDD: numerator and denominator (R204). -/
def fcTarget (levels which : Nat) : Option (Nat × Nat) :=
  match levels, which with
  | 3, 1 => some (1, 3)
  | 3, 2 => some (2, 3)
  | 2, 1 => some (1, 2)
  | _, _ => none

/-- Which way to trim for capacitor `which` of a half-bridge: 1 charges it under the present current by making the outer cell's run longer than
the inner one's, −1 the other way (R218). -/
def State.trimSign (s : State) (k : Nat) (half : Bool) (which : Nat) : Int :=
  let c := s.pscCh k
  match fcTarget (s.get (Reg.PSC_STAT.LEVELS k)) which, c.est.getD (2 * b2n half + which - 1) none with
  | some t, some e => (if half then -c.isns else c.isns).sign * ((2 ^ 32 * t.1 : Int) - e * t.2).sign
  | _, _ => 0

/-- The balance trim of cell `c`: those of a half-bridge sum to zero and stay within TRIM_MAX (R218). -/
def State.pscTrim (s : State) (k : Nat) (half : Bool) (c : Nat) : Int :=
  let u := fun which => s.trimSign k half which * ((s.pscCh k).trims.getD (2 * b2n half + which - 1) 0 : Nat)
  match s.pscCells k, c with
  | 3, 1 => -(2 * u 1 + u 2)
  | 3, 2 => u 1 - u 2
  | 3, 3 => u 1 + 2 * u 2
  | 2, 1 => -u 1
  | 2, 2 => u 1
  | _, _ => 0

/-- The H run of a cell of duty `d` in a carrier of length `l`, in edge steps: left out where it is shorter than MINPW, continuous where longer
than l − MINPW (R207, R208). -/
def State.hRun (s : State) (k : Nat) (d : Int) (l : Nat) : Nat :=
  let n := (clampInt 0 l (roundDiv (d * l) (2 ^ 32))).toNat
  let w := clampNat 4 200 (s.get (Reg.PSC_MOD.MINPW k)) * s.edgeHz
  if n * 2000000000 < w then 0 else if (l - n) * 2000000000 < w then l else n

/-- The H runs of cell `c` within 16,384 edge steps, as the start and the length of each (R207): centred on the carrier's start plus o_c. -/
def State.hRuns (s : State) (k : Nat) (half : Bool) (c : Nat) : List (Int × Nat) :=
  (carriers (s.pscCh k).freq).map fun p =>
    let n := s.hRun k ((s.pscCh k).duty.getD (3 * b2n half + c - 1) 0) p.2
    (((p.1 + cellOffset (s.pscCells k) half c p.2 : Nat) : Int) - (n / 2 : Nat), n)

/-- How much of [a, a + n) lies in [b, b + m). -/
def overlapOf (a n b m : Int) : Int := max 0 (min (a + n) (b + m) - max a b)

/-- Edge steps of [at, at + n) in which a run of a 16,384-step pattern is on. -/
def onSteps (runs : List (Int × Nat)) (at_ n : Int) : Int :=
  (runs.map fun r => overlapOf r.1 r.2 at_ n + overlapOf (r.1 - 16384) r.2 at_ n + overlapOf (r.1 + 16384) r.2 at_ n).sum

/-- Gate output PSkXc_H or PSkXc_L at an edge step of the 16,384 (R205, R207, R208, R228): each turn-on waits for the dead time after the turn-off of
the other switch; outputs of unused cells, and all while the drive is low, are low. The probe pulses of R222 and R233 are not shown. -/
def State.pscGate (s : State) (k : Nat) (half : Bool) (c : Nat) (high : Bool) (at_ : Nat) : Bool :=
  if c = 0 || s.pscCells k < c then false
  else match (s.pscCh k).drive with
  | .low => false
  | .probe => false
  | .freewheel => !high
  | _ =>
    let dt := s.deadSteps k c
    let runs := (s.hRuns k half c).filter fun r => r.2 != 0
    let full := runs.all (fun r => (carriers (s.pscCh k).freq).any fun p => p.2 == r.2) && !runs.isEmpty
    if full then high
    else if high then onSteps (runs.map fun r => (r.1 + dt, r.2 - dt)) at_ 1 != 0
    else onSteps (runs.map fun r => (r.1, r.2 + dt)) at_ 1 == 0

/-- The node of a half-bridge as a fraction of PVDD in units of 2^-32 from V1 and V2 and the cells whose H is on (R213). -/
def nodeVoltage (v1 v2 : Int) (h1 h2 h3 : Bool) : Int :=
  (if h1 then v1 else 0) + (if h2 then v2 - v1 else 0) + (if h3 then 2 ^ 32 - v2 else 0)

/-! ### All-off (R220, R221) -/

/-- The order of an all-off: the cells from the outermost used one inward, with the time of each in ps after the trigger; on a clock error the
spacing is counted in bypass periods of 40.69 ns. -/
def State.pscOffOrder (s : State) (k : Nat) (clock : Bool) : List (Nat × Nat) :=
  let wait := fun c => if clock then (500 * s.deadCode k c + 10000 + 40689) / 40690 * 40690 else 500 * s.deadCode k c + 10000
  let first := if clock then 81380 else 10000
  match s.pscCells k with
  | 1 => [(1, first)]
  | 2 => [(2, first), (1, first + wait 2)]
  | _ => [(3, first), (2, first + wait 3), (1, first + wait 3 + wait 2)]

/-- The all-off order of R220: gate outputs low from the outermost cell inward, then PSC_RDYk_N pulled low. -/
def State.allOffBy (s : State) (k : Nat) (clock : Bool) : State :=
  s.setPscCh k { s.pscCh k with drive := .low, step := .none, rdyReleased := false, cm := {}, gain := {}, m := 0,
                                tripped := 0, shortSoFar := true, dueAt := [], offAt := s.pscOffOrder k clock }
    |>.set (Reg.PSC_STAT.RDY k) 0 |>.stopTimer (tmPscReady k) |>.stopTimer (tmPscPrecharge k)

def State.allOff (s : State) (k : Nat) : State := s.allOffBy k false

/-- The channel, all-off, is in FAULT with a cause. -/
def State.pscFaulted (s : State) (k cause : Nat) : State :=
  ((s.setPsState k psFAULT).set (Reg.PSC_STAT.CAUSE k) cause |>.flag (Reg.PSC_EVT.FAULT k)).startTimer (tmPscFault k)

/-- The channel enters FAULT with a cause, after the all-off order. -/
def State.pscFault (s : State) (k cause : Nat) : State := (s.allOff k).pscFaulted k cause

/-- The channel latches (R225). -/
def State.pscLatch (s : State) (k : Nat) : State := s.setPsState k psLATCHED |>.flag (Reg.PSC_EVT.LATCH k)

/-- Three restarts lie within the last 10 s: the next fault that would restart latches (R225). -/
def State.pscSpent (s : State) (k : Nat) : Bool := decide (3 ≤ (recent s.now 10000 (s.pscCh k).restarts).length)

/-- A stage fault of class PSC_STAGE (R383): FAULT, and the error noted. One that would be the fourth restart within 10 s latches (R225). -/
def State.pscStageFault (s : State) (k cause : Nat) : State :=
  let s := (s.pscFault k cause).error clsPSC_STAGE k
  if (cause = pcRDY || cause = pcPRECHG || cause = pcFCIMB) && s.pscSpent k then s.pscLatch k else s

/-- Step 1 of R222: STARTING, the topology of LEVELS taken, PSC_RDYk_N released (step 2). With no coefficients the
channel does not start and CAUSE reads CFG (R212). -/
def State.pscBegin (s : State) (k : Nat) : State :=
  if s.pscNoCoef k then s.set (Reg.PSC_STAT.CAUSE k) pcCFG
  else
    let c := s.pscCh k
    (s.setPscCh k { c with step := .waitReady, rdyReleased := true, drive := .low, cm := {}, gain := {}, stopFault := false,
                           x1 := 0, x2 := 0, x3 := 0, x4 := 0, m := 0 }
      |>.set (Reg.PSC_STAT.LEVELS k) (s.pscLevelsCfg k) |>.setPsState k psSTARTING).startTimer (tmPscReady k)

/-- Step 4 of R222: switching starts at cm = 0 and cm rises to 0.5 over CM. -/
def State.pscSwitchOn (s : State) (k : Nat) : State :=
  s.setPscCh k { s.pscCh k with step := .cmRamp, drive := .switching, cm := ⟨0, cmHalf, s.now, s.rampCm k⟩, gain := {}, m := 0,
                                duty := [0, 0, 0, 0, 0, 0] }
    |>.stopTimer (tmPscPrecharge k)

/-- The probes of step 3 begin: what the capacitors hold is not known yet. -/
def State.pscProbe (s : State) (k : Nat) : State :=
  (s.setPscCh k { s.pscCh k with drive := .probe, est := [none, none, none, none], codes := [] }).startTimer (tmPscPrecharge k)

/-- Step 3 of R222: probe pulses; a 2-level stage skips them. -/
def State.pscPrecharge (s : State) (k : Nat) : State :=
  if s.get (Reg.PSC_STAT.LEVELS k) = 1 then s.pscSwitchOn k
  else (s.pscProbe k).setPscCh k { (s.pscProbe k).pscCh k with step := .precharge }

/-- An estimate's distance from its target, times the denominator of the target, in units of 2^-32 of PVDD. -/
def fcDist (est : Int) (t : Nat × Nat) : Nat := (est * t.2 - 2 ^ 32 * t.1).natAbs

/-- The error of an estimate exceeds `num` / `den` of its target. -/
def fcOff (levels which : Nat) (est : Option Int) (num den : Nat) : Bool :=
  match fcTarget levels which, est with
  | some t, some e => decide (num * 2 ^ 32 * t.1 < den * fcDist e t)
  | _, _ => false

/-- Every capacitor is known to be within WIN of its target (R222 step 3): WIN counts 0.5 % of the target. -/
def State.pscInWindow (s : State) (k : Nat) : Bool :=
  let lv := s.get (Reg.PSC_STAT.LEVELS k)
  (List.range 4).all fun i => (fcTarget lv (i % 2 + 1)).isNone ||
    (((s.pscCh k).est.getD i none).isSome && !fcOff lv (i % 2 + 1) ((s.pscCh k).est.getD i none) (5 * s.get (Reg.PSC_PRECHG.WIN k)) 1000)

/-- The coil temperature T_vc = T0 + ΔT_mag + ΔT_vc, in units of 10^-9 °C (R238). -/
def State.pscTvc (s : State) (k : Nat) : Int :=
  1000000000 * s.getInt (Reg.PSC_CAB.T0 k) + (s.pscCh k).dTmag + (s.pscCh k).dTvc

/-- The coil-temperature model is on (R240: RE0 is not 0). -/
def State.pscModelOn (s : State) (k : Nat) : Bool := s.bit (Reg.PSC_CAB.RE0 k)

/-- The stage NTC code is at or below a threshold; 0 disables the threshold (R240). -/
def State.ntcAtOrBelow (s : State) (k threshold : Nat) : Bool := threshold != 0 && decide ((s.pscCh k).ntc ≤ threshold)

/-- A thermal stop may restart: T_vc below TLIM − 10 °C and the NTC code above LIM (R240). -/
def State.pscCool (s : State) (k : Nat) : Bool :=
  (!s.pscModelOn k || decide (s.pscTvc k < 1000000000 * ((s.get (Reg.PSC_CAB.TLIM k) : Int) - 10))) &&
    !s.ntcAtOrBelow k (s.get (Reg.PSC_NTC.LIM k))

/-- May the channel start from its present state: OFF, or FAULT whose cause has its own start (R221, R18, R212, R240). -/
def State.pscMayBegin (s : State) (k : Nat) : Bool :=
  let cause := s.get (Reg.PSC_STAT.CAUSE k)
  (s.psState k == psOFF && (s.pscCh k).dcTest == .none) ||
    (s.psState k == psFAULT && (s.pscCh k).dcTest == .none && (cause == pcCLOCK || cause == pcGAUGE || cause == pcCFG ||
      ((cause == pcCOILTEMP || cause == pcSTAGETEMP) && s.pscCool k)))

/-- A running channel that meets QUIET enters IDLE, its gain ramping to 0 over 20 ms; one in IDLE ramps back in RUN (R224). -/
def State.pscQuiet (s : State) (k : Nat) : State :=
  let c := s.pscCh k
  if s.psState k = psRUN && !s.playing then s.setPscCh k { c with gain := c.gain.next s.now 0 20 } |>.setPsState k psIDLE
  else if s.psState k = psIDLE && s.playing then s.setPscCh k { c with gain := c.gain.next s.now gainOne 20 } |>.setPsState k psRUN
  else s

/-- QUIET: each running channel enters IDLE (R224). -/
def State.pscIdle (s : State) : State := (List.range 8).foldl State.pscQuiet s

/-- Return from QUIET (R224). -/
def State.pscUnidle (s : State) : State := (List.range 8).foldl State.pscQuiet s

/-- CHANNEL_START: the next step of R222 that is due. `line` is the level of PSC_RDYk_N. -/
def State.pscStart (s : State) (k : Nat) (line : Bool) : State :=
  let c := s.pscCh k
  if s.psState k = psSTARTING then
    match c.step with
    | .waitReady =>
      if line then
        let s := s.set (Reg.PSC_STAT.RDY k) 1
        if s.get (Reg.PSC_STAT.LEVELS k) = 1 then (s.stopTimer (tmPscReady k)).pscSwitchOn k
        else (s.setPscCh k { c with step := .settle }).startTimer (tmPscReady k)
      else s
    | .settle => if s.due (tmPscReady k) 1 then (s.stopTimer (tmPscReady k)).pscPrecharge k else s
    | .precharge => if s.pscInWindow k then s.pscSwitchOn k else s
    | .cmRamp =>
      if c.cm.done s.now then s.setPscCh k { c with step := .gainRamp, gain := ⟨0, gainOne, s.now, s.rampDiff k⟩ } else s
    | .gainRamp =>
      if c.gain.done s.now then ((s.setPscCh k { c with step := .none }).setPsState k psRUN |>.flag (Reg.PSC_EVT.STARTED k)).pscQuiet k else s
    | _ => s
  else if s.pscWants k && s.pscMayBegin k then s.pscBegin k
  else s

/-- A stop reason of R223 holds: EN = 0, the service state is not LIVE, a mode other than RUN and QUIET is entered, or no
gauge converter is in service (R18). -/
def State.pscMustStop (s : State) (k : Nat) : Bool :=
  !s.bit (Reg.PSC_CTL.EN k) || s.svc != svcLIVE || !(s.mode == modeRUN || s.mode == modeQUIET) || s.leaving || !s.gaugeInService

/-- Step 1 of R223 from the present gain and cm; before step 4 of a start the channel goes straight to all-off. A
`cause` other than 0 makes the stop end in FAULT. -/
def State.pscStopBegin (s : State) (k cause : Nat) : State :=
  let c := s.pscCh k
  let s := if cause = 0 then s else s.set (Reg.PSC_STAT.CAUSE k) cause
  if c.switches then
    s.setPscCh k { c with step := .stopGain, gain := c.gain.next s.now 0 (s.rampDiff k), cm := c.cm.next s.now (c.cm.value s.now) 0,
                          stopFault := cause != 0 } |>.setPsState k psSTOPPING
  else if cause = 0 then ((s.allOff k).setPsState k psOFF).flag (Reg.PSC_EVT.STOPPED k)
  else (s.pscFault k cause).flag (Reg.PSC_EVT.STOPPED k)

/-- Steps 4 and 5 of R223: the all-off order, OFF or FAULT. -/
def State.pscStopEnd (s : State) (k : Nat) : State :=
  let c := s.pscCh k
  if c.stopFault then (s.pscFault k (s.get (Reg.PSC_STAT.CAUSE k))).flag (Reg.PSC_EVT.STOPPED k)
  else ((s.allOff k).setPsState k psOFF).flag (Reg.PSC_EVT.STOPPED k)

/-- CHANNEL_STOP: the next step of R223 that is due. The carrier of step 3 is shorter than a millisecond. -/
def State.pscStop (s : State) (k : Nat) : State :=
  let c := s.pscCh k
  let st := s.psState k
  if st = psSTOPPING then
    match c.step with
    | .stopGain =>
      if c.gain.done s.now then s.setPscCh k { c with step := .stopCm, cm := c.cm.next s.now 0 (s.rampCm k) } else s
    | .stopCm => if c.cm.done s.now then s.setPscCh k { c with step := .stopLow, drive := .freewheel } else s
    | .stopLow => s.pscStopEnd k
    | _ => s
  else if (st = psSTARTING || st = psRUN || st = psIDLE || st = psLIMITING) && s.pscMustStop k then
    s.pscStopBegin k (if s.gaugeInService then 0 else pcGAUGE)
  else s

/-- The channels are parked by a move out of LIVE (R224): each starting or running channel begins its stop. -/
def State.pscPark (s : State) : State := (List.range 8).foldl State.pscStop s

/-- A clock error on channel `k` (R221, R226): all-off and FAULT with CAUSE CLOCK for one that switches or starts. A stopping one ends in OFF, or in
FAULT with the cause that it stops for; a load test that runs after a trip waits again (R233). -/
def State.pscClockError (s : State) (k : Nat) : State :=
  let c := s.pscCh k
  if c.drive = .low && s.psState k != psSTARTING then s
  else
    let s := (s.flag (Reg.PSC_EVT.CLKERR k)).allOffBy k true
    let s := match c.dcTest with
      | .probing true | .running true => (s.setPscCh k { s.pscCh k with dcTest := .waiting true }).stopTimer (tmPscTest k)
      | .none => s
      | _ => (s.setPscCh k { s.pscCh k with dcTest := .none }).stopTimer (tmPscTest k)
    if s.psState k = psSTOPPING then
      (if c.stopFault then s.pscFaulted k (s.get (Reg.PSC_STAT.CAUSE k)) else s.setPsState k psOFF).error clsPSC_STAGE k
    else if c.dcTest = .none then (s.pscFaulted k pcCLOCK).error clsPSC_STAGE k
    else s.error clsPSC_STAGE k

/-- Step 2 of R64: every switching channel runs R220 with CAUSE CLOCK (R224). A DC load test that waits keeps its
cause (R243). -/
def State.pscFamilyPark (s : State) : State :=
  (List.range 8).foldl (fun s k =>
    let c := s.pscCh k
    if c.drive = .low && s.psState k != psSTARTING then s
    else match c.dcTest with
      | .none => s.pscFault k pcCLOCK
      | .probing true | .running true => ((s.allOff k).setPscCh k { (s.allOff k).pscCh k with dcTest := .waiting true }).stopTimer (tmPscTest k)
      | _ => ((s.allOff k).setPscCh k { (s.allOff k).pscCh k with dcTest := .none }).stopTimer (tmPscTest k)) s

/-- Reset of the PST domain or its switching off: gate outputs low, every channel OFF (R205). -/
def State.pscPowerOff (s : State) : State :=
  (List.range 8).foldl (fun s k =>
    if s.psState k = psLATCHED then (s.allOff k).setPscCh k {} else ((s.allOff k).setPscCh k {}).setPsState k psOFF) s

/-- PSC_UNLATCH (R225): leave LATCHED; start if the conditions hold. -/
def State.pscUnlatch (s : State) (k : Nat) : State :=
  if s.psState k = psLATCHED then
    let s := s.setPsState k psOFF
    if s.pscWants k then s.pscBegin k else s
  else s

/-- A restart is counted, and the channel goes on at `go` (R225); with no coefficients it does not start and CAUSE reads CFG (R212). -/
def State.pscRestart (s : State) (k : Nat) (go : State → State) : State :=
  if s.pscNoCoef k then s.set (Reg.PSC_STAT.CAUSE k) pcCFG
  else
    let rs := s.now :: recent s.now 10000 (s.pscCh k).restarts
    let s := s.setPscCh k { s.pscCh k with restarts := rs, rdyReleased := true, stopFault := false, x1 := 0, x2 := 0, x3 := 0, x4 := 0, m := 0 }
      |>.set (Reg.PSC_STAT.RETRIES k) rs.length |>.set (Reg.PSC_STAT.RDY k) 1
    go (s.setPsState k psSTARTING)

/-- RETRIES counts the restarts of the last 10 s (PSC_STAT). -/
def State.pscShowRetries (s : State) : State :=
  (List.range 8).foldl (fun s k => s.set (Reg.PSC_STAT.RETRIES k) (recent s.now 10000 (s.pscCh k).restarts).length) s

/-- FAULT_RESTART: the line has stayed high for 10 ms after a fault of cause RDY, PRECHG or FCIMB (R225). -/
def State.pscFaultRestart (s : State) (k : Nat) : State :=
  let cause := s.get (Reg.PSC_STAT.CAUSE k)
  if s.psState k = psFAULT && (cause = pcRDY || cause = pcPRECHG || cause = pcFCIMB) && s.pscWants k && s.due (tmPscFault k) 10 then
    (s.stopTimer (tmPscFault k)).pscRestart k fun s => s.pscPrecharge k
  else s

/-! ### The loop (R209, R211, R212) -/

/-- FREQ and the loop coefficients take hold at the start of the tick after their commit, and the carriers restart (R206, R209). -/
def State.pscTickStart (s : State) (k : Nat) : State :=
  s.setPscCh k { s.pscCh k with
    freq := s.get (Reg.PSC_CTL.FREQ k), pos := 0, clipTick := false
    lf := (List.range 14).map fun n => s.word (Reg.PSC_LF.COEF k (n / 7) (n % 7)).addr }

/-- The sample that the weir moved reaches the channel's interpolator (R211). -/
def State.pscTake (s : State) (k : Nat) (x : Word) : State :=
  let c := s.pscCh k
  s.setPscCh k { c with sample := x, mem := Config.upsample s.rate c.mem x.toInt }

/-- Coefficient `i` of the bank of the family in effect, in units of 2^-28. -/
def State.pscCoef (s : State) (k i : Nat) : Int := ((s.pscCh k).lf.getD (7 * s.pscBank + i) 0).toInt

/-- MAXMOD in units of 2^-31 (limits of its field table). -/
def State.pscMax (s : State) (k : Nat) : Int := (clampNat 512 1000 (s.get (Reg.PSC_MOD.MAXMOD k)) * 2097152 : Nat)

/-- An integrator's update, left out when it would move the limited m further into its limit (R212) or, while the channel limits, increase
|m| (R228). -/
def pscUpdate (limiting : Bool) (m limit x d : Int) : Int :=
  if limiting && decide (m.natAbs < (m + d).natAbs) then x
  else if (m = limit ∧ 0 < d) ∨ (m = -limit ∧ d < 0) then x
  else x + d

/-- The pilot runs: EN is in effect, in RUN or IDLE (R236). -/
def State.pilotOn (s : State) (k : Nat) : Bool := s.bit (Reg.PSC_PILOT.EN k) && (s.psState k == psRUN || s.psState k == psIDLE)

/-- sin(2π · num / den) in units of 2^-75. -/
def sineOf (num den : Nat) : Int :=
  let a := 4 * (num % den)
  let r := a % den
  match a / den with
  | 0 => quarterSine r den
  | 1 => quarterSine (den - r) den
  | 2 => -quarterSine r den
  | _ => -quarterSine (den - r) den

/-- Loop samples per second (R210). -/
def State.loopHz (s : State) : Nat := if s.get Reg.CLK_STAT.FAMILY = 0 then 3072000 else 2822400

/-- The pilot at the present loop sample, in units of 2^-31 (R236): paused while the channel limits. -/
def State.pilotSample (s : State) (k : Nat) : Int :=
  let c := s.pscCh k
  if s.psState k = psLIMITING then 0
  else roundDiv (32768 * (Config.dbGain (-1000 * (c.pilotLevel : Int)) : Nat) * sineOf (c.pilotFreq * c.pilotAt) (10 * s.loopHz) * c.pilotGain.value s.now)
    (2 ^ 91)

/-- The loop input r in units of 2^-31 (R211, R222, R236, R240): the interpolated sample, with the input gain, the mute of a rate or family change and
the protection gain, and the pilot added after them. -/
def State.pscInput (s : State) (k : Nat) : Int :=
  let c := s.pscCh k
  let gt : Nat := if c.gt = 0 then 65536 else Config.dbGain (-((c.gt / 4 : Nat) : Int))
  roundDiv (Config.upsampled s.rate c.mem (c.pos / 1024) * (c.gain.value s.now * s.clk.mute.value s.now * gt * c.gx : Nat)) (2 ^ 64) + s.pilotSample k

/-- One loop sample (R212) with the VSNS and ISNS samples `v` and `i`, units of 2^-31 of full scale. -/
def State.pscLoop (s : State) (k : Nat) (v i : Word) : State :=
  let c := s.pscCh k
  let limit := s.pscMax k
  let up := pscUpdate (s.psState k == psLIMITING) c.m limit
  let sc : Int := 268435456
  let e := s.pscInput k - v.toInt
  let x1 := up c.x1 (roundDiv (s.pscCoef k 1 * e) sc)
  let x2 := up c.x2 (roundDiv (s.pscCoef k 2 * x1) sc)
  let x3 := up c.x3 (roundDiv (s.pscCoef k 3 * x2 - s.pscCoef k 5 * c.x4) sc)
  let x4 := up c.x4 (roundDiv (s.pscCoef k 4 * x3) sc)
  let raw := roundDiv (s.pscCoef k 0 * e) sc + x1 + x2 + x3 + x4 - roundDiv (s.pscCoef k 6 * i.toInt) sc
  let m := clampInt (-limit) limit raw
  let hit := m == limit || m == -limit
  let s := s.setPscCh k { c with x1 := x1, x2 := x2, x3 := x3, x4 := x4, m := m, clipTick := c.clipTick || hit,
                                 pilotVoid := c.pilotVoid || hit }
  s.flagIf (hit && !c.clipTick) (Reg.PSC_EVT.CLIP k)

/-- The loop runs: the channel switches and m is no longer held at 0 (R222 steps 4 and 5). -/
def State.pscLoopRuns (s : State) (k : Nat) : Bool := (s.pscCh k).switches && (s.pscCh k).step != .cmRamp

/-! ### Flying capacitors (R213 to R219) -/

/-- What the ISNS current does to capacitor `which` of a half-bridge in the next loop sample (R216): it flows into it while the outer cell's H is
on and the inner one's is not, and out of it the other way; the charge over PSC_FCCAP, as a part of PVDD in units of 2^-32. -/
def State.fcCharge (s : State) (k : Nat) (half : Bool) (which cap : Nat) : Int :=
  let c := s.pscCh k
  let on := fun n => if c.drive = .freewheel then 0 else onSteps (s.hRuns k half n) (c.pos % 16384 : Nat) 1024
  let steps := on (which + 1) - on which
  roundDiv ((if half then -c.isns else c.isns) * steps * 300000000000000)
    (max 1 (s.get (Reg.PSC_SCALE.RSHUNT k)) * cap * s.get (Reg.PSC_PVDD.MV10 k) * s.edgeHz : Nat)

/-- FCEST shows the estimates of half-bridge P, in units of 2^-16 (R216). -/
def State.showFc (s : State) (k : Nat) : State :=
  let put := fun (s : State) (f : Fld) (e : Option Int) => match e with
    | some v => s.set f (clampInt 0 65535 (roundDiv v 65536)).toNat
    | none => s
  put (put s (Reg.PSC_FCEST.FC1 k) ((s.pscCh k).est.getD 0 none)) (Reg.PSC_FCEST.FC2 k) ((s.pscCh k).est.getD 1 none)

/-- The prediction of a loop sample (R216). With no capacitance or no PVDD to reckon with, the estimate is a free value. -/
def State.fcPredict (s : State) (k : Nat) : State :=
  let c := s.pscCh k
  let one := fun (i : Nat) => match c.est.getD i none with
    | none => none
    | some e =>
      let cap := s.get (if i % 2 = 0 then Reg.PSC_FCCAP.C1 k else Reg.PSC_FCCAP.C2 k)
      if cap = 0 ∨ s.get (Reg.PSC_PVDD.MV10 k) = 0 then some ((Config.free (s.free + i)).toNat : Int)
      else some (e + s.fcCharge k (decide (2 ≤ i)) (i % 2 + 1) cap)
  ({ s.setPscCh k { c with est := (List.range 4).map one } with free := s.free + 4 }).showFc k

/-- The estimate after a sample `v` (units of 2^-16 of PVDD): within 0.5 % of PVDD of it (R216), otherwise free. -/
def fcEstimate (v : Int) (free : Word) : Int := 65536 * (v + (free.toNat % 655 : Nat) - 327)

/-- A code that has come from the gauge corrects an estimate (R213 to R216): which of the half-bridge's two, and its ratio to PVDD in units of 2^-16,
free where the code of PVDD is 0. -/
def FcCode.sample (x : FcCode) (pvdd : Nat) (free : Word) : Nat × Int :=
  let v : Int := if pvdd = 0 then (free.toNat % 65536 : Nat) else roundDiv (x.code * 65536 : Nat) pvdd
  match x.node with
  | .v1 => (1, v)
  | .notV2 => (2, 65536 - v)
  | .v2 => (2, v)
  | .notV1 => (1, 65536 - v)

/-- The sizes of the trims (R218): free, small enough for each cell's trim to stay within TRIM_MAX. -/
def State.trimSizes (s : State) (k : Nat) : List Nat :=
  let bound := s.get (Reg.PSC_FCBAL.TRIM_MAX k) * 2 ^ 32 / (if s.pscCells k = 3 then 3000 else 1000)
  (List.range 4).map fun i => (Config.free (s.free + 8 + i)).toNat % (bound + 1)

/-- FC_ESTIMATE of half-bridge N or P (R216, R218, R219): the codes that have arrived correct its estimates; none is a missed opportunity, and the
prediction stands. -/
def State.fcEstimateStep (s : State) (k : Nat) (half : Bool) : State :=
  let c := s.pscCh k
  if c.drive = .low then s
  else
    let mine := c.codes.filter fun x => x.half == half
    let est := mine.foldl (fun (l : List (Option Int) × Nat) x =>
      let v := x.sample c.pvdd (Config.free (s.free + l.2))
      (l.1.set (2 * b2n half + v.1 - 1) (some (fcEstimate v.2 (Config.free (s.free + 4 + l.2)))), l.2 + 1)) (c.est, 0)
    let n := if mine.isEmpty then c.fcMissed + 1 else 0
    let s := s.setPscCh k { c with codes := c.codes.filter (fun x => x.half != half), est := est.1, fcMissed := n, trims := s.trimSizes k }
    let s := ({ s with free := s.free + 12 }).showFc k
    let s := if mine.isEmpty then s.flagIf (decide (64 ≤ n)) (Reg.PSC_STAT.FC_STALE k) else s.set (Reg.PSC_STAT.FC_STALE k) 0
    if !c.switches then s
    else
      let lv := s.get (Reg.PSC_STAT.LEVELS k)
      let at_ := fun which => est.1.getD (2 * b2n half + which - 1) none
      let s := s.flagIf (fcOff lv 1 (at_ 1) 4 100 || fcOff lv 2 (at_ 2) 4 100) (Reg.PSC_EVT.FCWARN k)
      let trip := fun which => match fcTarget lv which, at_ which with
        | some t, some e => decide (s.get (Reg.PSC_FCBAL.TRIP k) * 2 ^ 32 * t.2 < 1000 * fcDist e t)
        | _, _ => false
      let bad := trip 1 || trip 2
      let run := if bad then (if half then c.fcBadN else c.fcBad) + 1 else 0
      let s := s.setPscCh k (if half then { s.pscCh k with fcBadN := run } else { s.pscCh k with fcBad := run })
      if 16 ≤ run then
        ((s.setPscCh k { s.pscCh k with fcBad := 0, fcBadN := 0 }).flag (Reg.PSC_EVT.FCIMB k)).pscStageFault k pcFCIMB
      else s

/-- A sampling opportunity of half-bridge N or P passes without a sample (R215, R216, R327). -/
def State.fcMiss (s : State) (k : Nat) : State :=
  let c := s.pscCh k
  let n := c.fcMissed + 1
  (s.setPscCh k { c with fcMissed := n }).flagIf (decide (64 ≤ n)) (Reg.PSC_STAT.FC_STALE k)

/-- The node that a sample of half-bridge N or P takes, its first or second state (R215; in 3-level cell 1 alone, R213; the probes of R222, one
cell alone), none where the topology has none. -/
def State.fcNode (s : State) (k : Nat) (half second : Bool) : Option FcNode :=
  match s.pscCells k with
  | 3 => if (s.pscCh k).drive = .probe || decide (s.pscDuty k half ≤ 2 ^ 31) then some (if second then .notV2 else .v1)
    else some (if second then .notV1 else .v2)
  | 2 => if second then none else some .v1
  | _ => none

/-- The state that a sample takes lasts at least SETTLE PWR cycles and `ns` more (R215, R327); a probe sets its own. -/
def State.fcLasts (s : State) (k : Nat) (half : Bool) (ns : Nat) : Bool :=
  let c := s.pscCh k
  let d := s.pscDuty k half
  let l := ((carriers c.freq).getD 0 (0, 0)).2
  let span : Int := if s.pscCells k = 3 then if d ≤ 2 ^ 31 then min (3 * d) (2 ^ 33 - 3 * d) else min (3 * d - 2 ^ 32) (3 * 2 ^ 32 - 3 * d)
    else 3 * min d (2 ^ 32 - d)
  c.drive == .probe || decide ((3 * 2 ^ 32 * (2 * s.get (Reg.PSC_FCBAL.SETTLE k) * 1000000000 + ns * s.edgeHz) : Nat) ≤ span * l * 1000000000)

/-- The loop sample's place in the carriers (R206, R207, R228): cells whose carrier starts or is at its centre take a new duty, and a carrier start
or centre of cell 1 of half-bridge P ends a freewheel. -/
def State.pscAdvance (s : State) (k : Nat) : State :=
  let c := s.pscCh k
  let here := fun (p : Nat) => decide ((p + 16384 - c.pos % 16384) % 16384 < 1024)
  let cs := carriers c.freq
  let turn := fun (half : Bool) (n : Nat) => cs.any fun p =>
    let o := p.1 + cellOffset (s.pscCells k) half n p.2
    here o || here (o + p.2 / 2)
  let duty := (List.range 6).map fun i =>
    let half := decide (3 ≤ i)
    if turn half (i % 3 + 1) then s.pscDuty k half + s.pscTrim k half (i % 3 + 1) else c.duty.getD i 0
  let drive := if c.drive = .freewheel && c.step != .stopLow && turn false 1 then .switching else c.drive
  let s := s.setPscCh k { c with duty := duty, drive := drive, carriers := c.carriers + (cs.filter fun p => here p.1).length }
  let s := s.fcPredict k
  let c := s.pscCh k
  s.setPscCh k { c with pos := c.pos + 1024, pilotAt := c.pilotAt + 1 }

/-! ### Commands -/

/-- CHANNEL_STOP (R223). -/
def execChannelStop (k : Fin 8) (s : State) : Host.Outcome State Fault Refusal := .next (s.pscStop k)

/-- The ready line is awaited by a start or a load test (R222, R233). -/
def State.pscAwaitsLine (s : State) (k : Nat) : Bool :=
  (s.psState k == psSTARTING && (s.pscCh k).step == .waitReady) ||
    (match (s.pscCh k).dcTest with | .line _ => true | _ => false)

/-- The probes of a start or a load test run. -/
def State.pscProbes (s : State) (k : Nat) : Bool :=
  (s.psState k == psSTARTING && (s.pscCh k).step == .precharge) ||
    (match (s.pscCh k).dcTest with | .probing _ => true | _ => false)

/-- A start or a load test that its stage does not let go on ends as a stage fault (R222, R233). -/
def State.pscGiveUp (s : State) (k cause : Nat) : State := (s.setPscCh k { s.pscCh k with dcTest := .none }).pscStageFault k cause

/-- RDY_TIMEOUT (R222 step 2). -/
def execRdyTimeout (k : Fin 8) (s : State) : Host.Outcome State Fault Refusal :=
  .next (if s.pscAwaitsLine k && s.due (tmPscReady k) (s.get (Reg.PSC_RDYCFG.TO k)) then s.pscGiveUp k pcRDY else s)

/-- PRECHG_TIMEOUT (R222 step 3): TO in units of 10 ms, 0 acting as 1. -/
def execPrechgTimeout (k : Fin 8) (s : State) : Host.Outcome State Fault Refusal :=
  .next (if s.pscProbes k && s.due (tmPscPrecharge k) (10 * max 1 (s.get (Reg.PSC_PRECHG.TO k))) then s.pscGiveUp k pcPRECHG else s)

/-- FAULT_RESTART (R225). -/
def execFaultRestart (k : Fin 8) (s : State) : Host.Outcome State Fault Refusal := .next (s.pscFaultRestart k)

/-- FC_ESTIMATE (R216). -/
def execFcEstimate (k : Fin 8) (half : Bool) (s : State) : Host.Outcome State Fault Refusal := .next (s.fcEstimateStep k half)

end Sys2Proof.Machine
end

