-- ==== Sys2Proof/Machine/Prot.lean ====
section
/-! DEFINITION. Protection at the power stages (12_loads_and_protection.md, R227 to R243): pulse-by-pulse limiting, the
DC load test, the pilot tone, the thermal and excursion models, and the cabinet EEPROM. -/

namespace Sys2Proof.Machine

/-! ### Limiting (R227 to R232) -/

/-- PSC_ILIM.CNT as it acts: 1 to 8 (its field table). -/
def State.ilimCnt (s : State) (k : Nat) : Nat := clampNat 1 8 (s.get (Reg.PSC_ILIM.CNT k))

/-- The all-off of R230 with cause SHORT or OCP, and what follows it (R231, R232): a stopping channel ends in OFF
(R243); the fourth restart within 10 s latches; otherwise the DC load test waits. -/
def State.pscTripOff (s : State) (k : Nat) : State :=
  let c := s.pscCh k
  let cause := if c.shortSoFar then pcSHORT else pcOCP
  let s := s.flag (if c.shortSoFar then Reg.PSC_PROT_EVT.SHORT k else Reg.PSC_PROT_EVT.OCP k)
  if c.beforeTrip = psSTOPPING then
    (((s.allOff k).setPsState k psOFF).set (Reg.PSC_STAT.CAUSE k) cause |>.flag (Reg.PSC_EVT.FAULT k)
      |>.flag (Reg.PSC_EVT.STOPPED k)).error clsPSC_TRIP k
  else
    let s := (s.pscFault k cause).error clsPSC_TRIP k
    if s.pscSpent k then s.pscLatch k
    else s.setPscCh k { s.pscCh k with dcTest := .waiting true }

/-- The DC load test is abandoned (R243): RESULT ABORT, all-off; a test after a trip latches with its cause kept, a
test of the host returns to OFF (R235). -/
def State.dcAbort (s : State) (k : Nat) (restart : Bool) : State :=
  let s := (s.allOff k).set (Reg.PSC_DCRES.RESULT k) 4 |>.flag (Reg.PSC_PROT_EVT.DCDONE k) |>.stopTimer (tmPscTest k)
  let s := s.setPscCh k { s.pscCh k with dcTest := .none }
  if restart then s.pscLatch k else s.setPsState k psOFF

/-- LIM in µV (its field table), and what of VSNS, in units of 2^-31, counts as a short (R230). -/
def State.ilimUv (s : State) (k : Nat) : Nat := 1000 * clampNat 20 145 (s.get (Reg.PSC_ILIM.LIM k))
def State.belowShort (s : State) (k : Nat) (v : Word) : Bool :=
  decide (100 * v.toInt.natAbs < clampNat 1 50 (s.get (Reg.PSC_ILIM.SHORTV k)) * 2147483648)

/-- A frozen ramp goes on toward its goal at its own slope. -/
def Ramp.resume (r : Ramp) (now full dur : Nat) : Ramp :=
  if r.dur = 0 ∧ r.start ≠ r.goal then
    ⟨r.start, r.goal, now, dur * (if r.start ≤ r.goal then r.goal - r.start else r.start - r.goal) / full⟩
  else r

/-- STATE returns to the one before the trip; what QUIET asks for takes hold (R229). -/
def State.limitingOver (s : State) (k : Nat) : State :=
  let c := s.pscCh k
  ((s.setPscCh k { c with tripped := 0, shortSoFar := true,
                          cm := c.cm.resume s.now cmHalf (s.rampCm k), gain := c.gain.resume s.now gainOne (s.rampDiff k) }).setPsState k c.beforeTrip).pscQuiet k

/-- LIMITING_END: one full carrier without a trip (R229). -/
def State.limitingEnd (s : State) (k : Nat) : State :=
  if s.psState k = psLIMITING && decide ((s.pscCh k).tripCarrier + 2 ≤ (s.pscCh k).carriers) then s.limitingOver k else s

/-- A trip of the comparators on a switching channel (R228 to R230): freewheel, or all-off with the last of CNT tripped carriers. -/
def State.tripped (s : State) (k : Nat) (v : Word) : State :=
  let s := if decide ((s.pscCh k).tripCarrier + 2 ≤ (s.pscCh k).carriers) then s.limitingEnd k else s
  let c := s.pscCh k
  let lim := s.psState k == psLIMITING
  let c := { c with drive := .freewheel, beforeTrip := if lim then c.beforeTrip else s.psState k, pilotVoid := true, tripCarrier := c.carriers
                    tripped := if lim then c.tripped + b2n (c.tripCarrier != c.carriers) else 1
                    shortSoFar := (c.shortSoFar || !lim) && s.belowShort k v
                    cm := if lim then c.cm else ⟨c.cm.value s.now, c.cm.goal, 0, 0⟩
                    gain := if lim then c.gain else ⟨c.gain.value s.now, c.gain.goal, 0, 0⟩ }
  let s := (s.setPscCh k c).setPsState k psLIMITING |>.flag (Reg.PSC_PROT_EVT.ILIM k)
  if s.ilimCnt k ≤ c.tripped then s.pscTripOff k else s

/-- ILIM_TRIP (R227 to R231): |ISNS| reaches `uv` µV, with VSNS at `v`; below LIM no comparator trips. -/
def State.ilimTrip (s : State) (k uv : Nat) (v : Word) : State :=
  if uv < s.ilimUv k then s
  else match (s.pscCh k).dcTest with
  | .running restart => s.dcAbort k restart
  | .probing restart => s.dcAbort k restart
  | _ => if (s.pscCh k).switches then s.tripped k v else s

/-- PSC_RDY_LOW: a low line that lasts longer than FILT while the device releases it (R225); while the channel limits
it is recorded as the protection cause (R243). -/
def State.rdyLow (s : State) (k : Nat) : State :=
  let c := s.pscCh k
  let st := s.psState k
  if !c.rdyReleased then s
  else if st = psLIMITING then (s.set (Reg.PSC_STAT.RDY k) 0).pscTripOff k
  else if (st = psSTARTING && c.step != .waitReady) || st = psRUN || st = psIDLE || st = psSTOPPING then
    s.pscStageFault k pcRDY
  else s.set (Reg.PSC_STAT.RDY k) 0

/-! ### DC load test (R233 to R235) -/

/-- The load current is below 1 % of ITEST: `ua` µA through RSHUNT (0.01 mΩ, 0 acting as 1) against ITEST mV. -/
def State.dcOpenCurrent (s : State) (k ua : Nat) : Bool :=
  decide (ua * max 1 (s.get (Reg.PSC_SCALE.RSHUNT k)) < 1000000 * clampNat 1 50 (s.get (Reg.PSC_DCTEST.ITEST k)))

/-- RESULT and the measured resistance in mΩ of R234 from V in mV and I in µA. -/
def State.dcClassify (s : State) (k mv ua : Nat) : Nat × Nat :=
  if ua = 0 || s.dcOpenCurrent k ua then (3, 0xFFFFFF)
  else
    let r := (roundDiv (mv * 1000000 : Nat) (ua : Nat)).toNat
    if r < 100 * s.get (Reg.PSC_DCTEST.RMIN k) then (2, min r 0xFFFFFE)
    else if 1000 * s.get (Reg.PSC_DCTEST.RMAX k) < r then (3, min r 0xFFFFFF)
    else (1, min r 0xFFFFFE)

/-- The end of a test with its result (R231 step 7, R232, R234, R235). -/
def State.dcFinish (s : State) (k : Nat) (restart : Bool) (res : Nat × Nat) : State :=
  let s := (s.allOff k).set (Reg.PSC_DCRES.RESULT k) res.1 |>.set (Reg.PSC_DCRES.R k) res.2
    |>.flag (Reg.PSC_PROT_EVT.DCDONE k) |>.stopTimer (tmPscTest k)
    |>.flagIf (res.1 == 3) (Reg.PSC_PROT_EVT.OPEN k)
  let s := s.setPscCh k { s.pscCh k with dcTest := .none }
  if !restart then s.setPsState k psOFF
  else if res.1 = 1 then if s.pscWants k then s.pscRestart k fun s => s.pscSwitchOn k else s.setPsState k psOFF
  else (s.set (Reg.PSC_STAT.CAUSE k) (if res.1 = 2 then pcSHORT else pcOPEN)).pscLatch k

/-- The test starts: the line is released (R233 step 1). -/
def State.dcBegin (s : State) (k : Nat) (restart : Bool) : State :=
  (s.setPscCh k { s.pscCh k with dcTest := .line restart, rdyReleased := true, m := 0 }).startTimer (tmPscReady k)

/-- The capacitors are in window: half-bridge P raises the load voltage to VT over 10 ms (R233 steps 2 and 3). -/
def State.dcRaise (s : State) (k : Nat) (restart : Bool) : State :=
  let v := 100 * clampNat 1 50 (s.get (Reg.PSC_DCTEST.VT k))
  ((s.setPscCh k { s.pscCh k with dcTest := .running restart, drive := .dcTest, testV := ⟨0, v, s.now, 10⟩ }).startTimer (tmPscTest k)).stopTimer
    (tmPscPrecharge k)

/-- |ISNS| reaches ITEST while the test voltage rises: the rise stops (R233 step 3). -/
def State.dcRise (s : State) (k : Nat) (i : Word) : State :=
  let c := s.pscCh k
  if c.testV.done s.now || decide (150 * i.toInt.natAbs < clampNat 1 50 (s.get (Reg.PSC_DCTEST.ITEST k)) * 2147483648) then s
  else s.setPscCh k { c with testV := ⟨c.testV.value s.now, c.testV.value s.now, s.now, 0⟩ }

/-- 30 ms after its start the test lowers the voltage to 0 over 10 ms (R233 step 5). -/
def State.dcLower (s : State) (k : Nat) : State :=
  let c := s.pscCh k
  if c.drive = .dcTest && s.due (tmPscTest k) 30 && c.testV.goal != 0 then s.setPscCh k { c with testV := c.testV.next s.now 0 10 } else s

/-- DC_LOAD_TEST: the step that is due. A waiting test starts 50 ms after the fault once PLL-P serves and a gauge converter does; it brings the
capacitors into window by steps 2 and 3 of R222, and ends 40 ms later with the averages of `seen` (mV) and `ua` (µA) (R231, R233). With no converter
in service the test is abandoned and waits (R243). -/
def State.dcLoadTest (s : State) (k : Nat) (seen : StageSeen) (ua : Nat) : State :=
  let c := s.pscCh k
  let at_ := fun (s : State) (x : DcTest) => s.setPscCh k { s.pscCh k with dcTest := x }
  let lost := fun (restart : Bool) => (at_ (s.allOff k) (.waiting restart)).set (Reg.PSC_DCRES.RESULT k) 4
  match c.dcTest with
  | .none => s
  | .waiting restart =>
    if s.pscClocked && s.gaugeInService && (!restart || s.due (tmPscFault k) 50) then s.dcBegin k restart else s
  | .line restart =>
    if seen.line then (at_ (s.set (Reg.PSC_STAT.RDY k) 1) (.settle restart)).startTimer (tmPscReady k) else s
  | .settle restart =>
    if s.due (tmPscReady k) 1 then
      let s := s.stopTimer (tmPscReady k)
      if s.get (Reg.PSC_STAT.LEVELS k) = 1 then s.dcRaise k restart else at_ (s.pscProbe k) (.probing restart)
    else s
  | .probing restart => if !s.gaugeInService then lost restart else if s.pscInWindow k then s.dcRaise k restart else s
  | .running restart =>
    if !s.gaugeInService then lost restart
    else if s.due (tmPscTest k) 40 then s.dcFinish k restart (s.dcClassify k seen.mv ua)
    else s.dcLower k

/-- PSC_DCTEST_RUN: the host's test, on a channel in OFF whose start conditions hold apart from EN (R235). -/
def State.dcTestRun (s : State) (k : Nat) : State :=
  if s.psState k = psOFF && s.pscReadyToRun k && (s.pscCh k).dcTest = .none then
    (s.set (Reg.PSC_STAT.LEVELS k) (s.pscLevelsCfg k)).dcBegin k false
  else s

/-! ### Pilot (R236, R237) -/

/-- FREQ and LEVEL as they act (their field table). -/
def State.pilotFreqCfg (s : State) (k : Nat) : Nat := clampNat 50 400000 (s.get (Reg.PSC_PILOT.FREQ k))
def State.pilotLevelCfg (s : State) (k : Nat) : Nat := clampNat 20 66 (s.get (Reg.PSC_PILOT.LEVEL k))

/-- The temperature coefficient in units of 10^-5 per K (R238). -/
def State.pscAlpha (s : State) (k : Nat) : Int := if s.bit (Reg.PSC_CAB.MAT k) then 403 else 393

/-- T_vc as PSC_MODEL.TVC shows it, in °C. -/
def State.showTvc (s : State) (k : Nat) : State :=
  s.setInt (Reg.PSC_MODEL.TVC k) (clampInt (-128) 255 (roundDiv (s.pscTvc k) 1000000000))

/-- A pilot window begins, with FREQ and LEVEL in effect (R236). -/
def State.pilotBegin (s : State) (k : Nat) : State :=
  (s.setPscCh k { s.pscCh k with pilotVoid := false, pilotFreq := s.pilotFreqCfg k, pilotLevel := s.pilotLevelCfg k }).startTimer (tmPscPilot k)

/-- The pilot comes on and goes off with its conditions, over 10 ms (R236). -/
def State.pilotMs (s : State) (k : Nat) : State :=
  let c := s.pscCh k
  if s.pilotOn k && c.pilotGain.goal = 0 then
    (s.setPscCh k { c with pilotGain := c.pilotGain.next s.now 65536 10, pilotAt := 0 }).pilotBegin k
  else if !s.pilotOn k && s.psState k != psLIMITING && c.pilotGain.goal != 0 then
    (s.setPscCh k { c with pilotGain := c.pilotGain.next s.now 0 10 }).stopTimer (tmPscPilot k)
  else s

/-- PILOT_WINDOW_END (R236, R238 step 3) with the demodulated ratio: magnitude in mΩ, phase in 0.01°, real part
in mΩ. -/
def State.pilotEnd (s : State) (k mag : Nat) (phase : BitVec 16) (re : Nat) : State :=
  let c := s.pscCh k
  if s.due (tmPscPilot k) ((s.get (Reg.PSC_PILOT.INT k) + 1) * 100) && (s.pilotOn k || s.psState k == psLIMITING) then
    if c.pilotVoid || s.psState k = psLIMITING then s.pilotBegin k
    else
      let s := s.set (Reg.PSC_Z.MAG k) (min mag 65535) |>.set (Reg.PSC_Z.PHASE k) phase.toNat |>.flag (Reg.PSC_PROT_EVT.PILOT k)
      let re0 := s.get (Reg.PSC_CAB.RE0 k)
      let s := if c.pilotFreq ≤ 200 && re0 != 0 then
          let rise := roundDiv (((re : Int) - re0) * 100000000000000) (s.pscAlpha k * re0)
          (s.setPscCh k { c with dTmag := rise - c.dTvc }).showTvc k
        else s
      s.pilotBegin k
  else s

/-! ### Temperature and excursion (R238 to R240) -/

/-- The thermal gain after one millisecond (R240): falls 1 dB/s to −24 dB, rises 0.25 dB/s to 0 dB, else stays; in
units of 0.00025 dB of reduction. -/
def thermalGain (gt : Nat) (hot cool : Bool) : Nat := if hot then min 96000 (gt + 4) else if cool then gt - 1 else gt

/-- T_vc exceeds a limit given in °C, with the model on. -/
def State.tvcOver (s : State) (k : Nat) (c : Int) : Bool := s.pscModelOn k && decide (1000000000 * c < s.pscTvc k)

/-- The reductions of the protection gain as PSC_MODEL shows them; the excursion part in dB is free unless it is 0. -/
def State.showGain (s : State) (k : Nat) : State :=
  let c := s.pscCh k
  s.set (Reg.PSC_MODEL.GR_T k) (roundDiv c.gt 2000).toNat
    |>.set (Reg.PSC_MODEL.GR_X k) (if gainOne ≤ c.gx then 0 else Config.gainReduction c.gx)

/-- The stop of R240 for COILTEMP or STAGETEMP. -/
def State.thermalStop (s : State) (k : Nat) : State :=
  let st := s.psState k
  let live := st = psSTARTING || st = psRUN || st = psIDLE || st = psLIMITING
  if live && s.tvcOver k (s.get (Reg.PSC_CAB.TMAX k)) then s.pscStopBegin k pcCOILTEMP
  else if live && s.ntcAtOrBelow k (s.get (Reg.PSC_NTC.MAX k)) then
    (s.flag (Reg.PSC_PROT_EVT.HOT k)).pscStopBegin k pcSTAGETEMP
  else s

/-- The largest |x| of the recent list (R239). -/
def peakOf (ps : List (Nat × Nat)) : Nat := ps.foldl (fun a p => max a p.2) 0

/-- The largest |x| as PSC_XPK shows it, in 0.01 mm, and beyond XMAX (R239, R240). -/
def State.showPeak (s : State) (k : Nat) : State := s.set (Reg.PSC_XPK.XPK k) (clampInt 0 65535 (roundDiv (peakOf (s.pscCh k).peaks : Nat) 10000)).toNat
def State.excBeyond (s : State) (k : Nat) : Bool := s.bit (Reg.PSC_CAB.XGAIN k) && decide (10000 * s.get (Reg.PSC_CAB.XMAX k) < (s.pscCh k).exc.natAbs)

/-- The time constants of coil and magnet in ms (R238: PSC_CAB1 in 0.1 s, PSC_CAB2 in s). -/
def State.coilTau (s : State) (k : Nat) : Nat := 100 * s.get (Reg.PSC_CAB.TAU k 1)
def State.magnetTau (s : State) (k : Nat) : Nat := 1000 * s.get (Reg.PSC_CAB.TAU k 2)

/-- COIL_TEMP_UPDATE (R238, R240): one millisecond of the models with the RMS current in mA. -/
def State.coilUpdate (s : State) (k irms : Nat) : State :=
  let c := s.pscCh k
  let c1 := if s.pscModelOn k then
      let p := (irms * irms * s.get (Reg.PSC_CAB.RE0 k) : Nat) * (100000000000000 + s.pscAlpha k * (c.dTvc + c.dTmag))
      let goal (n : Nat) := roundDiv (p * s.get (Reg.PSC_CAB.RTH k n)) 10000000000000000
      { c with dTvc := lagged c.dTvc (goal 1) (s.coilTau k), dTmag := lagged c.dTmag (goal 2) (s.magnetTau k) }
    else c
  let s := s.setPscCh k c1
  let lim := s.get (Reg.PSC_CAB.TLIM k)
  let ntcHot := s.ntcAtOrBelow k (s.get (Reg.PSC_NTC.LIM k))
  let hot := s.tvcOver k lim || ntcHot
  let cool := !ntcHot && (!s.pscModelOn k || decide (s.pscTvc k < 1000000000 * ((lim : Int) - 5)))
  let gx := if s.excBeyond k then c1.gx else (lagged c1.gx gainOne (s.get (Reg.PSC_CAB.XREL k))).toNat
  let s := s.setPscCh k { c1 with gt := thermalGain c1.gt hot cool, gx := gx,
                                  peaks := c1.peaks.filter fun p => decide (s.now < p.1 + 100) }
  let s := if s.bit (Reg.PSC_CAB.XGAIN k) then s.showPeak k else s
  let s := (s.flagIf hot (Reg.PSC_PROT_EVT.TLIM k)).showGain k
  let s := if s.pscModelOn k then s.showTvc k else s
  s.thermalStop k

/-- The excursion model at a loop sample (R239, R240): XGAIN × v_load through its filter; a load voltage that ALPHA does not scale is free. Beyond
XMAX the excursion gain falls to XMAX / |x|. -/
def State.excursion (s : State) (k : Nat) (v : Word) : State :=
  if s.bit (Reg.PSC_CAB.XGAIN k) then
    let c := s.pscCh k
    let alpha := s.get (Reg.PSC_SCALE.ALPHA k)
    let u : Int := if alpha = 0 then s.fresh.toInt else roundDiv (1000 * s.get (Reg.PSC_CAB.XGAIN k) * v.toInt) (32768 * alpha : Nat)
    let x := Config.excursionFilter (s.get Reg.CLK_STAT.FAMILY) (s.get (Reg.PSC_CAB.FS k)) (s.get (Reg.PSC_CAB.QTS k)) u c.exc c.excPrev
    let peaks := match c.peaks with
      | p :: ps => if p.1 = s.now then (s.now, max p.2 x.natAbs) :: ps else (s.now, x.natAbs) :: c.peaks
      | [] => [(s.now, x.natAbs)]
    let s := ((s.setPscCh k { c with excPrev := c.exc, exc := x, peaks := peaks }).showPeak k).drawn
    let beyond := s.excBeyond k
    let gx := if beyond then min c.gx (roundDiv (10000 * s.get (Reg.PSC_CAB.XMAX k) * 65536 : Nat) x.natAbs).toNat else c.gx
    ((s.setPscCh k { s.pscCh k with gx := gx }).flagIf beyond (Reg.PSC_PROT_EVT.XLIM k)).showGain k
  else s

/-- LOOP_SAMPLE (R207, R212, R216, R239): the VSNS and ISNS samples in units of 2^-31 of full scale. -/
def State.loopSample (s : State) (k : Nat) (v i : Word) : State :=
  let c := s.pscCh k
  if !c.switches && c.drive != .dcTest then s
  else
    let s := s.setPscCh k { c with isns := i.toInt, shortSoFar := c.shortSoFar && (s.psState k != psLIMITING || s.belowShort k v) }
    let s := if c.drive = .dcTest then s.dcRise k i else s
    let s := if s.pscLoopRuns k then (s.pscLoop k v i).excursion k v else s
    s.pscAdvance k

/-- What one millisecond does at the power stages: QUIET, the pilots, the load tests, and RETRIES. -/
def State.pscMs (s : State) : State :=
  ((List.range 8).foldl (fun (s : State) k => ((s.pscQuiet k).pilotMs k).dcLower k) s).pscShowRetries

/-! ### Cabinet EEPROM (R241) -/

/-- A cabinet record is valid: magic "CAB1", version 1, 1 to 8 channels, and the CRC-32 of every byte before it. -/
def cabValid (bs : List Byte) : Bool :=
  let n := byteAt bs 5
  let len := 8 + 24 * n
  bs.take 4 == [0x43, 0x41, 0x42, 0x31] && byteAt bs 4 == 1 && decide (1 ≤ n ∧ n ≤ 8) &&
    decide (len + 4 ≤ bs.length) && crc32 (bs.take len) == leAt bs len 4

/-- A valid record overrides PSC_CAB0 to PSC_CAB5 of the channels it covers; otherwise CABERR is set in every
channel. -/
def State.cabRead (s : State) (rec : Option (List Byte)) : State :=
  match rec with
  | some bs =>
    if cabValid bs then
      (List.range (byteAt bs 5)).foldl (fun s k =>
        (List.range 6).foldl (fun s n => s.setNat (Reg.PSC_CAB.word k n) (leAt bs (8 + 24 * k + 4 * n) 4)) s) s
    else (List.range 8).foldl (fun s k => s.flag (Reg.PSC_PROT_EVT.CABERR k)) s
  | none => (List.range 8).foldl (fun s k => s.flag (Reg.PSC_PROT_EVT.CABERR k)) s

/-! ### Commands -/

/-- PSC_RDY_LOW (R225). -/
def execPscRdyLow (k : Fin 8) (s : State) : Host.Outcome State Fault Refusal := .next (s.rdyLow k)

/-- LOOP_SAMPLE (R212). -/
def execLoopSample (k : Fin 8) (v i : Word) (s : State) : Host.Outcome State Fault Refusal := .next (s.loopSample k v i)

/-- ILIM_TRIP (R228). -/
def execIlimTrip (k : Fin 8) (uv : Nat) (v : Word) (s : State) : Host.Outcome State Fault Refusal := .next (s.ilimTrip k uv v)

/-- LIMITING_END (R229). -/
def execLimitingEnd (k : Fin 8) (s : State) : Host.Outcome State Fault Refusal := .next (s.limitingEnd k)

/-- DC_LOAD_TEST (R233). -/
def execDcLoadTest (k : Fin 8) (seen : StageSeen) (ua : Nat) (s : State) : Host.Outcome State Fault Refusal := .next (s.dcLoadTest k seen ua)

/-- PILOT_WINDOW_END (R236). -/
def execPilotWindowEnd (k : Fin 8) (mag : Nat) (phase : BitVec 16) (re : Nat) (s : State) : Host.Outcome State Fault Refusal :=
  .next (s.pilotEnd k mag phase re)

/-- COIL_TEMP_UPDATE (R238), once per millisecond while the domain is on. -/
def execCoilTempUpdate (k : Fin 8) (irms : Nat) (s : State) : Host.Outcome State Fault Refusal :=
  .next (if s.domOn .pst then s.coilUpdate k irms else s)

end Sys2Proof.Machine
end

