-- ==== Sys2Proof/Machine/Service.lean ====
section
/-! DEFINITION. The service state (R363 to R366, R389) and the completions of accepted commands (R368). -/

namespace Sys2Proof.Machine

/-- SAFE causes of R366. -/
abbrev causeREF : Nat := 1
abbrev causePLLA : Nat := 2
abbrev causeFIT : Nat := 3
abbrev causeRATE_LIMIT : Nat := 4
abbrev causeRELOC : Nat := 5
abbrev causeHOST : Nat := 6
abbrev causeSTEWARD : Nat := 7

/-- Status codes of R360. -/
abbrev stOK : Nat := 0x00
abbrev stACCEPTED : Nat := 0x01
abbrev stBAD_CODE : Nat := 0x10
abbrev stBAD_LENGTH : Nat := 0x11
abbrev stBAD_ARG : Nat := 0x12
abbrev stBUSY : Nat := 0x20
abbrev stNOT_IN_STATE : Nat := 0x21
abbrev stPRESENCE : Nat := 0x22
abbrev stLOCKED : Nat := 0x23
abbrev stAUTH_FAILED : Nat := 0x24
abbrev stLATE : Nat := 0x25
abbrev stFAULT : Nat := 0x30
abbrev stTIMEOUT : Nat := 0x31

/-- The code of a port in DEV_MBX_DONE.PORT. -/
def portCode : MbxPort → Nat
  | .hsp => 0
  | .twt => 1
  | .cells _ => 2
  | .queue _ => 2

def State.setMbx (s : State) (m : MbxSt) : State := { s with mbx := m }

/-- A request frame joins those that wait for the engine (R359); `bad` as in an IMAGE_CLOSE. -/
def State.enqueue (s : State) (snd : Sender) (frame : List Byte) (bad : Option Nat := none) : State :=
  s.setMbx { s.mbx with waiting := s.mbx.waiting ++ [⟨snd, frame, bad⟩] }

/-- The frame of a response or of a completion (R358). -/
def State.respFrame (s : State) (status code : Nat) (payload : List Byte) : List Byte :=
  leBytes 1 status ++ leBytes 1 s.svc ++ leBytes 2 code ++ leBytes 2 payload.length ++ leBytes 2 0 ++ payload

/-- A completion (R368): DEV_MBX_DONE is written, the completion source raised, and a chain requester gets an MRSP. -/
def State.complete (s : State) (port : MbxPort) (code status : Nat) (payload : List Byte) : State :=
  let s := s.set Reg.DEV_MBX_DONE.CODE code |>.set Reg.DEV_MBX_DONE.STATUS status |>.set Reg.DEV_MBX_DONE.PORT (portCode port)
  let frame := s.respFrame status code payload
  let s := s.setMbx { s.mbx with
    doneStatus := status, donePayload := payload
    chainOut := match port with
      | .cells n => s.mbx.chainOut ++ [(n, false, frame)]
      | .queue n => s.mbx.chainOut ++ [(n, true, frame)]
      | _ => s.mbx.chainOut }
  s.pulse 0x003 false

/-- A degree figure field that is signed. -/
def State.celsius (s : State) (f : Fld) : Int := s.getInt f

/-- The condition of a SAFE cause holds, so that GO_LIVE completes with FAULT (R366, R389). -/
def State.causeHolds (s : State) (cause : Nat) : Bool :=
  if cause = causeREF then !s.bit Reg.CLK_STAT.REF_OK
  else if cause = causePLLA then !s.bitAt Reg.CLK_STAT.LOCKED 0
  else if cause = causeRELOC then s.bit Reg.FAB_RELOC.FAIL && !s.mbx.relocMended
  else if cause = causeSTEWARD then
    let cls := s.get Reg.STEW_LAST.CLASS
    s.bitAt Reg.STEW_FSTAT.CLASS cls ||
      (cls == clsTHERMAL && decide (s.getInt Reg.STEW_POL_THERM.THOT - 10 < s.getInt Reg.STEW_THERM.TJ))
  else false

/-- The outputs take the parking or the release that the service state and the power mode ask for (R192, R197, R224). -/
def State.followParking (s : State) : State := (s.aoRetargetAll).hpFollowAll.pscPark

/-- A basin that runs or is held is parked for SAFE (R79: CAUSE SAFE), with what it wrote in this tick dropped where `drop`. -/
def State.safeParkBasin (drop : Bool) (s : State) (b : Nat) : State :=
  if s.basinState b = bsRUNNING ∨ s.basinState b = bsHELD then
    let s := if drop then s.setBasin b { s.basin b with writes := [], jets := [] } else s
    s.setBasinState b bsPARKED |>.set (Reg.FAB_B_STAT.CAUSE b) bcSAFE
  else s

/-- A cause whose rule stops the fabric parks the basins: REF at once (R65), PLLA at the end of the tick in progress (R54). -/
def State.safePark (s : State) (drop : Bool) : State := (List.range 10).foldl (State.safeParkBasin drop) s

/-- Basins parked for SAFE go on as they were when SAFE is left. -/
def State.safeUnpark (s : State) : State :=
  (List.range 10).foldl (fun (s : State) b =>
    if s.basinState b = bsPARKED && s.get (Reg.FAB_B_STAT.CAUSE b) == bcSAFE then
      s.setBasinState b (if s.get (Reg.FAB_B_STAT.HANDLE b) = 0xF then bsREADY else if s.bit (Reg.FAB_B_CTL.HOLD b) then bsHELD else bsRUNNING)
    else s) s

/-- The service state becomes `v`. -/
def State.setSvc (s : State) (v : Nat) : State := s.set Reg.DEV_SVC.STATE v

/-- Entry to SAFE (R366): the cause is recorded; from LOADED or LIVE every output parks and the entry is counted; in BARE
only the record is made. The SAFE-entry source is raised. A move to LIVE that runs is abandoned (R370). -/
def State.enterSafe (s : State) (cause : Nat) : State :=
  let s := s.set Reg.DEV_SVC.CAUSE cause
  let s := if cause = causeREF then s.safePark true else s
  let s := if cause = causeRELOC then s.setMbx { s.mbx with relocMended := false } else s
  if s.svc = svcBARE then (s.setMbx { s.mbx with bareCause := cause }).pulse 0x004 false
  else
    let s := if s.svc = svcSAFE then s
      else ((s.count Reg.DEV_SVC.CNT 1).setSvc svcSAFE).followParking.pulse 0x004 false
    let s := match s.mbx.loaded with
      | some p => (s.setMbx { s.mbx with loaded := none }).complete p 0x0011 stFAULT [BitVec.ofNat 8 cause]
      | none => s
    match s.mbx.live with
    | some ⟨some p, _⟩ => (s.setMbx { s.mbx with live := none }).complete p 0x0010 stFAULT [BitVec.ofNat 8 cause]
    | some ⟨none, _⟩ => s.setMbx { s.mbx with live := none }
    | none => s

/-- What a classification does for every class (R388, R396, R397): STEW_LAST and the ERROR record with the test's
measurement; a lasting outcome by the policies. -/
def State.classified (s : State) (cls unit outcome : Nat) (tick : TickNo) (status : Word) (meas : Word) : State :=
  let s := s.set Reg.STEW_LAST.CLASS cls |>.set Reg.STEW_LAST.UNIT unit |>.set Reg.STEW_LAST.OUTCOME outcome
    |>.setWord Reg.STEW_LAST_DATA.word.addr meas
  let s := s.errorRecord cls unit outcome tick (leBytes 4 status.toNat ++ leBytes 4 meas.toNat)
  if outcome != 2 then s
  else
    let s := s.flag Reg.STEW_EVT.LASTING
    let s := if s.bitAt Reg.STEW_POL_FAULT.FLT_LAST cls then s.setBitAt Reg.STEW_FSTAT.CLASS cls true else s
    if s.bitAt Reg.STEW_POL_SAFE.MASK cls then s.enterSafe causeSTEWARD else s

/-- An error of classes 0x9 to 0xD: lasting at once, without a test (R384). -/
def State.errorNow (s : State) (cls unit : Nat) (meas : Word) : State :=
  (s.errorSeen cls).classified cls unit 2 s.tick.count (s.errStatus cls unit) meas

/-- The last stop or start that a service move waits for is done: no output is on its way. -/
def State.outputsSettled (s : State) : Bool :=
  (List.range 16).all (fun k => s.aoState k != aoTRANSITION && s.aoState k != aoSETTLING) &&
  (List.range 2).all (fun n => s.hpState n != hpSTARTING && !(s.hpAmp n).stopping) &&
  (List.range 8).all (fun k => s.psState k != psSTARTING && s.psState k != psSTOPPING)

/-- Weir cycles 8 to 39: a waiting move to LIVE makes STATE LIVE and the outputs start (R365 steps 1 and 2). -/
def State.liveWeir (s : State) : State :=
  match s.mbx.live with
  | some ⟨p, false⟩ =>
    ((s.setMbx { s.mbx with live := some ⟨p, true⟩, liveSince := s.now }).setSvc svcLIVE).safeUnpark.followParking
  | _ => s

/-- The completion of a service move is recorded once its last start or stop is done (R365 step 3). -/
def State.liveSettle (s : State) : State :=
  if !s.outputsSettled then s
  else
    let s := match s.mbx.loaded with
      | some p => (s.setMbx { s.mbx with loaded := none }).complete p 0x0011 stOK []
      | none => s
    match s.mbx.live with
    | some ⟨some p, true⟩ => (s.setMbx { s.mbx with live := none }).complete p 0x0010 stOK []
    | some ⟨none, true⟩ => s.setMbx { s.mbx with live := none }
    | _ => s

/-- A full image has been applied (R364, R366, R142): BARE becomes LOADED, or SAFE where a cause recorded in BARE still
holds; AUTOLIVE starts the move to LIVE. -/
def State.imageApplied (s : State) (autolive : Bool) : State :=
  let cause := s.mbx.bareCause
  let s := (s.setSvc svcLOADED).setMbx { s.mbx with bareCause := 0 }
  if cause != 0 && s.causeHolds cause then ((s.count Reg.DEV_SVC.CNT 1).setSvc svcSAFE).followParking.pulse 0x004 false
  else
    let s := s.followParking
    if autolive then s.setMbx { s.mbx with live := some {} } else s

/-- The service state leaves for BARE: nothing plays (R364). -/
def State.enterBare (s : State) : State := (s.setSvc svcBARE).followParking

/-! ### CAL_DONE (R177, R193) -/

/-- One side of CONV_CAL has ended; with both ended the command completes with OK (R368). -/
def State.convCalPart (s : State) (aout : Bool) : State :=
  let m := if aout then { s.mbx with convAout := false } else { s.mbx with convAin := false }
  let s := s.setMbx m
  match m.convCal with
  | some p => if !m.convAin && !m.convAout then (s.setMbx { m with convCal := none }).complete p 0x0040 stOK [] else s
  | none => s

/-- CAL_DONE (R177, R193): the calibration run of the inputs or of the line outputs ends; `fail` marks the channels
outside the correction range. -/
def execCalDone (aout : Bool) (fail : BitVec 16) (s : State) : Host.Outcome State Fault Refusal :=
  .next (if aout then if s.aoCalOver = 0 then s else (s.aoCalDone fail.toNat).convCalPart true
    else if s.aiCalOver = 0 then s else (s.aiCalDone fail.toNat).convCalPart false)

end Sys2Proof.Machine
end

