-- ==== Sys2Proof/Machine/Clocks.lean ====
section
/-! DEFINITION. Clock sources, the four PLLs and the choice of audio reference (03_clocks.md, R49 to R66). What a loss,
a family change or a rate follow asks of the fabric and the chain is in ClockEvents.lean. -/

namespace Sys2Proof.Machine

/-- PLL numbers. -/
abbrev pllA : Nat := 0
abbrev pllS : Nat := 1
abbrev pllC : Nat := 2
abbrev pllP : Nat := 3

/-- CLK_PLLA_REFST.STATE codes. -/
abbrev refLOCKED : Nat := 0
abbrev refACQUIRE : Nat := 1
abbrev refHOLDOVER : Nat := 2
abbrev refHOP : Nat := 3
abbrev refFREE : Nat := 4

/-- Source code FREE of CLK_PLLA_SRC. -/
abbrev srcFREE : Nat := 5

/-- Waits: holdover, steps of a family change, of a rate follow, and the qualification of source `c`. -/
abbrev tmHold : Nat := 0x400
abbrev tmHop : Nat := 0x401
abbrev tmFollow : Nat := 0x402
def tmSource (c : Nat) : Nat := 0x410 + c

def State.setClk (s : State) (c : ClkSt) : State := { s with clk := c }

def State.pll (s : State) (p : Nat) : PllSt := tabGet (fun _ => {}) s.clk.pll p

def State.setPll (s : State) (p : Nat) (q : PllSt) : State := s.setClk { s.clk with pll := tabPut (fun _ => {}) s.clk.pll p q }

/-- PLL `p` declares lock. -/
def State.locked (s : State) (p : Nat) : Bool := s.bitAt Reg.CLK_STAT.LOCKED p

/-- CLK_PLLA_REFST.STATE. -/
def State.refState (s : State) : Nat := s.get Reg.CLK_PLLA_REFST.STATE

/-- AUD runs: PLL-A gives its clock and no family change holds it low (R17); after a loss of its analogue loop the tick in progress runs to its end
(R54). -/
def State.audRuns (s : State) : Bool := s.domOn .sys && s.bit Reg.CLK_STAT.REF_OK && (s.locked pllA || s.clk.lastTick) && !s.clk.stopped

/-- Ticks pass while the tick generator has its clock (R16, R17); in STANDBY they pass without the fabric (R413, R424). -/
def State.ticksRun (s : State) : Bool := s.audRuns

/-- TJ in °C (R390). -/
def State.tj (s : State) : Int := s.getInt Reg.STEW_THERM.TJ

/-! ### Dividers and the band cache (R52, R56 to R58) -/

/-- PLL-A's and PLL-P's setting of a family (R52). -/
def familySetting (family : Nat) : PllSetting := if family = 0 then ⟨128, 0, 1, 0⟩ else ⟨117, 3, 5, 0⟩

/-- PLL-C's setting of a link rate: 0 10GBASE-R, 1 2.5GBASE-X, 2 1000BASE-X (R52). -/
def linkSetting (rate : Nat) : PllSetting :=
  match rate with
  | 0 => ⟨419, 1263, 2048, 0⟩
  | 1 => ⟨381, 481, 1024, 1⟩
  | _ => ⟨406, 173, 192, 2⟩

/-- The shadow dividers of PLL `p`. -/
def State.shadow (s : State) (p : Nat) : PllSetting :=
  { int := s.get (Reg.CLK_PLL_INT.INT p), num := s.get (Reg.CLK_PLL_NUM.NUM p), den := s.get (Reg.CLK_PLL_DEN.DEN p), post := (s.pll p).loaded.post }

/-- The shadow dividers of PLL `p` as the device writes them (R58). -/
def State.writeShadow (s : State) (p : Nat) (d : PllSetting) : State :=
  s.set (Reg.CLK_PLL_INT.INT p) d.int |>.set (Reg.CLK_PLL_NUM.NUM p) d.num |>.set (Reg.CLK_PLL_DEN.DEN p) d.den

/-- The cache entry that a load of `d` at temperature `tj` starts from (R56). -/
def bandHit (cache : List BandEntry) (d : PllSetting) (tj : Int) : Option BandEntry :=
  cache.find? fun e => e.setting == d && decide (-40 ≤ tj - e.temp ∧ tj - e.temp ≤ 40)

/-- The slot that a new result takes: the first empty one, else that of the least recently used entry. -/
def bandSlot (cache : List BandEntry) : Nat :=
  match (List.range 8).find? fun i => cache.all fun e => e.slot != i with
  | some i => i
  | none => match cache.getLast? with
    | some e => e.slot
    | none => 0

/-- CLK_PLLx_CACHE.VALID shows the entries that hold a result. -/
def State.showCache (s : State) (p : Nat) : State :=
  s.set (Reg.CLK_PLL_CACHE.VALID p) ((s.pll p).cache.foldl (fun a e => a ||| 2 ^ e.slot) 0)

/-- The output of PLL-S or PLL-P goes on its bypass clock, or returns from it unless FORCE_BYP holds it (R54). While PLL-P is on bypass
crossings 14 and 15 carry nothing, and are started anew after it (R72). -/
def State.bypass (s : State) (p : Nat) (on : Bool) : State :=
  if p = pllS ∨ p = pllP then
    let on := on || s.bit (Reg.CLK_PLL_CTL.FORCE_BYP p)
    let s := s.set (Reg.CLK_PLL_STAT.BYPASSED p) (b2n on)
    if p = pllP && on then (s.set (Reg.XING_STAT.RDY 14) 0).set (Reg.XING_STAT.RDY 15) 0 else s
  else s

/-- A divider load of PLL `p` (R56, R58): a cache hit starts from the stored codes, any other load searches. -/
def State.pllLoad (s : State) (p : Nat) (d : PllSetting) : State :=
  let s := if p = pllA then s.setClk { s.clk with lag := 0 } else s
  let q := s.pll p
  match bandHit q.cache d s.tj with
  | some e =>
    s.setPll p { q with loaded := d, busy := true, search := false, cache := e :: q.cache.filter (fun x => x.slot != e.slot) }
      |>.setBitAt Reg.CLK_STAT.LOCKED p false |>.set (Reg.CLK_PLL_STAT.CACHE_HIT p) 1 |>.set (Reg.CLK_PLL_STAT.BAND p) e.band |>.bypass p true
  | none =>
    s.setPll p { q with loaded := d, busy := true, search := true }
      |>.setBitAt Reg.CLK_STAT.LOCKED p false |>.set (Reg.CLK_PLL_STAT.CACHE_HIT p) 0 |>.bypass p true

/-- PLL `p` starts, or relocks with a full band search (R55). -/
def State.pllStart (s : State) (p : Nat) : State :=
  s.setPll p { s.pll p with busy := true, search := true, relockDue := false } |>.bypass p true

/-- The window of PLL `p`'s lock rule in ps, and the cycles that lock and loss take; PLL-A's analogue loop has a fixed rule (R53). -/
def State.lockWin (s : State) (p : Nat) : Nat := 500 * (s.get (Reg.CLK_PLL_LOCK.WIN p) + 1)
def State.lockCycles (s : State) (p : Nat) : Nat := max 16 (s.get (Reg.CLK_PLL_LOCK.LOCK_CNT p))
def State.lossCycles (s : State) (p : Nat) : Nat := max 1 (s.get (Reg.CLK_PLL_LOCK.LOSS_CNT p))

/-- What the phase detector saw is lock, or loss. -/
def State.lockSeen (s : State) (p : Nat) (x : PhaseRun) : Bool :=
  if p = pllA then decide (x.err ≤ 1000 ∧ 1024 ≤ x.cycles) else decide (x.err ≤ s.lockWin p ∧ s.lockCycles p ≤ x.cycles)
def State.lossSeen (s : State) (p : Nat) (x : PhaseRun) : Bool :=
  x.noEdge || (if p = pllA then decide (1000 < x.err ∧ 8 ≤ x.cycles) else decide (s.lockWin p < x.err ∧ s.lossCycles p ≤ x.cycles))

/-- The same for PLL-A's outer loop, whose rule is CLK_PLLA_LOCK (R53). -/
def State.outerLockSeen (s : State) (x : PhaseRun) : Bool := decide (x.err ≤ s.lockWin pllA ∧ s.lockCycles pllA ≤ x.cycles)
def State.outerLossSeen (s : State) (x : PhaseRun) : Bool := x.noEdge || decide (s.lockWin pllA < x.err ∧ s.lossCycles pllA ≤ x.cycles)

/-- PLL `p` declares lock, having found `found` (R53, R55 to R57). -/
def State.pllLock (s : State) (p : Nat) (found : BandFound) : State :=
  let q := s.pll p
  if !q.busy || q.dead || !s.bit Reg.CLK_STAT.REF_OK || !s.bit (Reg.CLK_PLL_CTL.EN p) then s
  else
    let s := if q.search then
        let slot := bandSlot q.cache
        s.setPll p { q with busy := false, search := false, cache := ⟨slot, q.loaded, found.band % 256, found.fine, s.tj⟩ :: q.cache.filter (fun x => x.slot != slot) }
          |>.set (Reg.CLK_PLL_STAT.BAND p) found.band
      else s.setPll p { q with busy := false }
    let s := if p = pllA then { s with tick := { s.tick with started := true } } else s.set (Reg.CLK_PLL_STAT.HOP_US p) (min found.us 65535)
    let s := if p = pllS then s.setClk { s.clk with sysOnLpo := false } else if p = pllA then s.setClk { s.clk with lastTick := false } else s
    (s.setBitAt Reg.CLK_STAT.LOCKED p true).bypass p false |>.showCache p

/-- What a loss of PLL `p` does to its own output and status (R53 to R55). -/
def State.pllLose (s : State) (p : Nat) : State :=
  let s := if p = pllA && s.audRuns then s.setClk { s.clk with lastTick := true } else s
  let s := s.setBitAt Reg.CLK_STAT.LOCKED p false |>.setPll p { s.pll p with relockDue := true, busy := false } |>.bypass p true
  match p with
  | 0 => s.flag Reg.CLK_EVT.PLLA_FAULT
  | 1 => s.flag Reg.CLK_EVT.PLLS_BYP
  | 2 => s.flag Reg.CLK_EVT.PLLC_LOSS
  | _ => s.flag Reg.CLK_EVT.PLLP_BYP

/-- The band cache of PLL `p` is emptied (R57). -/
def State.cacheFlush (s : State) (p : Nat) : State := (s.setPll p { s.pll p with cache := [] }).showCache p

/-- The outer-loop trim that PLL `p`'s modulator applies: PLL-A's, and the same at PLL-P in every state of PLL-A (R72). -/
def State.trimOf (s : State) (p : Nat) : Int := if p = pllA ∨ p = pllP then s.getInt Reg.CLK_PLLA_TRIM.TRIM else 0

/-- The VCO frequency of PLL `p` with setting `d`, as a fraction: REF (24,576,000 Hz) × (INT + NUM / DEN) × (1 + trim). -/
def State.vcoHz (s : State) (p : Nat) (d : PllSetting) : Int × Int :=
  (24576000 * (d.int * d.den + d.num : Nat) * (4294967296 + s.trimOf p), d.den * 4294967296)

/-- The new VCO frequency of PLL-A differs by more than 1,000 ppm from the present one, whose step may still be running (R58). -/
def State.farSetting (s : State) (new : PllSetting) : Bool :=
  let now := s.vcoHz pllA (s.pll pllA).loaded
  let a := now.1 * (4294967296 + s.clk.lag) * (s.vcoHz pllA new).2
  let b := (s.vcoHz pllA new).1 * (now.2 * 4294967296)
  decide (a * 1001 < b * 1000 ∨ b * 1000 < a * 999)

/-- The commit tick applies a waiting PLL-A load, or refuses it (R58). The frequency starts where it is and steps to the new setting under
SLEW. DESIGN CHOICE: a load that waits at a commit tick whose commit is refused is not reached, and
waits for the next; R58 does not name that case. -/
def State.commitPllA (s : State) : State :=
  if !s.clk.updA then s
  else
    let s := s.setClk { s.clk with updA := false }
    let d := s.shadow pllA
    if d.den = 0 || s.refState = refHOP || s.farSetting d then s.flag Reg.CLK_EVT.UPD_ERR
    else
      let now := s.vcoHz pllA (s.pll pllA).loaded
      let new := s.vcoHz pllA d
      let lag := roundDiv (now.1 * (4294967296 + s.clk.lag) * new.2) (new.1 * now.2) - 4294967296
      (s.setClk { s.clk with lag := lag }).setPll pllA { s.pll pllA with loaded := d }

/-! ### The audio reference (R59 to R63) -/

/-- The entries of CLK_PLLA_SRC, entry 0 first. -/
def State.srcList (s : State) : List Nat :=
  [s.get Reg.CLK_PLLA_SRC.ENTRY0, s.get Reg.CLK_PLLA_SRC.ENTRY1, s.get Reg.CLK_PLLA_SRC.ENTRY2, s.get Reg.CLK_PLLA_SRC.ENTRY3]

/-- Source `c` is listed. -/
def State.srcListed (s : State) (c : Nat) : Bool := s.srcList.any (· == c)

/-- Source `c` is qualified; FREE always is (R60). -/
def State.srcQualified (s : State) (c : Nat) : Bool :=
  c == srcFREE || (1 ≤ c && c ≤ 4 && s.bitAt Reg.CLK_PLLA_REFST.QUALIFIED (c - 1))

/-- The rate code measured at source `c`; 7 is none. -/
def State.srcRate (s : State) (c : Nat) : Nat := tabGet (fun _ => 7) s.clk.rates c

/-- A rate that the policies let PLL-A follow (R63). -/
def State.rateFollowed (s : State) (rate : Nat) : Bool :=
  rate ≤ 5 && (rate == s.rate || (if rateFamily rate = s.get Reg.CLK_STAT.FAMILY then s.bit Reg.CLK_PLLA_POL.RATE_FOLLOW
    else s.bit Reg.CLK_PLLA_POL.FAMILY_FOLLOW))

/-- The port conditions of R60: a SAP word select counts only on a slave port with EN = 1 in effect. -/
def State.srcPossible (s : State) (c : Nat) : Bool :=
  if c = 3 ∨ c = 4 then s.bit (Reg.SAP_CTL.EN (c - 3)) && !s.bit (Reg.SAP_CTL.MASTER (c - 3)) else true

/-- A decision of R59 becomes due; during HOP it waits for HOP_DONE. -/
def State.decisionDue (s : State) (afterLoss : Bool) : State := s.setClk { s.clk with decide := true, afterLoss := s.clk.afterLoss || afterLoss }

/-- The state of the reference becomes `st` with active source `c`, an entry that SRC_CHANGE records (R62). -/
def State.refEnter (s : State) (st c : Nat) : State :=
  s.set Reg.CLK_PLLA_REFST.STATE st |>.set Reg.CLK_PLLA_REFST.ACTIVE c |>.flag Reg.CLK_EVT.SRC_CHANGE

/-- The rate code that a sum of 256 periods in ns lies within 1,000 ppm of; 7 is none (R60). -/
def rateOfSum (sum : Nat) : Nat :=
  ((List.range 6).find? fun r =>
    let d := (sum * tickHz r : Nat) - (256000000000 : Int)
    decide (-256000000 ≤ d ∧ d ≤ 256000000)).getD 7

/-- Source `c` is no longer qualified. -/
def State.dropSource (s : State) (c : Nat) : State := (s.setBitAt Reg.CLK_PLLA_REFST.QUALIFIED (c - 1) false).stopTimer (tmSource c)

/-- Source `c` is good by its own row of R60, which asks for more than its port and rate: it becomes qualified where the list, its port and the
policies let it. -/
def State.sourceGood (s : State) (c rate : Nat) : State :=
  if s.rateFollowed rate && s.srcListed c && s.srcPossible c then
    if s.srcQualified c then s
    else
      let s := (s.setBitAt Reg.CLK_PLLA_REFST.QUALIFIED (c - 1) true).startTimer (tmSource c)
      if s.refState = refHOLDOVER then s.decisionDue false else s
  else s.dropSource c

/-- SOURCE_QUALIFIED (R60, R63): what the monitor of source `c` has counted. WCLK and the word selects: `n` is the sum of the last 256 periods in
ns, `bad` how many of them lie outside ±0.5 % of their mean. Chain beacon: `n` consecutive parcels carried a valid beacon with HOLD = 0 from
the elected master, or `bad` expected parcel periods passed without one on either port; `adv` is the rate code that the upstream neighbour
advertises. Between the two counts the beacon keeps its standing. -/
def State.sourceQualified (s : State) (c n bad adv : Nat) : State :=
  let rate := if c = 1 then (if adv ≤ 5 then adv else 7) else rateOfSum n
  let s := if c = 2 then s.set Reg.CLK_WCLK_STAT.RATE rate |>.set Reg.CLK_WCLK_STAT.PERIOD (min (roundDiv n 1024).toNat 8191) else s
  let s := s.setClk { s.clk with rates := tabPut (fun _ => 7) s.clk.rates c rate }
  let good := if c = 1 then decide (3 ≤ n) else rate != 7 && decide (bad < 4)
  let gone := if c = 1 then decide (2 ≤ bad) else !good
  let s := s.flagIf (if rate = 7 then c != 1 && n != 0 else good && !s.rateFollowed rate) Reg.CLK_EVT.WCLK_RATE
  if gone then s.dropSource c
  else if good then s.sourceGood c rate
  else if s.rateFollowed rate then s else s.dropSource c

/-- The largest trim: 1,000 ppm in units of 2^-32. -/
abbrev trimMax : Int := 4294967

/-- SLEW in ppm (CLK_PLLA_POL), and as a trim. -/
def State.slewPpm (s : State) : Nat :=
  match s.get Reg.CLK_PLLA_POL.SLEW with
  | 0 => 10
  | 2 => 250
  | 3 => 500
  | _ => 100
def State.slewTrim (s : State) : Int := s.slewPpm * 4294967296 / 1000000

/-- Loss of the active source (R61, R65): holdover at once, with the trim given by the last good periods, or the trim
held before ACQUIRE. DESIGN CHOICE: ACTIVE keeps the lost source's code. A loss of the new source during HOP
is noted for the hop's end. -/
def State.sourceLoss (s : State) (trim : Word) : State :=
  let c := s.get Reg.CLK_PLLA_REFST.ACTIVE
  match s.clk.hop with
  | some h => if h.source = srcFREE then s else (s.setClk { s.clk with hop := some { h with lost := true } }).dropSource h.source
  | none =>
    if s.refState = refLOCKED ∨ s.refState = refACQUIRE then
      let hold := if s.refState = refACQUIRE then s.clk.heldTrim else BitVec.ofInt 32 (clampInt (-trimMax) trimMax trim.toInt)
      ((s.dropSource c).set Reg.CLK_PLLA_TRIM.TRIM hold.toNat |>.refEnter refHOLDOVER c).startTimer tmHold |>.decisionDue true
    else s

/-- The trim that the loop sets in ACQUIRE: it slews the phase, so it lies within SLEW of the trim held before, where the spec leaves it open
(R61). -/
def State.acquireTrim (s : State) : State :=
  let held := s.clk.heldTrim.toInt
  let t := clampInt (-trimMax) trimMax (clampInt (held - s.slewTrim) (held + s.slewTrim) s.fresh.toInt)
  s.drawn.setInt Reg.CLK_PLLA_TRIM.TRIM t

/-- PLL-A starts to follow source `c` (R61). -/
def State.acquire (s : State) (c : Nat) : State :=
  let s := s.setClk { s.clk with heldTrim := s.word Reg.CLK_PLLA_TRIM.word.addr }
  (s.acquireTrim.refEnter refACQUIRE c).stopTimer tmHold

/-- PLL-A goes to FREE (R59, R61): the trim then moves to zero under SLEW. -/
def State.goFree (s : State) : State := (s.refEnter refFREE srcFREE).stopTimer tmHold

/-- The outer loop declares lock (R53) with trim `trim`. -/
def State.refLock (s : State) (trim : Word) : State :=
  if s.refState = refACQUIRE then
    s.set Reg.CLK_PLLA_REFST.STATE refLOCKED |>.set Reg.CLK_PLLA_TRIM.TRIM (BitVec.ofInt 32 (clampInt (-trimMax) trimMax trim.toInt)).toNat
  else s

/-- A family change to source `c` at rate `rate` begins (R64 step 1): HOP, the armed commit cancelled by the caller, the
20 ms mute. -/
def State.hopBegin (s : State) (c rate : Nat) : State :=
  (s.set Reg.CLK_PLLA_REFST.STATE refHOP |>.setClk { s.clk with hop := some ⟨1, c, rate, false⟩, mute := s.clk.mute.next s.now 0 20 }).startTimer tmHop

/-- A rate follow to source `c` at rate `rate` begins (R63): the 20 ms mute. -/
def State.followBegin (s : State) (c rate : Nat) : State :=
  (s.setClk { s.clk with follow := some ⟨1, c, rate⟩, mute := s.clk.mute.next s.now 0 20 }).startTimer tmFollow

/-- The corresponding rate code of the other family (R64): 48 and 44.1, 96 and 88.2, 192 and 176.4 kHz. -/
def otherFamily (rate : Nat) : Nat := if rate % 2 = 1 then rate - 1 else rate + 1

/-- The move to source `c` that a decision has chosen (R61, R63, R64). `cancel` is what step 1 of R64 does to an armed
commit (R42). -/
def State.moveTo (s : State) (c : Nat) (cancel : State → State) : State :=
  if c = srcFREE then
    let s := if s.refState = refFREE then s else s.goFree
    if s.get Reg.CLK_PLLA_POL.FREE_FAMILY = s.get Reg.CLK_STAT.FAMILY then s
    else (cancel s).hopBegin srcFREE (otherFamily s.rate)
  else if c = s.get Reg.CLK_PLLA_REFST.ACTIVE ∧ (s.refState = refLOCKED ∨ s.refState = refACQUIRE) then s
  else
    let r := s.srcRate c
    if r = s.rate then s.acquire c
    else if rateFamily r = s.get Reg.CLK_STAT.FAMILY then (s.acquire c).followBegin c r
    else (cancel s).hopBegin c r

/-- After a commit, a source that is no longer listed, whose SAP port is no slave with EN = 1, or whose rate the policies no longer follow is
not qualified (R60, R63). The active source is lost where its port is, and left to the decision where it is no longer listed (R65). -/
def State.requalify (s : State) : State :=
  [1, 2, 3, 4].foldl (fun (s : State) c =>
    if !s.srcQualified c || (s.srcListed c && s.srcPossible c && s.rateFollowed (s.srcRate c)) then s
    else if s.get Reg.CLK_PLLA_REFST.ACTIVE = c && s.srcListed c then s.sourceLoss (s.word Reg.CLK_PLLA_TRIM.word.addr)
    else s.dropSource c) s

/-- A decision of R59: the first qualified source in the listed order; FREE is passed over after a loss and in
HOLDOVER. With no such source a reference whose source is no longer listed falls to holdover, and FREE goes on, in the family
of FREE_FAMILY (R64). DESIGN CHOICE: a decision at such a commit selects by R59 and may
replace the active source, though R62 lets it keep its role until lost. -/
def State.decideSource (s : State) (cancel : State → State) : State :=
  if !s.clk.decide || s.refState = refHOP || !s.bit Reg.CLK_STAT.REF_OK then s
  else
    let skipFree := s.clk.afterLoss || s.refState = refHOLDOVER
    let s := s.setClk { s.clk with decide := false, afterLoss := false }
    match s.srcList.find? fun c => s.srcQualified c && !(skipFree && c == srcFREE) with
    | some c => s.moveTo c cancel
    | none =>
      let c := s.get Reg.CLK_PLLA_REFST.ACTIVE
      if (s.refState = refLOCKED ∨ s.refState = refACQUIRE) ∧ !s.srcListed c then (s.refEnter refHOLDOVER c).startTimer tmHold
      else if s.refState = refFREE then s.moveTo srcFREE cancel else s

/-- Holdover has lasted HOLD_LIMIT (R61). -/
def State.holdLimit (s : State) (cancel : State → State) : State :=
  let lim := s.get Reg.CLK_PLLA_POL.HOLD_LIMIT
  if s.refState = refHOLDOVER && lim != 0 && s.due tmHold lim then
    if s.srcListed srcFREE then s.moveTo srcFREE cancel else s.flag Reg.CLK_EVT.HOLD_LIMIT
  else s

/-- Where source `c` stands in the list; 4 when it is not listed. -/
def State.srcPlace (s : State) (c : Nat) : Nat := (s.srcList.findIdx? (· == c)).getD 4

/-- The revert hold of source `c` is over (R62): it replaces a source that it is listed ahead of; in HOP the decision waits for HOP_DONE (R59).
DESIGN CHOICE: 0, outside the field's range, acts as 1 s. -/
def State.revert (s : State) (c : Nat) (cancel : State → State) : State :=
  let a := match s.clk.hop with
    | some h => h.source
    | none => s.get Reg.CLK_PLLA_REFST.ACTIVE
  if s.bit Reg.CLK_PLLA_POL.REVERT && s.srcQualified c && s.srcPlace c < s.srcPlace a
      && s.due (tmSource c) (1000 * max 1 (s.get Reg.CLK_PLLA_POL.REVERT_HOLD)) then
    (s.decisionDue false).decideSource cancel
  else s

/-- What SLEW lets the frequency move in a millisecond, in units of 2^-32: a thousand of them stay within SLEW in a second. -/
def State.slewMs (s : State) : Int := s.slewPpm * 4294967296 / 1000000000

/-- A frequency offset one millisecond nearer to zero. -/
def nearZero (t d : Int) : Int := if 0 < t then max 0 (t - d) else min 0 (t + d)

/-- One millisecond of what SLEW limits: the trim's move to zero in FREE (R61), the frequency step of a PLL-A load (R58), and the trim in
ACQUIRE. -/
def State.clkMs (s : State) : State :=
  let s := if s.clk.lag = 0 then s else s.setClk { s.clk with lag := nearZero s.clk.lag s.slewMs }
  if s.refState = refFREE then s.setInt Reg.CLK_PLLA_TRIM.TRIM (nearZero (s.getInt Reg.CLK_PLLA_TRIM.TRIM) s.slewMs)
  else if s.refState = refACQUIRE then s.acquireTrim
  else s

/-- PLL-A on FREE with no trim, and a decision as at image load (R65). -/
def State.refRestart (s : State) : State :=
  ((if s.refState = refFREE then s.set Reg.CLK_PLLA_REFST.ACTIVE srcFREE else s.refEnter refFREE srcFREE).set Reg.CLK_PLLA_TRIM.TRIM 0
    |>.setBitAt Reg.CLK_PLLA_REFST.QUALIFIED 4 true).decisionDue false

/-- The divider setting that a PLL starts with: the one in effect before, else that of R52, which the device loads itself; the shadow registers
take no part (R58). PLL-C starts at 10GBASE-R, the first of its rows. -/
def State.startSetting (s : State) (p : Nat) : PllSetting :=
  let q := (s.pll p).loaded
  if q.int != 0 then q
  else match p with
    | 1 => ⟨130, 5, 24, 0⟩
    | 2 => linkSetting 0
    | _ => familySetting (s.get Reg.CLK_STAT.FAMILY)

/-- The power domain of a PLL (R19). -/
def pllDom (p : Nat) : Dom := if p = pllC then .chn else if p = pllP then .pst else .sys

/-- PLL `p` is enabled and begins to lock. -/
def State.pllBegin (s : State) (p : Nat) : State :=
  if s.bit (Reg.CLK_PLL_CTL.EN p) && s.domOn (pllDom p) then s.pllLoad p (s.startSetting p) else s

/-- The power domain of PLL `p` goes off: disabled, its cache emptied (R57). -/
def State.pllOff (s : State) (p : Nat) : State :=
  ((s.setPll p {}).setBitAt Reg.CLK_STAT.LOCKED p false |>.set (Reg.CLK_PLL_CTL.EN p) 0).showCache p

/-- The power domain of PLL `p` comes on. -/
def State.pllOn (s : State) (p : Nat) : State :=
  let s := s.set (Reg.CLK_PLL_CTL.EN p) 1
  if s.bit Reg.CLK_STAT.REF_OK then s.pllBegin p else s

/-! ### Commands -/

/-- REF_GOOD (R50, R65): the PLLs may start; PLL-A starts on FREE. -/
def execRefGood (s : State) : Host.Outcome State Fault Refusal :=
  .next (if s.domOn .sys && !s.bit Reg.CLK_STAT.REF_OK then
      (List.range 4).foldl State.pllBegin (s.set Reg.CLK_STAT.REF_OK 1).refRestart
    else s)

/-- PLL_LOCK (R53): the phase error of PLL `p`'s analogue loop, or of PLL-A's outer loop with its trim, stayed within its window
(`seen`); what a load's search found is in `found`. -/
def execPllLock (p : Fin 4) (seen : PhaseRun) (found : BandFound) (outer : Option Word) (s : State) : Host.Outcome State Fault Refusal :=
  .next (match outer with
    | some trim => if s.outerLockSeen seen then s.refLock trim else s
    | none => if s.lockSeen p seen then s.pllLock p found else s)

/-- CACHE_FLUSH (R57). -/
def execCacheFlush (p : Fin 4) (s : State) : Host.Outcome State Fault Refusal := .next (s.byRow ((s.cacheFlush p).onBus 0 .done))

/-- SOURCE_QUALIFIED (R60) of source code 1 to 4. -/
def execSourceQualified (c : Fin 4) (n bad adv : Nat) (s : State) : Host.Outcome State Fault Refusal :=
  .next (s.sourceQualified (c + 1) n bad adv)

/-- SOURCE_LOSS (R53, R61): the outer loop's phase error left its window, or no edge, or no beacon, came for two expected periods; the trim is
the mean of the last 256 reference periods without the 4 before the loss. -/
def execSourceLoss (e : SourceLossSeen) (s : State) : Host.Outcome State Fault Refusal :=
  .next (if s.outerLossSeen e.seen then s.sourceLoss e.trim else s)

/-- A period of source `c` in ns lies outside ±0.5 % of that expected from the present tick rate (R63). -/
def State.badPeriod (s : State) (period : Nat) : Bool :=
  let d := (period * tickHz s.rate : Nat) - (1000000000 : Int)
  decide (d < -5000000 ∨ 5000000 < d)

/-- WCLK_GLITCH (R63): a period of WCLK, or of the SAP word select that is the active source, is bad, the last of `run` consecutive ones. It is
counted; the fourth is a loss of the source, with the trim as for a missing edge. -/
def execWclkGlitch (e : BadPeriodSeen) (s : State) : Host.Outcome State Fault Refusal :=
  .next (if s.badPeriod e.period && (e.c.val = 1 || (2 ≤ e.c.val && s.get Reg.CLK_PLLA_REFST.ACTIVE == e.c.val + 1)) then
      let s := s.count Reg.CLK_WCLK_STAT.GLITCH 1 |>.flag Reg.CLK_EVT.WCLK_GLITCH
      if e.run < 4 then s
      else if s.get Reg.CLK_PLLA_REFST.ACTIVE = e.c.val + 1 then s.sourceLoss e.trim
      else s.dropSource (e.c + 1)
    else s)

/-! ### Word clock output (R66) -/

/-- DIV as it acts. -/
def State.wclkoDiv (s : State) : Nat :=
  match s.get Reg.CLK_WCLKO_CTL.DIV with
  | 1 => 2
  | 2 => 4
  | _ => 1

/-- The level of WCLKO at FAB cycle `cyc` of the present tick: high in the first half of every DIV ticks, from FAB cycle 0 of the first, while EN is
1, the tick runs, and no family change stands between its steps 2 and 5. DESIGN CHOICE: the first of
DIV ticks is the one whose TICK_COUNT is a multiple of DIV. -/
def State.wclkoLevel (s : State) (cyc : Nat) : Bool :=
  let hop := match s.clk.hop with
    | some h => h.step = 2 || h.step = 3
    | none => false
  s.bit Reg.CLK_WCLKO_CTL.EN && s.ticksRun && !hop &&
    decide (2 * (s.tick.count.toNat % s.wclkoDiv * tickCycles s.rate + cyc) < s.wclkoDiv * tickCycles s.rate)

end Sys2Proof.Machine
end

