-- ==== Sys2Proof/Machine/Operands.lean ====
section
/-! DEFINITION. The slot word and its operands (06_slot_words.md, R104 to R109): the fields, how each operand code is
read, the pointers, and how a result is stored. A slot word works on a `JetCtx`: its basin, its jet and the cycle at
which it starts. Reads and writes of the pool carry the cycle in which they happen, so that what coincides in one cycle
resolves as R87 says. -/

namespace Sys2Proof.Machine

/-- The fields of a slot word (R104). -/
structure Slot where
  op : Nat
  mod : Nat
  dst : Nat
  sra : Nat
  srb : Nat
  src : Nat
  aux : Nat
deriving DecidableEq, Repr

/-- The fields of a 64-bit slot word (R104). -/
def slotOf (w : DWord) : Slot :=
  let n := w.toNat
  { op := n / 2 ^ 57 % 128, mod := n / 2 ^ 54 % 8, dst := n / 2 ^ 44 % 1024, sra := n / 2 ^ 32 % 4096,
    srb := n / 2 ^ 20 % 4096, src := n / 2 ^ 8 % 4096, aux := n % 256 }

/-- MOD.R: round to nearest (R107). -/
def Slot.r (sl : Slot) : Bool := sl.mod % 2 == 1

/-- The M field: 0 to 3 (R107). -/
def Slot.m (sl : Slot) : Nat := sl.mod / 2

/-- What a slot word acts on. -/
structure JetCtx where
  basin : Basin
  j : Nat
  jet : Jet
  /-- Cycle at which the slot word starts (TPH). -/
  cyc : Nat
  /-- TICK_COUNT during the tick. -/
  tcnt : Nat
  rate : Nat
  /-- Number of the next free value. -/
  free : Nat
deriving DecidableEq, Repr

/-- Words in a pool (R85). -/
abbrev poolWords : Nat := 24576

/-- A right shift by `n` places under MOD.R: toward −∞, or to nearest with ties toward +∞ (R107). -/
def shiftRight (r : Bool) (x : Int) (n : Nat) : Int := if r && n != 0 then (x + 2 ^ (n - 1)) / 2 ^ n else x / 2 ^ n

/-- Saturation to `w` bits, two's complement. -/
def satTo (w : Nat) (x : Int) : Int := clampInt (-(2 ^ (w - 1))) (2 ^ (w - 1) - 1) x

/-! ### Pointers (R82, R108) -/

/-- Address field and circular length of a pointer register. -/
def ptrAddr (p : Word) : Nat := p.toNat % 32768
def ptrLen (p : Word) : Nat := p.toNat / 65536 % 32768

/-- The least k with 2^k ≥ len. -/
def log2Up (len : Nat) : Nat := if len ≤ 1 then 0 else Nat.log2 (len - 1) + 1

/-- The effective pool address of a pointer and an offset (R108). -/
def ptrEff (p : Word) (off : Int) : Int :=
  let a := ptrAddr p
  let len := ptrLen p
  if len = 0 then a + off
  else
    let b := a / 2 ^ log2Up len * 2 ^ log2Up len
    b + (((a - b : Nat) : Int) + off) % len

def Jet.ptr (x : Jet) (n : Nat) : Word := tabGet (fun _ => 0) x.p n
def Jet.setPtr (x : Jet) (n : Nat) (v : Word) : Jet := { x with p := tabPut (fun _ => 0) x.p n v }

/-- A pointer word as it is held: bits 31 and 15 are 0 (R105). -/
def ptrWord (v : Nat) : Word := BitVec.ofNat 32 v &&& 0x7FFF7FFF

/-! ### Pool reads and writes in their cycles (R86, R87, R108) -/

/-- The later of two writes, by cycle and then by jet (R87). -/
def laterWrite (a b : PoolWrite) : PoolWrite := if a.cycle < b.cycle ∨ (a.cycle = b.cycle ∧ a.jet ≤ b.jet) then b else a

/-- The last write of the tick to an address before cycle `cyc`. -/
def lastWrite (ws : List PoolWrite) (addr cyc : Nat) : Option PoolWrite :=
  ws.foldl (fun best w => if w.addr = addr ∧ w.cycle < cyc then
    match best with
    | some b => some (laterWrite b w)
    | none => some w
    else best) none

/-- The pool word at a physical address as seen in cycle `cyc`. -/
def Basin.poolAt (b : Basin) (cyc addr : Nat) : Word :=
  match lastWrite b.writes addr cyc with
  | some w => w.value
  | none => tabGet (fun _ => 0) b.pool addr

/-- Where a jet's read of address `addr` goes: into the page fixed for the tick (R86, R159), nowhere when the table
has no complete page (`wait` bit t), else to the address itself. -/
def redirect (tables : List TableDesc) (page wait addr : Nat) : Option Nat :=
  match tables.find? fun d => (d.a ≤ addr && addr < d.a + d.len) || (d.b ≤ addr && addr < d.b + d.len) with
  | some d =>
    let off := if d.a ≤ addr ∧ addr < d.a + d.len then addr - d.a else addr - d.b
    if wait / 2 ^ d.t % 2 = 1 then none else some ((if page / 2 ^ d.t % 2 = 1 then d.b else d.a) + off)
  | none => some addr

/-- Tables of which no page was complete when the tick's pages were fixed are marked in the upper half of `page`. -/
def Basin.waits (b : Basin) : Nat := b.page / 2 ^ 32

/-- A jet's read of pool address `a` in cycle `cyc`, sign-extended; 0 outside the pool (R108). -/
def JetCtx.pool (c : JetCtx) (cyc : Nat) (a : Int) : Int :=
  if a < 0 ∨ (poolWords : Int) ≤ a then 0
  else match redirect c.basin.tables (c.basin.page % 2 ^ 32) c.basin.waits a.toNat with
    | some addr => (c.basin.poolAt cyc addr).toInt
    | none => 0

/-- A write of this tick is noted; outside the pool it is discarded (R108). -/
def JetCtx.write (c : JetCtx) (cyc : Nat) (a : Int) (v : Word) : JetCtx :=
  if a < 0 ∨ (poolWords : Int) ≤ a then c
  else { c with basin := { c.basin with writes := ⟨cyc, c.j, a.toNat, v⟩ :: c.basin.writes } }

/-- Outbound port `p` as last written (R105). -/
def JetCtx.outPort (c : JetCtx) (p : Nat) : Word :=
  match lastWrite c.basin.writes (65536 + p) c.cyc with
  | some w => w.value
  | none => tabGet (fun _ => 0) c.basin.outp p

/-! ### Reading an operand (R105, R106, R108) -/

/-- The Q9.31 view of an accumulator value: bits [70:31] rounded and saturated to 40 bits (R106). -/
def accView (r : Bool) (acc : Int) : Int := satTo 40 (shiftRight r acc 31)

/-- A pool address that a source code names, if it names one. -/
def JetCtx.srcAddr (c : JetCtx) (sl : Slot) (code : Nat) : Option Int :=
  if sl.m = 3 ∧ 0x800 ≤ code then some (ptrEff (c.jet.ptr (code / 256 % 8)) (sext 8 code))
  else if 0x100 ≤ code then some ((code - 0x100 : Nat) : Int)
  else none

/-- A pool address that a destination code names, if it names one. -/
def JetCtx.dstAddr (c : JetCtx) (sl : Slot) (code : Nat) : Option Int :=
  if sl.m = 3 ∧ 0x200 ≤ code then some (ptrEff (c.jet.ptr (code / 64 % 8)) (sext 6 code))
  else if 0x100 ≤ code then some ((code - 0x100 : Nat) : Int)
  else none

/-- FLAGS as a value: [3] S, [2] V, [1] N, [0] Z (R105). -/
def JetFlags.bits (f : JetFlags) : Nat := 8 * b2n f.s + 4 * b2n f.v + 2 * b2n f.n + b2n f.z

/-- The flags from their bits. -/
def flagsOf (v : Nat) : JetFlags := ⟨v / 8 % 2 == 1, v / 4 % 2 == 1, v / 2 % 2 == 1, v % 2 == 1⟩

/-- An operand that is not a pool word, widened without change of value (R105, R106). A reserved code, which only a raw
window can bring in, reads as a free value. -/
def JetCtx.special (c : JetCtx) (sl : Slot) (code : Nat) : Int :=
  if code < 0x40 then (tabGet (fun _ => (0 : BitVec 40)) c.jet.w code).toInt
  else if code < 0x60 then (tabGet (fun _ => (0 : Word)) c.basin.inp (code - 0x40)).toInt
  else if code < 0x80 then (c.outPort (code - 0x60)).toInt
  else if code = 0x80 then 0
  else if code = 0x81 then 0x7FFFFFFF
  else if code = 0x82 then -0x80000000
  else if code = 0x84 then accView sl.r c.jet.a0.toInt
  else if code = 0x85 then accView sl.r c.jet.a1.toInt
  else if 0x88 ≤ code ∧ code ≤ 0x8F then ((c.jet.ptr (code - 0x88)).toNat : Int)
  else if code = 0x90 then (BitVec.ofNat 32 c.tcnt).toInt
  else if code = 0x91 then (c.cyc : Int)
  else if code = 0x92 then (c.rate : Int)
  else if code = 0x93 then ((c.basin.handle * 16 + c.j : Nat) : Int)
  else if code = 0x94 then (c.jet.flags.bits : Int)
  else if 0xA0 ≤ code ∧ code ≤ 0xBE then ((0x40000000 / 2 ^ (code - 0xA0) : Nat) : Int)
  else if 0xC0 ≤ code ∧ code ≤ 0xDF then ((code - 0xBF : Nat) : Int)
  else if 0xE0 ≤ code ∧ code ≤ 0xFF then -((code - 0xDF : Nat) : Int)
  else (Config.reservedOperand code c.free).toInt

/-- A source operand read in cycle `cyc`. -/
def JetCtx.readAt (c : JetCtx) (sl : Slot) (cyc code : Nat) : Int :=
  match c.srcAddr sl code with
  | some a => c.pool cyc a
  | none => c.special sl code

/-- A source operand read in the first cycle of the slot word (R111). -/
def JetCtx.read (c : JetCtx) (sl : Slot) (code : Nat) : Int := c.readAt sl c.cyc code

/-- A destination that the opcode also reads (PEAK, RMSACC). -/
def JetCtx.readDst (c : JetCtx) (sl : Slot) : Int :=
  match c.dstAddr sl sl.dst with
  | some a => c.pool c.cyc a
  | none => c.special sl sl.dst

/-- S is set when `on` holds; it is sticky (R110). -/
def JetCtx.sticky (c : JetCtx) (on : Bool) : JetCtx :=
  if on then { c with jet := { c.jet with flags := { c.jet.flags with s := true } } } else c

/-- A multiplier operand: saturated to 32 bits, which sets S (R106). -/
def mulSat (x : Int) : Int := satTo 32 x

/-- The product as it enters an accumulator, in Q10.62: with a Q2.30 coefficient shifted left one place (R107). -/
def product (sl : Slot) (x y : Int) : Int := if sl.m = 0 then mulSat x * mulSat y else mulSat x * mulSat y * 2

/-- A product operand was wider than 32 bits. -/
def mulWide (x y : Int) : Bool := mulSat x != x || mulSat y != y

/-! ### Storing a result (R105, R109) -/

/-- W register `n` replaced. -/
def JetCtx.setW (c : JetCtx) (n : Nat) (v : BitVec 40) : JetCtx :=
  { c with jet := { c.jet with w := tabPut (fun _ => (0 : BitVec 40)) c.jet.w n v } }

/-- The arithmetic group, MAC to SAT (R113); it wraps a pointer that is both SRA and DST (R114). -/
def Slot.arith (sl : Slot) : Bool := 0x08 ≤ sl.op && sl.op ≤ 0x12

/-- What a store wrote: the value in the destination's stored format (R110). -/
structure Stored where
  ctx : JetCtx
  value : Int

/-- The place of a result within a pool word: Q1.31, or Q2.30 under M2 (R107, R109). -/
def poolFormat (sl : Slot) (v : Int) : Int := if sl.m = 2 then shiftRight sl.r v 1 else v

/-- A result of Q9.31 `v` stored to DST in cycle `cyc` (R109). `raw` leaves out the shift of M2 (LOG2, R119). A
destination that the load would have refused, which only a raw window can bring in, stores nothing. -/
def JetCtx.store (c : JetCtx) (sl : Slot) (cyc : Nat) (v : Int) (raw : Bool) : Stored :=
  match c.dstAddr sl sl.dst with
  | some a =>
    let x := if raw then v else poolFormat sl v
    let y := satTo 32 x
    ⟨(c.sticky (y != x)).write cyc a (BitVec.ofInt 32 y), y⟩
  | none =>
    let y := satTo 40 v
    if sl.dst < 0x40 then
      ⟨(c.sticky (y != v)).setW sl.dst (BitVec.ofInt 40 y), y⟩
    else if sl.dst = 0x84 then ⟨{ c with jet := { c.jet with a0 := BitVec.ofInt 72 (y * 2 ^ 31) } }, y⟩
    else if sl.dst = 0x85 then ⟨{ c with jet := { c.jet with a1 := BitVec.ofInt 72 (y * 2 ^ 31) } }, y⟩
    else if 0x88 ≤ sl.dst ∧ sl.dst ≤ 0x8F then
      let n := sl.dst - 0x88
      let old := c.jet.ptr n
      let low := (BitVec.ofInt 32 v).toNat
      let w := if sl.sra = sl.dst && sl.arith then
          ptrWord (old.toNat / 65536 * 65536 + (ptrEff old ((low : Int) - (old.toNat : Int)) % 32768).toNat)
        else ptrWord low
      ⟨{ c with jet := c.jet.setPtr n w }, (w.toNat : Int)⟩
    else if sl.dst = 0x94 then ⟨{ c with jet := { c.jet with flags := flagsOf (v % 16).toNat } }, y⟩
    else ⟨c, y⟩

end Sys2Proof.Machine
end

