-- ==== Sys2Proof/Machine/Flags.lean ====
section
/-! DEFINITION. The condition flags and the accumulator results (06_slot_words.md, R109, R110, R114). -/

namespace Sys2Proof.Machine

/-- Saturation at the 72-bit limits of an accumulator, and whether it acted. -/
def satAcc (x : Int) : Int × Bool := (satTo 72 x, satTo 72 x != x)

/-- A result on its way to DST: its value, whether a limit of 72 or 40 bits acted (R110: V), and whether that of 40 bits
did, which a W register or a pool word stores as a saturated value (R109: S). -/
structure SlotResult where
  value : Int
  ovf : Bool
  cut : Bool
deriving DecidableEq, Repr

/-- A result of a 40-bit operation, saturated at the 40-bit limits (R114). -/
def aluResult (v : Int) : SlotResult := ⟨satTo 40 v, satTo 40 v != v, satTo 40 v != v⟩

/-- An accumulator result (R109): shifted by the signed count `sh`, saturating at 72 bits, then its Q9.31 view. A right
shift drops bits that the view's rounding covers. DESIGN CHOICE: a view that saturates at 40 bits sets V for a pool word
too; R110 names the limits of a W register. -/
def accResult (sl : Slot) (acc : Int) (sh : Int) : SlotResult :=
  let x := if 0 ≤ sh then satAcc (acc * 2 ^ sh.toNat) else (acc, false)
  let y := aluResult (shiftRight sl.r x.1 (31 + (-sh).toNat))
  { y with ovf := x.2 || y.ovf }

/-- A result stored to DST in cycle `cyc`; one cut at 40 bits on its way to a W register or a pool word sets S. -/
def JetCtx.storeResult (c : JetCtx) (sl : Slot) (cyc : Nat) (r : SlotResult) : Stored :=
  (c.sticky (r.cut && (decide (sl.dst < 0x40) || (c.dstAddr sl sl.dst).isSome))).store sl cyc r.value false

/-- Z, N and V after an arithmetic slot word that stored `value`; S stays (R110). -/
def JetFlags.arith (f : JetFlags) (value : Int) (v : Bool) : JetFlags := { f with v := v, n := decide (value < 0), z := decide (value = 0) }

/-- The flags replaced. -/
def JetCtx.setFlags (c : JetCtx) (f : JetFlags) : JetCtx := { c with jet := { c.jet with flags := f } }

/-- A result of the arithmetic group: stored, with its flags; with DST = FLAGS the bits written stand (R110). -/
def JetCtx.arith (c : JetCtx) (sl : Slot) (r : SlotResult) : JetCtx :=
  let st := c.storeResult sl c.cyc r
  if sl.dst = 0x94 then st.ctx else st.ctx.setFlags (st.ctx.jet.flags.arith st.value r.ovf)

/-- Accumulator 0 or 1. -/
def Jet.acc (x : Jet) (i : Nat) : Int := if i = 0 then x.a0.toInt else x.a1.toInt

/-- Accumulator 0 or 1 replaced. -/
def JetCtx.setAcc (c : JetCtx) (i : Nat) (v : Int) : JetCtx :=
  if i = 0 then { c with jet := { c.jet with a0 := BitVec.ofInt 72 v } } else { c with jet := { c.jet with a1 := BitVec.ofInt 72 v } }

end Sys2Proof.Machine
end

