-- ==== Sys2Proof/Machine/Slots.lean ====
section
/-! DEFINITION. The slot words (06_slot_words.md, R113 to R124): what each opcode does to a jet, and the rows that execute
one slot word. -/

namespace Sys2Proof.Machine

/-! ### Costs (R113) -/

/-- The opcodes of the table. -/
def knownOp (op : Nat) : Bool :=
  [0x00, 0x01, 0x02, 0x08, 0x09, 0x0A, 0x0B, 0x0C, 0x0D, 0x0E, 0x0F, 0x10, 0x11, 0x12, 0x20, 0x21, 0x28, 0x30, 0x31, 0x32,
   0x33, 0x38, 0x39, 0x40, 0x48, 0x49, 0x50].elem op

/-- FAB cycles of a slot word (R113); a reserved OP runs as NOP. -/
def slotCost (sl : Slot) : Nat :=
  if sl.op = 0x21 then sl.aux + 1
  else if sl.op = 0x28 ∨ sl.op = 0x30 ∨ sl.op = 0x31 ∨ sl.op = 0x33 ∨ sl.op = 0x40 then 2
  else 1

/-! ### The arithmetic group (R114) -/

/-- SH of MAC, MSU and MUL: AUX[7:2], signed. -/
def Slot.sh (sl : Slot) : Int := sext 6 (sl.aux / 4)

/-- MAC and MSU: the accumulator of AUX[0], cleared first by AUX[1], plus `sign` times the product. -/
def slotMac (sign : Int) (sl : Slot) (c : JetCtx) : JetCtx :=
  let i := sl.aux % 2
  let x := c.read sl sl.sra
  let y := c.read sl sl.srb
  let old := if sl.aux / 2 % 2 = 1 then 0 else c.jet.acc i
  let acc := satAcc (old + sign * product sl x y)
  let res := accResult sl acc.1 sl.sh
  ((c.sticky (mulWide x y)).setAcc i acc.1).arith sl { res with ovf := acc.2 || res.ovf }

/-- MUL: the product in a temporary accumulator. -/
def slotMul (sl : Slot) (c : JetCtx) : JetCtx :=
  let x := c.read sl sl.sra
  let y := c.read sl sl.srb
  (c.sticky (mulWide x y)).arith sl (accResult sl (product sl x y) sl.sh)

/-- A 40-bit operation: the exact result, saturated at the 40-bit limits. -/
def slotAlu (f : Int → Int → Int) (sl : Slot) (c : JetCtx) : JetCtx :=
  c.arith sl (aluResult (f (c.read sl sl.sra) (c.read sl sl.srb)))

/-- ABS. -/
def slotAbs (sl : Slot) (c : JetCtx) : JetCtx :=
  c.arith sl (aluResult (c.read sl sl.sra).natAbs)

/-- SHL and SHR: in place on an accumulator, with Z, N and V of the 72-bit value, or on SRA as a 40-bit value. DESIGN
CHOICE: the bits that SHR drops are dropped whatever MOD.R is; R107 gives R for products and conversions. -/
def slotShift (left : Bool) (sl : Slot) (c : JetCtx) : JetCtx :=
  let n := sl.aux % 64
  if sl.aux / 64 % 2 = 1 then
    let i := sl.aux / 128 % 2
    let v := if left then satAcc (c.jet.acc i * 2 ^ n) else (c.jet.acc i / 2 ^ n, false)
    (c.setAcc i v.1).setFlags (c.jet.flags.arith v.1 v.2)
  else
    let x := c.read sl sl.sra
    c.arith sl (aluResult (if left then x * 2 ^ n else x / 2 ^ n))

/-- SAT: SRA saturated to the store format; that sets S alone (R110). -/
def slotSat (sl : Slot) (c : JetCtx) : JetCtx :=
  let x := c.read sl sl.sra
  let y := satTo (if sl.m = 2 then 33 else 32) x
  (c.sticky (y != x)).arith sl ⟨y, false, false⟩

/-! ### Control (R89, R115) -/

/-- TICKEND ends the cascade for this tick. -/
def slotTickend (c : JetCtx) : JetCtx := { c with jet := { c.jet with ended := true } }

/-- The condition of SKIP holds (R115). -/
def skipWhen (cond : Nat) (f : JetFlags) (tcnt : Nat) : Bool :=
  match cond with
  | 0 => true
  | 1 => f.z
  | 2 => !f.z
  | 3 => f.n
  | 4 => !f.n
  | 5 => f.v
  | 6 => f.s
  | 7 => !f.s
  | j => tcnt % 2 ^ (j - 7) != 0

/-- SKIP. -/
def slotSkip (sl : Slot) (c : JetCtx) : JetCtx :=
  if skipWhen (sl.aux / 16) c.jet.flags c.tcnt then { c with jet := { c.jet with skip := sl.aux % 16 + 1 } } else c

/-! ### Macros (R116 to R119) -/

/-- One step of a biquad (R116). -/
def slotBq (sl : Slot) (c : JetCtx) : JetCtx :=
  let step := sl.aux % 8
  let x := c.read sl sl.sra
  let y := c.read sl sl.srb
  let p := product sl x y
  let acc := if step < 2 then c.read sl sl.src * 2 ^ 31 + p else if step = 3 then p else c.jet.acc 1 - p
  let acc := (satAcc acc).1
  let c := (c.sticky (mulWide x y)).setAcc (if step = 0 then 0 else 1) acc
  (c.storeResult sl c.cyc (accResult sl acc 0)).ctx

/-- The taps of FIRT from tap `i` on: `n` of them, one a cycle; the accumulator and whether an operand was too wide. -/
def firTaps (sl : Slot) (c : JetCtx) (pd pc : Word) : Nat → Nat → Int → Int
  | 0, _, acc => acc
  | n + 1, i, acc =>
    let x := c.pool (c.cyc + i) (ptrEff pd (-(i : Int)))
    let y := c.pool (c.cyc + i) (ptrEff pc i)
    firTaps sl c pd pc n (i + 1) (satAcc (acc + product sl x y)).1

/-- FIRT (R117): Pd is advanced one place within its region at the end. -/
def slotFirt (sl : Slot) (c : JetCtx) : JetCtx :=
  let pd := c.jet.ptr (sl.sra % 8)
  let pc := c.jet.ptr (sl.srb % 8)
  let i := sl.src % 2
  let acc := firTaps sl c pd pc (sl.aux + 1) 0 (if sl.src / 2 % 2 = 1 then 0 else c.jet.acc i)
  let next := ptrWord (pd.toNat / 65536 * 65536 + (ptrEff pd 1 % 32768).toNat)
  let c := c.setAcc i acc
  let c := { c with jet := c.jet.setPtr (sl.sra % 8) next }
  (c.storeResult sl (c.cyc + sl.aux) (accResult sl acc 0)).ctx

/-- RAMP (R118): g′ to SRC in the first cycle, x·g′ to DST in the second. -/
def slotRamp (sl : Slot) (c : JetCtx) : JetCtx :=
  let x := c.read sl sl.sra
  let target := c.read sl sl.srb
  let g := c.read sl sl.src
  let d := shiftRight sl.r (target - g) (sl.aux % 32)
  let g0 := if d = 0 then target else g + d
  let g' := satTo 32 g0
  let c := match c.srcAddr sl sl.src with
    | some a => c.write c.cyc a (BitVec.ofInt 32 g')
    | none => c
  let c := c.sticky (g' != g0 || mulWide x g')
  (c.storeResult sl (c.cyc + 1) (accResult sl (product sl x g') 0)).ctx

/-- The fraction bits of log2 of a mantissa `x` in [2^62, 2^63), most significant first. -/
def logBits : Nat → Nat → Nat → Nat
  | 0, _, v => v
  | n + 1, x, v =>
    let y := x * x / 2 ^ 62
    if 2 ^ 63 ≤ y then logBits n (y / 2) (2 * v + 1) else logBits n y (2 * v)

/-- log2 of a magnitude m / 2^31 in Q6.26, truncated. -/
def log2Q (m : Nat) : Int :=
  let k := Nat.log2 m
  ((k : Int) - 31) * 2 ^ 26 + (logBits 26 (m * 2 ^ 62 / 2 ^ k) 0 : Nat)

/-- A free whole number from `lo` to `hi`. -/
def freeFrom (f : Nat) (lo hi : Int) : Int := lo + (((Config.free f).toNat % (hi - lo + 1).toNat : Nat) : Int)

/-- LOG2 (R119): accurate to ±2^-22, that is 16 units; within that the value is free. The exact logarithm of a power of two
is a whole number of units, and that of any other magnitude lies between the truncated one and the next. -/
def slotLog2 (sl : Slot) (c : JetCtx) : JetCtx :=
  let m := (c.read sl sl.sra).natAbs
  let v := if m = 0 then -0x80000000
    else freeFrom c.free (log2Q m - (if m = 2 ^ Nat.log2 m then 16 else 15)) (log2Q m + 16)
  let c := { c with free := c.free + 1 }
  (c.store sl (c.cyc + 1) v true).ctx

/-- 2^(2^-i) in units of 2^-62, for i = 1 to 26. -/
def expRoots : List Nat :=
  [0x5A827999FCEF3242, 0x4C1BF828C6DC54B8, 0x45CAE0F1F545EB73, 0x42D561B3E6243D8A, 0x4166C34C5615D0EC,
   0x40B268F9DE0183BA, 0x4058F6A7ECCCD5B6, 0x402C6BE96AF2FB58, 0x4016321B687027A8, 0x400B18178BA33B14,
   0x40058BCE410147E8, 0x4002C5D7BFF71DAF, 0x400162E807EE7E5B, 0x4000B1730DF6A524, 0x400058B9497B8152,
   0x40002C5C955DD701, 0x4000162E46D6F26C, 0x40000B1722757B1B, 0x4000058B90FD3E0C, 0x400002C5C86F3F26,
   0x40000162E433C79B, 0x400000B17218EDD0, 0x40000058B90C3968, 0x4000002C5C860D54, 0x400000162E4302D2,
   0x4000000B17218073]

/-- 2^(f / 2^26) in units of 2^-62: the product of the roots of f's bits. -/
def expFrac (f : Nat) : Nat :=
  ((List.range 26).zip expRoots).foldl (fun a ir => if f / 2 ^ (25 - ir.1) % 2 = 1 then a * ir.2 / 2 ^ 62 else a) (2 ^ 62)

/-- What EXP2 may give for an exact value of `e` units of 2^-62 (R119): the whole units of 2^-31 within the relative
accuracy of 2^-24, and the two between which the exact value lies. -/
def exp2Low (e : Nat) : Nat := min (e / 2 ^ 31) ((e - e / 2 ^ 24 + 2 ^ 31 - 1) / 2 ^ 31)
def exp2High (e : Nat) : Nat := min 0x7FFFFFFF (max ((e + 2 ^ 31 - 1) / 2 ^ 31) ((e + e / 2 ^ 24) / 2 ^ 31))

/-- EXP2 (R119): accurate to a relative 2^-24; within that the value is free. -/
def slotExp2 (sl : Slot) (c : JetCtx) : JetCtx :=
  let x0 := c.read sl sl.sra
  let x := satTo 32 x0
  let c := c.sticky (x != x0)
  let c' := { c with free := c.free + 1 }
  if 0 ≤ x then ((c'.sticky true).store sl (c.cyc + 1) 0x7FFFFFFF false).ctx
  else if x < -31 * 2 ^ 26 then (c'.store sl (c.cyc + 1) 0 false).ctx
  else
    let e : Nat := expFrac (x % 2 ^ 26).toNat / 2 ^ (-(x / 2 ^ 26)).toNat
    (c'.store sl (c.cyc + 1) (freeFrom c.free (exp2Low e) (exp2High e)) false).ctx

/-- PEAK (R119): the state word is DST. -/
def slotPeak (sl : Slot) (c : JetCtx) : JetCtx :=
  let s := c.readDst sl
  let k := c.read sl sl.srb
  let decay := (accResult sl (product sl s k) 0).value
  ((c.sticky (mulWide s k)).store sl c.cyc (max (c.read sl sl.sra).natAbs decay) false).ctx

/-- RMSACC (R119): the state word is DST; one rounding. -/
def slotRmsacc (sl : Slot) (c : JetCtx) : JetCtx :=
  let x := c.read sl sl.sra
  let s := c.readDst sl
  let d := mulSat x * mulSat x - s * 2 ^ 31
  let v := s + shiftRight sl.r d (31 + sl.aux % 32)
  ((c.sticky (mulWide x x)).store sl (c.cyc + 1) v false).ctx

/-! ### Delay lines (R98, R120) -/

/-- A delay line of a descriptor: k and base word, if it is well formed and inside the basin data region. -/
def lineOf (d : Nat) : Option (Nat × Nat) :=
  let k := d / 2 ^ 27 % 32
  let base := d % 2 ^ 22
  if 4 ≤ k && k ≤ 20 && base % 2 ^ k == 0 && base + 2 ^ k ≤ 0x300000 then some (k, base) else none

/-- The first turn of jet `j` of basin `b` at or after cycle `c` (R98). -/
def turnFrom (b j c : Nat) : Nat := c + (b + 16 * j + 64 - c % 64) % 64

/-- The turn of the next access that the jet issues. -/
def JetCtx.nextTurn (c : JetCtx) (b : Nat) : Nat :=
  turnFrom b c.j (match c.jet.queue.getLast? with
    | some e => max (c.cyc + 1) (e.turn + 1)
    | none => c.cyc + 1)

def JetCtx.enqueue (c : JetCtx) (e : JetAccess) : JetCtx := { c with jet := { c.jet with queue := c.jet.queue ++ [e] } }

/-- Word `w` lies in a carried region that this basin no longer writes (R156). -/
def Basin.carries (b : Basin) (w : Nat) : Bool := b.carried.any fun r => r.base ≤ 8 * w && 8 * w < r.base + r.len

/-- DLW (R120). DESIGN CHOICE: both samples are stored in Q1.31 under M2 too, as R120 says of DLW; R107 and R109 give
the cistern Q2.30 there. -/
def slotDlw (b : Nat) (sl : Slot) (c : JetCtx) : JetCtx :=
  let x := c.read sl sl.sra
  let y := c.read sl sl.srb
  let line := lineOf (c.read sl sl.src % 2 ^ 32).toNat
  let word := match line with
    | some (k, base) =>
      let w := base + c.tcnt % 2 ^ k
      if c.basin.carries w then none else some w
    | none => none
  let v : DWord := BitVec.ofNat 64 ((BitVec.ofInt 32 (satTo 32 x)).toNat * 2 ^ 32 + (BitVec.ofInt 32 (satTo 32 y)).toNat)
  (c.sticky (mulWide x y)).enqueue { write := true, word := word, value := v, turn := c.nextTurn b }

/-- DLR (R120): integer delay in SRA[31:12], fraction in [11:0]. -/
def slotDlr (b : Nat) (sl : Slot) (c : JetCtx) : JetCtx :=
  let d := (c.read sl sl.sra % 2 ^ 32).toNat
  let word := match lineOf (c.read sl sl.src % 2 ^ 32).toNat with
    | some (k, base) => some (base + (((c.tcnt : Int) - (d / 4096 : Nat)) % 2 ^ k).toNat)
    | none => none
  c.enqueue { write := false, word := word, frac := d % 4096, round := sl.r, dst := some sl.dst, turn := c.nextTurn b }

/-- The interpolated value of a fetched sample pair (R120). -/
def lineValue (w : DWord) (frac : Nat) (round : Bool) : Int :=
  let x0 := (BitVec.ofNat 32 (w.toNat / 2 ^ 32)).toInt
  let x1 := (BitVec.ofNat 32 w.toNat).toInt
  x0 + shiftRight round ((frac : Int) * (x1 - x0)) 12

/-! ### Tables, ports and meters (R122 to R124) -/

/-- TBL (R122). DESIGN CHOICE: an operand wider than 32 bits is saturated and sets S where it is signed, and gives its low
32 bits where it is unsigned. With an undefined table, which only a raw window can bring in, nothing is stored. -/
def slotTbl (sl : Slot) (c : JetCtx) : JetCtx :=
  match c.basin.tables.find? fun d => d.t == sl.aux % 32 with
  | none => c
  | some d =>
    let x := c.read sl sl.sra
    let c := c.sticky (sl.aux / 32 % 2 = 0 && satTo 32 x != x)
    let u : Nat := if sl.aux / 32 % 2 = 1 then (x % 2 ^ 32).toNat else (satTo 32 x + 2 ^ 31).toNat
    let num : Nat := u * (d.len - 1)
    let i : Nat := num / 2 ^ 32
    let rem : Nat := num % 2 ^ 32
    let e0 := c.pool (c.cyc + 1) ((d.a + min i (d.len - 1) : Nat) : Int)
    let e1 := c.pool (c.cyc + 1) ((d.a + min (i + 1) (d.len - 1) : Nat) : Int)
    let v := e0 * 2 ^ 32 + (if sl.aux / 64 % 2 = 1 then (e1 - e0) * (rem : Int) else 0)
    let v := if sl.m = 0 then v else 2 * v
    (c.store sl (c.cyc + 1) (shiftRight sl.r v 32) false).ctx

/-- RIN (R123). -/
def slotRin (sl : Slot) (c : JetCtx) : JetCtx :=
  (c.store sl c.cyc ((tabGet (fun _ => (0 : Word)) c.basin.inp (sl.aux % 32)).toInt * 2 ^ (sl.aux / 32)) false).ctx

/-- ROUT (R123): Q1.31 in every mode. -/
def slotRout (sl : Slot) (c : JetCtx) : JetCtx :=
  let x := shiftRight sl.r (c.read sl sl.sra) (sl.aux / 32)
  let y := satTo 32 x
  let c := c.sticky (y != x)
  { c with basin := { c.basin with writes := ⟨c.cyc, c.j, 65536 + sl.aux % 32, BitVec.ofInt 32 y⟩ :: c.basin.writes } }

/-- METER (R124). -/
def slotMeter (sl : Slot) (c : JetCtx) : JetCtx :=
  let x := min (c.read sl sl.sra).natAbs 0x7FFFFFFF
  let m := tabGet (fun _ => ({} : MeterWin)) c.basin.meters (sl.aux % 32)
  let m := { m with w := sl.aux / 32 + 1, peak := max m.peak x, clip := m.clip || x == 0x7FFFFFFF }
  { c with basin := { c.basin with meters := tabPut (fun _ => ({} : MeterWin)) c.basin.meters (sl.aux % 32) m } }

/-! ### One slot word -/

/-- What the opcode does (R113); a reserved OP does nothing. -/
def runOp (b : Nat) (sl : Slot) (c : JetCtx) : JetCtx :=
  match sl.op with
  | 0x01 => slotTickend c
  | 0x02 => slotSkip sl c
  | 0x08 => slotMac 1 sl c
  | 0x09 => slotMac (-1) sl c
  | 0x0A => slotMul sl c
  | 0x0B => slotAlu (· + ·) sl c
  | 0x0C => slotAlu (· - ·) sl c
  | 0x0D => slotAbs sl c
  | 0x0E => slotAlu min sl c
  | 0x0F => slotAlu max sl c
  | 0x10 => slotShift true sl c
  | 0x11 => slotShift false sl c
  | 0x12 => slotSat sl c
  | 0x20 => slotBq sl c
  | 0x21 => slotFirt sl c
  | 0x28 => slotRamp sl c
  | 0x30 => slotLog2 sl c
  | 0x31 => slotExp2 sl c
  | 0x32 => slotPeak sl c
  | 0x33 => slotRmsacc sl c
  | 0x38 => slotDlw b sl c
  | 0x39 => slotDlr b sl c
  | 0x40 => slotTbl sl c
  | 0x48 => slotRin sl c
  | 0x49 => slotRout sl c
  | 0x50 => slotMeter sl c
  | _ => c

/-- A suppressed slot word: it writes nothing; a cistern access keeps its queue place (R115). -/
def runSkipped (b : Nat) (sl : Slot) (c : JetCtx) : JetCtx :=
  let c := { c with jet := { c.jet with skip := c.jet.skip - 1 } }
  if sl.op = 0x38 ∨ sl.op = 0x39 then c.enqueue { write := sl.op == 0x38, word := none, turn := c.nextTurn b } else c

def Basin.jet (x : Basin) (j : Nat) : Jet := tabGet (fun _ => {}) x.jets j

def Basin.setJet (x : Basin) (j : Nat) (t : Jet) : Basin := { x with jets := tabPut (fun _ => {}) x.jets j t }

/-- A cistern word of the data regions. -/
def State.cisWord (s : State) (w : Nat) : DWord := tabGet (fun _ => 0) s.fab.cis w

def State.setCisWord (s : State) (w : Nat) (v : DWord) : State := s.setFab { s.fab with cis := tabPut (fun _ => 0) s.fab.cis w v }

/-- The front access of a jet's queue is served at its turn (R98): a write takes effect, read data becomes readable 8
cycles later. -/
def State.serveFront (s : State) (b j : Nat) : State :=
  let x := (s.basin b).jet j
  match x.queue with
  | [] => s
  | e :: rest =>
    let x := { x with queue := rest }
    let s := match e.write, e.word with
      | true, some w => s.setCisWord w e.value
      | _, _ => s
    let x := match e.dst with
      | some d => { x with deliver := x.deliver ++
          [⟨d, BitVec.ofInt 40 (match e.word with
            | some w => lineValue (s.cisWord w) e.frac e.round
            | none => 0), e.turn + 8⟩] }
      | none => x
    s.setBasin b ((s.basin b).setJet j x)

/-- Every access of the jet whose turn is at or before cycle `cyc` is served; `n` bounds the queue. -/
def State.serveUntil (s : State) (b j cyc : Nat) : Nat → State
  | 0 => s
  | n + 1 =>
    match ((s.basin b).jet j).queue with
    | e :: _ => if e.turn ≤ cyc then (s.serveFront b j).serveUntil b j cyc n else s
    | [] => s

/-- DLR data readable by cycle `cyc` reaches its W register. -/
def Jet.receive (x : Jet) (cyc : Nat) : Jet :=
  let now := x.deliver.filter fun d => d.ready ≤ cyc
  { x with deliver := x.deliver.filter (fun d => !(d.ready ≤ cyc))
           w := now.foldl (fun w d => if d.dst < 64 then tabPut (fun _ => (0 : BitVec 40)) w d.dst d.value else w) x.w }

/-- The next slot word of jet `j` of basin `b`. -/
def State.nextWord (s : State) (b j : Nat) : DWord :=
  let x := s.basin b
  tabGet (fun _ => (0 : DWord)) x.cascade (j * 16384 + (x.jet j).slot)

/-- One slot word of jet `j` of basin `b`, whose effect is `f`: the accesses due are served, DLR data arrives, the word acts
or is suppressed, and the jet goes on to the next slot after the word's cycles (R84, R111, R115). -/
def State.runWord (s : State) (b j : Nat) (f : Slot → JetCtx → JetCtx) : State :=
  let sl := slotOf (s.nextWord b j)
  let cyc := ((s.basin b).jet j).cycle
  let s := s.serveUntil b j cyc ((s.basin b).jet j).queue.length
  let x := s.basin b
  let c : JetCtx := { basin := x, j := j, jet := (x.jet j).receive cyc, cyc := cyc, tcnt := s.tick.count.toNat % 2 ^ 32,
                      rate := s.rate, free := s.free }
  let c := if 0 < c.jet.skip then runSkipped b sl c else f sl c
  let c := { c with jet := { c.jet with slot := c.jet.slot + 1, cycle := cyc + slotCost sl } }
  { s.setBasin b (c.basin.setJet j c.jet) with free := c.free }

/-- The last cycle of the next slot word of a jet. -/
def State.wordEnd (s : State) (b j : Nat) : Nat := ((s.basin b).jet j).cycle + slotCost (slotOf (s.nextWord b j)) - 1

/-- The place of the next slot word of a jet in the order of execution: by its last cycle, and where two end in one cycle a
RAMP first, since it alone writes in its first cycle (R118). -/
def State.wordPlace (s : State) (b j : Nat) : Nat :=
  2 * s.wordEnd b j + (if (slotOf (s.nextWord b j)).op = 0x28 then 0 else 1)

/-- The next slot word of jet `j` is the next to execute in its basin, inside the slot period: no other running jet of the
basin has one that comes before it, so every earlier write is known (R87). -/
def State.wordNext (s : State) (b j : Nat) : Bool :=
  !((s.basin b).jet j).ended && s.ticksRun && s.works .fab && decide (s.wordEnd b j < usableSlots s.rate) &&
    (List.range 4).all fun i => ((s.basin b).jet i).ended || decide (s.wordPlace b j ≤ s.wordPlace b i)

/-- A row that executes one slot word: it acts when the next word of the jet has an opcode of the row (or is suppressed,
which any opcode can be) and is next to finish. -/
def State.slotRow (s : State) (b j : Nat) (ops : Nat → Bool) (f : Slot → JetCtx → JetCtx) : State :=
  if s.wordNext b j && ops (slotOf (s.nextWord b j)).op then s.runWord b j f else s

/-- The rest of the slot period of basin `b`: its jets run until each has ended or reaches the weir. -/
def State.runBasin (s : State) (b : Nat) : Nat → State
  | 0 => s
  | n + 1 =>
    match (List.range 4).find? fun j => s.wordNext b j with
    | some j => (s.runWord b j (runOp b)).runBasin b n
    | none => s

/-! ### Commands: one slot word each -/

/-- NOP (R113; a reserved OP runs as NOP). -/
def execNop (b : Fin 10) (j : Fin 4) (s : State) : Host.Outcome State Fault Refusal := .next (s.slotRow b j (fun op => op == 0 || !knownOp op) (fun _ c => c))

/-- TICKEND (R89). -/
def execTickend (b : Fin 10) (j : Fin 4) (s : State) : Host.Outcome State Fault Refusal := .next (s.slotRow b j (· == 0x01) (fun _ c => slotTickend c))

/-- SKIP (R115). -/
def execSkip (b : Fin 10) (j : Fin 4) (s : State) : Host.Outcome State Fault Refusal := .next (s.slotRow b j (· == 0x02) (slotSkip))

/-- MAC (R114). -/
def execMac (b : Fin 10) (j : Fin 4) (s : State) : Host.Outcome State Fault Refusal := .next (s.slotRow b j (· == 0x08) (slotMac 1))

/-- MSU (R114). -/
def execMsu (b : Fin 10) (j : Fin 4) (s : State) : Host.Outcome State Fault Refusal := .next (s.slotRow b j (· == 0x09) (slotMac (-1)))

/-- MUL (R114). -/
def execMul (b : Fin 10) (j : Fin 4) (s : State) : Host.Outcome State Fault Refusal := .next (s.slotRow b j (· == 0x0A) (slotMul))

/-- ADD (R114). -/
def execAdd (b : Fin 10) (j : Fin 4) (s : State) : Host.Outcome State Fault Refusal := .next (s.slotRow b j (· == 0x0B) (slotAlu (· + ·)))

/-- SUB (R114). -/
def execSub (b : Fin 10) (j : Fin 4) (s : State) : Host.Outcome State Fault Refusal := .next (s.slotRow b j (· == 0x0C) (slotAlu (· - ·)))

/-- ABS (R114). -/
def execAbs (b : Fin 10) (j : Fin 4) (s : State) : Host.Outcome State Fault Refusal := .next (s.slotRow b j (· == 0x0D) (slotAbs))

/-- MIN (R114). -/
def execMin (b : Fin 10) (j : Fin 4) (s : State) : Host.Outcome State Fault Refusal := .next (s.slotRow b j (· == 0x0E) (slotAlu min))

/-- MAX (R114). -/
def execMax (b : Fin 10) (j : Fin 4) (s : State) : Host.Outcome State Fault Refusal := .next (s.slotRow b j (· == 0x0F) (slotAlu max))

/-- SHL (R114). -/
def execShl (b : Fin 10) (j : Fin 4) (s : State) : Host.Outcome State Fault Refusal := .next (s.slotRow b j (· == 0x10) (slotShift true))

/-- SHR (R114). -/
def execShr (b : Fin 10) (j : Fin 4) (s : State) : Host.Outcome State Fault Refusal := .next (s.slotRow b j (· == 0x11) (slotShift false))

/-- SAT (R113). -/
def execSat (b : Fin 10) (j : Fin 4) (s : State) : Host.Outcome State Fault Refusal := .next (s.slotRow b j (· == 0x12) (slotSat))

/-- BQ (R116). -/
def execBq (b : Fin 10) (j : Fin 4) (s : State) : Host.Outcome State Fault Refusal := .next (s.slotRow b j (· == 0x20) (slotBq))

/-- FIRT (R117). -/
def execFirt (b : Fin 10) (j : Fin 4) (s : State) : Host.Outcome State Fault Refusal := .next (s.slotRow b j (· == 0x21) (slotFirt))

/-- RAMP (R118). -/
def execRamp (b : Fin 10) (j : Fin 4) (s : State) : Host.Outcome State Fault Refusal := .next (s.slotRow b j (· == 0x28) (slotRamp))

/-- LOG2 (R119). -/
def execLog2 (b : Fin 10) (j : Fin 4) (s : State) : Host.Outcome State Fault Refusal := .next (s.slotRow b j (· == 0x30) (slotLog2))

/-- EXP2 (R119). -/
def execExp2 (b : Fin 10) (j : Fin 4) (s : State) : Host.Outcome State Fault Refusal := .next (s.slotRow b j (· == 0x31) (slotExp2))

/-- PEAK (R119). -/
def execPeak (b : Fin 10) (j : Fin 4) (s : State) : Host.Outcome State Fault Refusal := .next (s.slotRow b j (· == 0x32) (slotPeak))

/-- RMSACC (R119). -/
def execRmsacc (b : Fin 10) (j : Fin 4) (s : State) : Host.Outcome State Fault Refusal := .next (s.slotRow b j (· == 0x33) (slotRmsacc))

/-- DLW (R120). -/
def execDlw (b : Fin 10) (j : Fin 4) (s : State) : Host.Outcome State Fault Refusal := .next (s.slotRow b j (· == 0x38) (slotDlw b))

/-- DLR (R120). -/
def execDlr (b : Fin 10) (j : Fin 4) (s : State) : Host.Outcome State Fault Refusal := .next (s.slotRow b j (· == 0x39) (slotDlr b))

/-- TBL (R122). -/
def execTbl (b : Fin 10) (j : Fin 4) (s : State) : Host.Outcome State Fault Refusal := .next (s.slotRow b j (· == 0x40) (slotTbl))

/-- RIN (R123). -/
def execRin (b : Fin 10) (j : Fin 4) (s : State) : Host.Outcome State Fault Refusal := .next (s.slotRow b j (· == 0x48) (slotRin))

/-- ROUT (R123). -/
def execRout (b : Fin 10) (j : Fin 4) (s : State) : Host.Outcome State Fault Refusal := .next (s.slotRow b j (· == 0x49) (slotRout))

/-- METER (R124). -/
def execMeter (b : Fin 10) (j : Fin 4) (s : State) : Host.Outcome State Fault Refusal := .next (s.slotRow b j (· == 0x50) (slotMeter))

end Sys2Proof.Machine
end

