-- ==== Sys2Proof/Machine/Fabric.lean ====
section
/-! DEFINITION. Basins, handles, fit, the cistern and its errors (05_basins_and_jets.md), hand-over, coefficient pages,
hold and relocation (08_live_reconfiguration.md). -/

namespace Sys2Proof.Machine

/-- FAB_HOh_STAT.STATE. -/
abbrev hoIDLE : Nat := 0
abbrev hoLOADING : Nat := 1
abbrev hoPENDING : Nat := 2
abbrev hoFADING : Nat := 3

def State.chan (s : State) (h : Nat) : HandOver := tabGet (fun _ => {}) s.fab.chans h

def State.setChan (s : State) (h : Nat) (c : HandOver) : State := s.setFab { s.fab with chans := tabPut (fun _ => {}) s.fab.chans h c }

def State.shelf (s : State) (L : Nat) : Shelf := tabGet (fun _ => {}) s.fab.shelf L

def State.setShelf (s : State) (L : Nat) (x : Shelf) : State := s.setFab { s.fab with shelf := tabPut (fun _ => {}) s.fab.shelf L x }

def State.hoState (s : State) (h : Nat) : Nat := s.get (Reg.FAB_HO_STAT.STATE h)

/-- The basin that handle `L` is mapped to (R81). -/
def State.mapped (s : State) (L : Nat) : Option Nat := if s.bit (Reg.FAB_MAP.EN L) then some (s.get (Reg.FAB_MAP.PHYS L)) else none

/-- The handle mapped to basin `b`, if any. -/
def State.handleOf (s : State) (b : Nat) : Option Nat := (List.range 10).find? fun L => s.mapped L == some b

/-- The device is field-locked (R428). -/
def State.fieldLocked (s : State) : Bool := s.bit Reg.SEC_STAT.LOCKED

/-- The channel in which basin `b` is the old basin of a fade, or the new or old basin of a pending hand-over. -/
def State.chanWhere (_s : State) (f : Nat → Bool) : Option Nat := (List.range 4).find? f

/-- The basin's jets run in the coming tick (R79, R152, R160): RUNNING, or the old basin of a fade whose new basin runs, where
the old one was not held before its hand-over. -/
def State.basinRuns (s : State) (b : Nat) : Bool :=
  s.basinState b == bsRUNNING ||
  (s.basinState b == bsREADY && (List.range 4).any fun h =>
    s.hoState h == hoFADING && s.get (Reg.FAB_HO_CTL.OLD h) == b && s.get (Reg.FAB_HO_STAT.LEFT h) != 0 &&
    !s.bit (Reg.FAB_B_CTL.HOLD b) && s.basinState (s.get (Reg.FAB_HO_CTL.NEW h)) == bsRUNNING)

/-! ### Fit (R27, R28, R91, R121) -/

/-- The cost of a cascade from slot `i` of jet `j`: cycles up to and including the first TICKEND; `n` bounds the search. -/
def cascadeCost (m : Tab DWord) (j : Nat) : Nat → Nat → Nat
  | 0, _ => 0
  | n + 1, i =>
    let sl := slotOf (tabGet (fun _ => (0 : DWord)) m (j * 16384 + i))
    if sl.op = 0x01 then 1 else slotCost sl + cascadeCost m j n (i + 1)

/-- The cost of jet `j` of what a section loads; a jet without slot words costs 0 (R89). -/
def BasinImage.cost (x : BasinImage) (j : Nat) : Nat := cascadeCost x.cascade j (x.nslot.getD j 0) 0

/-- The operand codes that a slot word reads and writes, of those below 64: its W registers (for R121). -/
def Slot.usesW (sl : Slot) : List Nat :=
  let codes := match sl.op with
    | 0x08 | 0x09 | 0x0A | 0x0B | 0x0C | 0x0E | 0x0F => [sl.sra, sl.srb, sl.dst]
    | 0x0D | 0x12 => [sl.sra, sl.dst]
    | 0x10 | 0x11 => if sl.aux / 64 % 2 = 1 then [] else [sl.sra, sl.dst]
    | 0x20 => if sl.aux % 8 < 2 then [sl.sra, sl.srb, sl.src, sl.dst] else [sl.sra, sl.srb, sl.dst]
    | 0x21 => [sl.dst]
    | 0x28 => [sl.sra, sl.srb, sl.src, sl.dst]
    | 0x30 | 0x31 | 0x33 | 0x40 => [sl.sra, sl.dst]
    | 0x32 => [sl.sra, sl.srb, sl.dst]
    | 0x38 => [sl.sra, sl.srb, sl.src]
    | 0x39 => [sl.sra, sl.src, sl.dst]
    | 0x48 => [sl.dst]
    | 0x49 | 0x50 => [sl.sra]
    | _ => []
  codes.filter (· < 64)

/-- The static walk of one jet (R121): true when it keeps the schedule. `served` lists the service cycles so far, `last`
the newest, `ready` the DLR destinations with their data-ready cycles, `limit` weir cycle 127. -/
def cisWalk (m : Tab DWord) (j limit : Nat) : Nat → Nat → Nat → Nat → List Nat → List (Nat × Nat) → Bool
  | 0, _, _, _, _, _ => true
  | n + 1, i, cyc, last, served, ready =>
    let sl := slotOf (tabGet (fun _ => (0 : DWord)) m (j * 16384 + i))
    if ready.any (fun r => decide (cyc < r.2) && sl.usesW.elem r.1) then false
    else if sl.op = 0x01 then true
    else if sl.op = 0x38 ∨ sl.op = 0x39 then
      let s := max cyc last + 64
      if 3 < (served.filter fun x => decide (cyc < x)).length ∨ limit < s then false
      else cisWalk m j limit n (i + 1) (cyc + 1) s (s :: served) (if sl.op = 0x39 then (sl.dst, s + 8) :: ready else ready)
    else cisWalk m j limit n (i + 1) (cyc + slotCost sl) last served ready

/-- The jets that fail fit at a rate, bit j (R27). -/
def BasinImage.fitJets (x : BasinImage) (rate : Nat) : Nat :=
  (List.range 4).foldl (fun a j => if usableSlots rate < x.cost j then a ||| 2 ^ j else a) 0

/-- The cistern schedule is kept by every jet (R91). -/
def BasinImage.cisKept (x : BasinImage) (rate : Nat) : Bool :=
  (List.range 4).all fun j => cisWalk x.cascade j (usableSlots rate + 127) (x.nslot.getD j 0) 0 0 0 [] []

/-- The basin's content as an image, for the fit check. -/
def Basin.asImage (x : Basin) : BasinImage := { nslot := x.nslot, cascade := x.cascade }

/-- The basin fits at a rate (R27, R91). -/
def BasinImage.fits (x : BasinImage) (rate : Nat) : Bool := x.fitJets rate == 0 && x.cisKept rate

/-- Basin `b` is parked with FIT_FAIL (R28, R91). DESIGN CHOICE: a basin that fails both the tick fit and the cistern
schedule shows CAUSE FIT; the spec does not say which of the two shows. -/
def State.parkFit (s : State) (b : Nat) (x : BasinImage) (rate : Nat) : State :=
  s.setBasinState b bsPARKED |>.set (Reg.FAB_B_STAT.FIT_FAIL b) 1 |>.set (Reg.FAB_B_STAT.FIT_JETS b) (x.fitJets rate)
    |>.set (Reg.FAB_B_STAT.CAUSE b) (if x.fitJets rate != 0 then bcFIT else bcCISQ) |>.flag Reg.FAB_EVT.FIT_FAIL

/-- The byte-address regions of R99 that the device owns above the ASRC region: the shelf, the checkpoint buffers, the replay
area and the stewards' working area. -/
abbrev shelfBase : Nat := 0x1900000
abbrev shelfSize : Nat := 0xA0000
abbrev ckptBase : Nat := 0x1F40000
abbrev replayBase : Nat := 0x1F54000
abbrev workBase : Nat := 0x1F59000

/-! ### Reserves (R80) -/

/-- How many basins are in a state. -/
def State.countBasins (s : State) (st : Nat) : Nat := (List.range 10).countP fun b => s.basinState b == st

/-- Reserves that RESERVE_COUNT in effect holds back. -/
def State.reservesWanted (s : State) : Nat := 2 - min 2 (s.get Reg.FAB_RESV.RELEASED)

/-- FAB_RESV shows the present count. -/
def State.showReserves (s : State) : State := s.set Reg.FAB_RESV.COUNT (s.countBasins bsRESERVE)

/-- The lowest-numbered basin in a state that is not out of service for a BIST (R151, R161, STEW_CTL.RETEST). -/
def State.lowestBasin (s : State) (st : Nat) : Option Nat := (List.range 10).find? fun b => s.basinState b == st && !(s.basin b).bist

/-- RESERVE_COUNT in effect does not release basin `b`: B8 needs 1, B9 needs 2, and B0 to B7 are no reserves (R80). -/
def State.unreleased (s : State) (b : Nat) : Bool := decide (8 ≤ b ∧ s.get Reg.FAB_RESV.RELEASED + 8 ≤ b)

/-- RESERVE_COUNT takes effect (R80): a released reserve becomes FREE, an unreleased FREE basin RESERVE; and a basin that was
promoted for a retired one goes back to FREE where more are held back than the policy asks for. -/
def State.applyReserves (s : State) : State :=
  let s := s.set Reg.FAB_RESV.RELEASED (min 2 (s.get Reg.STEW_POL_GEN.RESERVE_COUNT))
  let one := fun (s : State) (b : Nat) =>
    if s.unreleased b then if s.basinState b = bsFREE then s.setBasinState b bsRESERVE else s
    else if s.basinState b = bsRESERVE && (8 ≤ b || s.reservesWanted < s.countBasins bsRESERVE) then s.setBasinState b bsFREE else s
  ((List.range 8).foldl one (one (one s 8) 9)).showReserves

/-- Basin `b` loses its content and every register of its own. -/
def State.emptyBasin (s : State) (b : Nat) : State :=
  let s := s.setBasin b { strikes := (s.basin b).strikes }
  let s := s.setWord (Reg.FAB_B_STAT.word b).addr 0xF0000000 |>.setWord (Reg.FAB_B_STATE.word b).addr 0 |>.setWord (Reg.FAB_B_TBLSEL.word b).addr 0
    |>.setWord (Reg.FAB_B_CTL.word b).addr 0 |>.setWord (Reg.FAB_B_TCOMPA.word b).addr 0 |>.setWord (Reg.FAB_B_TCOMPB.word b).addr 0
    |>.setWord (Reg.FAB_B_TWAIT.word b).addr 0
  let s := (List.range 4).foldl (fun s j => s.set (Reg.FAB_B_COST.COST b j) 0) s
  let s := (List.range 32).foldl (fun s t => s.setWord (Reg.FAB_B_TDESC.word b t).addr 0 |>.setWord (Reg.FAB_B_TLEN.word b t).addr 0) s
  s.setBasinState b bsFREE

/-- Fewer basins are in RESERVE than R80 holds back. -/
def State.reserveShort (s : State) : Bool := decide (s.countBasins bsRESERVE < s.reservesWanted)

/-- Basin `b` is freed (R80): an unreleased B8 or B9 returns to RESERVE while reserves are short, any other basin is FREE. -/
def State.freeBasin (s : State) (b : Nat) : State :=
  let s := s.emptyBasin b
  (if s.unreleased b && s.reserveShort then s.setBasinState b bsRESERVE else s).showReserves

/-- Basin `b` has passed its BIST (R384): RESERVE while reserves are short, otherwise FREE. -/
def State.freeTested (s : State) (b : Nat) : State :=
  let s := s.emptyBasin b
  (if s.reserveShort then s.setBasinState b bsRESERVE else s).showReserves

/-- Basin `b` is taken out of service; the lowest FREE basin is promoted so that the number of reserves is kept (R80). -/
def State.retireBasin (s : State) (b : Nat) : State :=
  let s := (s.emptyBasin b).setBasinState b bsRETIRED
  let s := if s.reserveShort then
      match s.lowestBasin bsFREE with
      | some f => s.setBasinState f bsRESERVE
      | none => s
    else s
  s.showReserves

/-! ### Loading (R133, R158) -/

/-- The content of a section, or of the shelf, is written into basin `b` for handle `L`; the basin enters READY, or is
parked with FIT_FAIL (R28). -/
def State.loadBasin (s : State) (b L : Nat) (x : BasinImage) : State :=
  let old := s.basin b
  let s := s.setBasin b { nslot := x.nslot, cascade := x.cascade, pool := x.pool, tables := x.tables, regions := x.regions,
                          handle := L, strikes := old.strikes }
  let s := s.setWord (Reg.FAB_B_STAT.word b).addr 0xF0000000 |>.set (Reg.FAB_B_STATE.BASE b) x.stateBase |>.set (Reg.FAB_B_STATE.LEN b) x.stateLen
    |>.setNat (Reg.FAB_B_TCOMPA.word b) x.compA |>.setNat (Reg.FAB_B_TCOMPB.word b) x.compB |>.setWord (Reg.FAB_B_TWAIT.word b).addr 0
  let s := (List.range 4).foldl (fun s j => s.set (Reg.FAB_B_COST.COST b j) (x.cost j)) s
  let s := (List.range 32).foldl (fun s t => s.setWord (Reg.FAB_B_TDESC.word b t).addr 0 |>.setWord (Reg.FAB_B_TLEN.word b t).addr 0) s
  let s := x.tables.foldl (fun s d => s.set (Reg.FAB_B_TDESC.VALID b d.t) 1 |>.set (Reg.FAB_B_TDESC.BASE_A b d.t) d.a
    |>.set (Reg.FAB_B_TDESC.BASE_B b d.t) d.b |>.set (Reg.FAB_B_TLEN.LEN b d.t) d.len) s
  if x.fits s.rate then s.setBasinState b bsREADY else s.parkFit b x s.rate

/-- Cistern words of a region are zeroed (R133). -/
def State.zeroRegion (s : State) (r : CisRegion) : State :=
  s.setFab { s.fab with cis := s.fab.cis.filter fun e => !(decide (r.base ≤ 8 * e.1) && decide (8 * e.1 < r.base + r.len)) }

/-- Bit t of a page mask. -/
def State.pageDone (s : State) (b t : Nat) (pageB : Bool) : Bool :=
  if pageB then s.bitAt (Reg.FAB_B_TCOMPB.DONE b) t else s.bitAt (Reg.FAB_B_TCOMPA.DONE b) t

/-- The complete flag of a page set or cleared (R158). -/
def State.setPageDone (s : State) (b t : Nat) (pageB on : Bool) : State :=
  if pageB then s.setBitAt (Reg.FAB_B_TCOMPB.DONE b) t on else s.setBitAt (Reg.FAB_B_TCOMPA.DONE b) t on

/-- A write to pool address `a` clears the complete flag of the page it falls in (R158). -/
def State.clearPage (s : State) (b a : Nat) : State :=
  match (s.basin b).tables.find? fun d => (d.a ≤ a && a < d.a + d.len) || (d.b ≤ a && a < d.b + d.len) with
  | some d => s.setPageDone b d.t (d.b ≤ a && a < d.b + d.len) false
  | none => s

/-- A pool write that does not come from a jet: it takes effect at once, after what the jets have written so far. -/
def State.poolWrite (s : State) (b a : Nat) (v : Word) : State :=
  if poolWords ≤ a then s
  else
    let x := s.basin b
    let s := s.setBasin b { x with pool := tabPut (fun _ => 0) x.pool a v, writes := x.writes.filter (fun w => w.addr != a) }
    s.clearPage b a

/-- What the shelf keeps of an image (R101): each jet's slot words up to its first TICKEND, and the pool apart from the state
region. -/
def BasinImage.shelved (x : BasinImage) : BasinImage :=
  let len := fun (j : Nat) => match (List.range (x.nslot.getD j 0)).find? fun i => (slotOf (tabGet (fun _ => (0 : DWord)) x.cascade (j * 16384 + i))).op == 0x01 with
    | some i => i + 1
    | none => x.nslot.getD j 0
  { x with nslot := (List.range 4).map len
           cascade := x.cascade.filter fun e => decide (e.1 % 16384 < len (e.1 / 16384))
           pool := x.pool.filter fun e => !decide (x.stateBase ≤ e.1 ∧ e.1 < x.stateBase + x.stateLen) }

/-- The host's words in a region that the device writes are gone (R99): those from byte address `base` on. -/
def State.ownWritten (s : State) (base len : Nat) : State :=
  s.setFab { s.fab with cisOwn := s.fab.cisOwn.filter fun e => !decide (base ≤ 4 * e.1 ∧ 4 * e.1 < base + len) }

/-- The shelf copy of handle `L` is written (R101): it lies at its place in the cistern (R99). -/
def State.putShelf (s : State) (L : Nat) (x : Shelf) : State := (s.setShelf L x).ownWritten (shelfBase + L * shelfSize) shelfSize

/-- The basin that a relocation of handle `L` has restored already: it takes later writes with its source (R163). -/
def State.relocTarget (s : State) (L : Nat) : Option Nat := (s.fab.relocs.find? fun r => r.handle == L && r.step == .restored).map fun r => r.target

/-- A pool write by section or command: the shelf first, then the pool (R101). The state region is not on the shelf. -/
def State.poolWriteShelf (s : State) (L b a : Nat) (v : Word) : State :=
  let sh := s.shelf L
  let s := match sh.image with
    | some x =>
      if x.stateBase ≤ a ∧ a < x.stateBase + x.stateLen then s else
      let comp := fun (m : Nat) (inPage : TableDesc → Bool) =>
        x.tables.foldl (fun m d => if inPage d && m / 2 ^ d.t % 2 = 1 then m - 2 ^ d.t else m) m
      s.putShelf L { sh with image := some { x with
        pool := tabPut (fun _ => 0) x.pool a v
        compA := comp x.compA fun d => d.a ≤ a && a < d.a + d.len
        compB := comp x.compB fun d => d.b ≤ a && a < d.b + d.len } }
    | none => s
  let s := match s.relocTarget L with
    | some t => if t = b then s else s.poolWrite t a v
    | none => s
  s.poolWrite b a v

/-! ### Hand-over (R151 to R157) -/

/-- F of R152: XFADE × tick rate / 1,000, halves rounded up. -/
def fadeTicks (ms hz : Nat) : Nat := (2 * min 64 ms * hz + 1000) / 2000

/-- The basin leaves its handle: HANDLE reads none. -/
def State.unhandle (s : State) (b : Nat) : State := s.set (Reg.FAB_B_STAT.HANDLE b) 0xF

/-- A basin that loses its handle by a commit is READY again (R79, R81). -/
def State.unmapBasin (s : State) (b : Nat) : State :=
  let s := s.unhandle b
  if s.basinState b = bsRUNNING ∨ s.basinState b = bsHELD then s.setBasinState b bsREADY else s

/-- The channel in which handle `L` waits for its commit. -/
def State.pendingChan (s : State) (L : Nat) : Option Nat :=
  s.chanWhere fun h => s.hoState h == hoPENDING && s.get (Reg.FAB_HO_CTL.HANDLE h) == L

/-- Basin `b`, loaded and mapped to `L`, runs, or is held when HOLD is in effect (R79, R160). A parked basin stays parked. -/
def State.mapBasin (s : State) (L b : Nat) : State :=
  let s := s.set (Reg.FAB_B_STAT.HANDLE b) L
  let s := s.setBasin b { s.basin b with handle := L }
  if s.basinState b = bsREADY then s.setBasinState b (if s.bit (Reg.FAB_B_CTL.HOLD b) then bsHELD else bsRUNNING) else s

/-- The pool words of a basin's state region. -/
def State.stateRegion (s : State) (b : Nat) : List Word :=
  tabRange (fun _ => 0) (s.basin b).pool (s.get (Reg.FAB_B_STATE.BASE b)) (s.get (Reg.FAB_B_STATE.LEN b))

/-- The state region written from offset `off`. -/
def State.putState (s : State) (b off : Nat) (ws : List Word) : State :=
  let x := s.basin b
  s.setBasin b { x with pool := tabPutList (fun _ => 0) x.pool (s.get (Reg.FAB_B_STATE.BASE b) + off) ws }

/-- The last complete checkpoint of a basin; a shadow that drains counts when `drain` lets it complete (R25, R100). -/
def Basin.lastCkpt (x : Basin) (drain : Bool) : Option Ckpt :=
  match x.shadow, drain with
  | some c, true => some c
  | _, _ =>
    if x.ckptLast1 then x.ckpt1.orElse fun _ => x.ckpt0 else x.ckpt0.orElse fun _ => x.ckpt1

/-- Priming of the new basin's state region from the old basin's capture (R154). -/
def State.prime (s : State) (h new : Nat) (old : Option (List Word)) : State :=
  let len := s.get (Reg.FAB_B_STATE.LEN new)
  let zero := s.putState new 0 (List.replicate len 0)
  match old with
  | none => zero
  | some cap =>
    match s.get (Reg.FAB_HO_CTL.PRIME h) with
    | 0 => if cap.length = len then s.putState new 0 cap else zero
    | 2 =>
      (List.range 16).foldl (fun s e =>
        let n := s.get (Reg.FAB_HO_SMAP.COUNT h e)
        let d := s.get (Reg.FAB_HO_SMAP.DST h e)
        let r := s.get (Reg.FAB_HO_SMAP.SRC h e)
        if !s.bit (Reg.FAB_HO_SMAP.EN h e) || n = 0 then s
        else if len < d + n ∨ cap.length < r + n then s.flag Reg.FAB_HO_EVT.MAP_CLIP
        else s.putState new d ((cap.drop r).take n)) zero
    | _ => zero

/-- Regions with the same address and length in both lists (R156). -/
def carriedOf (new old : List CisRegion) : List CisRegion := new.filter fun r => old.elem r

/-- The channel is idle again. -/
def State.chanIdle (s : State) (h : Nat) : State := s.set (Reg.FAB_HO_STAT.STATE h) hoIDLE |>.set (Reg.FAB_HO_STAT.LEFT h) 0 |>.setChan h {}

/-- Basin `b` leaves a hand-over: a faulted one is parked for its BIST, another is freed; the regions of either are released
(R157, R152 step 8). -/
def State.leaveBasin (s : State) (b : Nat) (faulted : Bool) : State :=
  if faulted then ((s.setBasin b { s.basin b with regions := [] }).setBasinState b bsPARKED).unhandle b else s.freeBasin b

/-- Step 8 of R152: the old basin is freed, the channel IDLE, DONE set. -/
def State.handOverDone (s : State) (h : Nat) : State :=
  let old := s.get (Reg.FAB_HO_CTL.OLD h)
  let s := if old < 10 then s.leaveBasin old (s.chan h).oldFault else s
  let s := if old < 10 && (s.chan h).oldFault then s.error clsBASIN old else s
  (s.chanIdle h).flag Reg.FAB_HO_EVT.DONE

/-- FADE_END (R152 step 8): no fade tick is left. -/
def State.fadeEnd (s : State) (h : Nat) : State :=
  if s.hoState h = hoFADING && s.get (Reg.FAB_HO_STAT.LEFT h) = 0 then s.handOverDone h else s

/-- A hold that the commit of the hand-over brings for the old basin falls on the new one (R165): the handle maps to it now. -/
def State.holdMoves (s : State) (old new : Nat) : State :=
  if s.basinState old = bsRUNNING && s.bit (Reg.FAB_B_CTL.HOLD old) then
    s.set (Reg.FAB_B_CTL.HOLD new) 1 |>.set (Reg.FAB_B_CTL.HOLD old) 0
  else s

/-- Step 2 of R152 at the commit tick: the handle has been switched to the new basin by its map entry. The priming of step 5
waits for the capture of step 4. -/
def State.handOverSwitch (s : State) (h : Nat) : State :=
  let L := s.get (Reg.FAB_HO_CTL.HANDLE h)
  let new := s.get (Reg.FAB_HO_CTL.NEW h)
  let old := s.get (Reg.FAB_HO_CTL.OLD h)
  let fault := (s.chan h).oldFault
  let s := if old < 10 then s.holdMoves old new else s
  let s := (s.mapBasin L new).setChan h { s.chan h with prime := true }
  let s := if old < 10 then (s.setBasinState old (if fault then bsHELD else bsREADY)).unhandle old else s
  let s := if old < 10 then s.setBasin old { s.basin old with carried := carriedOf (s.basin new).regions (s.basin old).regions } else s
  let f := if old < 10 then fadeTicks (s.get (Reg.FAB_HO_CTL.XFADE h)) (tickHz s.rate) else 0
  if f = 0 then s.setChan h { s.chan h with fade := 0 } |>.set (Reg.FAB_HO_STAT.STATE h) hoFADING |>.set (Reg.FAB_HO_STAT.LEFT h) 0
  else s.setChan h { s.chan h with fade := f } |>.set (Reg.FAB_HO_STAT.STATE h) hoFADING |>.set (Reg.FAB_HO_STAT.LEFT h) f

/-- Step 5 of R152: the new basin is primed from the old one's capture of this weir, from the last checkpoint of one that
faulted (R165), or from nothing. -/
def State.handOverPrime (s : State) (h : Nat) : State :=
  if !(s.chan h).prime then s
  else
    let old := s.get (Reg.FAB_HO_CTL.OLD h)
    let cap := if old < 10 then
        if (s.chan h).oldFault then ((s.basin old).lastCkpt true).map fun c => c.words else some (s.stateRegion old)
      else none
    (s.setChan h { s.chan h with prime := false }).prime h (s.get (Reg.FAB_HO_CTL.NEW h)) cap

/-- The staged value of a map entry is withdrawn if it still names basin `b` (R157); STAGED shows what is left. -/
def State.withdrawMap (s : State) (L b : Nat) : State :=
  let a := (Reg.FAB_MAP.word L).addr
  let st := tabGet (fun _ => ({} : Staged)) s.tick.staged a
  if st.mask != 0 && st.value.toNat % 16 = b then
    { s with tick := { s.tick with staged := tabErase a s.tick.staged } }.set Reg.DEV_COMMIT_STAT.STAGED (b2n (!(tabErase a s.tick.staged).isEmpty))
  else s

/-- A pending hand-over is cancelled (R157). -/
def State.handOverCancel (s : State) (h : Nat) (newFaulted : Bool) : State :=
  if s.hoState h != hoPENDING then s
  else
    let L := s.get (Reg.FAB_HO_CTL.HANDLE h)
    let new := s.get (Reg.FAB_HO_CTL.NEW h)
    let s := (s.withdrawMap L new).leaveBasin new newFaulted
    let old := s.get (Reg.FAB_HO_CTL.OLD h)
    let fault := (s.chan h).oldFault
    let s := (s.chanIdle h).flag Reg.FAB_HO_EVT.CANCELLED
    if old < 10 && fault then s.error clsBASIN old else s

/-- The gains of R155 in units of 2^-31: i / F and 1 − i / F, or sin and cos of π·i / 2F, quantised to Q1.31; the spec does not
say how that quantisation rounds. -/
def fadeGain (shape : Bool) (i f : Nat) (old : Bool) : Int :=
  let k := if old then f - i else i
  if shape then min 0x7FFFFFFF (roundDiv (quarterSine k f) (2 ^ 44)) else min 0x7FFFFFFF (roundDiv (k * 2147483648) f)

/-- The mix of a fade (R155): `i` of `f` fade ticks are over. -/
def fadeMix (shape : Bool) (i f : Nat) (old new : Word) : Word :=
  if i = 0 then old
  else if f ≤ i then new
  else BitVec.ofInt 32 (satTo 32 (shiftRight true (fadeGain shape i f true * old.toInt + fadeGain shape i f false * new.toInt) 31))

/-- Outbound port `p` of handle `L` as the exchange sees it (R81, R155). -/
def State.handlePort (s : State) (L p : Nat) : Word :=
  match s.mapped L with
  | none => 0
  | some b =>
    let v := tabGet (fun _ => (0 : Word)) (s.basin b).outp p
    match s.chanWhere fun h => s.hoState h == hoFADING && s.get (Reg.FAB_HO_CTL.HANDLE h) == L with
    | some h =>
      let old := s.get (Reg.FAB_HO_CTL.OLD h)
      let f := (s.chan h).fade
      let left := s.get (Reg.FAB_HO_STAT.LEFT h)
      if old < 10 then fadeMix (s.bit (Reg.FAB_HO_CTL.SHAPE h)) (f - left) f (tabGet (fun _ => (0 : Word)) (s.basin old).outp p) v else v
    | none => v

/-! ### Relocation (R161 to R163) -/

/-- A relocation of handle `L` off basin `b` fails: FAB_RELOC, the RELOC error and SAFE (R161, R163). -/
def State.relocFail (s : State) (L b target : Nat) (noshelf : Bool) : State :=
  ((s.set Reg.FAB_RELOC.HANDLE L |>.set Reg.FAB_RELOC.FROM b |>.set Reg.FAB_RELOC.TO target |>.set Reg.FAB_RELOC.GAP 0
    |>.set Reg.FAB_RELOC.NOSHELF (b2n noshelf) |>.set Reg.FAB_RELOC.FAIL 1).errorNow clsRELOC L 0).enterSafe causeRELOC

/-- The reload path goes to the first waiting relocation whose shelf copy is valid (R163, R164). -/
def State.relocNext (s : State) : State :=
  if s.fab.relocs.any fun r => r.step == .reloading then s
  else match s.fab.relocs.find? fun r => r.step == .waiting && (s.shelf r.handle).valid with
    | some r => s.setFab { s.fab with relocs := s.fab.relocs.map fun q => if q = r then { q with step := .reloading } else q }
    | none => s

/-- The basin that a relocation takes (R161): RESERVE before FREE, one under a BIST that the host asked for only when no other is left. -/
def State.relocSpare (s : State) : Option Nat :=
  (((s.lowestBasin bsRESERVE).orElse fun _ => s.lowestBasin bsFREE).orElse fun _ => (List.range 10).find? fun b => s.basinState b == bsRESERVE).orElse
    fun _ => (List.range 10).find? fun b => s.basinState b == bsFREE

/-- A retest's BIST of basin `b` ends without a result (STEW_CTL.RETEST). -/
def State.bistEnd (s : State) (b : Nat) : State :=
  if (s.basin b).bist then ((s.setBasin b { s.basin b with bist := false }).errorDone clsBASIN b).showTests else s

/-- Handle `L` is relocated off basin `b` (R161): a target is chosen and its reload starts, or waits; without a target, or
without a shelf copy that can be had again, the relocation fails. -/
def State.relocate (s : State) (L b : Nat) : State :=
  let sh := s.shelf L
  if !sh.valid && sh.part then s.relocFail L b 0 true
  else match s.relocSpare with
    | none => s.relocFail L b 0 false
    | some t =>
      let s := ((s.bistEnd t).setBasinState t bsLOADING).showReserves
      (s.setFab { s.fab with relocs := s.fab.relocs ++ [{ handle := L, source := b, target := t }] }).relocNext

/-- What basin `b` wrote in this tick is dropped: its outbound ports keep the values last frozen (R162 step 2). -/
def State.dropTick (s : State) (b : Nat) : State := s.setBasin b { s.basin b with writes := [], jets := [] }

/-- The tick of the old basin in whose fade `b` is the new one is dropped with it: the handle delivers the values of the weir
before, as under a hold (R162 step 2, R163). -/
def State.dropPartner (s : State) (b : Nat) : State :=
  match s.chanWhere fun h => s.hoState h == hoFADING && s.get (Reg.FAB_HO_CTL.NEW h) == b && s.get (Reg.FAB_HO_CTL.OLD h) < 10 with
  | some h => s.dropTick (s.get (Reg.FAB_HO_CTL.OLD h))
  | none => s

/-- Basin `b` faults (R26, R91, R162 step 1, R165). -/
def State.basinFault (s : State) (b cause : Nat) : State :=
  let st := s.basinState b
  let s := s.flag Reg.FAB_EVT.FAULT |>.set (Reg.FAB_B_STAT.CAUSE b) cause
    |>.setBasin b { s.basin b with strikes := s.now :: (s.basin b).strikes }
  let s := s.dropTick b
  match s.chanWhere fun h => s.hoState h == hoPENDING && s.get (Reg.FAB_HO_CTL.OLD h) == b with
  | some h => (s.setBasinState b bsHELD |>.setChan h { s.chan h with oldFault := true }).flag Reg.FAB_HO_EVT.OLD_FAULT
  | none =>
    let s := s.error clsBASIN b
    match s.chanWhere fun h => s.hoState h == hoFADING && s.get (Reg.FAB_HO_CTL.OLD h) == b with
    | some h =>
      ((s.setBasinState b bsPARKED).unhandle b |>.set (Reg.FAB_HO_CTL.OLD h) 0xF |>.chanIdle h).flag Reg.FAB_HO_EVT.OLD_FAULT
        |>.flag Reg.FAB_HO_EVT.DONE
    | none =>
      match s.chanWhere fun h => s.hoState h == hoPENDING && s.get (Reg.FAB_HO_CTL.NEW h) == b with
      | some h => s.handOverCancel h true
      | none =>
        if st = bsRUNNING ∨ st = bsHELD then
          let s := (s.dropPartner b).setBasinState b bsPARKED
          match s.handleOf b with
          | some L => s.relocate L b
          | none => s
        else if st = bsREADY ∨ st = bsPARKED then s.setBasinState b bsPARKED
        else s

/-- The page selects, complete flags and hold of a relocation's source, carried to its target (R163). -/
def State.carryBasin (s : State) (source target : Nat) : State :=
  s.setWord (Reg.FAB_B_TBLSEL.word target).addr (s.word (Reg.FAB_B_TBLSEL.word source).addr)
    |>.setWord (Reg.FAB_B_TCOMPA.word target).addr (s.word (Reg.FAB_B_TCOMPA.word source).addr)
    |>.setWord (Reg.FAB_B_TCOMPB.word target).addr (s.word (Reg.FAB_B_TCOMPB.word source).addr)
    |>.setWord (Reg.FAB_B_CTL.word target).addr (s.word (Reg.FAB_B_CTL.word source).addr)

/-- The state region of target `t` restored from the last complete checkpoint of `src`; with no valid buffer it starts zeroed, with
a lasting RELOC error (R394). -/
def State.restoreState (s : State) (t L : Nat) (src : Basin) : State :=
  let n := s.get (Reg.FAB_B_STATE.LEN t)
  match src.lastCkpt true with
  | some c => s.putState t 0 ((c.words ++ List.replicate n 0).take n)
  | none => (s.putState t 0 (List.replicate n 0)).errorNow clsRELOC L 0

/-- The shelf reload of target `t` completes (R162 steps 4 and 5): fit is checked, and the state region is restored from the
source's last complete checkpoint. -/
def State.reloadDone (s : State) (t : Nat) : State :=
  match s.fab.relocs.find? fun r => r.target == t && r.step == .reloading with
  | none => s
  | some r =>
    match (s.shelf r.handle).image with
    | none => s
    | some x =>
      let src := s.basin r.source
      let s := s.loadBasin t r.handle x
      let s := s.setBasin t { s.basin t with regions := src.regions, outp := src.outp }
      if s.basinState t = bsPARKED then
        let s := s.setFab { s.fab with relocs := s.fab.relocs.filter fun q => q != r }
        (s.relocFail r.handle r.source t false).relocNext
      else
        let s := s.restoreState t r.handle src
        (s.setFab { s.fab with relocs := s.fab.relocs.map fun q => if q = r then { q with step := .restored } else q }).relocNext

/-- The first weir after the restore switches the handle to its target (R162 step 6). -/
def State.relocSwitch (s : State) (r : Reloc) : State :=
  let s := s.set (Reg.FAB_MAP.EN r.handle) 1 |>.set (Reg.FAB_MAP.PHYS r.handle) r.target
  let s := ((s.carryBasin r.source r.target).unhandle r.source).mapBasin r.handle r.target
  let s := (List.range 4).foldl (fun s h =>
    if s.hoState h != hoIDLE && s.get (Reg.FAB_HO_CTL.NEW h) == r.source then s.set (Reg.FAB_HO_CTL.NEW h) r.target else s) s
  let s := s.set Reg.FAB_RELOC.HANDLE r.handle |>.set Reg.FAB_RELOC.FROM r.source |>.set Reg.FAB_RELOC.TO r.target
    |>.set Reg.FAB_RELOC.GAP (min 15 r.gap) |>.set Reg.FAB_RELOC.NOSHELF 0 |>.set Reg.FAB_RELOC.FAIL 0
  let s := s.setMbx { s.mbx with relocMended := true }
  s.setFab { s.fab with relocs := s.fab.relocs.filter fun q => q != r }

/-- Each weir: relocations under way count the held weir, and those whose state is restored switch. -/
def State.relocWeir (s : State) : State :=
  let s := s.setFab { s.fab with relocs := s.fab.relocs.map fun q => { q with gap := q.gap + 1 } }
  (s.fab.relocs.filter fun r => r.step == .restored).foldl State.relocSwitch s

/-- The shelf copy of handle `L` is lost (R102, R163). A relocation that has not finished its reload waits for the rewrite, or
fails where the copy came from a partial image and has no source. -/
def State.shelfLost (s : State) (L : Nat) : State :=
  let sh := s.shelf L
  let s := s.setShelf L { sh with valid := false }
  let s := match s.mapped L with
    | some b => s.set (Reg.FAB_B_STAT.SHELF_STALE b) 1
    | none => s
  match s.fab.relocs.find? fun r => r.handle == L && r.step != .restored with
  | none => s
  | some r =>
    if sh.part then
      let s := s.setFab { s.fab with relocs := s.fab.relocs.filter fun q => q != r }
      ((s.freeTested r.target).relocFail L r.source r.target true).relocNext
    else (s.setFab { s.fab with relocs := s.fab.relocs.map fun q => if q = r then { q with step := .waiting } else q }).relocNext

/-! ### Cistern errors (R102) -/

/-- Bank and row of a word address, as bank × 1024 + row (R97). -/
def cisRow (w : Nat) : Nat := w % 16 * 1024 + w / 4096 % 1024

/-- A pass period in ms, of the family in effect (R102). -/
def State.passMs (s : State) : Nat := if s.get Reg.CLK_STAT.FAMILY = 0 then 85 else 92

/-- A row of the cistern is to be marched: a CISTERN error on its bank (R102, R383). -/
def State.cisError (s : State) (w : Nat) : State :=
  (s.setFab { s.fab with march := s.fab.march ++ [cisRow w] }).error clsCISTERN (w % 16)

/-- A corrected error at word `w` (R102): counted; a second one in the row within a pass period calls for a march. -/
def State.cisCorrected (s : State) (w : Nat) : State :=
  let s := s.count Reg.FAB_CIS_ECC.CE 1 |>.flag Reg.FAB_EVT.CIS_CE
  let last := tabGet (fun _ => 0) s.fab.rowCe (cisRow w)
  let again := last != 0 && decide (s.now + 1 ≤ last + s.passMs)
  let s := s.setFab { s.fab with rowCe := tabPut (fun _ => 0) s.fab.rowCe (cisRow w) (s.now + 1) }
  if again then s.cisError w else s

/-- An uncorrectable error at word `w` (R102): zero in the data and ASRC regions, a checkpoint buffer or a shelf copy marked
invalid; recovery starts. -/
def State.cisUncorrectable (s : State) (w : Nat) : State :=
  let s := s.count Reg.FAB_CIS_ECC.UE 1 |>.flag Reg.FAB_EVT.CIS_UE |>.set Reg.FAB_CIS_UEADDR.WORD w
  let a := 8 * w
  let s := if a < shelfBase then s.setCisWord w 0
    else if a < shelfBase + 10 * shelfSize then s.shelfLost ((a - shelfBase) / shelfSize)
    else if ckptBase ≤ a ∧ a < ckptBase + 10 * 0x2000 then
      let b := (a - ckptBase) / 0x2000
      let x := s.basin b
      s.setBasin b (if (a - ckptBase) / 0x1000 % 2 = 0 then { x with ckpt0 := none } else { x with ckpt1 := none })
    else s
  s.cisError w

/-! ### Host access to the cistern (R97, R99, R103) -/

/-- The FAB clock runs, so that the cistern frame turns (R17, R98). -/
def State.fabClock (s : State) : Bool := s.audRuns && s.domOn .sys

/-- The byte address of the next access. -/
def State.cisAddr (s : State) : Nat := 4 * s.get Reg.FAB_CIS_ADDR.ADDR

/-- INC: the address goes on by 4 (within its field). -/
def State.cisNext (s : State) : State := if s.bit Reg.FAB_CIS_ADDR.INC then s.set Reg.FAB_CIS_ADDR.ADDR (s.get Reg.FAB_CIS_ADDR.ADDR + 1) else s

/-- A field-locked host reaches only the basin data and ASRC regions (R103). -/
def State.cisDenied (s : State) : Bool := s.fieldLocked && decide (shelfBase ≤ s.cisAddr)

/-- A read of FAB_CIS_DATA (R97): the word and the state after it. In the device's own regions a half that the host wrote last
reads as written; what the device keeps there has no layout in the spec: a free value. -/
def State.cisRead (s : State) : Word × State :=
  if s.cisDenied then (0, ((s.flag Reg.FAB_CIS_STAT.DENIED).flag Reg.SEC_EVT.DENIED).cisNext)
  else if shelfBase ≤ s.cisAddr then
    match tabGet (fun _ => none) s.fab.cisOwn (s.cisAddr / 4) with
    | some v => (v, s.cisNext)
    | none => (s.fresh, s.drawn.cisNext)
  else
    let v := (s.cisWord (s.cisAddr / 8)).toNat
    (BitVec.ofNat 32 (if s.cisAddr / 4 % 2 = 1 then v / 2 ^ 32 else v), s.cisNext)

/-- A half word merged into a cistern word (R97). -/
def mergeHalf (w : DWord) (high : Bool) (v : Word) : DWord :=
  BitVec.ofNat 64 (if high then v.toNat * 2 ^ 32 + w.toNat % 2 ^ 32 else w.toNat / 2 ^ 32 * 2 ^ 32 + v.toNat)

/-- The write takes effect in position 12 (R97, R98). In the device's own regions the half is kept as the host's until the device
writes there; the model does not carry it into what the device keeps (log entry 20). -/
def State.cisStore (s : State) (v : Word) : State :=
  let a := s.cisAddr
  let s := if shelfBase ≤ a then s.setFab { s.fab with cisOwn := tabPut (fun _ => none) s.fab.cisOwn (a / 4) (some v) }
    else s.setCisWord (a / 8) (mergeHalf (s.cisWord (a / 8)) (a / 4 % 2 == 1) v)
  s.cisNext

/-- A write of FAB_CIS_DATA: denied when locked, else in position 12. -/
def State.cisWrite (s : State) (v : Word) : State :=
  if s.cisDenied then ((s.flag Reg.FAB_CIS_STAT.DENIED).flag Reg.SEC_EVT.DENIED).cisNext else s.cisStore v

/-! ### The raw windows (R9, FAB_WIN_SEL) -/

/-- The state lets slot words and jet registers of a basin be written through the raw window. -/
def State.rawOpen (s : State) (b : Nat) : Bool := s.basinState b == bsFREE || s.basinState b == bsREADY || s.basinState b == bsPARKED

/-- A slot word with one of its 32-bit halves replaced. -/
def State.rawSlot (s : State) (b i : Nat) (high : Bool) (v : Word) : State :=
  let x := s.basin b
  s.setBasin b { x with cascade := tabPut (fun _ => 0) x.cascade i (mergeHalf (tabGet (fun _ => 0) x.cascade i) high v) }

/-- A host write to a register of jet `j` (FAB_WIN_SEL): it holds until the jets are cleared. -/
def State.rawJet (s : State) (b j : Nat) : State :=
  let x := s.basin b
  s.setBasin b (x.setJet j { x.jet j with touched := true })

/-- A write at raw window address `a` (R9); unassigned addresses take no write. -/
def State.rawWrite (s : State) (a : Nat) (v : Word) : State :=
  let b := s.get Reg.FAB_WIN_SEL.BASIN
  if 10 ≤ b then s
  else if 0x400000 ≤ a ∧ a < 0x480000 then
    if s.rawOpen b then s.rawSlot b ((a - 0x400000) / 8) ((a - 0x400000) / 4 % 2 == 1) v else s
  else if 0x480000 ≤ a ∧ a < 0x480000 + 4 * poolWords then
    (s.poolWrite b ((a - 0x480000) / 4) v).set (Reg.FAB_B_STAT.SHELF_STALE b) 1
  else if 0x4A0000 ≤ a ∧ a < 0x4A1000 ∧ v ≠ 0 then
    if s.rawOpen b then s.rawJet b ((a - 0x4A0000) / 0x400) else s
  else s

/-- Every register of the jet is clear, as R83 leaves it. -/
def Jet.clear (x : Jet) : Bool := !x.touched && x.a0 == 0 && x.a1 == 0 && x.w.isEmpty && x.p.isEmpty && x.flags == {}

/-- A read at raw window address `a`. The places of the registers inside a jet's range have no layout in the spec: a cleared
jet reads zero, any other a free value. -/
def State.rawRead (s : State) (a : Nat) : Word × State :=
  let b := s.get Reg.FAB_WIN_SEL.BASIN
  let x := s.basin b
  if 10 ≤ b then (0, s)
  else if 0x400000 ≤ a ∧ a < 0x480000 then
    let v := (tabGet (fun _ => (0 : DWord)) x.cascade ((a - 0x400000) / 8)).toNat
    (BitVec.ofNat 32 (if (a - 0x400000) / 4 % 2 = 1 then v / 2 ^ 32 else v), s)
  else if 0x480000 ≤ a ∧ a < 0x480000 + 4 * poolWords then (x.poolAt 1000000 ((a - 0x480000) / 4), s)
  else if 0x4A0000 ≤ a ∧ a < 0x4A1000 then
    if (x.jet ((a - 0x4A0000) / 0x400)).clear then (0, s) else (s.fresh, s.drawn)
  else (0, s)

/-- One access to the raw windows, noted on the bus. -/
def State.rawAccess (s : State) (a : Nat) (write : Option Word) : State :=
  match write with
  | some v => (s.rawWrite a v).onBus 0 .done
  | none => (s.rawRead a).2.onBus (s.rawRead a).1 .done

/-! ### Checkpoints and meters (R100, R124) -/

/-- The checkpoint shadow of basin `b` has drained into the buffer not written last time (R100). -/
def State.ckptDrained (s : State) (b : Nat) : State :=
  let x := s.basin b
  match x.shadow with
  | none => s
  | some c =>
    let s := s.ownWritten (ckptBase + b * 0x2000 + (if x.ckptLast1 then 0 else 0x1000)) 0x1000
    let x := if x.ckptLast1 then { x with shadow := none, ckpt0 := some c, ckptLast1 := false }
      else { x with shadow := none, ckpt1 := some c, ckptLast1 := true }
    s.setBasin b x |>.set (Reg.FAB_B_CKPT.TICK b) (c.tick.toNat % 2 ^ 32)

/-- A complete window of meter `m` is copied into its register (R124). -/
def State.meterCopy (s : State) (b m : Nat) : State :=
  let x := s.basin b
  let w := tabGet (fun _ => ({} : MeterWin)) x.meters m
  match w.full with
  | some (peak, clip) =>
    s.setBasin b { x with meters := tabPut (fun _ => ({} : MeterWin)) x.meters m { w with full := none } }
      |>.set (Reg.FAB_B_METER.PEAK b m) peak |>.set (Reg.FAB_B_METER.CLIP b m) (b2n clip)
  | none => s

/-! ### Commands -/

/-- CHECKPOINT_DRAIN_DONE (R100). -/
def execCheckpointDrainDone (b : Fin 10) (s : State) : Host.Outcome State Fault Refusal := .next (s.ckptDrained b)

/-- FADE_END (R152). -/
def execFadeEnd (h : Fin 4) (s : State) : Host.Outcome State Fault Refusal := .next (s.fadeEnd h)

/-- METER_WINDOW_END (R124). -/
def execMeterWindowEnd (b : Fin 10) (m : Fin 32) (s : State) : Host.Outcome State Fault Refusal := .next (s.meterCopy b m)

/-- A canary has fired: the stewards raise VDD_FAB by 10 mV at once (R400, R405), within the limit of R402. -/
def State.raiseVfab (s : State) : State :=
  let v := min 850 (s.get Reg.STEW_VFAB.SETPOINT + 10)
  { s with stew := { s.stew with vfab := some v } }.set Reg.STEW_VFAB.TARGET v

/-- BASIN_FAULT (R91): a parity error, or a canary firing, in basin `b`. -/
def execBasinFault (b : Fin 10) (canary : Bool) (s : State) : Host.Outcome State Fault Refusal :=
  .next (if s.works .fab then
      if canary then (s.basinFault b bcCANARY).raiseVfab else s.basinFault b bcPARITY
    else s)

/-- SHELF_RELOAD_DONE (R162). -/
def execShelfReloadDone (t : Fin 10) (s : State) : Host.Outcome State Fault Refusal := .next (s.reloadDone t)

/-- CISTERN_CORRECTED_ERROR (R102). -/
def execCisternCorrectedError (w : BitVec 22) (s : State) : Host.Outcome State Fault Refusal := .next (s.cisCorrected w.toNat)

/-- CISTERN_UNCORRECTABLE_ERROR (R102). -/
def execCisternUncorrectableError (w : BitVec 22) (s : State) : Host.Outcome State Fault Refusal := .next (s.cisUncorrectable w.toNat)

/-- SCRUB (R102): the word at the scrubber's place is read, and what it found: nothing, a corrected or an uncorrectable
error. -/
def execScrub (found : Fin 3) (s : State) : Host.Outcome State Fault Refusal :=
  .next (if s.fabClock then
      let w := s.fab.scrub
      let s := s.setFab { s.fab with scrub := (w + 1) % 4194304 }
      match found.val with
      | 0 => s
      | 1 => s.cisCorrected w
      | _ => s.cisUncorrectable w
    else s)

end Sys2Proof.Machine
end

