-- ==== Sys2Proof/Machine/Staging.lean ====
section
/-! DEFINITION. The staging buffer and the requests for a commit (02_tick_and_commit.md, R29 to R42), with the checks that
a TC write meets at its grant (R81, R94, R179, R249, R289). The commit itself is part of the weir (Weir.lean). -/

namespace Sys2Proof.Machine

def State.setTick (s : State) (t : TickSt) : State := { s with tick := t }

/-! ### Where in the tick a grant falls -/

/-- FAB cycle `cyc` of the tick lies in weir cycles 0 to 183, while ticks pass (R23, R34). -/
def State.inWeir (s : State) (cyc : Nat) : Bool := s.ticksRun && decide (usableSlots s.rate ≤ cyc ∧ cyc < usableSlots s.rate + 184)

/-- FAB cycle `cyc` lies in the weir (R23). -/
def State.weirPhase (s : State) (cyc : Nat) : Bool := s.ticksRun && decide (usableSlots s.rate ≤ cyc)

/-- TICK_COUNT after this tick's weir: the beacon's value where one was given, else one more (R29). -/
def State.nextCount (s : State) : TickNo :=
  match s.tick.reload with
  | some n => n
  | none => if s.tick.started then s.tick.count + 1 else s.tick.count

/-- TICK_COUNT at FAB cycle `cyc`: the increment is seen from weir cycle 184 on. -/
def State.countAt (s : State) (cyc : Nat) : TickNo :=
  if s.ticksRun && decide (usableSlots s.rate + 184 ≤ cyc) then s.nextCount else s.tick.count

/-! ### The staged view (R81) -/

/-- The staged entry of a register. -/
def State.staged (s : State) (a : Nat) : Staged := tabGet (fun _ => {}) s.tick.staged a

/-- A register word with the bits of `mask` taken from `value`. -/
def overlay (w mask value : Word) : Word := (w &&& ~~~mask) ||| (value &&& mask)

/-- A register word in the staged view: the staged value of each field where one exists, else the value in effect. -/
def State.viewWord (s : State) (a : Nat) : Word := overlay (s.word a) (s.staged a).mask (s.staged a).value

/-- A field in the staged view. -/
def State.view (s : State) (f : Fld) : Nat := (s.viewWord f.addr).toNat / 2 ^ f.lo % 2 ^ f.width

/-- The buffer with an entry replaced; DEV_COMMIT_STAT.STAGED shows whether it holds anything. -/
def State.setStaged (s : State) (m : Tab Staged) : State :=
  (s.setTick { s.tick with staged := m }).set Reg.DEV_COMMIT_STAT.STAGED (b2n (!m.isEmpty))

/-! ### Checks at the grant -/

/-- Index ranges of the source classes and of the sink classes (R92). -/
def sourceRange (cls : Nat) : Nat := [16, 4, 128, 128, 96, 96, 320, 1].getD cls 0
def sinkRange (cls : Nat) : Nat := [16, 4, 128, 128, 8, 96, 320, 0].getD cls 0

/-- A 12-bit endpoint code whose index lies in its class's range. -/
def sourceValid (c : Nat) : Bool := decide (c % 512 < sourceRange (c / 512))
def sinkValid (c : Nat) : Bool := decide (c % 512 < sinkRange (c / 512))

/-- A write of `v` to FAB_MAPL is refused with MAP_ERR (R81): PHYS 10 to 15 always; the other cases where it maps, since a write
with EN = 0 ties the handle to no basin. -/
def State.mapRefused (s : State) (L : Nat) (v : Word) : Bool :=
  let b := v.toNat % 16
  decide (10 ≤ b) || (v.getLsbD 31 && (
    (List.range 10).any (fun M => M != L && s.view (Reg.FAB_MAP.EN M) == 1 && s.view (Reg.FAB_MAP.PHYS M) == b) ||
    [bsFREE, bsRESERVE, bsLOADING, bsRETIRED].elem (s.basinState b) || s.bit (Reg.FAB_B_STAT.FIT_FAIL b)))

/-- The cases of R94 that a write of `v` to RX_ROUTEk meets: DUP_SINK, BAD_EP, RATE_LIMIT. -/
def State.routeDup (s : State) (k : Nat) (v : Word) : Bool :=
  v.getLsbD 31 && (List.range 96).any fun i => i != k && s.view (Reg.RX_ROUTE.EN i) == 1 && s.view (Reg.RX_ROUTE.SINK i) == v.toNat % 4096
def routeBad (v : Word) : Bool := v.getLsbD 31 && !(sourceValid (v.toNat / 65536 % 4096) && sinkValid (v.toNat % 4096))
def State.routeFast (s : State) (k : Nat) (v : Word) : Bool := v.getLsbD 31 && decide (48 ≤ k ∧ 4 ≤ s.view Reg.DEV_TICK_CTL.RATE ∧ s.view Reg.DEV_TICK_CTL.RATE ≤ 5)

/-- A channel would belong to two phantom groups (R179). -/
def State.groupRefused (s : State) (g : Nat) (v : Word) : Bool :=
  (List.range 8).any fun i => i != g && (s.view (Reg.AIN_PHGRP.MEMBERS i)) &&& (v.toNat / 2 ^ (Reg.AIN_PHGRP.MEMBERS 0).lo % 65536) != 0

/-- A field of a word that is being written. -/
def Fld.of (f : Fld) (v : Word) : Nat := v.toNat / 2 ^ f.lo % 2 ^ f.width

/-- The lane would be enabled on the port and slot of another enabled lane (R249). -/
def State.laneRefused (s : State) (q : Nat) (v : Word) : Bool :=
  (Reg.ASRC_LANE_CFG.EN q).of v == 1 && (List.range 96).any fun i => i != q && s.view (Reg.ASRC_LANE_CFG.EN i) == 1 &&
    s.view (Reg.ASRC_LANE_CFG.PORT i) == (Reg.ASRC_LANE_CFG.PORT q).of v && s.view (Reg.ASRC_LANE_CFG.SLOT i) == (Reg.ASRC_LANE_CFG.SLOT q).of v

/-- The bundle would be enabled under another's local number, or names 62 or 63 (R289). -/
def State.bundleRefused (s : State) (b : Nat) (v : Word) : Bool :=
  decide (62 ≤ v.toNat % 64) || (v.getLsbD 31 && (List.range 12).any fun i => i != b && s.view (Reg.CHAIN_TX.EN i) == 1 &&
    s.view (Reg.CHAIN_TX.LOCAL i) == v.toNat % 64)

/-- The index of address `a` in an array of `n` registers 4 bytes apart. -/
def arrayIndex (base n a : Nat) : Option Nat := if base ≤ a ∧ a < base + 4 * n then some ((a - base) / 4) else none

/-- The check against the staged view that a TC write of `v` at `a` meets: none when it is accepted, else the state with
the refusal's flags. -/
def State.tcCheck (s : State) (a : Nat) (v : Word) : Option State :=
  match arrayIndex (Reg.FAB_MAP.word 0).addr 10 a with
  | some L => if s.mapRefused L v then some (s.flag Reg.FAB_EVT.MAP_ERR) else none
  | none =>
  match arrayIndex (Reg.RX_ROUTE.word 0).addr 96 a with
  | some k =>
    if s.routeDup k v || routeBad v || s.routeFast k v then
      some (s.flagIf (s.routeDup k v) Reg.RX_EVT.DUP_SINK |>.flagIf (routeBad v) Reg.RX_EVT.BAD_EP |>.flagIf (s.routeFast k v) Reg.RX_EVT.RATE_LIMIT)
    else none
  | none =>
  match arrayIndex (Reg.AIN_PHGRP.word 0).addr 8 a with
  | some g => if s.groupRefused g v then some (s.flag Reg.AIN_EVT.GRP_ERR) else none
  | none =>
  match arrayIndex (Reg.CHAIN_TX.word 0).addr 12 a with
  | some b => if s.bundleRefused b v then some (s.flag Reg.CHAIN_STRM_EVT.DUP_STREAM) else none
  | none =>
  match (List.range 96).find? fun q => (Reg.ASRC_LANE_CFG.word q).addr == a with
  | some q => if s.laneRefused q v then some (s.flag Reg.ASRC_EVT.ATTACH_ERR) else none
  | none => none

/-! ### Staging a write (R32, R34) -/

/-- The TC bits of a register. -/
def tcMask (a : Nat) : Word := match regRow a with
  | some r => r.tc
  | none => 0

/-- The TC fields of a write enter staging; `mask` says which bits. -/
def State.enterStaging (s : State) (stew : Bool) (a : Nat) (mask v : Word) : State :=
  let e := s.staged a
  if mask = 0 then s
  else s.setStaged (tabPut (fun _ => {}) s.tick.staged a { mask := e.mask ||| mask, value := overlay e.value mask v,
                                                                     stew := if stew then e.stew ||| mask else e.stew &&& ~~~mask })

/-- A TC write completes into staging, or its check leaves staging as it was and sets the check's flags. Either way the
access itself completes: it is not refused in the sense of R9, R15 or R74. -/
def State.stageNow (s : State) (stew : Bool) (a : Nat) (v : Word) : State :=
  match s.tcCheck a v with
  | some s' => s'.onBus 0 .done
  | none => (s.enterStaging stew a (tcMask a) v).onBus 0 .done

/-- The stewards' requesters (R13). -/
def isSteward : Requester → Bool
  | .s0 => true
  | .s1 => true
  | _ => false

/-- A TC write granted at FAB cycle `cyc`: refused for a domain that is off, else staged. One granted in the weir belongs to the commit of
the next tick (R35): it is kept for weir cycle 184, its access held where the buffer is closed (R34). -/
def State.tcWrite (s : State) (who : Requester) (a : Nat) (v : Word) (cyc : Nat) : State :=
  match regRow a with
  | none => s
  | some r =>
    if !s.domOn r.dom then s.onBus 0 .refused
    else if s.weirPhase cyc then
      (s.setTick { s.tick with held := s.tick.held ++ [⟨a, v, who⟩] }).onBus 0 (if s.inWeir cyc then .held else .done)
    else s.stageNow (isSteward who) a v

/-- Weir cycle 184: the writes held complete, oldest first (R34): their TC fields enter staging, and `act` does what their
other fields do. -/
def State.reopenStaging (s : State) (act : Nat → Word → State → State) : State :=
  s.tick.held.foldl (fun (s : State) h => act h.addr h.value (s.stageNow (isSteward h.who) h.addr h.value)) (s.setTick { s.tick with held := [] })

/-- Values stored for a domain that was off at their commit take effect (R37). -/
def State.applyStored (s : State) (d : Dom) : State :=
  let mine := fun (a : Nat) => match regRow a with
    | some r => decide (r.dom = d)
    | none => false
  let s' := s.tick.stored.foldl (fun (s : State) (e : Nat × Staged) =>
    if mine e.1 then s.setWord e.1 (overlay (s.word e.1) e.2.mask e.2.value) else s) s
  s'.setTick { s'.tick with stored := s'.tick.stored.filter fun e => !mine e.1 }

/-! ### Commit requests (R35 to R42) -/

/-- LAST_ERR codes of R38. -/
abbrev ceLATE : Nat := 1
abbrev ceBUSY : Nat := 2
abbrev ceFIT : Nat := 3
abbrev ceFAMILY : Nat := 4
abbrev ceCANCELLED : Nat := 5

/-- A refusal is recorded (R38). -/
def State.commitErr (s : State) (cause : Nat) : State := s.flag Reg.DEV_COMMIT_STAT.ERR |>.set Reg.DEV_COMMIT_STAT.LAST_ERR cause

/-- A COMMIT_AT commit is armed. -/
def State.armed (s : State) : Bool := s.tick.target.isSome

/-- DEV_COMMIT_STAT shows what waits. -/
def State.showCommit (s : State) : State :=
  s.set Reg.DEV_COMMIT_STAT.PENDING (b2n (s.tick.goNow || s.tick.goNext)) |>.set Reg.DEV_COMMIT_STAT.ARMED (b2n s.armed)

/-- An armed commit is disarmed with cause CANCELLED (R40 to R42). -/
def State.cancelArmed (s : State) : State :=
  if s.armed then (s.setTick { s.tick with target := none }).commitErr ceCANCELLED |>.showCommit else s

/-- GO granted at FAB cycle `cyc` (R35, R38). -/
def State.commitGo (s : State) (cyc : Nat) : State :=
  if s.armed then s.commitErr ceBUSY
  else if s.weirPhase cyc then (s.setTick { s.tick with goNext := true }).showCommit
  else (s.setTick { s.tick with goNow := true }).showCommit

/-- A GO commit waits for its weir. -/
def State.goPending (s : State) : Bool := s.tick.goNow || s.tick.goNext

/-- The target lies two ticks or more ahead of TICK_COUNT; the difference is a signed 48-bit number. -/
def aheadEnough (t count : TickNo) : Bool := decide ((2 : Int) ≤ (t - count).toInt)

/-- A target granted at FAB cycle `cyc` arms a commit, or is refused with BUSY or LATE (R38 to R40): the LAST_ERR code, 0
when armed. -/
def State.armCode (s : State) (t : TickNo) (cyc : Nat) : Nat :=
  if s.goPending then ceBUSY else if aheadEnough t (s.countAt cyc) then 0 else ceLATE

/-- The arming (R39). -/
def State.arm (s : State) (t : TickNo) (cyc : Nat) : State :=
  let c := s.armCode t cyc
  if c = 0 then (s.setTick { s.tick with target := some t }).showCommit else s.commitErr c

/-- The target that a write of DEV_COMMIT_AT_LO names (R39). -/
def State.atTarget (s : State) (lo : Word) : TickNo := BitVec.ofNat 48 (s.get Reg.DEV_COMMIT_AT_HI.TICK * 2 ^ 32 + lo.toNat)

/-- A write of DEV_COMMIT_AT_LO (R39): a refused one leaves the register as it was. -/
def State.armWrite (s : State) (lo : Word) (cyc : Nat) : State :=
  let t := s.atTarget lo
  let s' := s.arm t cyc
  if s.armCode t cyc = 0 then s'.setWord Reg.DEV_COMMIT_AT_LO.word.addr lo else s'

/-- A write of DEV_COMMIT (R40): CANCEL comes before GO. -/
def State.commitWrite (s : State) (v : Word) (cyc : Nat) : State :=
  let s := if v.getLsbD 1 then s.cancelArmed else s
  if v.getLsbD 0 then s.commitGo cyc else s

/-- A read of DEV_TICK_LO latches the high word (R31). -/
def State.readTickLo (s : State) (cyc : Nat) : Word × State :=
  let n := (s.countAt cyc).toNat
  (BitVec.ofNat 32 n, s.setNat Reg.DEV_TICK_HI.word (n / 2 ^ 32))

/-- A read of DEV_COMMIT_LAST_LO latches the high word (R31). -/
def State.readLastLo (s : State) : Word × State :=
  let n := s.tick.last.toNat
  (BitVec.ofNat 32 n, s.setNat Reg.DEV_COMMIT_LAST_HI.word (n / 2 ^ 32))

/-- A read noted on the bus. -/
def State.readDone (r : Word × State) : State := r.2.onBus r.1 .done

/-! ### Commands -/

/-- TC_STAGE (R32, R34): a write of `v` at register address `a` by `who`, granted at FAB cycle `cyc`; only its TC fields. -/
def execTcStage (who : Requester) (a : BitVec 24) (v : Word) (cyc : Nat) (s : State) : Host.Outcome State Fault Refusal :=
  .next (if tcMask a.toNat = 0 then s else s.tcWrite who a.toNat v cyc)

/-- DEV_COMMIT_GO (R35). -/
def execDevCommitGo (cyc : Nat) (s : State) : Host.Outcome State Fault Refusal := .next (s.byRow ((s.commitWrite 1 cyc).onBus 0 .done))

/-- DEV_COMMIT_CANCEL (R40): with GO in the same write where `go`. -/
def execDevCommitCancel (go : Bool) (cyc : Nat) (s : State) : Host.Outcome State Fault Refusal :=
  .next (s.byRow ((s.commitWrite (if go then 3 else 2) cyc).onBus 0 .done))

/-- DEV_COMMIT_AT_LO_WRITE (R39). -/
def execDevCommitAtLoWrite (v : Word) (cyc : Nat) (s : State) : Host.Outcome State Fault Refusal := .next (s.byRow ((s.armWrite v cyc).onBus 0 .done))

/-- DEV_TICK_LO_READ (R31). -/
def execDevTickLoRead (cyc : Nat) (s : State) : Host.Outcome State Fault Refusal := .next (s.byRow (State.readDone (s.readTickLo cyc)))

/-- DEV_COMMIT_LAST_LO_READ (R31). -/
def execDevCommitLastLoRead (s : State) : Host.Outcome State Fault Refusal := .next (s.byRow (State.readDone s.readLastLo))

end Sys2Proof.Machine
end

