-- ==== Sys2Proof/Machine/Xing.lean ====
section
/-! DEFINITION. The 28 clock-domain crossings (04_domain_crossings.md, R67 to R78): their table, what a reset of one side does to them,
and the delivery of pulses. A transfer that meets no trouble is part of the command that causes it. -/

namespace Sys2Proof.Machine

/-! ### The crossings (R67) -/

/-- The clock domains of R19. -/
inductive Clk where
  | ref | lpo | sys | aud | fab | pwr | ctx | crx0 | crx1 | sap0 | sap1 | hsp
deriving DecidableEq, Repr

/-- One row of the table of R67: clocks, power domains of the logic on each side, FIFO depth and word width (depth 0: no word path), whether it
is ratio-synchronous, and whether it has pulse channels. The level channels are those of rows 3 and 25 to 27. -/
structure XingRow where
  src : Clk
  dst : Clk
  srcDoms : List Dom
  dstDoms : List Dom
  depth : Nat
  width : Nat := 32
  ratio : Bool := false
  pulses : Bool := false
  levels : Bool := false
deriving DecidableEq, Repr

/-- Crossing `n`. The converter logic on the AUD side lies in AIN, AOUT, PST and LSN beside the tick generator's in SYS (R19). -/
def xingRow (n : Nat) : XingRow :=
  match n with
  | 0 => ⟨.hsp, .sys, [.sys], [.sys], 8, 32, false, true, false⟩
  | 1 => ⟨.sys, .hsp, [.sys], [.sys], 8, 32, false, false, false⟩
  | 2 => ⟨.sys, .fab, [.sys], [.fab], 16, 32, false, false, false⟩
  | 3 => ⟨.fab, .sys, [.fab], [.sys], 16, 32, false, true, true⟩
  | 4 => ⟨.sys, .aud, [.sys], [.ain, .aout, .lsn], 8, 32, false, false, false⟩
  | 5 => ⟨.aud, .sys, [.ain, .aout, .lsn], [.sys], 8, 32, false, true, false⟩
  | 6 => ⟨.sys, .pwr, [.sys], [.pst], 8, 32, false, false, false⟩
  | 7 => ⟨.pwr, .sys, [.pst], [.sys], 8, 32, false, true, false⟩
  | 8 => ⟨.sys, .ctx, [.sys], [.chn], 16, 32, false, false, false⟩
  | 9 => ⟨.ctx, .sys, [.chn], [.sys], 16, 32, false, true, false⟩
  | 10 => ⟨.crx0, .sys, [.chn], [.sys], 16, 32, false, false, false⟩
  | 11 => ⟨.crx1, .sys, [.chn], [.sys], 16, 32, false, false, false⟩
  | 12 => ⟨.aud, .fab, [.sys, .ain, .lsn], [.fab], 4, 32, true, true, false⟩
  | 13 => ⟨.fab, .aud, [.fab], [.sys, .aout, .pst], 4, 32, true, false, false⟩
  | 14 => ⟨.aud, .pwr, [.sys], [.pst], 4, 32, true, false, false⟩
  | 15 => ⟨.pwr, .aud, [.pst], [.sys], 4, 32, true, false, false⟩
  | 16 => ⟨.fab, .ctx, [.fab], [.chn], 64, 64, false, false, false⟩
  | 17 => ⟨.crx0, .fab, [.chn], [.fab], 64, 64, false, false, false⟩
  | 18 => ⟨.crx1, .fab, [.chn], [.fab], 64, 64, false, false, false⟩
  | 19 => ⟨.crx0, .ctx, [.chn], [.chn], 32, 64, false, false, false⟩
  | 20 => ⟨.crx1, .ctx, [.chn], [.chn], 32, 64, false, false, false⟩
  | 21 => ⟨.sap0, .fab, [.fab], [.fab], 32, 32, false, false, false⟩
  | 22 => ⟨.fab, .sap0, [.fab], [.fab], 32, 32, false, false, false⟩
  | 23 => ⟨.sap1, .fab, [.fab], [.fab], 32, 32, false, false, false⟩
  | 24 => ⟨.fab, .sap1, [.fab], [.fab], 32, 32, false, false, false⟩
  | 25 => ⟨.lpo, .sys, [.aon], [.sys], 0, 32, false, true, true⟩
  | 26 => ⟨.sys, .lpo, [.sys], [.aon], 0, 32, false, false, true⟩
  | _ => ⟨.ref, .sys, [.aon], [.sys], 0, 32, false, false, true⟩

/-- A side of a crossing is powered: some domain that holds its logic is on. -/
def State.sideOn (s : State) (ds : List Dom) : Bool := ds.any fun d => s.domOn d

/-- Both sides of crossing `n` are powered. -/
def State.xingPowered (s : State) (n : Nat) : Bool := s.sideOn (xingRow n).srcDoms && s.sideOn (xingRow n).dstDoms

/-! ### Clocks at a crossing (R73) -/

/-- The clocks that come from outside: the model does not know whether they show an edge. -/
def Clk.outside : Clk → Bool
  | .crx0 | .crx1 | .sap0 | .sap1 | .hsp => true
  | _ => false

/-- A clock made on the device runs: PLL-P's output falls back on REF (R54), and a ratio-synchronous side needs PLL-A. -/
def State.clkRuns (s : State) (c : Clk) : Bool :=
  match c with
  | .ref => s.bit Reg.CLK_STAT.REF_OK
  | .lpo => true
  | .sys => s.domOn .sys
  | .aud => s.audRuns
  | .fab => s.audRuns
  | .pwr => s.domOn .pst && s.bit Reg.CLK_STAT.REF_OK
  | .ctx => s.domOn .chn && s.locked pllC
  | _ => false

/-- The clock of a domain's register logic runs; LSN's goes on from LPO where AUD does not run. -/
def State.farRuns (s : State) (d : Dom) : Bool :=
  match d with
  | .fab => s.clkRuns .fab
  | .ain => s.clkRuns .aud
  | .aout => s.clkRuns .aud
  | .pst => s.clkRuns .pwr
  | _ => true

/-- One side of crossing `n` is known to stand still: its clock is made on the device and does not run. The converter side of
crossings 4 and 5 has LSN's logic too, which always has a clock. -/
def State.sideStands (s : State) (ds : List Dom) (c : Clk) : Bool := !c.outside && !s.clkRuns c && !(ds.elem .lsn && !ds.elem .sys && s.domOn .lsn)

/-- Crossing `n` may move words: no side stands still. -/
def State.xingClocked (s : State) (n : Nat) : Bool :=
  !s.sideStands (xingRow n).srcDoms (xingRow n).src && !s.sideStands (xingRow n).dstDoms (xingRow n).dst

/-- Both clocks of crossing `n` are known to run: it cannot time out. -/
def State.xingSure (s : State) (n : Nat) : Bool := s.clkRuns (xingRow n).src && s.clkRuns (xingRow n).dst

/-- The crossing that carries register accesses to a domain, if any (R67). -/
def xingOfDom : Dom → Option Nat
  | .fab => some 2
  | .ain => some 4
  | .aout => some 4
  | .lsn => some 4
  | .pst => some 6
  | _ => none

/-! ### The state of a crossing -/

def State.xingSt (s : State) (n : Nat) : XingSt := tabGet (fun _ => {}) s.xing n

/-- Crossing `n` replaced; LEVEL shows the words in its FIFO (R71). -/
def State.setXing (s : State) (n : Nat) (x : XingSt) : State :=
  { s with xing := tabPut (fun _ => {}) s.xing n x }.set (Reg.XING_STAT.LEVEL n) x.words.length

/-- Crossing `n` takes words: RDY, and the far clock not declared silent. -/
def State.xingOpen (s : State) (n : Nat) : Bool := s.bit (Reg.XING_STAT.RDY n) && !s.bit (Reg.XING_STAT.SILENT n)

/-- A write to the FIFO would find it full (R71). -/
def State.xingFull (s : State) (n : Nat) : Bool := decide ((xingRow n).depth ≤ (s.xingSt n).words.length)

/-- The register accesses among some words. -/
def accessesOf (ws : List XingWord) : List Access :=
  ws.filterMap fun w => match w with
    | .access x => some x
    | .gauge _ => none

/-- Accesses that ended as refused, and whose requesters are to be told. -/
def State.endAll (s : State) (xs : List Access) : State := { s with bus := { s.bus with ended := s.bus.ended ++ xs } }

/-- One side of crossing `n` is reset or switched off (R76): RDY falls, the words are discarded and counted, and the accesses among them
are refused. Held accesses stay held; those whose domain went off are refused (R15). -/
def State.xingReset (s : State) (n : Nat) : State :=
  let x := s.xingSt n
  let gone := fun (a : Access) => match regRow a.addr with
    | some r => !s.domOn r.dom
    | none => !s.domOn .fab
  ((s.count (Reg.XING_DROP.COUNT n) x.words.length |>.set (Reg.XING_STAT.RDY n) 0 |>.set (Reg.XING_STAT.WAKE_PEND n) 0).setXing n
      { words := [], held := x.held.filter fun a => !gone a }).endAll (accessesOf x.words ++ x.held.filter gone)

/-- Every crossing with a side in domain `d` is reset (R76). -/
def State.xingResetDom (s : State) (d : Dom) : State :=
  (List.range 28).foldl (fun s n => if (xingRow n).srcDoms.elem d || (xingRow n).dstDoms.elem d then s.xingReset n else s) s

/-- A timeout is counted and logged (R74 steps 3 and 5): `n` the crossing, `dropped` what it discarded. -/
def State.xingLog (s : State) (n dropped : Nat) (wake : Bool) : State :=
  s.count Reg.XING_TMO_LOG.COUNT 1 |>.set Reg.XING_TMO_LOG.XNUM n |>.set Reg.XING_TMO_LOG.WAKE (b2n wake)
    |>.count (Reg.XING_DROP.COUNT n) dropped |>.flag Reg.XING_EVT.TIMEOUT

def State.setPwr (s : State) (x : PwrSt) : State := { s with pwr := x }

/-- A crossing with work for a gated domain has its clock started (R75). -/
def State.ungate (s : State) (d : Dom) : State :=
  if s.pwr.gated / 2 ^ d.index % 2 = 1 then s.setPwr { s.pwr with gated := s.pwr.gated - 2 ^ d.index } else s

/-- The clock of domain `d` is gated (R410). -/
def State.isGated (s : State) (d : Dom) : Bool := s.pwr.gated / 2 ^ d.index % 2 == 1

/-! ### Pulses (R69, R70) -/

/-- A pulse of crossing `n` is delivered to interrupt source `src` (R69, R70); `more` further pulses were raised while
its handshake was outstanding. Native: they arrive as one merged event. Compatible: they are discarded. -/
def State.xingPulse (s : State) (n src more : Nat) : State :=
  let s := s.pulse src false
  if more = 0 then s
  else if s.bit (Reg.XING_CFG.COMPAT n) then s.flag (Reg.XING_STAT.OVERRUN n) |>.flag Reg.XING_EVT.OVERRUN
  else (s.flag (Reg.XING_STAT.MERGED n) |>.flag Reg.XING_EVT.MERGED).pulse src true

/-- A pulse raised at crossing `n`, with `more` raised behind it. With the receiving side off, both are discarded and counted (R76).
DESIGN CHOICE: so are those toward a far clock declared silent; R74 discards the pending ones
and does not name new ones. With RDY low after a reset of the sending side, the request already raised is delivered once, and those behind
it are lost with the sender. -/
def State.pulseAt (s : State) (n src more : Nat) : State :=
  if !(xingRow n).pulses then s
  else if !s.sideOn (xingRow n).dstDoms || s.bit (Reg.XING_STAT.SILENT n) then s.count (Reg.XING_DROP.COUNT n) (1 + more)
  else s.xingPulse n src (if s.bit (Reg.XING_STAT.RDY n) then more else 0)

/-! ### Commands -/

/-- PULSE_DELIVERY (R69, R70, R76). -/
def execPulseDelivery (n : Fin 28) (src : Fin 256) (more : Nat) (s : State) : Host.Outcome State Fault Refusal :=
  .next (s.pulseAt n src more)

end Sys2Proof.Machine
end

