-- ==== Sys2Proof/Machine/Lsn.lean ====
section
/-! DEFINITION. Beams, wake stages, the pre-roll and self-hearing checks (16_listening.md, R308 to R320, R473). -/

namespace Sys2Proof.Machine

def State.setLsn (s : State) (l : LsnSt) : State := { s with lsn := l }

/-- Waits: W2, W3 and the automatic release of the pre-roll. -/
abbrev tmW2 : Nat := 0x600
abbrev tmW3 : Nat := 0x601
abbrev tmAutorel : Nat := 0x602

/-- The pre-roll is frozen. -/
def State.frozen (s : State) : Bool := s.bit Reg.LSN_STAT.FROZEN

/-- W1 runs: enabled, with the clocks, in RUN, QUIET or LISTEN (R309, R313). -/
def State.w1Runs (s : State) : Bool :=
  s.bit Reg.LSN_CTL.EN && s.bit Reg.LSN_CTL.W1EN && (s.domMode == modeRUN || s.domMode == modeQUIET || s.domMode == modeLISTEN)

/-- LSN_STAT.STAGE shows the highest stage that runs. -/
def State.showStage (s : State) : State :=
  s.set Reg.LSN_STAT.STAGE (if s.lsn.w3 then 3 else if s.lsn.w2 then 2 else if s.w1Runs then 1 else 0)

/-- The LSN domain follows R408: in RUN and QUIET it is on while EN is 1, in LISTEN while W2 or W3 runs. At power-up the values stored for it
take effect (R37, R412); at power-down its crossings are reset (R76). -/
def State.lsnPower (s : State) : State :=
  let on := if s.domMode == modeRUN || s.domMode == modeQUIET then s.bit Reg.LSN_CTL.EN else s.domMode == modeLISTEN && (s.lsn.w2 || s.lsn.w3)
  if on == s.domOn .lsn then s
  else if on then (s.setDom .lsn true).applyStored .lsn
  else (s.setDom .lsn false).xingResetDom .lsn

/-- The PDM clock comes from AUD, or from LPO in LISTEN and while a family change holds AUD (R309, R319). -/
def State.lsnClock (s : State) : State := s.set Reg.LSN_STAT.CLKSRC (b2n (s.mode == modeLISTEN || s.clk.stopped))

/-- PCLK as it acts. -/
def State.pclk (s : State) : Nat := min 2 (s.get Reg.LSN_CTL.PCLK)

/-! ### Microphones (R308, R309) -/

/-- Microphone `m`: its data wire PDMDd, the clock that drives the wire, PDMCLK0 or PDMCLK1, and whether it is sampled on the falling edge. -/
def micWire (m : Nat) : Nat := m / 2
def micClock (m : Nat) : Nat := if micWire m < 4 then 0 else 1
def micFalls (m : Nat) : Bool := m % 2 == 1

/-- The PDM clocks in Hz; 0 while they stand (R309). -/
def State.pdmHz (s : State) : Nat :=
  if !s.bit Reg.LSN_CTL.EN || !(s.domMode == modeRUN || s.domMode == modeQUIET || s.domMode == modeLISTEN) then 0
  else if s.bit Reg.LSN_STAT.CLKSRC then 768000 * 2 ^ s.pclk
  else (if s.get Reg.CLK_STAT.FAMILY = 0 then 768000 else 705600) * 2 ^ s.pclk

/-- The source code at which a weir's samples bring the stream of a data wire on one edge of its clock. -/
def wireCode (d : Nat) (falls : Bool) : Nat := 512 + 16 + 2 * d + b2n falls

/-- The stream of microphone `m` in this tick. -/
def State.micStream (s : State) (ext : Tab Word) (m : Nat) : Word :=
  if s.pdmHz = 0 then 0 else tabGet (fun _ => (0 : Word)) ext (wireCode (micWire m) (micFalls m))

/-! ### Feature frames (R312, R313) -/

/-- The delay of microphone `m` in beam 0, which W2 and W3 use (R313). -/
def State.stageDelay (s : State) (m : Nat) : Nat :=
  s.get (if m % 2 = 0 then Reg.LSN_BEAM_DLY.EVEN 0 (m / 2) else Reg.LSN_BEAM_DLY.ODD 0 (m / 2))

/-- The microphones of the stage that runs, with their delays. -/
def State.stageMics (s : State) : List (Nat × Nat) :=
  let ms := if s.lsn.w3 then [Reg.LSN_WCFG.W3MIC0, Reg.LSN_WCFG.W3MIC1, Reg.LSN_WCFG.W3MIC2, Reg.LSN_WCFG.W3MIC3] else [Reg.LSN_WCFG.W2MICA, Reg.LSN_WCFG.W2MICB]
  ms.map fun f => (s.get f, s.stageDelay (s.get f))

/-- `n` frames go into the feature buffer, which holds 2 s. -/
def State.putFrames (s : State) (n : Nat) : State :=
  let l := s.lsn
  let new := (List.range n).map fun i => (List.range 32).map fun b => Config.feature s.stageMics (l.frames + i) b
  s.setLsn { l with features := (new.reverse ++ l.features).take 200, frames := l.frames + n }

/-- One millisecond of W2 or W3: a frame every 10 ms. -/
def State.featureMs (s : State) : State :=
  if !(s.lsn.w2 || s.lsn.w3) || s.pdmHz = 0 then s
  else if s.lsn.frameMs + 1 < 10 then s.setLsn { s.lsn with frameMs := s.lsn.frameMs + 1 }
  else (s.setLsn { s.lsn with frameMs := 0 }).putFrames 1

/-! ### Templates (R316) -/

/-- A LISTEN section's payload keeps the rules of R316. -/
def templateValid (bs : List Byte) : Bool :=
  (byteAt bs 0 == 1 || byteAt bs 0 == 2) && decide (1 ≤ byteAt bs 1 ∧ byteAt bs 1 ≤ 6 ∧ 10 ≤ byteAt bs 2 ∧ byteAt bs 2 ≤ 250 ∧ 1 ≤ byteAt bs 3) &&
  leAt bs 6 2 == 0 && (byteAt bs 0 == 2 || leAt bs 4 2 == 0) && bs.length == 8 + byteAt bs 1 * byteAt bs 2 * 32 && decide (bs.length ≤ 8 + 49152)

/-- Template `t` is stored (R317). -/
def State.putTemplate (s : State) (t : Nat) (bs : List Byte) : State :=
  (s.setLsn { s.lsn with templates := tabPut (fun _ => []) s.lsn.templates t bs }).set (Reg.LSN_TMPL.VALID t) 1 |>.set (Reg.LSN_TMPL.NVAR t) (byteAt bs 1)
    |>.set (Reg.LSN_TMPL.KIND t) (byteAt bs 0) |>.set (Reg.LSN_TMPL.NFRM t) (byteAt bs 2) |>.set (Reg.LSN_TMPL.THRESH t) (byteAt bs 3)

/-- Template `t` takes part: enabled and stored. -/
def State.templateOn (s : State) (t : Nat) : Bool := s.bitAt Reg.LSN_CTL.TMASK t && s.bit (Reg.LSN_TMPL.VALID t)

/-- A template that W3 is matching against is replaced after the match in progress (R143, R320). -/
def State.storeTemplate (s : State) (t : Nat) (bs : List Byte) : State :=
  if s.lsn.w3 && s.templateOn t then s.setLsn { s.lsn with waiting := s.lsn.waiting.filter (fun x => x.1 != t) ++ [(t, bs)] } else s.putTemplate t bs

/-! ### Scores (R317) -/

/-- Frame `j` of variant `v` of a stored template. -/
def templateFrame (bs : List Byte) (v j : Nat) : List Byte := (bs.drop (8 + (v * byteAt bs 2 + j) * 32)).take 32

/-- A frame as it is compared: in units of 1/32 of a frame unit, for a phrase without its mean over the bands. -/
def frameLevels (phrase : Bool) (f : List Byte) : List Int :=
  let total : Int := (f.map fun b => (b.toNat : Int)).sum
  f.map fun b => 32 * (b.toNat : Int) - (if phrase then total else 0)

/-- W2's eight bands, in units of 1/128: each the mean of four adjacent ones. -/
def coarse (f : List Int) : List Int := (List.range 8).map fun i => ((f.drop (4 * i)).take 4).sum

/-- The sum of the absolute differences of two frames. -/
def frameDist (a b : List Int) : Nat := ((a.zip b).map fun p => (p.1 - p.2).natAbs).sum

/-- A warping path of live and template frames: steps of slope 1/2 to 2. -/
def pathSteps : List (Nat × Nat) → Bool
  | p :: q :: rest => (decide (q = (p.1 + 1, p.2 + 1)) || decide (q = (p.1 + 2, p.2 + 1)) || decide (q = (p.1 + 1, p.2 + 2))) && pathSteps (q :: rest)
  | _ => true

/-- The length of a path in live frames. -/
def pathLength (path : List (Nat × Nat)) : Nat := match path.head?, path.getLast? with
  | some a, some b => b.1 + 1 - a.1
  | _, _ => 0

/-- An alignment of the live frames, oldest first, with the first `n` frames of a variant: the path begins at the variant's first frame, ends at its
last, is at most 2.75 s long, and takes no live frame below MIN_LEVEL of an acoustic signal. -/
def pathLegal (live : List (List Byte)) (bs : List Byte) (n : Nat) (path : List (Nat × Nat)) : Bool :=
  pathSteps path && (path.head?.map (·.2)) == some 0 && (path.getLast?.map (·.2 + 1)) == some n && decide (pathLength path ≤ 275) &&
    path.all fun p => decide (p.1 < live.length) && (byteAt bs 0 == 1 || decide (32 * leAt bs 4 2 ≤ ((live.getD p.1 []).map (·.toNat)).sum))

/-- The score of an alignment with variant `v`, 255 − 8 × d and at least 0, with how it is rounded left open; `w2` compares eight merged bands. -/
def pathScore (live : List (List Byte)) (bs : List Byte) (v : Nat) (w2 : Bool) (path : List (Nat × Nat)) : Nat :=
  let lev := fun (f : List Byte) => (if w2 then coarse else id) (frameLevels (byteAt bs 0 == 1) f)
  let sum := (path.map fun p => frameDist (lev (live.getD p.1 [])) (lev (templateFrame bs v p.2))).sum
  (max 0 (roundDiv (255 * (1024 * path.length : Nat) - 8 * (sum : Nat)) (1024 * path.length : Nat))).toNat

/-- The stored template `t`. -/
def State.template (s : State) (t : Nat) : List Byte := tabGet (fun _ => []) s.lsn.templates t

/-! ### Stages (R313, R314) -/

/-- W2 and W3 stop; waiting templates go in. -/
def State.stagesEnd (s : State) : State :=
  let s := (s.setLsn { s.lsn with w2 := false, w3 := false }).stopTimer tmW2 |>.stopTimer tmW3
  let s := s.lsn.waiting.foldl (fun (s : State) x => s.putTemplate x.1 x.2) (s.setLsn { s.lsn with waiting := [] })
  s.lsnPower.showStage

/-- What a match records (R314, R315). -/
structure MatchInfo where
  template : Nat
  vari : Nat
  score : Nat
  dur : Nat
  pstart : Nat
  pred : Word := 0
  index : Nat := 0
  ring : List Byte := []
deriving DecidableEq, Repr

/-- A match (R314): recorded, the pre-roll frozen, the stages back at W1. -/
def State.matchNow (s : State) (m : MatchInfo) : State :=
  let s := s.set Reg.LSN_MATCH.TEMPLATE m.template |>.set Reg.LSN_MATCH.VARIANT m.vari |>.set Reg.LSN_MATCH.SCORE m.score |>.set Reg.LSN_MATCH.DUR m.dur
    |>.set Reg.LSN_PRE_INFO.LEN (2 * m.ring.length) |>.set Reg.LSN_PRE_INFO.PSTART m.pstart |>.set Reg.LSN_PRE_HDR.PRED m.pred.toNat
    |>.set Reg.LSN_PRE_HDR.INDEX m.index |>.set Reg.LSN_STAT.FROZEN 1 |>.flag Reg.LSN_EVT.MATCH
  ((s.setLsn { s.lsn with ring := m.ring, pos := 0 }).startTimer tmAutorel).stagesEnd

/-- With W3 passed over its condition counts as met (R313): a match whose record the spec gives no value for but the template
that W2 found. -/
def State.matchPassed (s : State) (t : Option Nat) (score : Option Nat) : State :=
  let f := fun i => (Config.free (s.free + i)).toNat
  ({ s with free := s.free + 5 }).matchNow
    { template := t.getD (f 0 % 4), vari := f 1 % 6, score := score.getD (f 2 % 256), dur := f 3 % 256, pstart := f 4 % 49152 }

/-- W3 starts, or is passed over. -/
def State.startW3 (s : State) (t score : Option Nat) : State :=
  if s.bit Reg.LSN_CTL.W3EN then
    (((s.setLsn { s.lsn with w2 := false, w3 := true, frameMs := 0 }).stopTimer tmW2).startTimer tmW3 |>.flag Reg.LSN_EVT.W3_UP).lsnPower.showStage
  else s.matchPassed t score

/-- One 10 ms frame of W1 (R313): energy above the tracked floor by TH1 (in 0.5 dB), in MODE 0 with the voice band dominant, joins the run; the floor
rises by at most 0.5 dB/s and falls at once. -/
def State.w1Frame (s : State) : State :=
  let l := s.lsn
  let mode := s.get Reg.LSN_W1CFG.MODE
  let mic := s.get Reg.LSN_W1CFG.MIC
  let e := Config.w1Energy mode mic l.w1Frames
  let floor := l.w1Floor.getD e
  let met := decide (floor + 100 * s.get Reg.LSN_W1CFG.TH1 < e) && (mode == 1 || Config.w1Voice mic l.w1Frames)
  s.setLsn { l with w1Frames := l.w1Frames + 1, w1Floor := some (min e (floor + 1)), w1Run := if met then min 255 (l.w1Run + 1) else 0 }

/-- One millisecond of W1. -/
def State.w1Tick (s : State) : State :=
  if !s.w1Runs || s.pdmHz = 0 then s
  else if s.lsn.w1Ms + 1 < 10 then s.setLsn { s.lsn with w1Ms := s.lsn.w1Ms + 1 }
  else (s.setLsn { s.lsn with w1Ms := 0 }).w1Frame

/-- W1's condition has held for HANG consecutive frames; 0 acts as 1. -/
def State.w1Met (s : State) : Bool := decide (max 1 (s.get Reg.LSN_W1CFG.HANG) ≤ s.lsn.w1Run)

/-- W1 fires (R313): while the pre-roll is frozen it does not escalate. W2 first runs over the last 0.5 s of the pre-roll. -/
def State.w1Fire (s : State) : State :=
  if s.w1Runs && s.w1Met && !s.frozen && !s.lsn.w2 && !s.lsn.w3 then
    if s.bit Reg.LSN_CTL.W2EN then
      ((s.setLsn { s.lsn with w2 := true, frameMs := 0 }).startTimer tmW2 |>.flag Reg.LSN_EVT.W2_UP).lsnPower.showStage.putFrames 50
    else s.startW3 none none
  else s

/-- W2's coarse score of template `t` along an alignment reaches TH2 (R313, R317): the first frames of variant 0, at most 30. -/
def State.w2Fire (s : State) (t : Nat) (path : List (Nat × Nat)) : State :=
  let live := s.lsn.features.reverse
  let bs := s.template t
  let score := pathScore live bs 0 true path
  if s.lsn.w2 && s.templateOn t && pathLegal live bs (min 30 (byteAt bs 2)) path && s.get Reg.LSN_WCFG.TH2 ≤ score then s.startW3 (some t) (some score)
  else s

/-- W2 has run 1.5 s without a result (R314). -/
def State.w2Timeout (s : State) : State := if s.lsn.w2 && s.due tmW2 1500 then s.stagesEnd else s

/-- W3 ends without a match (R314): after 3 s, or when no template is enabled any more (R320). -/
def State.w3End (s : State) : State :=
  if s.lsn.w3 && (s.due tmW3 3000 || s.get Reg.LSN_CTL.TMASK == 0 || !s.bit Reg.LSN_CTL.W3EN || !s.bit Reg.LSN_CTL.W1EN || !s.bit Reg.LSN_CTL.EN) then s.stagesEnd.flag Reg.LSN_EVT.W3_END else s

/-- Entry to STANDBY or DORMANT (R319): the stages are abandoned. -/
def State.stagesAbandon (s : State) : State := let s := s.flagIf s.lsn.w3 Reg.LSN_EVT.W3_END; s.stagesEnd

/-- A W3 match may be declared: the alignment is legal, its score reaches THRESH, and it ends in the last 250 ms (R313, R315, R317). -/
def State.matchAllowed (s : State) (m : MatchInfo) (path : List (Nat × Nat)) : Bool :=
  let live := s.lsn.features.reverse
  let bs := s.template m.template
  s.lsn.w3 && s.templateOn m.template && decide (m.vari < s.get (Reg.LSN_TMPL.NVAR m.template)) && pathLegal live bs (byteAt bs 2) path &&
    decide (s.get (Reg.LSN_TMPL.THRESH m.template) ≤ m.score ∧ live.length ≤ (path.getLast?.getD (0, 0)).1 + 26 ∧ m.ring.length ≤ 24576)

/-! ### Pre-roll (R314, R315) -/

/-- The ring is unfrozen. -/
def State.releaseRing (s : State) : State :=
  (s.setLsn { s.lsn with ring := [], pos := 0 }).stopTimer tmAutorel |>.set Reg.LSN_STAT.FROZEN 0

/-- AUTOREL seconds after the match. -/
def State.autoRelease (s : State) : State :=
  let a := s.get Reg.LSN_CTL.AUTOREL
  if s.frozen && a != 0 && s.due tmAutorel (1000 * a) then s.releaseRing else s

/-- A read of LSN_PRE_DATA: the next eight samples, 0 past the last (R320). A ring that still turns has no content the spec fixes. -/
def State.preRead (s : State) : Word × State :=
  if s.frozen then
    (BitVec.ofNat 32 (leAt s.lsn.ring (4 * s.lsn.pos) 4), s.setLsn { s.lsn with pos := min 6144 (s.lsn.pos + 1) })
  else (s.fresh, s.drawn)

/-- A write of LSN_PRE_CTL. -/
def State.preCtl (s : State) (v : Word) : State :=
  let s := if v.getLsbD 1 then s.setLsn { s.lsn with pos := 0 } else s
  if v.getLsbD 0 && s.frozen then s.releaseRing else s

/-! ### Beams (R310, R311) -/

def State.beam (s : State) (b : Nat) : Beam := tabGet (fun _ => {}) s.lsn.beams b

def State.setBeam (s : State) (b : Nat) (x : Beam) : State := s.setLsn { s.lsn with beams := tabPut (fun _ => {}) s.lsn.beams b x }

/-- The beam settings that the registers hold. -/
def State.beamSettings (s : State) (b : Nat) : Word × List Word :=
  (s.word (Reg.LSN_BEAM_CTL.word b).addr, (List.range 8).map fun i => s.word (Reg.LSN_BEAM_DLY.word b i).addr)

/-- CFGERR (R311). -/
def State.lsnCfgErr (s : State) : State := s.set Reg.LSN_STAT.CFGERR (b2n (decide (4 ≤ s.rate) && s.pclk != 2))

/-- Ticks in 1 ms, at least one. -/
def State.ticksPerMs (s : State) : Nat := max 1 (tickHz s.rate / 1000)

/-- Beam `b` delivers samples (R311). -/
def State.beamLive (s : State) (b : Nat) : Bool :=
  s.domOn .lsn && s.bit Reg.LSN_CTL.EN && s.mode == modeRUN && !s.changing && !s.bit Reg.LSN_STAT.CLKSRC && !s.bit Reg.LSN_STAT.CFGERR && (s.beam b).ctl.getLsbD 31

/-- The members of a beam's settings in force, with the stream and the delay of each. -/
def State.beamMembers (s : State) (b : Nat) (ext : Tab Word) : List (Nat × Word) :=
  let x := s.beam b
  ((List.range 16).filter fun m => x.ctl.getLsbD m).map fun m =>
    (((x.delays.getD (m / 2) 0).toNat / (if m % 2 = 0 then 1 else 65536)) % 2048, s.micStream ext m)

/-- The beam takes a tick of its microphones (R310): the average of the delayed members, with GAIN, at the tick rate. -/
def State.beamTake (ext : Tab Word) (s : State) (b : Nat) : State :=
  if !s.beamLive b then s
  else
    let x := s.beam b
    let y := Config.beamFilter s.pdmHz s.rate x.mem (s.beamMembers b ext)
    let gain := min 48 (x.ctl.toNat / 65536 % 256)
    let v := roundDiv (y.2 * (if gain = 0 then 65536 else Config.dbGain (500 * (gain : Int)) : Nat)) 65536
    s.setBeam b { x with mem := y.1, out := BitVec.ofInt 32 (clampInt (-2147483648) 2147483647 v) }

/-- The beam's source value at a weir, under the ramps of a change (R310, R311). -/
def State.beamSample (s : State) (b : Nat) : Word :=
  if !s.beamLive b then 0
  else match (s.beam b).change with
    | none => (s.beam b).out
    | some k =>
      let d := s.ticksPerMs
      let w := if k < d then d - k else k - d
      BitVec.ofInt 32 (roundDiv ((s.beam b).out.toInt * (min w d : Nat)) d)

/-- One tick of a beam change: after 1 ms the settings switch, after another the ramps are over. -/
def State.beamTick (s : State) (b : Nat) : State :=
  let x := s.beam b
  match x.change with
  | none => s
  | some k =>
    let d := s.ticksPerMs
    let x := if k + 1 = d then { x with ctl := (s.beamSettings b).1, delays := (s.beamSettings b).2, mem := 0 } else x
    s.setBeam b { x with change := if 2 * d ≤ k + 1 then none else some (k + 1) }

/-- The check window ends early (R318). -/
def State.checkVoid (s : State) : State :=
  match s.lsn.check with
  | some _ =>
    (s.setLsn { s.lsn with check := none }).set Reg.LSN_CHK_ONSET.VOID 1 |>.set Reg.LSN_CHK_CTL.EN 0 |>.flag Reg.LSN_EVT.CHK_DONE
  | none => s

/-- A committed beam change begins its ramps (R311); during a check window on the beam it ends the window (R318). -/
def State.beamFollow (s : State) (b : Nat) : State :=
  let x := s.beam b
  let n := s.beamSettings b
  if x.change.isNone && (x.ctl != n.1 || x.delays != n.2) then
    let s := s.setBeam b { x with change := some 0 }
    match s.lsn.check with
    | some c => if c.beam = b then s.checkVoid else s
    | none => s
  else s

/-! ### Self-hearing checks (R318) -/

/-- A committed EN = 1 opens a window. -/
def State.checkOpen (s : State) : State :=
  if s.bit Reg.LSN_CHK_CTL.EN && s.lsn.check.isNone && s.domOn .lsn then
    (List.range 31).foldl (fun s i => s.set (Reg.LSN_CHK_BAND.LEVEL i) 0x8000)
      ((s.setLsn { s.lsn with check := some { beam := s.get Reg.LSN_CHK_CTL.BEAM, len := max 256 (s.get Reg.LSN_CHK_CTL.LEN) } }).setWord Reg.LSN_CHK_ONSET.word.addr 0)
  else s

/-- |v| reaches −`thr` dBFS: |v| / 2^31 ≥ 10^(−thr / 20), compared exactly. -/
def reachesDb (v : Word) (thr : Nat) : Bool := decide (2 ^ 620 ≤ v.toInt.natAbs ^ 20 * 10 ^ thr)

/-- One weir of an open window with the beam's sample: the first tick at which it reaches the level is the onset. -/
def State.checkTick (s : State) (v : Word) : State :=
  match s.lsn.check with
  | none => s
  | some c =>
    if !s.beamLive c.beam then s.checkVoid
    else
      let hit := !s.bit Reg.LSN_CHK_ONSET.FOUND && decide (c.ticks < c.len) && reachesDb v (s.get Reg.LSN_CHK_CTL.THR)
      let s := if hit then s.set Reg.LSN_CHK_ONSET.FOUND 1 |>.set Reg.LSN_CHK_ONSET.POL (b2n v.msb) |>.set Reg.LSN_CHK_ONSET.TICKS c.ticks else s
      s.setLsn { s.lsn with check := some { c with ticks := min c.len (c.ticks + 1) } }

/-- The beam's passband edge in mHz: the lower of 0.454 × tick rate and PDM clock / 96 (R310). -/
def State.beamEdge (s : State) : Nat :=
  let aud := if s.get Reg.CLK_STAT.FAMILY = 0 then 49152000 else 45158400
  min (454 * tickHz s.rate) (aud * 1000 / (if s.pclk = 0 then 64 else if s.pclk = 1 then 32 else 16) / 96)

/-- The centre of third-octave band `i`, 10^(1.3 + i / 10) Hz, lies above the edge. -/
def State.bandAbove (s : State) (i : Nat) : Bool := decide (s.beamEdge ^ 10 < 10 ^ (13 + i) * 1000 ^ 10)

/-- The end of the window (R318): `levels` are the measured band levels. -/
def State.checkDone (s : State) (levels : List (BitVec 16)) : State :=
  match s.lsn.check with
  | some c =>
    if c.len ≤ c.ticks then
      let s := (List.range 31).foldl (fun s i => s.set (Reg.LSN_CHK_BAND.LEVEL i) (if s.bandAbove i then 0x8000 else (levels.getD i 0x8000).toNat)) s
      (s.setLsn { s.lsn with check := none }).set Reg.LSN_CHK_CTL.EN 0 |>.flag Reg.LSN_EVT.CHK_DONE
    else s
  | none => s

/-- What a commit, a rate change or a mode change gives the block. -/
def State.lsnFollowAll (s : State) : State :=
  let s := s.lsnPower.lsnClock.lsnCfgErr
  let s := if s.lsn.w2 && !(s.w1Runs && s.bit Reg.LSN_CTL.W2EN) then s.stagesEnd else s
  let s := s.w3End
  ((List.range 4).foldl State.beamFollow s).checkOpen.showStage

/-! ### Commands -/

/-- W2_TIMEOUT (R314). -/
def execW2Timeout (s : State) : Host.Outcome State Fault Refusal := .next s.w2Timeout

/-- W3_END (R314). -/
def execW3End (s : State) : Host.Outcome State Fault Refusal := .next s.w3End

/-- AUTOREL (R314). -/
def execAutorel (s : State) : Host.Outcome State Fault Refusal := .next s.autoRelease

/-- PRE_ROLL_RELEASE (R314). -/
def execPreRollRelease (s : State) : Host.Outcome State Fault Refusal := .next (s.byRow ((s.preCtl 1).onBus 0 .done))

/-- REWIND (R315). -/
def execRewind (s : State) : Host.Outcome State Fault Refusal := .next (s.byRow ((s.preCtl 2).onBus 0 .done))

/-- LSN_PRE_DATA_READ (R315). -/
def execLsnPreDataRead (s : State) : Host.Outcome State Fault Refusal := .next (s.byRow (State.readDone s.preRead))

/-- CHK_DONE (R318). -/
def execChkDone (levels : List (BitVec 16)) (s : State) : Host.Outcome State Fault Refusal := .next (s.checkDone levels)

end Sys2Proof.Machine
end

