-- ==== Sys2Proof/Machine/Irq.lean ====
section
/-! DEFINITION. The interrupt controller (20_interrupts.md, R371 to R382): eligibility, claims, completions and the
deliveries. Targets are numbered as in R372: 0 HA, 1 HB, 2 CH, 3 ST. -/

namespace Sys2Proof.Machine

def State.setIrq (s : State) (q : IrqSt) : State := { s with irq := q }

/-- FIXED mode (R378). -/
def State.irqFixed (s : State) : Bool := s.bit Reg.IC_CFG.MODE

/-- The sources that target `t` holds in service. -/
def State.held (s : State) (t : Nat) : List Nat := (s.irq.gates.filter fun e => e.2.st == .inService t).map (·.1)

/-- The running level of target `t`: the highest LEVEL it holds in service, or 0 (R378). -/
def State.runLevel (s : State) (t : Nat) : Nat := (s.held t).foldl (fun a n => max a (s.get (Reg.IC_SRC.LEVEL n))) 0

/-- Target `t` is marked asleep; ST never sleeps (R380). -/
def State.asleep (s : State) (t : Nat) : Bool := t < 3 && s.bitAt Reg.IC_TGT_SLEEP.SLEEP t

/-- The target may hold one more claim (R378): one in FIXED mode and for CH, else fifteen. -/
def State.mayHold (s : State) (t : Nat) : Bool := decide ((s.held t).length < (if s.irqFixed || t == 2 then 1 else 15))

/-- Every condition of R375 but the sleep mark. -/
def State.eligibleAwake (s : State) (n t : Nat) : Bool :=
  (s.gate n).st == .pending && s.bitAt (Reg.IC_SRC.MASK n) t && s.bit (Reg.IC_SRC.LEVEL n) && s.mayHold t &&
  (t != 2 || s.bit Reg.CHAIN_OWNER.ADOPTED) &&
  (s.irqFixed || decide (max (s.get (Reg.IC_THR.THR t)) (s.runLevel t) < s.get (Reg.IC_SRC.LEVEL n)))

/-- Source `n` is eligible for target `t` (R375). -/
def State.eligible (s : State) (n t : Nat) : Bool := s.eligibleAwake n t && !s.asleep t

/-- The sources that are pending, in ascending order. -/
def State.pendingSources (s : State) : List Nat := (s.irq.gates.filter fun e => e.2.st == .pending).map (·.1)

/-- The best of a list of sources (R376): the highest LEVEL in PRIORITY mode, and the lowest ID. -/
def State.bestSource (s : State) (ns : List Nat) : Option Nat :=
  ns.foldl (fun b n => match b with
    | none => some n
    | some m => if !s.irqFixed && s.get (Reg.IC_SRC.LEVEL m) < s.get (Reg.IC_SRC.LEVEL n) then some n else b) none

/-- The source a claim by `t` selects: a wake source first (R380), else the best eligible one (R376). -/
def State.claimSource (s : State) (t : Nat) : Option Nat :=
  let wake := if t = 0 then s.irq.wakeA else if t = 1 then s.irq.wakeB else none
  match wake with
  | some n => if s.eligibleAwake n t then some n else s.bestSource (s.pendingSources.filter fun n => s.eligible n t)
  | none => s.bestSource (s.pendingSources.filter fun n => s.eligible n t)

/-- Every LEVEL gateway follows its flags (R374). -/
def State.followLevels (s : State) : State := (List.range 256).foldl State.followLevel s

/-- No wake of target `t` is asserted any more. -/
def State.dropWake (s : State) (t : Nat) : State :=
  if t = 0 then (s.setIrq { s.irq with wakeA := none }).set Reg.IC_STAT.WAKE_HA 0
  else if t = 1 then (s.setIrq { s.irq with wakeB := none }).set Reg.IC_STAT.WAKE_HB 0 else s

/-- The claim value of source `n` (R373). -/
def claimValue (n : Nat) (merged : Bool) : Word := BitVec.ofNat 32 (n % 256 + 32768 * b2n merged)

/-- The claim of source `n` by target `t`: in service, its status in the snapshot (R376). -/
def State.takeSource (s : State) (n t : Nat) : Word × State :=
  let g := s.gate n
  let s' := (s.setGate n { g with st := .inService t }).setWord (Reg.IC_SNAP.word t).addr (s.sourceStatus n)
  (claimValue n (pulseSource n && g.merged), if s.irq.wakeA = some n then s'.dropWake 0 else if s.irq.wakeB = some n then s'.dropWake 1 else s')

/-- A claim by target `t` (R376): 0 where nothing is eligible. -/
def State.claim (s : State) (t : Nat) : Word × State :=
  let s := s.followLevels
  match s.claimSource t with
  | some n => s.takeSource n t
  | none => (0, s)

/-- A completion of source `n` by target `t` (R377). -/
def State.completeSource (s : State) (n t : Nat) : State :=
  let g := s.gate n
  if n = 0 then s
  else if g.st = .inService t then
    if pulseSource n then
      s.setGate n (if g.heldEvt then { st := .pending, merged := g.heldMerged } else {})
    else s.setGate n (if s.sourceAsserted n then { st := .pending } else {})
  else s.flag Reg.IC_EVT.BAD_COMPLETE

/-- The wake of R380: a pending wake-capable source that no target may claim, with host target `t` in its mask that fails
only because it is asleep. -/
def State.wantsWake (s : State) (n t : Nat) : Bool :=
  s.bit (Reg.IC_SRC.WAKE n) && s.eligibleAwake n t && (List.range 4).all (fun u => !s.eligible n u) &&
  (List.range t).all fun u => !s.eligibleAwake n u

/-- The gateway of source `n` is pending. -/
def State.isPending (s : State) (n : Nat) : Bool := decide ((s.gate n).st = .pending)

/-- The wake assertions hold until the claim of their source; a new one is raised for the best source that asks for it. -/
def State.raiseWakes (s : State) : State :=
  let s := match s.irq.wakeA with
    | some n => if s.isPending n then s else s.dropWake 0
    | none => match s.bestSource (s.pendingSources.filter fun n => s.wantsWake n 0) with
      | some n => (s.setIrq { s.irq with wakeA := some n }).set Reg.IC_STAT.WAKE_HA 1
      | none => s
  match s.irq.wakeB with
  | some n => if s.isPending n then s else s.dropWake 1
  | none => match s.bestSource (s.pendingSources.filter fun n => s.wantsWake n 1) with
    | some n => (s.setIrq { s.irq with wakeB := some n }).set Reg.IC_STAT.WAKE_HB 1
    | none => s

/-- Some source is eligible for target `t`. -/
def State.anyEligible (s : State) (t : Nat) : Bool := s.pendingSources.any fun n => s.eligible n t

/-- The evaluation (R375, R378 to R380): gateways follow their flags and the deliveries follow eligibility. With SYS off the
balls are released. -/
def State.evaluateIrq (s : State) : State :=
  if s.domOn .sys then
    let s := s.followLevels.raiseWakes
    s.setIrq { s.irq with
      irqA := s.anyEligible 0 || s.irq.wakeA.isSome
      irqB := s.anyEligible 1 || s.irq.wakeB.isSome
      chDue := s.anyEligible 2
      stDue := s.anyEligible 3 }
  else s.setIrq { s.irq with irqA := false, irqB := false, chDue := false, stDue := false }

/-- A mask of 32 gateways from `32·n` that satisfy `p`: what IC_PENDn and IC_ACTn read. -/
def State.gateMask (s : State) (n : Nat) (p : GateSt → Bool) : Word :=
  (List.range 32).foldl (fun w i => if p (s.gate (32 * n + i)).st then w ||| BitVec.ofNat 32 (2 ^ i) else w) 0

/-- A gateway that some target serves. -/
def GateSt.active : GateSt → Bool
  | .inService _ => true
  | _ => false

/-- What IC_RUN_x reads. -/
def State.icRunWord (s : State) (t : Nat) : Word := BitVec.ofNat 32 ((s.held t).length % 16 * 256 + s.runLevel t % 16)

/-- Every gateway idle, nothing delivered: the SYS domain powers up (R381). -/
def State.irqPowerUp (s : State) : State :=
  ((s.setIrq {}).set Reg.IC_STAT.WAKE_HA 0).set Reg.IC_STAT.WAKE_HB 0

/-! ### Commands -/

/-- IC_CLAIM (R376): a read of IC_CLAIM_x by target `t`. -/
def execIcClaim (t : Fin 4) (s : State) : Host.Outcome State Fault Refusal :=
  .next (s.byRow ((s.claim t).2.onBus (s.claim t).1 .done))

/-- IC_COMPLETE (R377): a write of IC_COMPLETE_x by target `t`. -/
def execIcComplete (t : Fin 4) (n : Fin 256) (s : State) : Host.Outcome State Fault Refusal :=
  .next (s.byRow ((s.completeSource n t).onBus 0 .done))

/-- IC_SWSET_WRITE (R374): software source `n` is raised as a pulse. -/
def execIcSwsetWrite (n : Fin 64) (s : State) : Host.Outcome State Fault Refusal :=
  .next (s.byRow ((s.pulse (0xC0 + n) false).onBus 0 .done))

/-- SOURCE_EVENT (R374): an assertion of a LEVEL source, or a pulse of a PULSE source. -/
def execSourceEvent (n : Fin 256) (merged : Bool) (s : State) : Host.Outcome State Fault Refusal :=
  .next (if pulseSource n then s.pulse n merged else s.followLevel n)

/-- ELIGIBILITY_EVALUATION (R375). -/
def execEligibilityEvaluation (s : State) : Host.Outcome State Fault Refusal := .next s.evaluateIrq

end Sys2Proof.Machine
end

