-- ==== Sys2Proof/Machine/Chain.lean ====
section
/-! DEFINITION. Chain ports and links (14_chain_links.md, R262 to R268, R281 to R287): modules, the rate search, hello
blocks, settling, loss, restart and link tests. -/

namespace Sys2Proof.Machine

def State.setChain (s : State) (c : ChainSt) : State := { s with chain := c }

def State.port (s : State) (p : Nat) : ChainPort := tabGet (fun _ => {}) s.chain.ports p

def State.setPort (s : State) (p : Nat) (x : ChainPort) : State := s.setChain { s.chain with ports := tabPut (fun _ => {}) s.chain.ports p x }

/-- Port states of CHAIN_CPp_STAT. -/
abbrev cpOFF : Nat := 0
abbrev cpNOMODULE : Nat := 1
abbrev cpSEARCH : Nat := 2
abbrev cpHELLO : Nat := 3
abbrev cpBEACON_ONLY : Nat := 4
abbrev cpUP : Nat := 5
abbrev cpRX_DOWN : Nat := 6
abbrev cpTESTING : Nat := 7
abbrev cpOPEN : Nat := 8
abbrev cpPEER_EXCL : Nat := 9
abbrev cpEXCLUDED : Nat := 10
abbrev cpTXFAULT : Nat := 11
abbrev cpPROTO : Nat := 12

/-- Topologies of CHAIN_LINK_STAT. -/
abbrev topoISOLATED : Nat := 0
abbrev topoLINE : Nat := 1
abbrev topoRING : Nat := 2

/-- Roles of CHAIN_TIME_STAT. -/
abbrev roleFOLLOWER : Nat := 0
abbrev roleMASTER : Nat := 1
abbrev roleORPHAN : Nat := 2
abbrev roleNONE : Nat := 3

/-- Waits: rate search, NOLOCK, TX_FAULT retry, link test, test grant, a better clock, MOD_ABS, ANNOUNCE of bundle `b`, challenge. -/
abbrev tmSearch : Nat := 0x500
def tmNoLock (p : Nat) : Nat := 0x501 + p
def tmTxFault (p : Nat) : Nat := 0x503 + p
def tmTest (p : Nat) : Nat := 0x505 + p
abbrev tmGrant : Nat := 0x507
abbrev tmBetter : Nat := 0x508
def tmMod (p : Nat) : Nat := 0x509 + p
def tmAnnounce (b : Nat) : Nat := 0x510 + b

def State.portState (s : State) (p : Nat) : Nat := s.get (Reg.CHAIN_CP_STAT.STATE p)

def State.setPortState (s : State) (p v : Nat) : State := s.set (Reg.CHAIN_CP_STAT.STATE p) v

/-- This node's ID. -/
def State.nodeId (s : State) : Nat := s.get Reg.CHAIN_LINK_STAT.NODE_ID

def State.timeRole (s : State) : Nat := s.get Reg.CHAIN_TIME_STAT.ROLE

/-- The node is timing master. -/
def State.isMaster (s : State) : Bool := s.timeRole == roleMASTER

/-- The port transmits parcels: settled, or receiving nothing while its transmitter is fit (R280, R283). -/
def State.portSends (s : State) (p : Nat) : Bool :=
  s.domOn .chn && s.locked pllC && !(s.port p).txDis &&
  ([cpUP, cpRX_DOWN, cpBEACON_ONLY, cpPEER_EXCL, cpEXCLUDED].elem (s.portState p) || (s.portState p == cpTESTING && (s.port p).testAsk))

/-- The port takes in parcels. -/
def State.portHears (s : State) (p : Nat) : Bool :=
  s.domOn .chn && s.locked pllC && [cpUP, cpBEACON_ONLY, cpPEER_EXCL, cpEXCLUDED].elem (s.portState p)

/-! ### Rates (R262, R265, R270) -/

/-- The bit of a rate code 1 to 3 in RATES and CEILING. -/
def rateBit (code : Nat) : Nat := 2 ^ (code - 1)

/-- The rate code is in a mask. -/
def rateIn (mask code : Nat) : Bool := code != 0 && mask / rateBit code % 2 == 1

/-- The highest rate code of a mask below `limit`; 0 for none. -/
def rateBelow (mask limit : Nat) : Nat :=
  if 3 < limit && rateIn mask 3 then 3 else if 2 < limit && rateIn mask 2 then 2 else if 1 < limit && rateIn mask 1 then 1 else 0

/-- Payload byte time of a rate code, in 0.025 ns units (R262). -/
def byteTime (code : Nat) : Nat := if code = 3 then 32 else if code = 2 then 128 else 320

/-- Maximum slots of a link rate code at a tick rate code (R270). -/
def slotMax (code rate : Nat) : Nat :=
  let k := if rate ≤ 1 then 4 else if rate ≤ 3 then 2 else 1
  match code with
  | 3 => 128 * k
  | 2 => 28 * k
  | 1 => 10 * k
  | _ => 0

/-- Residence bound of a link rate code, ns (R277). -/
def residenceBound (code : Nat) : Nat := if code = 3 then 640 else if code = 2 then 1600 else 3200

/-- This node's residence toward a port, ns (R277). -/
def State.ownResidence (s : State) (p : Nat) : Nat :=
  let code := s.get (Reg.CHAIN_CP_STAT.RATE p)
  min (residenceBound code) (Config.residence code (s.bit (Reg.CHAIN_CP_STAT.FEC p)))

/-- The node's rate. -/
def State.nodeRate (s : State) : Nat := s.get Reg.CHAIN_LINK_STAT.RATE

/-- CHAIN_SLOTS.MAX at the present rates. -/
def State.showSlots (s : State) : State :=
  s.set Reg.CHAIN_SLOTS.MAX (slotMax s.nodeRate s.rate) |>.set Reg.CHAIN_SLOTS.USED (if s.isMaster then s.chain.slots.length else 0)

/-- The node's rate becomes `code`. -/
def State.setNodeRate (s : State) (code : Nat) : State :=
  if s.nodeRate = code then s else (s.set Reg.CHAIN_LINK_STAT.RATE code |>.flag Reg.CHAIN_LINK_EVT.RATE).showSlots

/-! ### Topology (R284) -/

/-- TOPO follows the port states and the master's RING. -/
def State.showTopo (s : State) : State :=
  let up := fun p => s.portState p == cpUP
  let t := if up 0 && up 1 && s.chain.ring then topoRING else if up 0 || up 1 then topoLINE else topoISOLATED
  if s.get Reg.CHAIN_LINK_STAT.TOPO = t then s else s.set Reg.CHAIN_LINK_STAT.TOPO t |>.flag Reg.CHAIN_LINK_EVT.TOPO

/-- The node sees a closed ring. -/
def State.inRing (s : State) : Bool := s.get Reg.CHAIN_LINK_STAT.TOPO == topoRING

/-! ### The rate search (R266) -/

/-- PLL-C is loaded for rate code `code` (R52, R58). -/
def State.loadLinkRate (s : State) (code : Nat) : State :=
  let d := linkSetting (3 - code)
  ((s.writeShadow pllC d).pllLoad pllC d).setChain { s.chain with search := code }

/-- Rates enabled on either port. -/
def State.ratesEither (s : State) : Nat := s.get (Reg.CHAIN_CP_CTL.RATES 0) ||| s.get (Reg.CHAIN_CP_CTL.RATES 1)

/-- A port holds the node at its rate: it has PCS lock. -/
def State.portHolds (s : State) (p : Nat) : Bool :=
  [cpHELLO, cpBEACON_ONLY, cpUP, cpRX_DOWN, cpTESTING, cpPEER_EXCL, cpEXCLUDED, cpPROTO].elem (s.portState p)

/-- A search starts from the highest enabled rate not above `top`, unless the other port holds the node's rate. -/
def State.searchFrom (s : State) (p top : Nat) : State :=
  if s.portHolds (1 - p) then s
  else
    let code := rateBelow s.ratesEither (top + 1)
    let s := s.setNodeRate 0
    if code = 0 then s.setChain { s.chain with search := 0 } else (s.loadLinkRate code).startTimer tmSearch

/-- What a port forgets when it goes down. -/
def ChainPort.down (x : ChainPort) : ChainPort :=
  { x with hello := [], same := 0, ack := false, peerAck := false, last := none, deps := [], slow := 0, testAsk := false, beacon := none,
           latest := none, frags := [], sideFrags := [], keeps := 0, bad := 0 }

/-- The port searches for its partner. -/
def State.enterSearch (s : State) (p top : Nat) : State :=
  (((s.setPort p { (s.port p).down with txDis := false }).setPortState p cpSEARCH |>.set (Reg.CHAIN_CP_STAT.RATE p) 0).searchFrom p top).startTimer (tmNoLock p)
    |>.showTopo

/-- Port `p` is off: TX_DIS high, nothing kept. -/
def State.portOff (s : State) (p : Nat) : State :=
  ((s.setPort p { ceiling := (s.port p).ceiling }).setPortState p cpOFF |>.set (Reg.CHAIN_CP_STAT.RATE p) 0 |>.set (Reg.CHAIN_CP_STAT.FEC p) 0).stopTimer (tmNoLock p)
    |>.showTopo

/-- An enabled port begins: with a module it searches, without one it waits. -/
def State.portBegin (s : State) (p : Nat) : State :=
  if s.bit (Reg.CHAIN_CP_STAT.MOD_ABS p) then (s.setPort p { (s.port p).down with txDis := true }).setPortState p cpNOMODULE |>.showTopo
  else s.enterSearch p 3

/-- A committed EN takes hold. -/
def State.portFollow (s : State) (p : Nat) : State :=
  if s.bit (Reg.CHAIN_CP_CTL.EN p) && s.domOn .chn then if s.portState p = cpOFF then s.portBegin p else s
  else if s.portState p = cpOFF then s else s.portOff p

/-- No port of the node has PCS lock and at least one searches. -/
def State.searching (s : State) : Bool :=
  (s.portState 0 == cpSEARCH || s.portState 1 == cpSEARCH) && !s.portHolds 0 && !s.portHolds 1

/-- RATE_SEARCH: 20 ms without lock: the next lower enabled rate, and round again (R266). -/
def State.rateSearch (s : State) : State :=
  if s.searching && s.due tmSearch 20 then
    let next := rateBelow s.ratesEither s.chain.search
    let code := if next = 0 then rateBelow s.ratesEither 4 else next
    if code = 0 then s else (s.loadLinkRate code).startTimer tmSearch
  else s

/-- Both ports stop transmitting while PLL-C has no lock (R54, R287). -/
def State.chainQuiet (s : State) : State :=
  (List.range 2).foldl (fun s p =>
    if s.portHolds p then ((s.setPort p (s.port p).down).setPortState p cpSEARCH |>.flag (Reg.CHAIN_CP_EVT.DOWN p)).startTimer (tmNoLock p) else s) s
    |>.startTimer tmSearch |>.showTopo

/-! ### Receive loss (R282, R283) -/

/-- Receive loss is declared on port `p`. An exclusion outlives it (R281). -/
def State.receiveLoss (s : State) (p : Nat) : State :=
  if s.domOn .chn && [cpHELLO, cpBEACON_ONLY, cpUP, cpTESTING, cpPEER_EXCL, cpEXCLUDED, cpPROTO].elem (s.portState p) then
    let s := (s.setPort p (s.port p).down).stopTimer (tmTest p) |>.flag (Reg.CHAIN_CP_EVT.DOWN p)
    (if s.portState p = cpPEER_EXCL ∨ s.portState p = cpEXCLUDED then s else s.setPortState p cpRX_DOWN).showTopo
  else s

/-- `n` more consecutive parcels are missing or have a failed beacon (R282): with the third, receive is lost. -/
def State.parcelsMissing (s : State) (p n : Nat) : State :=
  if s.portHears p then
    let s := (s.setPort p { s.port p with bad := (s.port p).bad + n }).count (Reg.CHAIN_CP_ERR.PERR p) n
    if 3 ≤ (s.port p).bad then s.receiveLoss p else s
  else s

/-- A level of MOD_ABS that has lasted (R264): high for 1 ms ends in NOMODULE, low for 10 ms starts the search. -/
def State.modHeld (s : State) (p : Nat) : State :=
  let high := s.bit (Reg.CHAIN_CP_STAT.MOD_ABS p)
  if !s.due (tmMod p) (if high then 1 else 10) then s
  else
    let s := s.stopTimer (tmMod p)
    if !s.bit (Reg.CHAIN_CP_CTL.EN p) || !s.domOn .chn then s
    else if high then (s.setPort p { (s.port p).down with txDis := true }).setPortState p cpNOMODULE |>.stopTimer (tmNoLock p) |>.showTopo
    else if s.portState p = cpNOMODULE then s.enterSearch p 3
    else s

/-- The level of MOD_ABS (R264, R282): a change is flagged and starts its wait, and high is a receive loss at once; the same level again takes the
wait's end. -/
def State.modAbs (s : State) (p : Nat) (high : Bool) : State :=
  if s.bit (Reg.CHAIN_CP_STAT.MOD_ABS p) == high then s.modHeld p
  else
    let s := s.set (Reg.CHAIN_CP_STAT.MOD_ABS p) (b2n high) |>.flag (Reg.CHAIN_CP_EVT.SFP p) |>.startTimer (tmMod p)
    if high then s.receiveLoss p else s

/-- A change of LOS (R264, R282). -/
def State.losChange (s : State) (p : Nat) (high : Bool) : State :=
  let s := s.set (Reg.CHAIN_CP_STAT.LOS p) (b2n high) |>.flag (Reg.CHAIN_CP_EVT.SFP p)
  if high && s.domOn .chn then s.receiveLoss p else s

/-- TX_FAULT (R264): the port enters TXFAULT; while the level stays, the same command gives the next reset pulse, at most three
and 1 s apart, after which the port searches again. -/
def State.txFault (s : State) (p : Nat) (high : Bool) : State :=
  let s := (if s.bit (Reg.CHAIN_CP_STAT.TX_FAULT p) == high then s else s.flag (Reg.CHAIN_CP_EVT.SFP p)).set (Reg.CHAIN_CP_STAT.TX_FAULT p) (b2n high)
  let st := s.portState p
  if !high || !s.domOn .chn || st = cpOFF || st = cpNOMODULE then s
  else if st = cpTXFAULT then
    let x := s.port p
    if x.faultTries < 3 && (x.faultTries == 0 || s.due (tmTxFault p) 1000) then
      (s.setPort p { x with faultTries := x.faultTries + 1 }).startTimer (tmTxFault p) |>.enterSearch p 3
    else s
  else
    let s := s.receiveLoss p
    (s.setPort p { (s.port p).down with txDis := true }).setPortState p cpTXFAULT |>.stopTimer (tmNoLock p) |>.showTopo

/-- NOLOCK (R266). -/
def State.noLock (s : State) (p : Nat) : State :=
  if s.portState p = cpSEARCH && !s.bit (Reg.CHAIN_CP_STAT.LOS p) && s.due (tmNoLock p) 1000 then
    (s.flag (Reg.CHAIN_CP_EVT.NOLOCK p)).stopTimer (tmNoLock p)
  else s

/-- PCS lock (R266, R283): the node keeps the rate, and the port enters HELLO. A port in an exclusion gets it when the partner
restarts the link (R281). -/
def State.pcsLock (s : State) (p : Nat) : State :=
  if s.domOn .chn && s.locked pllC && [cpSEARCH, cpRX_DOWN, cpPEER_EXCL, cpEXCLUDED].elem (s.portState p) then
    let code := if s.nodeRate = 0 then s.chain.search else s.nodeRate
    ((s.setNodeRate code |>.set (Reg.CHAIN_CP_STAT.RATE p) code).setPort p { (s.port p).down with txDis := false }).setPortState p cpHELLO
      |>.stopTimer (tmNoLock p) |>.showTopo
  else s

/-- CHAIN_RESTART (R281): the port goes down and searches again; exclusion and OPEN are cleared. -/
def State.chainRestart (s : State) (p : Nat) : State :=
  if !s.domOn .chn || s.portState p = cpOFF then s
  else (s.setPort p { (s.port p).down with faultTries := 0, fecStep := false }).stopTimer (tmTest p) |>.portBegin p

/-! ### Hello blocks (R267) -/

/-- CLOCK_Q as this node advertises it (R295). -/
def State.clockQ (s : State) : Nat :=
  let cls := if (List.range 3).any fun i => s.srcListed (2 + i) && s.srcQualified (2 + i) then 3
    else if s.srcListed srcFREE then 2
    else if s.isMaster && s.refState == refHOLDOVER then 1 else 0
  if cls = 0 || !s.bit Reg.CHAIN_TIME_POL.MASTER_CAP then 0 else s.get Reg.CHAIN_TIME_POL.PRIO * 16 + cls * 4

/-- The eight words of the capability block without its CRC (R267). -/
def State.helloWords (s : State) (p : Nat) : List Nat :=
  let w0 := s.nodeId + 1024 * p + 2048 * b2n (s.port p).ack + 65536
  let w1 := s.get (Reg.CHAIN_CP_CTL.RATES p) + 16 * s.get (Reg.CHAIN_CP_CTL.FEC_ABLE p) + 32 * s.get (Reg.CHAIN_CP_CTL.FEC_REQ p) +
    256 * s.rate + 2048 * s.get Reg.CLK_STAT.FAMILY + 4096 * b2n (s.bit (Reg.CHAIN_CP_CTL.EN 0) && s.bit (Reg.CHAIN_CP_CTL.EN 1)) +
    8192 * s.get Reg.CHAIN_TIME_POL.MASTER_CAP + 16384 * b2n (s.mode == modeSTANDBY) + 65536 * (s.port p).ceiling
  let w2 := s.get Reg.CHAIN_RX_POL.POFS_MIN + 65536 * s.get Reg.CHAIN_RX_POL.POFS_MAX
  [w0, w1, w2, s.clockQ, 0, 0, 0]

/-- The capability block of 32 bytes. -/
def State.helloBlock (s : State) (p : Nat) : List Byte :=
  let bs := ((s.helloWords p).map (leBytes 4)).flatten
  bs ++ leBytes 4 (crc32 bs)

/-- A hello block as sent: byte 0xD5, three zero bytes, the capability block (R267). It stands in the port's last parcel sent. -/
def State.helloSend (s : State) (p : Nat) : State :=
  if s.domOn .chn && (s.portState p = cpHELLO || s.portState p = cpBEACON_ONLY) then
    s.setPort p { s.port p with sent := some { beacon := [0xD5, 0, 0, 0] ++ s.helloBlock p } }
  else s

/-- A capability block is whole and its CRC is right. -/
def helloValid (bs : List Byte) : Bool := bs.length == 32 && crc32 (bs.take 28) == leAt bs 28 4

/-- A word of the partner's last block. -/
def ChainPort.capWord (x : ChainPort) (i : Nat) : Nat := leAt x.hello (4 * i) 4

/-- A port comes UP (R268). The other port of an excluded node resumes with it (R281). -/
def State.portUp (s : State) (p : Nat) : State :=
  let x := s.port p
  let s := s.setPort p { x with upTick := s.tick.count.toNat, faultTries := 0 }
  let s := s.setPortState p cpUP |>.flag (Reg.CHAIN_CP_EVT.UP p) |>.set (Reg.CHAIN_CP_RES.OWN p) (s.ownResidence p)
  (if s.portState (1 - p) = cpEXCLUDED then s.setPortState (1 - p) cpUP else s).showTopo

/-- Clause 74 FEC is on for this link: 10G, both able, and one asks, or the last test did (R268, R286). -/
def State.fecWanted (s : State) (p : Nat) : Bool :=
  let cap := (s.port p).capWord 1
  s.nodeRate == 3 && s.bit (Reg.CHAIN_CP_CTL.FEC_ABLE p) && cap / 16 % 2 == 1 &&
    (s.bit (Reg.CHAIN_CP_CTL.FEC_REQ p) || cap / 32 % 2 == 1 || (s.port p).fecStep)

/-- Rates both sides enable and accept. -/
def State.commonRates (s : State) (p : Nat) : Nat :=
  let cap := (s.port p).capWord 1
  s.get (Reg.CHAIN_CP_CTL.RATES p) &&& (s.port p).ceiling &&& (cap % 8) &&& (cap / 65536 % 8)

/-- The link settles: the first row of R268 that applies. -/
def State.settle (s : State) (p : Nat) : State :=
  let x := s.port p
  let cap := x.capWord 1
  let mis := fun (s : State) => s.flag (Reg.CHAIN_CP_EVT.MISMATCH p)
  if x.capWord 0 / 65536 % 256 ≠ 1 then mis (s.setPortState p cpPROTO)
  else if !rateIn (s.commonRates p) s.nodeRate then
    let top := rateBelow (s.commonRates p) 4
    if s.portState (1 - p) ≠ cpUP && top != 0 then
      let other := s.portHolds (1 - p)
      let s := if other then (s.setPort (1 - p) (s.port (1 - p)).down).setPortState (1 - p) cpSEARCH else s
      s.enterSearch p top
    else mis s
  else if cap / 2048 % 2 ≠ s.get Reg.CLK_STAT.FAMILY ∨ cap / 256 % 8 ≠ s.rate then
    if s.portState p = cpBEACON_ONLY then s else mis (s.setPortState p cpBEACON_ONLY)
  else if s.bit (Reg.CHAIN_CP_STAT.FEC p) != s.fecWanted p then
    let s := s.set (Reg.CHAIN_CP_STAT.FEC p) (b2n (s.fecWanted p))
    (s.setPort p (s.port p).down).setPortState p cpSEARCH |>.startTimer (tmNoLock p)
  else s.portUp p

/-- HELLO_BLOCK (R267, R268): a valid block is counted; three identical ones make this side's ACK, and with the partner's the
link settles. -/
def State.helloReceive (s : State) (p : Nat) (bs : List Byte) : State :=
  if !helloValid bs || !(s.portState p = cpHELLO || s.portState p = cpBEACON_ONLY) then s
  else
    let x := s.port p
    let same := if x.hello = bs then min 3 (x.same + 1) else 1
    let w0 := leAt bs 0 4
    let x := { x with hello := bs, same := same, ack := x.ack || same == 3, peerAck := w0 / 2048 % 2 == 1 }
    let s := s.setPort p x |>.set (Reg.CHAIN_CP_STAT.PEER_ID p) w0 |>.set (Reg.CHAIN_CP_STAT.PEER_PORT p) (w0 / 1024)
      |>.setNat (Reg.CHAIN_CP_PEERCAP.word p) (leAt bs 4 4)
    if x.ack && x.peerAck then (s.settle p).showTopo else s

/-- Links that carried only beacons settle again once both sides advertise one rate (R268). -/
def State.resettle (s : State) : State :=
  (List.range 2).foldl (fun s p => if s.portState p = cpBEACON_ONLY && (s.port p).ack then s.settle p else s) s |>.showTopo

/-! ### Link tests (R285, R286) -/

/-- A granted test begins on port `p`: the parcels stop; outside a ring only DEGRADE is recorded (R286). -/
def State.linkTest (s : State) (p : Nat) (ask : Bool) : State :=
  if s.portState p ≠ cpUP then s
  else if s.inRing then ((s.setPort p { s.port p with testAsk := ask }).setPortState p cpTESTING).startTimer (tmTest p) |>.showTopo
  else s.flag (Reg.CHAIN_CP_EVT.DEGRADE p)

/-- The port's CEILING drops one rate (R286 step 5). -/
def State.lowerCeiling (s : State) (p : Nat) : State :=
  let x := s.port p
  let low := rateBelow x.ceiling s.nodeRate
  if low = 0 then s else s.setPort p { x with ceiling := x.ceiling % (2 * rateBit low) } |>.flag Reg.CHAIN_LINK_EVT.CEIL

/-- The end of a test (R286 steps 3 to 5): `errors` bits were in error. -/
def State.testDone (s : State) (p : Nat) (errors : Bool) : State :=
  if s.portState p ≠ cpTESTING || !s.due (tmTest p) 2 then s
  else
    let act := s.get Reg.CHAIN_LINK_POL.DEG_ACT
    let x := s.port p
    let s := s.stopTimer (tmTest p) |>.flag (Reg.CHAIN_CP_EVT.TEST_DONE p)
    let back := fun (s : State) (fec : Bool) => (s.setPort p { x.down with fecStep := fec }).setPortState p cpHELLO
    if !errors || act = 2 then (back s x.fecStep).showTopo
    else if act ≠ 1 && s.nodeRate == 3 && !s.bit (Reg.CHAIN_CP_STAT.FEC p) && s.bit (Reg.CHAIN_CP_CTL.FEC_ABLE p) && x.capWord 1 / 16 % 2 == 1 then
      (back s true).showTopo
    else
      let s := (s.setPort p x.down).setPortState p cpOPEN
      (if s.bit Reg.CHAIN_LINK_POL.LOWER_ON_RESTART then s.lowerCeiling p else s).showTopo

/-! ### Exclusion (R279) -/

/-- A node that receives EXCLUDE: both of its ports enter EXCLUDED. -/
def State.excludedNow (s : State) (p : Nat) : State :=
  if s.portHears p then
    ((List.range 2).foldl (fun s q => if [cpUP, cpBEACON_ONLY, cpPEER_EXCL].elem (s.portState q) then s.setPortState q cpEXCLUDED else s) s
      |>.flag (Reg.CHAIN_CP_EVT.EXCLUDED p)).showTopo
  else s

/-- The node takes its partner at port `p` out of the chain. -/
def State.excludePeer (s : State) (p : Nat) : State := (s.setPortState p cpPEER_EXCL |>.flag (Reg.CHAIN_CP_EVT.PEER_EXCL p)).showTopo

/-! ### Commands -/

/-- MOD_ABS_CHANGE (R264): the level of the ball. -/
def execModAbsChange (p : Fin 2) (high : Bool) (s : State) : Host.Outcome State Fault Refusal := .next (s.modAbs p high)

/-- TX_FAULT (R264). -/
def execTxFault (p : Fin 2) (high : Bool) (s : State) : Host.Outcome State Fault Refusal := .next (s.txFault p high)

/-- RATE_SEARCH (R266). -/
def execRateSearch (s : State) : Host.Outcome State Fault Refusal := .next s.rateSearch

/-- NOLOCK (R266). -/
def execNolock (p : Fin 2) (s : State) : Host.Outcome State Fault Refusal := .next (s.noLock p)

/-- PCS_LOCK (R266). -/
def execPcsLock (p : Fin 2) (s : State) : Host.Outcome State Fault Refusal := .next (s.pcsLock p)

/-- HELLO_SEND (R267). -/
def execHelloSend (p : Fin 2) (s : State) : Host.Outcome State Fault Refusal := .next (s.helloSend p)

/-- HELLO_BLOCK (R267): the 32 bytes of a received capability block. -/
def execHelloBlock (p : Fin 2) (block : List Byte) (s : State) : Host.Outcome State Fault Refusal := .next (s.helloReceive p block)

/-- EXCLUDE_RECEIVED (R279). -/
def execExcludeReceived (p : Fin 2) (s : State) : Host.Outcome State Fault Refusal := .next (s.excludedNow p)

/-- RECEIVE_LOSS (R282). -/
def execReceiveLoss (seen : LossSeen) (s : State) : Host.Outcome State Fault Refusal :=
  .next (if seen.line then s.receiveLoss seen.port else s.parcelsMissing seen.port seen.missing)

/-- LINK_TEST (R286): the test granted to this node's port `p` begins. -/
def execLinkTest (p : Fin 2) (s : State) : Host.Outcome State Fault Refusal := .next (s.linkTest p false)

end Sys2Proof.Machine
end

