-- ==== Sys2Proof/Machine/Streams.lean ====
section
/-! DEFINITION. Streams, slots, the timing master, the presentation offset, control messages and the host queues
(15_chain_streams_and_time.md, R288 to R307). -/

namespace Sys2Proof.Machine

/-! ### Control cells (R301, R302) -/

/-- Cell types. -/
abbrev ctMREQ : Nat := 2
abbrev ctMRSP : Nat := 3
abbrev ctEVENT : Nat := 4
abbrev ctANNOUNCE : Nat := 5
abbrev ctGRANT : Nat := 6
abbrev ctREPORT : Nat := 7
abbrev ctTEST_REQ : Nat := 8
abbrev ctTEST_GRANT : Nat := 9
abbrev ctPOFS : Nat := 10

/-- The address of every node. -/
abbrev nodeALL : Nat := 0xFFFF

/-- Bytes padded with zeros, or cut, to length `n`. -/
def padTo (n : Nat) (bs : List Byte) : List Byte := (bs ++ List.replicate (n - bs.length) 0).take n

/-- 28 bytes with their CRC-32: a cell. -/
def sealCell (bs : List Byte) : List Byte := padTo 28 bs ++ leBytes 4 (crc32 (padTo 28 bs))

/-- A chain control cell. -/
def cellOf (ctype flags src dst mseq : Nat) (data : List Byte) : List Byte :=
  sealCell (leBytes 1 ctype ++ leBytes 1 flags ++ leBytes 2 src ++ leBytes 2 dst ++ leBytes 2 mseq ++ padTo 20 data)

/-- The 20-byte fragments of a message, at most `n` of them; an empty message is one empty fragment. -/
def fragments : Nat → List Byte → List (List Byte)
  | 0, _ => []
  | n + 1, bs => if bs.length ≤ 20 then [bs] else bs.take 20 :: fragments n (bs.drop 20)

/-- The cells of a message, FIRST and LAST marking its ends. -/
def messageCells (ctype src dst mseq : Nat) (data : List Byte) : List (List Byte) :=
  let fs := fragments 256 data
  fs.zipIdx.map fun x => cellOf ctype (b2n (x.2 == 0) + 2 * b2n (x.2 + 1 == fs.length)) src dst mseq x.1

/-- A message is written in both directions with one number (R302); a node silenced by a duplicate ID writes none (R305). -/
def State.sendMsg (s : State) (ctype dst : Nat) (data : List Byte) : State :=
  if s.chain.silent || !s.domOn .chn then s
  else
    let m := s.chain.mseq
    let cs := messageCells ctype s.nodeId dst m data
    let s := s.setChain { s.chain with mseq := (m + 1) % 65536, written := (m :: s.chain.written).take 256 }
    (List.range 2).foldl (fun s p => if s.portSends p then s.setPort p { s.port p with cells := (s.port p).cells ++ cs } else s) s

/-- The first copy of a message is taken (R302): whether it is one, and the state that remembers it. -/
def State.takeMsg (s : State) (src mseq : Nat) : Bool × State :=
  if s.chain.taken.elem (src, mseq) then (false, s)
  else (true, s.setChain { s.chain with taken := ((src, mseq) :: s.chain.taken).take 256 })

/-! ### Slots (R288 to R292) -/

/-- STREAM_ID of transmit bundle `b`. -/
def State.streamId (s : State) (b : Nat) : Nat := s.nodeId * 64 + s.get (Reg.CHAIN_TX.LOCAL b)

def State.bundle (s : State) (b : Nat) : Bundle := tabGet (fun _ => {}) s.chain.bundles b

def State.setBundle (s : State) (b : Nat) (x : Bundle) : State := s.setChain { s.chain with bundles := tabPut (fun _ => {}) s.chain.bundles b x }

/-- The master's slot table with one entry replaced. -/
def State.setSlot (s : State) (slot stream1 : Nat) : State := (s.setChain { s.chain with slots := tabPut (fun _ => 0) s.chain.slots slot stream1 }).showSlots

/-- No slot: the value of a GRANT and of an ANNOUNCE without a hint. -/
abbrev noSlot : Nat := 0xFFFF

/-- A GRANT reaches its bundle (R291). -/
def State.grantLocal (s : State) (stream slot : Nat) : State :=
  match (List.range 12).find? fun b => s.bit (Reg.CHAIN_TX.EN b) && s.streamId b == stream with
  | none => s
  | some b =>
    if slot = noSlot then
      (s.setBundle b { s.bundle b with stream := 0 }).set (Reg.CHAIN_TX.GRANTED b) 0 |>.set (Reg.CHAIN_TX.SLOT b) 0 |>.flag Reg.CHAIN_STRM_EVT.NOSLOT
    else (s.setBundle b { s.bundle b with stream := stream + 1 }).set (Reg.CHAIN_TX.GRANTED b) 1 |>.set (Reg.CHAIN_TX.SLOT b) slot |>.stopTimer (tmAnnounce b)

/-- The master answers for a stream. -/
def State.sendGrant (s : State) (stream slot : Nat) : State :=
  if stream / 64 = s.nodeId then s.grantLocal stream slot
  else s.sendMsg ctGRANT (stream / 64) (leBytes 2 stream ++ leBytes 2 slot)

/-- The slot a stream holds. -/
def State.slotFor (s : State) (stream : Nat) : Option Nat := (s.chain.slots.find? fun e => e.2 == stream + 1).map (·.1)

/-- The slot maximum at the present rates. -/
def State.slotLimit (s : State) : Nat := slotMax s.nodeRate s.rate

/-- The lowest free slot below the maximum, or none: granted to the stream (R291). -/
def State.grantLowest (s : State) (stream : Nat) : State :=
  match (List.range s.slotLimit).find? fun i => tabGet (fun _ => 0) s.chain.slots i == 0 with
  | some i => (s.setSlot i (stream + 1)).sendGrant stream i
  | none => s.sendGrant stream noSlot

/-- The master grants a slot (R291, R292): the one already held, the hinted one, or the lowest free one. Of two hints for one
slot the lower STREAM_ID keeps it. -/
def State.grantStream (s : State) (stream hint : Nat) : State :=
  match s.slotFor stream with
  | some i => s.sendGrant stream i
  | none =>
    if hint < s.slotLimit then
      let holder := tabGet (fun _ => 0) s.chain.slots hint
      if holder = 0 then (s.setSlot hint (stream + 1)).sendGrant stream hint
      else if stream + 1 < holder then ((s.setSlot hint (stream + 1)).sendGrant stream hint).grantLowest (holder - 1)
      else s.grantLowest stream
    else s.grantLowest stream

/-- A released stream frees its slot (R291). -/
def State.freeStream (s : State) (stream : Nat) : State :=
  match s.slotFor stream with
  | some i => s.setSlot i 0
  | none => s

/-- The master regrants what stands above a lower slot maximum, in increasing STREAM_ID order (R292). -/
def State.trimSlots (s : State) : State :=
  let above := (s.chain.slots.filter fun e => decide (s.slotLimit ≤ e.1)).map fun e => e.2 - 1
  let s := s.setChain { s.chain with slots := s.chain.slots.filter fun e => decide (e.1 < s.slotLimit) }
  (above.mergeSort (· ≤ ·)).foldl State.grantLowest s |>.showSlots

/-- An ANNOUNCE of stream `stream` (R291): to the master, or met at once by this node as master. -/
def State.announce (s : State) (stream hint : Nat) (release : Bool) : State :=
  if s.isMaster then if release then s.freeStream stream else s.grantStream stream hint
  else s.sendMsg ctANNOUNCE (s.get Reg.CHAIN_TIME_STAT.MASTER_ID) (leBytes 2 stream ++ leBytes 2 hint ++ leBytes 1 (b2n release))

/-- A bundle gives its slot back. -/
def State.releaseBundle (s : State) (b : Nat) : State :=
  let x := s.bundle b
  if x.stream = 0 then s
  else ((s.setBundle b { x with stream := 0 }).set (Reg.CHAIN_TX.GRANTED b) 0 |>.set (Reg.CHAIN_TX.SLOT b) 0).announce (x.stream - 1) noSlot true

/-- A committed change of a bundle: a slot granted for what it no longer sends is released (R291). -/
def State.bundleFollow (s : State) (b : Nat) : State :=
  let x := s.bundle b
  if x.stream != 0 && !(s.bit (Reg.CHAIN_TX.EN b) && s.streamId b + 1 == x.stream) then s.releaseBundle b else s

/-- ANNOUNCE_REPEAT (R291): an enabled bundle without a slot announces itself every 100 ms. -/
def State.announceRepeat (s : State) (b : Nat) : State :=
  if s.bit (Reg.CHAIN_TX.EN b) && !s.bit (Reg.CHAIN_TX.GRANTED b) && (!s.timerOn (tmAnnounce b) || s.due (tmAnnounce b) 100) && s.timeRole < 2 then
    (s.startTimer (tmAnnounce b)).announce (s.streamId b) noSlot false
  else s

/-! ### Copies and presentation (R290, R293, R294) -/

def State.sub (s : State) (i : Nat) : Subscription := tabGet (fun _ => {}) s.chain.subs i

def State.setSub (s : State) (i : Nat) (x : Subscription) : State := s.setChain { s.chain with subs := tabPut (fun _ => {}) s.chain.subs i x }

/-- The presentation offset in effect; 0 not set. -/
def State.pofs (s : State) : Nat := s.get Reg.CHAIN_POFS.P

/-- A committed change of a subscription: a new stream starts afresh. -/
def State.subFollow (s : State) (i : Nat) : State :=
  let want := if s.bit (Reg.CHAIN_RX.EN i) then s.get (Reg.CHAIN_RX.STREAM i) + 1 else 0
  if (s.sub i).stream = want then s
  else (s.setSub i { stream := want }).set (Reg.CHAIN_RX.SOLE i) 0 |>.set (Reg.CHAIN_RX.VALID i) 0

/-- The tick of a copy: congruent to SEQ and nearest at or below the present tick (R293). -/
def copyTick (now seq : Nat) : Nat := now - (now + 65536 - seq % 65536) % 65536

/-- A valid copy is kept, or only noted when one is kept already. -/
def keepCopy (c : StreamCopy) : List StreamCopy → List StreamCopy
  | [] => [c]
  | x :: xs => if x.tick = c.tick then { x with ports := x.ports ||| c.ports } :: xs else x :: keepCopy c xs

/-- One subscription at the weir of tick `n` (R294). Copies stay as long as a higher P could present them again (R300). -/
def State.presentSub (s : State) (n i : Nat) : State :=
  let x := s.sub i
  if x.stream = 0 then s
  else
    let p := s.pofs
    let capped := s.get Reg.CHAIN_RX_POL.POFS_MAX < p
    let s := s.setSub i { x with copies := x.copies.filter fun c => decide (n ≤ c.tick + 1023) }
    let x := s.sub i
    let zero := List.replicate 8 (0 : Word)
    if p = 0 || capped then s.setSub i { x with out := zero } |>.set (Reg.CHAIN_RX.VALID i) 0 |>.set (Reg.CHAIN_RX.SOLE i) 0
    else match x.copies.find? fun c => c.tick + p == n with
      | some c =>
        let sole := c.ports == 1 || c.ports == 2
        s.setSub i { x with out := c.samples, last := c.samples, missed := 0, ever := true } |>.set (Reg.CHAIN_RX.VALID i) 1
          |>.flagIf (sole && !s.bit (Reg.CHAIN_RX.SOLE i)) Reg.CHAIN_STRM_EVT.SOLE |>.set (Reg.CHAIN_RX.SOLE i) (b2n sole)
      | none =>
        let s := s.set (Reg.CHAIN_RX.SOLE i) 0
        if x.ever then
          let m := min 16 (x.missed + 1)
          s.setSub i { x with missed := m, out := if m ≤ s.get Reg.CHAIN_RX_POL.HOLD then x.last else zero } |>.set (Reg.CHAIN_RX.VALID i) 0
            |>.count (Reg.CHAIN_RX_CNT.MISS i) 1 |>.flag Reg.CHAIN_STRM_EVT.MISS
        else s.setSub i { x with out := zero } |>.set (Reg.CHAIN_RX.VALID i) 0

/-- POFS_CAP is set when P comes to lie above POFS_MAX (R299). -/
def State.showCap (s : State) : State :=
  let capped := decide (s.get Reg.CHAIN_RX_POL.POFS_MAX < s.pofs)
  if capped = s.chain.capped then s
  else (s.setChain { s.chain with capped := capped }).flagIf capped Reg.CHAIN_TIME_EVT.POFS_CAP

/-- P becomes `p` (R299). -/
def State.setPofs (s : State) (p : Nat) : State := (s.set Reg.CHAIN_POFS.P p).showCap

/-- A new P applies from the weir of its tick (R300). -/
def State.applyPofs (s : State) (n : Nat) : State :=
  match s.chain.newP with
  | some (p, t) => if t ≤ n then ((s.setChain { s.chain with newP := none }).setPofs p).flag Reg.CHAIN_TIME_EVT.POFS_CHG else s
  | none => s

/-- STREAM_PRESENTATION in the weir of tick `n`, with CHN on. -/
def State.presentStreams (s : State) (n : Nat) : State :=
  if s.domOn .chn then (List.range 12).foldl (fun s i => s.presentSub n i) (s.applyPofs n) else s

/-- Chain receive source `i` (R290). -/
def State.chainSource (s : State) (i : Nat) : Word := if s.domOn .chn then (s.sub (i / 8)).out.getD (i % 8) 0 else 0

/-- After the move of tick `n`, the bundles are formed from the transmit sinks, and own streams loop back (R289, R290). `mask b`
says which channels of bundle `b` a rill names. -/
def State.formBundles (s : State) (n : Nat) (mask : Nat → Nat) : State :=
  (List.range 12).foldl (fun s b =>
    if s.bit (Reg.CHAIN_TX.EN b) then
      let ws := (List.range 8).map fun c => if mask b / 2 ^ c % 2 = 1 then tabGet (fun _ => (0 : Word)) s.fab.chainTx (8 * b + c) else 0
      let s := s.setBundle b { s.bundle b with tick := n, mask := mask b, samples := ws }
      (List.range 12).foldl (fun s i =>
        let x := s.sub i
        if x.stream = s.streamId b + 1 then s.setSub i { x with copies := keepCopy ⟨n, ws, 3⟩ x.copies } else s) s
    else s) s

/-! ### The timing master (R295 to R297) -/

/-- One advertisement is better than another (R295). -/
def betterAd (q id q' id' : Nat) : Bool := decide (q' < q) || (q == q' && decide (id < id'))

/-- MASTER_ID and its quality; a new master is told of every granted bundle (R292). -/
def State.setMaster (s : State) (id q : Nat) : State :=
  let changed := s.get Reg.CHAIN_TIME_STAT.MASTER_ID != id || s.timeRole == roleNONE
  let s := s.set Reg.CHAIN_TIME_STAT.MASTER_ID id |>.set Reg.CHAIN_TIME_STAT.MASTER_Q q
  if !changed then s
  else (List.range 12).foldl (fun s b =>
    let x := s.bundle b
    if x.stream = 0 then s else s.announce (x.stream - 1) (s.get (Reg.CHAIN_TX.SLOT b)) false) (s.flag Reg.CHAIN_TIME_EVT.MASTER)

/-- This node becomes timing master and closure origin (R296). -/
def State.becomeMaster (s : State) : State :=
  let s := (s.setChain { s.chain with slots := [], reports := [], testQueue := [], testNow := none, dHeld := 0, ring := false }).stopTimer tmBetter
  let was := s.timeRole
  let q := s.clockQ
  let s := s.set Reg.CHAIN_LINK_STAT.CLOSURE 1 |>.set Reg.CHAIN_LINK_STAT.ORIG0 0 |>.set Reg.CHAIN_LINK_STAT.ORIG1 0 |>.set Reg.CHAIN_TIME_STAT.HOPS 0
  let s := s.set Reg.CHAIN_TIME_STAT.ROLE roleMASTER
  let s := s.flagIf (was == roleNONE && s.get Reg.CHAIN_TIME_STAT.MASTER_ID == s.nodeId) Reg.CHAIN_TIME_EVT.MASTER
  ((s.setMaster s.nodeId q).showSlots).showTopo

/-- This node follows master `id` (R296): it is no closure origin. -/
def State.followMaster (s : State) (id q : Nat) : State :=
  let s := (s.setChain { s.chain with slots := [], dHeld := 0 }).set Reg.CHAIN_LINK_STAT.CLOSURE 0 |>.set Reg.CHAIN_POFS.P_AUTO 0 |>.set Reg.CHAIN_LOOP.D 0
  let none_ := s.timeRole == roleNONE
  let s := s.set Reg.CHAIN_TIME_STAT.ROLE roleFOLLOWER
  (s.flagIf (none_ && s.get Reg.CHAIN_TIME_STAT.MASTER_ID == id) Reg.CHAIN_TIME_EVT.MASTER).setMaster id q |>.showSlots

/-- A valid beacon that names master `id` of quality `q` makes this node follow it (R296): it is better than this node's own; a node without a
master takes any that a beacon with HOLD = 0 names. -/
def State.shouldFollow (s : State) (id q : Nat) (hold : Bool) : Bool :=
  if s.timeRole = roleMASTER then betterAd q id s.clockQ s.nodeId
  else if s.timeRole = roleFOLLOWER then betterAd q id (s.get Reg.CHAIN_TIME_STAT.MASTER_Q) (s.get Reg.CHAIN_TIME_STAT.MASTER_ID)
  else !hold

/-- A beacon with HOLD = 0 that names this node's master (R296): the time at which it came. -/
def State.hearMaster (s : State) (id : Nat) (hold : Bool) : State :=
  if !hold && s.timeRole == roleFOLLOWER && id == s.get Reg.CHAIN_TIME_STAT.MASTER_ID then s.setChain { s.chain with heardAt := s.tick.count.toNat } else s

/-- The upstream port: the one with the fewer hops whose latest beacon names the master with HOLD = 0 (R297). -/
def State.upstream (s : State) : Option Nat :=
  let good := fun p => match (s.port p).beacon with
    | some b => b.flags / 4 % 2 == 0 && b.master == s.get Reg.CHAIN_TIME_STAT.MASTER_ID
    | none => false
  let hops : Nat → Nat := fun p => match (s.port p).beacon with
    | some b => b.hops
    | none => 1024
  if good 0 && good 1 then some (if hops 1 < hops 0 then 1 else 0) else if good 0 then some 0 else if good 1 then some 1 else none

/-- Whether this node's own clock has been better than its master's without a break (R296). -/
def State.watchBetter (s : State) : State :=
  if s.timeRole == roleFOLLOWER && s.clockQ != 0 &&
      betterAd s.clockQ s.nodeId (s.get Reg.CHAIN_TIME_STAT.MASTER_Q) (s.get Reg.CHAIN_TIME_STAT.MASTER_ID) then
    if s.timerOn tmBetter then s else s.startTimer tmBetter
  else s.stopTimer tmBetter

/-- A beacon with HOLD = 0 has been received and is among the latest. -/
def State.heardMaster (s : State) : Bool := (List.range 2).any fun p => match (s.port p).beacon with
  | some b => b.flags / 4 % 2 == 0
  | none => false

/-- The start rule of R296: capable, a port UP for 3 tick periods, no beacon from a master. -/
def State.electionStart (s : State) : State :=
  if s.domOn .chn && s.timeRole != roleMASTER && s.clockQ != 0 && !s.heardMaster &&
      (List.range 2).any (fun p => s.portState p == cpUP && decide ((s.port p).upTick + 3 ≤ s.tick.count.toNat)) then s.becomeMaster else s

/-- BETTER_MASTER_SEEN at port `p` (R296). -/
def State.betterMaster (s : State) (p id q hops : Nat) : State :=
  if s.portHears p && s.shouldFollow id q false then
    ((s.followMaster id q).hearMaster id false).set Reg.CHAIN_TIME_STAT.UPPORT p |>.set Reg.CHAIN_TIME_STAT.HOPS hops
  else s

/-- CHALLENGE (R296): PLL-A moves to the best of the node's own sources through ACQUIRE. -/
def State.challenge (s : State) : State :=
  if s.timeRole == roleFOLLOWER && s.clockQ != 0 && s.due tmBetter (1000 * max 1 (s.get Reg.CHAIN_TIME_POL.REELECT_HOLD)) then
    let s := s.becomeMaster
    if s.get Reg.CLK_PLLA_REFST.ACTIVE = 1 && (s.refState = refLOCKED || s.refState = refACQUIRE) then
      match s.srcList.find? fun c => c != 1 && s.srcQualified c with
      | some c => if c = srcFREE then s.goFree else s.acquire c
      | none => s
    else s
  else s

/-- No beacon with HOLD = 0 that names the master has come for 3 parcel periods (R296). -/
def State.masterSilent (s : State) : Bool :=
  decide (s.tick.count.toNat < s.chain.heardAt ∨ s.chain.heardAt + 3 ≤ s.tick.count.toNat) || !s.ticksRun

/-- ORPHAN (R296). -/
def State.orphan (s : State) : State :=
  if s.timeRole == roleFOLLOWER && s.masterSilent then
    let s := s.set Reg.CHAIN_TIME_STAT.ROLE roleORPHAN |>.flag Reg.CHAIN_TIME_EVT.ORPHAN |>.stopTimer tmBetter
    let s := (List.range 2).foldl (fun s p => s.setPort p { s.port p with beacon := none }) s
    s.electionStart
  else s

/-- TICK_COUNT_RELOAD (R297): the weir of this tick takes the count that the next tick carries on the chain, as TICK and the offsets at the
upstream port imply it. -/
def State.tickReload (s : State) (n : TickNo) : State :=
  let next := s.tick.count + 1 + BitVec.ofInt 48 s.chain.ahead
  if s.timeRole == roleFOLLOWER && s.refState == refLOCKED && s.get Reg.CLK_PLLA_REFST.ACTIVE == 1 && s.chain.ahead != 0 && n == next then
    (s.setTick { s.tick with reload := some n }).setChain { s.chain with ahead := 0 } |>.flag Reg.CHAIN_TIME_EVT.RELOAD
  else s

/-! ### The presentation offset at the master (R298 to R300) -/

/-- P_auto of a longest path `d` (0.25 ns units): ⌈D / t_tick⌉ + 2 + MARGIN, 2 to 1,023. -/
def State.pAuto (s : State) (d : Int) : Nat :=
  let hz := tickHz s.rate
  min 1023 ((d.toNat * hz + 3999999999) / 4000000000 + 2 + s.get Reg.CHAIN_TIME_POL.MARGIN)

/-- A POFS cell goes out with a tick far enough ahead, and applies here too (R300). -/
def State.sendPofs (s : State) (p : Nat) : State :=
  let t := s.tick.count.toNat + p + 64
  let s := s.sendMsg ctPOFS nodeALL (leBytes 2 p ++ leBytes 6 t)
  s.setChain { s.chain with newP := some (p, t) }

/-- The master measures D (R298), 0.25 ns units, and looks at P (R300). -/
def State.measureLoop (s : State) (d : Int) : State :=
  let c := s.chain
  let low := if c.dHeld = 0 then d else min c.dLow d
  let high := if c.dHeld = 0 then d else max c.dHigh d
  let close := decide ((high - low) * tickHz s.rate ≤ 4000000000)
  let s := s.setChain (if close then { c with dHeld := min 64 (c.dHeld + 1), dLow := low, dHigh := high } else { c with dHeld := 1, dLow := d, dHigh := d })
  let pa := s.pAuto d
  let was := s.get Reg.CHAIN_POFS.P_AUTO
  let s := s.setNat Reg.CHAIN_LOOP.word (d.toNat / 4) |>.set Reg.CHAIN_POFS.P_AUTO pa
  if s.pofs ≠ 0 ∧ s.pofs < pa ∧ s.chain.newP.isNone then
    if s.bit Reg.CHAIN_TIME_POL.POFS_FOLLOW then s.sendPofs pa else s.flagIf (decide (was ≤ s.pofs)) Reg.CHAIN_TIME_EVT.POFS_LOW
  else s

/-- POFS_FIXED as it acts: 1 acts as 2. -/
def State.pofsFixed (s : State) : Nat := if s.get Reg.CHAIN_TIME_POL.POFS_FIXED = 1 then 2 else s.get Reg.CHAIN_TIME_POL.POFS_FIXED

/-- P as the table of R299 gives it. -/
def State.chosenP (s : State) : Nat :=
  if s.pofsFixed = 0 then s.chain.reports.foldl (fun a e => max a e.2) (s.get Reg.CHAIN_POFS.P_AUTO) else s.pofsFixed

/-- POFS_SET (R299): D has held for 64 parcels and P is not set. -/
def State.pofsSet (s : State) : State := if s.isMaster && s.chain.dHeld == 64 && s.pofs == 0 then s.setPofs s.chosenP else s

/-- A committed change of POFS_FIXED at the master sends a POFS cell (R300). -/
def State.pofsFollow (s : State) : State :=
  let f := s.pofsFixed
  if s.chain.fixed = f then s
  else
    let s := s.setChain { s.chain with fixed := f }
    if s.isMaster && s.pofs != 0 then s.sendPofs s.chosenP else s

/-! ### Tests granted by the master (R304) -/

/-- The next waiting test is granted. -/
def State.grantTest (s : State) : State :=
  match s.chain.testQueue with
  | [] => (s.setChain { s.chain with testNow := none }).stopTimer tmGrant
  | (n, p) :: rest =>
    let s := (s.setChain { s.chain with testQueue := rest, testNow := some (n, p) }).startTimer tmGrant
    if n = s.nodeId then s.linkTest p true else s.sendMsg ctTEST_GRANT n (leBytes 2 n ++ leBytes 1 p)

/-- A TEST_REQ of node `n` for its port `p` at the master: a report of the test granted, or a new request. -/
def State.testReq (s : State) (n p : Nat) : State :=
  if !s.isMaster then s
  else if s.chain.testNow = some (n, p) then s.grantTest
  else if s.chain.testQueue.elem (n, p) then s
  else
    let s := s.setChain { s.chain with testQueue := s.chain.testQueue ++ [(n, p)] }
    if s.chain.testNow.isNone then s.grantTest else s

/-- This node asks for a test of its port `p`, or reports that it is done. -/
def State.askTest (s : State) (p : Nat) : State :=
  if s.isMaster then s.testReq s.nodeId p else s.sendMsg ctTEST_REQ (s.get Reg.CHAIN_TIME_STAT.MASTER_ID) (leBytes 1 p)

/-- The link passed its error threshold (R285): DEGRADE, a CHAIN error, and the request for a test. -/
def State.degrade (s : State) (p : Nat) : State :=
  let s := (s.flag (Reg.CHAIN_CP_EVT.DEGRADE p)).error clsCHAIN p
  if s.chain.asked.elem p then s else (s.setChain { s.chain with asked := p :: s.chain.asked }).askTest p

/-- The end of a test, reported to the master by the node that was granted it. -/
def State.linkTested (s : State) (p : Nat) (errors : Bool) : State :=
  let running := s.portState p == cpTESTING && s.due (tmTest p) 2
  let s := s.testDone p errors
  if running && s.chain.asked.elem p then (s.setChain { s.chain with asked := s.chain.asked.filter (· != p) }).askTest p else s

/-! ### Host queues (R306) -/

def State.queue (s : State) (q : Nat) : HostQueue := tabGet (fun _ => {}) s.chain.queues q

def State.setQueue (s : State) (q : Nat) (x : HostQueue) : State := s.setChain { s.chain with queues := tabPut (fun _ => {}) s.chain.queues q x }

/-- CHAIN_Qq_RXSTAT shows the head frame. -/
def State.showQueue (s : State) (q : Nat) : State :=
  match (s.queue q).rx with
  | [] => s.set (Reg.CHAIN_Q_RXSTAT.AVAIL q) 0 |>.set (Reg.CHAIN_Q_RXSTAT.SRC q) 0 |>.set (Reg.CHAIN_Q_RXSTAT.LEN q) 0
  | (n, f) :: _ => s.set (Reg.CHAIN_Q_RXSTAT.AVAIL q) 1 |>.set (Reg.CHAIN_Q_RXSTAT.SRC q) n |>.set (Reg.CHAIN_Q_RXSTAT.LEN q) f.length

/-- A frame for the host: kept, or dropped when 16 wait. -/
def State.queueReceive (s : State) (q src : Nat) (f : List Byte) : State :=
  let x := s.queue q
  if 16 ≤ x.rx.length then s.count (Reg.CHAIN_Q_RXSTAT.DROP q) 1
  else (s.setQueue q { x with rx := x.rx ++ [(src, f)] }).showQueue q

/-- Four more bytes of the frame being written. -/
def State.queueWrite (s : State) (q : Nat) (v : Word) : State :=
  let x := s.queue q
  s.setQueue q { x with buf := (x.buf ++ leBytes 4 v.toNat).take 8192 }

/-- QUEUE_TX_GO (R306): the first `len` bytes written are a frame; ignored with FULL set when 8 wait. -/
def State.queueGo (s : State) (q len : Nat) : State :=
  let x := s.queue q
  if 8 ≤ x.tx.length then s.flag (Reg.CHAIN_Q_TXCTL.FULL q)
  else s.setQueue q { x with buf := [], tx := x.tx ++ [padTo len x.buf] }

/-- A read of CHAIN_Qq_RX: the next four bytes; reading to the end of the head frame moves on. -/
def State.queueRead (s : State) (q : Nat) : Word × State :=
  let x := s.queue q
  match x.rx with
  | [] => (0, s)
  | (_, f) :: rest =>
    let v := BitVec.ofNat 32 (leAt f x.pos 4)
    (v, (s.setQueue q (if f.length ≤ x.pos + 4 then { x with rx := rest, pos := 0 } else { x with pos := x.pos + 4 })).showQueue q)

/-- KIND of a message frame on queue 1 by cell type (R306). -/
def kindOf (ctype : Nat) : Nat := if ctype = ctMREQ then 0 else if ctype = ctMRSP then 1 else 2

/-- A mailbox message addressed to this node goes to host queue 1 (R306). -/
def State.messageToHost (s : State) (ctype src : Nat) (frame : List Byte) : State :=
  s.queueReceive 1 src (leBytes 2 s.nodeId ++ leBytes 1 (kindOf ctype) ++ [0] ++ frame)

/-- A side segment of a frame (R274). -/
def segmentOf (src fseq : Nat) (first last : Bool) (data : List Byte) : List Byte :=
  let body := leBytes 2 (src + 16384 * b2n first + 32768 * b2n last) ++ leBytes 2 data.length ++ leBytes 2 fseq ++ [0, 0] ++ data
  let body := body ++ List.replicate ((4 - body.length % 4) % 4) 0
  body ++ leBytes 4 (crc32 body)

/-- Frames that wait are given to the ports once the one before has gone: queue 0 as a side frame, queue 1 as a message. -/
def State.queueFeed (s : State) : State :=
  let s : State := match (s.queue 0).tx with
    | f :: rest =>
      if (s.port 0).side.isNone && (s.port 1).side.isNone && !s.chain.silent then
        let n := s.chain.fseq
        let s := s.setQueue 0 { s.queue 0 with tx := rest }
        let s := s.setChain { s.chain with fseq := (n + 1) % 65536 }
        (List.range 2).foldl (fun (s : State) p => if s.portSends p then s.setPort p { s.port p with side := some (n, true, f) } else s) s
      else s
    | [] => s
  match (s.queue 1).tx with
  | f :: rest =>
    if (s.port 0).cells.isEmpty && (s.port 1).cells.isEmpty then
      (s.setQueue 1 { s.queue 1 with tx := rest }).sendMsg (if byteAt f 2 = 0 then ctMREQ else if byteAt f 2 = 1 then ctMRSP else ctEVENT) (leAt f 0 2) (f.drop 4)
    else s
  | [] => s

/-! ### REPORT (R301) -/

/-- This node's REPORT, every 1,024 ticks. -/
def State.sendReport (s : State) : State :=
  if s.chain.reportAt + 1024 ≤ s.tick.count.toNat && s.domOn .chn then
    let s := s.setChain { s.chain with reportAt := s.tick.count.toNat }
    if s.isMaster then s
    else s.sendMsg ctREPORT (s.get Reg.CHAIN_TIME_STAT.MASTER_ID)
      (leBytes 2 (s.get Reg.CHAIN_RX_POL.POFS_MIN) ++ leBytes 2 (s.get Reg.CHAIN_RX_POL.POFS_MAX) ++ leBytes 1 s.clockQ)
  else s

/-! ### What a message does (R291, R299 to R304) -/

/-- A whole message of cell type `ctype` from node `src`, addressed to this node or to all, taken for the first time; a mailbox
request waits for the mailbox engine. -/
def State.message (s : State) (ctype src : Nat) (d : List Byte) : State :=
  if ctype = ctMREQ then s.enqueue ⟨.cells src, 0⟩ d
  else if ctype = ctMRSP ∨ ctype = ctEVENT then s.messageToHost ctype src d
  else if ctype = ctANNOUNCE then
    if s.isMaster then if leAt d 4 1 % 2 = 1 then s.freeStream (leAt d 0 2) else s.grantStream (leAt d 0 2) (leAt d 2 2) else s
  else if ctype = ctGRANT then s.grantLocal (leAt d 0 2) (leAt d 2 2)
  else if ctype = ctREPORT then
    if s.isMaster then s.setChain { s.chain with reports := tabPut (fun _ => 0) s.chain.reports src (leAt d 0 2) } else s
  else if ctype = ctTEST_REQ then s.testReq src (leAt d 0 1 % 2)
  else if ctype = ctTEST_GRANT then if leAt d 0 2 = s.nodeId then s.linkTest (leAt d 2 1 % 2) true else s
  else if ctype = ctPOFS then s.setChain { s.chain with newP := some (leAt d 0 2 % 1024, leAt d 2 6) }
  else s

/-- A message arrives by its own command: taken unless it is for another node or a copy. -/
def State.arrive (s : State) (ctype src dst mseq : Nat) (d : List Byte) : State :=
  if !s.domOn .chn || !(dst == s.nodeId || dst == nodeALL) then s
  else if (s.takeMsg src mseq).1 then (s.takeMsg src mseq).2.message ctype src d else s

/-- DUP_ID (R305). -/
def State.dupId (s : State) : State := if s.domOn .chn then (s.setChain { s.chain with silent := true }).flag Reg.CHAIN_TIME_EVT.DUP_ID else s

/-- What a commit or a rate change gives the chain. -/
def State.chainFollowAll (s : State) : State :=
  if s.domOn .chn then
    let s := (List.range 12).foldl (fun s i => (s.bundleFollow i).subFollow i) ((s.portFollow 0).portFollow 1)
    let s := s.pofsFollow.resettle.watchBetter.showCap
    if s.isMaster then s.trimSlots else s.showSlots
  else s

/-! ### Commands -/

/-- TEST_DONE (R286): the PRBS31 exchange of port `p` is over, with bit errors or without. -/
def execTestDone (p : Fin 2) (errors : Bool) (s : State) : Host.Outcome State Fault Refusal := .next (s.linkTested p errors)

/-- ANNOUNCE (R291). -/
def execAnnounce (src mseq stream hint : BitVec 16) (release : Bool) (s : State) : Host.Outcome State Fault Refusal :=
  .next (s.arrive ctANNOUNCE src.toNat s.nodeId mseq.toNat (leBytes 2 stream.toNat ++ leBytes 2 hint.toNat ++ leBytes 1 (b2n release)))

/-- GRANT (R291). -/
def execGrant (src dst mseq stream slot : BitVec 16) (s : State) : Host.Outcome State Fault Refusal :=
  .next (s.arrive ctGRANT src.toNat dst.toNat mseq.toNat (leBytes 2 stream.toNat ++ leBytes 2 slot.toNat))

/-- ANNOUNCE_REPEAT (R291). -/
def execAnnounceRepeat (b : Fin 12) (s : State) : Host.Outcome State Fault Refusal := .next (s.announceRepeat b)

/-- REPORT (R301): a received cell (source, number, POFS_MIN, POFS_MAX, CLOCK_Q), or the sending of this node's own. -/
def execReport (msg : Option (BitVec 16 × BitVec 16 × BitVec 16 × BitVec 16 × BitVec 8)) (s : State) : Host.Outcome State Fault Refusal :=
  .next (match msg with
    | some (src, mseq, pmin, pmax, q) => s.arrive ctREPORT src.toNat s.nodeId mseq.toNat (leBytes 2 pmin.toNat ++ leBytes 2 pmax.toNat ++ leBytes 1 q.toNat)
    | none => s.sendReport)

/-- TEST_REQ (R304). -/
def execTestReq (src mseq : BitVec 16) (p : Fin 2) (s : State) : Host.Outcome State Fault Refusal :=
  .next (s.arrive ctTEST_REQ src.toNat s.nodeId mseq.toNat (leBytes 1 p.val))

/-- TEST_GRANT (R304): the grant names a node and its port. -/
def execTestGrant (src mseq node : BitVec 16) (p : Fin 2) (s : State) : Host.Outcome State Fault Refusal :=
  .next (s.arrive ctTEST_GRANT src.toNat node.toNat mseq.toNat (leBytes 2 node.toNat ++ leBytes 1 p.val))

/-- TEST_GRANT_TIMEOUT (R304). -/
def execTestGrantTimeout (s : State) : Host.Outcome State Fault Refusal :=
  .next (if s.isMaster && s.chain.testNow.isSome && s.due tmGrant 20 then s.grantTest else s)

/-- POFS (R300). -/
def execPofs (src mseq p : BitVec 16) (t : BitVec 48) (s : State) : Host.Outcome State Fault Refusal :=
  .next (s.arrive ctPOFS src.toNat nodeALL mseq.toNat (leBytes 2 p.toNat ++ leBytes 6 t.toNat))

/-- MRSP (R303, R306): a whole response frame. -/
def execMrsp (src mseq : BitVec 16) (frame : List Byte) (s : State) : Host.Outcome State Fault Refusal :=
  .next (s.arrive ctMRSP src.toNat s.nodeId mseq.toNat frame)

/-- ELECTION_START (R296). -/
def execElectionStart (s : State) : Host.Outcome State Fault Refusal := .next s.electionStart

/-- BETTER_MASTER_SEEN (R296): a valid beacon with HOLD = 0 at port `p` names master `id`. -/
def execBetterMasterSeen (p : Fin 2) (id hops : BitVec 10) (q : BitVec 8) (s : State) : Host.Outcome State Fault Refusal :=
  .next (s.betterMaster p id.toNat q.toNat hops.toNat)

/-- CHALLENGE (R296). -/
def execChallenge (s : State) : Host.Outcome State Fault Refusal := .next s.challenge

/-- ORPHAN (R296). -/
def execOrphan (s : State) : Host.Outcome State Fault Refusal := .next s.orphan

/-- TICK_COUNT_RELOAD (R297): `n` is the count that the next tick carries on the chain. -/
def execTickCountReload (n : TickNo) (s : State) : Host.Outcome State Fault Refusal := .next (s.tickReload n)

/-- POFS_SET (R299). -/
def execPofsSet (s : State) : Host.Outcome State Fault Refusal := .next s.pofsSet

/-- DUP_ID (R305). -/
def execDupId (s : State) : Host.Outcome State Fault Refusal := .next s.dupId

/-- QUEUE_FRAME_RECEIVED (R306): a whole side frame (queue 0) or message (queue 1) of node `src` with its number. -/
def execQueueFrameReceived (q : Fin 2) (src num : BitVec 16) (frame : List Byte) (s : State) : Host.Outcome State Fault Refusal :=
  .next (if !s.domOn .chn then s
    else if q.val = 1 then if (s.takeMsg src.toNat num.toNat).1 then (s.takeMsg src.toNat num.toNat).2.queueReceive 1 src.toNat frame else s
    else if s.chain.sideTaken.elem (src.toNat, num.toNat) then s
    else (s.setChain { s.chain with sideTaken := ((src.toNat, num.toNat) :: s.chain.sideTaken).take 256 }).queueReceive 0 src.toNat frame)

end Sys2Proof.Machine
end

