-- ==== Sys2Proof/Machine/ClockEvents.lean ====
section
/-! DEFINITION. What the clocks do to the rest of the device (03_clocks.md, R54, R58 to R65; 02_tick_and_commit.md, R42,
R45; 05_basins_and_jets.md, R95): losses, forced rate changes, family changes and the decisions that start them. -/

namespace Sys2Proof.Machine

/-! ### Rates (R45, R63, R95) -/

/-- A basin that holds a cascade (R28). -/
def State.basinLoaded (s : State) (b : Nat) : Bool :=
  let st := s.basinState b
  st == bsREADY || st == bsRUNNING || st == bsHELD || st == bsPARKED

/-- Fit at rate `rate` without a commit: every loaded basin that does not fit is parked, and the device enters SAFE if one
is (R45). -/
def State.forcedFit (s : State) (rate : Nat) : State :=
  let bad := (List.range 10).filter fun b => s.basinLoaded b && !(s.basin b).asImage.fits rate
  let s := bad.foldl (fun (s : State) b => s.parkFit b (s.basin b).asImage rate) s
  if bad.isEmpty then s else s.enterSafe causeFIT

/-- A reference forces 176.4 or 192 kHz while one of rills 48 to 95 is enabled (R95). -/
def State.forcedRills (s : State) (rate : Nat) : State :=
  if 4 ≤ rate && (List.range 48).any (fun k => s.bit (Reg.RX_ROUTE.EN (48 + k))) then (s.flag Reg.RX_EVT.RATE_LIMIT).enterSafe causeRATE_LIMIT
  else s

/-- The first tick of a new rate in the same family (R174, R190, R259). -/
def State.rateSteps (s : State) : State :=
  ((s.aiRestartAll 1).aoRateChange.hpRateChange).asrcRateChange.chainFollowAll.lsnFollowAll

/-- A rate that an external reference forces (R45, R63). -/
def State.forceRate (s : State) (rate : Nat) : State :=
  (((s.set Reg.DEV_TICK_CTL.RATE rate).forcedFit rate).forcedRills rate).rateSteps

/-- RATE_FOLLOW (R63): muted after 20 ms, the rate changes and the outputs come back over 20 ms. -/
def State.rateFollow (s : State) : State :=
  match s.clk.follow with
  | some f =>
    if f.step = 1 && s.due tmFollow 20 then
      let s := s.forceRate f.rate
      (s.setClk { s.clk with follow := some { f with step := 2 }, mute := s.clk.mute.next s.now 65536 20 }).startTimer tmFollow
    else if f.step = 2 && s.due tmFollow 20 then (s.setClk { s.clk with follow := none }).stopTimer tmFollow
    else s
  | none => s

/-! ### Family changes (R64) -/

/-- Ratio-synchronous crossings start (R72): those whose sides are powered and clocked. -/
def State.startRatio (s : State) : State :=
  [12, 13, 14, 15].foldl (fun (s : State) n =>
    if s.xingPowered n && s.xingClocked n then s.set (Reg.XING_STAT.RDY n) 1 |>.set (Reg.XING_STAT.SILENT n) 0 else s) s

/-- The end of step 2, after the weir of the tick in progress, and step 3: master ports and lanes stop, AUD and FAB stand low with the
ratio-synchronous crossings, and both PLLs load; PLL-P only while PST is on. -/
def State.hopHalt (s : State) (h : HopSt) : State :=
  let family := rateFamily h.rate
  let s := s.lanesUnlockAll
  let s := (List.range 2).foldl (fun (s : State) n => if s.bit (Reg.SAP_CTL.EN n) && s.bit (Reg.SAP_CTL.MASTER n) then s.sapStop n else s) s
  let s := s.setClk { s.clk with stopped := true, hop := some { h with step := 3 } }
  let s := [12, 13, 14, 15].foldl (fun (s : State) n => s.set (Reg.XING_STAT.RDY n) 0) s
  let s := (s.writeShadow pllA (familySetting family)).writeShadow pllP (familySetting family)
  let s := s.pllLoad pllA (familySetting family)
  let s := if s.domOn .pst then s.pllLoad pllP (familySetting family) else s
  s.lsnClock.chainFollowAll

/-- Step 2: power stages all-off; the fabric goes on to the weir of the tick in progress, if ticks pass. -/
def State.hopStop (s : State) (h : HopSt) : State :=
  let s := s.pscFamilyPark
  let h := { h with step := 2 }
  if s.ticksRun then s.setClk { s.clk with hop := some h } else s.hopHalt h

/-- After the weir of a tick: the last tick before a family change's stop (R64), or after a loss of PLL-A, which parks the basins (R54, R79). -/
def State.tickEnd (s : State) : State :=
  let s := if s.clk.lastTick then (s.setClk { s.clk with lastTick := false }).safePark false else s
  match s.clk.hop with
  | some h => if h.step = 2 then s.hopHalt h else s
  | none => s

/-- Step 5, `us` microseconds after step 2: the tick restarts on the new source, in the new family. The fit is checked where the source's rate
does not correspond; a forced 176.4 or 192 kHz with rills 48 to 95 enabled is a fault of its own (R95). -/
def State.hopStart (s : State) (h : HopSt) (us : Nat) : State :=
  let old := s.rate
  let s := s.set Reg.CLK_STAT.FAMILY (rateFamily h.rate) |>.set (Reg.CLK_PLL_STAT.HOP_US pllA) (min us 65535)
    |>.set Reg.DEV_TICK_CTL.RATE h.rate
  let s := s.setClk { s.clk with stopped := false, hop := some { h with step := 4 }, mute := s.clk.mute.next s.now 65536 20 }
  let s := (if h.rate = otherFamily old then s else s.forcedFit h.rate).forcedRills h.rate
  s.startRatio.rateSteps.startTimer tmHop

/-- Step 6: HOP_DONE; PLL-A follows the new source, or, where that was lost, holds with no trim (R65). -/
def State.hopEnd (s : State) (h : HopSt) : State :=
  let s := (s.setClk { s.clk with hop := none }).stopTimer tmHop |>.flag Reg.CLK_EVT.HOP_DONE
  let s := if h.source = srcFREE then s.set Reg.CLK_PLLA_TRIM.TRIM 0 |>.refEnter refFREE srcFREE
    else if h.lost then ((s.set Reg.CLK_PLLA_TRIM.TRIM 0).refEnter refHOLDOVER h.source).startTimer tmHold |>.decisionDue true
    else s.acquire h.source
  s.pscPark

/-- FAMILY_CHANGE (R64): the step that is due. -/
def State.familyChange (s : State) (us : Nat) : State :=
  match s.clk.hop with
  | none => s
  | some h =>
    if h.step = 1 then if s.due tmHop 20 then s.hopStop h else s
    else if h.step = 2 then if s.ticksRun then s else s.hopHalt h
    else if h.step = 3 then if s.locked pllA && (s.locked pllP || !s.domOn .pst) then s.hopStart h us else s
    else if s.due tmHop 20 then s.hopEnd h else s

/-- A family change that REF loss cuts short: the dividers of the family in effect come back, the mute ends (R65). -/
def State.hopAbandon (s : State) : State :=
  let d := familySetting (s.get Reg.CLK_STAT.FAMILY)
  let s := s.setPll pllA { s.pll pllA with loaded := d }
  let s := s.setPll pllP { s.pll pllP with loaded := d }
  (s.setClk { s.clk with hop := none, follow := none, stopped := false, lastTick := false, mute := ⟨65536, 65536, 0, 0⟩ }).stopTimer tmHop |>.stopTimer tmFollow

/-! ### Losses (R51, R54, R65) -/

/-- Every channel of the power stages meets a clock error (R54). -/
def State.pscClockErrorAll (s : State) : State := (List.range 8).foldl (fun (s : State) k => s.pscClockError k) s

/-- A PLL declares loss while REF is good (R54, R55, R366): its error is noted for the relock test. -/
def State.pllLost (s : State) (p : Nat) : State :=
  if !s.locked p || !s.bit Reg.CLK_STAT.REF_OK then s
  else
    let s := (s.pllLose p).error clsPLL p
    if p = pllA then (s.enterSafe causePLLA).chainFollowAll
    else if p = pllS then s
    else if p = pllP then s.pscClockErrorAll
    else s.chainQuiet

/-- REF is lost (R51, R65). -/
def State.refLost (s : State) : State :=
  if !s.bit Reg.CLK_STAT.REF_OK then s
  else
    let s := s.set Reg.CLK_STAT.REF_OK 0
    let s := (List.range 4).foldl (fun (s : State) p => if s.locked p then s.pllLose p else s.setPll p { s.pll p with busy := false }) s
    let s := (s.setClk { s.clk with sysOnLpo := true }).hopAbandon
    (((s.errorNow clsREF 0 0).enterSafe causeREF).pscClockErrorAll).chainQuiet

/-! ### Divider loads (R58) -/

/-- A load of PLL `p` that CLK_PLL_UPD asks for. -/
def State.pllUpdate (s : State) (p : Nat) : State :=
  if p = pllA then
    if s.refState = refHOP then s.flag Reg.CLK_EVT.UPD_ERR else s.setClk { s.clk with updA := true }
  else
    let d := s.shadow p
    if d.den = 0 then s.flag Reg.CLK_EVT.UPD_ERR
    else
      let s := s.pllLoad p d
      if p = pllP then s.pscClockErrorAll else if p = pllC then s.chainQuiet else s

/-- A write of CLK_PLL_UPD. -/
def State.pllUpdWrite (s : State) (mask : Nat) : State :=
  (List.range 4).foldl (fun (s : State) p => if mask / 2 ^ p % 2 = 1 then s.pllUpdate p else s) s

/-! ### Commands -/

/-- REF_LOST (R65). -/
def execRefLost (s : State) : Host.Outcome State Fault Refusal := .next s.refLost

/-- PLL_LOSS (R53, R54): the phase error of a PLL's analogue loop left its window, or no reference edge came for two periods. -/
def execPllLoss (e : PllLossSeen) (s : State) : Host.Outcome State Fault Refusal :=
  .next (if s.lossSeen e.p e.seen then s.pllLost e.p else s)

/-- CLK_PLL_UPD_WRITE (R58). -/
def execClkPllUpdWrite (mask : BitVec 4) (s : State) : Host.Outcome State Fault Refusal := .next (s.byRow ((s.pllUpdWrite mask.toNat).onBus 0 .done))

/-- REFERENCE_DECISION (R59, R61). -/
def execReferenceDecision (s : State) : Host.Outcome State Fault Refusal := .next (s.decideSource State.cancelArmed)

/-- HOLD_LIMIT_EXPIRY (R61). -/
def execHoldLimitExpiry (s : State) : Host.Outcome State Fault Refusal := .next (s.holdLimit State.cancelArmed)

/-- REVERT (R62) of source code 1 to 4. -/
def execRevert (c : Fin 4) (s : State) : Host.Outcome State Fault Refusal := .next (s.revert (c + 1) State.cancelArmed)

/-- RATE_FOLLOW (R63). -/
def execRateFollow (s : State) : Host.Outcome State Fault Refusal := .next s.rateFollow

/-- FAMILY_CHANGE (R64). -/
def execFamilyChange (us : BitVec 16) (s : State) : Host.Outcome State Fault Refusal := .next (s.familyChange us.toNat)

end Sys2Proof.Machine
end

