-- ==== Sys2Proof/Machine/Gauge.lean ====
section
/-! DEFINITION. The gauge converters (17_gauge.md, R321 to R336): the references, calibration and service, the sequences
and their triggers, the result collector with its DMA buffers, and the plausibility check. The inputs of conversions come
from outside and are operands, in µV or, on a temperature channel, in 1/128 °C; a conversion whose input no operand gives has a free one. -/

namespace Sys2Proof.Machine

/-- Waits: the calibration of converter `c` (R324) and the interval of R335. -/
def tmGaugeCal (c : Nat) : Nat := 0x700 + c
abbrev tmGaugeGx : Nat := 0x702

/-- Gauge converter states of GAUGE_STAT. -/
abbrev gsOFF : Nat := 0
abbrev gsCAL : Nat := 1
abbrev gsSERVICE : Nat := 2
abbrev gsFLAGGED : Nat := 3
abbrev gsTEST : Nat := 4

def State.setGauge (s : State) (g : GaugeSt) : State := { s with gauge := g }
def State.gconv (s : State) (c : Nat) : GaugeConv := tabGet (fun _ => {}) s.gauge.convs c
def State.setGconv (s : State) (c : Nat) (x : GaugeConv) : State :=
  s.setGauge { s.gauge with convs := tabPut (fun _ => {}) s.gauge.convs c x }

/-- GAUGE_STAT.STATE of converter `c`. -/
def gaugeStateFld (c : Nat) : Fld := if c = 0 then Reg.GAUGE_STAT.STATE_A else Reg.GAUGE_STAT.STATE_B
def State.gaugeState (s : State) (c : Nat) : Nat := s.get (gaugeStateFld c)

/-- GAUGE_CTL.EN of converter `c`. -/
def State.gaugeEn (s : State) (c : Nat) : Bool := s.bit (if c = 0 then Reg.GAUGE_CTL.EN_A else Reg.GAUGE_CTL.EN_B)

/-- Converter `c` is in service (R325). -/
def State.gaugeServes (s : State) (c : Nat) : Bool := s.gaugeState c == gsSERVICE

/-- What R325 makes of converter `c`. -/
def State.gaugeDerived (s : State) (c : Nat) : Nat :=
  if s.gauge.calNow / 2 ^ c % 2 = 1 then gsCAL
  else if (s.gconv c).testing then gsTEST
  else if (s.gconv c).flagged then gsFLAGGED
  else if s.gaugeEn c && s.bit Reg.GAUGE_STAT.REFRDY then gsSERVICE
  else gsOFF

/-- GAUGE_STAT follows, and the power-stage channels with it (R18, R325). -/
def State.gaugeShow (s : State) : State :=
  let s := s.set (gaugeStateFld 0) (s.gaugeDerived 0) |>.set (gaugeStateFld 1) (s.gaugeDerived 1)
  s.pscPark

/-! ### Calibration (R322, R324) -/

/-- Some PSC channel is not in OFF. -/
def State.anyPscOn (s : State) : Bool := (List.range 8).any fun k => s.psState k != psOFF

/-- Calibration of converter `c` begins. -/
def State.gaugeCalBegin (s : State) (c : Nat) : State :=
  (s.setGauge { s.gauge with calNow := s.gauge.calNow ||| 2 ^ c, calNext := s.gauge.calNext &&& (3 - 2 ^ c) }).startTimer (tmGaugeCal c)

/-- The waiting calibrations that may begin do: none before REFRDY, one at a time while a PSC channel is not in OFF. -/
def State.gaugeCalStart (s : State) : State :=
  let s := (List.range 2).foldl (fun (s : State) c =>
    if s.gauge.calNext / 2 ^ c % 2 = 1 && s.bit Reg.GAUGE_STAT.REFRDY && (!s.anyPscOn || s.gauge.calNow == 0) then s.gaugeCalBegin c
    else s) s
  s.gaugeShow

/-- GAUGE_CAL of the converters of `m` is asked for (bit 0 GA, bit 1 GB). -/
def State.gaugeCalibrate (s : State) (m : Nat) : State :=
  (s.setGauge { s.gauge with calNext := s.gauge.calNext ||| (m &&& 3 &&& (3 - s.gauge.calNow)) }).gaugeCalStart

/-- A change of the reference: REFRDY falls and both converters calibrate once it rises. -/
def State.gaugeRefChange (s : State) : State :=
  ((s.set Reg.GAUGE_STAT.REFRDY 0).setGauge { s.gauge with recal := true, calNow := 0, calNext := 0 }).gaugeShow

/-- The GAUGE_CAL command completes once every converter that it named has finished (R368). -/
def State.gaugeCalCommand (s : State) (c : Nat) : State :=
  let left := s.mbx.gaugeLeft &&& (3 - 2 ^ c)
  match s.mbx.gaugeCal with
  | some p => if left = 0 then (s.setMbx { s.mbx with gaugeCal := none, gaugeLeft := 0 }).complete p 0x0041 stOK []
    else s.setMbx { s.mbx with gaugeLeft := left }
  | none => s

/-! ### Results (R321, R330, R332) -/

/-- A temperature channel; a reserved one. -/
def gaugeTemp (ch : Nat) : Bool := decide (40 ≤ ch ∧ ch ≤ 45)
def gaugeReserved (ch : Nat) : Bool := decide (ch = 39 ∨ 46 ≤ ch)

/-- VREF in mV (R322). -/
def State.vrefMv (s : State) : Nat := match s.get Reg.GAUGE_CTL.REF with
  | 1 => Config.extRefMv
  | 2 => 1800
  | _ => 2500

/-- The scale of a channel (R321). -/
def gaugeScale (ch : Nat) : Nat := if ch = 36 then 4 else if ch = 35 ∨ ch = 37 ∨ ch = 38 then 2 else 1

/-- The raw result of an input (R321): a voltage over the scale as a fraction of VREF, or a temperature, saturated. -/
def State.gaugeRaw (s : State) (ch : Nat) (v : Int) : Int :=
  if gaugeTemp ch then clampInt (-32768) 32767 v
  else clampInt 0 65535 (roundDiv (v * 65536) ((gaugeScale ch * max 1 s.vrefMv * 1000 : Nat)))

/-- A conversion of channel `ch` by converter `c` with its factors (R324): to nearest, within 16 bits. Temperatures are no fraction of VREF
and take none; a reserved channel gives 0. -/
def State.gaugeCode (s : State) (c ch : Nat) (v : Int) : Int :=
  let gain := s.get (if c = 0 then Reg.GAUGE_GA_CAL.GAIN else Reg.GAUGE_GB_CAL.GAIN)
  let ofs := s.getInt (if c = 0 then Reg.GAUGE_GA_CAL.OFS else Reg.GAUGE_GB_CAL.OFS)
  if gaugeReserved ch then 0
  else if gaugeTemp ch then s.gaugeRaw ch v
  else clampInt 0 65535 (((16 * s.gaugeRaw ch v - ofs) * gain + 2 ^ 18).fdiv (2 ^ 19))

/-- OFS from the sum of 4,096 raw results of the shorted input: their mean in units of 1/16 code (R324). -/
def calOffset (shorted : Int) : Int := clampInt (-32768) 32767 (roundDiv shorted 256)

/-- GAIN from the sum of 4,096 raw results of REFCHK (R324): what makes of their mean the code of 1.200 V; none where they do not exceed the offset. -/
def State.calGain (s : State) (ofs : Int) (refchk : Nat) : Option Int :=
  let above := 16 * (refchk : Int) - 4096 * ofs
  if above ≤ 0 then none
  else some (clampInt 0 65535 (roundDiv (32768 * 1200 * 65536 * 4096 * 16) (above * (max 1 s.vrefMv : Nat))))

/-- The sum of an entry's conversions, shifted and saturated (R330). -/
def gaugeSum (ch shift : Nat) (codes : List Int) : Int :=
  let x := codes.sum.fdiv (2 ^ shift)
  if gaugeTemp ch then clampInt (-32768) 32767 x else clampInt 0 65535 x

/-- The word of R332. -/
def gaugeWord (conv : Nat) (inj : Bool) (ch entry pass : Nat) (r : Int) : Word :=
  BitVec.ofNat 32 (conv * 2 ^ 31 + b2n inj * 2 ^ 30 + ch * 2 ^ 24 + entry % 32 * 2 ^ 19 + pass % 8 * 2 ^ 16 + (r % 65536).toNat)

/-- The holding register of a source: 0 INJ, 1 GA, 2 GB. -/
def State.hold (s : State) (i : Nat) : List GaugeResult :=
  if i = 0 then s.gauge.holdInj else if i = 1 then s.gauge.holdA else s.gauge.holdB
def State.setHold (s : State) (i : Nat) (l : List GaugeResult) : State :=
  if i = 0 then s.setGauge { s.gauge with holdInj := l } else if i = 1 then s.setGauge { s.gauge with holdA := l }
  else s.setGauge { s.gauge with holdB := l }

/-! ### Sequences (R328 to R331) -/

/-- The entries of a sequence at the start of its pass. -/
def State.regEntries (s : State) (c : Nat) : List Word :=
  (List.range (s.get (Reg.GAUGE_SEQ.LEN c) + 1)).map fun e => s.word (Reg.GAUGE_REG.word c e).addr
def State.injEntries (s : State) (c : Nat) : List Word :=
  (List.range (s.get (Reg.GAUGE_INJCTL.LEN c) + 1)).map fun e => s.word (Reg.GAUGE_INJ.word c e).addr

/-- An injected trigger of converter `c`'s sequence: a run, or merged into the one that runs (R328). -/
def State.injTrigger (s : State) (c : Nat) (volts : List Int) : State :=
  if !s.bit (Reg.GAUGE_INJCTL.EN c) then s
  else match (s.gconv c).inj with
  | some _ => s.count (Reg.GAUGE_CNT.INJ_OVR c) 1 |>.flag Reg.GAUGE_EVT.INJ_OVR
  | none => s.setGconv c { s.gconv c with inj := some { entries := s.injEntries c, volts := volts } }

/-- A regular trigger: a pass, or skipped while one runs (R328). A continuous sequence has no trigger during its pass. -/
def State.regTrigger (s : State) (c : Nat) (volts : List Int) : State :=
  if !s.bit (Reg.GAUGE_SEQ.EN c) then s
  else match (s.gconv c).reg with
  | some _ => if s.get (Reg.GAUGE_SEQ.TRIG c) = 2 then s else s.count (Reg.GAUGE_CNT.REG_OVR c) 1 |>.flag Reg.GAUGE_EVT.REG_OVR
  | none => s.setGconv c { s.gconv c with reg := some { entries := s.regEntries c, volts := volts } }

/-- Field values of an entry word (GAUGE_x_REGe). -/
def entryCh (e : Word) : Nat := e.toNat / 2 ^ 24 % 64
def entryAvg (e : Word) : Nat := min 8 (e.toNat / 2 ^ 20 % 16)
def entryShift (e : Word) : Nat := min 8 (e.toNat / 2 ^ 16 % 16)
def entryDest (e : Word) : Nat := min 8 (e.toNat / 2 ^ 12 % 16)

/-- `n` inputs: those given, and free ones for the rest. -/
def State.takeVolts (s : State) (n : Nat) (volts : List Int) : List Int × State :=
  let given := volts.take n
  let k := n - given.length
  (given ++ (List.range k).map (fun i => (Config.free (s.free + i)).toInt), { s with free := s.free + k })

/-- The next entry of a run, executed by converter `x`: the result goes into its holding register. A continuous pass starts at the end of the
last (R329). -/
def State.runEntry (s : State) (x c : Nat) (inj : Bool) (r : GaugeRun) : State :=
  let e := r.entries.getD r.next 0
  let n := 2 ^ entryAvg e
  let (volts, s) := s.takeVolts n r.volts
  let codes := volts.map (s.gaugeCode x (entryCh e))
  let v := gaugeSum (entryCh e) (entryShift e) codes
  let s := if entryCh e = 32 then s.setGconv x { s.gconv x with refchk := codes.getLast?.map Int.toNat } else s
  let g := s.gconv c
  let pass := if inj then g.injPass else g.regPass
  let i := if inj then 0 else 1 + x
  let s := s.setHold i (s.hold i ++ [{ word := gaugeWord x inj (entryCh e) r.next pass v, dest := entryDest e }])
  let last := decide (r.entries.length ≤ r.next + 1)
  let again := !inj && s.bit (Reg.GAUGE_SEQ.EN c) && s.get (Reg.GAUGE_SEQ.TRIG c) == 2
  let r' : Option GaugeRun := if !last then some { r with next := r.next + 1, volts := r.volts.drop n }
    else if again then some { entries := s.regEntries c } else none
  let pass' := if last then (pass + 1) % 8 else pass
  s.setGconv c (if inj then { g with inj := r', injPass := pass' } else { g with reg := r', regPass := pass' })

/-- What converter `x` converts next (R325, R326): its own injected run, the other's, its own regular pass, the other's;
the other's only while the other is out of service. -/
def State.nextRun (s : State) (x : Nat) : Option (Nat × Bool × GaugeRun) :=
  let o := 1 - x
  let both := !s.gaugeServes o
  match (s.gconv x).inj, (if both then (s.gconv o).inj else none), (s.gconv x).reg, (if both then (s.gconv o).reg else none) with
  | some r, _, _, _ => some (x, true, r)
  | none, some r, _, _ => some (o, true, r)
  | none, none, some r, _ => some (x, false, r)
  | none, none, none, some r => some (o, false, r)
  | none, none, none, none => none

/-- One entry of converter `x`, unless it is out of service or the holding register it would fill is full (R333). -/
def State.gaugeConvert (s : State) (x : Nat) : State :=
  if !s.gaugeServes x then s
  else match s.nextRun x with
  | some (c, inj, r) => if (s.hold (if inj then 0 else 1 + x)).length < 8 then s.runEntry x c inj r else s
  | none => s

/-! ### Buffers (R334) -/

/-- Entries of buffer `n`, and its fill. -/
def State.bufSize (s : State) (n : Nat) : Nat := 2 ^ (min 8 (s.get (Reg.GAUGE_BUF_CFG.SIZE n)) + 8)
def State.bufFill (s : State) (n : Nat) : Nat :=
  let size := s.bufSize n
  (s.get (Reg.GAUGE_BUF_WR.WR n) % size + size - s.get (Reg.GAUGE_BUF_RD.RD n) % size) % size

/-- GAUGE_WMST follows the fill of buffer `n`; WM is set when the bit rises. -/
def State.bufMark (s : State) (n : Nat) : State :=
  let up := s.bit (Reg.GAUGE_BUF_CFG.EN n) && decide (s.get (Reg.GAUGE_BUF_CFG.WM n) ≤ s.bufFill n)
  (s.flagIf (up && !s.bitAt Reg.GAUGE_WMST.BUF n) Reg.GAUGE_EVT.WM).setBitAt Reg.GAUGE_WMST.BUF n up

/-- Byte offset at which buffer `n` stores the result with index `i`. -/
def State.bufAddr (s : State) (n i : Nat) : Nat := (4 * s.get (Reg.GAUGE_BUF_BASE.ADDR n) + 4 * i) % ramBytes

/-- A result for buffer `n`: stored, or dropped when the buffer is full; a buffer that is not in use takes none. -/
def State.bufStore (s : State) (n : Nat) (v : Word) : State :=
  if !s.bit (Reg.GAUGE_BUF_CFG.EN n) then s
  else if s.bufFill n = s.bufSize n - 1 then s.count (Reg.GAUGE_BUF_WR.DROP n) 1 |>.flag Reg.GAUGE_EVT.BUF_OVF
  else
    let wr := s.get (Reg.GAUGE_BUF_WR.WR n) % s.bufSize n
    ((s.setRamWord (s.bufAddr n wr) v).set (Reg.GAUGE_BUF_WR.WR n) ((wr + 1) % s.bufSize n)).bufMark n

/-- Every buffer's watermark, after a commit or a write of RD. -/
def State.bufMarkAll (s : State) : State := (List.range 8).foldl (fun (s : State) n => s.bufMark n) s

/-! ### The collector (R333) -/

/-- The destination takes the result now: crossing 6 while it is open and its FIFO has room (R71, R74). -/
def State.accepts (s : State) (r : GaugeResult) : Bool := decide (r.dest < 16) || (s.xingOpen 6 && !s.xingFull 6)

/-- PSC_PVDD of channel `k` from its sense code: code × VREF / 2^16, divided by β = BETA / 2^16, in units of 10 mV (R214). -/
def State.showPvdd (s : State) (k code : Nat) : State :=
  let beta := s.get (Reg.PSC_PRECHG.BETA k)
  s.set (Reg.PSC_PVDD.MV10 k) (if beta = 0 then 65535 else (clampInt 0 65535 (roundDiv (code * s.vrefMv : Nat) (10 * beta : Nat))).toNat)

/-- A result that has come over crossing 6 reaches channel k's estimator, which takes a PVDD sample as the measured supply (R214). -/
def State.estimatorTakes (s : State) (r : GaugeResult) : State :=
  let code := r.word.toNat % 65536
  let k := (r.dest - 16) / 4
  let s := s.setGauge { s.gauge with events := tabPut (fun _ => 0) s.gauge.events (r.dest - 16) (code + 1) }
  if !s.domOn .pst then s
  else if r.dest % 4 = 2 then (s.setPscCh k { s.pscCh k with pvdd := code }).showPvdd k code
  else s.setPscCh k { s.pscCh k with codes := (s.pscCh k).codes ++ [⟨r.dest % 4 == 1, r.node, code⟩] }

/-- A result reaches its destination: a buffer, the stewards, or crossing 6, whose word wakes a gated PST and waits in the FIFO while PWR
stands still (R71, R75). -/
def State.deliverResult (s : State) (r : GaugeResult) : State :=
  if r.dest < 8 then s.bufStore r.dest r.word
  else if r.dest < 16 then s
  else if s.farRuns .pst then (s.ungate .pst).estimatorTakes r
  else
    (s.set (Reg.XING_STAT.WAKE_PEND 6) (b2n (s.isGated .pst))).setXing 6 { s.xingSt 6 with words := (s.xingSt 6).words ++ [.gauge r] }

/-- One delivery: the first source of INJ, GA, GB whose oldest result its destination takes. -/
def State.collect (s : State) : State :=
  match (List.range 3).find? (fun i => match s.hold i with
    | r :: _ => s.accepts r
    | [] => false) with
  | some i => match s.hold i with
    | r :: rest => (s.setHold i rest).deliverResult r
    | [] => s
  | none => s

/-! ### Commands -/

/-- An event conversion of channel `k`: a switch-node sense of half-bridge N or P, or PVDD with none, with its input. The assigned converter, or
the other when it is reserved or out of service; otherwise the event is skipped, which the power stage counts (R216, R327). -/
def State.eventConversion (s : State) (k : Nat) (sense : Option (Bool × FcNode)) (v : Int) (ownBusy otherBusy : Bool) : State :=
  let i := match sense with
    | some (half, _) => b2n half
    | none => 2
  let own := if i = 1 then 1 - k % 2 else k % 2
  let free (c : Nat) (busy : Bool) := s.gaugeServes c && !busy && decide ((s.hold (1 + c)).length < 8)
  let by' : Option Nat := if free own ownBusy then some own else if free (1 - own) otherBusy then some (1 - own) else none
  match by' with
  | some c =>
    let ch := if i = 2 then 16 + k else 2 * k + i
    s.setHold (1 + c) (s.hold (1 + c) ++ [⟨gaugeWord c false ch 0 0 (s.gaugeCode c ch v), 16 + 4 * k + i, (sense.getD (false, .v1)).2⟩])
  | none => if i = 2 then s else s.fcMiss k

/-- The interval of a sample in carriers (R215): doubled while one converter serves. -/
def State.fcInterval (s : State) (k : Nat) : Nat :=
  (s.get (Reg.PSC_FCBAL.SMP k) + 1) * (if s.gaugeServes 0 && s.gaugeServes 1 then 1 else 2)

/-- A sample of kind `i` of channel `k` is due, at each carrier of a probe and else once in an interval (R215): its next is an interval later. -/
def State.fcDue (s : State) (k i : Nat) : Bool :=
  (s.pscCh k).drive != .low && decide (tabGet (fun _ => 0) (s.pscCh k).dueAt i ≤ (s.pscCh k).carriers)
def State.fcTaken (s : State) (k i : Nat) : State :=
  let c := s.pscCh k
  if c.drive = .probe then s else s.setPscCh k { c with dueAt := tabPut (fun _ => 0) c.dueAt i (c.carriers + s.fcInterval k) }

/-- The first or second sample of a half-bridge: the node that its state names, where the state lasts; a state that does not is no sample but a
missed opportunity (R215). -/
def State.fcEvent (s : State) (k : Nat) (half second : Bool) (uv : Nat) (ownBusy otherBusy : Bool) : State :=
  let i := 2 * b2n half + b2n second
  match s.fcNode k half second with
  | some x =>
    if s.fcDue k i then
      if (s.fcTaken k i).fcLasts k half (if s.bit (Reg.CLK_PLL_STAT.BYPASSED 1) then 165 else 120) then
        (s.fcTaken k i).eventConversion k (some (half, x)) uv ownBusy otherBusy
      else (s.fcTaken k i).fcMiss k
    else s
  | none => s

/-- PVDD is sampled in STARTING too (R222). -/
def State.pvddEvent (s : State) (k uv : Nat) (ownBusy otherBusy : Bool) : State :=
  if s.psState k = psSTARTING then s.eventConversion k none uv ownBusy otherBusy
  else if s.fcDue k 4 then (s.fcTaken k 4).eventConversion k none uv ownBusy otherBusy
  else s

/-- EVENT_CONVERSION: the PWM event of a sample that its interval makes due, or a probe (R215, R222, R326, R327). -/
def execEventConversion (k : Fin 8) (sense : Sense) (uv : Nat) (ownBusy otherBusy : Bool) (s : State) :
    Host.Outcome State Fault Refusal :=
  .next (if !s.domOn .pst then s
    else match sense with
    | .p second => s.fcEvent k false second uv ownBusy otherBusy
    | .n second => s.fcEvent k true second uv ownBusy otherBusy
    | .pvdd => s.pvddEvent k uv ownBusy otherBusy)

/-- CHANNEL_START (R222): the step that is due; PVDD is sampled at the first, with `uv` its input. -/
def execChannelStart (k : Fin 8) (line : Bool) (uv : Nat) (s : State) : Host.Outcome State Fault Refusal :=
  let t := s.pscStart k line
  .next (if s.psState k != psSTARTING && t.psState k == psSTARTING then t.eventConversion k none uv false false else t)

/-- INJECTED_TRIGGER (R328): a protection event of PSC channel `k` at the sequence of converter `c`. -/
def execInjectedTrigger (c : Fin 2) (k : Fin 8) (volts : List Int) (s : State) : Host.Outcome State Fault Refusal :=
  .next (if s.get (Reg.GAUGE_INJCTL.TRIG c) = 1 && s.bitAt (Reg.GAUGE_INJCTL.PMASK c) k then s.injTrigger c volts else s)

/-- GAUGE_SW_TRIGGER (R328). -/
def execGaugeSwTrigger (c : Fin 2) (volts : List Int) (s : State) : Host.Outcome State Fault Refusal := .next (s.byRow ((s.injTrigger c volts).onBus 0 .done))

/-- REGULAR_TRIGGER (R328, R329): the end of a continuous pass, or the delayed carrier start of PSC channel PCH. -/
def execRegularTrigger (c : Fin 2) (volts : List Int) (s : State) : Host.Outcome State Fault Refusal :=
  .next (match s.get (Reg.GAUGE_SEQ.TRIG c) with
    | 1 => s.regTrigger c volts
    | 2 => s.regTrigger c volts
    | 3 => if (s.pscCh (s.get (Reg.GAUGE_SEQ.PCH c))).switches then s.regTrigger c volts else s
    | _ => s)

/-- One expiry of the gauge timer at the sequences of converter `c`. -/
def State.gaugeTimerAt (s : State) (c : Nat) (reg inj : List Int) : State :=
  let s := if s.get (Reg.GAUGE_INJCTL.TRIG c) = 2 then s.injTrigger c inj else s
  if s.get (Reg.GAUGE_SEQ.TRIG c) = 1 then s.regTrigger c reg else s

/-- The counts of the gauge timer from one expiry to the next (R329). -/
def State.gaugePeriod (s : State) : Nat := s.get Reg.GAUGE_TMR.PERIOD + 1

/-- A millisecond of the gauge timer: 1,536 counts of REF / 16 while it is enabled (R329); expiries that no command has taken are kept for a
period. -/
def State.gaugeMs (s : State) : State :=
  let n := if s.bit Reg.GAUGE_TMR.EN then min (s.gauge.tmr + 1536) (s.gaugePeriod + 1536) else 0
  if n = s.gauge.tmr then s else s.setGauge { s.gauge with tmr := n }

/-- GAUGE_TIMER (R329): the timer has counted a period. -/
def execGaugeTimer (regA injA regB injB : List Int) (s : State) : Host.Outcome State Fault Refusal :=
  .next (if s.bit Reg.GAUGE_TMR.EN && decide (s.gaugePeriod ≤ s.gauge.tmr) then
      ((s.setGauge { s.gauge with tmr := s.gauge.tmr - s.gaugePeriod }).gaugeTimerAt 0 regA injA).gaugeTimerAt 1 regB injB
    else s)

/-- The pair of GX (R335). -/
def State.gxPair (s : State) (a b : Int) : State :=
  let src := s.get Reg.GAUGE_PLCFG.SRC
  let d := s.gaugeCode 0 src a - s.gaugeCode 1 src b
  let s := if -32768 ≤ d ∧ d ≤ 32767 then s.setInt Reg.GAUGE_PLSTAT.DIFF d else (s.set Reg.GAUGE_PLSTAT.DIFF s.fresh.toNat).drawn
  let bad := if s.get Reg.GAUGE_PLCFG.WIN < d.natAbs then s.gauge.plBad + 1 else 0
  if max 1 (s.get Reg.GAUGE_PLCFG.CNT) ≤ bad then
    (((s.setGauge { s.gauge with plBad := 0 }).count Reg.GAUGE_PLSTAT.FAILS 1).flag Reg.GAUGE_EVT.PLAUS).error clsGAUGE 2
  else s.setGauge { s.gauge with plBad := bad }

/-- STEWARD_CONVERSION (R326, R335): the stage NTCs, whose codes the thresholds of PSC_NTC meet (R240), by GA, or by GB while GA is out of
service, and the pair of GX when its interval has passed. -/
def execStewardConversion (ntc : List Int) (gx : Option (Int × Int)) (s : State) : Host.Outcome State Fault Refusal :=
  let stage (s : State) (k : Nat) : State := match ntc[k]? with
    | some v =>
      let code := s.gaugeCode (if s.gaugeServes 0 then 0 else 1) (24 + k) v
      if s.domOn .pst then (s.setPscCh k { s.pscCh k with ntc := code.toNat }).thermalStop k else s
    | none => s
  let s' := if s.gaugeInService then (List.range 8).foldl stage s else s
  .next (match gx with
    | some (a, b) =>
      if s'.gaugeServes 0 && s'.gaugeServes 1 && !s'.stew.gxOff && (!s'.timerOn tmGaugeGx || s'.due tmGaugeGx (max 1 (s'.get Reg.GAUGE_PLCFG.INTERVAL))) then
        (s'.gxPair a b).startTimer tmGaugeGx
      else s'
    | none => s')

/-- RESULT_DELIVERY (R333): the converters fill what their holding registers have room for, and one result is delivered. -/
def execResultDelivery (s : State) : Host.Outcome State Fault Refusal :=
  .next ((List.range 8).foldl (fun (s : State) _ => (s.gaugeConvert 0).gaugeConvert 1) s).collect

/-- GAUGE_BUF_RD_WRITE (R334): an index beyond the area would give a fill beyond size − 1 and is clamped to WR. -/
def execGaugeBufRdWrite (n : Fin 8) (rd : BitVec 16) (s : State) : Host.Outcome State Fault Refusal :=
  .next (s.byRow (((s.set (Reg.GAUGE_BUF_RD.RD n) (if rd.toNat < s.bufSize n then rd.toNat else s.get (Reg.GAUGE_BUF_WR.WR n))).bufMark n).onBus 0 .done))

/-- GAUGE_CAL_A (R324). -/
def execGaugeCalA (s : State) : Host.Outcome State Fault Refusal := .next (s.byRow ((s.gaugeCalibrate 1).onBus 0 .done))

/-- GAUGE_CAL_B (R324). -/
def execGaugeCalB (s : State) : Host.Outcome State Fault Refusal := .next (s.byRow ((s.gaugeCalibrate 2).onBus 0 .done))

/-- GAUGE_REF_WRITE (R322). -/
def execGaugeRefWrite (ref : Fin 4) (s : State) : Host.Outcome State Fault Refusal :=
  .next (s.byRow ((if ref.val = s.get Reg.GAUGE_CTL.REF then s
    else if s.anyPscOn then s.flag Reg.GAUGE_EVT.REF_ERR
    else (s.set Reg.GAUGE_CTL.REF ref).gaugeRefChange).onBus 0 .done))

/-- REFRDY (R322): the reference has settled. -/
def execRefrdy (s : State) : Host.Outcome State Fault Refusal :=
  .next (if s.bit Reg.GAUGE_STAT.REFRDY || !s.domOn .sys then s
    else
      let s := s.set Reg.GAUGE_STAT.REFRDY 1
      if s.gauge.recal then (s.setGauge { s.gauge with recal := false }).gaugeCalibrate 3 else s.gaugeCalStart)

/-- GAUGE_CAL_DONE (R324): 1.84 ms after its start a converter stores its factors, from the sums of its raw results; the next one that waits
begins. -/
def execGaugeCalDone (c : Fin 2) (shorted : Int) (refchk : Nat) (s : State) : Host.Outcome State Fault Refusal :=
  .next (if s.gaugeState c = gsCAL && s.due (tmGaugeCal c) 2 then
      let ofs := calOffset shorted
      let gain := (s.calGain ofs refchk).getD s.fresh.toNat
      let s := if c.val = 0 then s.setInt Reg.GAUGE_GA_CAL.GAIN gain |>.setInt Reg.GAUGE_GA_CAL.OFS ofs
        else s.setInt Reg.GAUGE_GB_CAL.GAIN gain |>.setInt Reg.GAUGE_GB_CAL.OFS ofs
      let s := s.drawn
      let s := (s.setGauge { s.gauge with calNow := s.gauge.calNow &&& (3 - 2 ^ c.val) }).stopTimer (tmGaugeCal c)
      let s := s.gaugeCalStart
      (s.flagIf (s.gauge.calNow == 0 && s.gauge.calNext == 0) Reg.GAUGE_EVT.CAL_DONE).gaugeCalCommand c
    else s)

end Sys2Proof.Machine
end

