-- ==== Sys2Proof/Machine/Crypto.lean ====
section
/-! DEFINITION. The cryptographic functions that the spec names: SHA-256 (R137), HMAC-SHA-256 (R430), ECDSA over P-256
(R137) and AES-256-GCM (R138). They are written from their public definitions; the spec names them without repeating
them (assumption log). -/

namespace Sys2Proof.Machine

/-- A big-endian number. -/
def beNat (bs : List Byte) : Nat := bs.foldl (fun a b => 256 * a + b.toNat) 0

/-- `n` bytes of a number, the highest first. -/
def beBytes (n v : Nat) : List Byte := (leBytes n v).reverse

/-! ### SHA-256 -/

/-- The greatest `r` below `2 ^ bits` with `r ^ n ≤ x`. -/
def rootDown (n x : Nat) : Nat → Nat → Nat
  | 0, r => r
  | bits + 1, r => rootDown n x bits (if (r + 2 ^ bits) ^ n ≤ x then r + 2 ^ bits else r)

/-- The first 64 primes: those below 312. -/
def first64Primes : List Nat := (List.range 312).filter fun p => 2 ≤ p && (List.range p).all fun d => d < 2 || p % d != 0

/-- The first 32 bits of the fraction of the `n`-th root of `p`. -/
def rootFraction (n p : Nat) : Word := BitVec.ofNat 32 (rootDown n (p * 2 ^ (32 * n)) 38 0)

/-- The round constants: of the cube roots of the first 64 primes. -/
def shaRounds : List Word := first64Primes.map (rootFraction 3)

/-- The initial hash: of the square roots of the first 8 primes. -/
def shaStart : List Word := (first64Primes.take 8).map (rootFraction 2)

/-- The message words of a block: the 16 of the block, newest first, extended by `n` more. -/
def sha256Extend : Nat → List Word → List Word
  | 0, ws => ws
  | n + 1, ws =>
    let a := ws.getD 14 0
    let b := ws.getD 1 0
    let s0 := a.rotateRight 7 ^^^ a.rotateRight 18 ^^^ (a >>> 3)
    let s1 := b.rotateRight 17 ^^^ b.rotateRight 19 ^^^ (b >>> 10)
    sha256Extend n ((ws.getD 15 0 + s0 + ws.getD 6 0 + s1) :: ws)

/-- One round on the working words a to h. -/
def sha256Round (v : List Word) (k w : Word) : List Word :=
  match v with
  | [a, b, c, d, e, f, g, h] =>
    let s1 := e.rotateRight 6 ^^^ e.rotateRight 11 ^^^ e.rotateRight 25
    let t1 := h + s1 + ((e &&& f) ^^^ (~~~e &&& g)) + k + w
    let s0 := a.rotateRight 2 ^^^ a.rotateRight 13 ^^^ a.rotateRight 22
    let t2 := s0 + ((a &&& b) ^^^ (a &&& c) ^^^ (b &&& c))
    [t1 + t2, a, b, c, d + t1, e, f, g]
  | _ => v

/-- A list cut into pieces of `n`; at most `fuel` of them. -/
def piecesOf {α : Type} (n : Nat) : Nat → List α → List (List α)
  | 0, _ => []
  | fuel + 1, l => if l.isEmpty then [] else l.take n :: piecesOf n fuel (l.drop n)

/-- One 64-byte block. -/
def sha256Block (h : List Word) (block : List Byte) : List Word :=
  let ws := (sha256Extend 48 ((piecesOf 4 16 block).map fun b => BitVec.ofNat 32 (beNat b)).reverse).reverse
  let v := (shaRounds.zip ws).foldl (fun v p => sha256Round v p.1 p.2) h
  List.zipWith (· + ·) h v

/-- The padding of a message of `n` bytes. -/
def sha256Pad (n : Nat) : List Byte := 0x80 :: (List.replicate ((119 - n % 64) % 64) 0 ++ beBytes 8 (8 * n))

/-- SHA-256. -/
def sha256 (m : List Byte) : List Byte :=
  let p := m ++ sha256Pad m.length
  let h := (piecesOf 64 (p.length / 64) p).foldl sha256Block shaStart
  (h.map fun w => beBytes 4 w.toNat).flatten

/-- HMAC-SHA-256 with a key of at most 64 bytes. -/
def hmacSha256 (key m : List Byte) : List Byte :=
  let k := key ++ List.replicate (64 - key.length) 0
  sha256 (k.map (· ^^^ 0x5c) ++ sha256 (k.map (· ^^^ 0x36) ++ m))

/-! ### ECDSA P-256 -/

def p256P : Nat := 0xffffffff00000001000000000000000000000000ffffffffffffffffffffffff
def p256N : Nat := 0xffffffff00000000ffffffffffffffffbce6faada7179e84f3b9cac2fc632551
def p256B : Nat := 0x5ac635d8aa3a93e7b3ebbd55769886bc651d06b0cc53b0f63bce3c3e27d2604b
def p256G : Nat × Nat :=
  (0x6b17d1f2e12c4247f8bce6e563a440f277037d812deb33a0f4a13945d898c296,
   0x4fe342e2fe1a7f9b8ee7eb4a7c0f9e162bce33576b315ececbb6406837bf51f5)

/-- b^e modulo m, over the low `n` bits of e. -/
def powMod (m : Nat) : Nat → Nat → Nat → Nat
  | 0, _, _ => 1
  | n + 1, b, e => (if e % 2 = 1 then b else 1) * powMod m n (b * b % m) (e / 2) % m

/-- The inverse modulo a prime. -/
def invMod (m a : Nat) : Nat := powMod m 256 (a % m) (m - 2)

/-- A point of the curve; none is the point at infinity. -/
abbrev EcPoint := Option (Nat × Nat)

/-- The sum of two points. -/
def ecAdd (a b : EcPoint) : EcPoint :=
  match a, b with
  | none, q => q
  | q, none => q
  | some (x1, y1), some (x2, y2) =>
    if x1 = x2 ∧ (y1 + y2) % p256P = 0 then none
    else
      let l := if x1 = x2 then (3 * x1 * x1 + p256P - 3) * invMod p256P (2 * y1) % p256P
        else (y2 + p256P - y1) * invMod p256P (x2 + p256P - x1) % p256P
      let x := (l * l + 2 * p256P - x1 - x2) % p256P
      some (x, (l * (x1 + p256P - x) + p256P - y1) % p256P)

/-- k times a point, over the low `n` bits of k. -/
def ecMul : Nat → Nat → EcPoint → EcPoint
  | 0, _, _ => none
  | n + 1, k, q => ecAdd (if k % 2 = 1 then q else none) (ecMul n (k / 2) (ecAdd q q))

/-- ECDSA P-256: the signature (r, s) of a hash under the public key (x, y). -/
def ecdsaVerify (x y r s : Nat) (hash : List Byte) : Bool :=
  let z := beNat hash
  let onCurve := decide (x < p256P ∧ y < p256P ∧ y * y % p256P = (x * x * x + (p256P - 3) * x + p256B) % p256P)
  if onCurve && decide (0 < r ∧ r < p256N ∧ 0 < s ∧ s < p256N) then
    let w := invMod p256N s
    match ecAdd (ecMul 256 (z * w % p256N) (some p256G)) (ecMul 256 (r * w % p256N) (some (x, y))) with
    | some (u, _) => u % p256N == r
    | none => false
  else false

/-! ### AES-256-GCM -/

/-- Multiplication by x in GF(2^8). -/
def gfDouble (a : Byte) : Byte := (a <<< 1) ^^^ (if a.getLsbD 7 then 0x1b else 0)

/-- Multiplication in GF(2^8), over the low `n` bits of b. -/
def gfMul : Nat → Byte → Nat → Byte
  | 0, _, _ => 0
  | n + 1, a, b => (if b % 2 = 1 then a else 0) ^^^ gfMul n (gfDouble a) (b / 2)

/-- The n-th power in GF(2^8). -/
def gfPow (a : Byte) : Nat → Byte
  | 0 => 1
  | n + 1 => gfMul 8 a (gfPow a n).toNat

/-- The S-box: the inverse, then the affine map. -/
def aesSub (b : Byte) : Byte :=
  let i := gfPow b 254
  i ^^^ i.rotateLeft 1 ^^^ i.rotateLeft 2 ^^^ i.rotateLeft 3 ^^^ i.rotateLeft 4 ^^^ 0x63

/-- Bytewise sum of two lists. -/
def xorBytes (a b : List Byte) : List Byte := List.zipWith (· ^^^ ·) a b

/-- The key schedule: 4-byte words, newest first, extended until `n` more are made; `i` is the next index. -/
def aesExpand : Nat → Nat → Byte → List (List Byte) → List (List Byte)
  | 0, _, _, ws => ws
  | n + 1, i, rc, ws =>
    let t := ws.getD 0 []
    let u := if i % 8 = 0 then xorBytes ((t.drop 1 ++ t.take 1).map aesSub) [rc, 0, 0, 0]
      else if i % 8 = 4 then t.map aesSub else t
    aesExpand n (i + 1) (if i % 8 = 0 then gfDouble rc else rc) (xorBytes (ws.getD 7 []) u :: ws)

/-- The 15 round keys of a 32-byte key. -/
def aesKeys (key : List Byte) : List (List Byte) :=
  (piecesOf 4 15 (aesExpand 52 8 1 (piecesOf 4 8 key).reverse).reverse).map List.flatten

/-- The rows shifted: byte r of column c comes from column c + r. -/
def aesShift (st : List Byte) : List Byte := (List.range 16).map fun i => st.getD ((i / 4 + i % 4) % 4 * 4 + i % 4) 0

/-- One column mixed. -/
def aesMixCol (c : List Byte) : List Byte :=
  (List.range 4).map fun i => gfDouble (c.getD i 0) ^^^ (gfDouble (c.getD ((i + 1) % 4) 0) ^^^ c.getD ((i + 1) % 4) 0) ^^^
    c.getD ((i + 2) % 4) 0 ^^^ c.getD ((i + 3) % 4) 0

/-- AES-256 of one block. -/
def aesBlock (keys : List (List Byte)) (block : List Byte) : List Byte :=
  let round (st k : List Byte) : List Byte := xorBytes (((piecesOf 4 4 (aesShift (st.map aesSub))).map aesMixCol).flatten) k
  let st := ((keys.drop 1).take 13).foldl round (xorBytes block (keys.getD 0 []))
  xorBytes (aesShift (st.map aesSub)) (keys.getD 14 [])

/-- Multiplication in GF(2^128) as GCM numbers its bits, over the `n` leading bits of x that remain. -/
def ghashMul : Nat → Nat → Nat → Nat
  | 0, _, _ => 0
  | n + 1, x, v =>
    (if x / 2 ^ n % 2 = 1 then v else 0) ^^^
      ghashMul n x ((v / 2) ^^^ (if v % 2 = 1 then 0xe1000000000000000000000000000000 else 0))

/-- A message padded with zeros to whole blocks. -/
def padBlock (m : List Byte) : List Byte := m ++ List.replicate ((16 - m.length % 16) % 16) 0

/-- GHASH under the hash key `h`. -/
def ghash (h : Nat) (m : List Byte) : Nat :=
  (piecesOf 16 (m.length / 16) m).foldl (fun y b => ghashMul 128 (y ^^^ beNat b) h) 0

/-- The key stream applied from counter `c` upward. -/
def gcmCrypt (keys : List (List Byte)) (iv : List Byte) (c : Nat) (m : List Byte) : List Byte :=
  let blocks := piecesOf 16 (m.length / 16 + 1) m
  ((blocks.zip (List.range blocks.length)).map fun p => xorBytes p.1 (aesBlock keys (iv ++ beBytes 4 (c + p.2)))).flatten

/-- AES-256-GCM decryption with a 12-byte IV: the plaintext, or none when the tag fails. -/
def gcmDecrypt (key iv aad cipher tag : List Byte) : Option (List Byte) :=
  let keys := aesKeys key
  let h := beNat (aesBlock keys (List.replicate 16 0))
  let g := ghash h (padBlock aad ++ padBlock cipher ++ beBytes 8 (8 * aad.length) ++ beBytes 8 (8 * cipher.length))
  if xorBytes (beBytes 16 g) (aesBlock keys (iv ++ beBytes 4 1)) = tag then some (gcmCrypt keys iv 2 cipher) else none

end Sys2Proof.Machine
end

