-- ==== Sys2Proof/Machine/Flash.lean ====
section
/-! DEFINITION. The boot flash (R144, R354) and the ledger in it (21_faults_ageing_recovery.md, R395 to R399). The flash is
NOR: a program clears bits, an erase sets whole sectors to ones. -/

namespace Sys2Proof.Machine

def erased (_ : Nat) : Byte := 0xFF

/-- Flash bytes. -/
def State.flashByte (s : State) (a : Nat) : Byte := tabGet erased s.flash a
def State.flashRange (s : State) (a n : Nat) : List Byte := tabRange erased s.flash a n

/-- `n` bytes from `a` are erased. -/
def State.flashErase (s : State) (a n : Nat) : State := { s with flash := s.flash.filter fun e => !(decide (a ≤ e.1) && decide (e.1 < a + n)) }

/-- Bytes programmed from `a`: a program only clears bits. -/
def flashProgramTab : Tab Byte → Nat → List Byte → Tab Byte
  | m, _, [] => m
  | m, a, b :: bs => flashProgramTab (tabPut erased m a (tabGet erased m a &&& b)) (a + 1) bs
def State.flashProgram (s : State) (a : Nat) (bs : List Byte) : State := { s with flash := flashProgramTab s.flash a bs }

/-! ### Sectors and records (R395, R396) -/

abbrev ledgerBase : Nat := 0x2010000
def sectorAddr (i : Nat) : Nat := ledgerBase + 4096 * i

/-- Bytes followed by their CRC-32. -/
def withCrc (bs : List Byte) : List Byte := bs ++ leBytes 4 (crc32 bs)

/-- The last four bytes are the CRC-32 of those before. -/
def crcGood (bs : List Byte) : Bool := crc32 (bs.take (bs.length - 4)) == leAt bs (bs.length - 4) 4

/-- A sector header (R395). -/
def sectorHeader (sseq erases : Nat) : List Byte :=
  withCrc ([0x55, 0x4C, 0x51, 0x4C] ++ leBytes 4 sseq ++ leBytes 4 erases ++ List.replicate 16 0)

/-- SSEQ and ERASES of sector `i`; none without a valid header. -/
def State.sectorHdr (s : State) (i : Nat) : Option (Nat × Nat) :=
  let h := s.flashRange (sectorAddr i) 32
  if h.take 4 = [0x55, 0x4C, 0x51, 0x4C] && crcGood h then some (leAt h 4 4, leAt h 8 4) else none

/-- The newest sector: the highest SSEQ. -/
def State.newestSector (s : State) : Option (Nat × Nat) :=
  (List.range 64).foldl (fun best i => match s.sectorHdr i, best with
    | some (q, _), some (j, q') => if q' < q then some (i, q) else some (j, q')
    | some (q, _), none => some (i, q)
    | none, b => b) none

/-- Record place `k` of sector `i`. -/
def placeAddr (i k : Nat) : Nat := sectorAddr i + 32 + 32 * k
def State.place (s : State) (i k : Nat) : List Byte := s.flashRange (placeAddr i k) 32
def placeErased (bs : List Byte) : Bool := bs.all (· == 0xFF)

/-- The readable records of sector `i`, in their places' order. -/
def State.sectorRecs (s : State) (i : Nat) : List (List Byte) :=
  ((List.range 127).map (s.place i)).filter fun r => !placeErased r && crcGood r

/-- Fields of a record. -/
def recType (r : List Byte) : Nat := byteAt r 0
def recIndex (r : List Byte) : Nat := leAt r 4 4
def recMinutes (r : List Byte) : Nat := leAt r 0x10 4
def recData (r : List Byte) : List Byte := (r.drop 0x14).take 8

/-- A record placed by its number; of two with one number one is taken (R398). -/
def insertRec (r : List Byte) : List (List Byte) → List (List Byte)
  | [] => [r]
  | x :: xs => if recIndex r < recIndex x then r :: x :: xs else if recIndex r = recIndex x then x :: xs else x :: insertRec r xs

/-- Every readable record, oldest first. -/
def State.ledger (s : State) : List (List Byte) :=
  (List.range 64).foldl (fun l i => match s.sectorHdr i with
    | some _ => (s.sectorRecs i).foldl (fun l r => insertRec r l) l
    | none => l) []

/-- Record types of R397. -/
abbrev rtERROR : Nat := 0x01
abbrev rtMARGIN : Nat := 0x02
abbrev rtSPARE : Nat := 0x03
abbrev rtRETIRE : Nat := 0x04
abbrev rtHOURS : Nat := 0x05
abbrev rtOWNER : Nat := 0x06
abbrev rtPOLICY : Nat := 0x07
abbrev rtLOCK : Nat := 0x08
abbrev rtSEAL : Nat := 0x09
abbrev rtBOOT : Nat := 0x0A
abbrev rtPLAN : Nat := 0x0B
abbrev rtFCBASE : Nat := 0x0C

/-- The latest record of a type. -/
def latestRec (l : List (List Byte)) (ty : Nat) : Option (List Byte) := (l.filter fun r => recType r == ty).getLast?

/-- The record supersedes nothing newer of its kind: a later record of the type, and for POLICY and PLAN of the address,
does not exist. -/
def isLatest (l : List (List Byte)) (r : List Byte) : Bool :=
  l.all fun q => !(recType q == recType r && decide (recIndex r < recIndex q) &&
    (!(recType r == rtPOLICY || recType r == rtPLAN) || leAt (recData q) 0 4 == leAt (recData r) 0 4))

/-- The record is carried when its sector is erased (R397). -/
def isCarried (l : List (List Byte)) (r : List Byte) : Bool :=
  match recType r with
  | 0x02 | 0x03 | 0x04 | 0x0C => true
  | 0x05 | 0x06 | 0x07 | 0x08 | 0x0B => isLatest l r
  | _ => false

/-- The carried records that sector `i` holds. -/
def State.carriedIn (s : State) (i : Nat) : List (List Byte) :=
  match s.sectorHdr i with
  | some _ => (s.sectorRecs i).filter (isCarried s.ledger)
  | none => []

/-- Erased places of sector `i`. -/
def State.erasedPlaces (s : State) (i : Nat) : List Nat := (List.range 127).filter fun k => placeErased (s.place i k)

/-- Sector `i` is erased and given a header. -/
def State.newSector (s : State) (i sseq : Nat) : State :=
  let n := match s.sectorHdr i with
    | some (_, e) => e
    | none => 0
  (s.flashErase (sectorAddr i) 4096).flashProgram (sectorAddr i) (sectorHeader sseq (n + 1))

/-- Records copied into erased places. -/
def State.copyRecs (s : State) (i : Nat) (ks : List Nat) (rs : List (List Byte)) : State :=
  (ks.zip rs).foldl (fun (s : State) p => s.flashProgram (placeAddr i p.1) p.2) s

/-- Writing stops until the next reset (R398). -/
def State.ledgerStop (s : State) : State :=
  ({ s with stew := { s.stew with stopped := true } }).flag Reg.STEW_EVT.LEDGER_ERR |>.set Reg.STEW_LEDGER_STAT.OK 0

/-- Where the next record goes: sector and place, after the rotation that R398 asks for; none when there is no room. A
ledger without a valid sector begins at sector 0. -/
def State.ledgerPlace (s : State) : Option (Nat × Nat) × State :=
  match s.newestSector with
  | none => (some (0, 0), s.newSector 0 1)
  | some (i, q) =>
    let free := s.erasedPlaces i
    let next := (i + 1) % 64
    let c := s.carriedIn next
    if c.length < free.length then (free.head?.map fun k => (i, k), s)
    else if free.length < c.length then (none, s)
    else
      let s := (s.copyRecs i free c).newSector next (q + 1)
      if 127 ≤ (s.carriedIn ((next + 1) % 64)).length then (none, s) else (some (next, 0), s)

/-- The bytes of a record with number `index` (R396). -/
def LedgerRec.bytes (r : LedgerRec) (index : Nat) : List Byte :=
  withCrc (leBytes 1 r.ty ++ leBytes 1 r.cls ++ leBytes 1 r.unit ++ leBytes 1 r.outcome ++ leBytes 4 index ++ leBytes 6 r.tick.toNat ++
    leBytes 2 r.rep ++ leBytes 4 r.minutes ++ (r.data ++ List.replicate 8 0).take 8)

/-- The number of the next record. -/
def State.nextIndex (s : State) : Nat :=
  match s.ledger.getLast? with
  | some r => recIndex r + 1
  | none => 0

/-- The ledger registers (STEW_LEDGER_NEW, OLD, STAT). -/
def State.showLedger (s : State) : State :=
  let l := s.ledger
  let s := s.set Reg.STEW_LEDGER_NEW.INDEX ((l.getLast?.map recIndex).getD 0) |>.set Reg.STEW_LEDGER_OLD.INDEX ((l.head?.map recIndex).getD 0)
  s.set Reg.STEW_LEDGER_STAT.ERASES ((List.range 64).foldl (fun m i => match s.sectorHdr i with
    | some (_, e) => max m e
    | none => m) 0)

/-- One record is programmed (R398); `ok` is false when the program fails, which spoils its place. -/
def State.ledgerWrite (s : State) (ok : Bool) : State :=
  match s.stew.records with
  | [] => s
  | r :: rest =>
    if s.stew.stopped then s
    else match s.ledgerPlace with
    | (none, s) => s.ledgerStop
    | (some (i, k), s) =>
      if ok then
        let s := s.flashProgram (placeAddr i k) (r.bytes s.nextIndex)
        ({ s with stew := { s.stew with records := rest, fails := 0 } }).set Reg.STEW_LEDGER_STAT.OK 1 |>.showLedger
      else
        let s := (s.flashProgram (placeAddr i k) (List.replicate 32 0)).count Reg.STEW_LEDGER_STAT.FAILS 1
        let s := { s with stew := { s.stew with fails := s.stew.fails + 1 } }
        if 3 ≤ s.stew.fails then s.ledgerStop else s

/-- LEDGER_WRITE (R398): the oldest waiting record. -/
def execLedgerWrite (ok : Bool) (s : State) : Host.Outcome State Fault Refusal := .next (if s.domOn .sys then s.ledgerWrite ok else s)

end Sys2Proof.Machine
end

