-- ==== Sys2Proof/Machine/Security.lean ====
section
/-! DEFINITION. Field lock, unlocking, physical presence, the SEAL loop and eFuse programming (23_security_and_presence.md,
R426 to R439). -/

namespace Sys2Proof.Machine

/-- Waits: the life of a nonce, the lockout, the presence window, and the ball held low since a press. -/
abbrev tmNonce : Nat := 0x800
abbrev tmLockout : Nat := 0x801
abbrev tmWindow : Nat := 0x802
abbrev tmPresLow : Nat := 0x803

def State.setSec (s : State) (x : SecSt) : State := { s with sec := x }

/-! ### Presence (R433, R434) -/

/-- The presence window is open. -/
def State.windowOpen (s : State) : Bool := s.timerOn tmWindow && decide (s.elapsed tmWindow < 1000 * s.sec.window)

/-- PRESENCE_N is held low since a press. -/
def State.presLow (s : State) : Bool := s.timerOn tmPresLow

/-- Presence is valid. -/
def State.presValid (s : State) : Bool :=
  if s.bit Reg.SEC_STAT.JUMPER || (s.presLow && decide (600000 ≤ s.elapsed tmPresLow)) then s.bit Reg.STEW_POL_SEC.PRES_JUMPER_OK
  else s.windowOpen || s.presLow

/-- Seconds left in the window. -/
def State.presLeft (s : State) : Nat := if s.windowOpen then (1000 * s.sec.window - s.elapsed tmWindow + 999) / 1000 else 0

/-- SEC_STAT shows presence. -/
def State.showPres (s : State) : State := s.set Reg.SEC_STAT.PRES (b2n s.presValid) |>.set Reg.SEC_STAT.PRES_LEFT s.presLeft

/-- A press (R433): the window opens or starts again. -/
def State.presPress (s : State) : State :=
  if s.pwr.inReset then s else (((s.setSec { s.sec with window := s.get Reg.STEW_POL_SEC.PRES_WIN }).startTimer tmWindow).startTimer tmPresLow).flag Reg.SEC_EVT.PRESS |>.showPres

/-- The ball rises (R433, R434). -/
def State.presRelease (s : State) : State := ((s.stopTimer tmPresLow).set Reg.SEC_STAT.JUMPER 0).showPres

/-- The window expires (R433). -/
def State.presWindowEnd (s : State) : State := if s.due tmWindow (1000 * s.sec.window) then (s.stopTimer tmWindow).showPres else s

/-- The ball was held low for 10 min (R434). -/
def State.jumper (s : State) : State :=
  if s.due tmPresLow 600000 && !s.bit Reg.SEC_STAT.JUMPER then ((s.set Reg.SEC_STAT.JUMPER 1).flag Reg.SEC_EVT.JUMPER).showPres else s

/-! ### The field lock and unlock sessions (R428 to R432) -/

/-- The lock fuse or the latest LOCK record locks the device, but for a session. -/
def State.lockState (s : State) : Bool := s.bit Reg.SEC_STAT.LOCK_FUSE || s.sec.lockRec

/-- SEC_STAT.LOCKED (R428). -/
def State.showLock (s : State) : State := s.set Reg.SEC_STAT.LOCKED (b2n (s.lockState && !s.bit Reg.SEC_STAT.SESSION))

/-- Instructions of the JTAG TAP: those of IEEE 1149.1, and every other one, the steward console among them (R428). -/
inductive TapInstr where
  | bypass
  | samplePreload
  | extest
  | idcode
  | other
deriving DecidableEq, Repr

/-- What an instruction of the TAP acts as (R428). -/
def State.tapActs (s : State) (i : TapInstr) : TapInstr := if s.bit Reg.SEC_STAT.LOCKED && i = .other then .bypass else i

/-- What IDCODE reads on B0 silicon (R428). -/
def tapIdcode : Word := 0x148965A3

/-- An unlock session ends (R432). -/
def State.endSession (s : State) : State := (s.set Reg.SEC_STAT.SESSION 0).showLock

/-- A LOCK record is written with the given state. -/
def State.writeLock (s : State) (locked : Bool) : State := ((s.setSec { s.sec with lockRec := locked }).note rtLOCK [BitVec.ofNat 8 (b2n locked)]).showLock

/-- The nonce is lost (R429). -/
def State.dropNonce (s : State) : State := (s.setSec { s.sec with nonce := none }).stopTimer tmNonce

/-- The nonce that is valid now. -/
def State.nonceNow (s : State) : Option (List Byte) := if s.timerOn tmNonce && decide (s.elapsed tmNonce < 120000) then s.sec.nonce else none

/-- The lockout of R431 runs. -/
def State.lockout (s : State) : Bool := s.timerOn tmLockout && decide (s.elapsed tmLockout < 900000)

/-- The SEAL rule of R436 blocks unlocking. -/
def State.sealBlocks (s : State) : Bool := s.bit Reg.SEC_STAT.SEAL_BROKEN && s.bit Reg.STEW_POL_SEC.SEAL_BLOCK

/-- A fresh nonce of 16 free bytes replaces the last one (R429). -/
def State.drawNonce (s : State) : List Byte × State :=
  let n := wordsBytes ((List.range 4).map fun i => Config.free (s.free + i))
  (n, ({ s with free := s.free + 4 }.setSec { s.sec with nonce := some n }).startTimer tmNonce)

/-- DEV_UID as a byte string, from the most significant byte of DEV_UID3 (R4). -/
def uidBytes : List Byte := ([3, 2, 1, 0].map fun i => beBytes 4 (Config.uidWord i).toNat).flatten

/-- The MAC that R430 asks for. -/
def State.wantedMac (s : State) (nonce : List Byte) : List Byte := (hmacSha256 s.sec.ukey (nonce ++ uidBytes)).take 16

/-- An unlock response with presence valid (R430, R431): whether it was accepted. Every response consumes the nonce. -/
def State.unlockResponse (s : State) (mac : List Byte) : Bool × State :=
  let good := match s.nonceNow with
    | some n => s.bit Reg.SEC_STAT.UKEY && mac == s.wantedMac n
    | none => false
  let s := s.dropNonce
  if good then (true, ((s.set Reg.SEC_STAT.FAILS 0).set Reg.SEC_STAT.SESSION 1 |>.flag Reg.SEC_EVT.UNLOCK).showLock)
  else
    let n := if s.get Reg.SEC_STAT.FAILS = 5 then (if s.lockout then 5 else 1) else s.get Reg.SEC_STAT.FAILS + 1
    let s' := (s.set Reg.SEC_STAT.FAILS n).flag Reg.SEC_EVT.AUTH_FAIL
    (false, if n = 5 && !s.lockout then s'.startTimer tmLockout else s')

/-- NONCE_EXPIRY (R429). -/
def State.nonceExpiry (s : State) : State := if s.due tmNonce 120000 then s.dropNonce else s

/-- LOCKOUT_END (R431). -/
def State.lockoutEnd (s : State) : State := if s.due tmLockout 900000 then (s.stopTimer tmLockout).set Reg.SEC_STAT.FAILS 0 else s

/-! ### The SEAL loop (R436) -/

/-- The level of SEAL has been held for 10 ms: a high level is a break, a low one shows the loop closed. -/
def State.sealLevel (s : State) (high : Bool) : State :=
  if s.pwr.inReset then s.set Reg.SEC_STAT.SEAL_OPEN (b2n high)
  else
  let s := s.set Reg.SEC_STAT.SEAL_OPEN (b2n high)
  if high then
    let s := ((s.set Reg.SEC_STAT.SEAL_BROKEN 1).flag Reg.SEC_EVT.SEAL).note rtSEAL []
    if s.bit Reg.STEW_POL_SEC.SEAL_BLOCK then s.endSession else s
  else s

/-- A write of SEC_CTL.SEAL_CLR. -/
def State.sealClear (s : State) : State :=
  if s.presValid && !s.bit Reg.SEC_STAT.SEAL_OPEN && !s.fieldLocked then
    (s.set Reg.SEC_STAT.SEAL_BROKEN 0).note rtLOCK [BitVec.ofNat 8 (b2n s.lockState)]
  else s.flag Reg.SEC_EVT.DENIED

/-- A write of SEC_CTL. -/
def State.secCtl (s : State) (v : Word) : State :=
  let s := if v.getLsbD 31 then s.endSession else s
  if v.getLsbD 30 then s.sealClear else s

/-! ### eFuse programming (R437) -/

/-- SEC_FPROG.RESULT codes. -/
abbrev fpOK : Nat := 1
abbrev fpLOCKED : Nat := 2
abbrev fpPRESENCE : Nat := 3
abbrev fpUSED : Nat := 4
abbrev fpREADBACK : Nat := 5

/-- The 32 data bytes. -/
def State.fdata (s : State) : List Byte := wordsBytes ((List.range 8).map fun i => s.word (Reg.SEC_FDATA.word i).addr)

/-- SEC_FDATA0 to SEC_FDATA7 are cleared. -/
def State.clearFdata (s : State) : State := (List.range 8).foldl (fun (s : State) i => s.setWord (Reg.SEC_FDATA.word i).addr 0) s

def State.slotSet (s : State) (n : Nat) : Bool := s.bitAt Reg.SEC_STAT.SLOT_SET n
def State.slotRevoked (s : State) (n : Nat) : Bool := s.bitAt Reg.SEC_STAT.SLOT_REVOKED n

/-- The target is programmed already, names an empty slot, or would leave no unrevoked slot. -/
def State.targetUsed (s : State) (t : Nat) : Bool :=
  if t < 4 then s.slotSet t
  else if t < 8 then
    !s.slotSet (t - 4) || s.slotRevoked (t - 4) || !(List.range 4).any fun n => n != t - 4 && s.slotSet n && !s.slotRevoked n
  else if t = 8 then s.bit Reg.SEC_STAT.IKEY
  else if t = 9 then s.bit Reg.SEC_STAT.UKEY
  else s.bit Reg.SEC_STAT.LOCK_FUSE

/-- The RESULT of a refusal; 0 when the program starts. -/
def State.fprogRefusal (s : State) (t : Nat) : Nat :=
  if s.fieldLocked then fpLOCKED
  else if !s.presValid then fpPRESENCE
  else if s.targetUsed t then fpUSED
  else if t = 10 && s.bit Reg.SEC_STAT.SEAL_OPEN then fpPRESENCE
  else 0

/-- A write of SEC_FPROG. -/
def State.fprogWrite (s : State) (v : Word) : State :=
  let t := v.toNat % 16
  if v.toNat / 65536 % 256 != 0xA5 || !v.getLsbD 31 || 11 ≤ t || s.bit Reg.SEC_FPROG.BUSY then s
  else
    let c := s.fprogRefusal t
    if c = 0 then (s.setSec { s.sec with target := some t }).set Reg.SEC_FPROG.BUSY 1
    else
      let s := (s.set Reg.SEC_FPROG.RESULT c).flag Reg.SEC_EVT.FPROG_ERR
      if c = fpLOCKED then s.flag Reg.SEC_EVT.DENIED else s

/-- The hash of a key slot. -/
def State.setHash (s : State) (n : Nat) (d : List Byte) : State :=
  let s := (List.range 8).foldl (fun (s : State) i => s.setNat (Reg.SEC_KEY_H.word n i) (leAt d (4 * i) 4)) s
  s.setBitAt Reg.SEC_STAT.SLOT_SET n (d.any (· != 0))

/-- 32 free bytes: what a program that failed its read-back left. -/
def State.spoiled (s : State) : List Byte × State :=
  (wordsBytes ((List.range 8).map fun i => Config.free (s.free + i)), { s with free := s.free + 8 })

/-- The target holds the data. -/
def State.blow (s : State) (t : Nat) (d : List Byte) : State :=
  if t < 4 then s.setHash t d
  else if t < 8 then s.setBitAt Reg.SEC_STAT.SLOT_REVOKED (t - 4) true
  else if t = 8 then (s.setSec { s.sec with ikey := d }).set Reg.SEC_STAT.IKEY 1
  else if t = 9 then (s.setSec { s.sec with ukey := d }).set Reg.SEC_STAT.UKEY 1
  else ((s.set Reg.SEC_STAT.LOCK_FUSE 1).set Reg.SEC_STAT.SESSION 0).writeLock true

/-- FPROG_DONE (R437): `ok` says whether the read-back matched. A single bit that reads back wrong was not blown; a failed
key or hash holds free bytes. -/
def State.fprogDone (s : State) (ok : Bool) : State :=
  match s.sec.target with
  | none => s
  | some t =>
    let s := if ok then s.blow t s.fdata
      else if t < 4 ∨ t = 8 ∨ t = 9 then s.spoiled.2.blow t s.spoiled.1
      else s
    let s := ((s.setSec { s.sec with target := none }).set Reg.SEC_FPROG.BUSY 0).set Reg.SEC_FPROG.RESULT (if ok then fpOK else fpREADBACK)
    (if ok then s.flag Reg.SEC_EVT.FPROG_DONE else s.flag Reg.SEC_EVT.FPROG_ERR).clearFdata

/-! ### Commands -/

/-- PRESENCE_WINDOW_END (R433). -/
def execPresenceWindowEnd (s : State) : Host.Outcome State Fault Refusal := .next s.presWindowEnd

/-- JUMPER (R434). -/
def execJumper (s : State) : Host.Outcome State Fault Refusal := .next s.jumper

/-- PRESENCE_RELEASE (R433). -/
def execPresenceRelease (s : State) : Host.Outcome State Fault Refusal := .next s.presRelease

/-- SEAL_BREAK (R436): SEAL held high for 10 ms, or closed again. -/
def execSealBreak (high : Bool) (s : State) : Host.Outcome State Fault Refusal := .next (s.sealLevel high)

/-- SEAL_CLR (R436). -/
def execSealClr (s : State) : Host.Outcome State Fault Refusal := .next (s.byRow ((s.secCtl 0x40000000).onBus 0 .done))

/-- RELOCK (R432). -/
def execRelock (s : State) : Host.Outcome State Fault Refusal := .next (s.byRow ((s.secCtl 0x80000000).onBus 0 .done))

/-- NONCE_EXPIRY (R429). -/
def execNonceExpiry (s : State) : Host.Outcome State Fault Refusal := .next s.nonceExpiry

/-- LOCKOUT_END (R431). -/
def execLockoutEnd (s : State) : Host.Outcome State Fault Refusal := .next s.lockoutEnd

/-- SEC_FPROG_GO (R437): a write of SEC_FPROG. -/
def execSecFprogGo (v : Word) (s : State) : Host.Outcome State Fault Refusal := .next (s.byRow ((s.fprogWrite v).onBus 0 .done))

/-- FPROG_DONE (R437). -/
def execFprogDone (ok : Bool) (s : State) : Host.Outcome State Fault Refusal := .next (s.fprogDone ok)

end Sys2Proof.Machine
end

