-- ==== Sys2Proof/Machine/Weir.lean ====
section
/-! DEFINITION. The weir (R23 to R26) with the commit in its cycles 8 to 39 (R33 to R38, R43, R95, R407), the rill
exchange (R93), the capture of checkpoints (R100), the meters (R124) and the choice of coefficient pages (R159). -/

namespace Sys2Proof.Machine

/-! ### Cycles 0 to 7: freezing -/

/-- The last write of each address, by cycle and then by jet (R87). -/
def settleWrites (ws : List PoolWrite) : Tab (Option PoolWrite) :=
  ws.foldr (fun w m => tabPut (fun _ => none) m w.addr (some (match tabGet (fun _ => none) m w.addr with
    | some b => laterWrite b w
    | none => w))) []

/-- A meter window that ends with tick `n` is full, and the next starts from zero (R124). -/
def MeterWin.close (m : MeterWin) (n : Nat) : MeterWin :=
  if m.w != 0 && (n + 1) % 2 ^ (m.w + 7) = 0 then { m with full := some (m.peak, m.clip), peak := 0, clip := false } else m

/-- Basin `b` at weir cycle 0 (R23, R87, R88): its pool and its outbound ports hold the last writes of the tick. -/
def State.freezeBasin (s : State) (b : Nat) : State :=
  let limit := usableSlots s.rate + 127
  let s := (List.range 4).foldl (fun (s : State) j => s.serveUntil b j limit ((s.basin b).jet j).queue.length) s
  let x := s.basin b
  let ws := (settleWrites x.writes).filterMap (·.2)
  let pool := (ws.filter fun w => w.addr < 65536).foldl (fun m w => tabPut (fun _ => 0) m w.addr w.value) x.pool
  let outp := (ws.filter fun w => 65536 ≤ w.addr).foldl (fun m w => tabPut (fun _ => 0) m (w.addr - 65536) w.value) x.outp
  let meters := (List.range 32).foldl (fun m i =>
    tabPut (fun _ => {}) m i ((tabGet (fun _ => ({} : MeterWin)) m i).close s.tick.count.toNat)) x.meters
  let s := s.setBasin b { x with pool := pool, outp := outp, meters := meters, writes := [], jets := [] }
  ws.foldl (fun (s : State) w => if w.addr < 65536 then s.clearPage b w.addr else s) s

/-- The meter windows of a basin that does not run end at their ticks too (R124). -/
def State.closeMeters (s : State) (b : Nat) : State :=
  let x := s.basin b
  s.setBasin b { x with meters := (List.range 32).foldl (fun m i =>
    tabPut (fun _ => {}) m i ((tabGet (fun _ => ({} : MeterWin)) m i).close s.tick.count.toNat)) x.meters }

/-- The basins whose jets run in the present tick. -/
def State.runningBasins (s : State) : List Nat := if s.works .fab then (List.range 10).filter s.basinRuns else []

/-- The jets of basin `b` finish their slot words; one that is still executing at weir cycle 0 faults the basin (R26). -/
def State.finishBasin (s : State) (b : Nat) : State :=
  let s := s.runBasin b (4 * usableSlots s.rate)
  if (List.range 4).all fun j => ((s.basin b).jet j).ended then s else s.basinFault b bcOVERRUN

/-- What the last tick's weir left to its own commands, taken here where no command took it: checkpoint drains, meters and
the ends of fades. -/
def State.weirLeft (s : State) : State :=
  let s := (List.range 10).foldl (fun (s : State) b => s.ckptDrained b) s
  let s := (List.range 10).foldl (fun (s : State) b => (List.range 32).foldl (fun (s : State) m => s.meterCopy b m) s) s
  (List.range 4).foldl (fun (s : State) h => s.fadeEnd h) s

/-! ### Cycle 0: is the commit refused? (R38, R43, R95) -/

/-- This tick is a commit tick (R35, R39). -/
def State.commitDue (s : State) : Bool := s.tick.goNow || s.tick.target == some s.tick.count

/-- A reserved value stands in a field whose table names FAMILY, or a rate of the other family is staged. -/
def State.commitFamily (s : State) : Bool :=
  let r := s.view Reg.DEV_TICK_CTL.RATE
  decide (6 ≤ r) || rateFamily r != rateFamily s.rate ||
    [Reg.CLK_PLLA_SRC.ENTRY0, Reg.CLK_PLLA_SRC.ENTRY1, Reg.CLK_PLLA_SRC.ENTRY2, Reg.CLK_PLLA_SRC.ENTRY3].any fun f => 6 ≤ s.view f

/-- Basin `b` runs, is held, waits in a hand-over (R164), or would be mapped by the commit; a parked one does not run. -/
def State.basinCounts (s : State) (b : Nat) : Bool :=
  s.basinState b == bsHELD || s.basinRuns b ||
    (s.basinState b == bsREADY && ((List.range 4).any (fun h => s.hoState h == hoPENDING && s.get (Reg.FAB_HO_CTL.NEW h) == b) ||
      (List.range 10).any fun L => s.view (Reg.FAB_MAP.EN L) == 1 && s.view (Reg.FAB_MAP.PHYS L) == b))

/-- The staged rate fails fit (R43, R95). -/
def State.commitMisfit (s : State) : Bool :=
  let r := s.view Reg.DEV_TICK_CTL.RATE
  r != s.rate &&
    ((List.range 10).any (fun b => s.basinCounts b && s.basinLoaded b && !(s.basin b).asImage.fits r) ||
      (decide (4 ≤ r) && (List.range 48).any fun k => s.view (Reg.RX_ROUTE.EN (48 + k)) == 1))

/-! ### Cycles 8 to 39: applying the staged values -/

/-- One staged entry takes effect, or is kept for a domain that is off (R33, R37). -/
def State.applyEntry (s : State) (a : Nat) (e : Staged) : State :=
  match regRow a with
  | none => s
  | some r =>
    if s.works r.dom then s.setWord a (overlay (s.word a) e.mask e.value)
    else
      let k := tabGet (fun _ => ({} : Staged)) s.tick.stored a
      s.setTick { s.tick with stored := tabPut (fun _ => {}) s.tick.stored a { k with mask := k.mask ||| e.mask, value := overlay k.value e.mask e.value } }

/-- A value that the stewards staged takes effect (R403). -/
def State.planEntry (s : State) (a : Nat) (e : Staged) : State :=
  if e.stew &&& e.mask = 0 then s
  else (s.note rtPLAN (leBytes 4 a ++ leBytes 4 (s.word a).toNat)).flag Reg.STEW_EVT.PLAN

/-- Bounds of the policy fields (R407, R433). -/
def policyBounds : List (Fld × Nat × Nat) :=
  [(Reg.STEW_POL_GEN.BASIN_STRIKES, 1, 7), (Reg.STEW_POL_THERM.TCRIT, 100, 122), (Reg.STEW_POL_THERM.THOT, 70, 120),
   (Reg.STEW_POL_THERM.TWARN, 60, 115), (Reg.STEW_POL_MARGIN.SLACK_MIN, 30, 120), (Reg.STEW_POL_MARGIN.DT_GUARD, 0, 40),
   (Reg.STEW_POL_MARGIN.LIM_FLOOR, 50, 100), (Reg.STEW_POL_MARGIN.GCAL_D, 1, 30), (Reg.STEW_POL_SEC.PRES_WIN, 10, 300)]

/-- A value outside its bounds acts as the nearer limit; a broken thermal order keeps the values `therm` (R407). -/
def State.clampPolicies (s : State) (therm : Word) : State :=
  let s := policyBounds.foldl (fun (s : State) b =>
    let v := s.get b.1
    if v < b.2.1 ∨ b.2.2 < v then s.set b.1 (clampNat b.2.1 b.2.2 v) else s) s
  if s.get Reg.STEW_POL_THERM.TWARN < s.get Reg.STEW_POL_THERM.THOT ∧ s.get Reg.STEW_POL_THERM.THOT < s.get Reg.STEW_POL_THERM.TCRIT then s
  else s.setWord Reg.STEW_POL_THERM.word.addr therm

/-- The map word of handle `L` changes to `v` (R81, R152, R157). A basin retired since its staging is not mapped. -/
def State.applyMap (s : State) (L : Nat) (v : Word) : State :=
  let b := v.toNat % 16
  let en := v.getLsbD 31
  if en && s.basinState b = bsRETIRED then s.flag Reg.FAB_EVT.MAP_ERR
  else
    let old := s.mapped L
    let s' := s.setWord (Reg.FAB_MAP.word L).addr v
    match s.pendingChan L with
    | some h =>
      if en && s.get (Reg.FAB_HO_CTL.NEW h) = b then s'.handOverSwitch h
      else
        let s' := (s.handOverCancel h false).setWord (Reg.FAB_MAP.word L).addr v
        if en && old != some b then s'.mapBasin L b else s'
    | none => if en && old != some b then s'.mapBasin L b else s'

/-- The basin that handle `L` leaves when its map word becomes `v`: none where it stays on its basin, where the entry is not
applied (R103), or where the switch of its hand-over takes care of the old basin. -/
def State.mapLeaves (s : State) (L : Nat) (v : Word) : Option Nat :=
  let p := v.toNat % 16
  match s.mapped L with
  | none => none
  | some b =>
    let switch := match s.pendingChan L with
      | some h => s.get (Reg.FAB_HO_CTL.NEW h) == p
      | none => false
    if v.getLsbD 31 && (p == b || s.basinState p == bsRETIRED || switch) then none else some b

/-- Every staged map entry: basins that lose their handle first, then the new mappings. -/
def State.applyMaps (s : State) (entries : Tab Staged) : State :=
  let ms := (List.range 10).filterMap fun L =>
    let e := tabGet (fun _ => ({} : Staged)) entries (Reg.FAB_MAP.word L).addr
    if e.mask = 0 then none else some (L, overlay (s.word (Reg.FAB_MAP.word L).addr) e.mask e.value)
  let s := ms.foldl (fun (s : State) (p : Nat × Word) =>
    match s.mapLeaves p.1 p.2 with
    | some b => s.unmapBasin b
    | none => s) s
  ms.foldl (fun (s : State) (p : Nat × Word) => s.applyMap p.1 p.2) s

/-- HOLD of a basin that a handle maps (R160). The old basin that faulted before its hand-over stays held (R165), and one that has
left its handle is not touched. -/
def State.holdFollow (s : State) (b : Nat) : State :=
  let kept := (List.range 4).any fun h => s.hoState h == hoPENDING && s.get (Reg.FAB_HO_CTL.OLD h) == b && (s.chan h).oldFault
  if (s.handleOf b).isNone then s
  else if s.basinState b = bsRUNNING && s.bit (Reg.FAB_B_CTL.HOLD b) then s.setBasinState b bsHELD
  else if s.basinState b = bsHELD && !s.bit (Reg.FAB_B_CTL.HOLD b) && !kept then s.setBasinState b bsRUNNING
  else s

/-- Every block takes hold of the configuration in effect. -/
def State.followAll (s : State) : State :=
  let s := if s.works .fab then (List.range 10).foldl (fun (s : State) b => s.holdFollow b) s else s
  ((s.aoRetargetAll.hpFollowAll.ainFollowAll.asrcFollowAll.lsnFollowAll).chainFollowAll.pscPark).bufMarkAll.gpioFollow

/-- A commit applies every staged value and empties the buffer (R33). -/
def State.applyStaged (s : State) : State :=
  let entries := s.tick.staged
  let therm := s.word Reg.STEW_POL_THERM.word.addr
  let isMap := fun a => s.works .fab && (arrayIndex (Reg.FAB_MAP.word 0).addr 10 a).isSome
  let s := entries.foldl (fun (s : State) (e : Nat × Staged) => if isMap e.1 then s else s.applyEntry e.1 e.2) s
  let s := s.clampPolicies therm
  let s := if s.works .fab then s.applyMaps entries else s
  let s := entries.foldl (fun (s : State) (e : Nat × Staged) => s.planEntry e.1 e.2) s
  let staged := fun a => (tabGet (fun _ => ({} : Staged)) entries a).mask != 0
  let s := if staged Reg.STEW_POL_GEN.word.addr then s.applyReserves else s
  let s := if staged Reg.CLK_PLLA_SRC.word.addr || staged Reg.CLK_PLLA_POL.word.addr then s.decisionDue false else s
  (s.setStaged []).requalify.followAll

/-- The commit of a commit tick (R33, R36, R38): refused whole, or applied whole. One that stages the audio reference takes its decision at this
tick (R59, R65). -/
def State.commit (s : State) : State :=
  let stagesSource := [Reg.CLK_PLLA_SRC.word.addr, Reg.CLK_PLLA_POL.word.addr].any fun a => (s.staged a).mask != 0
  let s' := if s.commitFamily then s.commitErr ceFAMILY
    else if s.commitMisfit then s.commitErr ceFIT
    else
      let s := s.applyStaged.commitPllA
      (s.setTick { s.tick with last := s.tick.count }).flag Reg.DEV_COMMIT_STAT.DONE
  let t := s'.setTick { s'.tick with target := if s'.tick.target = some s'.tick.count then none else s'.tick.target }
  if stagesSource && !s.commitFamily && !s.commitMisfit then t.decideSource State.cancelArmed else t

/-! ### Cycles 40 to 135: the rill exchange (R92, R93) -/

/-- A source value of the present weir; `ext` holds the samples that come from outside, by source code; for input
channel k, codes k and 16 + k hold its paths L and H. -/
def State.sourceValue (s : State) (ext : Tab Word) (c : Nat) : Word :=
  let raw := tabGet (fun _ => (0 : Word)) ext c
  let i := c % 512
  if sourceRange (c / 512) ≤ i then 0
  else match c / 512 with
    | 0 => s.aiSample i raw (tabGet (fun _ => (0 : Word)) ext (16 + i))
    | 1 => s.beamSample i
    | 2 => s.sapSample 0 i fun k => tabGet (fun _ => 0) ext (1024 + k)
    | 3 => s.sapSample 1 i fun k => tabGet (fun _ => 0) ext (1536 + k)
    | 4 => s.laneSample i
    | 5 => s.chainSource i
    | 6 => s.handlePort (i / 32) (i % 32)
    | _ => 0

/-- Rills that a rate moves (R93). -/
def rillCount (rate : Nat) : Nat := if 4 ≤ rate then 48 else 96

/-- The rills that a weir at the rate moves: number, source and sink. -/
def State.rills (s : State) (rate : Nat) : List (Nat × Nat) :=
  (List.range (rillCount rate)).filterMap fun k =>
    if s.bit (Reg.RX_ROUTE.EN k) then some (s.get (Reg.RX_ROUTE.SRC k), s.get (Reg.RX_ROUTE.SINK k)) else none

/-- What each sink receives, by sink code; an unlisted sink receives zero. -/
def State.moved (s : State) (ext : Tab Word) (rate : Nat) : Tab Word :=
  (s.rills rate).foldl (fun m r => tabPut (fun _ => 0) m r.2 (s.sourceValue ext r.1)) []

/-- The values of the sinks of a class, from index 0. -/
def sinkClass (m : Tab Word) (cls : Nat) : Tab Word := (m.filter fun e => e.1 / 512 == cls).map fun e => (e.1 % 512, e.2)

/-- The value at a sink. -/
def sinkAt (m : Tab Word) (cls i : Nat) : Word := tabGet (fun _ => 0) m (512 * cls + i)

/-- Every sink takes its value (R93). -/
def State.deliver (s : State) (m : Tab Word) : State :=
  let s := (List.range 16).foldl (fun (s : State) k => s.setAoCh k { s.aoCh k with sample := sinkAt m 0 k }) s
  let s := (List.range 2).foldl (fun (s : State) n => s.setHpAmp n { s.hpAmp n with sampleL := sinkAt m 1 (2 * n), sampleR := sinkAt m 1 (2 * n + 1) }) s
  let s := if s.bit (Reg.XING_STAT.RDY 14) then (List.range 8).foldl (fun (s : State) k => s.pscTake k (sinkAt m 4 k)) s else s
  let s := (List.range 2).foldl (fun (s : State) n => (s.sapTakeFrame n).sapPutFrame n (sinkClass m (2 + n))) s
  s.setFab { s.fab with chainTx := sinkClass m 5 }

/-- Bit `c` of the mask of bundle `b`: a rill names its channel `c`. -/
def bundleMask (rills : List (Nat × Nat)) (b : Nat) : Nat :=
  (List.range 8).foldl (fun a c => if rills.any fun r => r.2 == 512 * 5 + 8 * b + c then a + 2 ^ c else a) 0

/-- The window of a self-hearing check sees its beam's sample (R318). -/
def State.checkWeir (s : State) : State :=
  match s.lsn.check with
  | some c => s.checkTick (s.beamSample c.beam)
  | none => s

/-- The exchange works (R18): the FAB domain is on and an image is loaded. -/
def State.exchangeOn (s : State) : Bool := s.works .fab && s.svc != svcBARE

/-- The move with what hangs on it: streams presented before, bundles formed after, one tick of the ramps. -/
def State.move (s : State) (ext : Tab Word) (rate : Nat) : State × Tab Word :=
  let n := s.tick.count.toNat
  let s := ((s.presentStreams n).sapBeforeMove 0).sapBeforeMove 1
  let s := (List.range 96).foldl State.laneTake ((List.range 4).foldl (State.beamTake ext) s)
  let m := if s.exchangeOn then s.moved ext rate else []
  let s := (s.deliver m).formBundles n (bundleMask (if s.exchangeOn then s.rills rate else []))
  let s := (List.range 16).foldl (fun (s : State) k => (s.aoTick k).aiLatch k (tabGet (fun _ => (0 : Word)) ext k) (tabGet (fun _ => (0 : Word)) ext (16 + k))) s
  let s := (s.hpTick 0).hpTick 1
  let s := (List.range 4).foldl (fun (s : State) b => s.beamTick b) s.checkWeir
  ({ s with free := s.free + 48 }, m)

/-! ### Cycles 136 to 191 -/

/-- A running basin's state region is captured (R100). -/
def State.capture (s : State) (b : Nat) : State :=
  s.setBasin b { s.basin b with shadow := some ⟨s.tick.count, s.stateRegion b⟩ }

/-- Basin `b`'s state region is captured (R23, R100): it runs or is held now, or it ran in this tick and still holds its content,
or a hand-over takes its capture (R152 step 4). -/
def State.captures (s : State) (ran : List Nat) (b : Nat) : Bool :=
  s.works .fab && (s.basinState b == bsRUNNING || s.basinState b == bsHELD ||
    (s.basinState b == bsREADY && (ran.elem b || (List.range 4).any fun h => (s.chan h).prime && s.get (Reg.FAB_HO_CTL.OLD h) == b)))

/-- The port values of this tick join the replay area (R99): the last 8 ticks of every basin that holds content. -/
def State.replayBasin (s : State) (n : TickNo) (b : Nat) : State :=
  if s.basinLoaded b then
    let x := s.basin b
    s.setBasin b { x with replay := (⟨n, x.inp, x.outp⟩ :: x.replay).take 8 }
  else s

/-- The replay area after a weir; while FAB is off nothing is written there. -/
def State.replayWeir (s : State) : State :=
  if s.works .fab then ((List.range 10).foldl (fun (s : State) b => s.replayBasin s.tick.count b) s).ownWritten replayBase 0x5000 else s

/-- Fades that run lose a tick while the new basin runs (R152, R160, R162). -/
def State.fadeTick (s : State) (h : Nat) : State :=
  if s.hoState h = hoFADING && s.get (Reg.FAB_HO_STAT.LEFT h) != 0 && s.basinState (s.get (Reg.FAB_HO_CTL.NEW h)) == bsRUNNING then
    s.set (Reg.FAB_HO_STAT.LEFT h) (s.get (Reg.FAB_HO_STAT.LEFT h) - 1)
  else s

/-- A hand-over without fade ticks ends in its own weir, after the capture (R152 steps 4 and 8). -/
def State.fadeNone (s : State) (h : Nat) : State := if (s.chan h).fade = 0 then s.fadeEnd h else s

/-- TICK_COUNT goes on (R29); an armed commit whose target it passed is disarmed (R41). -/
def State.countTick (s : State) : State :=
  let n := s.nextCount
  let s := s.setTick { s.tick with count := n, reload := none, goNow := s.tick.goNext, goNext := false }
  match s.tick.target with
  | some t => if (t - n).toInt < 0 then s.cancelArmed else s.showCommit
  | none => s.showCommit

/-- The page of table `t` that the jets read in the next tick (R159): none when neither is complete. -/
def State.pageOf (s : State) (b t : Nat) : Option Bool :=
  let sel := s.bitAt (Reg.FAB_B_TBLSEL.PAGE b) t
  if s.pageDone b t sel then some sel else if s.pageDone b t (!sel) then some (!sel) else none

/-- The pages of basin `b` are fixed for the next tick, with TABLE_WAIT (R159). -/
def State.fixPages (s : State) (b : Nat) : State :=
  let p := (s.basin b).tables.foldl (fun (p : Nat × Nat) d => match s.pageOf b d.t with
    | some true => (p.1 + 2 ^ d.t, p.2)
    | some false => p
    | none => (p.1, p.2 + 2 ^ d.t)) (0, 0)
  (s.setBasin b { s.basin b with page := p.1 + 2 ^ 32 * p.2 }).setNat (Reg.FAB_B_TWAIT.word b) p.2

/-- The inbound values of handle `L` as the move left them. -/
def inboundOf (m : Tab Word) (L : Nat) : Tab Word :=
  ((sinkClass m 6).filter fun e => e.1 / 32 == L).map fun e => (e.1 % 32, e.2)

/-- Inbound values are presented to the basin of each handle, and to the old basin of its fade (R152 step 6, R153). -/
def State.present (s : State) (m : Tab Word) (L : Nat) : State :=
  let put := fun (s : State) b => s.setBasin b { s.basin b with inp := inboundOf m L }
  let s := match s.mapped L with
    | some b => put s b
    | none => s
  match s.chanWhere fun h => s.hoState h == hoFADING && s.get (Reg.FAB_HO_CTL.HANDLE h) == L && s.get (Reg.FAB_HO_CTL.OLD h) < 10 with
  | some h => put s (s.get (Reg.FAB_HO_CTL.OLD h))
  | none => s

/-- Jet registers are cleared, and every jet with a cascade starts again where its basin runs (R83, R89). -/
def State.restartJets (s : State) (b : Nat) : State :=
  let x := s.basin b
  let runs := s.works .fab && s.basinRuns b
  s.setBasin b { x with jets := (List.range 4).foldl (fun m j =>
    tabPut (fun _ => ({} : Jet)) m j { ended := !(runs && 0 < x.nslot.getD j 0) }) [] }

/-! ### WEIR -/

/-- The whole weir of a tick; `ext` holds the samples of outside sources by source code, `act` is what a write that the weir
held does beside its TC fields. -/
def State.weir (s : State) (ext : Tab Word) (act : Nat → Word → State → State) : State :=
  let rate := s.rate
  let s := (s.runningBasins).foldl (fun (s : State) b => s.finishBasin b) ((s.weirLeft.sapTick 0).sapTick 1)
  let ran := s.runningBasins
  let s := ran.foldl (fun (s : State) b => s.freezeBasin b) s
  let s := ((List.range 10).filter fun b => !ran.elem b).foldl (fun (s : State) b => s.closeMeters b) s
  let s := (List.range 4).foldl (fun (s : State) h => s.fadeTick h) s
  let s := (List.range 8).foldl (fun (s : State) k => s.pscTickStart k) s
  let s := if s.commitDue then s.commit else s
  let s := s.relocWeir.liveWeir
  let r := s.move ext rate
  let s := ((List.range 10).filter (r.1.captures ran)).foldl (fun (s : State) b => s.capture b) r.1.replayWeir
  let s := (List.range 4).foldl (fun (s : State) h => s.handOverPrime h) s
  let s := (List.range 4).foldl (fun (s : State) h => s.fadeNone h) s
  let s := s.countTick.reopenStaging act
  let s := (List.range 10).foldl (fun (s : State) b => (s.fixPages b)) s
  let s := (List.range 10).foldl (fun (s : State) L => s.present r.2 L) s
  let s := (List.range 10).foldl (fun (s : State) b => s.restartJets b) s
  let s := (List.range 96).foldl (fun (s : State) q => s.laneFlip q) s
  (if s.rate = rate then s else s.rateSteps).tickEnd

end Sys2Proof.Machine
end

