-- ==== Sys2Proof/Machine/Power.lean ====
section
/-! DEFINITION. Power modes, wakes, domain resets and GPIO (22_power_modes_and_reset.md, R408 to R425). -/

namespace Sys2Proof.Machine

/-- Waits: the AON timer and a return's steps. -/
abbrev tmAon : Nat := 0x900
abbrev tmReturn : Nat := 0x901

/-! ### Switching domains (R411, R412, R415) -/

/-- What a domain's blocks do when its switch opens; a captured checkpoint has drained before (R411 step 3). -/
def State.blockOff (s : State) (d : Dom) : State :=
  match d with
  | .fab =>
    let s := (List.range 2).foldl (fun (s : State) n => s.sapHalt n) s.lanesUnlockAll
    (List.range 10).foldl (fun (s : State) b => let s := s.ckptDrained b; s.setBasin b { s.basin b with jets := [], writes := [] }) s
  | .chn => (s.portOff 0).portOff 1
  | .ain => s.ainPowerOff
  | .aout => (s.setPwr { s.pwr with aoutReset := false }).aoPowerOff.hpPowerOff
  | .pst => s.pscPowerOff
  | _ => s

/-- Domain `d` is switched off. -/
def State.domainOff (s : State) (d : Dom) : State :=
  if s.domOn d then
    let s := ((s.blockOff d).setDom d false).xingResetDom d
    if d = .chn then s.pllOff pllC else if d = .pst then s.pllOff pllP else s
  else s

/-- Domain `d` is switched on, with its shadow and the values stored for it (R412). -/
def State.domainOn (s : State) (d : Dom) : State :=
  if s.domOn d then s
  else
    let s := (s.setDom d true).applyStored d
    match d with
    | .ain => s.ainPowerUp
    | .pst => (s.setPll pllP { loaded := familySetting (s.get Reg.CLK_STAT.FAMILY) }).pllOn pllP
    | .chn => s.pllOn pllC
    | .aout => s.aoPowerUp.hpPowerUp
    | _ => s

/-! ### The end of a change -/

/-- A mode is reached: MODE, DONE, and the AON timer from the end of an entry (R411, R414). -/
def State.modeReached (s : State) (m : Nat) : State :=
  let s := (s.setPwr { s.pwr with entry := none, ret := none }).set Reg.PWRM_STAT.MODE m |>.set Reg.PWRM_STAT.CHANGING 0 |>.flag Reg.PWRM_EVT.DONE
  let s := if m != modeRUN && s.bit Reg.PWRM_TMR.EN then s.startTimer tmAon else s.stopTimer tmAon
  s.lsnClock

/-- RUN is reached: outputs follow the service state (R415). -/
def State.runReached (s : State) : State := (s.modeReached modeRUN).pscUnidle.followAll

/-! ### When a skim pass runs (R401) -/

/-- Wait: the time of a skim pass. -/
abbrev tmSkim : Nat := 0x903

/-- STEW_STAT.SKIM. -/
abbrev skDUE : Nat := 1
abbrev skRUNNING : Nat := 2

/-- A pass falls due. -/
def State.skimDue (s : State) : State := if s.get Reg.STEW_STAT.SKIM = 0 then s.set Reg.STEW_STAT.SKIM skDUE else s

/-- Some basin can be swept with the stress cascade. -/
def State.stressable (s : State) : Bool := 0 < s.countBasins bsRESERVE + s.countBasins bsFREE

/-- A pass begins. -/
def State.skimBegin (s : State) : State := (s.set Reg.STEW_STAT.SKIM skRUNNING).startTimer tmSkim

/-- A pass ends, done (`st` 0) or abandoned (it stays due); FAB goes off again where the pass alone had it on. -/
def State.skimStop (s : State) (st : Nat) : State :=
  let s := (s.set Reg.STEW_STAT.SKIM st).stopTimer tmSkim
  if s.stew.skimFab then ({ s with stew := { s.stew with skimFab := false } }.setDom .fab false).xingResetDom .fab else s

/-- A due pass at an entry to STANDBY: FAB is powered for it. -/
def State.skimStandby (s : State) : State :=
  if s.get Reg.STEW_STAT.SKIM = skDUE then ({ s with stew := { s.stew with skimFab := true } }.setDom .fab true).skimBegin else s

/-- The pass of STANDBY is abandoned at the exit. -/
def State.skimAbandon (s : State) : State := if s.stew.skimFab then s.skimStop skDUE else s

/-- A millisecond of the pass: due 24 powered hours after the last complete one; begun in RUN or QUIET at once with a spare basin, or 72 powered
hours after the last one without. FAB is not on for it longer than 150 ms. -/
def State.skimMs (s : State) : State :=
  let s := if 86400000 ≤ s.stew.msSkim then s.skimDue else s
  if s.get Reg.STEW_STAT.SKIM = skDUE && s.runMode && (s.stressable || decide (259200000 ≤ s.stew.msSkim)) then s.skimBegin
  else if s.stew.skimFab && s.due tmSkim 150 then s.skimStop skDUE
  else s

/-! ### Returns from STANDBY and FAB resets (R415, R420) -/

/-- Handle `L` is reloaded from the shelf and its state region restored from the last checkpoint (R415 step 2). A copy that is
invalid is rewritten from flash first (R163): the basin is LOADING meanwhile. -/
def State.reloadHandle (s : State) (L : Nat) : State :=
  match s.mapped L with
  | none => s
  | some b =>
    let sh := s.shelf L
    match sh.image with
    | none => s
    | some x =>
      if !sh.valid && sh.part then (s.setBasinState b bsPARKED).relocFail L b b true
      else if !sh.valid then s.setBasinState b bsLOADING
      else
        let old := s.basin b
        let keep := [Reg.FAB_B_TBLSEL.word b, Reg.FAB_B_TCOMPA.word b, Reg.FAB_B_TCOMPB.word b].map fun f => (f.addr, s.word f.addr)
        let s := s.loadBasin b L x
        let s := keep.foldl (fun (s : State) (e : Nat × Word) => s.setWord e.1 e.2) s
        let s := s.setBasin b { s.basin b with regions := old.regions, outp := old.outp, inp := old.inp, ckpt0 := old.ckpt0, ckpt1 := old.ckpt1,
                                               ckptLast1 := old.ckptLast1 }
        let n := s.get (Reg.FAB_B_STATE.LEN b)
        let s := match old.lastCkpt true with
          | some c => s.putState b 0 ((c.words ++ List.replicate n 0).take n)
          | none => s
        s.mapBasin L b

/-- A hand-over that FAB's power-off met: a fade is over, and a pending one is done where the stored map names its new basin and
cancelled otherwise. -/
def State.handOverLost (s : State) (h : Nat) : State :=
  if s.hoState h = hoFADING then s.handOverDone h
  else if s.hoState h = hoPENDING && s.mapped (s.get (Reg.FAB_HO_CTL.HANDLE h)) == some (s.get (Reg.FAB_HO_CTL.NEW h)) then
    (s.chanIdle h).flag Reg.FAB_HO_EVT.DONE
  else s.handOverCancel h false

/-- Every mapped handle is reloaded; what no handle maps is lost (R415 step 2), a basin that lost its handle by a stored commit
(R37) among it. The jets start with the next tick. -/
def State.reloadHandles (s : State) : State :=
  let s := (List.range 4).foldl (fun (s : State) h => s.handOverLost h) s
  let s := (List.range 10).foldl (fun (s : State) b =>
    if (s.handleOf b).isNone && [bsREADY, bsRUNNING, bsHELD, bsPARKED].elem (s.basinState b) then s.freeBasin b else s) s
  (List.range 10).foldl (fun (s : State) L => s.reloadHandle L) s

/-- Step 1 of R415: the domains that STANDBY lacks, LSN where it is enabled. -/
def State.returnDomains (s : State) : State :=
  ([Dom.fab, Dom.ain, Dom.aout, Dom.pst].foldl (fun (s : State) d => s.domainOn d) s).lsnPower.lsnClock

/-- The next step of a return from STANDBY, or of a FAB reset. -/
def State.standbyReturn (s : State) : State :=
  match s.pwr.ret with
  | none => s
  | some r =>
    if r.sleep then s
    else if r.step = 1 then
      let s := (s.setPwr { s.pwr with ret := some { r with step := 2 } }).set Reg.PWRM_STAT.CHANGING 1
      s.skimAbandon.returnDomains.startTimer tmReturn
    else if r.step = 2 then
      (s.setPwr { s.pwr with ret := some { r with step := 3 } }).reloadHandles.asrcFollowAll.chainFollowAll
    else if r.step = 3 then (s.setPwr { s.pwr with ret := some { r with step := 4 } }).set Reg.AOUT_STAT.READY 1
    else if s.due tmReturn 32 then
      let s := (s.stopTimer tmReturn).set Reg.AIN_STAT.READY 1
      if r.mode = modeRUN then s.runReached else (s.modeReached r.mode).followAll
    else s

/-! ### Wakes (R414, R424) -/

/-- The modes in which a source acts (R414). -/
def wakeModes (code : Nat) : List Nat :=
  match code with
  | 1 => [modeQUIET, modeSTANDBY, modeLISTEN, modeDORMANT]
  | 2 => [modeLISTEN, modeDORMANT]
  | 3 => [modeLISTEN]
  | 4 => [modeSTANDBY]
  | 5 => [modeLISTEN, modeDORMANT]
  | 6 => [modeQUIET, modeSTANDBY, modeLISTEN, modeDORMANT]
  | 7 => [modeQUIET, modeSTANDBY, modeLISTEN, modeDORMANT]
  | 8 => [modeQUIET, modeSTANDBY]
  | _ => []

/-- The source is enabled: TWT by HOST_TWT_CFG.WAKE, the host request always, the others in PWRM_WAKE_EN. -/
def State.wakeEnabled (s : State) (code : Nat) : Bool :=
  if code = 2 then s.bit Reg.HOST_TWT_CFG.WAKE
  else if code = 8 then true
  else (s.word Reg.PWRM_WAKE_EN.word.addr).getLsbD code

/-- The mode that a wake meets: the one being entered, else the one in effect. -/
def State.wakeMode (s : State) : Nat :=
  match s.pwr.entry with
  | some e => e.mode
  | none => s.mode

/-- Entry is abandoned: the domains switched off come back on the way of R415. -/
def State.abandonEntry (s : State) : State :=
  let off := !(s.domOn .fab && s.domOn .ain && s.domOn .aout && s.domOn .pst)
  let s := (s.setPwr { s.pwr with entry := none }).stopTimer tmPark
  if off then
    let s := if s.domOn .chn then s else ((s.domainOn .chn).pllBegin pllA).pllBegin pllS
    (s.setPwr { s.pwr with ret := some {} }).set Reg.PWRM_STAT.CHANGING 1
  else s.runReached

/-- The return that leaves the mode: from QUIET at once, from STANDBY and from sleep by steps. -/
def State.startReturn (s : State) : State :=
  if s.pwr.entry.isSome then s.abandonEntry
  else if s.pwr.ret.isSome || s.mode = modeRUN then s
  else if s.mode = modeQUIET then s.runReached
  else (s.setPwr { s.pwr with ret := some { sleep := s.mode != modeSTANDBY } }).set Reg.PWRM_STAT.CHANGING 1

/-- A wake: recorded, and the return starts (R414). -/
def State.wakeBy (s : State) (code : Nat) : State := ((s.set Reg.PWRM_WAKE_SRC.LAST code).flag Reg.PWRM_EVT.WAKE).startReturn

/-- Wake source `code` (R414). A device held in STANDBY by TCRIT ignores wakes (R390). -/
def State.wake (s : State) (code : Nat) : State :=
  if (wakeModes code).elem s.wakeMode && s.wakeEnabled code && !s.stew.critHold then s.wakeBy code else s

/-! ### Requests (R409) -/

/-- A change is in progress. -/
def State.changeRuns (s : State) : Bool := s.pwr.entry.isSome || s.pwr.ret.isSome || s.changing

/-- A request for a mode is refused. -/
def State.modeRefused (s : State) (m : Nat) : Bool :=
  decide (5 ≤ m) || (s.changeRuns && m != modeRUN) || s.stew.critHold ||
    (decide (m = modeLISTEN ∨ m = modeDORMANT) && (s.bit Reg.DEV_IMG_BOOT.TRIAL || s.bit Reg.DEV_COMMIT_STAT.ARMED || s.bit Reg.DEV_COMMIT_STAT.STAGED))

/-- A request for mode `m`; one for RUN during an entry acts as a wake, whatever mode is being entered. -/
def State.modeRequest (s : State) (m : Nat) : State :=
  if s.modeRefused m then s.flag Reg.PWRM_EVT.REQ_ERR
  else if m = modeRUN then if s.pwr.entry.isSome then s.wakeBy 8 else s.wake 8
  else if m = s.mode then s
  else if m = modeQUIET && s.mode = modeSTANDBY then (s.setPwr { s.pwr with ret := some { mode := modeQUIET } }).set Reg.PWRM_STAT.CHANGING 1
  else s.setPwr { s.pwr with entry := some { mode := m } }

/-- A write of PWRM_CTL. -/
def State.pwrmCtl (s : State) (v : Word) : State := if v.getLsbD 31 then s.modeRequest (v.toNat % 8) else s

/-! ### Entries (R411) -/

/-- Every PSC channel has stopped. -/
def State.pscStopped (s : State) : Bool := (List.range 8).all fun k => s.psState k == psOFF || s.psState k == psFAULT || s.psState k == psLATCHED

/-- Every line output is parked and both amplifiers have stopped: AOUT may go (R192). -/
def State.aoParked (s : State) : Bool := s.linesParked && s.hpStopped

/-- The tick stands at its start: the last weir is over and no jet has begun. -/
def State.tickFresh (s : State) : Bool :=
  !s.ticksRun || (List.range 10).all fun b => (List.range 4).all fun j => ((s.basin b).jet j).ended || ((s.basin b).jet j).cycle == 0

/-- Registers and retention memory that persist without SYS (R412, R473): power, GPIO, listening control, the two-wire
recogniser's configuration, the fuses with the presence logic, the fused rollback counter and the jacks (R199). -/
def aonKept (a : Nat) : Bool :=
  a == Reg.HP_STAT.word.addr ||
  (0x030000 ≤ a && a < 0x030020) || (0x1B0000 ≤ a && a < 0x1B0014) || (0x190000 ≤ a && a < 0x190040) || a == Reg.HOST_TWT_CFG.word.addr ||
    (0x060000 ≤ a && a < 0x060180) || a == Reg.DEV_IMG_VER.word.addr

/-- Waits counted in AON. -/
def aonTimer (t : Nat) : Bool := [tmW2, tmW3, tmAutorel, tmWindow, tmPresLow, tmLockout, tmAon].elem t

/-- SYS goes off (R411 step 6, R412): only what AON holds is left. Nonce and unlock session are lost (R429, R432). -/
def State.sysOff (s : State) : State :=
  let s := (s.dropNonce).endSession
  let ball := fun p => ((Reg.CHAIN_CP_STAT.word p).addr, s.word (Reg.CHAIN_CP_STAT.word p).addr &&& 0x700)
  [ball 0, ball 1].foldl (fun (t : State) (e : Nat × Word) => t.setWord e.1 e.2) { ({} : State) with
    regs := s.regs.filter fun e => aonKept e.1
    now := s.now
    free := s.free
    timers := s.timers.filter fun e => aonTimer e.1
    lsn := { s.lsn with beams := [], check := none }
    flash := s.flash
    sec := s.sec
    pwr := s.pwr
    pending := s.pending }

/-- Steps 5 and 6 of R411. -/
def State.sleep (s : State) (m : Nat) : State :=
  let svc := s.svc
  let s := s.domainOff .chn
  let s := s.sysOff
  let s := (s.setPwr { s.pwr with svc := svc, wakeOut := false, gated := 0 })
  let s := s.set Reg.PWRM_STAT.DOM_ON 1 |>.set Reg.DEV_IMG_VER.ROLLBACK 0 |>.set Reg.HP_STAT.NOSUPPLY 0
  ((s.modeReached m).lsnPower).showStage

/-- The next step of an entry that is due. -/
def State.entryStep (s : State) : State :=
  match s.pwr.entry with
  | none => s
  | some e =>
    let go := fun (s : State) (n : Nat) => s.setPwr { s.pwr with entry := some { e with step := n } }
    match e.step with
    | 1 => if s.clk.hop.isSome then s else ((go (s.set Reg.PWRM_STAT.CHANGING 1) 2).pscIdle.followParking).startTimer tmPark
    | 2 =>
      if e.mode = modeQUIET then if s.outputsSettled then (s.modeReached modeQUIET).stopTimer tmPark else s
      else if s.outputsSettled || s.due tmPark 100 then (go s 3).pscPark.hpFollowAll
      else s
    | 3 =>
      let s := s.pscPark.aoTakeClear
      if !s.pscStopped || !(s.aoParked || s.due tmPark 110) then s
      else
        let s := (go (((s.domainOff .pst).domainOff .ain).domainOff .aout) 4).stopTimer tmPark
        if e.mode = modeLISTEN then s.lsnPower else s.stagesAbandon
    | 4 =>
      if (List.range 4).all (fun h => s.hoState h == hoIDLE) && s.tickFresh then
        go (((List.range 12).foldl (fun (s : State) b => s.releaseBundle b) s).domainOff .fab) 5
      else s
    | 5 =>
      let s := s.note rtHOURS []
      if e.mode = modeSTANDBY then (s.modeReached modeSTANDBY).skimStandby else go s 6
    | _ => s.sleep e.mode

/-! ### Clock gating (R410) -/

/-- The domain's clock may stop. -/
def State.mayGate (s : State) (d : Dom) : Bool :=
  match d with
  | .lsn => (s.mode == modeRUN || s.mode == modeQUIET) && !s.lsn.w2 && !s.lsn.w3 && (List.range 4).all fun b => !(s.beam b).ctl.getLsbD 31
  | .ain => (List.range 16).all fun k => s.aiState k == aiOFF
  | .aout => (List.range 16).all (fun k => s.aoState k == aoOFF) && (List.range 2).all fun n => s.hpState n == hpOFF || s.hpState n == hpNOJACK
  | .pst => (List.range 8).all fun k => s.psState k == psOFF || s.psState k == psLATCHED
  | _ => false

/-- The gates follow their conditions. -/
def State.clockGate (s : State) : State :=
  s.setPwr { s.pwr with gated := [Dom.lsn, Dom.ain, Dom.aout, Dom.pst].foldl (fun m d => if s.domOn d && s.mayGate d then m + 2 ^ d.index else m) 0 }

/-- A gate whose condition has ended opens (R410). -/
def State.ungateEnded (s : State) : State :=
  if s.pwr.gated = 0 then s
  else s.setPwr { s.pwr with gated := [Dom.lsn, Dom.ain, Dom.aout, Dom.pst].foldl (fun m d =>
    if s.pwr.gated / 2 ^ d.index % 2 = 1 && s.domOn d && s.mayGate d then m + 2 ^ d.index else m) 0 }

/-! ### Domain resets (R420) -/

/-- Status bits that show a ball or a supply, and so outlive the reset of their domain: DCLR_N, the jacks, VDDA_5 and the
module-control balls (R189, R199, R201, R264). -/
def liveBits (a : Nat) : Word :=
  if a = Reg.HP_STAT.word.addr then 0x13
  else if a = Reg.AOUT_STAT.word.addr then Reg.AOUT_STAT.DCLR.mask
  else if a = Reg.AIN_STAT.word.addr then Reg.AIN_STAT.NOSUPPLY.mask
  else if a = (Reg.CHAIN_CP_STAT.word 0).addr ∨ a = (Reg.CHAIN_CP_STAT.word 1).addr then 0x700
  else 0

/-- The registers of a domain after its reset: RW and TC fields from the shadow, the rest at reset. CHN has no shadow, but the
identity that SYS gives it. -/
def State.resetRegs (s : State) (d : Dom) : State :=
  let kept := fun (a : Nat) => a == Reg.CHAIN_OWNER.word.addr || a == Reg.CHAIN_LINK_STAT.word.addr
  s.regs.foldl (fun (s : State) (e : Nat × Word) =>
    match regRow e.1 with
    | some r =>
      if r.dom = d && !kept e.1 then
        s.setWord e.1 (overlay (regReset e.1) (if d = .chn then liveBits e.1 else r.rw ||| r.tc ||| liveBits e.1) e.2)
      else s
    | none => s) s

/-- CHN keeps its node ID alone of CHAIN_LINK_STAT. -/
def State.resetChain (s : State) : State :=
  let id := s.nodeId
  ((s.setChain {}).setWord Reg.CHAIN_LINK_STAT.word.addr (regReset Reg.CHAIN_LINK_STAT.word.addr)).set Reg.CHAIN_LINK_STAT.NODE_ID id

/-- The logic of one domain is reset and released. -/
def State.domainReset (s : State) (d : Dom) : State :=
  if !s.domOn d then s
  else
    let s := if d = .pst then (List.range 8).foldl (fun (s : State) k => if (s.pscCh k).drive = .low then s else s.allOff k) s else s
    let map := (List.range 10).map fun b => (b, s.word (Reg.FAB_B_STAT.word b).addr)
    let s := ((s.blockOff d).xingResetDom d).resetRegs d
    let s := match d with
      | .fab => map.foldl (fun (s : State) (e : Nat × Word) => s.setWord (Reg.FAB_B_STAT.word e.1).addr e.2) s
      | .chn => s.resetChain
      | .ain => s.ainPowerUp
      | .pst => s.pllLoad pllP (familySetting (s.get Reg.CLK_STAT.FAMILY))
      | .lsn => s.stagesEnd
      | _ => s
    if d = .fab then (s.setPwr { s.pwr with ret := some { mode := s.mode, step := 2 } }).startTimer tmReturn
    else if d = .aout then s.aoPowerUp.hpPowerUp else s.followAll

/-- What one millisecond does at the amplifiers: the trips of the last 10 s, and a stop that no tick carries on. -/
def State.hpMs (s : State) : State :=
  let one := fun (s : State) (n : Nat) => if (s.hpAmp n).stopping && !s.ticksRun then s.hpSettle n else s
  (one (one s 0) 1).hpShowTrips

/-- The reset of AOUT once its outputs are parked, at the latest 110 ms after the write (R192, R420). -/
def State.aoResetMs (s : State) : State :=
  if !s.pwr.aoutReset then s
  else
    let s := s.aoTakeClear
    if s.aoParked || s.due tmPark 110 then ((s.setPwr { s.pwr with aoutReset := false }).stopTimer tmPark).domainReset .aout else s

/-- The reset of AOUT begins: its outputs park first (R420). -/
def State.aoResetBegin (s : State) : State :=
  if !s.domOn .aout || s.pwr.aoutReset then s
  else ((s.setPwr { s.pwr with aoutReset := true }).startTimer tmPark).aoRetargetAll.hpFollowAll.aoResetMs

/-- A write of PWRM_RST: bits for AON and SYS are ignored. -/
def State.pwrmRst (s : State) (v : Word) : State :=
  [Dom.fab, .chn, .ain, .aout, .pst, .lsn].foldl (fun (s : State) d =>
    if v.getLsbD d.index then if d = .aout then s.aoResetBegin else s.domainReset d else s) s

/-! ### Wake conditions -/

/-- A match that has just been recorded in LISTEN wakes the device (R314). -/
def State.wakeOnMatch (before after : State) : State := if before.frozen || !after.frozen then after else after.wake 3

/-- PWRM_TMR expires (R414); 0 s acts as 1. -/
def State.aonTimerEnd (s : State) : State :=
  if s.due tmAon (1000 * max 1 (s.get Reg.PWRM_TMR.SEC)) then (s.stopTimer tmAon).wake 7 else s

/-- The chain wake pattern has arrived (R413). -/
def State.chainWake (s : State) : State :=
  if s.chain.pattern then (s.setChain { s.chain with pattern := false }).wake 4 else s

/-- A LOS change while the module is there wakes the device in LISTEN and DORMANT (R414). -/
def State.losWake (s : State) (p : Nat) : State := if s.bit (Reg.CHAIN_CP_STAT.MOD_ABS p) then s else s.wake 5

/-! ### Commands -/

/-- MODE_REQUEST (R409): a write of PWRM_CTL with GO. -/
def execModeRequest (m : Fin 8) (s : State) : Host.Outcome State Fault Refusal := .next (s.byRow ((s.modeRequest m).onBus 0 .done))

/-- MODE_ENTRY (R411): the next step that is due. -/
def execModeEntry (s : State) : Host.Outcome State Fault Refusal := .next s.entryStep

/-- CLOCK_GATE (R410). -/
def execClockGate (s : State) : Host.Outcome State Fault Refusal := .next s.clockGate

/-- WAKE (R414): source `code`. -/
def execWake (code : Fin 16) (s : State) : Host.Outcome State Fault Refusal := .next (s.wake code)

/-- WAKE_N (R414). -/
def execWakeN (s : State) : Host.Outcome State Fault Refusal := .next (s.wake 1)

/-- AON_TIMER (R414). -/
def execAonTimer (s : State) : Host.Outcome State Fault Refusal := .next s.aonTimerEnd

/-- CHAIN_WAKE_PATTERN (R413). -/
def execChainWakePattern (s : State) : Host.Outcome State Fault Refusal := .next s.chainWake

/-- PRESENCE_PRESS (R433): also a wake source (R414). -/
def execPresencePress (s : State) : Host.Outcome State Fault Refusal := .next (s.presPress.wake 6)

/-- LOS_CHANGE (R264, R414). -/
def execLosChange (p : Fin 2) (high : Bool) (s : State) : Host.Outcome State Fault Refusal := .next ((s.losChange p high).losWake p)

/-- W1_FIRE (R313). -/
def execW1Fire (s : State) : Host.Outcome State Fault Refusal := .next (s.wakeOnMatch s.w1Fire)

/-- W2_FIRE (R313). -/
def execW2Fire (t : Fin 4) (path : List (Nat × Nat)) (s : State) : Host.Outcome State Fault Refusal := .next (s.wakeOnMatch (s.w2Fire t path))

/-- MATCH (R314): the alignment that W3 found (R317), with the ring as it stands frozen (R315). -/
def execLsnMatch (t : Fin 4) (variant dur index : BitVec 8) (path : List (Nat × Nat)) (pstart pred : BitVec 16) (ring : List Byte) (s : State) :
    Host.Outcome State Fault Refusal :=
  let m : MatchInfo := { template := t, vari := variant.toNat, score := pathScore s.lsn.features.reverse (s.template t) variant.toNat false path, dur := dur.toNat, pstart := pstart.toNat, pred := pred.setWidth 32,
                         index := index.toNat, ring := ring }
  .next (if s.matchAllowed m path && decide (dur.toNat = min 255 (pathLength path)) then s.wakeOnMatch (s.matchNow m) else s)

/-- STANDBY_RETURN (R415): the next step that is due. -/
def execStandbyReturn (s : State) : Host.Outcome State Fault Refusal := .next s.standbyReturn

/-- PWRM_RST_WRITE (R420). -/
def execPwrmRstWrite (doms : BitVec 8) (s : State) : Host.Outcome State Fault Refusal := .next (s.byRow ((s.pwrmRst (doms.setWidth 32)).onBus 0 .done))

/-- GPIO_EDGE (R423): the level of a GPIO changes, if the device does not drive it. -/
def execGpioEdge (g : Fin 8) (high : Bool) (s : State) : Host.Outcome State Fault Refusal := .next (s.gpioLevel g ((s.gpioDrive g).getD high))

end Sys2Proof.Machine
end

