-- ==== Sys2Proof/Machine/Steward.lean ====
section
/-! DEFINITION. What the stewards do: targeted tests and classification (R384 to R388), die temperature (R390), their own
health (R391), ageing, the skim pass and re-planning (R400 to R405) and VDD_FAB (R422). -/

namespace Sys2Proof.Machine

/-- Waits: the buffer has held only the stewards' values (R403); a core is reloaded (R391); a VDD_FAB transfer is tried again (R405), and
its setpoint comes into effect (R422). -/
abbrev tmMargin : Nat := 0xA00
abbrev tmCore : Nat := 0xA01
abbrev tmVfab : Nat := 0xA02
abbrev tmVset : Nat := 0xA03

def State.setStew (s : State) (x : StewSt) : State := { s with stew := x }

/-! ### Errors under test -/

/-- The noted error of a class on a unit. -/
def State.errOf (s : State) (cls unit : Nat) : Option StewErr := s.stew.errs.find? fun e => e.cls == cls && e.unit == unit

/-- A noted error replaced. -/
def State.putErr (s : State) (x : StewErr) : State :=
  (s.setStew { s.stew with errs := s.stew.errs.map fun e => if e.cls = x.cls ∧ e.unit = x.unit then x else e }).showTests

/-- Events of a class and unit within the last `span` ms. -/
def State.recurrences (s : State) (cls unit span : Nat) : Nat :=
  s.stew.history.countP fun h => h.1 == cls && h.2.1 == unit && decide (s.now < h.2.2 + span)

/-- A powered day and a powered hour, in ms. -/
abbrev msDay : Nat := 86400000
abbrev msHour : Nat := 3600000

/-- How long in ms the tests last that the stewards time themselves (R384). -/
def testMs (cls : Nat) : Nat :=
  match cls with
  | 2 => 30
  | 3 => 2
  | 4 => 40
  | 6 => 3
  | 8 => 20
  | _ => 0

/-- The test of an entry has lasted its time. -/
def State.testLasted (s : State) (e : StewErr) : Bool := decide (e.at_ + testMs e.cls ≤ s.now)

/-- The end of a test (R384): the entry is classified, with its measurement; `unit` as recorded. -/
def State.classify (s : State) (e : StewErr) (unit outcome : Nat) (meas : Word) : State :=
  ((s.errorDone e.cls e.unit).classified e.cls unit outcome e.tick e.status meas).flag Reg.STEW_EVT.TEST_DONE |>.showTests

/-! ### CISTERN: the row march (R102, R384, R386) -/

/-- Spare rows in use in a bank: FAB_CIS_SPAREn.USED. -/
def spareFld (bank : Nat) : Fld :=
  match bank % 4 with
  | 0 => Reg.FAB_CIS_SPARE.USED0 (bank / 4)
  | 1 => Reg.FAB_CIS_SPARE.USED1 (bank / 4)
  | 2 => Reg.FAB_CIS_SPARE.USED2 (bank / 4)
  | _ => Reg.FAB_CIS_SPARE.USED3 (bank / 4)

/-- A spare row takes the place of `row` (bank × 1024 + row); the last one of its bank sets SPARE_OUT (R102). -/
def State.mapSpare (s : State) (row : Nat) : State :=
  let bank := row / 1024
  let n := s.get (spareFld bank)
  if 64 ≤ n then s
  else (((s.setFab { s.fab with spared := s.fab.spared ++ [row] }).set (spareFld bank) (n + 1)).flagIf (n = 63) Reg.FAB_EVT.SPARE_OUT).note rtSPARE
    (leBytes 1 bank ++ leBytes 2 (row % 1024) ++ leBytes 1 n)

/-- The march of a bank's first waiting row found `bits` failing bits. A row that passed within a day is mapped without one. -/
def State.cisternDone (s : State) (e : StewErr) (bits : Word) : State :=
  match s.fab.march.find? fun r => r / 1024 == e.unit with
  | none => s.classify e e.unit (if bits = 0 then 1 else 2) bits
  | some r =>
    let last := tabGet (fun _ => 0) s.fab.rowPass r
    let again := last != 0 && decide (s.now + 1 < last + msDay)
    let s := s.setFab { s.fab with march := s.fab.march.filter (· != r) }
    let s := if again then (s.mapSpare r).classify e e.unit 2 0
      else if bits = 0 then (s.setFab { s.fab with rowPass := tabPut (fun _ => 0) s.fab.rowPass r (s.now + 1) }).classify e e.unit 1 0
      else (s.mapSpare r).classify e e.unit 2 bits
    if s.fab.march.any fun q => q / 1024 == e.unit then
      s.setStew { s.stew with errs := s.stew.errs ++ [{ e with testing := false }] } |>.showTests
    else s

/-! ### BASIN: BIST and strikes (R384, R386) -/

/-- The faults of the last 24 powered hours reach BASIN_STRIKES. -/
def State.struckOut (s : State) (b : Nat) : Bool :=
  decide (s.get Reg.STEW_POL_GEN.BASIN_STRIKES ≤ (recent s.now msDay (s.basin b).strikes).length)

/-- A faulted basin is ready for its BIST: parked, mapped by nothing and no source of a relocation (R384). -/
def State.bistReady (s : State) (b : Nat) : Bool :=
  s.basinState b == bsPARKED && (s.handleOf b).isNone && s.fab.relocs.all fun r => r.source != b

/-- Basin `b` is retired for good: its record, its event. -/
def State.retireNow (s : State) (b : Nat) : State := ((s.retireBasin b).note rtRETIRE (leBytes 1 b)).flag Reg.STEW_EVT.RETIRED

/-- The end of a BIST with failure map `map`. -/
def State.basinDone (s : State) (e : StewErr) (map : Word) : State :=
  let b := e.unit
  if e.testing && !s.testLasted e then s
  else if e.retest then
    if map = 0 then (s.freeTested b).classify e b 1 0
    else (if s.basinState b = bsRETIRED then s.setBasin b { s.basin b with bist := false } else s.retireNow b).classify e b 2 map
  else if s.struckOut b then if s.bistReady b then (s.retireNow b).classify e b 2 0 else s
  else if !e.testing then s
  else if map = 0 then (s.freeTested b).classify e b 1 0
  else (s.retireNow b).classify e b 2 map

/-! ### GAUGE (R385, R386) -/

/-- A REFCHK mean code lies outside 1.200 V ± 0.5 %. -/
def State.refOff (s : State) (code : Nat) : Bool :=
  decide (65536 * 1200 < ((code * s.vrefMv : Nat) - (65536 * 1200 : Nat) : Int).natAbs * 200)

/-- The converter under test. -/
def State.converterInTest (s : State) : Option Nat := (List.range 2).find? fun c => (s.gconv c).testing

/-- How far converter `c`'s last REFCHK result lies from 1.200 V; none before one. -/
def State.refDistance (s : State) (c : Nat) : Option Nat :=
  (s.gconv c).refchk.map fun code => ((code * s.vrefMv : Nat) - (65536 * 1200 : Nat) : Int).natAbs

/-- The converter that the test takes first (R385): the one whose last REFCHK result lies further off, else `first`. -/
def State.furtherOff (s : State) (first : Nat) : Nat :=
  match s.refDistance 0, s.refDistance 1 with
  | some a, some b => if a = b then first else if b < a then 0 else 1
  | _, _ => first

/-- Converter `c` enters TEST and recalibrates. -/
def State.gaugeTest (s : State) (c : Nat) : State := (s.setGconv c { s.gconv c with testing := true }).gaugeCalibrate (2 ^ c)

/-- Converter `c` leaves TEST, flagged or in service. -/
def State.gaugeTested (s : State) (c : Nat) (flagged : Bool) : State :=
  let s := s.setGconv c { s.gconv c with testing := false, flagged := flagged }
  (s.flagIf flagged Reg.GAUGE_EVT.FLAG).gaugeShow

/-- The converter under test has been measured: bits [15:0] of `meas` the REFCHK mean, [31:16] its GX mean less the other's;
`differs` says whether GX still differs when both have passed. -/
def State.gaugeDone (s : State) (e : StewErr) (meas : Word) (differs : Bool) : State :=
  match s.converterInTest with
  | none => s
  | some c =>
    if s.gaugeState c != gsTEST || !s.testLasted e then s
    else
      let bad := s.refOff (meas.toNat % 65536) || decide (s.get Reg.GAUGE_PLCFG.WIN < (sext 16 (meas.toNat / 65536)).natAbs)
      let s := s.gaugeTested c bad
      if bad then s.classify e c 2 meas
      else if e.retest then s.classify e c 1 meas
      else if e.tries = 0 then (s.putErr { e with tries := 1, at_ := s.now }).gaugeTest (1 - c)
      else if differs then
        let s := (s.flag Reg.STEW_EVT.GX_SUSPECT).remember clsGAUGE 2
        let s := if 3 ≤ s.recurrences clsGAUGE 2 msDay then s.setStew { s.stew with gxOff := true } else s
        s.classify e 2 1 meas
      else s.classify e e.unit 1 meas

/-! ### PLL (R384, R386) -/

/-- A relock attempt of PLL `p` with a full band search (R55, R384): up to three 1 ms apart, none at the third loss within an hour. -/
def State.relockAttempt (s : State) (p : Nat) : State :=
  match s.errOf clsPLL p with
  | some e =>
    if s.locked p || !s.bit Reg.CLK_STAT.REF_OK || 3 ≤ e.tries || (0 < e.tries && s.now < e.at_ + 1) || (!e.retest && 3 ≤ s.recurrences clsPLL p msHour) then s
    else (s.putErr { e with tries := e.tries + 1, testing := true, at_ := s.now }).pllStart p
  | none => s

/-- PLL `p` is given up until RESET_N or a retest; the channels it faulted latch (R384). -/
def State.pllDead (s : State) (p : Nat) : State :=
  let s := s.setPll p { s.pll p with dead := true, busy := false }
  if p != pllP then s
  else (List.range 8).foldl (fun (s : State) k =>
    match s.errOf clsPSC_STAGE k with
    | some e => if s.psState k = psFAULT && s.get (Reg.PSC_STAT.CAUSE k) = pcCLOCK then
        (s.pscLatch k).classify e k 2 (s.word (Reg.PSC_STAT.word k).addr) else s
    | none => s) s

/-- The end of a PLL's test: locked, or not after three attempts. -/
def State.pllTested (s : State) (e : StewErr) : State :=
  if s.locked e.unit then s.classify e e.unit 1 (BitVec.ofNat 32 e.tries)
  else if 3 ≤ e.tries || (!e.retest && 3 ≤ s.recurrences clsPLL e.unit msHour) then
    (s.pllDead e.unit).classify e e.unit 2 (BitVec.ofNat 32 e.tries)
  else s

/-! ### CHAIN, PSC and HP: the units' own tests (R384) -/

/-- The end of a power stage's own restart (R225, R384). -/
def State.stageTested (s : State) (e : StewErr) : State :=
  let k := e.unit
  let st := s.psState k
  let meas := s.word (Reg.PSC_STAT.word k).addr
  let cleared := s.get (Reg.PSC_STAT.CAUSE k) != pcCLOCK || s.pllPLocked
  if st = psLATCHED then s.classify e k 2 meas
  else if st = psRUN || st = psIDLE || st = psOFF || st = psLIMITING then s.classify e k 1 meas
  else if st = psFAULT && cleared && !s.pscWants k then s.classify e k 1 meas
  else s

/-- The end of a DC load test or of a headphone's impedance test, as the unit's state shows it. -/
def State.unitTested (s : State) (e : StewErr) (latched waits : Bool) (meas : Word) : State :=
  if latched then s.classify e e.unit 2 meas else if waits then s else s.classify e e.unit 1 meas

/-- A retest that passed ends the unit's lasting outcome (STEW_CTL.RETEST). -/
def State.retestPassed (s : State) (e : StewErr) : State :=
  match e.cls with
  | 3 => s.chainRestart e.unit
  | 4 => s.pscUnlatch e.unit
  | 5 => s.pscUnlatch e.unit
  | 8 => s.hpUnlatch e.unit
  | _ => s

/-- The end of a retest of a chain port, a power stage or an amplifier. -/
def State.retested (s : State) (e : StewErr) (pass : Bool) (meas : Word) : State :=
  if !s.testLasted e then s
  else if pass then (s.classify e e.unit 1 meas).retestPassed e else s.classify e e.unit 2 meas

/-- The measurement of R474 that the unit itself holds; `meas` for the others. -/
def State.unitMeas (s : State) (e : StewErr) (meas : Word) : Word :=
  match e.cls with
  | 4 => s.word (Reg.PSC_DCRES.word e.unit).addr
  | 5 => s.word (Reg.PSC_STAT.word e.unit).addr
  | 8 => s.word (Reg.HP_AMP_Z.word e.unit).addr
  | _ => meas

/-- TEST_CLASSIFICATION (R384 to R388, R474). -/
def State.testEnd (s : State) (cls unit : Nat) (pass : Bool) (meas : Word) (differs : Bool) : State :=
  match s.errOf cls unit with
  | none => s
  | some e =>
    match cls with
    | 1 => s.cisternDone e meas
    | 2 => s.basinDone e meas
    | 6 => s.gaugeDone e meas differs
    | 7 => s.pllTested e
    | 3 => if e.retest then s.retested e pass meas
      else if s.portState unit = cpTESTING || s.chain.asked.elem unit then s else s.classify e unit (if meas = 0 then 1 else 2) meas
    | 4 => if e.retest then s.retested e pass (s.unitMeas e meas)
      else s.unitTested e (s.psState unit == psLATCHED) (s.psState unit == psFAULT) (s.unitMeas e meas)
    | 5 => if e.retest then s.retested e pass (s.unitMeas e meas) else s.stageTested e
    | 8 => if e.retest then s.retested e pass (s.unitMeas e meas)
      else s.unitTested e (s.hpState unit == hpLATCHED) (s.hpState unit == hpFAULT) (s.unitMeas e meas)
    | _ => s

/-! ### Starting tests (R384, STEW_CTL.RETEST) -/

/-- TARGETED_TEST: the test of a noted error begins; `first` is the converter tested first where no REFCHK result decides it. -/
def State.targetedTest (s : State) (cls unit first : Nat) : State :=
  match s.errOf cls unit with
  | none => s
  | some e =>
    if e.testing then s
    else match cls with
    | 2 => if s.struckOut unit || !s.bistReady unit then s
      else (s.setBasin unit { s.basin unit with bist := true }).putErr { e with testing := true, at_ := s.now }
    | 6 => if s.converterInTest.isSome then s else (s.putErr { e with testing := true, tries := 0, at_ := s.now }).gaugeTest (s.furtherOff first)
    | _ => s.putErr { e with testing := true, at_ := s.now }

/-- How many units a class with a test has (R383). -/
def classUnits (cls : Nat) : Nat :=
  match cls with
  | 1 => 16
  | 2 => 10
  | 3 => 2
  | 4 => 8
  | 5 => 8
  | 6 => 2
  | 7 => 4
  | 8 => 2
  | _ => 0

/-- RETEST of a unit. A basin is taken in RETIRED, FREE or RESERVE only. -/
def State.retest (s : State) (cls unit : Nat) : State :=
  if classUnits cls ≤ unit || (s.errOf cls unit).isSome then s
  else
    let add := fun (s : State) => (s.setStew { s.stew with errs := s.stew.errs ++
      [{ cls := cls, unit := unit, count := 0, testing := true, at_ := s.now, status := s.errStatus cls unit, tick := s.tick.count, retest := true }] }).showTests
    match cls with
    | 2 =>
      let st := s.basinState unit
      if st = bsRETIRED ∨ st = bsFREE ∨ st = bsRESERVE then add (s.setBasin unit { s.basin unit with bist := true }) else s
    | 6 => if s.converterInTest.isSome then s else (add s).gaugeTest unit
    | 7 => if (s.pll unit).dead then add (s.setPll unit { s.pll unit with dead := false }) else s
    | _ => add s

/-- A write of STEW_CTL. -/
def State.stewCtl (s : State) (v : Word) : State :=
  let s := s.set Reg.STEW_CTL.RT_CLASS (Reg.STEW_CTL.RT_CLASS.of v) |>.set Reg.STEW_CTL.RT_UNIT (Reg.STEW_CTL.RT_UNIT.of v)
  let s := if v.getLsbD 31 then s.skimDue else s
  if v.getLsbD 30 then s.retest (s.get Reg.STEW_CTL.RT_CLASS) (s.get Reg.STEW_CTL.RT_UNIT) else s

/-! ### Die temperature (R390) -/

/-- The largest of the sensor readings, in units of 1/128 °C, with the lowest sensor that gives it. -/
def hottest (ts : List (BitVec 16)) : Option (Int × Nat) :=
  (ts.zipIdx).foldl (fun b e => match b with
    | some (t, i) => if t < e.1.toInt then some (e.1.toInt, e.2) else some (t, i)
    | none => some (e.1.toInt, e.2)) none

/-- A condition's run of samples. -/
def runOf (n : Nat) (on : Bool) : Nat := if on then min 1000 (n + 1) else 0

/-- The device goes to STANDBY because of TCRIT, from whatever it was doing (R390, R411). -/
def State.thermStandby (s : State) : State :=
  if 2 ≤ s.mode && s.pwr.ret.isNone then s
  else s.setPwr { s.pwr with entry := some { mode := modeSTANDBY }, ret := none }

/-- One 1 kHz sample of TS0 to TS5. -/
def State.temperature (s : State) (ts : List (BitVec 16)) : State :=
  match hottest (ts.take 6) with
  | none => s
  | some (t, sensor) =>
    let tj := t / 128
    let s := s.setInt Reg.STEW_THERM.TJ tj |>.set Reg.STEW_THERM.SENSOR sensor
    let s := if s.getInt Reg.STEW_THERM.PEAK < tj then s.setInt Reg.STEW_THERM.PEAK tj else s
    let meets := fun (f : Fld) => decide ((128 * s.get f : Nat) ≤ t)
    let x := { s.stew with
      warm := runOf s.stew.warm (meets Reg.STEW_POL_THERM.TWARN)
      hot := runOf s.stew.hot (meets Reg.STEW_POL_THERM.THOT)
      crit := runOf s.stew.crit (meets Reg.STEW_POL_THERM.TCRIT) }
    let s := s.setStew x
    let meas := BitVec.ofInt 32 t
    let s := if x.warm = 100 then s.flag Reg.STEW_EVT.THERM_WARN else s
    let s := if x.hot = 100 then ((s.errorNow clsTHERMAL sensor meas).flag Reg.STEW_EVT.THERM_HOT).enterSafe causeSTEWARD else s
    let s := if x.crit = 10 then
        let s := (s.errorNow clsTHERMAL sensor meas).flag Reg.STEW_EVT.THERM_CRIT
        (s.setStew { s.stew with critHold := true }).thermStandby
      else s
    if t < 128 * ((s.get Reg.STEW_POL_THERM.THOT : Int) - 10) then s.setStew { s.stew with critHold := false } else s

/-! ### Core health (R391) -/

/-- Core `i` missed ten heartbeats: reset by the other, which reloads it within 5 ms, or held at the second failure within an hour. Without
another core that runs, nobody resets it. -/
def State.heartbeatMiss (s : State) (i : Nat) : State :=
  if s.get Reg.STEW_STAT.CORES != 3 then s
  else
    let again := 1 ≤ s.recurrences clsSTEWARD i msHour
    let s := s.remember clsSTEWARD i
    let s := s.setBitAt Reg.STEW_STAT.CORES i false
    let s := if again then s.setStew { s.stew with held := s.stew.held ||| 2 ^ i } else s.startTimer tmCore
    (s.errorNow clsSTEWARD i 0).flag Reg.STEW_EVT.STEWARD

/-- The core that was reset runs again once it is reloaded. -/
def State.coreMs (s : State) : State :=
  if s.due tmCore 5 then (s.stopTimer tmCore).set Reg.STEW_STAT.CORES (3 - s.stew.held) else s

/-! ### The skim pass and re-planning (R401 to R404) -/

/-- What a pass measured of one PSC channel: switching delay of cells 1 to 3 in units of 0.1 ns, and C1 and C2 as PSC_FCCAP
holds them; the channels without an entry keep their figures. -/
abbrev PscFigures := List (BitVec 16) × BitVec 16 × BitVec 16

/-- Slack of basin `b`: spare basins by the stress sweep, running ones in sense mode; the others are stale. -/
def State.sweep (s : State) (slack : List (BitVec 8)) (b : Nat) : State :=
  let v := min 250 ((slack.getD b 250).toNat)
  let spare := (s.basinState b == bsRESERVE || s.basinState b == bsFREE)
  let put := fun (s : State) (stress : Bool) => s.set (Reg.STEW_SLACK.STALE b) 0 |>.set (Reg.STEW_SLACK.STRESS b) (b2n stress) |>.set (Reg.STEW_SLACK.PS b) v
  if spare && s.stressable then put s true
  else if s.basinState b = bsRUNNING && s.mode != modeSTANDBY then put s false
  else s.set (Reg.STEW_SLACK.STALE b) 1

/-- The worst slack over the basins swept. -/
def State.worstSlack (s : State) : Nat :=
  (List.range 10).foldl (fun m b => if s.bit (Reg.STEW_SLACK.STALE b) then m else min m (s.get (Reg.STEW_SLACK.PS b))) 250

/-- The next multiple of `n` at or above `x`. -/
def roundUpTo (n x : Int) : Int := -((-x) / n) * n

/-- VDD_FAB of R402 from the worst slack: rounded up to 5 mV, limited to 650 to 850 mV, a fall limited to 10 mV. -/
def plannedVfab (now slackMin worst slope : Nat) : Nat :=
  if slope = 0 then now
  else
    let exact : Int := (now : Int) * slope + ((slackMin : Int) - worst) * 100
    let v := clampInt 650 850 (roundUpTo (5 * slope) exact / slope)
    (max v ((now : Int) - 10)).toNat

/-- VDD_FAB is planned and written to the regulator when adaptive control is in use. -/
def State.planVfab (s : State) : State :=
  let v := plannedVfab (s.get Reg.STEW_VFAB.SETPOINT) (s.get Reg.STEW_POL_MARGIN.SLACK_MIN) s.worstSlack (s.get Reg.STEW_VFAB.SLOPE)
  (s.set Reg.STEW_VFAB.TARGET v).setStew { s.stew with vfab := if v = s.get Reg.STEW_VFAB.SETPOINT then s.stew.vfab else some v }

/-- A TC field that the stewards stage under R14 (R403). -/
def State.stewStage (s : State) (f : Fld) (v : Nat) : State := if s.view f = v then s else s.enterStaging true f.addr f.mask (f.put 0 v)

/-- Dead time in 0.5 ns units for a delay in 0.1 ns units (R402). -/
def plannedDead (delay guard : Nat) : Nat := clampNat 4 160 ((delay + 5 * guard + 4) / 5)

/-- The dead time of one cell, applied when it changes by at least 1 ns. -/
def State.planDead (s : State) (f : Fld) (delay : Nat) : State :=
  let n := plannedDead delay (s.get Reg.STEW_POL_MARGIN.DT_GUARD)
  let old := clampNat 4 160 (s.get f)
  if n + 2 ≤ old ∨ old + 2 ≤ n then s.stewStage f n else s

/-- The first capacitances of a channel: from the ledger, or from a record that waits for it. -/
def State.fcBase (s : State) (k : Nat) : Option (Nat × Nat) :=
  match (s.ledger.filter fun r => recType r == rtFCBASE && byteAt (recData r) 0 == k).head? with
  | some r => some (leAt (recData r) 1 2, leAt (recData r) 3 2)
  | none => match s.stew.records.find? fun r => r.ty == rtFCBASE && byteAt r.data 0 == k with
    | some r => some (leAt r.data 1 2, leAt r.data 3 2)
    | none => none

/-- The smaller of the two ratios C / C_0, at most 1, as a fraction; a base of 0 gives 1. -/
def capRatio (c base : Nat × Nat) : Nat × Nat :=
  let r := fun (a b : Nat) => if b = 0 ∨ b ≤ a then ((1, 1) : Nat × Nat) else (a, b)
  let x := r c.1 base.1
  let y := r c.2 base.2
  if x.1 * y.2 ≤ y.1 * x.2 then x else y

/-- LIM_0 of a channel (R402): as the last full image left it; before one, what is in effect. -/
def State.limBase (s : State) (k : Nat) : Nat := match tabGet (fun _ => 0) s.stew.lim0 k with
  | 0 => s.get (Reg.PSC_ILIM.LIM k)
  | n => n

/-- The re-plan of channel `k` from its figures (R402). -/
def State.planPsc (s : State) (k : Nat) (x : PscFigures) : State :=
  let c := (x.2.1.toNat, x.2.2.toNat)
  let s := if (s.fcBase k).isNone then s.note rtFCBASE (leBytes 1 k ++ leBytes 2 c.1 ++ leBytes 2 c.2) else s
  let r := capRatio c ((s.fcBase k).getD c)
  let s := ((s.planDead (Reg.PSC_DEADT.CELL1 k) (x.1.getD 0 0).toNat).planDead (Reg.PSC_DEADT.CELL2 k) (x.1.getD 1 0).toNat).planDead
    (Reg.PSC_DEADT.CELL3 k) (x.1.getD 2 0).toNat
  let lim := s.limBase k
  let floor := (lim * s.get Reg.STEW_POL_MARGIN.LIM_FLOOR + 99) / 100
  let s := s.stewStage (Reg.PSC_ILIM.LIM k) (max floor (roundDiv (lim * r.1 : Nat) r.2).toNat)
  let freq := s.get (Reg.PSC_CTL.FREQ k)
  let s := if r.1 * 10 < r.2 * 7 && s.bit Reg.STEW_POL_GEN.FREQ_UP && freq != 2 then s.stewStage (Reg.PSC_CTL.FREQ k) (if freq = 1 then 2 else 1) else s
  (s.stewStage (Reg.PSC_FCCAP.C1 k) c.1).stewStage (Reg.PSC_FCCAP.C2 k) c.2

/-- The gauge recalibrates every GCAL_D days, or half that while an offset moved more than 8 codes since the last pass. -/
def State.planGauge (s : State) : State :=
  let a := s.getInt Reg.GAUGE_GA_CAL.OFS
  let b := s.getInt Reg.GAUGE_GB_CAL.OFS
  let moved := 128 < (a - s.stew.ofsA).natAbs || 128 < (b - s.stew.ofsB).natAbs
  let days := s.stew.gaugeDays + 1
  let s := s.setStew { s.stew with ofsA := a, ofsB := b, gaugeDays := days }
  if s.get Reg.STEW_POL_MARGIN.GCAL_D ≤ (if moved then 2 * days else days) then (s.setStew { s.stew with gaugeDays := 0 }).gaugeCalibrate 3 else s

/-- RECAL_DUE: an input's gain correction has moved more than 0.02 dB since its last CONV_CAL. -/
def State.planInputs (s : State) : State :=
  s.flagIf ((List.range 16).any fun k =>
    20 < (s.getInt (Reg.AIN_CH_MATCH.GCORR k) - sext 16 (tabGet (fun _ => 0) s.stew.gcorr k)).natAbs) Reg.STEW_EVT.RECAL_DUE

/-! ### The remaining margin (R404) -/

/-- t^(k/100) in units of 2^-32, rounded down. -/
def powHundredth (t k : Nat) : Nat := rootDown 100 (t ^ k * 2 ^ 3200) 64 0

/-- y^(100/k) for y in units of 2^-32, rounded down; 0 for k = 0. -/
def powInverse (y k : Nat) : Nat := if k = 0 then 0 else rootDown k (y ^ 100 / 2 ^ 3200) 48 0

/-- The time in minutes at which the least-squares fit S_a − A·t^n through the points (minutes, slack in 0.01 ps) comes down to
`goal`; none when the slack does not fall. -/
def marginTime (points : List (Nat × Int)) (k : Nat) (goal : Int) : Option Nat :=
  let xs := points.map fun p => ((powHundredth p.1 k : Int), p.2)
  let n : Int := xs.length
  let sx := xs.foldl (fun a p => a + p.1) 0
  let sy := xs.foldl (fun a p => a + p.2) 0
  let sxx := xs.foldl (fun a p => a + p.1 * p.1) 0
  let sxy := xs.foldl (fun a p => a + p.1 * p.2) 0
  let den := n * sxx - sx * sx
  let num := sx * sy - n * sxy
  if den = 0 ∨ num ≤ 0 then none
  else
    let y := (sy * den + num * sx - goal * n * den).fdiv (n * num)
    some (powInverse y.toNat k)

/-- A MARGIN record as a point: minutes, and slack referred to 850 mV in 0.01 ps. -/
def marginPoint (slope minutes : Nat) (d : List Byte) : Nat × Int :=
  (minutes, (100 * leAt d 2 2 : Nat) + (850 - (leAt d 0 2 : Int)) * slope)

/-- Every MARGIN record, the waiting ones included. -/
def State.marginPoints (s : State) : List (Nat × Int) :=
  let slope := s.get Reg.STEW_VFAB.SLOPE
  (s.ledger.filter fun r => recType r == rtMARGIN).map (fun r => marginPoint slope (recMinutes r) (recData r)) ++
    (s.stew.records.filter fun r => r.ty == rtMARGIN).map fun r => marginPoint slope r.minutes r.data

/-- Remaining powered hours with the present point added, and whether fewer than two points stand (R404). -/
def State.margin (s : State) (now : Nat × Int) : Nat × Bool :=
  let ps := s.marginPoints ++ [now]
  if ps.length < 2 then (1048575, true)
  else match marginTime ps (s.get Reg.STEW_MARGIN.EXP) (100 * s.get Reg.STEW_POL_MARGIN.SLACK_MIN : Nat) with
    | none => (1048575, false)
    | some t => (min 1048575 ((t - now.1) / 60), false)

/-- Step 6: the MARGIN record and what it says. -/
def State.recordMargin (s : State) : State :=
  let v := s.get Reg.STEW_VFAB.SETPOINT
  let w := s.worstSlack
  let now := marginPoint (s.get Reg.STEW_VFAB.SLOPE) (s.get Reg.STEW_MINUTES.MIN) (leBytes 2 v ++ leBytes 2 w)
  let m := s.margin now
  let s := (s.note rtMARGIN (leBytes 2 v ++ leBytes 2 w ++ leBytes 4 m.1)).set Reg.STEW_MARGIN.HOURS m.1 |>.set Reg.STEW_MARGIN.STALE (b2n m.2)
  s.flagIf (m.1 < s.get Reg.STEW_POL_WARN.MARGIN_WARN) Reg.STEW_EVT.MARGIN_LOW

/-- A running skim pass ends, with what it measured: degradations in ppm, slack by basin in ps, figures by channel. -/
def State.skimPass (s : State) (am : List (BitVec 16)) (slack : List (BitVec 8)) (figures : List (Option PscFigures)) : State :=
  if s.get Reg.STEW_STAT.SKIM != skRUNNING || !s.due tmSkim 110 then s
  else
    let s := (List.range 16).foldl (fun (s : State) n => s.set (Reg.STEW_AM.DEGR n) (am.getD n 0).toNat) s
    let s := (List.range 10).foldl (fun (s : State) b => s.sweep slack b) s
    let s := s.recordMargin.planVfab
    let s := (List.range 8).foldl (fun (s : State) k => match figures.getD k none with
      | some x => s.planPsc k x
      | none => s) s
    let s := s.planGauge.planInputs
    ((s.setStew { s.stew with msSkim := 0, gxOff := false }).skimStop 0).flag Reg.STEW_EVT.SKIM_DONE

/-! ### MARGIN_COMMIT (R403) -/

/-- The buffer holds the stewards' values alone, and no commit is armed or waits. -/
def State.onlyStewards (s : State) : Bool :=
  s.bit Reg.STEW_POL_GEN.MARGIN_COMMIT && !s.tick.staged.isEmpty && s.tick.staged.all (fun e => e.2.stew == e.2.mask) && !s.armed && !s.goPending

/-- The second of R403 runs while that holds. -/
def State.watchMargin (s : State) : State :=
  if s.onlyStewards then if s.timerOn tmMargin then s else s.startTimer tmMargin
  else if s.timerOn tmMargin then s.stopTimer tmMargin else s

/-- The stewards write GO. -/
def State.marginCommit (s : State) (cyc : Nat) : State := if s.onlyStewards && s.due tmMargin 1000 then (s.stopTimer tmMargin).commitGo cyc else s

/-! ### VDD_FAB (R405, R422) -/

/-- VOUT_COMMAND for a setpoint of `v` mV with the exponent N of a VOUT_MODE byte: round(V × 2^−N). -/
def voutCommand (m : BitVec 8) (v : Nat) : Nat :=
  let n := sext 5 (m.toNat % 32)
  (if n < 0 then roundDiv (v * 2 ^ n.natAbs : Nat) 1000 else roundDiv v (1000 * 2 ^ n.natAbs)).toNat % 65536

/-- What a setpoint's transfer writes: the PMBus command codes with their data bytes. -/
def State.vfabBytes (s : State) (m : BitVec 8) (v : Nat) : List (List Byte) :=
  let page := s.get Reg.PWRM_VFAB_CFG.PAGE
  (if page = 0xFF then [] else [leBytes 1 0x00 ++ leBytes 1 page]) ++
    (if m.toNat / 32 = 0 then [leBytes 1 0x21 ++ leBytes 2 (voutCommand m v)] else [])

/-- A setpoint is in effect 1 ms after its write (R422); a re-planned one is recorded (R403). -/
def State.vfabMs (s : State) : State :=
  match s.stew.vset with
  | none => s
  | some v =>
    if !s.due tmVset 1 then s
    else
      let s := ((s.setStew { s.stew with vset := none }).stopTimer tmVset).set Reg.STEW_VFAB.SETPOINT v
      if s.pwr.startUp != 0 then s
      else (s.flag Reg.STEW_EVT.PLAN).note rtPLAN (leBytes 4 Reg.STEW_VFAB.word.addr ++ leBytes 4 (s.word Reg.STEW_VFAB.word.addr).toNat)

/-- A setpoint written to the regulator: VOUT_MODE as read (none: NACK), STATUS_WORD and READ_VOUT. -/
def State.vfabWrite (s : State) (vout : Option (BitVec 8)) (status : BitVec 16) (mv : Nat) : State :=
  match s.stew.vfab with
  | none => s
  | some v =>
    if !s.bit Reg.PWRM_VFAB_CFG.EN || s.bit Reg.PWRM_VFAB_STAT.ABSENT then s
    else match vout with
      | none =>
        if s.pwr.startUp != 0 then (s.set Reg.PWRM_VFAB_STAT.ABSENT 1).setStew { s.stew with vfab := none }
        else ((s.errorNow clsTWC (s.get Reg.PWRM_VFAB_CFG.ADDR) (s.word Reg.HOST_TWC_STAT.word.addr)).flag Reg.PWRM_EVT.VFAB_ERR).startTimer tmVfab
      | some m =>
        let s := (s.stopTimer tmVfab).setStew { s.stew with vsent := s.vfabBytes m v }
        if m.toNat / 32 != 0 || status.getLsbD 15 then (s.setStew { s.stew with vfab := none }).flag Reg.PWRM_EVT.VFAB_ERR
        else ((s.setStew { s.stew with vfab := none, vset := some v }).startTimer tmVset).set Reg.PWRM_VFAB_STAT.MV mv

/-! ### Commands -/

/-- TARGETED_TEST (R384). -/
def execTargetedTest (cls : Fin 16) (unit : BitVec 8) (first : Fin 2) (s : State) : Host.Outcome State Fault Refusal :=
  .next (if s.domOn .sys then s.targetedTest cls unit.toNat first else s)

/-- TEST_CLASSIFICATION (R384). -/
def execTestClassification (cls : Fin 16) (unit : BitVec 8) (pass : Bool) (meas : Word) (differs : Bool) (s : State) : Host.Outcome State Fault Refusal :=
  .next (if s.domOn .sys then s.testEnd cls unit.toNat pass meas differs else s)

/-- RELOCK_ATTEMPT (R55): a full band search after a loss. -/
def execRelockAttempt (p : Fin 4) (s : State) : Host.Outcome State Fault Refusal := .next (s.relockAttempt p)

/-- DIE_TEMPERATURE_SAMPLE (R390): TS0 to TS5 in units of 1/128 °C. -/
def execDieTemperatureSample (ts : List (BitVec 16)) (s : State) : Host.Outcome State Fault Refusal := .next (if s.domOn .sys then s.temperature ts else s)

/-- HEARTBEAT_MISS (R391). -/
def execHeartbeatMiss (core : Fin 2) (s : State) : Host.Outcome State Fault Refusal := .next (if s.domOn .sys then s.heartbeatMiss core else s)

/-- HOURS_TIMER (R397): every 4 powered hours. -/
def execHoursTimer (s : State) : Host.Outcome State Fault Refusal :=
  .next (if s.domOn .sys && decide (4 * msHour ≤ s.stew.msHours) then (s.setStew { s.stew with msHours := s.stew.msHours - 4 * msHour }).note rtHOURS [] else s)

/-- SKIM_PASS (R401, R402). -/
def execSkimPass (am : List (BitVec 16)) (slack : List (BitVec 8)) (figures : List (Option (List (BitVec 16) × BitVec 16 × BitVec 16))) (s : State) :
    Host.Outcome State Fault Refusal := .next (if s.domOn .sys then s.skimPass am slack figures else s)

/-- SKIM (R401): a write of STEW_CTL.SKIM. -/
def execSkim (s : State) : Host.Outcome State Fault Refusal :=
  .next (s.byRow ((s.stewCtl ((s.word Reg.STEW_CTL.word.addr) ||| 0x80000000)).onBus 0 .done))

/-- RETEST (R384): a write of STEW_CTL.RETEST that names class and unit. -/
def execRetest (cls : Fin 16) (unit : BitVec 8) (s : State) : Host.Outcome State Fault Refusal :=
  .next (s.byRow ((s.stewCtl (BitVec.ofNat 32 (0x40000000 + 4096 * cls + unit.toNat))).onBus 0 .done))

/-- MARGIN_COMMIT (R403). -/
def execMarginCommit (cyc : Nat) (s : State) : Host.Outcome State Fault Refusal := .next (s.marginCommit cyc)

end Sys2Proof.Machine
end

