-- ==== Sys2Proof/Machine/Twc.lean ====
section
/-! DEFINITION. The two-wire controller (18_host_ports.md, R350 to R353). The transfers of the cabinet EEPROM are whole
within CAB_EEPROM_READ, and those of a setpoint of VDD_FAB end with VDD_FAB_WRITE. -/

namespace Sys2Proof.Machine

def State.setHost (s : State) (h : HostSt) : State := { s with host := h }

/-- The wait before a retry (R351). -/
abbrev tmTwc : Nat := 0xB00

/-- ERR codes of HOST_TWC_STAT. -/
abbrev twcNACK_ADDR : Nat := 1
abbrev twcSTRETCH_TO : Nat := 5
abbrev twcBUS_STUCK : Nat := 6

/-- ERR, BYTE and BIT of an error. -/
def twcCode : TwcErr → Nat × Nat × Nat
  | .nackAddr => (1, 0, 0)
  | .nackData b => (2, b.toNat, 0)
  | .arbLost b i => (3, b.toNat, i)
  | .arbSr b => (4, b.toNat, 0)
  | .pec b => (7, b.toNat, 0)

/-- An arbitration loss (R352). -/
def twcArb : TwcErr → Bool
  | .arbLost _ _ => true
  | .arbSr _ => true
  | _ => false

/-- An error that R351 retries. -/
def twcRetries : TwcErr → Bool
  | .pec _ => false
  | _ => true

/-- HOST_TWC_STAT records an error (R351). -/
def State.twcRecord (s : State) (err byte bit addr : Nat) : State :=
  s.setWord Reg.HOST_TWC_STAT.word.addr (Reg.HOST_TWC_STAT.ERR.put (Reg.HOST_TWC_STAT.BYTE.put (Reg.HOST_TWC_STAT.BIT.put
    (Reg.HOST_TWC_STAT.ADDR.put 0 addr) bit) byte) err)

/-- A setpoint waits for its transfer to the regulator (R422), after a failure for a second (R405). -/
def State.vfabWaits (s : State) : Bool :=
  s.stew.vfab.isSome && s.bit Reg.PWRM_VFAB_CFG.EN && !s.bit Reg.PWRM_VFAB_STAT.ABSENT && (!s.timerOn tmVfab || s.due tmVfab 1000)

/-- The transfer to run next: VDD_FAB ahead of the others, those in arrival order (R350); and the queue without it. -/
def State.twcNext (s : State) : Option (TwcWho × List TwcXfer) :=
  if s.vfabWaits then some (.vfab, s.host.twcQueue)
  else match s.host.twcQueue with
    | [] => none
    | x :: xs => some (.host x, xs)

/-- The target address of a transfer. -/
def State.twcAddr (s : State) : TwcWho → Nat
  | .host x => x.addr
  | .vfab => s.get Reg.PWRM_VFAB_CFG.ADDR

/-- Tries in all (R351). -/
def State.twcTries (s : State) : Nat := max 1 (s.get Reg.HOST_TWC_CFG.RETRY)

/-- A transfer is over with an error recorded in HOST_TWC_STAT: it counts in FAIL, and its requester has its error (R353). -/
def State.twcFail (s : State) (w : TwcWho) : State :=
  let s := ((s.setHost { s.host with twcNow := none }).count Reg.HOST_TWC_CNT.FAIL 1).pulse 0x05A false
  match w with
  | .host x => (s.setMbx { s.mbx with twc := s.mbx.twc.erase x.port }).complete x.port 0x0048 stFAULT
      (leBytes 4 (s.word Reg.HOST_TWC_STAT.word.addr).toNat)
  | .vfab => s.vfabWrite none 0 0

/-- A transfer is over, with the bytes read. -/
def State.twcDone (s : State) (w : TwcWho) (data : List Byte) : State :=
  let s := s.setHost { s.host with twcNow := none }
  match w with
  | .host x => (s.setMbx { s.mbx with twc := s.mbx.twc.erase x.port }).complete x.port 0x0048 stOK (padTo x.rlen data)
  | .vfab => s

/-- Try `n` of a transfer ends (R351 to R353). -/
def State.twcTry (s : State) (w : TwcWho) (n : Nat) (fin : TwcEnd) : State :=
  match fin with
  | .ok data => s.twcDone w data
  | .err e =>
    let s := s.twcRecord (twcCode e).1 (twcCode e).2.1 (twcCode e).2.2 (s.twcAddr w)
    let s := if twcArb e then s.count Reg.HOST_TWC_CNT.ARB 1 else s
    if twcRetries e && n < s.twcTries then (s.setHost { s.host with twcNow := some (w, n) }).startTimer tmTwc
    else s.twcFail w

/-- The next transfer makes its first try, unless one is between two tries. -/
def State.twcTransfer (s : State) (fin : TwcEnd) : State :=
  match s.host.twcNow with
  | some _ => s
  | none => match s.twcNext with
    | none => s
    | some (w, q) => (s.setHost { s.host with twcQueue := q }).twcTry w 1 fin

/-- A retry, after a STOP and n × BACKOFF × 100 µs. -/
def State.twcRetry (s : State) (fin : TwcEnd) : State :=
  match s.host.twcNow with
  | some (w, n) => if s.due tmTwc (n * s.get Reg.HOST_TWC_CFG.BACKOFF / 10) then (s.stopTimer tmTwc).twcTry w (n + 1) fin else s
  | none => s

/-- The longest time in ms for which a target may hold SCL low (R353). -/
def State.twcStretchTo (s : State) : Nat := max 1 (s.get Reg.HOST_TWC_CFG.STRETCH_TO)

/-- A target held SCL too long in byte `byte` of the running transfer (R353). -/
def State.twcStretched (s : State) (byte : Nat) : State :=
  match s.host.twcNow with
  | some (w, _) => ((s.stopTimer tmTwc).twcRecord twcSTRETCH_TO byte 0 (s.twcAddr w)).twcFail w
  | none => match s.twcNext with
    | none => s
    | some (w, q) => ((s.setHost { s.host with twcQueue := q }).twcRecord twcSTRETCH_TO byte 0 (s.twcAddr w)).twcFail w

/-- SDA stayed low for 1 ms (R353): the bus is freed and BUS_STUCK recorded. -/
def State.twcStuck (s : State) : State := s.set Reg.HOST_TWC_STAT.ERR twcBUS_STUCK

/-! ### Commands -/

/-- TWC_TRANSFER (R350). -/
def execTwcTransfer (fin : TwcEnd) (s : State) : Host.Outcome State Fault Refusal := .next (if s.domOn .sys then s.twcTransfer fin else s)

/-- TWC_RETRY (R351). -/
def execTwcRetry (fin : TwcEnd) (s : State) : Host.Outcome State Fault Refusal := .next (if s.domOn .sys then s.twcRetry fin else s)

/-- STRETCH_TO (R353). -/
def execStretchTo (seen : StretchSeen) (s : State) : Host.Outcome State Fault Refusal :=
  .next (if s.domOn .sys && decide (s.twcStretchTo < seen.ms) then s.twcStretched seen.byte.toNat else s)

/-- BUS_STUCK (R353). -/
def execBusStuck (s : State) : Host.Outcome State Fault Refusal := .next (if s.domOn .sys then s.twcStuck else s)

/-- VDD_FAB_WRITE (R422): VOUT_MODE as read (none: the address was not acknowledged on any try), STATUS_WORD and the
setpoint that the regulator then gives, in mV. -/
def execVddFabWrite (vout : Option (BitVec 8)) (status : BitVec 16) (mv : BitVec 10) (s : State) : Host.Outcome State Fault Refusal :=
  .next (if s.domOn .sys && s.vfabWaits then
      match vout with
      | none => (s.twcRecord twcNACK_ADDR 0 0 (s.twcAddr .vfab)).twcFail .vfab
      | some _ => s.vfabWrite vout status mv.toNat
    else s)

/-- CAB_EEPROM_READ (R241): at image load and at each entry to LIVE, while PSC_CABSRC.EN is 1; none when the address was
not acknowledged on any try, which is a TWC error too (R353, R383). -/
def execCabEepromRead (rec : Option (List Byte)) (s : State) : Host.Outcome State Fault Refusal :=
  .next (if s.bit Reg.PSC_CABSRC.EN && s.domOn .pst then
      let s := s.cabRead rec
      match rec with
      | some _ => s
      | none =>
        let a := s.get Reg.PSC_CABSRC.ADDR
        let s := (((s.twcRecord twcNACK_ADDR 0 0 a).count Reg.HOST_TWC_CNT.FAIL 1).pulse 0x05A false)
        s.errorNow clsTWC a (s.word Reg.HOST_TWC_STAT.word.addr)
    else s)

end Sys2Proof.Machine
end

