-- ==== Sys2Proof/Machine/Bus.lean ====
section
/-! DEFINITION. The register bus (R5 to R9, R13 to R15, R97): what a granted read or write of a register does, with every
behaviour that the chapters give a register on being read or written. How an access comes to its grant is in Arbiter.lean. -/

namespace Sys2Proof.Machine

/-- The number of the register of a family that lies at an address. -/
def hit (f : Nat → Fld) (n a : Nat) : Option Nat := (List.range n).find? fun i => (f i).addr == a

/-- Writes of the RW and W1C fields of a register (R6). -/
def plainWrite (r : RegRow) (w v : Word) : Word := ((w &&& ~~~r.rw) ||| (v &&& r.rw)) &&& ~~~(v &&& r.w1c)

/-! ### HOST_MBX (R344) -/

/-- A write of HOST_MBX_CTL: DISCARD releases the response; GO passes the bytes written to the engine, or is ignored
while a request is pending. -/
def State.mbxDiscard (s : State) : State :=
  ((s.setHost { s.host with mbxRsp := [], mbxPos := 0 }).set Reg.HOST_MBX_STAT.RESP 0).set Reg.HOST_MBX_STAT.LEN 0
def State.mbxGo (s : State) (len cyc : Nat) : State :=
  if s.bit Reg.HOST_MBX_STAT.BUSY then s.flag Reg.HOST_MBX_STAT.REJECT
  else
    let frame := s.host.mbxTx.take len
    let s := s.mbxDiscard
    (s.enqueue ⟨.hsp, cyc⟩ frame).setHost { s.host with mbxTx := [] }
      |>.set Reg.HOST_MBX_STAT.BUSY 1
def State.mbxCtl (s : State) (v : Word) (cyc : Nat) : State :=
  let s := if v.getLsbD 30 then s.mbxDiscard else s
  if v.getLsbD 31 then s.mbxGo (v.toNat % 8192) cyc else s

/-- A read of HOST_MBX_RX: the next four bytes of the response, 0 past its end. -/
def State.mbxRead (s : State) : Word × State :=
  (BitVec.ofNat 32 (leAt s.host.mbxRsp s.host.mbxPos 4), s.setHost { s.host with mbxPos := min s.host.mbxRsp.length (s.host.mbxPos + 4) })

/-! ### HOST_TWT_CFG (R346) -/

/-- The TWT addresses of the reserved ranges. -/
def twtReserved (x : Nat) : Bool := decide (x < 8 ∨ 0x78 ≤ x)

/-- The window that a 7-bit address chooses under a configuration word, with `pins` the levels of ADDR1 and ADDR0. -/
def twtWindow (cfg : Word) (pins x : Nat) : Option Nat :=
  let base := Reg.HOST_TWT_CFG.BASE.of cfg
  let w := if cfg.getLsbD 31 then
      if (x ^^^ base) &&& (Reg.HOST_TWT_CFG.MASK.of cfg / 4 * 4) = 0 then some (x % 4) else none
    else if base + 4 * pins ≤ x ∧ x < base + 4 * pins + 4 then some (x - base - 4 * pins) else none
  w.filter fun w => cfg.getLsbD (27 + w)

/-- A configuration would place an enabled window at a reserved address. -/
def twtCfgBad (cfg : Word) (pins : Nat) : Bool :=
  (List.range 128).any (fun x => twtReserved x && (twtWindow cfg pins x).isSome) ||
    (!cfg.getLsbD 31 && decide (0x78 ≤ Reg.HOST_TWT_CFG.BASE.of cfg + 4 * pins + 3) &&
      (List.range 4).any fun w => cfg.getLsbD (27 + w) && decide (0x78 ≤ Reg.HOST_TWT_CFG.BASE.of cfg + 4 * pins + w))

/-- A write of HOST_TWT_CFG. -/
def State.twtCfgWrite (s : State) (r : RegRow) (v : Word) : State :=
  let a := Reg.HOST_TWT_CFG.word.addr
  let cfg := plainWrite r (s.word a) v
  if twtCfgBad cfg (s.get Reg.HOST_TWT_STAT.PINS) then s.flag Reg.HOST_TWT_EVT.CFG_ERR else s.setWord a cfg

/-! ### Writes -/

/-- The hand-over channel whose control or state-map register lies at an address; it takes writes only while PENDING. -/
def hoChan (a : Nat) : Option Nat :=
  (List.range 4).find? fun h => (Reg.FAB_HO_CTL.word h).addr == a || (List.range 16).any fun e => (Reg.FAB_HO_SMAP.word h e).addr == a

/-- Registers whose write is their own operation: none for every other register. -/
def State.ownWrite (s : State) (r : RegRow) (a : Nat) (v : Word) (cyc : Nat) : Option State :=
  if a = Reg.DEV_COMMIT.word.addr then some (s.commitWrite v cyc)
  else if a = Reg.DEV_COMMIT_AT_LO.word.addr then some (s.armWrite v cyc)
  else if a = Reg.CLK_PLL_UPD.word.addr then some (s.pllUpdWrite (v.toNat % 16))
  else if a = Reg.FAB_CIS_DATA.word.addr then some (s.cisWrite v)
  else if a = Reg.LSN_PRE_CTL.word.addr then some (s.preCtl v)
  else if a = Reg.HOST_MBX_TX.word.addr then
    some (s.setHost { s.host with mbxTx := (s.host.mbxTx ++ leBytes 4 v.toNat).take 4096 })
  else if a = Reg.HOST_MBX_CTL.word.addr then some (s.mbxCtl v cyc)
  else if a = Reg.HOST_TWT_CFG.word.addr then some (s.twtCfgWrite r v)
  else if a = Reg.IC_CFG.word.addr then some (s.flag Reg.IC_EVT.CFG_IGN)
  else if a = Reg.IC_SWSET.word.addr then some (s.pulse (0xC0 + v.toNat % 64) false)
  else if a = Reg.STEW_CTL.word.addr then some (s.stewCtl v)
  else if a = Reg.PWRM_CTL.word.addr then some (s.pwrmCtl v)
  else if a = Reg.PWRM_RST.word.addr then some (s.pwrmRst v)
  else if a = Reg.SEC_CTL.word.addr then some (s.secCtl v)
  else if a = Reg.SEC_FPROG.word.addr then some (s.fprogWrite v)
  else match hit (Reg.SEC_FDATA.word) 8 a with
  | some _ => some (s.setWord a v)
  | none =>
  match hit Reg.IC_COMPLETE.word 4 a with
  | some t => some (s.completeSource (v.toNat % 256) t)
  | none =>
  match hit Reg.GAUGE_BUF_RD.word 8 a with
  | some n => some ((s.set (Reg.GAUGE_BUF_RD.RD n) (if v.toNat % 65536 < s.bufSize n then v.toNat % 65536 else s.get (Reg.GAUGE_BUF_WR.WR n))).bufMark n)
  | none =>
  match (List.finRange 16).find? fun i => (sapMaskReg (i / 8) (Fin.ofNat 8 i)).addr == a with
  | some i => some (s.sapHoldMask (i / 8) (Fin.ofNat 8 i) v)
  | none =>
  match hit Reg.FAB_B_TMARK.word 10 a with
  | some b => some (if s.bit (Reg.FAB_B_TDESC.VALID b (v.toNat % 32)) then s.setPageDone b (v.toNat % 32) (v.getLsbD 31) true else s)
  | none =>
  match hit Reg.CHAIN_Q_TX.word 2 a with
  | some q => some (s.queueWrite q v)
  | none =>
  match hoChan a with
  | some h => if s.hoState h = hoPENDING then none else some s
  | none => none

/-- GAUGE_CTL follows a write (R322, R324, R325). -/
def State.gaugeCtlWrite (s : State) (v : Word) : State :=
  let a := Reg.GAUGE_CTL.word.addr
  let ref := Reg.GAUGE_CTL.REF.of v
  let s := s.set Reg.GAUGE_CTL.EN_A (Reg.GAUGE_CTL.EN_A.of v) |>.set Reg.GAUGE_CTL.EN_B (Reg.GAUGE_CTL.EN_B.of v)
  let s := s.gaugeShow
  let s := if ref = Reg.GAUGE_CTL.REF.of (s.word a) then s
    else if s.anyPscOn then s.flag Reg.GAUGE_EVT.REF_ERR
    else (s.set Reg.GAUGE_CTL.REF ref).gaugeRefChange
  if v.toNat / 2 ^ 30 = 0 then s else s.gaugeCalibrate (v.toNat / 2 ^ 30)

/-- What a register does once its RW and W1C fields have been written. -/
def State.writeDone (s : State) (a : Nat) (v : Word) : State :=
  if a = Reg.AIN_CALCTL.word.addr then if s.bit Reg.AIN_STAT.NOSUPPLY then s else s.aiCalStart (v.toNat % 65536)
  else if a = Reg.AOUT_CALCTL.word.addr then s.aoCalStart (v.toNat % 65536)
  else if a = Reg.AOUT_CTL.word.addr then (if v.getLsbD 31 then s.clrAck else s).hpFollowAll
  else if a = Reg.HP_DETCFG.word.addr then s.hpFollowAll
  else if a = Reg.GAUGE_EVT.word.addr then s.bufMarkAll
  else if a = Reg.GPIO_DIR.word.addr then s.gpioFollow
  else match hit Reg.CLK_PLL_CTL.word 4 a with
  | some p =>
    let s' := s.bypass p (!s.locked p)
    if p = pllP && !s.bit (Reg.CLK_PLL_STAT.BYPASSED p) && s'.bit (Reg.CLK_PLL_STAT.BYPASSED p) then s'.pscClockErrorAll else s'
  | none =>
  match hit Reg.CLK_PLL_CACHE.word 4 a with
  | some p => if v.getLsbD 31 then s.cacheFlush p else s
  | none =>
  match hit Reg.FAB_HO_CTL.word 4 a with
  | some h => if v.getLsbD 31 then s.handOverCancel h false else s
  | none =>
  match hit Reg.HP_AMP_CTL.word 2 a with
  | some n => if v.getLsbD 31 then s.hpUnlatch n else s
  | none =>
  match hit Reg.PSC_CTL.word 8 a with
  | some k => if v.getLsbD 31 then s.pscUnlatch k else s
  | none =>
  match hit Reg.PSC_DCTEST.word 8 a with
  | some k => if v.getLsbD 31 then s.dcTestRun k else s
  | none =>
  match hit Reg.CHAIN_CP_CTL.word 2 a with
  | some p => if v.getLsbD 31 then s.chainRestart p else s
  | none =>
  match hit Reg.CHAIN_Q_TXCTL.word 2 a with
  | some q => if v.getLsbD 31 then s.queueGo q (v.toNat % 8192) else s
  | none =>
  match hit Reg.GAUGE_INJCTL.word 2 a with
  | some c => if v.getLsbD 30 then s.injTrigger c [] else s
  | none => s

/-- The domain that an access needs: the cistern window works only with FAB. -/
def accessDom (r : RegRow) (a : Nat) : Dom := if a = Reg.FAB_CIS_DATA.word.addr then .fab else r.dom

/-- The registers of target ST, which answer only the stewards (20_interrupts.md, after R382). -/
def stewardOnly (a : Nat) : Bool := decide (0x401C0 ≤ a ∧ a < 0x40200)

/-- The effect of a granted write on every field but the TC ones. -/
def State.writePart (s : State) (r : RegRow) (a : Nat) (v : Word) (cyc : Nat) : State :=
  match s.ownWrite r a v cyc with
  | some t => t
  | none =>
    if a = Reg.GAUGE_CTL.word.addr then s.gaugeCtlWrite v
    else (s.setWord a (plainWrite r (s.word a) v)).writeDone a v

/-- A granted write of a register; it is over, or, with TC fields in the weir, kept whole until the staging buffer reopens (R34, R35). -/
def State.writeReg (s : State) (r : RegRow) (who : Requester) (a : Nat) (v : Word) (cyc : Nat) : State :=
  if stewardOnly a && !isSteward who then s.onBus 0 .done
  else if r.tc != 0 && s.weirPhase cyc then s.tcWrite who a v cyc
  else
    let s := (s.writePart r a v cyc).onBus 0 .done
    if r.tc = 0 then s else s.tcWrite who a v cyc

/-! ### The weir -/

/-- What a write that the weir kept does beside its TC fields. -/
def keptWrite (a : Nat) (v : Word) (s : State) : State :=
  match regRow a with
  | some r => s.writePart r a v 0
  | none => s

/-- WEIR (R23): at the end of every tick's slot period; the samples that outside sources deliver are named by their source
code. Without ticks there is no weir (R17). -/
def execWeir (samples : List (BitVec 12 × Word)) (s : State) : Host.Outcome State Fault Refusal :=
  .next (if s.ticksRun then s.weir (samples.foldl (fun m e => tabPut (fun _ => 0) m e.1.toNat e.2) []) keptWrite else s)

/-! ### Reads -/

/-- DEV_TICK_PHASE at FAB cycle `cyc`. -/
def State.phaseWord (s : State) (cyc : Nat) : Word :=
  BitVec.ofNat 32 (if s.ticksRun then cyc % 16384 + (if s.weirPhase cyc then 2 ^ 31 else 0) else 0)

/-- RX_STAT: the enabled rills in effect, and whether the rate leaves rills 48 to 95 unmoved (R93). -/
def State.exchangeWord (s : State) : Word :=
  BitVec.ofNat 32 ((if 4 ≤ s.rate then 128 else 0) + (List.range 96).countP fun k => s.bit (Reg.RX_ROUTE.EN k))

/-- PSC_SUM: the channels that are LATCHED, and those with an event. -/
def State.pscSumWord (s : State) : Word :=
  BitVec.ofNat 32 ((List.range 8).foldl (fun a k => a + (if s.psState k = psLATCHED then 2 ^ (8 + k) else 0) +
    (if s.word (Reg.PSC_EVT.word k).addr = 0 then 0 else 2 ^ k)) 0)

/-- Registers whose read is their own operation: what they return and what that does. -/
def State.ownRead (s : State) (a cyc : Nat) : Option (Word × State) :=
  if a = Reg.DEV_TICK_LO.word.addr then some (s.readTickLo cyc)
  else if a = Reg.DEV_COMMIT_LAST_LO.word.addr then some s.readLastLo
  else if a = Reg.DEV_TICK_PHASE.word.addr then some (s.phaseWord cyc, s)
  else if a = Reg.FAB_CIS_DATA.word.addr then some s.cisRead
  else if a = Reg.RX_STAT.word.addr then some (s.exchangeWord, s)
  else if a = Reg.PSC_SUM.word.addr then some (s.pscSumWord, s)
  else if a = Reg.LSN_PRE_DATA.word.addr then some s.preRead
  else if a = Reg.HOST_MBX_RX.word.addr then some s.mbxRead
  else match hit Reg.IC_CLAIM.word 4 a with
  | some t => some (s.claim t)
  | none =>
  match hit Reg.IC_RUN.word 4 a with
  | some t => some (s.icRunWord t, s)
  | none =>
  match hit Reg.IC_PEND.word 8 a with
  | some n => some (s.gateMask n fun g => g == .pending, s)
  | none =>
  match hit Reg.IC_ACT.word 8 a with
  | some n => some (s.gateMask n fun g => match g with | .inService _ => true | _ => false, s)
  | none =>
  match hit Reg.CHAIN_Q_RX.word 2 a with
  | some q => some (s.queueRead q)
  | none => none

/-- The bits of a register that a read returns: its WO and reserved bits read as 0 (R6, R7). -/
def readMask (r : RegRow) : Word := r.rw ||| r.ro ||| r.w1c ||| r.tc

/-- The register is the IC_SRCn of a reserved number, which reads 0 (R371). -/
def deadSource (a : Nat) : Bool := decide (0x40404 ≤ a ∧ a < 0x40800) && !knownSource ((a - 0x40400) / 4)

/-- A granted read of a register by the host. -/
def State.readReg (s : State) (r : RegRow) (a cyc : Nat) : State :=
  if stewardOnly a then s.onBus 0 .done
  else match s.ownRead a cyc with
  | some x => State.readDone x
  | none => s.onBus (if deadSource a then 0 else s.word a &&& readMask r) .done

end Sys2Proof.Machine
end

