-- ==== Sys2Proof/Machine/Arbiter.lean ====
section
/-! DEFINITION. The register arbiter (R13 to R15) and what an access meets on its way: a domain that is off, a closed window, a crossing
whose far clock stands still or is being reset (R71, R73 to R76). Accesses that serve a mailbox burst or an HSP frame report back to it. -/

namespace Sys2Proof.Machine

/-! ### The HSP frame's account of its accesses (R339 to R343) -/

/-- Frame `f` has had an error: it is counted once (HOST_HSP_STAT.ERRS). -/
def State.hspCount (s : State) (f : Nat) : State :=
  if s.host.errFrames.elem f then s
  else (s.setHost { s.host with errFrames := f :: s.host.errFrames }).count Reg.HOST_HSP_STAT.ERRS 1

/-- An access of frame `f` was refused: the first since REFUSED was cleared leaves its operation and address. -/
def State.hspRefused (s : State) (f op a : Nat) : State :=
  let s := if s.bit Reg.HOST_HSP_STAT.REFUSED then s
    else s.set Reg.HOST_HSP_ERRADDR.OP op |>.set Reg.HOST_HSP_ERRADDR.ADDR a
  let s := if f = s.host.frames then s.setHost { s.host with errRef := true } else s
  (s.hspCount f).flag Reg.HOST_HSP_STAT.REFUSED

/-- OP, ADDR, FIXED and the burst's length of a command word. -/
def hspOp (c : Word) : Nat := c.toNat / 2 ^ 30
def hspAddr (c : Word) : Nat := c.toNat / 64 % 2 ^ 24
def hspFixed (c : Word) : Bool := c.getLsbD 5
def hspLen (c : Word) : Nat := c.toNat % 32 + 1

/-- The address of word `i` of the burst. -/
def hspWordAddr (c : Word) (i : Nat) : Nat := if hspFixed c then hspAddr c else hspAddr c + 4 * i

/-- The CRC-8 word over some words (R343). -/
def hspCrc (ws : List Word) : Word := BitVec.ofNat 32 (crc8 (ws.map fun w => beBytes 4 w.toNat).flatten)

/-- The status word, the ready word and the data go out, with their CRC where the frame carries one; wait words are left aside. -/
def State.hspAnswer (s : State) (status : Word) (crc : Bool) (data : List Word) : State :=
  s.setHost { s.host with miso := status :: 0xA5 :: data ++ (if crc then [hspCrc (0xA5 :: data)] else []) }

/-- One more word of the read of frame `f` has been fetched. A complete read goes out, where its frame is still the last. -/
def State.hspFetched (s : State) (f : Nat) (v : Word) : State :=
  match s.host.fetch with
  | none => s
  | some h =>
    if h.frame != f then s
    else
      let data := h.data ++ [v]
      if data.length < hspLen h.cmd then s.setHost { s.host with fetch := some { h with data := data } }
      else
        let s := s.setHost { s.host with fetch := none }
        if f = s.host.frames then s.hspAnswer h.status h.crc data else s

/-! ### Mailbox bursts (R367) -/

/-- The worse of two access ends: a timeout before a refusal. -/
def endStatus (st : Nat) (e : BusEnd) : Nat :=
  match e with
  | .timeout => stTIMEOUT
  | .refused => if st = stOK then stFAULT else st
  | _ => st

/-- An access ended as refused, over all its causes. -/
def BusEnd.bad : BusEnd → Bool
  | .refused => true
  | .timeout => true
  | _ => false

/-- A burst has its next access done: a read goes on over refused words, a write stops at the first, whose index it tells. -/
def Burst.took (b : Burst) (e : BusEnd) (data : Word) : Burst :=
  match b.words with
  | none => { b with status := endStatus b.status e, payload := b.payload ++ leBytes 4 data.toNat, next := b.next + 1 }
  | some _ => if e.bad then { b with status := endStatus stOK e, payload := leBytes 2 b.next, next := b.len } else { b with next := b.next + 1 }

/-- Every access of the burst is done. -/
def Burst.over (b : Burst) : Bool := decide (b.len ≤ b.next)

/-! ### The way of an access -/

/-- The requester of an access learns how it ended, as it stands on the bus. -/
def State.got (s : State) (x : Access) : State :=
  match x.serves with
  | .row => s
  | .posted f => if s.bus.last.bad then s.hspRefused f 1 x.addr else s
  | .burst => match s.mbx.burst with
    | some b => s.setMbx { s.mbx with burst := some (b.took s.bus.last s.bus.data) }
    | none => s
  | .fetch f =>
    let v := s.bus.data
    (if s.bus.last.bad then s.hspRefused f 0 x.addr else s).hspFetched f v

/-- FAB_CIS_STAT.BUSY while an access to the cistern window waits (R97). -/
def State.cisBusy (s : State) (x : Access) (b : Bool) : State :=
  if x.addr = Reg.FAB_CIS_DATA.word.addr then s.set Reg.FAB_CIS_STAT.BUSY (b2n b) else s

/-- An access ends as `e` without having taken place, and its requester learns it. -/
def State.turnAway (s : State) (x : Access) (e : BusEnd) : State := ((s.cisBusy x false).onBus 0 e).got x

/-- The access takes place. -/
def State.perform (s : State) (x : Access) : State :=
  match regRow x.addr with
  | none => s.rawAccess x.addr x.write
  | some r => match x.write with
    | none => s.readReg r x.addr x.cyc
    | some v => match x.part with
      | .whole => s.writeReg r x.who x.addr v x.cyc
      | .rest => (s.writePart r x.addr v x.cyc).onBus 0 .done
      | .act => (s.writeDone x.addr v).onBus 0 .done

/-- The domain that an access needs; the raw windows lie in FAB. -/
def Access.dom (x : Access) : Dom :=
  match regRow x.addr with
  | some r => accessDom r x.addr
  | none => .fab

/-- The access goes into the FIFO of crossing `n`; where the crossing takes no words, it is held before it (R71, R76). Work for a gated
domain makes a wake request (R75). -/
def State.waitAt (s : State) (n : Nat) (x : Access) : State :=
  let q := s.xingSt n
  let s := if s.xingOpen n && !s.xingFull n then
      (s.set (Reg.XING_STAT.WAKE_PEND n) (b2n (s.bit (Reg.XING_STAT.WAKE_PEND n) || s.isGated x.dom))).setXing n
        { q with words := q.words ++ [.access x] }
    else s.setXing n { q with held := q.held ++ [x] }
  (s.cisBusy x true).onBus 0 .waits

/-- The TC fields of a write that waits stage in SYS at once; the rest of the word waits (R32). -/
def State.stageFirst (s : State) (x : Access) : State × Access :=
  match regRow x.addr, x.write, x.part with
  | some r, some v, .whole => if r.tc = 0 then (s, x) else (s.tcWrite x.who x.addr v x.cyc, { x with part := .rest })
  | _, _, _ => (s, x)

/-- An access crosses to its domain: at once where the crossing is open, its FIFO empty and the far clock running, else it waits. -/
def State.cross (s : State) (x : Access) : State :=
  match xingOfDom x.dom with
  | none => s.perform x
  | some n =>
    if s.xingOpen n && s.farRuns x.dom && (s.xingSt n).words.isEmpty then ((s.ungate x.dom).cisBusy x false).perform x
    else (s.stageFirst x).1.waitAt n (s.stageFirst x).2

/-- Something of the access lies in the register's own domain: TC values are kept in SYS and cross nothing (R6, R32). -/
def Access.leavesSys (x : Access) (r : RegRow) : Bool :=
  match x.write with
  | none => (readMask r &&& ~~~r.tc) != 0
  | some v => r.tc == 0 || r.rw != 0 || v &&& (r.wo ||| r.w1c) != 0

/-- An access is granted: refused where SYS or its domain is off (R15) or the field lock closes its window (R9), over at once at an unassigned
address (R8), else done in SYS or across its crossing. -/
def State.grant (s : State) (x : Access) : State :=
  if !s.domOn .sys || x.addr % 4 != 0 then s.onBus 0 .refused
  else if 0x400000 ≤ x.addr ∧ x.addr < 0x600000 then
    if s.fieldLocked then (s.flag Reg.SEC_EVT.DENIED).onBus 0 .refused
    else if !s.domOn .fab then s.onBus 0 .refused
    else s.cross x
  else match regRow x.addr with
    | none => s.onBus 0 .done
    | some r =>
      if !s.domOn (accessDom r x.addr) then s.onBus 0 .refused
      else if x.leavesSys r then s.cross x
      else s.perform x

/-- An access is granted, and its requester learns how it ended unless it waits. -/
def State.grantTo (s : State) (x : Access) : State :=
  let s := (s.grant x)
  if s.bus.last = .waits then s else s.got x

/-! ### Words on the far side -/

/-- The far side of crossing `n` reads the words in its FIFO, oldest first, and then those that back-pressure held (R71, R77). A word whose
clock still stands goes back, and those behind it with it. -/
def State.drainXing (s : State) (n : Nat) : State :=
  let q := s.xingSt n
  let s := (s.setXing n {}).set (Reg.XING_STAT.WAKE_PEND n) 0
  (q.words ++ q.held.map XingWord.access).foldl (fun (s : State) w => match w with
    | .access x =>
      let s := s.cross x
      if s.bus.last = .waits then s else s.got x
    | .gauge r => s.deliverResult r) s

/-! ### The arbiter (R13) -/

/-- The next requester in turn. -/
def nextTurn : Requester → Requester
  | .hsp => .mailbox
  | .mailbox => .s0
  | .s0 => .s1
  | .s1 => .hsp

/-- An access of requester `w` waits on a crossing, or has ended and `w` does not know it yet: `w` is held (R15). -/
def State.isHeld (s : State) (w : Requester) : Bool :=
  s.bus.ended.any (fun x => x.who == w) ||
    s.xing.any fun e => (accessesOf e.2.words).any (fun x => x.who == w) || e.2.held.any fun x => x.who == w

/-- One posted word is granted (R13, R340). -/
def State.postedWrite (s : State) (cyc : Nat) : State :=
  match s.host.posted with
  | [] => s
  | p :: rest =>
    let s := s.setHost { s.host with posted := rest }
    if p.ram then s.setRamWord p.addr p.value
    else s.grantTo { who := .hsp, addr := p.addr, write := some p.value, cyc := cyc, serves := .posted p.frame }

/-- The next word of the read of frame `h.frame` is fetched: a word of SYS RAM needs no grant. -/
def State.fetchWord (s : State) (h : HspFetch) : State :=
  let a := hspWordAddr h.cmd h.data.length
  if hspOp h.cmd = 2 then s.hspFetched h.frame (s.ramWord a)
  else s.grantTo { who := .hsp, addr := a, write := none, cyc := h.cyc, serves := .fetch h.frame }

/-- The next access of a burst. -/
def Burst.access (b : Burst) : Access :=
  { who := .mailbox, addr := b.addr + 4 * b.next, write := b.words.map fun ws => ws.getD b.next 0, cyc := b.sender.cyc, serves := .burst }

/-- Requester `w` has an access to be granted: one that waited behind another of its own, the next of a burst, or the next of an HSP read,
before which every posted write is done (R341). While another requester's accesses run, posted words take their turns too. -/
def State.owes (s : State) (w : Requester) : Bool :=
  !s.isHeld w && (s.bus.wait.any (fun x => x.who == w) ||
    match w with
    | .mailbox => match s.mbx.burst with
      | some b => !b.over
      | none => false
    | .hsp => s.host.fetch.isSome || (s.mbx.burst.isSome && !s.host.posted.isEmpty)
    | _ => false)

/-- Requester `w` has its turn. -/
def State.turnOf (s : State) (w : Requester) : State :=
  let s := { s with bus := { s.bus with turn := w } }
  match s.bus.wait.find? fun x => x.who == w with
  | some x => ({ s with bus := { s.bus with wait := s.bus.wait.erase x } }).grantTo x
  | none => match w with
    | .mailbox => match s.mbx.burst with
      | some b => if b.over then s else s.grantTo b.access
      | none => s
    | .hsp => match s.host.fetch with
      | some h => if s.host.posted.isEmpty then s.fetchWord h else s.postedWrite h.cyc
      | none => s.postedWrite (match s.mbx.burst with
        | some b => b.sender.cyc
        | none => 0)
    | _ => s

/-- The arbiter grants one access after another, round robin after the requester granted last. -/
def State.arbRun : Nat → State → State
  | 0, s => s
  | n + 1, s =>
    let w := s.bus.turn
    match [nextTurn w, nextTurn (nextTurn w), nextTurn (nextTurn (nextTurn w)), w].find? s.owes with
    | some w => (s.turnOf w).arbRun n
    | none => s

/-- Accesses that are still to be granted. -/
def State.arbLeft (s : State) : Nat :=
  s.bus.wait.length + s.host.posted.length + (match s.mbx.burst with
    | some b => b.len
    | none => 0) + (match s.host.fetch with
    | some h => hspLen h.cmd
    | none => 0)

/-- Requesters whose access a reset ended are told (R76), and what is to be granted is. -/
def State.arbiter (s : State) : State :=
  let xs := s.bus.ended
  let s := xs.foldl (fun (s : State) x => s.turnAway x .refused) { s with bus := { s.bus with ended := [] } }
  s.arbRun s.arbLeft

/-- An access by the command of its own row: granted, or waiting behind an access of its requester that waits. -/
def State.access (s : State) (x : Access) : State :=
  if s.isHeld x.who || s.bus.wait.any fun y => y.who == x.who then
    ({ s with bus := { s.bus with wait := s.bus.wait ++ [x] } }).onBus 0 .waits
  else ({ s with bus := { s.bus with turn := x.who } }).grantTo x

/-! ### Timeouts and resynchronisation (R73, R74, R77) -/

/-- The far clock of crossing `n` is declared silent (R74): everything in it is discarded and counted with `waiting` pulses, and the accesses
among it end as refused by the timeout. -/
def State.xingTimeout (s : State) (n waiting : Nat) (wake : Bool) : State :=
  let q := s.xingSt n
  let s := (s.xingLog n (waiting + q.words.length) (wake || s.bit (Reg.XING_STAT.WAKE_PEND n))) |>.set (Reg.XING_STAT.SILENT n) 1
    |>.set (Reg.XING_STAT.RDY n) 0 |>.set (Reg.XING_STAT.WAKE_PEND n) 0
  (accessesOf q.words).foldl (fun (s : State) x => s.turnAway x .timeout) (s.setXing n { q with words := [] })

/-- One further timeout of a silent crossing refuses the access it holds longest (R74 step 5). -/
def State.xingHeldTimeout (s : State) (n : Nat) (wake : Bool) : State :=
  let q := s.xingSt n
  match q.held with
  | [] => s
  | x :: rest => ((s.xingLog n 1 wake).setXing n { q with held := rest }).turnAway x .timeout

/-- A timeout of crossing `n` runs out, with `waiting` pulses beside the words the model holds (R73, R74): nothing where nothing waits, while RDY
is low after a reset (R78), or where both clocks run. -/
def State.xingExpire (s : State) (n waiting : Nat) (wake : Bool) : State :=
  let q := s.xingSt n
  if s.xingSure n || !s.xingPowered n then s
  else if s.bit (Reg.XING_STAT.SILENT n) then s.xingHeldTimeout n wake
  else if s.bit (Reg.XING_STAT.RDY n) && decide (0 < waiting + q.words.length + q.held.length) then s.xingTimeout n waiting wake
  else s

/-- The pointers of crossing `n` are resynchronised (R77): with both sides powered and clocked RDY rises, SILENT clears and data flows. -/
def State.resync (s : State) (n : Nat) : State :=
  if s.xingPowered n && s.xingClocked n then (s.set (Reg.XING_STAT.RDY n) 1 |>.set (Reg.XING_STAT.SILENT n) 0).drainXing n else s

/-- What a millisecond does at crossing `n`, whose waits are far shorter: a resynchronisation that can complete does, words move on, and what
waits on a clock that stands still times out, where SYS counts at its full rate. Clocks that come from outside are left to the commands. -/
def State.xingMs (s : State) (n : Nat) : State :=
  if (xingRow n).src.outside || (xingRow n).dst.outside then s
  else if s.xingClocked n then
    if s.bit (Reg.XING_STAT.RDY n) then
      if (s.xingSt n).words.isEmpty && (s.xingSt n).held.isEmpty then s else s.drainXing n
    else s.resync n
  else if s.locked pllS then s.xingExpire n 0 false
  else s

/-! ### Commands -/

/-- XING_TIMEOUT (R74, R75): `waiting` pulses wait in the crossing; `wake` when the wait was on a wake request. -/
def execXingTimeout (n : Fin 28) (waiting : Nat) (wake : Bool) (s : State) : Host.Outcome State Fault Refusal :=
  .next (s.xingExpire n waiting wake).arbiter

/-- POINTER_RESYNC (R77). -/
def execPointerResync (n : Fin 28) (s : State) : Host.Outcome State Fault Refusal := .next (s.resync n).arbiter

/-- CISTERN_TURN (R98): frame position `f`, and the jet whose turn it is where the position is a basin's; the host's access in position 12. -/
def execCisternTurn (f : Fin 16) (j : Fin 4) (s : State) : Host.Outcome State Fault Refusal :=
  .next (if !s.fabClock then s else if f.val < 10 then s.serveFront f j else if f.val = 12 then (s.drainXing 2).arbiter else s)

/-- FAB_CIS_DATA_READ (R97). -/
def execFabCisDataRead (s : State) : Host.Outcome State Fault Refusal :=
  .next (s.access { who := .hsp, addr := Reg.FAB_CIS_DATA.word.addr, write := none })

/-- FAB_CIS_DATA_WRITE (R97). -/
def execFabCisDataWrite (v : Word) (s : State) : Host.Outcome State Fault Refusal :=
  .next (s.access { who := .hsp, addr := Reg.FAB_CIS_DATA.word.addr, write := some v })

/-- RAW_WINDOW_ACCESS (R9); an address outside the raw windows is no such access. -/
def execRawWindowAccess (a : BitVec 24) (write : Option Word) (s : State) : Host.Outcome State Fault Refusal :=
  .next (if 0x400000 ≤ a.toNat ∧ a.toNat < 0x600000 then s.access { who := .hsp, addr := a.toNat, write := write } else s)

/-- FAB_HO_CANCEL (R157), a write of FAB_HOh_CTL. -/
def execFabHoCancel (h : Fin 4) (s : State) : Host.Outcome State Fault Refusal :=
  .next (s.access { who := .hsp, addr := (Reg.FAB_HO_CTL.word h).addr, write := some 0x80000000, part := .act })

/-- FAB_BB_TMARK_WRITE (R158): a write naming an undefined table is ignored. -/
def execFabBbTmarkWrite (b : Fin 10) (t : Fin 32) (pageB : Bool) (s : State) : Host.Outcome State Fault Refusal :=
  .next (s.access { who := .hsp, addr := (Reg.FAB_B_TMARK.word b).addr, write := some (BitVec.ofNat 32 (2 ^ 31 * b2n pageB + t)) })

/-- AIN_CALCTL_WRITE (R177). -/
def execAinCalctlWrite (mask : BitVec 16) (s : State) : Host.Outcome State Fault Refusal :=
  .next (s.access { who := .hsp, addr := Reg.AIN_CALCTL.word.addr, write := some (mask.setWidth 32) })

/-- AOUT_CALCTL_WRITE (R193). -/
def execAoutCalctlWrite (mask : BitVec 16) (s : State) : Host.Outcome State Fault Refusal :=
  .next (s.access { who := .hsp, addr := Reg.AOUT_CALCTL.word.addr, write := some (mask.setWidth 32) })

/-- CLRACK (R189), a write of AOUT_CTL. -/
def execClrack (s : State) : Host.Outcome State Fault Refusal :=
  .next (s.access { who := .hsp, addr := Reg.AOUT_CTL.word.addr, write := some 0x80000000, part := .act })

/-- HP_UNLATCH (R200), a write of HP_AMPn_CTL. -/
def execHpUnlatch (n : Fin 2) (s : State) : Host.Outcome State Fault Refusal :=
  .next (s.access { who := .hsp, addr := (Reg.HP_AMP_CTL.word n).addr, write := some 0x80000000, part := .act })

/-- PSC_UNLATCH (R225), a write of PSC_CTL. -/
def execPscUnlatch (k : Fin 8) (s : State) : Host.Outcome State Fault Refusal :=
  .next (s.access { who := .hsp, addr := (Reg.PSC_CTL.word k).addr, write := some 0x80000000, part := .act })

/-- PSC_DCTEST_RUN (R235), a write of PSC_DCTEST. -/
def execPscDctestRun (k : Fin 8) (s : State) : Host.Outcome State Fault Refusal :=
  .next (s.access { who := .hsp, addr := (Reg.PSC_DCTEST.word k).addr, write := some 0x80000000, part := .act })

/-- CHAIN_RESTART (R281), a write of CHAIN_CPp_CTL. -/
def execChainRestart (p : Fin 2) (s : State) : Host.Outcome State Fault Refusal :=
  .next (s.access { who := .hsp, addr := (Reg.CHAIN_CP_CTL.word p).addr, write := some 0x80000000, part := .act })

/-- QUEUE_TX_GO (R306), a write of CHAIN_Qq_TXCTL. -/
def execQueueTxGo (q : Fin 2) (len : BitVec 13) (s : State) : Host.Outcome State Fault Refusal :=
  .next (s.access { who := .hsp, addr := (Reg.CHAIN_Q_TXCTL.word q).addr, write := some (BitVec.ofNat 32 (2 ^ 31 + len.toNat)), part := .act })

/-- CHAIN_QUEUE_RX_READ (R306), a read of CHAIN_Qq_RX. -/
def execChainQueueRxRead (q : Fin 2) (s : State) : Host.Outcome State Fault Refusal :=
  .next (s.access { who := .hsp, addr := (Reg.CHAIN_Q_RX.word q).addr, write := none })

/-- SAP_MASK_WRITE (R257): held until the next frame start. -/
def execSapMaskWrite (n : Fin 2) (tx : Bool) (wire : Fin 4) (value : Word) (s : State) : Host.Outcome State Fault Refusal :=
  .next (s.access { who := .hsp, addr := (sapMaskReg n (Fin.ofNat 8 (if tx then 4 + wire else wire))).addr, write := some value })

end Sys2Proof.Machine
end

