-- ==== Sys2Proof/Machine/LoadCheck.lean ====
section
/-! DEFINITION. The configuration image as bytes, and its checks (07_image_format.md, R126 to R141; the rules of R88, R89,
R112 to R124 and R133 on a BASIN section). Nothing here changes the state: an image is checked completely before any part
of it is applied (R140). -/

namespace Sys2Proof.Machine

/-! ### Header and sections (R128 to R131) -/

/-- Fields of the image header (R128). -/
structure ImgHdr where
  flags : Nat
  total : Nat
  id : Nat
  base : Nat
  rollback : Nat
  nsect : Nat
deriving DecidableEq, Repr

def imgHdr (bs : List Byte) : ImgHdr :=
  { flags := leAt bs 8 4, total := leAt bs 12 4, id := leAt bs 16 4, base := leAt bs 20 4, rollback := leAt bs 24 2, nsect := leAt bs 26 2 }

/-- The flags of R129. -/
def ImgHdr.partialImage (h : ImgHdr) : Bool := h.flags % 2 == 1
def ImgHdr.autolive (h : ImgHdr) : Bool := h.flags / 2 % 2 == 1
def ImgHdr.confirm (h : ImgHdr) : Bool := h.flags / 4 % 2 == 1
def ImgHdr.commitNow (h : ImgHdr) : Bool := h.flags / 8 % 2 == 1

/-- A section header with the place of its payload (R130). -/
structure Section where
  index : Nat
  ty : Nat
  sflags : Nat
  target : Nat
  len : Nat
  crc : Nat
  off : Nat
deriving DecidableEq, Repr

/-- Section types of R131. -/
abbrev secGLOBAL : Nat := 0x10
abbrev secBASIN : Nat := 0x20
abbrev secTABLE : Nat := 0x21
abbrev secPORTS : Nat := 0x30
abbrev secPOLICY : Nat := 0x40
abbrev secINTERRUPT : Nat := 0x50
abbrev secLISTEN : Nat := 0x60
abbrev secPATCH : Nat := 0x70
abbrev secSIGNATURE : Nat := 0x7F

/-- The section whose header stands at offset `off`. -/
def sectionAt (bs : List Byte) (off index : Nat) : Section :=
  let h := (bs.drop off).take 16
  { index := index, ty := byteAt h 0, sflags := byteAt h 1, target := leAt h 2 2, len := leAt h 4 4, crc := leAt h 8 4, off := off + 16 }

/-- The sections from offset `off` on, each at a multiple of 16 (R126), and the index of the first that passes TOTAL_LEN. -/
def sectionsFrom (bs : List Byte) (total : Nat) : Nat → Nat → Nat → List Section × Option Nat
  | 0, _, _ => ([], none)
  | n + 1, off, index =>
    if total ≤ off then ([], none)
    else
      let s := sectionAt bs off index
      if total < off + 16 ∨ total < s.off + s.len then ([], some index)
      else
        let r := sectionsFrom bs total n ((s.off + s.len + 15) / 16 * 16) (index + 1)
        (s :: r.1, r.2)

/-- All sections of an image. -/
def imgSections (bs : List Byte) : List Section × Option Nat := sectionsFrom bs (imgHdr bs).total ((imgHdr bs).total / 16 + 1) 64 0

/-- The payload of a section as stored. -/
def Section.payload (s : Section) (bs : List Byte) : List Byte := (bs.drop s.off).take s.len

/-! ### Refusals (R141) -/

/-- A refusal: REASON, SECTION and DETAIL. -/
structure Refused where
  reason : Nat
  sect : Nat
  detail : Nat
deriving DecidableEq, Repr

/-- The first that is there. -/
def firstOf {α : Type} : List (Option α) → Option α
  | [] => none
  | some x :: _ => some x
  | none :: xs => firstOf xs

/-- The first answer over a list. -/
def firstMap {α β : Type} (f : α → Option β) : List α → Option β
  | [] => none
  | x :: xs => match f x with
    | some y => some y
    | none => firstMap f xs

def refuseIf (c : Bool) (reason sect detail : Nat) : Option Refused := if c then some ⟨reason, sect, detail⟩ else none

/-- Reasons 0x01 to 0x06: the header. -/
def hdrRefused (bs : List Byte) (rev fused : Nat) : Option Refused :=
  let h := imgHdr bs
  let cut := (imgSections bs).2
  firstOf [refuseIf (bs.take 4 != [0x55, 0x4C, 0x51, 0x49]) 0x01 0 0,
    refuseIf (leAt bs 4 2 != 3 || leAt bs 6 2 != 64 || decide (16 ≤ h.flags)) 0x02 0 0,
    refuseIf (leAt bs 0x3C 4 != crc32 (bs.take 0x3C)) 0x03 0 0,
    refuseIf (decide ((if h.partialImage then 524288 else 16777216) < h.total ∨ h.total < 64 ∨ bs.length < h.total)) 0x04 0 0,
    cut.map fun i => ⟨0x04, i, 0⟩,
    refuseIf (leAt bs 0x1C 2 != 0x4896 || decide (rev < byteAt bs 0x1E)) 0x05 0 0,
    refuseIf (decide (h.rollback < fused ∨ 64 < h.rollback)) 0x06 0 fused]

/-- The TARGET column of R131. -/
def targetOk (ty target : Nat) : Bool :=
  if ty = secBASIN then decide (target ≤ 9)
  else if ty = secTABLE then decide (target / 256 ≤ 9 ∧ target % 256 < 32)
  else if ty = secLISTEN then decide (target ≤ 3)
  else target == 0

/-- R131 for one section: its type, flags and target, and its place against those before it. -/
def sectionOrder (part : Bool) (total : Nat) (before : List Section) (s : Section) : Bool :=
  [secGLOBAL, secBASIN, secTABLE, secPORTS, secPOLICY, secINTERRUPT, secLISTEN, secPATCH, secSIGNATURE].elem s.ty &&
  decide (s.sflags ≤ 1) && targetOk s.ty s.target &&
  (before.all fun b => decide (b.ty ≤ s.ty) && !(b.ty == s.ty && b.target == s.target) && b.ty != secSIGNATURE) &&
  !(part && s.ty == secPATCH) &&
  (s.ty != secSIGNATURE || (s.sflags == 0 && s.off + s.len == total))

/-- Reason 0x07. -/
def orderRefused (bs : List Byte) : Option Refused :=
  let h := imgHdr bs
  let ss := (imgSections bs).1
  firstOf [refuseIf (decide (h.nsect < 2 ∨ 340 < h.nsect ∨ ss.length ≠ h.nsect)) 0x07 0 0,
    firstMap (fun s => refuseIf (!sectionOrder h.partialImage h.total (ss.take s.index) s) 0x07 s.index 0) ss,
    refuseIf ((ss.getLast?.map Section.ty) != some secSIGNATURE) 0x07 (ss.length - 1) 0,
    refuseIf (!h.partialImage && !(ss.any fun s => s.ty == secGLOBAL)) 0x07 0 0]

/-- Reason 0x08. -/
def crcRefused (bs : List Byte) : Option Refused :=
  firstMap (fun s => refuseIf (crc32 (s.payload bs) != s.crc) 0x08 s.index 0) (imgSections bs).1

/-- The SIGNATURE section: KEY_SLOT, the public key, r and s (R136). -/
def sigSection (bs : List Byte) : Option Section := (imgSections bs).1.find? fun s => s.ty == secSIGNATURE

/-- The hash in key slot `n` (R426). -/
def State.keyHash (s : State) (n : Nat) : List Byte := ((List.range 8).map fun i => leBytes 4 (s.word (Reg.SEC_KEY_H.word n i).addr).toNat).flatten

/-- Reasons 0x09 and 0x0A (R137). -/
def State.signRefused (s : State) (bs : List Byte) : Option Refused :=
  match sigSection bs with
  | none => none
  | some g =>
    let p := g.payload bs
    let slot := byteAt p 0
    let key := (p.drop 4).take 64
    let num := fun (off : Nat) => beNat ((p.drop off).take 32)
    firstOf [refuseIf (p.length != 132 || decide (3 < slot) || !s.slotSet slot || s.slotRevoked slot || sha256 key != s.keyHash slot) 0x09 g.index slot,
      refuseIf (!ecdsaVerify (num 4) (num 36) (num 68) (num 100) (sha256 (bs.take (g.off - 16)))) 0x0A g.index 0]

/-- The plaintext of a section's payload; none when its tag fails (R138). -/
def State.plain (s : State) (bs : List Byte) (x : Section) : Option (List Byte) :=
  let p := x.payload bs
  if x.sflags % 2 = 0 then some p
  else if p.length < 28 then none
  else gcmDecrypt s.sec.ikey (p.take 12) ((bs.drop (x.off - 16)).take 8) ((p.drop 12).take (p.length - 28)) (p.drop (p.length - 16))

/-- Reasons 0x0B and 0x0C. -/
def State.cryptRefused (s : State) (bs : List Byte) : Option Refused :=
  let ss := (imgSections bs).1
  firstOf [firstMap (fun x => refuseIf (x.sflags % 2 == 1 && s.sec.ikey.isEmpty) 0x0B x.index 0) ss,
    firstMap (fun x => refuseIf ((s.plain bs x).isNone) 0x0C x.index 0) ss]

/-- The sections of a kind with their plaintext, in file order. -/
def State.sectionsOf (s : State) (bs : List Byte) (ty : Nat) : List (Section × List Byte) :=
  (imgSections bs).1.filterMap fun x => if x.ty = ty then (s.plain bs x).map fun p => (x, p) else none

/-! ### BASIN payload (R133) -/

/-- A table descriptor at an offset. -/
def tableAt (p : List Byte) (off : Nat) : TableDesc := ⟨byteAt p (off + 6), leAt p off 2, leAt p (off + 2) 2, leAt p (off + 4) 2⟩

/-- The pool runs from an offset: START, COUNT and the place of the words; or the offset of the first inconsistent one. -/
def runsFrom (p : List Byte) : Nat → Nat → Except Nat (List (Nat × Nat × Nat) × Nat)
  | 0, off => .ok ([], off)
  | n + 1, off =>
    let start := leAt p off 2
    let count := leAt p (off + 2) 2
    if p.length < off + 4 ∨ poolWords < start + count ∨ p.length < off + 4 + 4 * count then .error off
    else match runsFrom p n (off + 4 + 4 * count) with
      | .ok r => .ok ((start, count, off + 4) :: r.1, r.2)
      | .error e => .error e

/-- `n` words of `w` bytes at an offset. -/
def numsAt (w n : Nat) (p : List Byte) (off : Nat) : List Nat := (piecesOf w n ((p.drop off).take (w * n))).map leNat

/-- Runs cover a whole range of the pool. -/
def runsCover (runs : List (Nat × Nat × Nat)) (base len : Nat) : Bool :=
  (List.range len).all fun i => runs.any fun r => decide (r.1 ≤ base + i ∧ base + i < r.1 + r.2.1)

/-- The BASIN payload read, or the byte offset of what is inconsistent or outside its range (R141, CONTENT). -/
def parseBasin (p : List Byte) : Except Nat BasinImage :=
  let ns := numsAt 2 4 p 0
  let ntable := byteAt p 12
  let ncis := byteAt p 13
  let cisOff := 16 + 8 * ntable
  let slotOff := cisOff + 8 * ncis
  let runOff := slotOff + 8 * ns.foldl (· + ·) 0
  if p.length < 16 then .error p.length
  else match (List.range 4).find? fun j => decide (16384 < ns.getD j 0) with
  | some j => .error (2 * j)
  | none =>
  if 1024 < leAt p 10 2 then .error 10
  else if 32 < ntable then .error 12
  else if 64 < ncis then .error 13
  else if p.length < runOff then .error (if p.length < slotOff then 16 else slotOff)
  else
    let tables := (List.range ntable).map fun i => tableAt p (16 + 8 * i)
    match (List.range ntable).find? fun i => decide (31 < byteAt p (22 + 8 * i)) || (tables.take i).any fun d => d.t == byteAt p (22 + 8 * i) with
    | some i => .error (22 + 8 * i)
    | none =>
    match runsFrom p (leAt p 14 2) runOff with
    | .error e => .error e
    | .ok (runs, fin) =>
      if fin ≠ p.length then .error fin
      else
        let starts := [0, ns.getD 0 0, ns.getD 0 0 + ns.getD 1 0, ns.getD 0 0 + ns.getD 1 0 + ns.getD 2 0]
        let cascade := (List.range 4).foldl (fun m j => tabPutList (fun _ => (0 : DWord)) m (j * 16384)
          ((numsAt 8 (ns.getD j 0) p (slotOff + 8 * starts.getD j 0)).map fun v => BitVec.ofNat 64 v)) []
        let pool := runs.foldl (fun m r => tabPutList (fun _ => (0 : Word)) m r.1 ((numsAt 4 r.2.1 p r.2.2).map fun v => BitVec.ofNat 32 v)) []
        let comp := fun (f : TableDesc → Nat) => tables.foldl (fun m d => if runsCover runs (f d) d.len then m ||| 2 ^ d.t else m) 0
        .ok { nslot := ns, cascade := cascade, pool := pool, stateBase := leAt p 8 2, stateLen := leAt p 10 2, tables := tables,
              regions := (List.range ncis).map fun i => ⟨leAt p (cisOff + 8 * i) 4, leAt p (cisOff + 8 * i + 4) 4⟩,
              compA := comp fun d => d.a, compB := comp fun d => d.b }

/-! ### Slot words (R105, R112 to R124) -/

/-- The operand codes that a slot word reads (R113 to R124). -/
def Slot.reads (sl : Slot) : List Nat :=
  match sl.op with
  | 0x08 | 0x09 | 0x0A | 0x0B | 0x0C | 0x0E | 0x0F => [sl.sra, sl.srb]
  | 0x0D | 0x12 => [sl.sra]
  | 0x10 | 0x11 => if sl.aux / 64 % 2 = 1 then [] else [sl.sra]
  | 0x20 => if sl.aux % 8 < 2 then [sl.sra, sl.srb, sl.src] else [sl.sra, sl.srb]
  | 0x28 => [sl.sra, sl.srb, sl.src]
  | 0x30 | 0x31 | 0x40 => [sl.sra]
  | 0x32 => [sl.sra, sl.srb, sl.dst]
  | 0x33 => [sl.sra, sl.dst]
  | 0x38 => [sl.sra, sl.srb, sl.src]
  | 0x39 => [sl.sra, sl.src]
  | 0x49 | 0x50 => [sl.sra]
  | _ => []

/-- The slot word writes DST. -/
def Slot.writes (sl : Slot) : Bool :=
  match sl.op with
  | 0x10 | 0x11 => sl.aux / 64 % 2 == 0
  | 0x08 | 0x09 | 0x0A | 0x0B | 0x0C | 0x0D | 0x0E | 0x0F | 0x12 | 0x20 | 0x21 | 0x28 | 0x30 | 0x31 | 0x32 | 0x33 | 0x39 | 0x40 | 0x48 => true
  | _ => false

/-- A reserved operand code (R105). -/
def reservedCode (c : Nat) : Bool := decide (c = 0x83 ∨ c = 0x86 ∨ c = 0x87 ∨ (0x95 ≤ c ∧ c ≤ 0x9F) ∨ c = 0xBF)

/-- A code that is refused as DST (R105). -/
def refusedDst (c : Nat) : Bool :=
  reservedCode c || decide ((0x40 ≤ c ∧ c < 0x80) ∨ (0x81 ≤ c ∧ c ≤ 0x83) ∨ (0x90 ≤ c ∧ c ≤ 0x93) ∨ (0xA0 ≤ c ∧ c < 0x100))

/-- The operand that a code names, the same for a source and for a destination (R105, R108): direct, or pointer and offset. -/
def namedSrc (sl : Slot) (c : Nat) : Nat × Nat × Int := if sl.m = 3 ∧ 0x800 ≤ c then (1, c / 256 % 8, sext 8 c) else (0, c, 0)
def namedDst (sl : Slot) (c : Nat) : Nat × Nat × Int := if sl.m = 3 ∧ 0x200 ≤ c then (1, c / 64 % 8, sext 6 c) else (0, c, 0)

/-- Slot word `i` of a cascade. -/
def wordAt (ws : Tab DWord) (j i : Nat) : Slot := slotOf (tabGet (fun _ => (0 : DWord)) ws (j * 16384 + i))

/-- The step of the BQ word at `i`; none when it is no BQ word. -/
def bqStep (ws : Tab DWord) (j i : Nat) : Option Nat := if (wordAt ws j i).op = 0x20 then some ((wordAt ws j i).aux % 8) else none

/-- The BQ word at `i` of a group continues it as R116 says: steps in order, x, y, s1 and s2 named alike. -/
def bqOk (ws : Tab DWord) (j i : Nat) : Bool :=
  let sl := wordAt ws j i
  let k := sl.aux % 8
  let at_ := fun (n : Nat) => wordAt ws j (i - k + n)
  let z := at_ 0
  let f := at_ 1
  decide (k ≤ 4 ∧ k ≤ i) && (List.range k).all (fun n => (at_ n).op == 0x20 && (at_ n).aux % 8 == n) &&
  (k != 1 || namedSrc sl sl.sra == namedSrc z z.sra) &&
  (k != 2 || (namedSrc sl sl.sra == namedDst z z.dst && namedDst sl sl.dst == namedSrc z z.src)) &&
  (k != 3 || namedSrc sl sl.sra == namedSrc z z.sra) &&
  (k != 4 || (namedSrc sl sl.sra == namedDst z z.dst && namedDst sl sl.dst == namedSrc f f.src))

/-- The slot word at `i` of jet `j` breaks a rule that is refused at load; `fin` is the place of the first TICKEND, if any, and
`n` the number of words checked. -/
def slotBad (x : BasinImage) (j n : Nat) (fin : Option Nat) (i : Nat) : Bool :=
  let sl := wordAt x.cascade j i
  let pools := (sl.reads.filter fun c => decide (0x100 ≤ c)).length
  !knownOp sl.op || sl.reads.any reservedCode || (sl.writes && refusedDst sl.dst) ||
  decide (3 < pools ∨ (2 < pools ∧ slotCost sl = 1)) ||
  (match bqStep x.cascade j i with
    | some k => !bqOk x.cascade j i || (k < 4 && (n ≤ i + 1 || bqStep x.cascade j (i + 1) != some (k + 1)))
    | none => false) ||
  (sl.op == 0x39 && decide (64 ≤ sl.dst)) ||
  (sl.op == 0x40 && !x.tables.any fun d => d.t == sl.aux % 32) ||
  (sl.op == 0x50 && (List.range 4).any fun k => (List.range (if k = j then i else x.nslot.getD k 0)).any fun m =>
    k ≤ j && (wordAt x.cascade k m).op == 0x50 && (wordAt x.cascade k m).aux % 32 == sl.aux % 32 &&
      !((List.range m).any fun e => (wordAt x.cascade k e).op == 0x01)) ||
  (sl.op == 0x02 && (let last := i + sl.aux % 16 + 1
    (match fin with | some e => decide (e ≤ last) | none => false) ||
    (match bqStep x.cascade j (i + 1) with | some k => k != 0 | none => false) ||
    (match bqStep x.cascade j last with | some k => k != 4 | none => false)))

/-- The first TICKEND of jet `j`. -/
def jetEnd (x : BasinImage) (j : Nat) : Option Nat := (List.range (x.nslot.getD j 0)).find? fun i => (wordAt x.cascade j i).op == 0x01

/-- How many words of jet `j` are checked: up to its first TICKEND (R112). -/
def jetSpan (x : BasinImage) (j : Nat) : Nat := match jetEnd x j with
  | some e => e + 1
  | none => x.nslot.getD j 0

/-- The first slot word that breaks a rule, as DETAIL gives it; a jet without TICKEND at its last word (R89). -/
def slotRule (x : BasinImage) : Option Nat :=
  firstMap (fun j =>
    match (List.range (jetSpan x j)).find? (slotBad x j (jetSpan x j) (jetEnd x j)) with
    | some i => some (j * 16384 + i)
    | none => if 0 < x.nslot.getD j 0 ∧ jetEnd x j = none then some (j * 16384 + (x.nslot.getD j 0 - 1)) else none) [0, 1, 2, 3]

/-- The outbound ports that jet `j` writes (R88). -/
def routPorts (x : BasinImage) (j : Nat) : List Nat :=
  (List.range (jetSpan x j)).filterMap fun i => if (wordAt x.cascade j i).op = 0x49 then some ((wordAt x.cascade j i).aux % 32) else none

/-- The first port with two writing jets. -/
def portWriter (x : BasinImage) : Option Nat :=
  firstMap (fun j => (routPorts x j).find? fun p => (List.range j).any fun i => (routPorts x i).elem p) [1, 2, 3]

/-- Two ranges share a word. -/
def rangesMeet (a b : Nat × Nat) : Bool := decide (0 < a.2 ∧ 0 < b.2 ∧ a.1 < b.1 + b.2 ∧ b.1 < a.1 + a.2)

/-- The state region and the table pages overlap or leave the pool (R85). -/
def poolOverlap (x : BasinImage) : Bool :=
  let rs := (x.stateBase, x.stateLen) :: (x.tables.map fun d => [(d.a, d.len), (d.b, d.len)]).flatten
  (rs.any fun r => decide (0 < r.2 ∧ poolWords < r.1 + r.2)) ||
  (List.range rs.length).any fun i => (rs.take i).any fun r => rangesMeet r (rs.getD i (0, 0))

/-- The basin data region (R99). -/
abbrev basinDataBytes : Nat := 0x1800000

/-- The first cistern region that breaks R133, against `others`, the regions of other handles. -/
def cisRegion (x : BasinImage) (others : List CisRegion) : Option Nat :=
  (List.range x.regions.length).find? fun i =>
    let r := x.regions.getD i ⟨0, 0⟩
    r.base % 8 != 0 || r.len % 8 != 0 || decide (basinDataBytes < r.base + r.len) ||
      (x.regions.take i ++ others).any fun o => rangesMeet (r.base, r.len) (o.base, o.len)

/-! ### The other payloads (R132, R134 to R136) -/

/-- The routes of a GLOBAL payload: rill and value. -/
def globalRoutes (p : List Byte) : List (Nat × Word) :=
  (List.range (byteAt p 2)).map fun i => (byteAt p (4 + 8 * i), BitVec.ofNat 32 (leAt p (8 + 8 * i) 4))

def globalBad (part : Bool) (p : List Byte) : Option Nat :=
  let n := byteAt p 2
  if p.length < 4 then some p.length
  else if 5 < byteAt p 0 && !(part && byteAt p 0 == 0xFF) then some 0
  else if 64 < byteAt p 1 then some 1
  else if 96 < n then some 2
  else if byteAt p 3 ≠ 0 then some 3
  else if p.length ≠ 4 + 8 * n then some (min p.length (4 + 8 * n))
  else ((List.range n).find? fun i => decide (95 < byteAt p (4 + 8 * i) ∨ leAt p (5 + 8 * i) 3 ≠ 0) ||
    (List.range i).any fun k => byteAt p (4 + 8 * k) == byteAt p (4 + 8 * i)).map fun i => 4 + 8 * i

/-- The tuples of a payload (R135). -/
def tuples (p : List Byte) : List (Nat × Word) := (List.range (p.length / 8)).map fun i => (leAt p (8 * i) 4, BitVec.ofNat 32 (leAt p (8 * i + 4) 4))

/-- The address ranges of R135. -/
def tupleRange (ty a : Nat) : Bool :=
  if ty = secPORTS then decide ((0x120000 ≤ a ∧ a < 0x1C0000) ∨ a = Reg.CLK_WCLKO_CTL.word.addr) || (hit Reg.XING_CFG.word 28 a).isSome
  else if ty = secPOLICY then decide ((0x70000 ≤ a ∧ a < 0x80000) ∨ a = Reg.CLK_PLLA_SRC.word.addr ∨ a = Reg.CLK_PLLA_POL.word.addr)
  else decide (0x40000 ≤ a ∧ a < 0x50000)

/-- A policy value lies within the bounds of R407 and R433. -/
def policyOk (a : Nat) (v : Word) : Bool :=
  (policyBounds.all fun b => b.1.addr != a || decide (b.2.1 ≤ b.1.of v ∧ b.1.of v ≤ b.2.2)) &&
  (a != Reg.STEW_POL_THERM.word.addr ||
    decide (Reg.STEW_POL_THERM.TWARN.of v < Reg.STEW_POL_THERM.THOT.of v ∧ Reg.STEW_POL_THERM.THOT.of v < Reg.STEW_POL_THERM.TCRIT.of v))

/-- A tuple names an assigned register with a writable field at an allowed address; in a partial image all its writable
fields are TC (R135). -/
def tupleOk (ty : Nat) (part : Bool) (a : Nat) : Bool :=
  a % 4 == 0 && tupleRange ty a &&
  match regRow a with
  | none => false
  | some r => if part then r.tc != 0 && r.rw ||| r.wo ||| r.w1c == 0 else r.rw ||| r.wo ||| r.w1c ||| r.tc != 0

def tuplesBad (ty : Nat) (part : Bool) (p : List Byte) : Option Nat :=
  if p.length % 8 ≠ 0 then some (p.length / 8 * 8)
  else firstMap (fun i =>
    if !tupleOk ty part (leAt p (8 * i) 4) then some (8 * i)
    else if ty = secPOLICY ∧ !policyOk (leAt p (8 * i) 4) (BitVec.ofNat 32 (leAt p (8 * i + 4) 4)) then some (8 * i + 4)
    else none) (List.range (p.length / 8))

/-- A TABLE payload against the tables of its handle (R134). -/
def tableBad (tables : List TableDesc) (t : Nat) (p : List Byte) : Option Nat :=
  if p.length < 4 then some p.length
  else if 2 < byteAt p 0 then some 0
  else if 1 < byteAt p 1 then some 1
  else match tables.find? fun d => d.t == t with
    | none => some 0
    | some d => if p.length = 4 + 4 * d.len then none else some 4

/-- A PATCH payload (R136). -/
def patchBad (p : List Byte) : Option Nat := if p.length < 72 then some p.length else if leAt p 4 4 + 72 ≠ p.length then some 4 else none

/-- Reason 0x15: the inner signature, and PATCH_LEVEL against the ROM's (R136, R141). -/
def patchRefused (p : List Byte) : Bool :=
  let n := p.length - 64
  decide (leAt p 0 4 < Config.romPatchLevel) ||
    !ecdsaVerify Config.romKey.1 Config.romKey.2 (beNat ((p.drop n).take 32)) (beNat ((p.drop (n + 32)).take 32)) (sha256 (p.take n))

/-! ### Reasons 0x0D to 0x15 -/

/-- The BASIN sections read: index, handle and content; only those that parse. -/
def State.basinSections (s : State) (bs : List Byte) : List (Nat × Nat × BasinImage) :=
  (s.sectionsOf bs secBASIN).filterMap fun x => match parseBasin x.2 with
    | .ok b => some (x.1.index, x.1.target, b)
    | .error _ => none

/-- The basin that a TABLE section writes: the new one of its handle's hand-over, else the one mapped (R143). -/
def State.tableBasin (s : State) (L : Nat) : Option Nat :=
  match s.pendingChan L with
  | some h => some (s.get (Reg.FAB_HO_CTL.NEW h))
  | none => s.mapped L

/-- The tables of handle `L` for a TABLE section: of the image's BASIN section, else as loaded already in the basin that the section
writes (R134). -/
def State.tablesFor (s : State) (bs : List Byte) (L : Nat) : List TableDesc :=
  match (s.basinSections bs).find? fun x => x.2.1 == L with
  | some x => x.2.2.tables
  | none => match s.tableBasin L with
    | some b => (s.basin b).tables
    | none => []

/-- What is wrong with a payload, by type: its byte offset (R141, CONTENT). -/
def State.payloadBad (s : State) (bs : List Byte) (part : Bool) (x : Section) (p : List Byte) : Option Nat :=
  if x.ty = secGLOBAL then globalBad part p
  else if x.ty = secBASIN then match parseBasin p with
    | .ok _ => none
    | .error e => some e
  else if x.ty = secTABLE then tableBad (s.tablesFor bs (x.target / 256)) (x.target % 256) p
  else if x.ty = secLISTEN then if templateValid p then none else some 0
  else if x.ty = secPATCH then patchBad p
  else if x.ty = secSIGNATURE then none
  else tuplesBad x.ty part p

/-- Reason 0x0E; `part` is the kind that was announced. -/
def State.contentRefused (s : State) (bs : List Byte) (part : Bool) : Option Refused :=
  let h := imgHdr bs
  firstOf [refuseIf (h.id == 0 || h.partialImage != part) 0x0E 0 0,
    firstMap (fun x => match s.plain bs x with
      | some p => (s.payloadBad bs h.partialImage x p).map fun off => ⟨0x0E, x.index, off⟩
      | none => none) (imgSections bs).1]

/-- Reason 0x0F: the routes give a sink two writers or name an invalid endpoint (R94); those of a partial image in the
staged view. -/
def State.sinkRefused (s : State) (bs : List Byte) (part : Bool) : Option Refused :=
  firstMap (fun x =>
    let rs := globalRoutes x.2
    let other := fun (k : Nat) => match rs.find? fun r => r.1 == k with
      | some r => r.2
      | none => if part then s.viewWord (Reg.RX_ROUTE.word k).addr else 0
    firstMap (fun (r : Nat × Word) => refuseIf (routeBad r.2 || (r.2.getLsbD 31 && (List.range 96).any fun k =>
      k != r.1 && (other k).getLsbD 31 && (other k).toNat % 4096 == r.2.toNat % 4096)) 0x0F x.1.index r.1) rs) (s.sectionsOf bs secGLOBAL)

/-- Cistern regions of the handles loaded already, `L` left out. -/
def State.otherRegions (s : State) (L : Nat) : List CisRegion :=
  ((List.range 10).filterMap fun b => if (s.basin b).handle != L && [bsREADY, bsRUNNING, bsHELD, bsPARKED].elem (s.basinState b)
    then some (s.basin b).regions else none).flatten

/-- Reasons 0x10 to 0x13, each over every BASIN section before the next. -/
def State.basinRefused (s : State) (bs : List Byte) : Option Refused :=
  let xs := s.basinSections bs
  firstOf [firstMap (fun x => refuseIf (poolOverlap x.2.2) 0x10 x.1 0) xs,
    firstMap (fun x => (slotRule x.2.2).map fun d => ⟨0x11, x.1, d⟩) xs,
    firstMap (fun x => (portWriter x.2.2).map fun d => ⟨0x12, x.1, d⟩) xs,
    firstMap (fun x => (cisRegion x.2.2 (s.otherRegions x.2.1 ++
      ((xs.filter fun y => decide (y.1 < x.1)).map fun y => y.2.2.regions).flatten)).map fun d => ⟨0x13, x.1, d⟩) xs]

/-- RESERVE_COUNT that a full image brings: its POLICY tuples, then the persisted ones (R142, R435). -/
def reserveAfter (now : Nat) (ts : List (Nat × Word)) : Nat :=
  ts.foldl (fun n t => if t.1 = Reg.STEW_POL_GEN.word.addr then Reg.STEW_POL_GEN.RESERVE_COUNT.of t.2 else n) now

/-- Basins that a load finds FREE: in a full image after RESERVE_COUNT has taken effect (R80). -/
def State.freeForLoad (s : State) (part : Bool) (ts : List (Nat × Word)) : Nat :=
  if part then (List.range 10).countP fun b => s.basinState b == bsFREE && !(s.basin b).bist
  else (s.set Reg.STEW_POL_GEN.RESERVE_COUNT (reserveAfter (s.get Reg.STEW_POL_GEN.RESERVE_COUNT) ts)).applyReserves.countBasins bsFREE

/-- Reason 0x14. -/
def State.roomRefused (s : State) (bs : List Byte) (part : Bool) (policies : List (Nat × Word)) : Option Refused :=
  let xs := s.basinSections bs
  let n := s.freeForLoad part (((s.sectionsOf bs secPOLICY).map fun x => tuples x.2).flatten ++ policies)
  match xs.drop n with
  | x :: _ => some ⟨0x14, x.1, x.2.1⟩
  | [] => none

/-- Reason 0x15. -/
def State.patchCheck (s : State) (bs : List Byte) : Option Refused :=
  firstMap (fun x => refuseIf (patchRefused x.2) 0x15 x.1.index 0) (s.sectionsOf bs secPATCH)

/-- The handles of a partial image's BASIN sections break a limit of R164. -/
def State.chanRefused (s : State) (bs : List Byte) : Option Nat :=
  let xs := s.basinSections bs
  let idle := (List.range 4).countP fun h => s.hoState h == hoIDLE
  match xs.find? fun x => (List.range 4).any fun h => s.hoState h != hoIDLE && s.get (Reg.FAB_HO_CTL.HANDLE h) == x.2.1 with
  | some x => some x.1
  | none => (xs.drop idle).head?.map fun x => x.1

/-- The checks of R141 that need no more than the image and the fuses: reasons 0x01 to 0x0C. -/
def State.sealRefused (s : State) (bs : List Byte) : Option Refused :=
  firstOf [hdrRefused bs (Config.revision.toNat) (s.get Reg.DEV_IMG_VER.FUSED), orderRefused bs, crcRefused bs, s.signRefused bs, s.cryptRefused bs]

/-- The first refusal of an image, in the order of R141; `policies` are the persisted ones. -/
def State.imageRefused (s : State) (bs : List Byte) (part : Bool) (policies : List (Nat × Word)) : Option Refused :=
  let h := imgHdr bs
  firstOf [s.sealRefused bs,
    refuseIf (h.partialImage && h.base != (s.word Reg.DEV_IMG_ID.word.addr).toNat) 0x0D 0 (s.word Reg.DEV_IMG_ID.word.addr).toNat,
    s.contentRefused bs part, s.sinkRefused bs h.partialImage, s.basinRefused bs, s.roomRefused bs h.partialImage policies, s.patchCheck bs,
    if part then (s.chanRefused bs).map fun i => ⟨0x16, i, 0⟩ else none,
    refuseIf (part && h.commitNow && s.armed) 0x16 0 0,
    refuseIf (part && s.svc != svcLOADED && s.svc != svcLIVE) 0x18 0 s.svc]

end Sys2Proof.Machine
end

