-- ==== Sys2Proof/Machine/Image.lean ====
section
/-! DEFINITION. Applying an image, the boot flash's slots and their selection (R142 to R148, R151, R364, R421). -/

namespace Sys2Proof.Machine

/-! ### Pieces that full and partial images share -/

/-- Coefficient page `pageB` of table `t` of handle `L`, held in basin `b`, is written: shelf first, then the pool; then the
page is complete (R101, R134, R158). -/
def State.writeTable (s : State) (L b t : Nat) (pageB : Bool) (ws : List Word) : State :=
  match (s.basin b).tables.find? fun d => d.t == t with
  | none => s
  | some d =>
    let base := if pageB then d.b else d.a
    let s := ws.zipIdx.foldl (fun (s : State) (e : Word × Nat) => s.poolWriteShelf L b (base + e.2) e.1) s
    let sh := s.shelf L
    let s := match sh.image with
      | some x => s.putShelf L { sh with image := some (if pageB then { x with compB := x.compB ||| 2 ^ t } else { x with compA := x.compA ||| 2 ^ t }) }
      | none => s
    s.setPageDone b t pageB true

/-- The page that a TABLE payload names: 2 is the page that FAB_Bb_TBLSEL does not select (R134). -/
def State.tablePage (s : State) (b t : Nat) (p : List Byte) : Bool :=
  if byteAt p 0 = 2 then !((s.word (Reg.FAB_B_TBLSEL.word b).addr).getLsbD t) else byteAt p 0 == 1

/-- A section loads into basin `b` at rate code `rate`, the shelf first (R101, R133); fit is checked at that rate (R28). -/
def State.loadAt (s : State) (L b rate : Nat) (x : BasinImage) (part : Bool) : State :=
  let now := s.rate
  let s := s.putShelf L { image := some x.shelved, valid := true, part := part }
  (((s.set Reg.DEV_TICK_CTL.RATE rate).loadBasin b L x).set Reg.DEV_TICK_CTL.RATE now)

/-- A refusal is recorded (R141); what R164 and R317 flag with it. -/
def State.recordRefusal (s : State) (bs : List Byte) (f : Refused) : State :=
  let s := s.set Reg.DEV_IMG_STAT.REASON f.reason |>.set Reg.DEV_IMG_STAT.SECTION f.sect |>.setNat Reg.DEV_IMG_DETAIL.word f.detail
  let s := s.flagIf (f.reason = 0x16 && (s.chanRefused bs).isSome) Reg.FAB_HO_EVT.CHAN_BUSY
  s.flagIf ((imgSections bs).1.any fun x => x.ty == secLISTEN) Reg.LSN_EVT.TMPL_ERR

/-! ### A full image (R142) -/

/-- The TC fields of a tuple take effect at once, unless a check that the write meets refuses them (R142, R179, R249, R289). -/
def State.tupleNow (s : State) (t : Nat × Word) (tc : Word) : State :=
  if tc = 0 then s
  else match s.tcCheck t.1 t.2 with
    | some s' => s'
    | none => s.setWord t.1 (overlay (s.word t.1) tc t.2)

/-- One tuple: TC fields take effect at once, the others under R6. -/
def State.applyTuple (s : State) (t : Nat × Word) : State :=
  match regRow t.1 with
  | none => s
  | some r =>
    let s := s.tupleNow t r.tc
    if t.1 = Reg.IC_CFG.word.addr then s.setWord t.1 (plainWrite r (s.word t.1) t.2)
    else if r.rw ||| r.wo ||| r.w1c = 0 then s
    else s.writePart r t.1 t.2 0

/-- The tuples of a section type. -/
def State.tuplesOf (s : State) (bs : List Byte) (ty : Nat) : List (Nat × Word) := ((s.sectionsOf bs ty).map fun x => tuples x.2).flatten

/-- RATE: within the family it is set; the other family's rate is reached by a family change (R64). -/
def State.applyRate (s : State) (rate : Nat) : State :=
  if rateFamily rate = rateFamily s.rate then s.set Reg.DEV_TICK_CTL.RATE rate
  else if s.clk.hop.isSome then s else s.cancelArmed.hopBegin 5 rate

/-- The routes: every rill is disabled that the image does not list (R132). A rill above 47 stays disabled at 176.4 and
192 kHz (R94). -/
def State.applyRoutes (s : State) (rate : Nat) (rs : List (Nat × Word)) : State :=
  (List.range 96).foldl (fun (s : State) k =>
    let v := match rs.find? fun r => r.1 == k with
      | some r => r.2
      | none => 0
    if v.getLsbD 31 && decide (48 ≤ k ∧ 4 ≤ rate) then (s.flag Reg.RX_EVT.RATE_LIMIT).setWord (Reg.RX_ROUTE.word k).addr 0
    else s.setWord (Reg.RX_ROUTE.word k).addr (v &&& 0x8FFF0FFF)) s

/-- The persisted policies, each within its bounds (R435). -/
def State.persisted (s : State) : List (Nat × Word) :=
  let l := s.ledger
  (l.filter fun r => recType r == rtPOLICY && isLatest l r).filterMap fun r =>
    let a := leAt (recData r) 0 4
    let v := BitVec.ofNat 32 (leAt (recData r) 4 4)
    if tupleOk secPOLICY false a && policyOk a v then some (a, v) else none

/-- A full image that has passed its checks is applied in BARE; the last step of a boot (R142). -/
def State.applyFull (s : State) (bs : List Byte) : State :=
  let h := imgHdr bs
  let g := ((s.sectionsOf bs secGLOBAL).map fun x => x.2).headD []
  let rate := byteAt g 0
  let policies := s.persisted
  let xs := s.basinSections bs
  let tables := s.sectionsOf bs secTABLE
  let listens := s.sectionsOf bs secLISTEN
  let s := match s.sectionsOf bs secPATCH with
    | x :: _ => s.setStew { s.stew with patch := (x.2.drop 8).take (leAt x.2 4 4) }
    | [] => s
  let s := ((s.applyRate rate).set Reg.FAB_HO_DEF.XFADE (byteAt g 1)).applyRoutes rate (globalRoutes g)
  let s := ((s.tuplesOf bs secPOLICY ++ policies).foldl (fun (s : State) t => s.applyTuple t) s).applyReserves
  let s := (s.tuplesOf bs secPORTS ++ s.tuplesOf bs secINTERRUPT).foldl (fun (s : State) t => s.applyTuple t) s
  let s := (List.range 10).foldl (fun (s : State) L =>
    match xs.find? fun x => x.2.1 == L with
    | none => s
    | some x => match s.lowestBasin bsFREE with
      | none => s
      | some b => ((s.loadAt L b rate x.2.2 false).setNat (Reg.FAB_MAP.word L) (2 ^ 31 + b)).mapBasin L b) s
  let s := tables.foldl (fun (s : State) x =>
    let L := x.1.target / 256
    let t := x.1.target % 256
    match s.mapped L with
    | some b => s.writeTable L b t (s.tablePage b t x.2) (bytesWords (x.2.drop 4))
    | none => s) s
  let s := listens.foldl (fun (s : State) x => s.storeTemplate x.1.target x.2) s
  let s := s.zeroRegion ⟨0, basinDataBytes⟩
  let s := s.setNat Reg.DEV_IMG_ID.word h.id |>.set Reg.DEV_IMG_VER.ROLLBACK h.rollback |>.set Reg.DEV_IMG_STAT.PARTIAL 0
  let s := s.setStew { s.stew with lim0 := (List.range 8).foldl (fun m k => tabPut (fun _ => 0) m k (s.get (Reg.PSC_ILIM.LIM k))) [] }
  let s := (s.setMbx { s.mbx with confirm := h.confirm }).decisionDue false
  let parked := (List.range 10).any fun b => s.basinState b == bsPARKED
  s.followAll.imageApplied (h.autolive && !parked)

/-! ### A partial image (R143, R151) -/

/-- A value of a partial image enters staging through a grant of the mailbox engine. -/
def State.imageStage (s : State) (cyc : Nat) (t : Nat × Word) : State := s.tcWrite .mailbox t.1 t.2 cyc

/-- A BASIN section starts a hand-over (R151): `id` is its handle. The shelf holds the new image from now on (R101, R165), so the old
basin's copy is stale, and stays so where the hand-over is cancelled (DEDUCED). -/
def State.handOverStart (s : State) (cyc id : Nat) (x : BasinImage) : State :=
  match (List.range 4).find? fun h => s.hoState h == hoIDLE, s.lowestBasin bsFREE with
  | some h, some b =>
    let old := s.mapped id
    let s := s.loadAt id b s.rate x true
    let s := match old with
      | some o => s.set (Reg.FAB_B_STAT.SHELF_STALE o) 1
      | none => s
    let kept := match old with
      | some o => carriedOf x.regions (s.basin o).regions
      | none => []
    let s := x.regions.foldl (fun (s : State) r => if kept.elem r then s else s.zeroRegion r) s
    let s := (List.range 16).foldl (fun (s : State) e => s.setWord (Reg.FAB_HO_SMAP.word h e).addr 0) s
    let s := s.setWord (Reg.FAB_HO_CTL.word h).addr 0 |>.set (Reg.FAB_HO_CTL.XFADE h) (s.get Reg.FAB_HO_DEF.XFADE)
      |>.set (Reg.FAB_HO_CTL.NEW h) b |>.set (Reg.FAB_HO_CTL.OLD h) (old.getD 0xF) |>.set (Reg.FAB_HO_CTL.HANDLE h) id
    let s := ((s.setChan h {}).set (Reg.FAB_HO_STAT.STATE h) hoPENDING).set (Reg.FAB_HO_STAT.LEFT h) 0
    let s := if s.get Reg.FAB_RELOC.HANDLE = id then s.setMbx { s.mbx with relocMended := true } else s
    s.imageStage cyc ((Reg.FAB_MAP.word id).addr, BitVec.ofNat 32 (2 ^ 31 + b))
  | _, _ => s

/-- A register word as the writes granted so far leave it for the next commit: the last one held for it (R34), else the staged view. -/
def State.comingWord (s : State) (a : Nat) : Word :=
  match (s.tick.held.filter fun h => h.addr == a).getLast? with
  | some h => h.value
  | none => s.viewWord a

/-- A TABLE section: its page is written at once, FLIP is staged. -/
def State.partialTable (s : State) (cyc : Nat) (x : Section × List Byte) : State :=
  let L := x.1.target / 256
  let t := x.1.target % 256
  match s.tableBasin L with
  | none => s
  | some b =>
    let pageB := s.tablePage b t x.2
    let s := s.writeTable L b t pageB (bytesWords (x.2.drop 4))
    if byteAt x.2 1 % 2 = 1 then
      let a := (Reg.FAB_B_TBLSEL.word b).addr
      s.imageStage cyc (a, (s.comingWord a &&& ~~~(BitVec.ofNat 32 (2 ^ t))) ||| (if pageB then BitVec.ofNat 32 (2 ^ t) else 0))
    else s

/-- A partial image that has passed its checks is applied. -/
def State.applyPartial (s : State) (cyc : Nat) (bs : List Byte) (source : Nat) : State :=
  let h := imgHdr bs
  let xs := s.basinSections bs
  let tables := s.sectionsOf bs secTABLE
  let listens := s.sectionsOf bs secLISTEN
  let ts := s.tuplesOf bs secPOLICY ++ s.tuplesOf bs secPORTS ++ s.tuplesOf bs secINTERRUPT
  let s := (s.sectionsOf bs secGLOBAL).foldl (fun (s : State) x =>
    let s := s.set Reg.FAB_HO_DEF.XFADE (byteAt x.2 1)
    let s := if byteAt x.2 0 = 0xFF then s else s.imageStage cyc (Reg.DEV_TICK_CTL.word.addr, BitVec.ofNat 32 (byteAt x.2 0))
    (globalRoutes x.2).foldl (fun (s : State) r => s.imageStage cyc ((Reg.RX_ROUTE.word r.1).addr, r.2)) s) s
  let s := ts.foldl (fun (s : State) t => s.imageStage cyc t) s
  let s := xs.foldl (fun (s : State) x => s.handOverStart cyc x.2.1 x.2.2) s
  let s := tables.foldl (fun (s : State) x => s.partialTable cyc x) s
  let s := listens.foldl (fun (s : State) x => s.storeTemplate x.1.target x.2) s
  let s := s.setNat Reg.DEV_IMG_ID.word h.id |>.set Reg.DEV_IMG_STAT.PARTIAL 1 |>.set Reg.DEV_IMG_STAT.SOURCE source
  if h.commitNow then s.commitGo cyc else s

/-! ### The device without an image (R363, R364) -/

/-- The fabric is idle: no handle is mapped and no basin loaded; what is in RESERVE stays there. -/
def State.unloadFabric (s : State) : State :=
  let s := (List.range 4).foldl (fun (s : State) h => (s.chanIdle h).setWord (Reg.FAB_HO_CTL.word h).addr 0) s
  let s := (List.range 10).foldl (fun (s : State) L => s.setWord (Reg.FAB_MAP.word L).addr 0) s
  let s := (List.range 10).foldl (fun (s : State) b => if s.basinState b = bsRETIRED ∨ s.basinState b = bsRESERVE then s else s.freeBasin b) s
  s.setFab { s.fab with shelf := [], relocs := [] }

/-- An image command ends: OK, or the refusal recorded and returned (R141, R367). -/
def State.imageEnd (s : State) (port : MbxPort) (bs : List Byte) (f : Option Refused) : State :=
  match f with
  | none => s.complete port 0x0032 stOK []
  | some f =>
    let s := s.recordRefusal bs f
    s.complete port 0x0032 (if f.reason = 0x16 then stBUSY else stFAULT)
      (leBytes 4 (s.word Reg.DEV_IMG_STAT.word.addr).toNat ++ leBytes 4 (s.word Reg.DEV_IMG_DETAIL.word.addr).toNat)

/-! ### Boot flash (R144 to R148) -/

abbrev headerBytes : Nat := 4096
abbrev slotBytes16 : Nat := 0x1000000
def slotAddr (b : Bool) : Nat := if b then 0x1010000 else 0x10000

/-- STATE of a descriptor. -/
abbrev dsEMPTY : Nat := 0xFF
abbrev dsTRIAL : Nat := 0x7F
abbrev dsATTEMPT : Nat := 0x3F
abbrev dsVALID : Nat := 0x1F
abbrev dsBAD : Nat := 0

/-- The descriptor of slot A or B as its 32 bytes. -/
def State.descAddr (_ : State) (b : Bool) : Nat := if b then 0x40 else 0x20
def State.desc (s : State) (b : Bool) : List Byte := s.flashRange (s.descAddr b) 32

/-- The descriptor's CRC passes. -/
def State.descGood (s : State) (b : Bool) : Bool := crc32 ((s.desc b).drop 4 |>.take 24) == leAt (s.desc b) 0x1C 4

/-- STATE and SEQ; a failed CRC counts as EMPTY (R145). -/
def State.descState (s : State) (b : Bool) : Nat := if s.descGood b then byteAt (s.desc b) 0 else dsEMPTY
def State.descSeq (s : State) (b : Bool) : Nat := leAt (s.desc b) 4 4

/-- The 32 bytes of a descriptor. -/
def descBytes (state seq total id rollback : Nat) : List Byte :=
  let body := leBytes 4 seq ++ leBytes 4 total ++ leBytes 4 id ++ leBytes 2 rollback ++ List.replicate 10 0
  leBytes 1 state ++ [0, 0, 0] ++ body ++ leBytes 4 (crc32 body)

/-- The first bytes of the boot header (R144). -/
def bootMagic : List Byte := [0x55, 0x4C, 0x51, 0x42, 1, 0]

/-- The boot header is rewritten with two descriptors. -/
def State.writeHeader (s : State) (a b : List Byte) : State :=
  (s.flashErase 0 headerBytes).flashProgram 0 (bootMagic ++ List.replicate 26 0 ++ a ++ b)

/-- STATE of a descriptor is programmed, which only clears bits. -/
def State.setDesc (s : State) (b : Bool) (state : Nat) : State := s.flashProgram (s.descAddr b) [BitVec.ofNat 8 state]

/-- The slot that DEV_IMG_BOOT.BOOTED names. -/
def State.booted (s : State) : Option Bool :=
  match s.get Reg.DEV_IMG_BOOT.BOOTED with
  | 0 => some false
  | 1 => some true
  | _ => none

/-- The slot that a new full image goes to: the one not booted, or A (R148). -/
def State.newSlot (s : State) : Bool := match s.booted with
  | some false => true
  | _ => false

/-- SEQ of the descriptor of a new image (R148). -/
def State.newSeq (s : State) : Nat :=
  match s.booted with
  | some b => s.descSeq b + 1
  | none => max (if s.descGood false then s.descSeq false + 1 else 1) (if s.descGood true then s.descSeq true + 1 else 1)

/-- The two descriptors of the new boot header (R148 step 3): the new one TRIAL, the other kept. -/
def State.newHeader (s : State) (bs : List Byte) : List Byte :=
  let h := imgHdr bs
  let d := descBytes dsTRIAL s.newSeq h.total h.id h.rollback
  let keep := s.desc (!s.newSlot)
  if s.newSlot then keep ++ d else d ++ keep

/-- The image write that runs ends: the resource is free again, and IMAGE_CLOSE completes. -/
def State.flashEnd (s : State) (j : FlashJob) (f : Option Refused) : State :=
  (s.setMbx { s.mbx with flashJob := none }).imageEnd j.port j.bytes f

/-- The next step of the write of a full image (R148), one a millisecond: the slot is erased and programmed; the image is checked from
flash; the boot header is erased; it is programmed, with what step 2 worked out. A failed program or erase ends it (R355), and the
header is not begun while a RESET is due, so that RESET leaves it whole (R370). -/
def State.flashStep (s : State) : State :=
  match s.mbx.flashJob with
  | none => s
  | some j =>
    let a := slotAddr s.newSlot
    let go := fun (s : State) (j : FlashJob) => s.setMbx { s.mbx with flashJob := some { j with step := j.step + 1 } }
    match j.step with
    | 0 => match j.bad with
      | some f => ((s.flashErase a slotBytes16).flashProgram a (j.bytes.take (f - a))).flashEnd j (some ⟨0x17, 0, f⟩)
      | none => go ((s.flashErase a slotBytes16).flashProgram a (j.bytes.take slotBytes16)) j
    | 1 => match s.unloadFabric.imageRefused (s.flashRange a (min j.bytes.length slotBytes16)) false s.persisted with
      | some f => s.flashEnd j (some f)
      | none => go s { j with header := s.newHeader j.bytes }
    | 2 => if s.pwr.resetDue = 0 then go (s.flashErase 0 headerBytes) j else s
    | _ => (s.flashProgram 0 (bootMagic ++ List.replicate 26 0 ++ j.header)).flashEnd j none

/-- What loading one slot gives: the applied state, or the reason of its refusal (R141, R142, R146). -/
def State.loadSlot (s : State) (b : Bool) : State × Option Nat :=
  let hdr := s.flashRange (slotAddr b) 64
  let bs := s.flashRange (slotAddr b) (max 64 (min slotBytes16 (imgHdr hdr).total))
  match s.imageRefused bs false s.persisted with
  | some f => (s.recordRefusal bs f, some f.reason)
  | none => ((s.applyFull bs).set Reg.DEV_IMG_STAT.SOURCE (b2n b), none)

/-- REASON_A or REASON_B. -/
def State.setSlotReason (s : State) (b : Bool) (r : Nat) : State := if b then s.set Reg.DEV_IMG_BOOT.REASON_B r else s.set Reg.DEV_IMG_BOOT.REASON_A r

/-- The slots to try, in the order of R146. -/
def State.slotOrder (s : State) : List Bool :=
  let able := fun b => [dsTRIAL, dsVALID].elem (s.descState b)
  let bFirst := decide (s.descSeq false < s.descSeq true) ||
    (s.descSeq false == s.descSeq true && s.descState true == dsVALID && s.descState false == dsTRIAL)
  (if bFirst then [true, false] else [false, true]).filter able

/-- What a slot's load leads to: it is booted, or marked BAD and `next` goes on (R146). -/
def slotTried (b trial : Bool) (next : State → State) : State × Option Nat → State
  | (s, none) => s.set Reg.DEV_IMG_BOOT.BOOTED (b2n b) |>.set Reg.DEV_IMG_BOOT.TRIAL (b2n trial)
  | (s, some r) => next ((s.setDesc b dsBAD).setSlotReason b r)

/-- The slots are tried in turn (R146). -/
def State.trySlots : List Bool → State → State
  | [], s => s
  | b :: rest, s =>
    let trial := s.descState b == dsTRIAL
    slotTried b trial (State.trySlots rest) ((if trial then s.setDesc b dsATTEMPT else s).loadSlot b)

/-- The same in the fallback scan: a slot that loads gets a VALID descriptor (R146). -/
def slotScanned (b : Bool) (next : State → State) : State × Option Nat → State
  | (s, none) =>
    let h := imgHdr (s.flashRange (slotAddr b) 64)
    let d := descBytes dsVALID 1 h.total h.id h.rollback
    let e := List.replicate 32 (0xFF : Byte)
    (if b then s.writeHeader e d else s.writeHeader d e).set Reg.DEV_IMG_BOOT.BOOTED (b2n b)
  | (s, some r) => next (s.setSlotReason b r)

/-- The fallback scan: slot A, then slot B (R146). -/
def State.scanSlots : List Bool → State → State
  | [], s => s
  | b :: rest, s => slotScanned b (State.scanSlots rest) (s.loadSlot b)

/-- Boot slot selection (R146). -/
def State.bootSlots (s : State) : State :=
  let s := s.set Reg.DEV_IMG_BOOT.BOOTED 3 |>.set Reg.DEV_IMG_BOOT.TRIAL 0 |>.set Reg.DEV_IMG_BOOT.REASON_A 0 |>.set Reg.DEV_IMG_BOOT.REASON_B 0
  if s.flashRange 0 6 != bootMagic || (!s.descGood false && !s.descGood true) then State.scanSlots [false, true] s
  else
    let s := [false, true].foldl (fun (s : State) b => if s.descState b = dsATTEMPT then s.setDesc b dsBAD else s) s
    State.trySlots s.slotOrder s

/-- Confirmation of a trial slot (R147): VALID, and C raised to ROLLBACK. -/
def State.confirmSlot (s : State) : State :=
  match s.booted with
  | some b =>
    let s := (s.setDesc b dsVALID).set Reg.DEV_IMG_BOOT.TRIAL 0
    s.set Reg.DEV_IMG_VER.FUSED (max (s.get Reg.DEV_IMG_VER.FUSED) (s.get Reg.DEV_IMG_VER.ROLLBACK))
  | none => s

/-! ### The shelf again (R102, R163) -/

/-- A TABLE payload written into what a BASIN section loads; page 2 is page B, since a load selects page A. -/
def BasinImage.putTable (x : BasinImage) (t : Nat) (p : List Byte) : BasinImage :=
  match x.tables.find? fun d => d.t == t with
  | none => x
  | some d =>
    let pageB := byteAt p 0 != 0
    let x := { x with pool := tabPutList (fun _ => 0) x.pool (if pageB then d.b else d.a) (bytesWords (p.drop 4)) }
    if pageB then { x with compB := x.compB ||| 2 ^ t } else { x with compA := x.compA ||| 2 ^ t }

/-- What the booted slot's image loads for handle `L`: its BASIN section with the TABLE sections of the handle. -/
def State.flashBasin (s : State) (L : Nat) : Option BasinImage :=
  match s.booted with
  | none => none
  | some b =>
    let bs := s.flashRange (slotAddr b) (max 64 (min slotBytes16 (imgHdr (s.flashRange (slotAddr b) 64)).total))
    ((s.basinSections bs).find? fun x => x.2.1 == L).map fun x =>
      (s.sectionsOf bs secTABLE).foldl (fun (y : BasinImage) t => if t.1.target / 256 = L then y.putTable (t.1.target % 256) t.2 else y) x.2.2

/-- The invalid shelf copy of handle `L` is rewritten from the image in flash; a relocation or a return that waits for it goes on. A
copy of a partial image has no source there. -/
def State.shelfRewrite (s : State) (L : Nat) : State :=
  if (s.shelf L).valid || (s.shelf L).part then s
  else match s.flashBasin L with
    | none => s
    | some x =>
      let s := s.putShelf L { image := some x.shelved, valid := true, part := false }
      match s.mapped L with
      | some b => if s.basinState b = bsLOADING then s.reloadHandle L else (s.set (Reg.FAB_B_STAT.SHELF_STALE b) 0).relocNext
      | none => s.relocNext

/-! ### Commands -/

/-- SHELF_REWRITE (R102, R163). -/
def execShelfRewrite (L : Fin 10) (s : State) : Host.Outcome State Fault Refusal := .next (s.shelfRewrite L)

/-- CONFIRM_ON_LIVE (R147): 60 s of continuous LIVE. -/
def execConfirmOnLive (s : State) : Host.Outcome State Fault Refusal :=
  .next (if s.mbx.confirm && s.bit Reg.DEV_IMG_BOOT.TRIAL && s.svc == svcLIVE && decide (s.mbx.liveSince + 60000 ≤ s.now) then s.confirmSlot else s)

/-- IMAGE_BUFFER_TIMEOUT (R368): 10 s without data. -/
def execImageBufferTimeout (s : State) : Host.Outcome State Fault Refusal :=
  .next (match s.mbx.image with
    | some b => if b.at_ + 10000 ≤ s.now then s.setMbx { s.mbx with image := none } else s
    | none => s)

end Sys2Proof.Machine
end

