-- ==== Sys2Proof/Machine/Mailbox.lean ====
section
/-! DEFINITION. The mailbox engine (19_commands_and_states.md, R357 to R369, R435): the checks of R361, the responses, and
what each command does. A request reaches the engine as a frame of a port, or by the command of its own row. -/

namespace Sys2Proof.Machine

/-! ### The catalogue (R367) -/

/-- A row of the catalogue: allowed states, bit s for state s; RUN; presence; accepted from any node. -/
structure MbxRow where
  states : Nat
  run : Bool := false
  pres : Bool := false
  any : Bool := false
deriving DecidableEq, Repr

/-- The row of a code. -/
def mbxRow (code : Nat) : Option MbxRow :=
  match code with
  | 0x0001 => some { states := 15, any := true }
  | 0x0002 => some { states := 15, any := true }
  | 0x0003 => some { states := 15 }
  | 0x0004 => some { states := 15 }
  | 0x0005 => some { states := 15 }
  | 0x0010 => some { states := 10, run := true }
  | 0x0011 => some { states := 12 }
  | 0x0012 => some { states := 10 }
  | 0x0013 => some { states := 6 }
  | 0x0020 => some { states := 15 }
  | 0x0021 => some { states := 15 }
  | 0x0022 => some { states := 15 }
  | 0x0023 => some { states := 6, run := true }
  | 0x0024 => some { states := 6, run := true }
  | 0x0025 => some { states := 6, run := true }
  | 0x0030 => some { states := 15, any := true }
  | 0x0031 => some { states := 15, any := true }
  | 0x0032 => some { states := 15, any := true }
  | 0x0033 => some { states := 6, any := true }
  | 0x0034 => some { states := 15, any := true }
  | 0x0035 => some { states := 15 }
  | 0x0040 => some { states := 15, run := true }
  | 0x0041 => some { states := 15 }
  | 0x0048 => some { states := 15 }
  | 0x0050 => some { states := 15, pres := true, any := true }
  | 0x0051 => some { states := 15, pres := true }
  | 0x0052 => some { states := 15, pres := true }
  | 0x0053 => some { states := 15, pres := true }
  | 0x0054 => some { states := 14, pres := true }
  | 0x0058 => some { states := 15, pres := true }
  | 0x0059 => some { states := 15, pres := true }
  | 0x0060 => some { states := 15 }
  | _ => none

/-- The payload has the length that its code asks for (R367). -/
def mbxLenOk (code : Nat) (p : List Byte) : Bool :=
  match code with
  | 0x0003 | 0x0021 | 0x0030 | 0x0035 | 0x0060 => p.length == 8
  | 0x0004 | 0x0025 => decide (8 ≤ p.length) && p.length == 8 + 4 * leAt p 4 2
  | 0x0005 | 0x0023 | 0x0024 | 0x0040 | 0x0041 | 0x0050 | 0x0052 => p.length == 4
  | 0x0031 => decide (4 ≤ p.length)
  | 0x0048 => decide (4 ≤ p.length) && p.length == 4 + byteAt p 1
  | 0x0059 => p.length == 16
  | _ => p.length == 0

/-- The node that a request over the chain comes from. -/
def portNode : MbxPort → Option Nat
  | .cells n => some n
  | .queue n => some n
  | _ => none

/-- The longest payload of a port (R357). -/
def portMaxLen (p : MbxPort) : Nat := if (portNode p).isSome then 4088 else 4092

/-! ### The checks of R361 -/

/-- The command needs one of these states: a partial IMAGE_OPEN only LOADED and LIVE (R367). -/
def mbxStates (code : Nat) (p : List Byte) (r : MbxRow) : Nat := if code = 0x0030 ∧ byteAt p 0 = 1 then 6 else r.states

/-- A word of a register burst lies in the raw basin windows. -/
def rawBurst (a n : Nat) : Bool := decide (a < 0x600000 ∧ 0x400000 < a + 4 * n)

/-- LOCKED: by adoption (R303), by the field lock (R369), or an unlock challenge that R429 refuses. -/
def State.mbxLocked (s : State) (port : MbxPort) (code : Nat) (p : List Byte) (r : MbxRow) : Bool :=
  (match portNode port with
    | some n => s.bit Reg.CHAIN_OWNER.ADOPTED && !r.any && n != s.get Reg.CHAIN_OWNER.OWNER
    | none => false) ||
  ((code == 0x0003 || code == 0x0004) && s.fieldLocked && rawBurst (leAt p 0 4) (leAt p 4 2)) ||
  (code == 0x0035 && s.fieldLocked && decide (leAt p 0 4 < 0x2010000 ∧ 0x10000 < leAt p 0 4 + leAt p 4 2)) ||
  (code == 0x0058 && (s.sealBlocks || s.lockout))

/-- Bytes of the boot flash that commands reach: 512 Mbit (R354). -/
abbrev flashBytes : Nat := 0x4000000

/-- A payload field outside its range (R367, R435). -/
def State.mbxBadArg (s : State) (port : MbxPort) (code : Nat) (p : List Byte) : Bool :=
  match code with
  | 0x0003 => leAt p 0 4 % 4 != 0 || decide (leAt p 4 2 < 1 ∨ 32 < leAt p 4 2 ∨ 0x600000 < leAt p 0 4 + 4 * leAt p 4 2)
  | 0x0004 => leAt p 0 4 % 4 != 0 || decide (leAt p 4 2 < 1 ∨ 0x600000 < leAt p 0 4 + 4 * leAt p 4 2)
  | 0x0005 => leAt p 0 2 != 0x5AA5
  | 0x0023 | 0x0024 => decide (9 < byteAt p 0) || (s.mapped (byteAt p 0)).isNone
  | 0x0025 =>
    let at_ := leAt p 2 2
    let n := leAt p 4 2
    decide (9 < byteAt p 0 ∨ n < 1 ∨ 1020 < n ∨ poolWords < at_ + n) ||
    match s.mapped (byteAt p 0) with
    | none => true
    | some b => rangesMeet (at_, n) (s.get (Reg.FAB_B_STATE.BASE b), s.get (Reg.FAB_B_STATE.LEN b))
  | 0x0030 => decide (1 < byteAt p 0 ∨ leAt p 4 4 < 1 ∨ (if byteAt p 0 = 1 then 524288 else 16777216) < leAt p 4 4)
  | 0x0031 => match s.mbx.image with
    | some b => leAt p 0 4 != b.bytes.length || decide (b.total < b.bytes.length + p.length - 4)
    | none => true
  | 0x0032 => s.mbx.image.isNone
  | 0x0033 => !s.bit Reg.DEV_IMG_BOOT.TRIAL
  | 0x0035 => decide (leAt p 4 2 < 1 ∨ 4088 < leAt p 4 2 ∨ flashBytes < leAt p 0 4 + leAt p 4 2)
  | 0x0041 => decide (byteAt p 0 < 1 ∨ 3 < byteAt p 0)
  | 0x0048 => decide (127 < byteAt p 0 ∨ 1 < byteAt p 3)
  | 0x0050 => decide (1023 < leAt p 0 2) || (match portNode port with | some n => leAt p 0 2 != n | none => false)
  | 0x0052 => decide (1023 < leAt p 0 2)
  | 0x0060 => decide (leAt p 4 2 < 1 ∨ 64 < leAt p 4 2)
  | _ => false

/-- A hand-over is not over: UNLOAD waits (R370). -/
def State.handOverRuns (s : State) : Bool := (List.range 4).any fun h => s.hoState h != hoIDLE

/-- The image resource is in use: from IMAGE_OPEN to the completion of IMAGE_CLOSE (R368). -/
def State.imageBusy (s : State) : Bool := s.mbx.image.isSome || s.mbx.flashJob.isSome

/-- The resource of the command is in use (R368); the gauge while a test runs (R405). -/
def State.mbxBusy (s : State) (port : MbxPort) (code : Nat) : Bool :=
  match code with
  | 0x0030 => s.imageBusy
  | 0x0012 => s.imageBusy || s.handOverRuns
  | 0x0053 => s.imageBusy
  | 0x0010 | 0x0011 | 0x0013 => s.mbx.loaded.isSome || (match s.mbx.live with | some m => m.port.isSome | none => false)
  | 0x0040 => s.mbx.convCal.isSome
  | 0x0041 => s.mbx.gaugeCal.isSome || s.converterInTest.isSome
  | 0x0048 => s.mbx.twc.any fun q => portCode q == portCode port
  | _ => false

/-- The first refusal of R361, with the payload of its response (R362). -/
def State.mbxRefused (s : State) (port : MbxPort) (code : Nat) (lenOk : Bool) (p : List Byte) : Option (Nat × List Byte) :=
  match mbxRow code with
  | none => some (stBAD_CODE, [])
  | some r =>
    if !lenOk || !mbxLenOk code p || decide (portMaxLen port < p.length) then some (stBAD_LENGTH, [])
    else if s.mbxLocked port code p r then some (stLOCKED, [])
    else if mbxStates code p r / 2 ^ s.svc % 2 = 0 || (r.run && !s.runMode) then
      some (stNOT_IN_STATE, leBytes 1 (mbxStates code p r) ++ leBytes 1 (b2n r.run))
    else if r.pres && !s.presValid then some (stPRESENCE, [])
    else if s.mbxBadArg port code p then some (stBAD_ARG, [])
    else if s.mbxBusy port code then some (stBUSY, [])
    else none

/-! ### Responses (R358) -/

/-- A response goes back to the port it belongs to. -/
def State.respond (s : State) (port : MbxPort) (code status : Nat) (payload : List Byte) : State :=
  let f := s.respFrame status code payload
  match port with
  | .hsp => (s.setHost { s.host with mbxRsp := f, mbxPos := 0 }).set Reg.HOST_MBX_STAT.RESP 1 |>.set Reg.HOST_MBX_STAT.BUSY 0
      |>.set Reg.HOST_MBX_STAT.LEN f.length
  | .twt => s.setHost { s.host with twtRsp := some f, twtStatus := status }
  | .cells n => s.setMbx { s.mbx with chainOut := s.mbx.chainOut ++ [(n, false, f)] }
  | .queue n => s.setMbx { s.mbx with chainOut := s.mbx.chainOut ++ [(n, true, f)] }

/-- What a command does: the state, its status and response payload, what follows the response, and whether the response comes now; it does
not for a burst whose next access waits. -/
structure Reply where
  s : State
  status : Nat := stOK
  payload : List Byte := []
  later : State → State := id
  answer : Bool := true

/-- The responses and completions for the chain are handed to it as MRSP messages (R303). -/
def State.sendResponses (s : State) : State :=
  s.mbx.chainOut.foldl (fun (s : State) (r : Nat × Bool × List Byte) => s.sendMsg ctMRSP r.1 r.2.2) (s.setMbx { s.mbx with chainOut := [] })

/-- What a refusal shows: a partial image turned away because another load is in progress reason 0x16 (R141, R150); a burst in the raw windows
that the field lock denies DENIED (R428). -/
def State.noteRefused (s : State) (code st : Nat) (p : List Byte) : State :=
  if (code == 0x0003 || code == 0x0004) && st == stLOCKED && s.fieldLocked && rawBurst (leAt p 0 4) (leAt p 4 2) then s.flag Reg.SEC_EVT.DENIED
  else if code = 0x0030 && st = stBUSY && byteAt p 0 = 1 then
    s.set Reg.DEV_IMG_STAT.REASON 0x16 |>.set Reg.DEV_IMG_STAT.SECTION 0 |>.setNat Reg.DEV_IMG_DETAIL.word 0
  else s

/-- A request at the engine (R361): refused without side effect, or executed and answered. -/
def State.request (s : State) (snd : Sender) (code : Nat) (lenOk : Bool) (p : List Byte) (body : Sender → List Byte → State → Reply) : State :=
  match s.mbxRefused snd.port code lenOk p with
  | some (st, payload) => (s.noteRefused code st p).respond snd.port code st payload
  | none =>
    let r := body snd p s
    if r.answer then r.later (r.s.respond snd.port code r.status r.payload) else r.s

/-! ### What the commands do (R364 to R367, R435) -/

/-- GET_INFO. -/
def bodyGetInfo (_ : Sender) (_ : List Byte) (s : State) : Reply :=
  let ws := [Reg.DEV_ID.word, Reg.DEV_UID.word 0, Reg.DEV_UID.word 1, Reg.DEV_UID.word 2, Reg.DEV_UID.word 3, Reg.DEV_IMG_ID.word,
    Reg.DEV_IMG_VER.word, Reg.DEV_IMG_BOOT.word].map fun f => s.word f.addr
  { s := s, payload := wordsBytes ws ++ leBytes 1 (s.mode + 128 * b2n s.changing) ++ [0, 0, 0] }

/-- GET_STATE. -/
def bodyGetState (_ : Sender) (_ : List Byte) (s : State) : Reply := { s := s, payload := leBytes 4 (s.word Reg.DEV_SVC.word.addr).toNat }

/-- A burst of register accesses begins (R13, R367): its answer comes once the last of them is done. -/
def State.burst (s : State) (b : Burst) : Reply :=
  let s := (s.setMbx { s.mbx with burst := some b }).arbiter
  match s.mbx.burst with
  | some b => if b.over then { s := s.setMbx { s.mbx with burst := none }, status := b.status, payload := b.payload } else { s := s, answer := false }
  | none => { s := s }

/-- REG_READ: a refused or timed-out word reads 0. -/
def bodyRegRead (snd : Sender) (p : List Byte) (s : State) : Reply := s.burst { sender := snd, addr := leAt p 0 4, words := none, len := leAt p 4 2 }

/-- REG_WRITE: words are written in order up to the first refused one, whose index the response gives. -/
def bodyRegWrite (snd : Sender) (p : List Byte) (s : State) : Reply :=
  s.burst { sender := snd, addr := leAt p 0 4, words := some ((numsAt 4 (leAt p 4 2) p 8).map (BitVec.ofNat 32)), len := leAt p 4 2 }

/-- RESET: the reset follows the response within 1 ms. -/
def bodyReset (_ : Sender) (_ : List Byte) (s : State) : Reply := { s := s.setPwr { s.pwr with resetDue := 4 } }

/-- GO_LIVE (R365, R366). -/
def bodyGoLive (snd : Sender) (_ : List Byte) (s : State) : Reply :=
  let cause := s.get Reg.DEV_SVC.CAUSE
  if s.svc = svcSAFE && s.causeHolds cause then
    { s := s, status := stACCEPTED, later := fun t => t.complete snd.port 0x0010 stFAULT [BitVec.ofNat 8 cause] }
  else
    let applied := match s.mbx.live with
      | some m => m.applied
      | none => false
    { s := s.setMbx { s.mbx with live := some ⟨some snd.port, applied⟩ }, status := stACCEPTED }

/-- GO_LOADED: the outputs park, and the completion follows the last stop (R365). -/
def bodyGoLoaded (snd : Sender) (_ : List Byte) (s : State) : Reply :=
  { s := ((s.setMbx { s.mbx with loaded := some snd.port, live := none }).setSvc svcLOADED).safeUnpark.followParking, status := stACCEPTED,
    later := fun t => t.liveSettle }

/-- UNLOAD (R364): no image, and the fabric idle. -/
def bodyUnload (_ : Sender) (_ : List Byte) (s : State) : Reply :=
  let s := (s.setMbx { s.mbx with live := none }).unloadFabric
  let s := (List.range 96).foldl (fun (s : State) k => s.setWord (Reg.RX_ROUTE.word k).addr 0) s
  { s := (s.setNat Reg.DEV_IMG_ID.word 0).enterBare }

/-- ENTER_SAFE (R366). -/
def bodyEnterSafe (_ : Sender) (_ : List Byte) (s : State) : Reply := { s := s.enterSafe causeHOST }

/-- COMMIT: GO, and the tick at which it applies (R35, R38). -/
def bodyCommit (snd : Sender) (_ : List Byte) (s : State) : Reply :=
  let t := s.commitGo snd.cyc
  if s.armed then { s := t, status := stBUSY }
  else { s := t, payload := leBytes 6 (if s.weirPhase snd.cyc then s.nextCount else s.tick.count).toNat ++ [0, 0] }

/-- COMMIT_AT (R39): DEV_COMMIT_AT is written; BUSY and LATE come back in STATUS. -/
def bodyCommitAt (snd : Sender) (p : List Byte) (s : State) : Reply :=
  let t := BitVec.ofNat 48 (leAt p 0 6)
  let c := s.armCode t snd.cyc
  let s := (s.set Reg.DEV_COMMIT_AT_HI.TICK (leAt p 4 2)).armWrite (BitVec.ofNat 32 (leAt p 0 4)) snd.cyc
  { s := s, status := if c = ceBUSY then stBUSY else if c = ceLATE then stLATE else stOK }

/-- COMMIT_CANCEL (R40). -/
def bodyCommitCancel (_ : Sender) (_ : List Byte) (s : State) : Reply := { s := s.cancelArmed }

/-- HOLD of the handle's basin is staged (R160). -/
def State.stageHold (s : State) (snd : Sender) (L : Nat) (hold : Bool) : Reply :=
  match s.mapped L with
  | none => { s := s, status := stBAD_ARG }
  | some b =>
    let t := s.tcWrite .mailbox (Reg.FAB_B_CTL.word b).addr (if hold then 1 else 0) snd.cyc
    { s := t, status := endStatus stOK t.bus.last }

/-- BASIN_HOLD. -/
def bodyBasinHold (snd : Sender) (p : List Byte) (s : State) : Reply := s.stageHold snd (byteAt p 0) true

/-- BASIN_RESUME. -/
def bodyBasinResume (snd : Sender) (p : List Byte) (s : State) : Reply := s.stageHold snd (byteAt p 0) false

/-- POOL_WRITE: the shelf, then the pool (R101). -/
def bodyPoolWrite (_ : Sender) (p : List Byte) (s : State) : Reply :=
  match s.mapped (byteAt p 0) with
  | none => { s := s, status := stBAD_ARG }
  | some b =>
    { s := (numsAt 4 (leAt p 4 2) p 8).zipIdx.foldl (fun (s : State) (e : Nat × Nat) =>
        s.poolWriteShelf (byteAt p 0) b (leAt p 2 2 + e.2) (BitVec.ofNat 32 e.1)) s }

/-- IMAGE_OPEN. -/
def bodyImageOpen (snd : Sender) (p : List Byte) (s : State) : Reply :=
  { s := s.setMbx { s.mbx with image := some { part := byteAt p 0 == 1, total := leAt p 4 4, port := snd.port, at_ := s.now } } }

/-- Bytes join the image buffer, which lies in the stewards' working area (R99); the 10 s of R368 begin again. -/
def State.imageAppend (s : State) (bs : List Byte) : State :=
  match s.mbx.image with
  | some b => (s.setMbx { s.mbx with image := some { b with bytes := b.bytes ++ bs, at_ := s.now } }).ownWritten workBase 0xA7000
  | none => s

/-- IMAGE_DATA. -/
def bodyImageData (_ : Sender) (p : List Byte) (s : State) : Reply := { s := s.imageAppend (p.drop 4) }

/-- IMAGE_CLOSE: a partial image is checked and applied (R143), the write of a full one to flash begins (R148); `bad` is the flash
address at which that will fail. -/
def bodyImageClose (bad : Option Nat) (snd : Sender) (_ : List Byte) (s : State) : Reply :=
  match s.mbx.image with
  | none => { s := s, status := stBAD_ARG }
  | some b =>
    { s := s.setMbx { s.mbx with image := none }, status := stACCEPTED, later := fun t =>
        if b.part then
          match t.imageRefused b.bytes true t.persisted with
          | some f => t.imageEnd snd.port b.bytes (some f)
          | none => (t.applyPartial snd.cyc b.bytes (if (portNode snd.port).isSome then 3 else 2)).imageEnd snd.port b.bytes none
        else t.setMbx { t.mbx with flashJob := some { port := snd.port, bytes := b.bytes, bad := bad } } }

/-- IMAGE_CONFIRM (R147). -/
def bodyImageConfirm (_ : Sender) (_ : List Byte) (s : State) : Reply := { s := s.confirmSlot }

/-- IMAGE_ABORT. -/
def bodyImageAbort (_ : Sender) (_ : List Byte) (s : State) : Reply := { s := s.setMbx { s.mbx with image := none } }

/-- FLASH_READ. -/
def bodyFlashRead (_ : Sender) (p : List Byte) (s : State) : Reply := { s := s, payload := s.flashRange (leAt p 0 4) (leAt p 4 2) }

/-- CONV_CAL (R177, R193): completes when both parts have run; a part whose domain is off has nothing to calibrate. -/
def bodyConvCal (snd : Sender) (p : List Byte) (s : State) : Reply :=
  let s := if s.domOn .ain && !s.bit Reg.AIN_STAT.NOSUPPLY then s.aiCalStart (leAt p 0 2) else s
  let s := if s.domOn .aout then s.aoCalStart (leAt p 2 2) else s
  let ain := leAt p 0 2 != 0 && s.bit Reg.AIN_STAT.CAL_BUSY
  let aout := leAt p 2 2 != 0 && s.bit Reg.AOUT_STAT.CAL_BUSY
  if ain || aout then { s := s.setMbx { s.mbx with convCal := some snd.port, convAin := ain, convAout := aout }, status := stACCEPTED }
  else { s := s, status := stACCEPTED, later := fun t => t.complete snd.port 0x0040 stOK [] }

/-- GAUGE_CAL (R324). -/
def bodyGaugeCal (snd : Sender) (p : List Byte) (s : State) : Reply :=
  { s := (s.setMbx { s.mbx with gaugeCal := some snd.port, gaugeLeft := byteAt p 0 % 4 }).gaugeCalibrate (byteAt p 0 % 4), status := stACCEPTED }

/-- TWC_XFER (R350): one transfer joins the queue. -/
def bodyTwcXfer (snd : Sender) (p : List Byte) (s : State) : Reply :=
  let x : TwcXfer := { port := snd.port, addr := byteAt p 0, wdata := p.drop 4, rlen := byteAt p 2, pec := byteAt p 3 == 1 }
  { s := (s.setMbx { s.mbx with twc := s.mbx.twc ++ [snd.port] }).setHost { s.host with twcQueue := s.host.twcQueue ++ [x] }, status := stACCEPTED }

/-- DATA of an OWNER record (R397). -/
def State.ownerData (s : State) : List Byte :=
  leBytes 2 s.nodeId ++ leBytes 2 (s.get Reg.CHAIN_OWNER.OWNER) ++ leBytes 1 (s.get Reg.CHAIN_OWNER.ADOPTED)

/-- ADOPT (R435). -/
def bodyAdopt (_ : Sender) (p : List Byte) (s : State) : Reply :=
  let s := (s.set Reg.CHAIN_OWNER.OWNER (leAt p 0 2)).set Reg.CHAIN_OWNER.ADOPTED 1
  { s := s.note rtOWNER s.ownerData }

/-- RELEASE (R435). -/
def bodyRelease (_ : Sender) (_ : List Byte) (s : State) : Reply :=
  let s := s.set Reg.CHAIN_OWNER.ADOPTED 0
  { s := s.note rtOWNER s.ownerData }

/-- SET_IDENTITY (R435): both ports restart, and a silence of R305 ends. -/
def bodySetIdentity (_ : Sender) (p : List Byte) (s : State) : Reply :=
  let s := s.set Reg.CHAIN_LINK_STAT.NODE_ID (leAt p 0 2)
  let s := s.note rtOWNER s.ownerData
  let s := s.setChain { s.chain with silent := false }
  { s := if s.domOn .chn then (s.chainRestart 0).chainRestart 1 else s }

/-- The ledger is erased but for the records that FACTORY_RESET keeps, which fill freshly erased sectors in order (R397). -/
def State.ledgerKeep (s : State) : State :=
  let kept := s.ledger.filter fun r => recType r != rtOWNER && recType r != rtPOLICY
  let erases := fun (i : Nat) => match s.sectorHdr i with
    | some (_, e) => e + 1
    | none => 1
  let t := s.flashErase ledgerBase 0x40000
  (List.range 64).foldl (fun (t : State) i =>
    let rs := (kept.drop (127 * i)).take 127
    if rs.isEmpty && i != 0 then t
    else (t.flashProgram (sectorAddr i) (sectorHeader (i + 1) (erases i))).copyRecs i (List.range 127) rs) t

/-- The node ID of a device without an OWNER record (R435). -/
def uidNode : Nat := (Config.uidWord 0).toNat % 1024

/-- FACTORY_RESET (R435): completes in BARE, after the reset. -/
def bodyFactoryReset (snd : Sender) (_ : List Byte) (s : State) : Reply :=
  let s := s.endSession.ledgerKeep
  let s := (s.set Reg.CHAIN_LINK_STAT.NODE_ID uidNode).showLedger
  { s := (s.setStew { s.stew with records := [] }).setPwr { s.pwr with noBoot := true, resetDue := 5, factory := some snd.port }, status := stACCEPTED }

/-- The registers that a POLICY section may name (R135). -/
def policyRegs : List Nat :=
  (rowsStew.map fun r => (List.range r.count1).map fun i => r.base + r.stride1 * i).flatten.filter (fun a => tupleOk secPOLICY false a) ++
    [Reg.CLK_PLLA_SRC.word.addr, Reg.CLK_PLLA_POL.word.addr]

/-- POLICY_PERSIST (R435). -/
def bodyPolicyPersist (_ : Sender) (_ : List Byte) (s : State) : Reply :=
  { s := policyRegs.foldl (fun (s : State) a => s.note rtPOLICY (leBytes 4 a ++ leBytes 4 (s.word a).toNat)) s }

/-- UNLOCK_CHALLENGE (R429). -/
def bodyUnlockChallenge (_ : Sender) (_ : List Byte) (s : State) : Reply :=
  if s.bit Reg.SEC_STAT.UKEY then { s := s.drawNonce.2, payload := s.drawNonce.1 } else { s := s, status := stFAULT }

/-- UNLOCK_RESPONSE (R430). -/
def bodyUnlockResponse (_ : Sender) (p : List Byte) (s : State) : Reply :=
  { s := (s.unlockResponse p).2, status := if (s.unlockResponse p).1 then stOK else stAUTH_FAILED }

/-- LEDGER_READ (R399). -/
def bodyLedgerRead (_ : Sender) (p : List Byte) (s : State) : Reply :=
  { s := s, payload := ((s.ledger.filter fun r => decide (leAt p 0 4 ≤ recIndex r)).take (leAt p 4 2)).flatten }

/-! ### The engine (R359) -/

/-- What the command of a code does; `bad` as in an IMAGE_CLOSE. -/
def mbxBody (code : Nat) (bad : Option Nat) : Sender → List Byte → State → Reply :=
  match code with
  | 0x0001 => bodyGetInfo
  | 0x0002 => bodyGetState
  | 0x0003 => bodyRegRead
  | 0x0004 => bodyRegWrite
  | 0x0005 => bodyReset
  | 0x0010 => bodyGoLive
  | 0x0011 => bodyGoLoaded
  | 0x0012 => bodyUnload
  | 0x0013 => bodyEnterSafe
  | 0x0020 => bodyCommit
  | 0x0021 => bodyCommitAt
  | 0x0022 => bodyCommitCancel
  | 0x0023 => bodyBasinHold
  | 0x0024 => bodyBasinResume
  | 0x0025 => bodyPoolWrite
  | 0x0030 => bodyImageOpen
  | 0x0031 => bodyImageData
  | 0x0032 => bodyImageClose bad
  | 0x0033 => bodyImageConfirm
  | 0x0034 => bodyImageAbort
  | 0x0035 => bodyFlashRead
  | 0x0040 => bodyConvCal
  | 0x0041 => bodyGaugeCal
  | 0x0048 => bodyTwcXfer
  | 0x0050 => bodyAdopt
  | 0x0051 => bodyRelease
  | 0x0052 => bodySetIdentity
  | 0x0053 => bodyFactoryReset
  | 0x0054 => bodyPolicyPersist
  | 0x0058 => bodyUnlockChallenge
  | 0x0059 => bodyUnlockResponse
  | _ => bodyLedgerRead

/-- One request frame is executed (R357): its LEN shall be the number of payload bytes. Over the chain the cells pad a frame,
so the payload is what LEN names of it. A frame too short for its LEN field has no code in the catalogue. -/
def State.serveFrame (s : State) (q : MbxReq) : State :=
  let snd := q.sender
  let f := q.frame
  let code := if f.length < 2 then 0 else leAt f 0 2
  let len := leAt f 2 2
  let p := if (portNode snd.port).isSome then (f.drop 4).take len else f.drop 4
  s.request snd code (4 ≤ f.length && p.length == len) p (mbxBody code q.bad)

/-- A burst whose last access is done is answered. -/
def State.burstEnd (s : State) : State :=
  match s.mbx.burst with
  | some b =>
    if b.over then (s.setMbx { s.mbx with burst := none }).respond b.sender.port (if b.words.isSome then 0x0004 else 0x0003) b.status b.payload
    else s
  | none => s

/-- Requests that wait are executed in order; a request that one of them completes comes after them (R359). A burst that waits holds
them back. -/
def State.runEngine : Nat → State → State
  | 0, s => s
  | n + 1, s =>
    if s.mbx.burst.isSome then s
    else match s.mbx.waiting with
      | [] => s
      | q :: rest => ((s.setMbx { s.mbx with waiting := rest }).serveFrame q).runEngine n

/-- The engine at the end of a command: a burst's answer, up to eight requests, then the chain's responses. It runs only with SYS. -/
def State.engine (s : State) : State := if s.domOn .sys then (s.arbiter.burstEnd.runEngine 8).sendResponses else s

/-- A request by the command of its own row: it waits while a burst runs; `bad` as in an IMAGE_CLOSE. -/
def State.ask (s : State) (snd : Sender) (code : Nat) (p : List Byte) (body : Sender → List Byte → State → Reply) (bad : Option Nat := none) : State :=
  if !s.domOn .sys then s
  else if s.mbx.burst.isSome then (s.enqueue snd (leBytes 2 code ++ leBytes 2 p.length ++ p) bad).engine
  else (s.request snd code true p body).engine

/-! ### Commands -/

/-- GET_INFO (R367). -/
def execGetInfo (snd : Sender) (s : State) : Host.Outcome State Fault Refusal := .next (s.ask snd 0x0001 [] bodyGetInfo)

/-- GET_STATE (R367). -/
def execGetState (snd : Sender) (s : State) : Host.Outcome State Fault Refusal := .next (s.ask snd 0x0002 [] bodyGetState)

/-- REG_READ (R367). -/
def execRegRead (snd : Sender) (a : Word) (n : BitVec 16) (s : State) : Host.Outcome State Fault Refusal :=
  .next (s.ask snd 0x0003 (leBytes 4 a.toNat ++ leBytes 2 n.toNat ++ [0, 0]) bodyRegRead)

/-- REG_WRITE (R367). -/
def execRegWrite (snd : Sender) (a : Word) (ws : List Word) (s : State) : Host.Outcome State Fault Refusal :=
  .next (s.ask snd 0x0004 (leBytes 4 a.toNat ++ leBytes 2 ws.length ++ [0, 0] ++ wordsBytes ws) bodyRegWrite)

/-- RESET (R367). -/
def execResetCommand (snd : Sender) (key : BitVec 16) (s : State) : Host.Outcome State Fault Refusal :=
  .next (s.ask snd 0x0005 (leBytes 2 key.toNat ++ [0, 0]) bodyReset)

/-- GO_LIVE (R365). -/
def execGoLive (snd : Sender) (s : State) : Host.Outcome State Fault Refusal := .next (s.ask snd 0x0010 [] bodyGoLive)

/-- GO_LOADED (R365). -/
def execGoLoaded (snd : Sender) (s : State) : Host.Outcome State Fault Refusal := .next (s.ask snd 0x0011 [] bodyGoLoaded)

/-- UNLOAD (R364). -/
def execUnload (snd : Sender) (s : State) : Host.Outcome State Fault Refusal := .next (s.ask snd 0x0012 [] bodyUnload)

/-- ENTER_SAFE (R366). -/
def execEnterSafe (snd : Sender) (s : State) : Host.Outcome State Fault Refusal := .next (s.ask snd 0x0013 [] bodyEnterSafe)

/-- COMMIT (R367). -/
def execCommitCmd (snd : Sender) (s : State) : Host.Outcome State Fault Refusal := .next (s.ask snd 0x0020 [] bodyCommit)

/-- COMMIT_AT (R367). -/
def execCommitAt (snd : Sender) (t : TickNo) (s : State) : Host.Outcome State Fault Refusal :=
  .next (s.ask snd 0x0021 (leBytes 6 t.toNat ++ [0, 0]) bodyCommitAt)

/-- COMMIT_CANCEL (R367). -/
def execCommitCancel (snd : Sender) (s : State) : Host.Outcome State Fault Refusal := .next (s.ask snd 0x0022 [] bodyCommitCancel)

/-- BASIN_HOLD (R160). -/
def execBasinHold (snd : Sender) (L : Byte) (s : State) : Host.Outcome State Fault Refusal := .next (s.ask snd 0x0023 [L, 0, 0, 0] bodyBasinHold)

/-- BASIN_RESUME (R160). -/
def execBasinResume (snd : Sender) (L : Byte) (s : State) : Host.Outcome State Fault Refusal := .next (s.ask snd 0x0024 [L, 0, 0, 0] bodyBasinResume)

/-- POOL_WRITE (R367). -/
def execPoolWrite (snd : Sender) (L : Byte) (a : BitVec 16) (ws : List Word) (s : State) : Host.Outcome State Fault Refusal :=
  .next (s.ask snd 0x0025 ([L, 0] ++ leBytes 2 a.toNat ++ leBytes 2 ws.length ++ [0, 0] ++ wordsBytes ws) bodyPoolWrite)

/-- IMAGE_OPEN (R367). -/
def execImageOpen (snd : Sender) (kind : Byte) (total : Word) (s : State) : Host.Outcome State Fault Refusal :=
  .next (s.ask snd 0x0030 ([kind, 0, 0, 0] ++ leBytes 4 total.toNat) bodyImageOpen)

/-- IMAGE_DATA (R367). -/
def execImageData (snd : Sender) (off : Word) (bs : List Byte) (s : State) : Host.Outcome State Fault Refusal :=
  .next (s.ask snd 0x0031 (leBytes 4 off.toNat ++ bs) bodyImageData)

/-- IMAGE_CLOSE (R367); `bad`: the flash address at which a program or erase of a full image failed, if any (R355). -/
def execImageClose (snd : Sender) (bad : Option Word) (s : State) : Host.Outcome State Fault Refusal :=
  .next (s.ask snd 0x0032 [] (bodyImageClose (bad.map BitVec.toNat)) (bad.map BitVec.toNat))

/-- IMAGE_CONFIRM (R147). -/
def execImageConfirm (snd : Sender) (s : State) : Host.Outcome State Fault Refusal := .next (s.ask snd 0x0033 [] bodyImageConfirm)

/-- IMAGE_ABORT (R367). -/
def execImageAbort (snd : Sender) (s : State) : Host.Outcome State Fault Refusal := .next (s.ask snd 0x0034 [] bodyImageAbort)

/-- FLASH_READ (R367). -/
def execFlashRead (snd : Sender) (a : Word) (n : BitVec 16) (s : State) : Host.Outcome State Fault Refusal :=
  .next (s.ask snd 0x0035 (leBytes 4 a.toNat ++ leBytes 2 n.toNat ++ [0, 0]) bodyFlashRead)

/-- CONV_CAL (R367). -/
def execConvCal (snd : Sender) (ain aout : BitVec 16) (s : State) : Host.Outcome State Fault Refusal :=
  .next (s.ask snd 0x0040 (leBytes 2 ain.toNat ++ leBytes 2 aout.toNat) bodyConvCal)

/-- GAUGE_CAL (R367). -/
def execGaugeCal (snd : Sender) (m : Byte) (s : State) : Host.Outcome State Fault Refusal := .next (s.ask snd 0x0041 [m, 0, 0, 0] bodyGaugeCal)

/-- TWC_XFER (R367). -/
def execTwcXfer (snd : Sender) (a rlen pec : Byte) (ws : List Byte) (s : State) : Host.Outcome State Fault Refusal :=
  .next (s.ask snd 0x0048 ([a, BitVec.ofNat 8 ws.length, rlen, pec] ++ ws) bodyTwcXfer)

/-- ADOPT (R435). -/
def execAdopt (snd : Sender) (owner : BitVec 16) (s : State) : Host.Outcome State Fault Refusal :=
  .next (s.ask snd 0x0050 (leBytes 2 owner.toNat ++ [0, 0]) bodyAdopt)

/-- RELEASE (R435). -/
def execRelease (snd : Sender) (s : State) : Host.Outcome State Fault Refusal := .next (s.ask snd 0x0051 [] bodyRelease)

/-- SET_IDENTITY (R435). -/
def execSetIdentity (snd : Sender) (node : BitVec 16) (s : State) : Host.Outcome State Fault Refusal :=
  .next (s.ask snd 0x0052 (leBytes 2 node.toNat ++ [0, 0]) bodySetIdentity)

/-- FACTORY_RESET (R435). -/
def execFactoryReset (snd : Sender) (s : State) : Host.Outcome State Fault Refusal := .next (s.ask snd 0x0053 [] bodyFactoryReset)

/-- POLICY_PERSIST (R435). -/
def execPolicyPersist (snd : Sender) (s : State) : Host.Outcome State Fault Refusal := .next (s.ask snd 0x0054 [] bodyPolicyPersist)

/-- UNLOCK_CHALLENGE (R429). -/
def execUnlockChallenge (snd : Sender) (s : State) : Host.Outcome State Fault Refusal := .next (s.ask snd 0x0058 [] bodyUnlockChallenge)

/-- UNLOCK_RESPONSE (R430). -/
def execUnlockResponse (snd : Sender) (mac : BitVec 128) (s : State) : Host.Outcome State Fault Refusal :=
  .next (s.ask snd 0x0059 (leBytes 16 mac.toNat) bodyUnlockResponse)

/-- LEDGER_READ (R399). -/
def execLedgerRead (snd : Sender) (index : Word) (n : BitVec 16) (s : State) : Host.Outcome State Fault Refusal :=
  .next (s.ask snd 0x0060 (leBytes 4 index.toNat ++ leBytes 2 n.toNat ++ [0, 0]) bodyLedgerRead)

/-- MREQ (R303): a request frame of chain node `src` has arrived whole; a copy of it is not executed again (R302). -/
def execMreq (src mseq : BitVec 16) (frame : List Byte) (s : State) : Host.Outcome State Fault Refusal :=
  .next ((s.arrive ctMREQ src.toNat s.nodeId mseq.toNat frame).engine)

/-- REGISTER_WRITE (R6): a write of a requester, granted at FAB cycle `cyc` of the tick unless an access of its own still waits. -/
def execRegisterWrite (who : Requester) (a : BitVec 24) (v : Word) (cyc : Nat) (s : State) : Host.Outcome State Fault Refusal :=
  .next (s.access { who := who, addr := a.toNat, write := some v, cyc := cyc }).engine

end Sys2Proof.Machine
end

