-- ==== Sys2Proof/Machine/Ports.lean ====
section
/-! DEFINITION. The host SPI port and the two-wire target (18_host_ports.md, R337 to R349, R356). An HSP frame comes as its
whole words, the command word first; `cut` says that CS_N rose part-way through a further word. -/

namespace Sys2Proof.Machine

/-! ### HSP: errors and status (R339) -/

/-- The CRC of the present frame failed, or, with `cut`, CS_N rose mid-word. -/
def State.hspCrcErr (s : State) : State :=
  (s.setHost { s.host with errCrc := true }).hspCount s.host.frames |>.flag Reg.HOST_HSP_STAT.CRC_ERR
def State.hspAbort (s : State) : State :=
  (s.setHost { s.host with errCrc := true }).hspCount s.host.frames |>.flag Reg.HOST_HSP_STAT.ABORT

/-- The present frame is refused whole (R342). -/
def State.hspMisalign (s : State) : State :=
  (s.setHost { s.host with errAddr := true }).hspCount s.host.frames |>.flag Reg.HOST_HSP_STAT.MISALIGN

/-- A word of the present frame found the buffer full (R340). -/
def State.hspOverflow (s : State) : State :=
  (s.setHost { s.host with errOvf := true }).hspCount s.host.frames |>.flag Reg.HOST_HSP_STAT.OVERFLOW

/-- The word that carries the status byte. -/
def State.hspStatus (s : State) : Word :=
  BitVec.ofNat 32 (16777216 * (1 + 2 * b2n s.host.errOvf + 4 * b2n s.host.errRef + 8 * b2n s.host.errAddr + 16 * b2n s.host.errCrc +
    32 * s.get Reg.HOST_MBX_STAT.RESP + 64 * b2n s.irq.irqB + 128 * b2n s.irq.irqA))

/-- A frame begins: its number, with no error yet. -/
def State.hspBegin (s : State) : State :=
  s.setHost { s.host with
    frames := s.host.frames + 1
    errFrames := s.host.errFrames.filter fun f => s.host.posted.any fun p => p.frame == f
    errCrc := false, errAddr := false, errRef := false, errOvf := false }

/-- The words that the frame shifts out, wait words left aside. -/
def State.hspOut (s : State) (ws : List Word) : State := s.setHost { s.host with miso := ws }

/-! ### HSP: frames (R338 to R343) -/

/-- The frame is refused whole (R342). -/
def hspBad (c : Word) : Bool :=
  hspAddr c % 4 != 0 || decide ((if hspOp c < 2 then 0x5FFFFC else ramBytes - 4) < hspWordAddr c (hspLen c - 1))

/-- The words of a frame join the buffer; one that finds it full is dropped (R340). -/
def State.hspPost (s : State) (c : Word) (ws : List Word) : State :=
  ws.zipIdx.foldl (fun (s : State) (e : Word × Nat) =>
    if 64 ≤ s.host.posted.length then s.hspOverflow
    else s.setHost { s.host with posted := s.host.posted ++ [⟨s.host.frames, decide (hspOp c = 3), hspWordAddr c e.2, e.1⟩] }) s

/-- A read frame: the CRC is checked first, then the address. The fetch begins, and goes on while an access of it waits; a read that comes
while an earlier one is still being fetched takes its place. -/
def State.hspRead (s : State) (status c : Word) (crc : Bool) (ws : List Word) (cyc : Nat) : State :=
  let zeros := List.replicate (hspLen c) (0 : Word)
  if crc && ws.head? != some (hspCrc [c]) then s.hspCrcErr.hspAnswer status crc zeros
  else if hspBad c then s.hspMisalign.hspAnswer status crc zeros
  else (s.setHost { s.host with miso := [status], fetch := some { frame := s.host.frames, status := status, cmd := c, crc := crc, cyc := cyc } }).arbiter

/-- A write frame: without CRC each complete word is posted, with CRC all of them once it is correct. -/
def State.hspWrite (s : State) (status c : Word) (crc : Bool) (ws : List Word) : State :=
  let s := s.hspOut [status]
  let n := hspLen c
  if crc && ws[n]? != some (hspCrc (c :: ws.take n)) then s.hspCrcErr
  else if hspBad c then s.hspMisalign
  else s.hspPost c (ws.take n)

/-- A frame with operation `op`; with SYS off the port is silent. -/
def State.hspFrame (s : State) (op : Nat) (frame : List Word) (cut : Bool) (cyc : Nat) : State :=
  if !s.domOn .sys then s
  else
    let status := s.hspStatus
    let crc := s.bit Reg.HOST_HSP_CFG.CRC
    match frame with
    | [] => if cut then (s.hspBegin.hspOut [status]).hspAbort else s
    | c :: ws =>
      if hspOp c != op then s
      else
        let s := s.hspBegin
        let s := if op % 2 = 1 then s.hspWrite status c crc ws else s.hspRead status c crc ws cyc
        if cut then s.hspAbort else s

/-- HSP_REGISTER_READ (R341). -/
def execHspRegisterRead (frame : List Word) (cut : Bool) (cyc : Nat) (s : State) : Host.Outcome State Fault Refusal := .next (s.hspFrame 0 frame cut cyc).engine

/-- HSP_REGISTER_WRITE (R340). -/
def execHspRegisterWrite (frame : List Word) (cut : Bool) (s : State) : Host.Outcome State Fault Refusal := .next (s.hspFrame 1 frame cut 0)

/-- SYS_RAM_READ (R341). -/
def execSysRamRead (frame : List Word) (cut : Bool) (cyc : Nat) (s : State) : Host.Outcome State Fault Refusal := .next (s.hspFrame 2 frame cut cyc).engine

/-- SYS_RAM_WRITE (R340). -/
def execSysRamWrite (frame : List Word) (cut : Bool) (s : State) : Host.Outcome State Fault Refusal := .next (s.hspFrame 3 frame cut 0)

/-- POSTED_WRITE (R340): nothing while an access of the port waits. -/
def execPostedWrite (cyc : Nat) (s : State) : Host.Outcome State Fault Refusal :=
  .next (if s.domOn .sys && !s.isHeld .hsp then (s.postedWrite cyc).engine else s)

/-! ### The mailbox through HSP (R344) -/

/-- HOST_MBX_GO (R344). -/
def execHostMbxGo (len : BitVec 13) (cyc : Nat) (s : State) : Host.Outcome State Fault Refusal :=
  .next (s.byRow ((s.mbxGo len.toNat cyc).onBus 0 .done).engine)

/-- HOST_MBX_DISCARD (R344). -/
def execHostMbxDiscard (s : State) : Host.Outcome State Fault Refusal := .next (s.byRow (s.mbxDiscard.onBus 0 .done))

/-- HOST_MBX_RX_READ (R344): the word stands on the bus. -/
def execHostMbxRxRead (s : State) : Host.Outcome State Fault Refusal := .next (s.byRow (State.readDone s.mbxRead))

/-! ### The two-wire target (R345 to R349) -/

/-- A transfer addresses window `w`: 7-bit address `x`, with `pins` the levels of ADDR1 and ADDR0 at its START. -/
def State.twtHit (s : State) (x : BitVec 7) (pins : BitVec 2) (w : Nat) : Bool :=
  !twtReserved x.toNat && twtWindow (s.word Reg.HOST_TWT_CFG.word.addr) pins.toNat x.toNat == some w

/-- A START shows the levels of the ADDR balls. -/
def State.twtStart (s : State) (pins : BitVec 2) : State := s.set Reg.HOST_TWT_STAT.PINS pins.toNat

/-- A byte, or a read's address, is not acknowledged. -/
def State.twtNack (s : State) : State := s.flag Reg.HOST_TWT_EVT.NACK

/-- A transfer through window `w`, once SYS runs; its end ends the wake path (R348). STATUS takes
no write and STREAM gives no read. -/
def State.twtTransfer (s : State) (x : BitVec 7) (pins : BitVec 2) (write : Bool) (w : Nat) (act : State → State) : State :=
  if !s.domOn .sys then s
  else if s.twtHit x pins w then
    let t := act (s.twtStart pins)
    t.setHost { t.host with twtWoken := false }
  else (s.twtStart pins).flagIf (s.twtHit x pins (if write then 1 else 2)) Reg.HOST_TWT_EVT.NACK

/-- A request of this port waits at the engine. -/
def State.twtPending (s : State) : Bool := s.mbx.waiting.any fun q => q.sender.port == .twt

/-- A read's bytes, 0xFF past its end. -/
def State.twtReturn (s : State) (n : Nat) (bs : List Byte) : State :=
  s.setHost { s.host with twtOut := (bs ++ List.replicate n 0xFF).take n }

/-- MAILBOX write: a request at the STOP, or discarded whole. -/
def State.twtRequest (s : State) (bs : List Byte) (cyc : Nat) : State :=
  if s.twtPending || decide (4096 < bs.length) then s.twtNack
  else (s.enqueue ⟨.twt, cyc⟩ bs).engine

/-- MAILBOX read of `n` bytes. -/
def State.twtResponse (s : State) (n : Nat) : State :=
  match s.host.twtRsp with
  | some r =>
    let s := s.twtReturn n r
    if r.length ≤ n then s.setHost { s.host with twtRsp := none } else s
  | none => if s.host.twtWoken then s.twtReturn n [] else (s.twtReturn 0 []).twtNack

/-- The eight bytes of STATUS. -/
def State.twtStatusBytes (s : State) : List Byte :=
  leBytes 1 (b2n s.host.twtRsp.isSome + 2 * b2n s.twtPending + 4 * b2n s.irq.irqB + 8 * b2n (s.get Reg.STEW_FSTAT.CLASS != 0) +
      16 * b2n s.presValid + 32 * b2n s.fieldLocked) ++
    leBytes 1 s.svc ++ leBytes 1 (s.mode + 128 * b2n s.changing) ++ leBytes 1 s.host.twtStatus ++
    leBytes 4 (s.get Reg.DEV_IMG_ID.word)

/-- STREAM write: bytes join the image buffer as far as it has room. -/
def State.twtStream (s : State) (bs : List Byte) : State :=
  match s.mbx.image with
  | some b =>
    let room := b.total - b.bytes.length
    (s.imageAppend (bs.take room)).flagIf (room < bs.length) Reg.HOST_TWT_EVT.NACK
  | none => s.flagIf (!bs.isEmpty) Reg.HOST_TWT_EVT.NACK

/-- CLAIM read: one claim for target HB, low byte first. -/
def State.twtClaim (s : State) : State :=
  let c := s.claim 1
  c.2.twtReturn 2 (leBytes 2 c.1.toNat)

/-- CLAIM write: two bytes complete an ID; a third is not acknowledged. -/
def State.twtComplete (s : State) (bs : List Byte) : State :=
  if bs.length = 2 then s.completeSource (byteAt bs 0) 1 else s.flagIf (2 < bs.length) Reg.HOST_TWT_EVT.NACK

/-- MAILBOX_WRITE (R347). -/
def execMailboxWrite (x : BitVec 7) (pins : BitVec 2) (bs : List Byte) (cyc : Nat) (s : State) : Host.Outcome State Fault Refusal :=
  .next (s.twtTransfer x pins true 0 fun s => s.twtRequest bs cyc)

/-- MAILBOX_READ (R347) of `n` bytes. -/
def execMailboxRead (x : BitVec 7) (pins : BitVec 2) (n : Nat) (s : State) : Host.Outcome State Fault Refusal :=
  .next (s.twtTransfer x pins false 0 fun s => s.twtResponse n)

/-- STATUS_READ (R347) of `n` bytes. -/
def execStatusRead (x : BitVec 7) (pins : BitVec 2) (n : Nat) (s : State) : Host.Outcome State Fault Refusal :=
  .next (s.twtTransfer x pins false 1 fun s => s.twtReturn n s.twtStatusBytes)

/-- STREAM_WRITE (R347). -/
def execStreamWrite (x : BitVec 7) (pins : BitVec 2) (bs : List Byte) (s : State) : Host.Outcome State Fault Refusal :=
  .next (s.twtTransfer x pins true 2 fun s => s.twtStream bs)

/-- CLAIM_READ (R347). -/
def execClaimRead (x : BitVec 7) (pins : BitVec 2) (s : State) : Host.Outcome State Fault Refusal := .next (s.twtTransfer x pins false 3 State.twtClaim)

/-- CLAIM_WRITE (R347). -/
def execClaimWrite (x : BitVec 7) (pins : BitVec 2) (bs : List Byte) (s : State) : Host.Outcome State Fault Refusal :=
  .next (s.twtTransfer x pins true 3 fun s => s.twtComplete bs)

/-- TWT_ABORT (R349): a transfer is abandoned after `bs` bytes were acknowledged. A STREAM write keeps those. -/
def execTwtAbort (x : BitVec 7) (pins : BitVec 2) (bs : List Byte) (s : State) : Host.Outcome State Fault Refusal :=
  let abandon := fun (s : State) => (s.count Reg.HOST_TWT_STAT.ABORTS 1).flag Reg.HOST_TWT_EVT.ABORT
  .next (if s.twtHit x pins 2 then s.twtTransfer x pins true 2 fun s => abandon (s.imageAppend (bs.take (match s.mbx.image with
      | some b => b.total - b.bytes.length
      | none => 0)))
    else if s.twtHit x pins 0 then s.twtTransfer x pins true 0 abandon
    else if s.twtHit x pins 1 then s.twtTransfer x pins false 1 abandon
    else s.twtTransfer x pins true 3 abandon)

/-- An address match that wakes the device (R348). -/
def State.twtWake (s : State) (x : BitVec 7) (pins : BitVec 2) : State :=
  if (List.range 4).any (fun w => s.twtHit x pins w) && (s.wakeMode == modeLISTEN || s.wakeMode == modeDORMANT) && s.bit Reg.HOST_TWT_CFG.WAKE then
    let s := s.wake 2
    let s := s.setHost { s.host with twtWoken := true }
    s.flagIf (s.domOn .sys) Reg.HOST_TWT_EVT.WAKE
  else s

/-- TWT_WAKE (R348): HOST_TWT_EVT.WAKE is set once SYS runs. -/
def execTwtWake (x : BitVec 7) (pins : BitVec 2) (s : State) : Host.Outcome State Fault Refusal := .next (s.twtWake x pins)

end Sys2Proof.Machine
end

