-- ==== Sys2Proof/Machine/Boot.lean ====
section
/-! DEFINITION. Resets, start-up and the return from sleep (22_power_modes_and_reset.md, R416 to R421; R387, R391, R399,
R435, R436, R460). -/

namespace Sys2Proof.Machine

/-- Causes of R419. -/
abbrev rcPOR : Nat := 0
abbrev rcRESET_N : Nat := 1
abbrev rcWATCHDOG : Nat := 2
abbrev rcSLEEP : Nat := 5

/-! ### Resets (R418, R419, R435, R460) -/

/-- Fields that a reset leaves: what the fuses hold, the broken seal, and the levels of balls and supplies (R442). -/
def keptFields : List Fld :=
  (List.range 32).map (fun i => Reg.SEC_KEY_H.word (i / 8) (i % 8)) ++
    [Reg.DEV_IMG_VER.FUSED, Reg.SEC_STAT.LOCK_FUSE, Reg.SEC_STAT.UKEY, Reg.SEC_STAT.IKEY, Reg.SEC_STAT.SLOT_SET, Reg.SEC_STAT.SLOT_REVOKED,
     Reg.SEC_STAT.SEAL_OPEN, Reg.SEC_STAT.SEAL_BROKEN, Reg.PWRM_STAT.SUPPLY_OK, Reg.GPIO_IN.LEVEL, Reg.HOST_TWT_STAT.PINS]

/-- Every register takes its reset value, and start-up begins. The flash, the fuses and the commands that wait stay. -/
def State.resetDevice (s : State) (cause : Nat) : State :=
  let t : State := { ({} : State) with
    now := s.now
    free := s.free
    flash := s.flash
    sec := { ikey := s.sec.ikey, ukey := s.sec.ukey, lockRec := s.sec.lockRec }
    pwr := { noBoot := s.pwr.noBoot, factory := s.pwr.factory }
    pending := s.pending }
  let t := keptFields.foldl (fun (t : State) f => t.set f (s.get f)) t
  (t.set Reg.PWRM_WAKE_SRC.CAUSE cause).showLock

/-- RESET_N: all-off on every switching channel, then the reset; ignored while POR holds the device. -/
def State.resetN (s : State) (cause : Nat) : State :=
  if s.pwr.inReset then s
  else ((List.range 8).foldl (fun (s : State) k => if (s.pscCh k).drive = .low then s else s.allOff k) s).resetDevice cause

/-- The supplies that the device requires (R418), as a mask over SUPPLY_OK: VDD_FAB, VDD_SD and VDDH_SD while WAKE_OUT is high. -/
def State.supplyNeed (s : State) : Nat := if s.pwr.wakeOut then 0xBF else 0xA3

/-- The supplies that are good, by the thresholds of R418, as a mask over SUPPLY_OK. -/
def goodSupplies (v : SupplyLevels) : BitVec 8 :=
  BitVec.ofNat 8 (b2n (1620 ≤ v.vaon) + 2 * b2n (680 ≤ v.vddSoc) + 4 * b2n (600 ≤ v.vddFab) + 8 * b2n (770 ≤ v.vddSd) + 16 * b2n (1080 ≤ v.vddhSd) +
    32 * b2n (1620 ≤ v.vdda18) + 64 * b2n (4750 ≤ v.vdda5) + 128 * b2n (decide (1620 ≤ v.vddioA ∧ 1620 ≤ v.vddioB)))

/-- The wait of R418 before the release of POR. -/
abbrev tmPor : Nat := 0x902

/-- The supplies of `good` are good: POR holds the device while a required one is not, and releases it 2 ms after the last. -/
def State.supplies (s : State) (good : BitVec 8) : State :=
  let need := s.supplyNeed
  let ok := good.toNat &&& need == need
  if s.pwr.inReset then
    let s := s.set Reg.PWRM_STAT.SUPPLY_OK good.toNat
    if !ok then s.stopTimer tmPor
    else if s.due tmPor 2 then s.resetDevice rcPOR
    else if s.timerOn tmPor then s else s.startTimer tmPor
  else
    let mask := good.toNat &&& 0xBF ||| (s.get Reg.PWRM_STAT.SUPPLY_OK &&& 0x40)
    if ok then (s.flagIf (mask != s.get Reg.PWRM_STAT.SUPPLY_OK) Reg.PWRM_EVT.SUPPLY).set Reg.PWRM_STAT.SUPPLY_OK mask
    else
      let s := (s.setPwr { s.pwr with noBoot := false, factory := none }).resetDevice rcPOR
      ((s.setPwr { s.pwr with inReset := true }).set Reg.SEC_STAT.SEAL_BROKEN 0).set Reg.PWRM_STAT.DOM_ON 0
        |>.set Reg.PWRM_STAT.SUPPLY_OK good.toNat

/-! ### The ledger at boot (R387, R399) -/

/-- Basin `b` stands retired: its last RETIRE record is newer than every record of a retest it passed. -/
def retiredIn (l : List (List Byte)) (b : Nat) : Bool :=
  l.any fun r => recType r == rtRETIRE && byteAt (recData r) 0 == b && l.all fun q =>
    !(recType q == rtERROR && byteAt q 1 == clsBASIN && byteAt q 2 == b && byteAt q 3 == 1 && decide (recIndex r < recIndex q))

/-- Owner and node ID of the latest OWNER record; without one the ID comes from DEV_UID. -/
def State.readOwner (s : State) (l : List (List Byte)) : State :=
  match latestRec l rtOWNER with
  | some r => s.set Reg.CHAIN_LINK_STAT.NODE_ID (leAt (recData r) 0 2) |>.set Reg.CHAIN_OWNER.OWNER (leAt (recData r) 2 2)
      |>.set Reg.CHAIN_OWNER.ADOPTED (byteAt (recData r) 4)
  | none => s.set Reg.CHAIN_LINK_STAT.NODE_ID uidNode

/-- A spare row that the ledger records is mapped again. -/
def State.remapSpare (s : State) (r : List Byte) : State :=
  let d := recData r
  ((s.setFab { s.fab with spared := s.fab.spared ++ [1024 * byteAt d 0 + leAt d 1 2] }).set (spareFld (byteAt d 0))
    (max (s.get (spareFld (byteAt d 0))) (byteAt d 3 + 1))).flagIf (byteAt d 3 = 63) Reg.FAB_EVT.SPARE_OUT

/-- The stewards read the ledger. -/
def State.readLedger (s : State) : State :=
  let l := s.ledger
  let s := s.showLedger.setNat Reg.STEW_MINUTES.word (l.foldl (fun m r => max m (recMinutes r)) 0)
  let s := s.setStew { s.stew with msSkim := 60000 * (s.get Reg.STEW_MINUTES.MIN - ((latestRec l rtMARGIN).map recMinutes).getD 0) }
  let s := (List.range 10).foldl (fun (s : State) b => if retiredIn l b then s.retireBasin b else s) s
  let s := (l.filter fun r => recType r == rtSPARE).foldl (fun (s : State) r => s.remapSpare r) s
  let s := s.readOwner l
  let s := match latestRec l rtLOCK with
    | some r => s.setSec { s.sec with lockRec := byteAt (recData r) 0 == 1 }
    | none => s.setSec { s.sec with lockRec := false }
  let broken := match latestRec l rtSEAL, latestRec l rtLOCK with
    | some a, some b => decide (recIndex b < recIndex a)
    | some _, none => true
    | none, _ => false
  let s := if broken && s.get Reg.PWRM_WAKE_SRC.CAUSE == rcPOR then s.set Reg.SEC_STAT.SEAL_BROKEN 1 else s
  s.showLock

/-- The VDD_FAB setpoint that the ledger holds goes to the regulator (R421). -/
def State.storedVfab (s : State) : State :=
  match latestRec s.ledger rtMARGIN with
  | some r => s.setStew { s.stew with vfab := some (leAt (recData r) 0 2) }
  | none => s

/-! ### The boot flash at boot (R354, R355) -/

/-- The flash passes the checks of R355: an ID that is neither all zeros nor all ones, 512 Mbit, a 4-byte read. -/
def flashOk (f : FlashId) : Bool := f.jedec != 0 && f.jedec != 0xFFFFFF && decide (29 ≤ f.density.toNat) && f.read != 0

/-- HOST_BSP_ID and HOST_BSP_STAT. -/
def State.showFlash (s : State) (f : FlashId) : State :=
  s.set Reg.HOST_BSP_ID.JEDEC f.jedec.toNat |>.set Reg.HOST_BSP_STAT.DENSITY f.density.toNat |>.set Reg.HOST_BSP_STAT.READ f.read.val
    |>.set Reg.HOST_BSP_STAT.OK (b2n (flashOk f))

/-- The flash is identified and the ledger read; a flash that fails leaves the device without either. -/
def State.readFlash (s : State) (f : FlashId) : State :=
  let s := s.showFlash f
  if flashOk f then s.readLedger else s.set Reg.CHAIN_LINK_STAT.NODE_ID uidNode

/-- The boot of R146; a flash that failed leaves BARE, with reason FLASH for both slots. -/
def State.boot (s : State) : State :=
  if s.pwr.noBoot then s
  else if s.bit Reg.HOST_BSP_STAT.OK then s.bootSlots
  else ((s.set Reg.DEV_IMG_STAT.REASON 0x17).setSlotReason false 0x17).setSlotReason true 0x17

/-- The BOOT record (R397). -/
def State.bootRecord (s : State) : State :=
  s.note rtBOOT (leBytes 1 (s.get Reg.DEV_IMG_BOOT.BOOTED) ++ leBytes 1 (s.get Reg.PWRM_WAKE_SRC.CAUSE) ++ leBytes 4 (s.get Reg.DEV_IMG_ID.word))

/-! ### Start-up (R421) -/

/-- REF is good and PLL-S and PLL-A have locked. -/
def State.clocksUp (s : State) : Bool := s.bit Reg.CLK_STAT.REF_OK && s.locked pllS && s.locked pllA

/-- VDDA_5 is absent at the start of AIN and of the headphones (R178, R201). -/
def State.noVdda5 (s : State) : State :=
  if s.bitAt Reg.PWRM_STAT.SUPPLY_OK 6 then s
  else s.set Reg.AIN_STAT.NOSUPPLY 1 |>.set Reg.HP_STAT.NOSUPPLY 1 |>.setHpState 0 hpUNAVAILABLE |>.setHpState 1 hpUNAVAILABLE

/-- CONV_CAL of start-up: every channel of both parts; the input part is skipped without VDDA_5. -/
def State.startCal (s : State) : State :=
  let s := if s.bit Reg.AIN_STAT.NOSUPPLY then s
    else s.aiCalibrate 0xFFFF true
  s.aoCalibrate 0xFFFF

/-- FACTORY_RESET completes with OK in BARE (R368). -/
def State.factoryDone (s : State) : State :=
  match s.pwr.factory with
  | some p => (s.setPwr { s.pwr with factory := none }).complete p 0x0053 stOK []
  | none => s

/-- The step of R421 that is due; `f` is what a boot finds at the flash balls. -/
def State.startStep (s : State) (f : FlashId) : State :=
  let go := fun (s : State) (n : Nat) => s.setPwr { s.pwr with startUp := n }
  if s.pwr.inReset then s
  else match s.pwr.startUp with
  | 1 => go (s.setClk { s.clk with sysOnLpo := true }) 2
  | 2 => if s.clocksUp then go (s.noVdda5.returnDomains.ainPowerUp) 3 else s
  | 3 => let s := s.readFlash f
    go (if s.bit Reg.HOST_BSP_STAT.OK then s.storedVfab else s) 4
  | 4 => go ((s.set Reg.AOUT_STAT.READY 1 |>.stopTimer tmAoutReady).gaugeCalibrate 3).startCal 5
  | 5 => if s.get Reg.AIN_CALST.BUSY = 0 && s.get Reg.AOUT_CALST.BUSY = 0 then go (s.set Reg.AIN_STAT.READY 1) 6 else s
  | 6 =>
    let s := s.boot.bootRecord
    ((go (s.setPwr { s.pwr with noBoot := false }) 0).followAll).factoryDone
  | _ => s

/-! ### Return from LISTEN and DORMANT (R416) -/

/-- The supplies that the domains need have come back (R417). -/
def State.suppliesBack (s : State) : Bool := s.get Reg.PWRM_STAT.SUPPLY_OK &&& 0xBF == 0xBF

/-- The service state stored at entry is restored, as far as an image was loaded: LIVE is reached as R365 sets out. -/
def State.restoreSvc (s : State) : State :=
  let svc := s.pwr.svc
  if s.svc = svcBARE || s.svc = svcSAFE then s
  else if svc = svcBARE then ((s.setMbx { s.mbx with live := none }).unloadFabric).enterBare
  else if svc = svcLIVE then s.setMbx { s.mbx with live := some {} }
  else ((s.setMbx { s.mbx with live := none }).setSvc svc).followParking

/-- The step of R416 that is due. -/
def State.sleepStep (s : State) (f : FlashId) : State :=
  match s.pwr.ret with
  | none => s
  | some r =>
    if !r.sleep then s
    else
      let go := fun (s : State) => s.setPwr { s.pwr with ret := some { r with step := r.step + 1 } }
      match r.step with
      | 1 => go ((((s.setPwr { s.pwr with wakeOut := true }).setDom .sys true).irqPowerUp.set Reg.PWRM_WAKE_SRC.CAUSE rcSLEEP).pllOff pllC |>.pllOff pllP)
      | 2 => go (s.flagIf s.host.twtWoken Reg.HOST_TWT_EVT.WAKE)
      | 3 => if s.bit Reg.CLK_STAT.REF_OK then go s else s
      | 4 =>
        if s.clocksUp && s.suppliesBack then
          let s := (s.domainOn .chn).noVdda5
          go (([Dom.fab, Dom.ain, Dom.aout, Dom.pst].foldl (fun (s : State) d => s.domainOn d) s).startTimer tmReturn)
        else s
      | 5 => go (s.readFlash f)
      | _ =>
        let s := (s.boot.restoreSvc.bootRecord).stopTimer tmReturn
        let s := s.set Reg.AOUT_STAT.READY 1 |>.set Reg.AIN_STAT.READY 1 |>.stopTimer tmAoutReady |>.stopTimer tmAinReady
        s.runReached.lsnPower

/-! ### Commands -/

/-- POR (R418): the levels of the supplies. -/
def execPor (levels : SupplyLevels) (s : State) : Host.Outcome State Fault Refusal := .next (s.supplies (goodSupplies levels))

/-- RESET_N (R460). -/
def execResetN (s : State) : Host.Outcome State Fault Refusal := .next (s.resetN rcRESET_N)

/-- AON_WATCHDOG (R391): both cores were silent for 100 ms. -/
def execAonWatchdog (s : State) : Host.Outcome State Fault Refusal := .next (if s.domOn .sys then s.resetN rcWATCHDOG else s)

/-- START_UP (R421): the next step that is due. -/
def execStartUp (flash : FlashId) (s : State) : Host.Outcome State Fault Refusal := .next (s.startStep flash)

/-- SLEEP_RETURN (R416): the next step that is due. -/
def execSleepReturn (flash : FlashId) (s : State) : Host.Outcome State Fault Refusal := .next (s.sleepStep flash)

end Sys2Proof.Machine
end

