-- ==== Sys2Proof/Machine/Parcel.lean ====
section
/-! DEFINITION. The tick parcel on the wire (14_chain_links.md, R269 to R280, R284): the beacon, the link cell, bundle slots
and side segments, what a node emits in each role, and what it does with a parcel it receives. Offsets are in 0.25 ns
units, as in the beacon. -/

namespace Sys2Proof.Machine

/-! ### Layouts -/

/-- Offsets without a value: the sender is the origin; the sender has no tick (R271). -/
abbrev ofsORIGIN : Nat := 0xFFFFFFFF
abbrev ofsNONE : Nat := 0xFFFFFFFE

/-- The 32 bytes of a beacon (R271). -/
def beaconBytes (b : Beacon) : List Byte :=
  sealCell (leBytes 1 0xD1 ++ leBytes 1 b.flags ++ leBytes 6 b.tick ++ leBytes 4 (b.master % 1024 + 1024 * (b.origin % 1024) + 1048576 * (b.sender % 1024)) ++
    leBytes 2 b.hops ++ leBytes 2 b.pofs ++ leBytes 2 b.nbundle ++ leBytes 1 b.clockQ ++ [0] ++ leBytes 4 b.arr ++ leBytes 4 b.dep)

/-- 32 bytes end in the CRC-32 of the first 28. -/
def cellValid (bs : List Byte) : Bool := bs.length == 32 && crc32 (bs.take 28) == leAt bs 28 4

/-- A valid beacon's fields. -/
def readBeacon (bs : List Byte) : Option Beacon :=
  if cellValid bs && byteAt bs 0 == 0xD1 then
    let ids := leAt bs 8 4
    some { flags := byteAt bs 1, tick := leAt bs 2 6, master := ids % 1024, origin := ids / 1024 % 1024, sender := ids / 1048576 % 1024,
           hops := leAt bs 12 2, pofs := leAt bs 14 2, nbundle := leAt bs 16 2, clockQ := byteAt bs 18, arr := leAt bs 20 4, dep := leAt bs 24 4 }
  else none

def Beacon.ring (b : Beacon) : Bool := b.flags % 2 == 1
def Beacon.keep (b : Beacon) : Bool := b.flags / 2 % 2 == 1
def Beacon.hold (b : Beacon) : Bool := b.flags / 4 % 2 == 1

/-- Cells of the control area at a tick rate, the link cell among them (R269). -/
def cellCount (rate : Nat) : Nat := if rate ≤ 3 then 8 else 4

/-- The parcel budget B (R270). -/
def parcelBudget (code rate : Nat) : Nat :=
  let bytes := if code = 3 then 1250000000 else if code = 2 then 312500000 else 125000000
  bytes / max 1 (tickHz rate)

/-- Bytes of the side area with `n` slots (R270). -/
def sideRoom (code rate n : Nat) : Nat := (parcelBudget code rate - (24 + 32 + 32 * cellCount rate + 40 * n)) / 8 * 8

/-- A bundle slot of 40 bytes with its CRC-16 (R273). -/
def slotBytes (stream seq mask : Nat) (samples : List Word) : List Byte :=
  let head := leBytes 2 stream ++ leBytes 2 seq ++ leBytes 1 mask ++ [0]
  let body := padTo 32 (wordsBytes samples)
  head ++ leBytes 2 (crc16 (head ++ body)) ++ body

/-- An empty slot and a void bundle (R273). -/
def emptySlot : List Byte := slotBytes 0xFFFF 0 0 []
def voidSlot : List Byte := slotBytes 0xFFFE 0 0 []

/-- A slot's CRC-16 is right. -/
def slotValid (bs : List Byte) : Bool := bs.length == 40 && crc16 (bs.take 6 ++ bs.drop 8) == leAt bs 6 2

/-- An empty control cell (R301). -/
def emptyCell : List Byte := sealCell []

/-- The duration of `n` ticks. -/
def State.ticksLong (s : State) (n : Int) : Int := if tickHz s.rate = 0 then 0 else n * 4000000000 / tickHz s.rate

/-! ### Errors on a link (R276, R285) -/

/-- The number of the parcel that comes now, and the errored ones among the last 65,536. -/
def State.nextParcel (s : State) (p : Nat) (err : Bool) : State :=
  let x := s.port p
  let n := x.parcels + 1
  let old := x.errs.filter fun e => decide (n < e + 65536)
  s.setPort p { x with parcels := n, errs := if err then n :: old else old }

/-- An errored parcel: past DEG_CNT in the last 65,536 the link is degraded. -/
def State.noteErrored (s : State) (p : Nat) : State :=
  let s := s.nextParcel p true
  if max 1 (s.get Reg.CHAIN_LINK_POL.DEG_CNT) < (s.port p).errs.length then s.degrade p else s

/-- A parcel with a good beacon counted, errored or not. -/
def State.noteParcel (s : State) (p : Nat) (err : Bool) : State :=
  if err then (s.count (Reg.CHAIN_CP_ERR.PERR p) 1).noteErrored p else s.nextParcel p false

/-! ### What a parcel that leaves carries (R272, R274, R276, R289, R302) -/

/-- The link cell for the link of port `d` (R272). -/
def State.linkCell (s : State) (d : Nat) : List Byte :=
  let x := s.port d
  let st := s.portState d
  let flags := b2n (st == cpPEER_EXCL) + 2 * b2n (st == cpRX_DOWN) + 4 * b2n x.testAsk
  let (tick, arr) := x.last.getD (0, 0)
  sealCell (leBytes 1 0x01 ++ leBytes 1 flags ++ leBytes 2 (min 65535 x.errs.length) ++ leBytes 6 tick ++ [0, 0] ++ leBytes 4 (arr % 4294967296).toNat ++
    leBytes 4 x.residence ++ leBytes 4 (s.get (Reg.CHAIN_CP_LDLY.DLY d)))

/-- The first empty cell of a list takes `c`; the Bool says that there was one. -/
def placeCell (c : List Byte) : List (List Byte) → Bool × List (List Byte)
  | [] => (false, [])
  | x :: xs => if byteAt x 0 = 0 then (true, c :: xs) else ((placeCell c xs).1, x :: (placeCell c xs).2)

/-- The control area of a parcel that leaves through port `d`: the link cell, the cells handed on, and at most one of this
node's. -/
def State.controlArea (s : State) (d : Nat) (passed : List (List Byte)) : List (List Byte) × State :=
  let n := cellCount s.rate - 1
  let area := (passed ++ List.replicate n emptyCell).take n
  let x := s.port d
  match x.cells with
  | c :: rest =>
    if s.chain.silent then (s.linkCell d :: area, s)
    else
      let r := placeCell c area
      (s.linkCell d :: r.2, if r.1 then s.setPort d { x with cells := rest } else s)
  | [] => (s.linkCell d :: area, s)

/-- Bundle `b` as its slot carries it. -/
def State.bundleSlot (s : State) (b : Nat) : List Byte :=
  let x := s.bundle b
  slotBytes (s.streamId b) (x.tick % 65536) x.mask x.samples

/-- This node writes bundles: not while silenced, excluded, in a family change or out of RUN and QUIET (R64, R279, R305, R413). -/
def State.writesBundles (s : State) : Bool :=
  !s.chain.silent && s.ticksRun && decide (s.mode ≤ modeQUIET) && s.portState 0 != cpEXCLUDED && s.portState 1 != cpEXCLUDED

/-- A slot of a parcel that leaves: this node's own are written anew, and what it no longer sends is emptied (R276, R291). -/
def State.slotOut (s : State) (i : Nat) (bs : List Byte) : List Byte :=
  match (List.range 12).find? fun b => (s.bundle b).stream != 0 && s.get (Reg.CHAIN_TX.SLOT b) == i with
  | some b => if s.writesBundles then s.bundleSlot b else emptySlot
  | none => if leAt bs 0 2 / 64 = s.nodeId && leAt bs 0 2 < 0xFFFE then emptySlot else bs

/-- A fill segment of the same length (R274). -/
def fillSegment (len : Nat) : List Byte := padTo len (leBytes 2 0xFFFF ++ leBytes 2 (len - 12) ++ [0, 0, 0, 0])

/-- The side area of a parcel that leaves through port `d`: own segments become fill; the frame being sent goes over a fill
segment that is long enough, or after the last segment, within the budget (R276). -/
def State.sideArea (s : State) (d n : Nat) (segs : List (List Byte)) : List (List Byte) × State :=
  let segs := segs.map fun g => if leAt g 0 2 % 1024 = s.nodeId ∧ leAt g 0 2 ≠ 0xFFFF then fillSegment g.length else g
  let x := s.port d
  match x.side with
  | none => (segs, s)
  | some (fseq, first, rest) =>
    let used := segs.foldl (fun a g => a + g.length) 0
    let room := sideRoom (s.get (Reg.CHAIN_CP_STAT.RATE d)) s.rate n
    let fill := segs.findIdx? fun g => leAt g 0 2 == 0xFFFF && decide (16 ≤ g.length)
    let take_ := fun (avail : Nat) => min rest.length (min 1522 ((avail - 12) / 4 * 4))
    let send := fun (k : Nat) (put : List Byte → List (List Byte)) =>
      let g := segmentOf s.nodeId fseq first (k == rest.length) (rest.take k)
      (put g, s.setPort d { x with side := if k = rest.length then none else some (fseq, false, rest.drop k) })
    if used + 16 ≤ room then send (take_ (room - used)) fun g => segs ++ [g]
    else match fill with
      | some i =>
        let len := (segs.getD i []).length
        let k := if rest.length + 24 ≤ len ∨ rest.length + 12 = len then rest.length else min rest.length (len - 24)
        if k = 0 then (segs, s)
        else send k fun g => segs.take i ++ [g] ++ (if g.length + 12 ≤ len then [fillSegment (len - g.length)] else []) ++ segs.drop (i + 1)
      | none => (segs, s)

/-- The EVENT cell of target CH: claimed once, as its cell is written (R372). -/
def State.chEvent (s : State) : State :=
  let s := s.followLevels
  if s.anyEligible 2 && !s.chain.silent then
    let r := s.claim 2
    r.2.sendMsg ctEVENT (s.get Reg.CHAIN_OWNER.OWNER) (leBytes 2 (r.1.toNat % 256) ++ leBytes 1 (r.1.toNat / 32768 % 2))
  else s

/-- A parcel leaves through port `d` (R271, R272, R276): beacon `b`, what is handed on, and this node's own cells, slots and
segments. A keepalive parcel has neither bundle nor side area (R280). -/
def State.sendParcel (s : State) (d : Nat) (b : Beacon) (cells slots segs : List (List Byte)) : State :=
  let s := s.chEvent.queueFeed
  let keep := b.keep || [cpBEACON_ONLY, cpPEER_EXCL, cpEXCLUDED].elem (s.portState d)
  let ca := s.controlArea d cells
  let s := ca.2
  let slots := if keep then [] else slots.zipIdx.map fun x => s.slotOut x.2 x.1
  let sa := if keep then ([], s) else s.sideArea d slots.length segs
  let s := sa.2
  let b := { b with flags := b.flags % 2 + 2 * b2n keep + 4 * b2n b.hold, nbundle := slots.length, sender := s.nodeId }
  let x := s.port d
  s.setPort d { x with
    sent := some { beacon := beaconBytes b, cells := ca.1, slots := slots, side := sa.1 }, testAsk := false
    deps := if b.dep < ofsNONE then ((b.tick, (b.dep : Int)) :: x.deps).take 64 else x.deps }

/-! ### What a node emits (R275) -/

/-- The closure's copy of the control cells: own cells come back and are emptied, so are those that passed once before; the rest
are marked PASSED (R302). -/
def closureCell (node : Nat) (c : List Byte) : List Byte :=
  if byteAt c 0 = 0 then c
  else if leAt c 2 2 = node || byteAt c 1 / 4 % 2 = 1 then emptyCell
  else sealCell (c.take 1 ++ [BitVec.ofNat 8 (byteAt c 1 + 4)] ++ (c.drop 2).take 26)

/-- Slots that the master's parcels carry: up to the highest one granted. -/
def State.slotsInUse (s : State) : Nat := s.chain.slots.foldl (fun a e => max a (e.1 + 1)) 0

/-- A list of slots brought to length `n` with empty ones. -/
def slotList (n : Nat) (slots : List (List Byte)) : List (List Byte) := (slots ++ List.replicate n emptySlot).take n

/-- RING at the master: both directions bring back its own parcels (R284). -/
def State.masterRing (s : State) : Bool :=
  (List.range 2).all fun p => decide ((s.port p).missing < 3) && (match (s.port p).beacon with
    | some b => b.origin == s.nodeId
    | none => false)

/-- The closure origin's parcel through port `d`. -/
def State.emitClosure (s : State) (d dep : Nat) : State :=
  let x := s.port (1 - d)
  let s := s.setPort (1 - d) { x with missing := x.missing + 1 }
  let s := (s.setChain { s.chain with ring := s.masterRing }).showTopo
  let idle := s.mode == modeSTANDBY && s.chain.slots.isEmpty
  let b : Beacon := { flags := b2n s.chain.ring + 2 * b2n idle, tick := s.tick.count.toNat, master := s.nodeId, origin := s.nodeId, sender := s.nodeId, hops := 0,
                      pofs := s.pofs, nbundle := 0, clockQ := s.clockQ, arr := if s.ticksRun then ofsORIGIN else ofsNONE, dep := if s.ticksRun then dep else ofsNONE }
  let from_ := x.latest.getD { beacon := [] }
  s.sendParcel d b ((from_.cells.drop 1).map (closureCell s.nodeId)) (slotList s.slotsInUse from_.slots) from_.side

/-- The node has never had parcels in the direction that leaves through port `d`: its parcels follow those that come in there. -/
def State.turnaround (s : State) (d : Nat) : Bool := !(s.port (1 - d)).everIn

/-- The next parcel of the held schedule of port `d` is due at `dep` after the start of the present tick, and none has begun in its place; a
turnaround origin sends one for each that has come in (R275). -/
def State.originDue (s : State) (d dep : Nat) : Bool :=
  let x := s.port d
  match x.deps with
  | [] => true
  | e :: _ =>
    if s.turnaround d then e.1 != (x.last.getD (0, 0)).1
    else decide (e.2 ≤ dep + s.ticksLong ((s.tick.count.toNat : Int) - (e.1 + 1)))

/-- A holdover or turnaround origin's parcel through port `d`. -/
def State.emitOrigin (s : State) (d : Nat) : State :=
  let x := s.port d
  let turn := s.turnaround d
  let tick := if turn then (x.last.getD (0, 0)).1 else (x.deps.headD (s.tick.count.toNat, 0)).1 + 1
  let dep : Int := if turn then (x.last.getD (0, 0)).2 + 4 * s.ownResidence d else (x.deps.headD (0, 0)).2
  let n := match x.sent with
    | some pc => pc.slots.length
    | none => match x.latest with
      | some pc => pc.slots.length
      | none => 0
  let b : Beacon := { flags := b2n s.chain.ring + 4, tick := tick % 2 ^ 48, master := s.get Reg.CHAIN_TIME_STAT.MASTER_ID, origin := s.nodeId, sender := s.nodeId, hops := 0,
                      pofs := s.pofs, nbundle := 0, clockQ := s.get Reg.CHAIN_TIME_STAT.MASTER_Q,
                      arr := if s.ticksRun then ofsORIGIN else ofsNONE, dep := if s.ticksRun then (dep % 4294967296).toNat else ofsNONE }
  let s := s.set (if d = 0 then Reg.CHAIN_LINK_STAT.ORIG0 else Reg.CHAIN_LINK_STAT.ORIG1) 1
  s.sendParcel d b [] (slotList n []) []

/-- PARCEL_EMIT through port `d`: `dep` is the departure after the start of the tick. A node without any valid incoming parcel that
is not master emits nothing. -/
def State.emitParcel (s : State) (d dep : Nat) : State :=
  if !s.portSends d then s
  else if s.isMaster then s.emitClosure d dep
  else if (s.port 0).last.isSome || (s.port 1).last.isSome then
    if ((s.port (1 - d)).everIn || (s.port d).last.isSome) && s.originDue d dep then s.emitOrigin d else s
  else s

/-- The parcel received at port `p` goes on through the other port, cut-through (R276), unless one of that number has left it already (R283); `arr` is its arrival after the start of this
node's tick of that number. -/
def State.forwardParcel (s : State) (p : Nat) (b : Beacon) (pc : Parcel) (arr : Int) : State :=
  let d := 1 - p
  let sent := (s.port d).deps.head?.any fun e => e.1 == b.tick
  if s.isMaster || !s.portSends d || s.portState p == cpEXCLUDED || s.portState d == cpEXCLUDED || sent then s
  else
    let live := s.ticksRun
    let b := { b with hops := (b.hops + 1) % 1024, arr := if live then (arr % 4294967296).toNat else ofsNONE
                      dep := if live then ((arr + 4 * s.ownResidence d) % 4294967296).toNat else ofsNONE }
    let cells := (pc.cells.drop 1).map fun c => if byteAt c 0 ≠ 0 && leAt c 2 2 == s.nodeId then emptyCell else c
    let slots := pc.slots.map fun bs => if slotValid bs then bs else voidSlot
    let s := s.set (if d = 0 then Reg.CHAIN_LINK_STAT.ORIG0 else Reg.CHAIN_LINK_STAT.ORIG1) 0
    s.sendParcel d b cells slots pc.side

/-! ### Measurements (R278, R279) -/

/-- LDLY from a link cell (R278). -/
def State.measureDelay (s : State) (p : Nat) (cell : List Byte) (b : Beacon) (arr : Int) : State :=
  let x := s.port p
  match x.deps.find? fun e => e.1 == leAt cell 4 6 with
  | some (_, dep) =>
    if byteAt cell 1 / 2 % 2 = 1 || ofsNONE ≤ b.dep then s
    else
      let m := roundDiv ((leAt cell 12 4 - dep) + (arr - b.dep)) 2
      let ms := (m :: x.delays).take 64
      let mean := roundDiv (ms.foldl (· + ·) 0) ms.length
      s.setPort p { x with delays := ms } |>.setInt (Reg.CHAIN_CP_LDLY.DLY p) mean
  | none => s

/-- RES of the node that sends to port `p` (R279). -/
def State.measureResidence (s : State) (p : Nat) (b : Beacon) (arr : Int) : State :=
  if ofsNONE ≤ b.arr || 2 ≤ s.timeRole || s.portState p != cpUP then s
  else
    let res := (arr - s.get (Reg.CHAIN_CP_LDLY.DLY p) - b.arr).toNat
    let bound := 4 * residenceBound (s.get (Reg.CHAIN_CP_STAT.RATE p))
    let x := s.port p
    let slow := if 2 * bound < res then x.slow + 1 else 0
    let s := s.setPort p { x with residence := res, slow := slow } |>.set (Reg.CHAIN_CP_RES.PEER p) (min 65535 (res / 4))
      |>.flagIf (decide (bound < res)) (Reg.CHAIN_CP_EVT.RES_WARN p)
    if max 1 (s.get Reg.CHAIN_LINK_POL.EXCL_CNT) ≤ slow then s.excludePeer p else s

/-! ### Copies (R293) -/

/-- The last byte of slot `i`, which arrives `arr` after the start of the present tick, is at least 1 µs before weir cycle 0 of tick `t`. -/
def State.inTime (s : State) (p i : Nat) (arr : Int) (t : Int) : Bool :=
  let hz : Int := tickHz s.rate
  let cyc : Int := tickCycles s.rate
  let bytes : Int := 32 + 32 * cellCount s.rate + 40 * (i + 1)
  let here := (10 * arr + bytes * byteTime (s.get (Reg.CHAIN_CP_STAT.RATE p))) * (hz * cyc)
  let weir := 10 * (((t - s.tick.count.toNat) * cyc + usableSlots s.rate) * 4000000000 - 4000 * (hz * cyc))
  decide (here ≤ weir)

/-- A slot with a good CRC for subscription `j`. -/
def State.takeCopy (s : State) (p i j : Nat) (arr : Int) (bs : List Byte) : State :=
  let x := s.sub j
  if x.stream = leAt bs 0 2 + 1 ∧ s.pofs ≠ 0 then
    let m := copyTick s.tick.count.toNat (leAt bs 2 2)
    if s.inTime p i arr (m + s.pofs) then s.setSub j { x with copies := keepCopy ⟨m, bytesWords (bs.drop 8), 2 ^ p⟩ x.copies }
    else s.count (Reg.CHAIN_RX_CNT.LATE j) 1 |>.flag Reg.CHAIN_STRM_EVT.LATE
  else s

/-- The slots of a parcel received at port `p` `arr` after the start of the present tick. -/
def State.takeSlots (s : State) (p : Nat) (arr : Int) (slots : List (List Byte)) : State :=
  slots.zipIdx.foldl (fun s x =>
    if slotValid x.1 then
      if leAt x.1 0 2 < 0xFFFE then (List.range 12).foldl (fun s j => s.takeCopy p x.2 j arr x.1) s else s
    else s.count (Reg.CHAIN_CP_ERR.BERR p) 1) s

/-! ### Control cells and side segments received (R302, R306) -/

/-- One control cell: `kept` are the messages continued in this parcel. -/
def State.takeCell (s : State) (old : List CellMsg) (kept : List CellMsg) (c : List Byte) : List CellMsg × State :=
  let ctype := byteAt c 0
  let src := leAt c 2 2
  let dst := leAt c 4 2
  let mseq := leAt c 6 2
  let first := byteAt c 1 % 2 == 1
  let last := byteAt c 1 / 2 % 2 == 1
  let data := (c.drop 8).take 20
  if !cellValid c || ctype = 0 then (kept, s)
  else if src = s.nodeId then (kept, if s.chain.written.elem mseq then s else s.dupId)
  else if dst ≠ s.nodeId ∧ dst ≠ nodeALL then (kept, s)
  else
    let start := if first then some [] else (old.find? fun m => m.ctype == ctype && m.src == src && m.mseq == mseq).map (·.data)
    match start with
    | none => (kept, s)
    | some d => if last then (kept, s.arrive ctype src dst mseq (d ++ data)) else (⟨ctype, src, dst, mseq, d ++ data⟩ :: kept, s)

/-- The control cells of a parcel; a message not continued in this parcel is discarded (R302). -/
def State.takeCells (s : State) (p : Nat) (cells : List (List Byte)) : State :=
  let old := (s.port p).frags
  let r := cells.foldl (fun (acc : List CellMsg × State) c => acc.2.takeCell old acc.1 c) ([], s)
  r.2.setPort p { r.2.port p with frags := r.1 }

/-- A whole side frame: the first copy is kept (R306). -/
def State.sideFrame (s : State) (src fseq : Nat) (f : List Byte) : State :=
  if s.chain.sideTaken.elem (src, fseq) then s
  else (s.setChain { s.chain with sideTaken := ((src, fseq) :: s.chain.sideTaken).take 256 }).queueReceive 0 src f

/-- One side segment (R274). -/
def State.takeSegment (s : State) (p : Nat) (g : List Byte) : State :=
  let w := leAt g 0 2
  let src := w % 1024
  let fseq := leAt g 4 2
  let body := g.take (g.length - 4)
  let x := s.port p
  if w = 0xFFFF || src = s.nodeId || crc32 body ≠ leAt g (g.length - 4) 4 then s
  else
    let data := (g.drop 8).take (leAt g 2 2)
    let start := if w / 16384 % 2 = 1 then some [] else (x.sideFrags.find? fun m => m.src == src && m.fseq == fseq).map (·.data)
    let others := x.sideFrags.filter fun m => m.src != src
    match start with
    | none => s.setPort p { x with sideFrags := others }
    | some d =>
      if w / 32768 % 2 = 1 then (s.setPort p { x with sideFrags := others }).sideFrame src fseq (d ++ data)
      else s.setPort p { x with sideFrags := ⟨src, fseq, d ++ data⟩ :: others }

/-! ### A parcel received (R276, R279, R284, R293, R296 to R299) -/

/-- The tick-phase error against the upstream port, and the ticks that the chain's count is ahead (R297). -/
def State.tickError (s : State) (e : Int) : State :=
  let ahead := -((e * tickHz s.rate + 2000000000) / 4000000000)
  (s.setChain { s.chain with ahead := ahead }).setInt Reg.CHAIN_TERR.ERR e

/-- The beacon as time and topology: the upstream port gives HOPS, TERR, RING and P. -/
def State.takeTime (s : State) (p : Nat) (b : Beacon) (arr : Int) : State :=
  let s := if b.master != s.nodeId && s.shouldFollow b.master b.clockQ b.hold then s.followMaster b.master b.clockQ else s
  let s := s.hearMaster b.master b.hold
  let s := match s.upstream with
    | some q =>
      if q = p && !s.isMaster then
        let s := s.set Reg.CHAIN_TIME_STAT.UPPORT p |>.set Reg.CHAIN_TIME_STAT.HOPS (b.hops + 1) |>.set Reg.CHAIN_TIME_STAT.MASTER_Q b.clockQ
        let s := if b.dep < ofsNONE then s.tickError (arr - (b.dep + s.get (Reg.CHAIN_CP_LDLY.DLY p))) else s
        let s := (s.setChain { s.chain with ring := b.ring }).showTopo
        if b.pofs ≠ 0 ∧ s.chain.newP.isNone ∧ b.pofs ≠ s.pofs then s.setPofs b.pofs else s
      else s
    | none => s
  s.watchBetter

/-- The master's view of a parcel that comes back at port `p`: the closure's copy, RING and the longest path (R275, R284, R298). -/
def State.takeClosure (s : State) (p : Nat) (b : Beacon) (pc : Parcel) (arr : Int) : State :=
  if !s.isMaster then s
  else
    let own := b.origin == s.nodeId
    let out := if own then 1 - p else p
    let x := s.port p
    let dep := ((s.port out).deps.find? fun e => e.1 == b.tick).map (·.2)
    let s := s.setPort p { x with latest := some pc, missing := if own then 0 else x.missing, trip := match dep with
      | some t => arr - t
      | none => x.trip }
    let s := (s.setChain { s.chain with ring := s.masterRing }).showTopo
    let trip := fun q => if s.portState q == cpUP then (s.port q).trip else 0
    let path := if s.chain.ring then max (trip 0) (trip 1) else roundDiv (trip 0 + trip 1) 2
    if dep.isSome then s.measureLoop (path + s.ticksLong 1) else s

/-- PARCEL_RECEIVE at port `p`; `now` is the arrival of the first byte after the start of the present tick. -/
def State.receiveParcel (s : State) (p : Nat) (pc : Parcel) (now : Nat) : State :=
  if !s.portHears p || s.portState p == cpPEER_EXCL then s
  else match readBeacon pc.beacon with
  | none => (s.parcelsMissing p 1).noteErrored p
  | some b =>
    let arr := now + s.ticksLong ((s.tick.count.toNat : Int) - b.tick)
    let link := pc.cells.headD []
    let goodLink := cellValid link && byteAt link 0 == 1
    let err := !goodLink || (pc.cells.drop 1).any (fun c => !cellValid c) || pc.slots.any fun c => !slotValid c
    let x := s.port p
    let keeps := if b.keep then min 64 (x.keeps + 1) else 0
    let s := s.setPort p { x with beacon := some b, last := some (b.tick, arr), everIn := true, keeps := keeps, bad := 0, peerDown := goodLink && byteAt link 1 / 2 % 2 == 1 }
    let s := if !b.keep && x.keeps == 64 then s.setChain { s.chain with pattern := true } else s
    let s := s.noteParcel p err
    let s := if goodLink then s.measureDelay p link b arr else s
    let s := s.measureResidence p b arr
    if s.portState p = cpPEER_EXCL then s
    else
      let s := if goodLink && byteAt link 1 % 2 == 1 then s.excludedNow p else s
      let s := if b.keep && b.hold && b.origin == b.sender && s.portState p == cpUP then s.excludePeer p else s
      let s := if b.origin = s.nodeId && !s.bit Reg.CHAIN_LINK_STAT.CLOSURE && !s.bit Reg.CHAIN_LINK_STAT.ORIG0 && !s.bit Reg.CHAIN_LINK_STAT.ORIG1 then s.dupId else s
      let s := s.takeTime p b arr
      let s := s.takeSlots p now pc.slots
      let s := s.takeCells p (pc.cells.drop 1)
      let s := pc.side.foldl (fun s g => s.takeSegment p g) s
      let s := s.takeClosure p b pc arr
      let s := s.forwardParcel p b pc arr
      if goodLink && byteAt link 1 / 4 % 2 == 1 then s.linkTest p false else s

/-! ### Commands -/

/-- PARCEL_EMIT (R275): `dep` is the departure of the first byte after the start of the tick, in 0.25 ns units. -/
def execParcelEmit (d : Fin 2) (dep : BitVec 32) (s : State) : Host.Outcome State Fault Refusal := .next (s.emitParcel d dep.toNat)

/-- PARCEL_RECEIVE (R276): `now` is the arrival of the first byte after the start of this node's present tick, in 0.25 ns units. -/
def execParcelReceive (p : Fin 2) (pc : Parcel) (now : BitVec 32) (s : State) : Host.Outcome State Fault Refusal := .next (s.receiveParcel p pc now.toNat)

end Sys2Proof.Machine
end

