-- ==== Sys2Proof/Machine/Dispatch.lean ====
section
/-! DEFINITION. The meaning of every command: one arm for each constructor of Instr. -/

namespace Sys2Proof.Machine

def exec (i : Instr) (s : State) : Host.Outcome State Fault Refusal :=
  match i with
  | .weir samples => Sys2Proof.Machine.execWeir samples s
  | .checkpointDrainDone b => Sys2Proof.Machine.execCheckpointDrainDone b s
  | .fadeEnd h => Sys2Proof.Machine.execFadeEnd h s
  | .meterWindowEnd b m => Sys2Proof.Machine.execMeterWindowEnd b m s
  | .tcStage who a v cyc => Sys2Proof.Machine.execTcStage who a v cyc s
  | .registerWrite who a v cyc => Sys2Proof.Machine.execRegisterWrite who a v cyc s
  | .devCommitGo cyc => Sys2Proof.Machine.execDevCommitGo cyc s
  | .devCommitCancel go cyc => Sys2Proof.Machine.execDevCommitCancel go cyc s
  | .devCommitAtLoWrite v cyc => Sys2Proof.Machine.execDevCommitAtLoWrite v cyc s
  | .devTickLoRead cyc => Sys2Proof.Machine.execDevTickLoRead cyc s
  | .devCommitLastLoRead => Sys2Proof.Machine.execDevCommitLastLoRead s
  | .refGood => Sys2Proof.Machine.execRefGood s
  | .refLost => Sys2Proof.Machine.execRefLost s
  | .pllLock p seen found outer => Sys2Proof.Machine.execPllLock p seen found outer s
  | .pllLoss e => Sys2Proof.Machine.execPllLoss e s
  | .relockAttempt p => Sys2Proof.Machine.execRelockAttempt p s
  | .clkPllUpdWrite mask => Sys2Proof.Machine.execClkPllUpdWrite mask s
  | .cacheFlush p => Sys2Proof.Machine.execCacheFlush p s
  | .sourceQualified c n bad adv => Sys2Proof.Machine.execSourceQualified c n bad adv s
  | .sourceLoss e => Sys2Proof.Machine.execSourceLoss e s
  | .referenceDecision => Sys2Proof.Machine.execReferenceDecision s
  | .holdLimitExpiry => Sys2Proof.Machine.execHoldLimitExpiry s
  | .revert c => Sys2Proof.Machine.execRevert c s
  | .wclkGlitch e => Sys2Proof.Machine.execWclkGlitch e s
  | .rateFollow => Sys2Proof.Machine.execRateFollow s
  | .familyChange us => Sys2Proof.Machine.execFamilyChange us s
  | .pulseDelivery n src more => Sys2Proof.Machine.execPulseDelivery n src more s
  | .xingTimeout n waiting wake => Sys2Proof.Machine.execXingTimeout n waiting wake s
  | .pointerResync n => Sys2Proof.Machine.execPointerResync n s
  | .basinFault b canary => Sys2Proof.Machine.execBasinFault b canary s
  | .shelfReloadDone t => Sys2Proof.Machine.execShelfReloadDone t s
  | .cisternTurn f j => Sys2Proof.Machine.execCisternTurn f j s
  | .cisternCorrectedError w => Sys2Proof.Machine.execCisternCorrectedError w s
  | .cisternUncorrectableError w => Sys2Proof.Machine.execCisternUncorrectableError w s
  | .scrub found => Sys2Proof.Machine.execScrub found s
  | .fabCisDataRead => Sys2Proof.Machine.execFabCisDataRead s
  | .fabCisDataWrite v => Sys2Proof.Machine.execFabCisDataWrite v s
  | .rawWindowAccess a write => Sys2Proof.Machine.execRawWindowAccess a write s
  | .nop b j => Sys2Proof.Machine.execNop b j s
  | .tickend b j => Sys2Proof.Machine.execTickend b j s
  | .skip b j => Sys2Proof.Machine.execSkip b j s
  | .mac b j => Sys2Proof.Machine.execMac b j s
  | .msu b j => Sys2Proof.Machine.execMsu b j s
  | .mul b j => Sys2Proof.Machine.execMul b j s
  | .add b j => Sys2Proof.Machine.execAdd b j s
  | .sub b j => Sys2Proof.Machine.execSub b j s
  | .abs b j => Sys2Proof.Machine.execAbs b j s
  | .min b j => Sys2Proof.Machine.execMin b j s
  | .max b j => Sys2Proof.Machine.execMax b j s
  | .shl b j => Sys2Proof.Machine.execShl b j s
  | .shr b j => Sys2Proof.Machine.execShr b j s
  | .sat b j => Sys2Proof.Machine.execSat b j s
  | .bq b j => Sys2Proof.Machine.execBq b j s
  | .firt b j => Sys2Proof.Machine.execFirt b j s
  | .ramp b j => Sys2Proof.Machine.execRamp b j s
  | .log2 b j => Sys2Proof.Machine.execLog2 b j s
  | .exp2 b j => Sys2Proof.Machine.execExp2 b j s
  | .peak b j => Sys2Proof.Machine.execPeak b j s
  | .rmsacc b j => Sys2Proof.Machine.execRmsacc b j s
  | .dlw b j => Sys2Proof.Machine.execDlw b j s
  | .dlr b j => Sys2Proof.Machine.execDlr b j s
  | .tbl b j => Sys2Proof.Machine.execTbl b j s
  | .rin b j => Sys2Proof.Machine.execRin b j s
  | .rout b j => Sys2Proof.Machine.execRout b j s
  | .meter b j => Sys2Proof.Machine.execMeter b j s
  | .confirmOnLive => Sys2Proof.Machine.execConfirmOnLive s
  | .imageBufferTimeout => Sys2Proof.Machine.execImageBufferTimeout s
  | .fabHoCancel h => Sys2Proof.Machine.execFabHoCancel h s
  | .fabBbTmarkWrite b t pageB => Sys2Proof.Machine.execFabBbTmarkWrite b t pageB s
  | .clip k ovl => Sys2Proof.Machine.execClip k ovl s
  | .ainLiveHoldExpiry k => Sys2Proof.Machine.execAinLiveHoldExpiry k s
  | .ainCalctlWrite mask => Sys2Proof.Machine.execAinCalctlWrite mask s
  | .calDone aout fail => Sys2Proof.Machine.execCalDone aout fail s
  | .vdda5Lost => Sys2Proof.Machine.execVdda5Lost s
  | .vdda5Restored => Sys2Proof.Machine.execVdda5Restored s
  | .phDone g => Sys2Proof.Machine.execPhDone g s
  | .transitionEnd k => Sys2Proof.Machine.execTransitionEnd k s
  | .slewEngagement k => Sys2Proof.Machine.execSlewEngagement k s
  | .dclrNAssert => Sys2Proof.Machine.execDclrNAssert s
  | .dclrNRelease => Sys2Proof.Machine.execDclrNRelease s
  | .clrack => Sys2Proof.Machine.execClrack s
  | .aoutCalctlWrite mask => Sys2Proof.Machine.execAoutCalctlWrite mask s
  | .jackInsert n => Sys2Proof.Machine.execJackInsert n s
  | .jackRemove n => Sys2Proof.Machine.execJackRemove n s
  | .hpStart n zL zR => Sys2Proof.Machine.execHpStart n zL zR s
  | .hpStop n => Sys2Proof.Machine.execHpStop n s
  | .hpOvercurrent n => Sys2Proof.Machine.execHpOvercurrent n s
  | .hpRetest n zL zR => Sys2Proof.Machine.execHpRetest n zL zR s
  | .hpUnlatch n => Sys2Proof.Machine.execHpUnlatch n s
  | .volumeStep n right => Sys2Proof.Machine.execVolumeStep n right s
  | .channelStart k line uv => Sys2Proof.Machine.execChannelStart k line uv s
  | .channelStop k => Sys2Proof.Machine.execChannelStop k s
  | .rdyTimeout k => Sys2Proof.Machine.execRdyTimeout k s
  | .prechgTimeout k => Sys2Proof.Machine.execPrechgTimeout k s
  | .pscRdyLow k => Sys2Proof.Machine.execPscRdyLow k s
  | .faultRestart k => Sys2Proof.Machine.execFaultRestart k s
  | .loopSample k v cur => Sys2Proof.Machine.execLoopSample k v cur s
  | .fcEstimate k half => Sys2Proof.Machine.execFcEstimate k half s
  | .pscUnlatch k => Sys2Proof.Machine.execPscUnlatch k s
  | .ilimTrip k uv v => Sys2Proof.Machine.execIlimTrip k uv v s
  | .limitingEnd k => Sys2Proof.Machine.execLimitingEnd k s
  | .dcLoadTest k seen ua => Sys2Proof.Machine.execDcLoadTest k seen ua s
  | .pscDctestRun k => Sys2Proof.Machine.execPscDctestRun k s
  | .pilotWindowEnd k mag phase re => Sys2Proof.Machine.execPilotWindowEnd k mag phase re s
  | .coilTempUpdate k irms => Sys2Proof.Machine.execCoilTempUpdate k irms s
  | .cabEepromRead rec => Sys2Proof.Machine.execCabEepromRead rec s
  | .laneLock q ratio => Sys2Proof.Machine.execLaneLock q ratio s
  | .laneUnlock seen => Sys2Proof.Machine.execLaneUnlock seen s
  | .tableBuild q => Sys2Proof.Machine.execTableBuild q s
  | .frameErr n seen rate10 wires => Sys2Proof.Machine.execFrameErr n seen rate10 wires s
  | .xrun seen => Sys2Proof.Machine.execXrun seen s
  | .lrmis n => Sys2Proof.Machine.execLrmis n s
  | .portLost n => Sys2Proof.Machine.execPortLost n s
  | .slip n tx => Sys2Proof.Machine.execSlip n tx s
  | .sapMaskWrite n tx wire value => Sys2Proof.Machine.execSapMaskWrite n tx wire value s
  | .modAbsChange p high => Sys2Proof.Machine.execModAbsChange p high s
  | .losChange p high => Sys2Proof.Machine.execLosChange p high s
  | .txFault p high => Sys2Proof.Machine.execTxFault p high s
  | .rateSearch => Sys2Proof.Machine.execRateSearch s
  | .nolock p => Sys2Proof.Machine.execNolock p s
  | .helloSend p => Sys2Proof.Machine.execHelloSend p s
  | .helloBlock p block => Sys2Proof.Machine.execHelloBlock p block s
  | .parcelEmit d dep => Sys2Proof.Machine.execParcelEmit d dep s
  | .parcelReceive p pc now => Sys2Proof.Machine.execParcelReceive p pc now s
  | .excludeReceived p => Sys2Proof.Machine.execExcludeReceived p s
  | .chainRestart p => Sys2Proof.Machine.execChainRestart p s
  | .receiveLoss seen => Sys2Proof.Machine.execReceiveLoss seen s
  | .linkTest p => Sys2Proof.Machine.execLinkTest p s
  | .testDone p errors => Sys2Proof.Machine.execTestDone p errors s
  | .announce src mseq stream hint release => Sys2Proof.Machine.execAnnounce src mseq stream hint release s
  | .grant src dst mseq stream slot => Sys2Proof.Machine.execGrant src dst mseq stream slot s
  | .announceRepeat b => Sys2Proof.Machine.execAnnounceRepeat b s
  | .report msg => Sys2Proof.Machine.execReport msg s
  | .testReq src mseq p => Sys2Proof.Machine.execTestReq src mseq p s
  | .testGrant src mseq node p => Sys2Proof.Machine.execTestGrant src mseq node p s
  | .pofs src mseq p t => Sys2Proof.Machine.execPofs src mseq p t s
  | .mreq src mseq frame => Sys2Proof.Machine.execMreq src mseq frame s
  | .mrsp src mseq frame => Sys2Proof.Machine.execMrsp src mseq frame s
  | .electionStart => Sys2Proof.Machine.execElectionStart s
  | .betterMasterSeen p id hops q => Sys2Proof.Machine.execBetterMasterSeen p id hops q s
  | .challenge => Sys2Proof.Machine.execChallenge s
  | .orphan => Sys2Proof.Machine.execOrphan s
  | .tickCountReload n => Sys2Proof.Machine.execTickCountReload n s
  | .pofsSet => Sys2Proof.Machine.execPofsSet s
  | .dupId => Sys2Proof.Machine.execDupId s
  | .queueTxGo q len => Sys2Proof.Machine.execQueueTxGo q len s
  | .queueFrameReceived q src num frame => Sys2Proof.Machine.execQueueFrameReceived q src num frame s
  | .chainQueueRxRead q => Sys2Proof.Machine.execChainQueueRxRead q s
  | .w1Fire => Sys2Proof.Machine.execW1Fire s
  | .w2Fire t path => Sys2Proof.Machine.execW2Fire t path s
  | .lsnMatch t variant dur index path pstart pred ring => Sys2Proof.Machine.execLsnMatch t variant dur index path pstart pred ring s
  | .w2Timeout => Sys2Proof.Machine.execW2Timeout s
  | .w3End => Sys2Proof.Machine.execW3End s
  | .autorel => Sys2Proof.Machine.execAutorel s
  | .preRollRelease => Sys2Proof.Machine.execPreRollRelease s
  | .rewind => Sys2Proof.Machine.execRewind s
  | .lsnPreDataRead => Sys2Proof.Machine.execLsnPreDataRead s
  | .chkDone levels => Sys2Proof.Machine.execChkDone levels s
  | .eventConversion k sense uv ownBusy otherBusy => Sys2Proof.Machine.execEventConversion k sense uv ownBusy otherBusy s
  | .injectedTrigger c k volts => Sys2Proof.Machine.execInjectedTrigger c k volts s
  | .gaugeSwTrigger c volts => Sys2Proof.Machine.execGaugeSwTrigger c volts s
  | .regularTrigger c volts => Sys2Proof.Machine.execRegularTrigger c volts s
  | .gaugeTimer regA injA regB injB => Sys2Proof.Machine.execGaugeTimer regA injA regB injB s
  | .stewardConversion ntc gx => Sys2Proof.Machine.execStewardConversion ntc gx s
  | .resultDelivery => Sys2Proof.Machine.execResultDelivery s
  | .gaugeBufRdWrite n rd => Sys2Proof.Machine.execGaugeBufRdWrite n rd s
  | .gaugeCalA => Sys2Proof.Machine.execGaugeCalA s
  | .gaugeCalB => Sys2Proof.Machine.execGaugeCalB s
  | .gaugeRefWrite ref => Sys2Proof.Machine.execGaugeRefWrite ref s
  | .refrdy => Sys2Proof.Machine.execRefrdy s
  | .gaugeCalDone c shorted refchk => Sys2Proof.Machine.execGaugeCalDone c shorted refchk s
  | .hspRegisterRead frame cut cyc => Sys2Proof.Machine.execHspRegisterRead frame cut cyc s
  | .hspRegisterWrite frame cut => Sys2Proof.Machine.execHspRegisterWrite frame cut s
  | .sysRamRead frame cut cyc => Sys2Proof.Machine.execSysRamRead frame cut cyc s
  | .sysRamWrite frame cut => Sys2Proof.Machine.execSysRamWrite frame cut s
  | .postedWrite cyc => Sys2Proof.Machine.execPostedWrite cyc s
  | .hostMbxGo len cyc => Sys2Proof.Machine.execHostMbxGo len cyc s
  | .hostMbxDiscard => Sys2Proof.Machine.execHostMbxDiscard s
  | .hostMbxRxRead => Sys2Proof.Machine.execHostMbxRxRead s
  | .mailboxWrite x pins bs cyc => Sys2Proof.Machine.execMailboxWrite x pins bs cyc s
  | .mailboxRead x pins n => Sys2Proof.Machine.execMailboxRead x pins n s
  | .statusRead x pins n => Sys2Proof.Machine.execStatusRead x pins n s
  | .streamWrite x pins bs => Sys2Proof.Machine.execStreamWrite x pins bs s
  | .claimRead x pins => Sys2Proof.Machine.execClaimRead x pins s
  | .claimWrite x pins bs => Sys2Proof.Machine.execClaimWrite x pins bs s
  | .twtWake x pins => Sys2Proof.Machine.execTwtWake x pins s
  | .twtAbort x pins bs => Sys2Proof.Machine.execTwtAbort x pins bs s
  | .twcTransfer fin => Sys2Proof.Machine.execTwcTransfer fin s
  | .twcRetry fin => Sys2Proof.Machine.execTwcRetry fin s
  | .stretchTo seen => Sys2Proof.Machine.execStretchTo seen s
  | .busStuck => Sys2Proof.Machine.execBusStuck s
  | .getInfo snd => Sys2Proof.Machine.execGetInfo snd s
  | .getState snd => Sys2Proof.Machine.execGetState snd s
  | .regRead snd a n => Sys2Proof.Machine.execRegRead snd a n s
  | .regWrite snd a ws => Sys2Proof.Machine.execRegWrite snd a ws s
  | .resetCommand snd key => Sys2Proof.Machine.execResetCommand snd key s
  | .goLive snd => Sys2Proof.Machine.execGoLive snd s
  | .goLoaded snd => Sys2Proof.Machine.execGoLoaded snd s
  | .unload snd => Sys2Proof.Machine.execUnload snd s
  | .enterSafe snd => Sys2Proof.Machine.execEnterSafe snd s
  | .commitCmd snd => Sys2Proof.Machine.execCommitCmd snd s
  | .commitAt snd t => Sys2Proof.Machine.execCommitAt snd t s
  | .commitCancel snd => Sys2Proof.Machine.execCommitCancel snd s
  | .basinHold snd L => Sys2Proof.Machine.execBasinHold snd L s
  | .basinResume snd L => Sys2Proof.Machine.execBasinResume snd L s
  | .poolWrite snd L a ws => Sys2Proof.Machine.execPoolWrite snd L a ws s
  | .imageOpen snd kind total => Sys2Proof.Machine.execImageOpen snd kind total s
  | .imageData snd off bs => Sys2Proof.Machine.execImageData snd off bs s
  | .imageClose snd bad => Sys2Proof.Machine.execImageClose snd bad s
  | .imageConfirm snd => Sys2Proof.Machine.execImageConfirm snd s
  | .imageAbort snd => Sys2Proof.Machine.execImageAbort snd s
  | .flashRead snd a n => Sys2Proof.Machine.execFlashRead snd a n s
  | .convCal snd ain aout => Sys2Proof.Machine.execConvCal snd ain aout s
  | .gaugeCal snd m => Sys2Proof.Machine.execGaugeCal snd m s
  | .twcXfer snd a rlen pec ws => Sys2Proof.Machine.execTwcXfer snd a rlen pec ws s
  | .adopt snd owner => Sys2Proof.Machine.execAdopt snd owner s
  | .release snd => Sys2Proof.Machine.execRelease snd s
  | .setIdentity snd node => Sys2Proof.Machine.execSetIdentity snd node s
  | .factoryReset snd => Sys2Proof.Machine.execFactoryReset snd s
  | .policyPersist snd => Sys2Proof.Machine.execPolicyPersist snd s
  | .unlockChallenge snd => Sys2Proof.Machine.execUnlockChallenge snd s
  | .unlockResponse snd mac => Sys2Proof.Machine.execUnlockResponse snd mac s
  | .ledgerRead snd index n => Sys2Proof.Machine.execLedgerRead snd index n s
  | .icClaim t => Sys2Proof.Machine.execIcClaim t s
  | .icComplete t n => Sys2Proof.Machine.execIcComplete t n s
  | .icSwsetWrite n => Sys2Proof.Machine.execIcSwsetWrite n s
  | .sourceEvent n merged => Sys2Proof.Machine.execSourceEvent n merged s
  | .eligibilityEvaluation => Sys2Proof.Machine.execEligibilityEvaluation s
  | .targetedTest cls unit first => Sys2Proof.Machine.execTargetedTest cls unit first s
  | .testClassification cls unit pass meas differs => Sys2Proof.Machine.execTestClassification cls unit pass meas differs s
  | .dieTemperatureSample ts => Sys2Proof.Machine.execDieTemperatureSample ts s
  | .heartbeatMiss core => Sys2Proof.Machine.execHeartbeatMiss core s
  | .aonWatchdog => Sys2Proof.Machine.execAonWatchdog s
  | .ledgerWrite ok => Sys2Proof.Machine.execLedgerWrite ok s
  | .hoursTimer => Sys2Proof.Machine.execHoursTimer s
  | .skimPass am slack figures => Sys2Proof.Machine.execSkimPass am slack figures s
  | .skim => Sys2Proof.Machine.execSkim s
  | .retest cls unit => Sys2Proof.Machine.execRetest cls unit s
  | .marginCommit cyc => Sys2Proof.Machine.execMarginCommit cyc s
  | .modeRequest m => Sys2Proof.Machine.execModeRequest m s
  | .modeEntry => Sys2Proof.Machine.execModeEntry s
  | .clockGate => Sys2Proof.Machine.execClockGate s
  | .wake code => Sys2Proof.Machine.execWake code s
  | .wakeN => Sys2Proof.Machine.execWakeN s
  | .aonTimer => Sys2Proof.Machine.execAonTimer s
  | .chainWakePattern => Sys2Proof.Machine.execChainWakePattern s
  | .standbyReturn => Sys2Proof.Machine.execStandbyReturn s
  | .sleepReturn flash => Sys2Proof.Machine.execSleepReturn flash s
  | .por levels => Sys2Proof.Machine.execPor levels s
  | .resetN => Sys2Proof.Machine.execResetN s
  | .startUp flash => Sys2Proof.Machine.execStartUp flash s
  | .pwrmRstWrite doms => Sys2Proof.Machine.execPwrmRstWrite doms s
  | .vddFabWrite vout status mv => Sys2Proof.Machine.execVddFabWrite vout status mv s
  | .gpioEdge g high => Sys2Proof.Machine.execGpioEdge g high s
  | .presencePress => Sys2Proof.Machine.execPresencePress s
  | .presenceWindowEnd => Sys2Proof.Machine.execPresenceWindowEnd s
  | .jumper => Sys2Proof.Machine.execJumper s
  | .sealBreak high => Sys2Proof.Machine.execSealBreak high s
  | .sealClr => Sys2Proof.Machine.execSealClr s
  | .relock => Sys2Proof.Machine.execRelock s
  | .nonceExpiry => Sys2Proof.Machine.execNonceExpiry s
  | .lockoutEnd => Sys2Proof.Machine.execLockoutEnd s
  | .secFprogGo v => Sys2Proof.Machine.execSecFprogGo v s
  | .fprogDone ok => Sys2Proof.Machine.execFprogDone ok s
  | .shelfRewrite L => Sys2Proof.Machine.execShelfRewrite L s
  | .pcsLock p => Sys2Proof.Machine.execPcsLock p s
  | .ratioClassChange q ratio => Sys2Proof.Machine.execRatioClassChange q ratio s
  | .frameSyncEdge n seen rate10 wires => Sys2Proof.Machine.execFrameSyncEdge n seen rate10 wires s
  | .testGrantTimeout => Sys2Proof.Machine.execTestGrantTimeout s
  | .presenceRelease => Sys2Proof.Machine.execPresenceRelease s

end Sys2Proof.Machine
end

