-- ==== Sys2Proof/Machine/Idle.lean ====
section
/-! DEFINITION. The passing of one millisecond, which a step takes when no command waits: what runs by itself in the time
between commands, the evaluations of R375 among it. -/

namespace Sys2Proof.Machine

/-- Powered time (R397, R401; 21_faults_ageing_recovery.md, STEW_MINUTES): it counts while the stewards run. -/
def State.poweredMs (s : State) : State :=
  let x := s.stew
  let minute := x.msMinute + 1 = 60000
  let s := s.setStew { x with msMinute := if minute then 0 else x.msMinute + 1, msHours := x.msHours + 1, msSkim := x.msSkim + 1 }
  if minute then s.count Reg.STEW_MINUTES.MIN 1 else s

/-- A reset that RESET or FACTORY_RESET asked for takes place (R367, R435). -/
def State.resetNow (s : State) : State := if s.pwr.resetDue = 0 then s else s.resetDevice (s.pwr.resetDue - 1)

/-- What one millisecond does while SYS runs. -/
def State.sysMs (s : State) : State :=
  let s := if s.bit Reg.CLK_STAT.REF_OK then s.clkMs else s
  let s := if s.domOn .ain then s.ainAdvanceAll else s
  let s := if s.domOn .aout then s.aoSettle.hpMs.aoResetMs else s
  let s := if s.domOn .pst then s.pscMs else s
  let s := if s.domOn .fab then s.asrcMs else s
  let s := if s.domOn .chn then (s.watchBetter.modHeld 0).modHeld 1 else s
  let s := (List.range 28).foldl (fun (s : State) n => s.xingMs n) s
  s.gaugeMs.poweredMs.skimMs.coreMs.vfabMs.liveSettle.watchMargin.flashStep.engine.gpioFollow.ungateEnded.resetNow

/-- One millisecond passes. -/
def State.idle (s : State) : State :=
  let s := { s with now := s.now + 1 }
  if s.pwr.inReset then s
  else
    let s := s.showPres.w1Tick.featureMs
    (if s.domOn .sys then s.sysMs else s).evaluateIrq

end Sys2Proof.Machine
end

