-- ==== Sys2Proof/Safety.lean ====
section
/-! DEFINITION. What claims are stated in: the invariant of the block, which parts of the state a command leaves alone,
and what it means that a command completes. -/

namespace Sys2Proof.Machine

/-- The invariant. Each byte or word store is in its one canonical form, so that equal contents are equal data: keys
strictly rise and no entry holds what an unlisted key reads as. The HSP write buffer holds at most 64 words (R340), and
at most 4,096 request bytes have been written to HOST_MBX_TX (R344). -/
structure State.Inv (s : State) : Prop where
  regs : tabWf regReset s.regs = true
  ram : tabWf (fun _ => (0 : Byte)) s.ram = true
  flash : tabWf erased s.flash = true
  cis : tabWf (fun _ => (0 : DWord)) s.fab.cis = true
  posted : s.host.posted.length ≤ 64
  mbxTx : s.host.mbxTx.length ≤ 4096

/-- Every register outside the listed addresses reads as before. -/
def SameRegsBut (as : List Nat) (s t : State) : Prop := ∀ a, a ∉ as → t.word a = s.word a

/-- The parts of the state beside the registers, the queue and the time. -/
inductive Part where
  | free | timers | tick | clk | fab | bus | irq | ain | phantom | aout | hp | psc
  | asrc | sap | stew | mbx | host | chain | lsn | gauge | ram | flash | sec | pwr | xing
deriving DecidableEq, Repr

/-- The part is the same in both states. -/
def SamePart (p : Part) (s t : State) : Prop :=
  match p with
  | .free => t.free = s.free
  | .timers => t.timers = s.timers
  | .tick => t.tick = s.tick
  | .clk => t.clk = s.clk
  | .fab => t.fab = s.fab
  | .bus => t.bus = s.bus
  | .irq => t.irq = s.irq
  | .ain => t.ain = s.ain
  | .phantom => t.phantom = s.phantom
  | .aout => t.aout = s.aout
  | .hp => t.hp = s.hp
  | .psc => t.psc = s.psc
  | .asrc => t.asrc = s.asrc
  | .sap => t.sap = s.sap
  | .stew => t.stew = s.stew
  | .mbx => t.mbx = s.mbx
  | .host => t.host = s.host
  | .chain => t.chain = s.chain
  | .lsn => t.lsn = s.lsn
  | .gauge => t.gauge = s.gauge
  | .ram => t.ram = s.ram
  | .flash => t.flash = s.flash
  | .sec => t.sec = s.sec
  | .pwr => t.pwr = s.pwr
  | .xing => t.xing = s.xing

/-- Every part outside the listed ones is the same, and so are the queue and the time. -/
def OnlyParts (ps : List Part) (s t : State) : Prop :=
  t.pending = s.pending ∧ t.now = s.now ∧ ∀ p, p ∉ ps → SamePart p s t

/-- A field lies within its word. -/
abbrev Fld.fits (f : Fld) : Prop := f.lo + f.width ≤ 32

/-- Bit `i` of a field, as a field of its own. -/
abbrev Fld.nth (f : Fld) (i : Nat) : Fld := ⟨f.addr, f.lo + i, 1⟩

/-- Two fields share no bit. -/
abbrev Fld.apart (f g : Fld) : Prop := f.addr ≠ g.addr ∨ f.lo + f.width ≤ g.lo ∨ g.lo + g.width ≤ f.lo

/-- Every register bit outside the listed fields reads as before: said of each field that shares no bit with them. -/
def OnlyFields (fs : List Fld) (s t : State) : Prop := ∀ f : Fld, f.fits → (∀ g ∈ fs, g.apart f) → t.get f = s.get f

/-- The frame of a command: outside the listed register fields and the listed parts nothing changes. -/
def Frame (fs : List Fld) (ps : List Part) (s t : State) : Prop := OnlyFields fs s t ∧ OnlyParts ps s t

/-- Every register outside the addresses `lo` to `hi - 1` reads as before. -/
def BlockOnly (lo hi : Nat) (s t : State) : Prop := ∀ a, a < lo ∨ hi ≤ a → t.word a = s.word a

/-- Every register below address `n` reads as before. -/
def LowRegsSame (n : Nat) (s t : State) : Prop := ∀ a, a < n → t.word a = s.word a

/-- The command runs to a next state of which `post` holds. -/
def Completes (c : Instr) (s : State) (post : State → Prop) : Prop :=
  ∃ t, exec c s = .next t ∧ post t

/-! ### Slot words -/

/-- Jet `j` of basin `b`. -/
def State.jetAt (s : State) (b j : Nat) : Jet := (s.basin b).jet j

/-- The next slot word of jet `j` of basin `b` is `sl`, with opcode `op`; it is next to finish, nothing suppresses it, and the jet `x` waits
for no cistern data. -/
def SlotReady (op b j : Nat) (s : State) (sl : Slot) (x : Jet) : Prop :=
  s.jetAt b j = x ∧ s.wordNext b j = true ∧ slotOf (s.nextWord b j) = sl ∧ sl.op = op ∧ x.skip = 0 ∧ x.queue = [] ∧ x.deliver = []

/-- The value of W register `n`. -/
def Jet.wVal (x : Jet) (n : Nat) : Int := (tabGet (fun _ => (0 : BitVec 40)) x.w n).toInt

/-- The jet after a slot word of `n` cycles. -/
def Jet.after (x : Jet) (n : Nat) : Jet := { x with slot := x.slot + 1, cycle := x.cycle + n }

/-- The jet with `v` in W register `d`, and S set if `wide`. -/
def Jet.putW (x : Jet) (d : Nat) (v : Int) (wide : Bool) : Jet :=
  { x with w := tabPut (fun _ => (0 : BitVec 40)) x.w d (BitVec.ofInt 40 v), flags := { x.flags with s := x.flags.s || wide } }

/-- The jet with Z, N and V of the value `v`. -/
def Jet.znv (x : Jet) (v : Int) (o : Bool) : Jet := { x with flags := x.flags.arith v o }

/-- The jet with `v` in accumulator `i`. -/
def Jet.putAcc (x : Jet) (i : Nat) (v : Int) : Jet := if i = 0 then { x with a0 := BitVec.ofInt 72 v } else { x with a1 := BitVec.ofInt 72 v }

/-- A slot word of jet `j` of basin `b` touched nothing but that jet, the basin's writes of the tick and its meters: no register, no cistern word,
no other jet, no other basin, no pool word. -/
def OnlyJet (b j : Nat) (s t : State) : Prop :=
  Frame [] [.free, .fab] s t ∧ t.fab.cis = s.fab.cis ∧ (∀ b', b' ≠ b → t.basin b' = s.basin b') ∧ (∀ i, i ≠ j → t.jetAt b i = s.jetAt b i) ∧
    (t.basin b).pool = (s.basin b).pool ∧ (t.basin b).cascade = (s.basin b).cascade

/-! ### Rate-converter lanes -/

/-- The fields of the lanes' status that a port's frames and losses can change. -/
abbrev laneFields : List Fld :=
  Reg.ASRC_EVT.UNLOCK :: ((List.range 3).map fun i => Reg.ASRC_UNLOCK.LANE i) ++
    (List.range 96).flatMap fun q => [Reg.ASRC_LANE_STAT.RANGE q, Reg.ASRC_LANE_STAT.LOCKED q, Reg.ASRC_LANE_STAT.TWAIT q]

/-! ### The mailbox -/

/-- Nothing is under way at the engine or the arbiter: no request and no response to the chain waits, no burst and no HSP read is unfinished, and
no register access waits for its turn or for its requester to learn its end. -/
abbrev Quiet (s : State) : Prop :=
  s.mbx.waiting = [] ∧ s.mbx.chainOut = [] ∧ s.mbx.burst = none ∧ s.host.fetch = none ∧ s.bus.wait = [] ∧ s.bus.ended = []

/-- An access of requester `w` to a register of domain `d` takes place as it is granted: SYS and the domain are on and the domain's clock is not
gated (R15, R75), no earlier access of `w` waits, and a crossing on the way takes words, is empty and has a running far clock. -/
def AccessReady (w : Requester) (d : Dom) (s : State) : Prop :=
  s.domOn .sys = true ∧ s.domOn d = true ∧ s.isGated d = false ∧ s.isHeld w = false ∧ s.bus.wait.any (fun y => y.who == w) = false ∧
    ∀ n, xingOfDom d = some n → s.xingOpen n = true ∧ s.farRuns d = true ∧ (s.xingSt n).words = []

/-- The bus after an access of requester `w`: the word it read, and its end. -/
def State.busOf (s : State) (w : Requester) (data : Word) (last : BusEnd) : BusSt := { s.bus with turn := w, data := data, last := last }

/-- The bus after a write that is over. -/
def State.ackBus (s : State) : BusSt := { s.bus with data := 0, last := .done }

/-- The engine can take a request of the host: SYS runs, and nothing is under way. -/
abbrev MbxReady (s : State) : Prop := s.domOn .sys = true ∧ Quiet s

/-- The engine is ready, and a request of the host SPI port with this code and payload passes every check of R361. -/
def Accepted (code : Nat) (p : List Byte) (s : State) : Prop := MbxReady s ∧ s.mbxRefused .hsp code true p = none

/-- The fields of HOST_MBX_STAT that a response sets. -/
abbrev mbxFields : List Fld := [Reg.HOST_MBX_STAT.RESP, Reg.HOST_MBX_STAT.BUSY, Reg.HOST_MBX_STAT.LEN]

/-- From host ports `h`, the response of the given status and payload stands ready for the host SPI port, and nothing else of the ports changed. -/
def Answered (code status : Nat) (payload : List Byte) (h : HostSt) (t : State) : Prop :=
  t.host = { h with mbxRsp := t.respFrame status code payload, mbxPos := 0 } ∧ t.get Reg.HOST_MBX_STAT.RESP = 1 ∧ t.get Reg.HOST_MBX_STAT.BUSY = 0 ∧
    t.get Reg.HOST_MBX_STAT.LEN = (8 + payload.length) % 8192

/-- DEV_MBX_DONE holds a completion of a command of the host SPI port. -/
def Completed (code status : Nat) (payload : List Byte) (t : State) : Prop :=
  t.get Reg.DEV_MBX_DONE.CODE = code ∧ t.get Reg.DEV_MBX_DONE.STATUS = status ∧ t.get Reg.DEV_MBX_DONE.PORT = 0 ∧ t.mbx.doneStatus = status ∧ t.mbx.donePayload = payload

/-- The fields of DEV_MBX_DONE. -/
abbrev doneFields : List Fld := [Reg.DEV_MBX_DONE.CODE, Reg.DEV_MBX_DONE.STATUS, Reg.DEV_MBX_DONE.PORT]

/-- The stewards' state with a record that is not about an error joined to the queue of the ledger. -/
def State.noted (s : State) (ty : Nat) (data : List Byte) : StewSt :=
  { s.stew with records := s.stew.records ++ [⟨ty, 0, 0, 0, s.tick.count, 0, s.get Reg.STEW_MINUTES.MIN, data⟩] }

/-! ### Resets -/

/-- The device after a reset of the given cause: every register outside the fields that R442 keeps is at its reset value, buffers and memories are empty, the flash and the waiting commands stay, and start-up begins. -/
def AfterReset (cause : Nat) (s t : State) : Prop :=
  (∀ a, a ∉ keptFields.map (fun f => f.addr) → a ≠ Reg.PWRM_WAKE_SRC.word.addr → t.word a = regReset a) ∧ t.get Reg.PWRM_WAKE_SRC.CAUSE = cause ∧ t.ram = [] ∧ t.flash = s.flash ∧ t.host = {} ∧ t.tick = {} ∧
    t.fab = {} ∧ t.mbx = {} ∧ t.sec.ukey = s.sec.ukey ∧ t.sec.nonce = none ∧ t.pending = s.pending ∧ t.now = s.now ∧ t.pwr.startUp = 1 ∧ t.pwr.inReset = false

end Sys2Proof.Machine
end

