-- ==== Sys2Proof/Certificates/Slice0/Obligations.lean ====
section
/-! DEFINITION. The statements for the provers: what a step does with its queue, what every step keeps, and for every command what its next state
holds, under conditions on the state and the operands alone, with its frame. `Frame fs ps s t` says that outside the register fields `fs` and the parts `ps` nothing
changed; `Completes c s post` that the command answers a next state of which `post` holds. -/

open Sys2Proof Sys2Proof.Machine

/-! ### The queue, the time and the invariant -/

/-- A step with a command in front runs that command on the state with the rest of the queue. -/
def Obligations.StepRunsFront : Prop :=
  ∀ (c : Instr) (rest : List Instr) (s : State), step { s with pending := c :: rest } = exec c { s with pending := rest }

/-- On an empty queue one millisecond passes (DESIGN CHOICE, assumption 75): the step answers a next state, its queue is empty still, and the time is one
millisecond later. -/
def Obligations.IdlePassesOneMillisecond : Prop :=
  ∀ s : State, s.pending = [] → ∃ t, step s = .next t ∧ t.pending = [] ∧ t.now = s.now + 1

/-- Every command completes, and touches neither the queue nor the time. -/
def Obligations.EveryCommandCompletes : Prop :=
  ∀ (c : Instr) (s : State), Completes c s fun t => t.pending = s.pending ∧ t.now = s.now

/-- The state after reset satisfies the invariant. -/
def Obligations.ResetInv : Prop :=
  State.reset.Inv

/-- Every step, of a command or of an idle millisecond, keeps the invariant: registers, SYS RAM, flash and cistern stay in canonical form, the HSP write buffer
holds at most 64 words, and at most 4,096 request bytes stand in HOST_MBX_TX. -/
def Obligations.StepKeepsInv : Prop :=
  ∀ s t : State, s.Inv → step s = .next t → t.Inv

/-! ### The register bus and the staging buffer -/

/-- R8: an address that no register has reads as 0 and ignores a write. -/
def Obligations.UnassignedAddress : Prop :=
  ∀ (s : State) (x : Access), s.domOn .sys = true → x.addr % 4 = 0 → x.addr < 0x400000 → regRow x.addr = none → s.grant x = s.onBus 0 .done

/-- R7: the reserved bits of a register read 0, whatever it holds, and so do its write-only bits (R6). -/
def Obligations.ReservedBitsReadZero : Prop :=
  ∀ (s : State) (a cyc : Nat) (r : RegRow), regRow a = some r → s.ownRead a cyc = none →
    (s.readReg r a cyc).bus.data &&& ~~~(r.rw ||| r.ro ||| r.w1c ||| r.tc) = 0

/-- R15: an access to a register whose power domain is off completes at once: a read returns 0, a write is ignored, and both are reported as refused. -/
def Obligations.DomainOffRefuses : Prop :=
  ∀ (s : State) (x : Access) (r : RegRow), s.domOn .sys = true → x.addr % 4 = 0 → x.addr < 0x400000 → regRow x.addr = some r →
    s.domOn (accessDom r x.addr) = false → s.grant x = s.onBus 0 .refused

/-- R6, REGISTER_WRITE: a write to a register with no behaviour of its own gives each RW bit its new value, clears each W1C bit written as 1, and leaves every
other bit of the register and every other register as it was. -/
def Obligations.PlainRegisterWrite : Prop :=
  ∀ (s : State) (who : Requester) (a : BitVec 24) (v : Word) (cyc : Nat) (r : RegRow), Quiet s → a.toNat % 4 = 0 → a.toNat < 0x400000 →
    regRow a.toNat = some r → AccessReady who (accessDom r a.toNat) s → stewardOnly a.toNat = false → r.tc = 0 →
    (∀ u : State, u.ownWrite r a.toNat v cyc = none) → (∀ u : State, u.writeDone a.toNat v = u) → a.toNat ≠ Reg.GAUGE_CTL.word.addr →
    Completes (.registerWrite who a v cyc) s fun t =>
      t.word a.toNat = ((s.word a.toNat &&& ~~~r.rw) ||| (v &&& r.rw)) &&& ~~~(v &&& r.w1c) ∧
      SameRegsBut [a.toNat] s t ∧ t = { s with regs := t.regs, bus := s.busOf who 0 .done }

/-- R32: the fields of a register whose every readable field is TC read in SYS, whatever the crossing to its domain does. R32, TC_STAGE: a TC write granted
before the weir and accepted by its check enters staging: its bits replace what was staged of them, other staged bits stay, and no register changes its value in
effect, but that DEV_COMMIT_STAT.STAGED reads 1. R34, R35, TC_STAGE: a TC write granted in weir cycles 0 to 183 is held whole, and one granted in cycles 184 to
191 is over at once but enters staging only behind the commit of this tick: staging and every register stay as they are. -/
def Obligations.TcWrites : Prop :=
  (∀ (s : State) (x : Access) (r : RegRow), s.domOn .sys = true → x.addr % 4 = 0 → x.addr < 0x400000 → regRow x.addr = some r →
    s.domOn (accessDom r x.addr) = true → x.write = none → readMask r &&& ~~~r.tc = 0 → s.grant x = s.readReg r x.addr x.cyc) ∧
(∀ (who : Requester) (a : BitVec 24) (v : Word) (cyc : Nat) (s : State) (r : RegRow), regRow a.toNat = some r → r.tc ≠ 0 →
    s.domOn r.dom = true → s.weirPhase cyc = false → s.tcCheck a.toNat v = none →
    Completes (.tcStage who a v cyc) s fun t =>
      t.viewWord a.toNat = overlay (s.viewWord a.toNat) r.tc v ∧
      (∀ b, b ≠ a.toNat → t.staged b = s.staged b) ∧
      t.get Reg.DEV_COMMIT_STAT.STAGED = 1 ∧ SameRegsBut [Reg.DEV_COMMIT_STAT.STAGED.addr] s t ∧
      t = { s with regs := t.regs, tick := { s.tick with staged := t.tick.staged }, bus := { s.bus with data := 0, last := .done } }) ∧
(∀ (who : Requester) (a : BitVec 24) (v : Word) (cyc : Nat) (s : State) (r : RegRow), regRow a.toNat = some r → r.tc ≠ 0 →
    s.domOn r.dom = true → s.ticksRun = true → usableSlots s.rate ≤ cyc → cyc < usableSlots s.rate + 192 →
    Completes (.tcStage who a v cyc) s fun t =>
      t = { s with tick := { s.tick with held := s.tick.held ++ [⟨a.toNat, v, who⟩] }, bus := { s.bus with data := 0, last := if cyc < usableSlots s.rate + 184 then .held else .done } })

/-- R35, R38, DEV_COMMIT_GO: with no commit armed, GO before the weir makes this tick the commit tick, and GO in the weir the next one; DEV_COMMIT_STAT.PENDING
reads 1. R38, DEV_COMMIT_GO: while a commit is armed GO is refused with BUSY: nothing is made a commit tick. R40, DEV_COMMIT_CANCEL: an armed commit is disarmed
with cause CANCELLED and staging is not touched; GO in the same write comes after and is accepted. -/
def Obligations.CommitRequests : Prop :=
  (∀ (cyc : Nat) (s : State), s.domOn .sys = true → s.tick.target = none →
    Completes (.devCommitGo cyc) s fun t =>
      t.tick = (if s.weirPhase cyc then { s.tick with goNext := true } else { s.tick with goNow := true }) ∧
      t.get Reg.DEV_COMMIT_STAT.PENDING = 1 ∧ t.get Reg.DEV_COMMIT_STAT.ARMED = 0 ∧
      (∀ f : Fld, f.fits → f.apart Reg.DEV_COMMIT_STAT.PENDING → f.apart Reg.DEV_COMMIT_STAT.ARMED → t.get f = s.get f) ∧
      SameRegsBut [Reg.DEV_COMMIT_STAT.word.addr] s t ∧ t = { s with regs := t.regs, tick := t.tick, bus := { s.bus with data := 0, last := .done } }) ∧
(∀ (cyc : Nat) (s : State) (n : TickNo), s.domOn .sys = true → s.tick.target = some n →
    Completes (.devCommitGo cyc) s fun t =>
      t.get Reg.DEV_COMMIT_STAT.ERR = 1 ∧ t.get Reg.DEV_COMMIT_STAT.LAST_ERR = 2 ∧
      SameRegsBut [Reg.DEV_COMMIT_STAT.word.addr] s t ∧ t = { s with regs := t.regs, bus := { s.bus with data := 0, last := .done } }) ∧
(∀ (go : Bool) (cyc : Nat) (s : State) (n : TickNo), s.domOn .sys = true → s.tick.target = some n →
    Completes (.devCommitCancel go cyc) s fun t =>
      t.tick.target = none ∧ t.tick.staged = s.tick.staged ∧
      t.tick.goNow = (s.tick.goNow || (go && !s.weirPhase cyc)) ∧ t.tick.goNext = (s.tick.goNext || (go && s.weirPhase cyc)) ∧
      t.get Reg.DEV_COMMIT_STAT.ERR = 1 ∧ t.get Reg.DEV_COMMIT_STAT.LAST_ERR = 5 ∧ t.get Reg.DEV_COMMIT_STAT.ARMED = 0 ∧
      SameRegsBut [Reg.DEV_COMMIT_STAT.word.addr] s t ∧ t = { s with regs := t.regs, tick := t.tick, bus := { s.bus with data := 0, last := .done } })

/-- R39, DEV_COMMIT_AT_LO_WRITE: the target is bits 47:32 from DEV_COMMIT_AT_HI and bits 31:0 from the write. With no GO commit pending, a target at least two
ticks ahead arms the commit and is kept in DEV_COMMIT_AT_LO; one less than two ticks ahead is refused with LATE, and DEV_COMMIT_AT_LO and an armed commit stay
as they were. -/
def Obligations.CommitAt : Prop :=
  ∀ (v : Word) (cyc : Nat) (s : State), s.domOn .sys = true → s.tick.goNow = false → s.tick.goNext = false →
    let target : TickNo := BitVec.ofNat 48 (s.get Reg.DEV_COMMIT_AT_HI.TICK * 2 ^ 32 + v.toNat)
    Completes (.devCommitAtLoWrite v cyc) s fun t =>
      if (2 : Int) ≤ (target - s.countAt cyc).toInt then
        t.tick = { s.tick with target := some target } ∧ t.get Reg.DEV_COMMIT_STAT.ARMED = 1 ∧ t.word Reg.DEV_COMMIT_AT_LO.word.addr = v ∧
        SameRegsBut [Reg.DEV_COMMIT_STAT.word.addr, Reg.DEV_COMMIT_AT_LO.word.addr] s t ∧
        t = { s with regs := t.regs, tick := t.tick, bus := { s.bus with data := 0, last := .done } }
      else
        t.get Reg.DEV_COMMIT_STAT.ERR = 1 ∧ t.get Reg.DEV_COMMIT_STAT.LAST_ERR = 1 ∧
        SameRegsBut [Reg.DEV_COMMIT_STAT.word.addr] s t ∧ t = { s with regs := t.regs, bus := { s.bus with data := 0, last := .done } }

/-- R31, DEV_TICK_LO_READ and DEV_COMMIT_LAST_LO_READ: the read returns bits 31:0 and latches bits 47:32 into the HI register, so that the pair is one value. -/
def Obligations.TickReadsLatch : Prop :=
  (∀ (cyc : Nat) (s : State), s.domOn .sys = true → Completes (.devTickLoRead cyc) s fun t =>
    t.bus.last = .done ∧ (t.word Reg.DEV_TICK_HI.word.addr).toNat * 2 ^ 32 + t.bus.data.toNat = (s.countAt cyc).toNat ∧
    SameRegsBut [Reg.DEV_TICK_HI.word.addr] s t ∧ t = { s with regs := t.regs, bus := t.bus }) ∧
  (∀ s : State, s.domOn .sys = true → Completes .devCommitLastLoRead s fun t =>
    t.bus.last = .done ∧ (t.word Reg.DEV_COMMIT_LAST_HI.word.addr).toNat * 2 ^ 32 + t.bus.data.toNat = s.tick.last.toNat ∧
    SameRegsBut [Reg.DEV_COMMIT_LAST_HI.word.addr] s t ∧ t = { s with regs := t.regs, bus := t.bus }) ∧
  (∀ (cyc : Nat) (s : State), s.domOn .sys = true →
    s.grant { who := .hsp, addr := Reg.DEV_TICK_HI.word.addr, write := none, cyc := cyc } =
      s.onBus (s.word Reg.DEV_TICK_HI.word.addr &&& 0xFFFF) .done ∧
    s.grant { who := .hsp, addr := Reg.DEV_COMMIT_LAST_HI.word.addr, write := none, cyc := cyc } =
      s.onBus (s.word Reg.DEV_COMMIT_LAST_HI.word.addr &&& 0xFFFF) .done)

/-! ### Clocks and crossings -/

/-- R53, R65: REF_GOOD starts PLL-A on FREE with no trim. PLL_LOCK, once the phase error has stayed within its window for the lock count, makes
CLK_STAT.LOCKED_x 1, and CLK_PLLx_STAT.HOP_US holds the time of the lock for every PLL but PLL-A; the outer loop of PLL-A that locks leaves ACQUIRE for LOCKED
and keeps the trim within 1,000 ppm. CACHE_FLUSH (R57) empties the band cache of one PLL. R58, CLK_PLL_UPD_WRITE: a load of PLL-A waits for the commit tick, and
is refused with UPD_ERR in HOP; a load of PLL-S with a non-zero DEN begins at once with the shadow dividers, and one with DEN 0 is refused with UPD_ERR. -/
def Obligations.PllLocksAndUpdates : Prop :=
  ((∀ s : State, s.domOn .sys = true → s.bit Reg.CLK_STAT.REF_OK = false →
    Completes .refGood s fun t =>
      t.get Reg.CLK_STAT.REF_OK = 1 ∧ t.get Reg.CLK_PLLA_REFST.STATE = 4 ∧ t.get Reg.CLK_PLLA_REFST.ACTIVE = 5 ∧
      t.get Reg.CLK_PLLA_TRIM.TRIM = 0 ∧ BlockOnly 0x10000 0x30000 s t ∧ OnlyParts [.clk] s t) ∧
  (∀ (p : Fin 4) (seen : PhaseRun) (found : BandFound) (s : State), s.lockSeen p seen = true → (s.pll p).busy = true → (s.pll p).dead = false → s.bit Reg.CLK_STAT.REF_OK = true →
    s.bit (Reg.CLK_PLL_CTL.EN p) = true → Completes (.pllLock p seen found none) s fun t =>
      t.locked p = true ∧ (p.val ≠ 0 → t.get (Reg.CLK_PLL_STAT.HOP_US p) = min found.us 65535) ∧
      ((s.pll p).search = true → t.get (Reg.CLK_PLL_STAT.BAND p) = found.band % 256) ∧
      Frame [(Reg.CLK_STAT.LOCKED.nth p), Reg.CLK_PLL_STAT.HOP_US p, Reg.CLK_PLL_STAT.BAND p,
        Reg.CLK_PLL_STAT.BYPASSED p, Reg.CLK_PLL_CACHE.VALID p, Reg.XING_STAT.RDY 14, Reg.XING_STAT.RDY 15] [.clk, .tick] s t) ∧
  (∀ (p : Fin 4) (seen : PhaseRun) (found : BandFound) (trim : Word) (s : State), s.outerLockSeen seen = true → s.refState = 1 →
    Completes (.pllLock p seen found (some trim)) s fun t =>
      t.refState = 0 ∧ t.getInt Reg.CLK_PLLA_TRIM.TRIM = clampInt (-4294967) 4294967 trim.toInt ∧
      Frame [Reg.CLK_PLLA_REFST.STATE, Reg.CLK_PLLA_TRIM.TRIM] [] s t) ∧
  (∀ (p : Fin 4) (s : State), s.domOn .sys = true → Completes (.cacheFlush p) s fun t =>
      (t.pll p).cache = [] ∧ t.get (Reg.CLK_PLL_CACHE.VALID p) = 0 ∧ (∀ q, q ≠ p.val → t.pll q = s.pll q) ∧
      t.bus = s.ackBus ∧ Frame [Reg.CLK_PLL_CACHE.VALID p] [.clk, .bus] s t)) ∧
((∀ s : State, s.domOn .sys = true → s.refState ≠ 3 → Completes (.clkPllUpdWrite 1) s fun t => t.clk.updA = true ∧ t.bus = s.ackBus ∧ Frame [] [.clk, .bus] s t) ∧
  (∀ s : State, s.domOn .sys = true → s.refState = 3 → Completes (.clkPllUpdWrite 1) s fun t =>
    t.get Reg.CLK_EVT.UPD_ERR = 1 ∧ Frame [Reg.CLK_EVT.UPD_ERR] [.bus] s t) ∧
  (∀ s : State, s.domOn .sys = true → s.get (Reg.CLK_PLL_DEN.DEN 1) ≠ 0 → Completes (.clkPllUpdWrite 2) s fun t =>
    (t.pll 1).loaded = s.shadow 1 ∧ (t.pll 1).busy = true ∧ t.locked 1 = false ∧ t.get (Reg.CLK_PLL_STAT.BYPASSED 1) = 1 ∧
    Frame [(Reg.CLK_STAT.LOCKED.nth 1), Reg.CLK_PLL_STAT.CACHE_HIT 1, Reg.CLK_PLL_STAT.BAND 1,
      Reg.CLK_PLL_STAT.BYPASSED 1] [.clk, .bus] s t) ∧
  (∀ s : State, s.domOn .sys = true → s.get (Reg.CLK_PLL_DEN.DEN 1) = 0 → Completes (.clkPllUpdWrite 2) s fun t =>
    t.get Reg.CLK_EVT.UPD_ERR = 1 ∧ Frame [Reg.CLK_EVT.UPD_ERR] [.bus] s t))

/-- R60, SOURCE_QUALIFIED: WCLK or a word select with a rate and fewer than four outliers in its last 256 periods is qualified where it is listed, possible and
at a rate that PLL-A may follow, and any other is not; so is the chain beacon with three valid parcels in a row, and without one for two periods it is not. R63,
WCLK_GLITCH on WCLK: a period out of its bounds is counted and flagged, and the fourth in a row is a loss of WCLK, which PLL-A holds over if it follows it. R61,
SOURCE_LOSS: PLL-A enters holdover at once with the given trim, within 1,000 ppm, and the lost source is no longer qualified. R61, HOLD_LIMIT_EXPIRY with FREE
in the list and the family in effect that of FREE_FAMILY: PLL-A goes to FREE; with FREE not listed HOLD_LIMIT is set and holdover goes on. -/
def Obligations.SourcesAndHoldover : Prop :=
  ((∀ (c : Fin 4) (n bad adv : Nat) (s : State), c.val ≠ 0 → Completes (.sourceQualified c n bad adv) s fun t =>
    t.bitAt Reg.CLK_PLLA_REFST.QUALIFIED c =
      (decide (rateOfSum n ≠ 7 ∧ bad < 4) && s.rateFollowed (rateOfSum n) && s.srcListed (c + 1) && s.srcPossible (c + 1)) ∧
    Frame [(Reg.CLK_PLLA_REFST.QUALIFIED.nth c), Reg.CLK_WCLK_STAT.RATE, Reg.CLK_WCLK_STAT.PERIOD,
      Reg.CLK_EVT.WCLK_RATE] [.clk, .timers] s t) ∧
  (∀ (n bad adv : Nat) (s : State), 3 ≤ n ∨ 2 ≤ bad → Completes (.sourceQualified 0 n bad adv) s fun t =>
    t.bitAt Reg.CLK_PLLA_REFST.QUALIFIED 0 = (decide (bad < 2 ∧ adv ≤ 5) && s.rateFollowed adv && s.srcListed 1) ∧
    Frame [(Reg.CLK_PLLA_REFST.QUALIFIED.nth 0), Reg.CLK_EVT.WCLK_RATE] [.clk, .timers] s t) ∧
  (∀ (period run : Nat) (trim : Word) (s : State), s.badPeriod period = true → run < 4 → Completes (.wclkGlitch ⟨1, period, run, trim⟩) s fun t =>
    t.get Reg.CLK_WCLK_STAT.GLITCH = min (s.get Reg.CLK_WCLK_STAT.GLITCH + 1) 65535 ∧ t.get Reg.CLK_EVT.WCLK_GLITCH = 1 ∧
    Frame [Reg.CLK_WCLK_STAT.GLITCH, Reg.CLK_EVT.WCLK_GLITCH] [] s t) ∧
  (∀ (period run : Nat) (trim : Word) (s : State), s.badPeriod period = true → 4 ≤ run → s.get Reg.CLK_PLLA_REFST.ACTIVE = 2 → s.clk.hop = none →
    s.refState = 0 → Completes (.wclkGlitch ⟨1, period, run, trim⟩) s fun t =>
      t.refState = 2 ∧ t.bitAt Reg.CLK_PLLA_REFST.QUALIFIED 1 = false ∧ t.get Reg.CLK_EVT.SRC_CHANGE = 1)) ∧
((∀ (e : SourceLossSeen) (s : State), s.outerLossSeen e.seen = true → s.clk.hop = none → s.refState = 0 → 1 ≤ s.get Reg.CLK_PLLA_REFST.ACTIVE → s.get Reg.CLK_PLLA_REFST.ACTIVE ≤ 4 →
    Completes (.sourceLoss e) s fun t =>
      t.refState = 2 ∧ t.get Reg.CLK_PLLA_REFST.ACTIVE = s.get Reg.CLK_PLLA_REFST.ACTIVE ∧
      t.srcQualified (s.get Reg.CLK_PLLA_REFST.ACTIVE) = false ∧ t.get Reg.CLK_EVT.SRC_CHANGE = 1 ∧
      t.getInt Reg.CLK_PLLA_TRIM.TRIM = clampInt (-4294967) 4294967 e.trim.toInt ∧
      Frame [Reg.CLK_PLLA_REFST.STATE, Reg.CLK_PLLA_REFST.ACTIVE, Reg.CLK_PLLA_REFST.QUALIFIED, Reg.CLK_PLLA_TRIM.TRIM,
        Reg.CLK_EVT.SRC_CHANGE] [.clk, .timers] s t) ∧
  (∀ s : State, s.refState = 2 → s.get Reg.CLK_PLLA_POL.HOLD_LIMIT ≠ 0 → s.due tmHold (s.get Reg.CLK_PLLA_POL.HOLD_LIMIT) = true →
    (s.srcListed 5 = true → s.get Reg.CLK_PLLA_POL.FREE_FAMILY = s.get Reg.CLK_STAT.FAMILY → Completes .holdLimitExpiry s fun t =>
      t.refState = 4 ∧ t.get Reg.CLK_PLLA_REFST.ACTIVE = 5 ∧ t.get Reg.CLK_EVT.SRC_CHANGE = 1 ∧
      Frame [Reg.CLK_PLLA_REFST.STATE, Reg.CLK_PLLA_REFST.ACTIVE, Reg.CLK_EVT.SRC_CHANGE] [.timers] s t) ∧
    (s.srcListed 5 = false → Completes .holdLimitExpiry s fun t =>
      t.get Reg.CLK_EVT.HOLD_LIMIT = 1 ∧ t.refState = 2 ∧ Frame [Reg.CLK_EVT.HOLD_LIMIT] [] s t)))

/-- R59, R62: a due REFERENCE_DECISION in holdover follows the first qualified source of the list but FREE, and REVERT replaces a source by the first qualified
one; a source at the rate in effect is acquired, with a trim within 1,000 ppm. -/
def Obligations.ReferenceDecides : Prop :=
  (∀ (c : Nat) (s : State), s.clk.decide = true → s.refState = 2 → s.bit Reg.CLK_STAT.REF_OK = true → c ≤ 4 →
    s.srcList.find? (fun x => s.srcQualified x && x != 5) = some c → s.srcRate c = s.rate →
    Completes .referenceDecision s fun t =>
      t.refState = 1 ∧ t.get Reg.CLK_PLLA_REFST.ACTIVE = c ∧ t.clk.decide = false ∧ t.get Reg.CLK_EVT.SRC_CHANGE = 1 ∧
      -4294967 ≤ t.getInt Reg.CLK_PLLA_TRIM.TRIM ∧ t.getInt Reg.CLK_PLLA_TRIM.TRIM ≤ 4294967 ∧
      Frame [Reg.CLK_PLLA_REFST.STATE, Reg.CLK_PLLA_REFST.ACTIVE, Reg.CLK_PLLA_TRIM.TRIM, Reg.CLK_EVT.SRC_CHANGE] [.free, .clk, .timers] s t) ∧
  (∀ (c : Fin 4) (s : State), s.bit Reg.CLK_PLLA_POL.REVERT = true → s.clk.hop = none → s.refState ≠ 3 → s.bit Reg.CLK_STAT.REF_OK = true →
    s.srcQualified (c + 1) = true →
    s.srcPlace (c + 1) < s.srcPlace (s.get Reg.CLK_PLLA_REFST.ACTIVE) →
    s.due (tmSource (c + 1)) (1000 * max 1 (s.get Reg.CLK_PLLA_POL.REVERT_HOLD)) = true →
    s.srcList.find? (fun x => s.srcQualified x && !((s.clk.afterLoss || s.refState == 2) && x == 5)) = some (c + 1) → s.srcRate (c + 1) = s.rate →
    Completes (.revert c) s fun t =>
      t.refState = 1 ∧ t.get Reg.CLK_PLLA_REFST.ACTIVE = c + 1 ∧ t.get Reg.CLK_EVT.SRC_CHANGE = 1 ∧
      Frame [Reg.CLK_PLLA_REFST.STATE, Reg.CLK_PLLA_REFST.ACTIVE, Reg.CLK_PLLA_TRIM.TRIM, Reg.CLK_EVT.SRC_CHANGE] [.free, .clk, .timers] s t)

/-- R63, R64: the forced rate change of RATE_FOLLOW, once the outputs are muted, puts the new rate into effect and lets the outputs come back over 20 ms;
FAMILY_CHANGE restarts the tick in the new family when both PLLs have locked, and 20 ms later sets HOP_DONE and, for FREE, ends at FREE with no trim. R51, R54,
R65: REF_LOST clears CLK_STAT.REF_OK, puts SYS on its bypass clock and, outside BARE, makes the service state SAFE with the cause of R366; PLL_LOSS of PLL-S,
PLL-C or PLL-P clears its lock and sets its event flag, and neither touches memory, flash or the queue. R55: RELOCK_ATTEMPT starts a full band search. -/
def Obligations.RateChangesAndClockLosses : Prop :=
  ((∀ (f : FollowSt) (s : State), s.clk.follow = some f → f.step = 1 → s.due tmFollow 20 = true → f.rate < 4 →
    (∀ b < 10, s.basinLoaded b = true → (s.basin b).asImage.fits f.rate = true) → Completes .rateFollow s fun t =>
      t.rate = f.rate ∧ t.clk.follow = some { f with step := 2 } ∧ t.clk.mute.goal = 65536 ∧ t.clk.mute.dur = 20 ∧
      OnlyParts [.timers, .tick, .clk, .fab, .bus, .irq, .ain, .aout, .hp, .psc, .asrc, .sap, .mbx, .chain, .lsn, .xing] s t) ∧
  (∀ (us : BitVec 16) (h : HopSt) (s : State), s.clk.hop = some h → h.step = 3 → s.locked 0 = true → (s.locked 3 = true ∨ s.domOn .pst = false) →
    h.rate < 6 → h.rate = otherFamily s.rate → Completes (.familyChange us) s fun t =>
      t.rate = h.rate ∧ t.clk.stopped = false ∧ t.clk.hop = some { h with step := 4 } ∧
      OnlyParts [.timers, .tick, .clk, .fab, .bus, .irq, .ain, .aout, .hp, .psc, .asrc, .sap, .mbx, .chain, .lsn, .xing] s t) ∧
  (∀ (us : BitVec 16) (h : HopSt) (s : State), s.clk.hop = some h → h.step = 4 → s.due tmHop 20 = true → h.source = 5 →
    Completes (.familyChange us) s fun t =>
      t.get Reg.CLK_EVT.HOP_DONE = 1 ∧ t.refState = 4 ∧ t.get Reg.CLK_PLLA_REFST.ACTIVE = 5 ∧ t.get Reg.CLK_PLLA_TRIM.TRIM = 0 ∧
      t.clk.hop = none ∧ LowRegsSame 0x10004 s t ∧ OnlyParts [.free, .timers, .clk, .psc] s t)) ∧
((∀ s : State, s.bit Reg.CLK_STAT.REF_OK = true → s.svc ≠ 0 → Completes .refLost s fun t =>
    t.get Reg.CLK_STAT.REF_OK = 0 ∧ t.clk.sysOnLpo = true ∧ t.svc = 3 ∧ t.get Reg.DEV_SVC.CAUSE = 1 ∧
    OnlyParts [.timers, .clk, .fab, .irq, .aout, .hp, .psc, .stew, .mbx, .chain] s t) ∧
  (∀ (e : PllLossSeen) (s : State), s.lossSeen e.p e.seen = true → e.p.val ≠ 0 → s.locked e.p = true → s.bit Reg.CLK_STAT.REF_OK = true →
    Completes (.pllLoss e) s fun t =>
    t.locked e.p = false ∧ t.get (if e.p.val = 1 then Reg.CLK_EVT.PLLS_BYP else if e.p.val = 2 then Reg.CLK_EVT.PLLC_LOSS else Reg.CLK_EVT.PLLP_BYP) = 1 ∧
    LowRegsSame 0xA0 s t ∧ OnlyParts [.timers, .clk, .fab, .irq, .aout, .hp, .psc, .stew, .mbx, .chain] s t) ∧
  (∀ (p : Fin 4) (e : StewErr) (s : State), s.errOf clsPLL p = some e → s.locked p = false → s.bit Reg.CLK_STAT.REF_OK = true → e.tries < 3 →
    (0 < e.tries → e.at_ + 1 ≤ s.now) → (e.retest = true ∨ s.recurrences clsPLL p msHour < 3) → Completes (.relockAttempt p) s fun t =>
      (t.pll p).busy = true ∧ (t.pll p).search = true ∧ (t.pll p).relockDue = false ∧
      Frame [Reg.CLK_PLL_STAT.BYPASSED p, Reg.STEW_STAT.TESTS, Reg.XING_STAT.RDY 14, Reg.XING_STAT.RDY 15] [.clk, .stew] s t))

/-- R76: an access that has to leave SYS over a crossing whose RDY is low is held before it and changes nothing else. R69, R70, PULSE_DELIVERY at a crossing
with pulse channels whose receiving side is on and whose clocks are not declared silent: a ready crossing delivers one pulse to the receiver; more pulses behind
it arrive as one merged event in a native crossing, with MERGED set, and are lost in a compatible one, with OVERRUN set. R76: with RDY low after a reset of the
sending side the request already raised is delivered once and nothing is counted; toward a receiving side that is off every pulse is discarded and counted. R73,
R74, XING_TIMEOUT of a ready crossing one of whose clocks may stand still: where a pulse waits, it is declared silent and no longer ready, the pulses are
discarded and counted, and the timeout is counted and logged with the crossing's number and whether a wake was waited for; an access that waits in it ends with
a timeout, reads 0 and is not performed. Once it is silent, a further timeout does the same to an access that it holds. A crossing in which nothing waits never
times out, nor does one whose RDY is low after a reset (R78). R77, POINTER_RESYNC with both sides powered and no clock standing still: the crossing is ready and
no longer silent, and its pointers are zero; with a side that is off or stands still nothing changes. -/
def Obligations.Crossings : Prop :=
  (∀ (s : State) (x : Access) (r : RegRow) (n : Nat), s.domOn .sys = true → x.addr % 4 = 0 → x.addr < 0x400000 → regRow x.addr = some r →
    s.domOn (accessDom r x.addr) = true → x.leavesSys r = true → r.tc = 0 → xingOfDom (accessDom r x.addr) = some n →
    s.bit (Reg.XING_STAT.RDY n) = false → x.addr ≠ Reg.FAB_CIS_DATA.word.addr →
    s.grant x = (s.setXing n { s.xingSt n with held := (s.xingSt n).held ++ [x] }).onBus 0 .waits) ∧
((∀ (n : Fin 28) (src : Fin 256) (s : State), (xingRow n).pulses = true → s.sideOn (xingRow n).dstDoms = true → s.bit (Reg.XING_STAT.SILENT n) = false →
    s.bit (Reg.XING_STAT.RDY n) = true → Completes (.pulseDelivery n src 0) s fun t => t = s.pulse src false) ∧
  (∀ (n : Fin 28) (src : Fin 256) (more : Nat) (s : State), (xingRow n).pulses = true → s.sideOn (xingRow n).dstDoms = true →
    s.bit (Reg.XING_STAT.SILENT n) = false → s.bit (Reg.XING_STAT.RDY n) = true → more ≠ 0 → s.bit (Reg.XING_CFG.COMPAT n) = false →
    Completes (.pulseDelivery n src more) s fun t =>
      t.get (Reg.XING_STAT.MERGED n) = 1 ∧ t.get Reg.XING_EVT.MERGED = 1 ∧ t.irq = ((s.pulse src false).pulse src true).irq ∧
      Frame [Reg.XING_STAT.MERGED n, Reg.XING_EVT.MERGED] [.irq] s t) ∧
  (∀ (n : Fin 28) (src : Fin 256) (more : Nat) (s : State), (xingRow n).pulses = true → s.sideOn (xingRow n).dstDoms = true →
    s.bit (Reg.XING_STAT.SILENT n) = false → s.bit (Reg.XING_STAT.RDY n) = true → more ≠ 0 → s.bit (Reg.XING_CFG.COMPAT n) = true →
    Completes (.pulseDelivery n src more) s fun t =>
      t.get (Reg.XING_STAT.OVERRUN n) = 1 ∧ t.get Reg.XING_EVT.OVERRUN = 1 ∧ t.irq = (s.pulse src false).irq ∧
      Frame [Reg.XING_STAT.OVERRUN n, Reg.XING_EVT.OVERRUN] [.irq] s t) ∧
  (∀ (n : Fin 28) (src : Fin 256) (more : Nat) (s : State), (xingRow n).pulses = true → s.sideOn (xingRow n).dstDoms = true →
    s.bit (Reg.XING_STAT.SILENT n) = false → s.bit (Reg.XING_STAT.RDY n) = false →
    Completes (.pulseDelivery n src more) s fun t => t = s.pulse src false) ∧
  (∀ (n : Fin 28) (src : Fin 256) (more : Nat) (s : State), (xingRow n).pulses = true → s.sideOn (xingRow n).dstDoms = false →
    Completes (.pulseDelivery n src more) s fun t =>
      t.get (Reg.XING_DROP.COUNT n) = min (s.get (Reg.XING_DROP.COUNT n) + 1 + more) 4294967295 ∧ Frame [Reg.XING_DROP.COUNT n] [] s t)) ∧
((∀ (n : Fin 28) (waiting : Nat) (wake : Bool) (s : State), Quiet s → s.xingSure n = false → s.xingPowered n = true →
    s.bit (Reg.XING_STAT.SILENT n) = false → s.bit (Reg.XING_STAT.RDY n) = true → (s.xingSt n).words = [] → (s.xingSt n).held = [] → 0 < waiting →
    Completes (.xingTimeout n waiting wake) s fun t =>
      t.get (Reg.XING_STAT.SILENT n) = 1 ∧ t.get (Reg.XING_STAT.RDY n) = 0 ∧ t.get (Reg.XING_STAT.LEVEL n) = 0 ∧ t.get (Reg.XING_STAT.WAKE_PEND n) = 0 ∧
      t.get (Reg.XING_DROP.COUNT n) = min (s.get (Reg.XING_DROP.COUNT n) + waiting) 4294967295 ∧
      t.get Reg.XING_TMO_LOG.XNUM = n ∧ t.get Reg.XING_TMO_LOG.WAKE = b2n (wake || s.bit (Reg.XING_STAT.WAKE_PEND n)) ∧
      t.get Reg.XING_TMO_LOG.COUNT = min (s.get Reg.XING_TMO_LOG.COUNT + 1) 65535 ∧ t.get Reg.XING_EVT.TIMEOUT = 1 ∧
      Frame [Reg.XING_STAT.SILENT n, Reg.XING_STAT.RDY n, Reg.XING_STAT.LEVEL n, Reg.XING_STAT.WAKE_PEND n, Reg.XING_DROP.COUNT n, Reg.XING_TMO_LOG.XNUM,
        Reg.XING_TMO_LOG.WAKE, Reg.XING_TMO_LOG.COUNT, Reg.XING_EVT.TIMEOUT] [.xing] s t) ∧
  (∀ (n : Fin 28) (wake : Bool) (x : Access) (s : State), Quiet s → s.xingSure n = false → s.xingPowered n = true →
    s.bit (Reg.XING_STAT.SILENT n) = false → s.bit (Reg.XING_STAT.RDY n) = true → (s.xingSt n).words = [.access x] → (s.xingSt n).held = [] → x.serves = .row →
    x.addr ≠ Reg.FAB_CIS_DATA.word.addr → Completes (.xingTimeout n 0 wake) s fun t =>
      t.get (Reg.XING_STAT.SILENT n) = 1 ∧ t.get (Reg.XING_STAT.RDY n) = 0 ∧ t.xingSt n = {} ∧ t.bus = { s.bus with data := 0, last := .timeout } ∧
      t.get (Reg.XING_DROP.COUNT n) = min (s.get (Reg.XING_DROP.COUNT n) + 1) 4294967295 ∧
      Frame [Reg.XING_STAT.SILENT n, Reg.XING_STAT.RDY n, Reg.XING_STAT.LEVEL n, Reg.XING_STAT.WAKE_PEND n, Reg.XING_DROP.COUNT n, Reg.XING_TMO_LOG.XNUM,
        Reg.XING_TMO_LOG.WAKE, Reg.XING_TMO_LOG.COUNT, Reg.XING_EVT.TIMEOUT] [.bus, .xing] s t) ∧
  (∀ (n : Fin 28) (waiting : Nat) (wake : Bool) (x : Access) (rest : List Access) (s : State), Quiet s → s.xingSure n = false → s.xingPowered n = true →
    s.bit (Reg.XING_STAT.SILENT n) = true → (s.xingSt n).held = x :: rest → x.serves = .row → x.addr ≠ Reg.FAB_CIS_DATA.word.addr →
    Completes (.xingTimeout n waiting wake) s fun t =>
      (t.xingSt n).held = rest ∧ t.bus = { s.bus with data := 0, last := .timeout } ∧ t.get Reg.XING_TMO_LOG.XNUM = n ∧
      t.get (Reg.XING_DROP.COUNT n) = min (s.get (Reg.XING_DROP.COUNT n) + 1) 4294967295 ∧
      t.get Reg.XING_TMO_LOG.COUNT = min (s.get Reg.XING_TMO_LOG.COUNT + 1) 65535 ∧ t.get Reg.XING_EVT.TIMEOUT = 1 ∧
      Frame [Reg.XING_STAT.LEVEL n, Reg.XING_DROP.COUNT n, Reg.XING_TMO_LOG.XNUM, Reg.XING_TMO_LOG.WAKE, Reg.XING_TMO_LOG.COUNT, Reg.XING_EVT.TIMEOUT]
        [.bus, .xing] s t) ∧
  (∀ (n : Fin 28) (waiting : Nat) (wake : Bool) (s : State), Quiet s → s.bit (Reg.XING_STAT.SILENT n) = false →
    s.bit (Reg.XING_STAT.RDY n) = false ∨ (waiting = 0 ∧ (s.xingSt n).words = [] ∧ (s.xingSt n).held = []) →
    Completes (.xingTimeout n waiting wake) s fun t => t = s)) ∧
((∀ (n : Fin 28) (s : State), Quiet s → s.xingPowered n = true → s.xingClocked n = true → (s.xingSt n).words = [] → (s.xingSt n).held = [] →
    Completes (.pointerResync n) s fun t =>
      t.get (Reg.XING_STAT.RDY n) = 1 ∧ t.get (Reg.XING_STAT.SILENT n) = 0 ∧ t.get (Reg.XING_STAT.LEVEL n) = 0 ∧ t.xingSt n = {} ∧
      Frame [Reg.XING_STAT.RDY n, Reg.XING_STAT.SILENT n, Reg.XING_STAT.LEVEL n, Reg.XING_STAT.WAKE_PEND n] [.xing] s t) ∧
  (∀ (n : Fin 28) (s : State), Quiet s → s.xingPowered n = false ∨ s.xingClocked n = false → Completes (.pointerResync n) s fun t => t = s))

/-! ### The fabric -/

/-- R152 step 8, FADE_END with no fade tick left: the old basin is free or a reserve again, the channel is idle and DONE is set. R157, FAB_HO_CANCEL of a
pending hand-over: the new basin is free or a reserve again, the channel is idle and CANCELLED is set; with no hand-over pending nothing changes. R91,
BASIN_FAULT: a loaded basin that stands in no hand-over is PARKED with its cause, and the error is noted for its test. R161, R162: a running basin is PARKED and
its handle's relocation begins, the lowest reserve LOADING from the shelf. R162 steps 4 and 5, SHELF_RELOAD_DONE of content that fits: the target is READY with
the shelf's cascade, and its relocation waits for the switch. R102, SHELF_REWRITE: the invalid shelf copy of a handle loaded by a full image is written again
from the booted slot in flash and is valid, and its basin no longer stale. -/
def Obligations.BasinTransitions : Prop :=
  ((∀ (h : Fin 4) (s : State), s.hoState h = 3 → s.get (Reg.FAB_HO_STAT.LEFT h) = 0 → (s.chan h).oldFault = false → Completes (.fadeEnd h) s fun t =>
    t.hoState h = 0 ∧ t.get Reg.FAB_HO_EVT.DONE = 1 ∧ t.chan h = {} ∧
    (s.get (Reg.FAB_HO_CTL.OLD h) < 10 → t.basinState (s.get (Reg.FAB_HO_CTL.OLD h)) ≤ 1) ∧ BlockOnly 0x100000 0x110000 s t ∧ OnlyParts [.fab] s t) ∧
  (∀ (h : Fin 4) (s : State), AccessReady .hsp .fab s → s.hoState h = 2 → s.get (Reg.FAB_HO_CTL.NEW h) < 10 → (s.chan h).oldFault = false →
    Completes (.fabHoCancel h) s fun t =>
      t.hoState h = 0 ∧ t.get Reg.FAB_HO_EVT.CANCELLED = 1 ∧ t.chan h = {} ∧ t.basinState (s.get (Reg.FAB_HO_CTL.NEW h)) ≤ 1 ∧
      t.bus = s.busOf .hsp 0 .done ∧ OnlyParts [.tick, .fab, .bus] s t) ∧
  (∀ (h : Fin 4) (s : State), AccessReady .hsp .fab s → s.hoState h ≠ 2 → Completes (.fabHoCancel h) s fun t => t = { s with bus := s.busOf .hsp 0 .done })) ∧
((∀ (b : Fin 10) (s : State), s.domOn .fab = true → s.basinState b = 3 → (∀ h < 4, s.hoState h = 0) → Completes (.basinFault b false) s fun t =>
    t.basinState b = 6 ∧ t.get (Reg.FAB_B_STAT.CAUSE b) = 3 ∧ t.get Reg.FAB_EVT.FAULT = 1 ∧ t.errorOpen 2 b = true ∧
    Frame [Reg.FAB_B_STAT.STATE b, Reg.FAB_B_STAT.CAUSE b, Reg.FAB_EVT.FAULT, Reg.STEW_LAST.COUNT, Reg.STEW_FSTAT.CLASS] [.fab, .stew] s t) ∧
  (∀ (b tg : Fin 10) (L : Nat) (s : State), s.domOn .fab = true → s.basinState b = 4 → (∀ h < 4, s.hoState h = 0) → s.handleOf b = some L →
    (s.shelf L).valid = true → s.lowestBasin 1 = some tg.val → s.fab.relocs = [] → Completes (.basinFault b false) s fun t =>
      t.basinState b = 6 ∧ t.basinState tg = 2 ∧ t.fab.relocs.map (fun r => (r.handle, r.source, r.target)) = [(L, b.val, tg.val)] ∧
      t.fab.relocs.map (fun r => r.step) = [.reloading] ∧
      Frame [Reg.FAB_B_STAT.STATE b, Reg.FAB_B_STAT.CAUSE b, Reg.FAB_B_STAT.STATE tg, Reg.FAB_EVT.FAULT, Reg.FAB_RESV.COUNT, Reg.STEW_LAST.COUNT,
        Reg.STEW_FSTAT.CLASS] [.fab, .stew] s t)) ∧
((∀ (tg : Fin 10) (r : Reloc) (x : BasinImage) (c : Ckpt) (s : State), s.fab.relocs.find? (fun q => q.target == tg.val && q.step == .reloading) = some r →
    (s.shelf r.handle).image = some x → x.fits s.rate = true → (s.basin r.source).lastCkpt true = some c → Completes (.shelfReloadDone tg) s fun t =>
      t.basinState tg = 3 ∧ (t.basin tg).cascade = x.cascade ∧ (t.basin tg).nslot = x.nslot ∧ (∃ q ∈ t.fab.relocs, q = { r with step := .restored }) ∧
      BlockOnly 0x100000 0x110000 s t ∧ OnlyParts [.fab] s t) ∧
  (∀ (L : Fin 10) (b : Nat) (x : BasinImage) (s : State), (s.shelf L).valid = false → (s.shelf L).part = false → s.flashBasin L = some x →
    s.mapped L = some b → s.basinState b ≠ 2 → s.fab.relocs = [] → Completes (.shelfRewrite L) s fun t =>
      t.shelf L = { image := some x.shelved, valid := true, part := false } ∧ t.get (Reg.FAB_B_STAT.SHELF_STALE b) = 0 ∧ Frame [Reg.FAB_B_STAT.SHELF_STALE b] [.fab] s t))

/-- R98, CISTERN_TURN: in a basin's position the front access of the jet is served: a write takes effect, and read data is delivered 8 cycles after the turn; in
position 12 the host write that waits in crossing 2 takes effect (R97). With the FAB clock standing still nothing happens (R17). R102: a corrected error is
counted and flagged, and so is an uncorrectable one, with its word in FAB_CIS_UEADDR; an uncorrectable word of the data regions reads zero, a row with one goes
to a march, and a shelf copy it strikes is invalid. SCRUB moves on to the next word. -/
def Obligations.CisternTurnsAndErrors : Prop :=
  ((∀ (f : Fin 16) (j : Fin 4) (s : State) (e : JetAccess) (rest : List JetAccess) (w : Nat), s.fabClock = true → f.val < 10 → ((s.basin f).jet j).queue = e :: rest →
    e.word = some w → e.write = true → e.dst = none → Completes (.cisternTurn f j) s fun t =>
      t.cisWord w = e.value ∧ (∀ v, v ≠ w → t.cisWord v = s.cisWord v) ∧ (t.basin f).jet j = { (s.basin f).jet j with queue := rest } ∧ Frame [] [.fab] s t) ∧
  (∀ (f : Fin 16) (j : Fin 4) (s : State) (e : JetAccess) (rest : List JetAccess) (w d : Nat), s.fabClock = true → f.val < 10 → ((s.basin f).jet j).queue = e :: rest →
    e.word = some w → e.write = false → e.dst = some d → Completes (.cisternTurn f j) s fun t =>
      (∀ v, t.cisWord v = s.cisWord v) ∧
      (t.basin f).jet j = { (s.basin f).jet j with
        queue := rest, deliver := ((s.basin f).jet j).deliver ++ [⟨d, BitVec.ofInt 40 (lineValue (s.cisWord w) e.frac e.round), e.turn + 8⟩] } ∧
      Frame [] [.fab] s t) ∧
  (∀ (j : Fin 4) (who : Requester) (v : Word) (s : State), Quiet s → s.fabClock = true → s.domOn .fab = true → s.isGated .fab = false →
    s.xingOpen 2 = true → (s.xingSt 2).words = [.access { who := who, addr := Reg.FAB_CIS_DATA.word.addr, write := some v }] → (s.xingSt 2).held = [] →
    s.cisAddr < shelfBase → Completes (.cisternTurn 12 j) s fun t =>
      t.cisWord (s.cisAddr / 8) = mergeHalf (s.cisWord (s.cisAddr / 8)) (s.cisAddr / 4 % 2 == 1) v ∧ t.xingSt 2 = {} ∧
      t.get Reg.FAB_CIS_STAT.BUSY = 0 ∧ t.bus = { s.bus with data := 0, last := .done } ∧
      Frame [Reg.FAB_CIS_STAT.BUSY, Reg.FAB_CIS_ADDR.ADDR, Reg.XING_STAT.LEVEL 2, Reg.XING_STAT.WAKE_PEND 2] [.fab, .bus, .xing] s t) ∧
  (∀ (f : Fin 16) (j : Fin 4) (s : State), s.fabClock = false → Completes (.cisternTurn f j) s fun t => t = s)) ∧
((∀ (w : BitVec 22) (s : State), tabGet (fun _ => 0) s.fab.rowCe (cisRow w.toNat) = 0 → Completes (.cisternCorrectedError w) s fun t =>
    t.get Reg.FAB_CIS_ECC.CE = min (s.get Reg.FAB_CIS_ECC.CE + 1) 65535 ∧ t.get Reg.FAB_EVT.CIS_CE = 1 ∧ (∀ v, t.cisWord v = s.cisWord v) ∧
    Frame [Reg.FAB_CIS_ECC.CE, Reg.FAB_EVT.CIS_CE] [.fab] s t) ∧
  (∀ (w : BitVec 22) (s : State), 8 * w.toNat < shelfBase → Completes (.cisternUncorrectableError w) s fun t =>
    t.get Reg.FAB_CIS_ECC.UE = min (s.get Reg.FAB_CIS_ECC.UE + 1) 65535 ∧ t.get Reg.FAB_EVT.CIS_UE = 1 ∧ t.get Reg.FAB_CIS_UEADDR.WORD = w.toNat ∧
    t.cisWord w.toNat = 0 ∧ (∀ v, v ≠ w.toNat → t.cisWord v = s.cisWord v) ∧ t.fab.march = s.fab.march ++ [cisRow w.toNat] ∧
    Frame [Reg.FAB_CIS_ECC.UE, Reg.FAB_EVT.CIS_UE, Reg.FAB_CIS_UEADDR.WORD, Reg.STEW_LAST.COUNT, Reg.STEW_FSTAT.CLASS] [.fab, .stew] s t) ∧
  (∀ (w : BitVec 22) (s : State), shelfBase ≤ 8 * w.toNat → 8 * w.toNat < shelfBase + 10 * shelfSize → Completes (.cisternUncorrectableError w) s fun t =>
    (t.shelf ((8 * w.toNat - shelfBase) / shelfSize)).valid = false ∧ (∀ v, t.cisWord v = s.cisWord v)) ∧
  (∀ (found : Fin 3) (s : State), s.fabClock = true → Completes (.scrub found) s fun t =>
    t.fab.scrub = (s.fab.scrub + 1) % 4194304 ∧ (found.val = 0 → Frame [] [.fab] s t)))

/-- R97, R103: FAB_CIS_DATA reads and writes the 32-bit half at FAB_CIS_ADDR, which goes on by 4 with INC; a field-locked host is turned away from the device's
own regions; a read or write waits in crossing 2 while FAB stands still, with BUSY set, and neither touches the cistern. -/
def Obligations.CisternData : Prop :=
  (∀ s : State, AccessReady .hsp .fab s → s.cisAddr < shelfBase → Completes .fabCisDataRead s fun t =>
    t.bus = s.busOf .hsp (if s.cisAddr / 4 % 2 = 1 then (s.cisWord (s.cisAddr / 8)).extractLsb' 32 32 else (s.cisWord (s.cisAddr / 8)).extractLsb' 0 32) .done ∧
    t.get Reg.FAB_CIS_ADDR.ADDR = (s.get Reg.FAB_CIS_ADDR.ADDR + s.get Reg.FAB_CIS_ADDR.INC) % 2 ^ 23 ∧ Frame [Reg.FAB_CIS_ADDR.ADDR, Reg.FAB_CIS_STAT.BUSY] [.bus] s t) ∧
  (∀ (v : Word) (s : State), AccessReady .hsp .fab s → s.cisAddr < shelfBase → Completes (.fabCisDataWrite v) s fun t =>
    t.bus = s.busOf .hsp 0 .done ∧ t.cisWord (s.cisAddr / 8) = mergeHalf (s.cisWord (s.cisAddr / 8)) (s.cisAddr / 4 % 2 == 1) v ∧
    (∀ w, w ≠ s.cisAddr / 8 → t.cisWord w = s.cisWord w) ∧ Frame [Reg.FAB_CIS_ADDR.ADDR, Reg.FAB_CIS_STAT.BUSY] [.fab, .bus] s t) ∧
  (∀ (write : Option Word) (s : State), s.domOn .sys = true → s.domOn .fab = true → s.farRuns .fab = false → s.isGated .fab = false → s.xingOpen 2 = true →
    s.xingFull 2 = false → s.isHeld .hsp = false → s.bus.wait.any (fun y => y.who == .hsp) = false →
    Completes (match write with | some v => .fabCisDataWrite v | none => .fabCisDataRead) s fun t =>
      t.xingSt 2 = { s.xingSt 2 with words := (s.xingSt 2).words ++ [.access { who := .hsp, addr := Reg.FAB_CIS_DATA.word.addr, write := write }] } ∧
      t.get Reg.FAB_CIS_STAT.BUSY = 1 ∧ t.bus = s.busOf .hsp 0 .waits ∧
      Frame [Reg.FAB_CIS_STAT.BUSY, Reg.XING_STAT.LEVEL 2] [.bus, .xing] s t) ∧
  (∀ (v : Word) (s : State), AccessReady .hsp .fab s → s.cisDenied = true → Completes (.fabCisDataWrite v) s fun t =>
    t.get Reg.FAB_CIS_STAT.DENIED = 1 ∧ t.get Reg.SEC_EVT.DENIED = 1 ∧ t.bus = s.busOf .hsp 0 .done ∧
    Frame [Reg.FAB_CIS_STAT.DENIED, Reg.SEC_EVT.DENIED, Reg.FAB_CIS_ADDR.ADDR, Reg.FAB_CIS_STAT.BUSY] [.bus] s t)

/-- R9: the raw basin windows are closed while the device is field-locked: every access to them that is granted, of any requester, and so RAW_WINDOW_ACCESS, is
refused, reads 0, sets SEC_EVT.DENIED and changes nothing else. -/
def Obligations.RawWindowsClosedByLock : Prop :=
  (∀ (a : BitVec 24) (write : Option Word) (s : State), s.domOn .sys = true → s.fieldLocked = true → a.toNat % 4 = 0 → 0x400000 ≤ a.toNat →
    a.toNat < 0x600000 → s.isHeld .hsp = false → s.bus.wait.any (fun y => y.who == .hsp) = false → Completes (.rawWindowAccess a write) s fun t =>
      t.bus = s.busOf .hsp 0 .refused ∧ t.get Reg.SEC_EVT.DENIED = 1 ∧ Frame [Reg.SEC_EVT.DENIED] [.bus] s t) ∧
  (∀ (x : Access) (s : State), s.domOn .sys = true → x.addr % 4 = 0 → 0x400000 ≤ x.addr → x.addr < 0x600000 → s.fieldLocked = true →
    (s.grant x).bus = { s.bus with data := 0, last := .refused } ∧ (s.grant x).get Reg.SEC_EVT.DENIED = 1 ∧ Frame [Reg.SEC_EVT.DENIED] [.bus] s (s.grant x))

/-- R100, CHECKPOINT_DRAIN_DONE: the drained checkpoint is in the buffer not written last, and FAB_Bb_CKPT holds bits 31:0 of its tick. R124, METER_WINDOW_END:
a complete window is copied into its register. RAW_WINDOW_ACCESS of a device that is not field-locked: a half slot word of a basin that is FREE, READY or PARKED
is replaced and read back, and a pool write takes effect and marks the shelf copy stale. R158, FAB_BB_TMARK_WRITE of a defined table sets the complete flag of
its page. -/
def Obligations.RawWindowsAndCaptures : Prop :=
  ((∀ (b : Fin 10) (c : Ckpt) (s : State), (s.basin b).shadow = some c → Completes (.checkpointDrainDone b) s fun t =>
    t.basin b = (if (s.basin b).ckptLast1 then { s.basin b with shadow := none, ckpt0 := some c, ckptLast1 := false }
      else { s.basin b with shadow := none, ckpt1 := some c, ckptLast1 := true }) ∧
    t.get (Reg.FAB_B_CKPT.TICK b) = c.tick.toNat % 2 ^ 32 ∧ (∀ b', b' ≠ b.val → t.basin b' = s.basin b') ∧
    Frame [Reg.FAB_B_CKPT.TICK b] [.fab] s t) ∧
  (∀ (b : Fin 10) (m : Fin 32) (peak : Nat) (clip : Bool) (s : State),
    (tabGet (fun _ => ({} : MeterWin)) (s.basin b).meters m).full = some (peak, clip) → Completes (.meterWindowEnd b m) s fun t =>
      t.get (Reg.FAB_B_METER.PEAK b m) = peak % 2 ^ 31 ∧ t.get (Reg.FAB_B_METER.CLIP b m) = b2n clip ∧
      (∀ b', b' ≠ b.val → t.basin b' = s.basin b') ∧ Frame [Reg.FAB_B_METER.PEAK b m, Reg.FAB_B_METER.CLIP b m] [.fab] s t)) ∧
((∀ (a : BitVec 24) (v : Word) (s : State), s.fieldLocked = false → AccessReady .hsp .fab s → a.toNat % 4 = 0 → s.get Reg.FAB_WIN_SEL.BASIN < 10 →
    s.rawOpen (s.get Reg.FAB_WIN_SEL.BASIN) = true → 0x400000 ≤ a.toNat → a.toNat < 0x480000 → Completes (.rawWindowAccess a (some v)) s fun t =>
      t.bus = s.busOf .hsp 0 .done ∧ (t.rawRead a.toNat).1 = v ∧ (∀ b, b ≠ s.get Reg.FAB_WIN_SEL.BASIN → t.basin b = s.basin b) ∧ Frame [] [.fab, .bus] s t) ∧
  (∀ (a : BitVec 24) (v : Word) (s : State), s.fieldLocked = false → AccessReady .hsp .fab s → a.toNat % 4 = 0 → s.get Reg.FAB_WIN_SEL.BASIN < 10 →
    0x480000 ≤ a.toNat → a.toNat < 0x480000 + 4 * poolWords → Completes (.rawWindowAccess a (some v)) s fun t =>
      t.bus = s.busOf .hsp 0 .done ∧ (t.rawRead a.toNat).1 = v ∧ t.get (Reg.FAB_B_STAT.SHELF_STALE (s.get Reg.FAB_WIN_SEL.BASIN)) = 1 ∧ OnlyParts [.fab, .bus] s t) ∧
  (∀ (b : Fin 10) (n : Fin 32) (pageB : Bool) (s : State), AccessReady .hsp .fab s → s.bit (Reg.FAB_B_TDESC.VALID b n) = true →
    Completes (.fabBbTmarkWrite b n pageB) s fun t =>
      t.pageDone b n pageB = true ∧ t.bus = s.busOf .hsp 0 .done ∧ Frame [if pageB then ((Reg.FAB_B_TCOMPB.DONE b).nth n)
        else ((Reg.FAB_B_TCOMPA.DONE b).nth n)] [.bus] s t))

/-- R84, R89, R115: NOP does nothing but advance; TICKEND ends the jet's cascade for the tick; SKIP suppresses the next AUX[3:0] + 1 slot words when its
condition holds (always, or Z), and none otherwise; a suppressed slot word writes nothing and takes its cycles. R98, R120 with W registers as operands: DLW
queues a write of the sample pair at the line's present word, DLR a read at the integer delay, for the jet's next turn; neither touches the cistern yet. R122 to
R124: TBL without interpolation stores the entry that an unsigned input selects; RIN stores an inbound port shifted left, ROUT notes the shifted operand for an
outbound port, METER keeps the greatest magnitude and the clip of its window. -/
def Obligations.SlotControlAndPorts : Prop :=
  (∀ (b : Fin 10) (j : Fin 4) (s : State) (sl : Slot) (x : Jet),
    (SlotReady 0x00 b j s sl x → Completes (.nop b j) s fun t => t.jetAt b j = x.after 1 ∧ OnlyJet b j s t) ∧
    (SlotReady 0x01 b j s sl x → Completes (.tickend b j) s fun t => t.jetAt b j = { x.after 1 with ended := true } ∧ OnlyJet b j s t) ∧
    (SlotReady 0x02 b j s sl x → (sl.aux / 16 = 0 ∨ (sl.aux / 16 = 1 ∧ x.flags.z = true)) →
      Completes (.skip b j) s fun t => t.jetAt b j = { x.after 1 with skip := sl.aux % 16 + 1 } ∧ OnlyJet b j s t) ∧
    (SlotReady 0x02 b j s sl x → sl.aux / 16 = 1 → x.flags.z = false →
      Completes (.skip b j) s fun t => t.jetAt b j = x.after 1 ∧ OnlyJet b j s t) ∧
    (s.wordNext b j = true → (slotOf (s.nextWord b j)).op = 0x0B → 0 < (s.jetAt b j).skip → (s.jetAt b j).queue = [] → (s.jetAt b j).deliver = [] →
      Completes (.add b j) s fun t =>
        t.jetAt b j = { (s.jetAt b j).after 1 with skip := (s.jetAt b j).skip - 1 } ∧ OnlyJet b j s t)) ∧
(∀ (b : Fin 10) (j : Fin 4) (s : State) (sl : Slot) (x : Jet) (k base : Nat), sl.sra < 64 → sl.srb < 64 → sl.src < 64 →
    lineOf (x.wVal sl.src % 2 ^ 32).toNat = some (k, base) → (s.basin b).carried = [] →
    let u := x.wVal sl.sra
    let v := x.wVal sl.srb
    let tick := s.tick.count.toNat % 2 ^ 32
    let d := (u % 2 ^ 32).toNat
    (SlotReady 0x38 b j s sl x → Completes (.dlw b j) s fun t =>
      t.jetAt b j = { x.after 1 with
        flags := { x.flags with s := x.flags.s || (satTo 32 u != u || satTo 32 v != v) }
        queue := [{ write := true, word := some (base + tick % 2 ^ k), turn := turnFrom b j (x.cycle + 1),
                    value := BitVec.ofInt 32 (satTo 32 u) ++ BitVec.ofInt 32 (satTo 32 v) }] } ∧ OnlyJet b j s t) ∧
    (SlotReady 0x39 b j s sl x → Completes (.dlr b j) s fun t =>
      t.jetAt b j = { x.after 1 with
        queue := [{ write := false, word := some (base + (((tick : Int) - (d / 4096 : Nat)) % 2 ^ k).toNat), frac := d % 4096, round := sl.r,
                    dst := some sl.dst, turn := turnFrom b j (x.cycle + 1) }] } ∧ OnlyJet b j s t)) ∧
(∀ (b : Fin 10) (j : Fin 4) (s : State) (sl : Slot) (x : Jet), sl.sra < 64 → sl.dst < 64 →
    let u := x.wVal sl.sra
    (∀ d : TableDesc, SlotReady 0x40 b j s sl x → (s.basin b).tables = [d] → d.t = sl.aux % 32 → sl.aux / 32 = 1 → sl.m = 0 → 0 < d.len → d.a + d.len ≤ poolWords →
      (s.basin b).page = 0 → (s.basin b).writes = [] → Completes (.tbl b j) s fun t =>
        t.jetAt b j = (x.after 2).putW sl.dst
          (tabGet (fun _ => (0 : Word)) (s.basin b).pool (d.a + (u % 2 ^ 32).toNat * (d.len - 1) / 2 ^ 32)).toInt false ∧ OnlyJet b j s t) ∧
    (SlotReady 0x48 b j s sl x → Completes (.rin b j) s fun t =>
      let r := (tabGet (fun _ => (0 : Word)) (s.basin b).inp (sl.aux % 32)).toInt * 2 ^ (sl.aux / 32)
      t.jetAt b j = (x.after 1).putW sl.dst (satTo 40 r) (satTo 40 r != r) ∧ OnlyJet b j s t) ∧
    (SlotReady 0x49 b j s sl x → Completes (.rout b j) s fun t =>
      let r := shiftRight sl.r u (sl.aux / 32)
      (t.basin b).writes = ⟨x.cycle, j, 65536 + sl.aux % 32, BitVec.ofInt 32 (satTo 32 r)⟩ :: (s.basin b).writes ∧
      t.jetAt b j = { x.after 1 with flags := { x.flags with s := x.flags.s || (satTo 32 r != r) } } ∧ OnlyJet b j s t) ∧
    (SlotReady 0x50 b j s sl x → Completes (.meter b j) s fun t =>
      let m := tabGet (fun _ => ({} : MeterWin)) (s.basin b).meters (sl.aux % 32)
      let a := min u.natAbs 0x7FFFFFFF
      tabGet (fun _ => ({} : MeterWin)) (t.basin b).meters (sl.aux % 32) =
        { m with w := sl.aux / 32 + 1, peak := max m.peak a, clip := m.clip || a == 0x7FFFFFFF } ∧
      t.jetAt b j = x.after 1 ∧ OnlyJet b j s t))

/-- R110, R114 with W registers as operands (the other operand forms: OperandReads, ResultStores): ADD, SUB, ABS, MIN, MAX, SHL and SHR of 40-bit values
saturate at 40 bits, V and S saying so, and set Z and N by the stored value; SAT saturates to the store format and sets S. -/
def Obligations.SlotArithmetic : Prop :=
  ∀ (b : Fin 10) (j : Fin 4) (s : State) (sl : Slot) (x : Jet), sl.sra < 64 → sl.srb < 64 → sl.dst < 64 →
    let u := x.wVal sl.sra
    let v := x.wVal sl.srb
    let gave := fun (c : Instr) (r : Int) => Completes c s fun t =>
      t.jetAt b j = (((x.after 1).putW sl.dst (satTo 40 r) (satTo 40 r != r)).znv (satTo 40 r) (satTo 40 r != r)) ∧ OnlyJet b j s t
    (SlotReady 0x0B b j s sl x → gave (.add b j) (u + v)) ∧
    (SlotReady 0x0C b j s sl x → gave (.sub b j) (u - v)) ∧
    (SlotReady 0x0D b j s sl x → gave (.abs b j) u.natAbs) ∧
    (SlotReady 0x0E b j s sl x → gave (.min b j) (min u v)) ∧
    (SlotReady 0x0F b j s sl x → gave (.max b j) (max u v)) ∧
    (SlotReady 0x10 b j s sl x → sl.aux < 64 → gave (.shl b j) (u * 2 ^ sl.aux)) ∧
    (SlotReady 0x11 b j s sl x → sl.aux < 64 → gave (.shr b j) (u / 2 ^ sl.aux)) ∧
    (SlotReady 0x12 b j s sl x → sl.m ≠ 2 → Completes (.sat b j) s fun t =>
      t.jetAt b j = (((x.after 1).putW sl.dst (satTo 32 u) (satTo 32 u != u)).znv (satTo 32 u) false) ∧ OnlyJet b j s t)

/-- R107, R109, R114 with W registers as operands: MUL, MAC and MSU multiply the operands saturated to 32 bits (S says so); MAC and MSU add the product to, or
take it from, accumulator AUX[0], zero first with AUX[1], saturating at 72 bits; the result is the accumulator shifted by SH, in the Q9.31 view, V saying where
it saturates and S where it does so at 40 bits. SHL and SHR in place shift an accumulator. -/
def Obligations.SlotMultiply : Prop :=
  ∀ (b : Fin 10) (j : Fin 4) (s : State) (sl : Slot) (x : Jet), sl.sra < 64 → sl.srb < 64 → sl.dst < 64 →
    let u := x.wVal sl.sra
    let v := x.wVal sl.srb
    let p := satTo 32 u * satTo 32 v * (if sl.m = 0 then 1 else 2)
    let wide := satTo 32 u != u || satTo 32 v != v
    let old : Int := if sl.aux / 2 % 2 = 1 then 0 else if sl.aux % 2 = 0 then x.a0.toInt else x.a1.toInt
    (SlotReady 0x0A b j s sl x → Completes (.mul b j) s fun t =>
      t.jetAt b j = (((x.after 1).putW sl.dst (accResult sl p sl.sh).value (wide || (accResult sl p sl.sh).cut)).znv (accResult sl p sl.sh).value (accResult sl p sl.sh).ovf) ∧ OnlyJet b j s t) ∧
    (SlotReady 0x08 b j s sl x → Completes (.mac b j) s fun t =>
      let a := satTo 72 (old + p)
      t.jetAt b j = (((x.after 1).putAcc (sl.aux % 2) a).putW sl.dst (accResult sl a sl.sh).value (wide || (accResult sl a sl.sh).cut)).znv (accResult sl a sl.sh).value
        (a != old + p || (accResult sl a sl.sh).ovf) ∧ OnlyJet b j s t) ∧
    (SlotReady 0x09 b j s sl x → Completes (.msu b j) s fun t =>
      let a := satTo 72 (old - p)
      t.jetAt b j = (((x.after 1).putAcc (sl.aux % 2) a).putW sl.dst (accResult sl a sl.sh).value (wide || (accResult sl a sl.sh).cut)).znv (accResult sl a sl.sh).value
        (a != old - p || (accResult sl a sl.sh).ovf) ∧ OnlyJet b j s t) ∧
    (SlotReady 0x11 b j s sl x → sl.aux / 64 = 1 → Completes (.shr b j) s fun t =>
      t.jetAt b j = ((x.after 1).putAcc 0 (x.a0.toInt / 2 ^ (sl.aux % 64))).znv (x.a0.toInt / 2 ^ (sl.aux % 64)) false ∧ OnlyJet b j s t)

/-- R116 to R119 with W registers as operands (the coefficient of RAMP in the pool, the regions of FIRT in the pool). BQ: one step of a biquad. RAMP: the gain
moves by the shifted difference to the target. FIRT of one tap: the tap's product, and its data pointer goes on. LOG2 and EXP2 within the spec's accuracy; LOG2
of zero gives the least value; EXP2 saturates at and above 1 and is zero below its range; PEAK: the greater of the magnitude and the decayed state; RMSACC: the
state moves toward the square. -/
def Obligations.SlotMacros : Prop :=
  ∀ (b : Fin 10) (j : Fin 4) (s : State) (sl : Slot) (x : Jet), sl.sra < 64 → sl.srb < 64 → sl.dst < 64 →
    let u := x.wVal sl.sra
    let v := x.wVal sl.srb
    let st := x.wVal sl.dst
    let p := satTo 32 u * satTo 32 v * (if sl.m = 0 then 1 else 2)
    let wide := satTo 32 u != u || satTo 32 v != v
    let pool := fun (a : Nat) => (tabGet (fun _ => (0 : Word)) (s.basin b).pool a).toInt
    (SlotReady 0x20 b j s sl x → sl.src < 64 → Completes (.bq b j) s fun t =>
      let a := satTo 72 (if sl.aux % 8 < 2 then x.wVal sl.src * 2 ^ 31 + p else if sl.aux % 8 = 3 then p else x.a1.toInt - p)
      t.jetAt b j = ((x.after 1).putAcc (if sl.aux % 8 = 0 then 0 else 1) a).putW sl.dst (accResult sl a 0).value (wide || (accResult sl a 0).cut) ∧ OnlyJet b j s t) ∧
    (SlotReady 0x28 b j s sl x → sl.m = 0 → 0x100 ≤ sl.src → sl.src < 0x100 + poolWords → (s.basin b).tables = [] → (s.basin b).writes = [] →
      Completes (.ramp b j) s fun t =>
        let g := pool (sl.src - 0x100)
        let d := shiftRight sl.r (v - g) (sl.aux % 32)
        let g0 := if d = 0 then v else g + d
        (t.basin b).writes = [⟨x.cycle, j, sl.src - 0x100, BitVec.ofInt 32 (satTo 32 g0)⟩] ∧
        t.jetAt b j = (x.after 2).putW sl.dst (accResult sl (satTo 32 u * satTo 32 g0) 0).value (satTo 32 g0 != g0 || satTo 32 u != u || (accResult sl (satTo 32 u * satTo 32 g0) 0).cut) ∧ OnlyJet b j s t) ∧
    (SlotReady 0x21 b j s sl x → sl.m = 0 → sl.aux = 0 → sl.src % 4 = 2 → (s.basin b).tables = [] → (s.basin b).writes = [] →
      (∀ n < 8, 0 ≤ ptrEff (x.ptr n) 0 ∧ ptrEff (x.ptr n) 0 < poolWords) → Completes (.firt b j) s fun t =>
        let a := pool (ptrEff (x.ptr (sl.sra % 8)) 0).toNat * pool (ptrEff (x.ptr (sl.srb % 8)) 0).toNat
        ptrAddr ((t.jetAt b j).ptr (sl.sra % 8)) = (ptrEff (x.ptr (sl.sra % 8)) 1 % 32768).toNat ∧ (t.jetAt b j).a0 = BitVec.ofInt 72 a ∧
        (t.jetAt b j).wVal sl.dst = (accResult sl a 0).value ∧ OnlyJet b j s t) ∧
    (SlotReady 0x30 b j s sl x → Completes (.log2 b j) s fun t =>
      let r := (t.jetAt b j).wVal sl.dst
      t.jetAt b j = (x.after 2).putW sl.dst r false ∧ (u = 0 → r = -0x80000000) ∧ (u ≠ 0 → log2Q u.natAbs - (if u.natAbs = 2 ^ Nat.log2 u.natAbs then 16 else 15) ≤ r ∧ r ≤ log2Q u.natAbs + 16) ∧ OnlyJet b j s t) ∧
    (SlotReady 0x31 b j s sl x → 0 ≤ u → Completes (.exp2 b j) s fun t =>
      t.jetAt b j = (x.after 2).putW sl.dst 0x7FFFFFFF true ∧ OnlyJet b j s t) ∧
    (SlotReady 0x31 b j s sl x → u < -31 * 2 ^ 26 → Completes (.exp2 b j) s fun t =>
      t.jetAt b j = (x.after 2).putW sl.dst 0 (satTo 32 u != u) ∧ OnlyJet b j s t) ∧
    (SlotReady 0x31 b j s sl x → -31 * 2 ^ 26 ≤ u → u < 0 → Completes (.exp2 b j) s fun t =>
      let r := (t.jetAt b j).wVal sl.dst
      let e : Nat := expFrac (u % 2 ^ 26).toNat / 2 ^ (-(u / 2 ^ 26)).toNat
      t.jetAt b j = (x.after 2).putW sl.dst r false ∧ exp2Low e ≤ r ∧ r ≤ exp2High e ∧ OnlyJet b j s t) ∧
    (SlotReady 0x32 b j s sl x → sl.m = 0 → Completes (.peak b j) s fun t =>
      t.jetAt b j = (x.after 1).putW sl.dst (max (satTo 40 u.natAbs) (accResult sl (satTo 32 st * satTo 32 v) 0).value)
        (satTo 32 st != st || satTo 32 v != v || satTo 40 (u.natAbs : Int) != u.natAbs) ∧
      OnlyJet b j s t) ∧
    (SlotReady 0x33 b j s sl x → Completes (.rmsacc b j) s fun t =>
      let r := st + shiftRight sl.r (satTo 32 u * satTo 32 u - st * 2 ^ 31) (31 + sl.aux % 32)
      t.jetAt b j = (x.after 2).putW sl.dst (satTo 40 r) (satTo 32 u != u || satTo 40 r != r) ∧ OnlyJet b j s t)

/-- R105, R106, R108: what each class of source code reads: a W register, an inbound port, the constants 0, 1 − 2^-31 and −1, an accumulator's rounded Q9.31
view, a pointer, FLAGS, 2^-n, small positive and negative integers, and a pool word, which lies outside every table and reads 0 outside the pool. R105, R107,
R109: a result stored to a W register saturates to 40 bits, one stored to a pool word to 32 bits (shifted right one place first under M2), and S says so; an
accumulator takes it shifted left 31 places; FLAGS takes its low four bits; nothing outside the pool is written. -/
def Obligations.SlotForms : Prop :=
  (∀ (c : JetCtx) (sl : Slot) (n : Nat), sl.m ≠ 3 →
    (n < 64 → c.read sl n = c.jet.wVal n) ∧
    (n < 32 → c.read sl (0x40 + n) = (tabGet (fun _ => (0 : Word)) c.basin.inp n).toInt) ∧
    c.read sl 0x80 = 0 ∧ c.read sl 0x81 = 2 ^ 31 - 1 ∧ c.read sl 0x82 = -2 ^ 31 ∧
    c.read sl 0x84 = satTo 40 (shiftRight sl.r c.jet.a0.toInt 31) ∧ c.read sl 0x85 = satTo 40 (shiftRight sl.r c.jet.a1.toInt 31) ∧
    (n < 8 → c.read sl (0x88 + n) = (c.jet.ptr n).toNat) ∧ c.read sl 0x94 = c.jet.flags.bits ∧
    (n < 31 → c.read sl (0xA0 + n) = 2 ^ 30 / 2 ^ n) ∧ (n < 32 → c.read sl (0xC0 + n) = n + 1) ∧ (n < 32 → c.read sl (0xE0 + n) = -(n + 1 : Int)) ∧
    (c.basin.tables = [] → c.basin.writes = [] → c.read sl (0x100 + n) = if n < poolWords then (tabGet (fun _ => (0 : Word)) c.basin.pool n).toInt else 0)) ∧
(∀ (c : JetCtx) (sl : Slot) (cyc : Nat) (v : Int), sl.m ≠ 3 →
    (sl.dst < 64 → (c.store sl cyc v false).ctx = { c with jet := c.jet.putW sl.dst (satTo 40 v) (satTo 40 v != v) }) ∧
    (sl.m ≠ 2 → 0x100 ≤ sl.dst → sl.dst < 0x100 + poolWords →
      (c.store sl cyc v false).ctx.basin.writes = ⟨cyc, c.j, sl.dst - 0x100, BitVec.ofInt 32 (satTo 32 v)⟩ :: c.basin.writes ∧
      (c.store sl cyc v false).ctx.jet.flags.s = (c.jet.flags.s || satTo 32 v != v)) ∧
    (sl.m = 2 → 0x100 ≤ sl.dst → sl.dst < 0x100 + poolWords →
      (c.store sl cyc v false).ctx.basin.writes = ⟨cyc, c.j, sl.dst - 0x100, BitVec.ofInt 32 (satTo 32 (shiftRight sl.r v 1))⟩ :: c.basin.writes) ∧
    (0x100 + poolWords ≤ sl.dst → (c.store sl cyc v false).ctx.basin = c.basin) ∧
    (sl.dst = 0x84 → (c.store sl cyc v false).ctx = { c with jet := { c.jet with a0 := BitVec.ofInt 72 (satTo 40 v * 2 ^ 31) } }) ∧
    (sl.dst = 0x85 → (c.store sl cyc v false).ctx = { c with jet := { c.jet with a1 := BitVec.ofInt 72 (satTo 40 v * 2 ^ 31) } }) ∧
    (sl.dst = 0x94 → (c.store sl cyc v false).ctx = { c with jet := { c.jet with flags := flagsOf (v % 16).toNat } }))

/-! ### The analogue channels -/

/-- R175, CLIP of a running channel with no mute: the flag, the event and the held indication are set, and a new run is counted once, also for an overload; a
channel that is not running reports nothing. AIN_LIVE_HOLD_EXPIRY lets the indications go once their hold is over. R177, AIN_CALCTL_WRITE: a selected channel
that is not OFF is busy, and its run of 60 ms begins. R193, AOUT_CALCTL_WRITE: the same of a line output that is neither OFF nor SETTLING, for 30 ms. CAL_DONE
of a run nobody's request waits for: the channels that have had their time are no longer busy, FAIL is replaced for them and kept for the others, and the event
is set. -/
def Obligations.ClipsAndCalibration : Prop :=
  ((∀ (k : Fin 16) (s : State), (s.aiState k = aiRUNNING ∨ s.aiState k = aiRAMP) → (s.aiCh k).mute = none → Completes (.clip k false) s fun t =>
    t.get (Reg.AIN_CLIP.CH.nth k) = 1 ∧ t.get Reg.AIN_EVT.CLIP = 1 ∧ t.get (Reg.AIN_LIVE.CLIP.nth k) = 1 ∧
    t.get (Reg.AIN_CH_CNT.CLIP k) = (if sameRun (s.aiCh k).clipAt s.tick.count then s.get (Reg.AIN_CH_CNT.CLIP k)
      else min (s.get (Reg.AIN_CH_CNT.CLIP k) + 1) 65535) ∧
    Frame [Reg.AIN_CLIP.CH.nth k, Reg.AIN_EVT.CLIP, Reg.AIN_LIVE.CLIP.nth k, Reg.AIN_CH_CNT.CLIP k] [.timers, .ain] s t) ∧
  (∀ (k : Fin 16) (s : State), (s.aiState k = aiRUNNING ∨ s.aiState k = aiRAMP) → (s.aiCh k).mute = none → Completes (.clip k true) s fun t =>
    t.get (Reg.AIN_OVL.CH.nth k) = 1 ∧ t.get Reg.AIN_EVT.OVL = 1 ∧ t.get (Reg.AIN_LIVE.OVL.nth k) = 1 ∧
    t.get (Reg.AIN_CH_CNT.OVL k) = (if sameRun (s.aiCh k).ovlAt s.tick.count then s.get (Reg.AIN_CH_CNT.OVL k)
      else min (s.get (Reg.AIN_CH_CNT.OVL k) + 1) 65535) ∧
    Frame [Reg.AIN_CLIP.CH.nth k, Reg.AIN_EVT.CLIP, Reg.AIN_LIVE.CLIP.nth k, Reg.AIN_CH_CNT.CLIP k,
      Reg.AIN_OVL.CH.nth k, Reg.AIN_EVT.OVL, Reg.AIN_LIVE.OVL.nth k, Reg.AIN_CH_CNT.OVL k] [.timers, .ain] s t) ∧
  (∀ (k : Fin 16) (ovl : Bool) (s : State), s.aiState k ≠ aiRUNNING → s.aiState k ≠ aiRAMP → Completes (.clip k ovl) s fun t => t = s) ∧
  (∀ (k : Fin 16) (s : State), s.due (tmAinClip k) (max 1 (s.get Reg.AIN_HOLD.MS)) = true → s.due (tmAinOvl k) (max 1 (s.get Reg.AIN_HOLD.MS)) = true →
    Completes (.ainLiveHoldExpiry k) s fun t =>
      t.get (Reg.AIN_LIVE.CLIP.nth k) = 0 ∧ t.get (Reg.AIN_LIVE.OVL.nth k) = 0 ∧
      Frame [Reg.AIN_LIVE.CLIP.nth k, Reg.AIN_LIVE.OVL.nth k] [.timers] s t)) ∧
((∀ (k : Fin 16) (s : State), AccessReady .hsp .ain s → s.get Reg.AIN_STAT.NOSUPPLY = 0 → s.get (Reg.AIN_CALST.BUSY.nth k) = 0 → s.aiState k ≠ aiOFF →
    s.aiState k ≠ aiUNAVAILABLE → Completes (.ainCalctlWrite (BitVec.ofNat 16 (2 ^ k.val))) s fun t =>
      t.get Reg.AIN_CALST.BUSY = s.get Reg.AIN_CALST.BUSY ||| 2 ^ k.val ∧ t.get Reg.AIN_STAT.CAL_BUSY = 1 ∧ (t.aiCh k).calAt = some s.now ∧
      (∀ i, i ≠ k.val → t.aiCh i = s.aiCh i) ∧ t.bus = s.busOf .hsp 0 .done ∧
      Frame [Reg.AIN_CALST.BUSY, Reg.AIN_STAT.CAL_BUSY, Reg.AIN_CH_STAT.STATE k] [.ain, .bus] s t) ∧
  (∀ (k : Fin 16) (s : State), AccessReady .hsp .aout s → s.get (Reg.AOUT_CALST.BUSY.nth k) = 0 → s.aoState k ≠ aoOFF → s.aoState k ≠ aoSETTLING →
    Completes (.aoutCalctlWrite (BitVec.ofNat 16 (2 ^ k.val))) s fun t =>
      t.get Reg.AOUT_CALST.BUSY = s.get Reg.AOUT_CALST.BUSY ||| 2 ^ k.val ∧ t.get Reg.AOUT_STAT.CAL_BUSY = 1 ∧ t.aoCh k = { s.aoCh k with calAt := some s.now } ∧
      (∀ i, i ≠ k.val → t.aoCh i = s.aoCh i) ∧ t.bus = s.busOf .hsp 0 .done ∧ Frame [Reg.AOUT_CALST.BUSY, Reg.AOUT_STAT.CAL_BUSY] [.aout, .bus] s t) ∧
  (∀ (fail : BitVec 16) (s : State), let ended := fun (k : Nat) => (s.aoCh k).calAt.any fun t => decide (t + 30 ≤ s.now)
    (∃ k < 16, ended k = true) → s.mbx.convCal = none → Completes (.calDone true fail) s fun t =>
      (∀ k < 16, t.bitAt Reg.AOUT_CALST.BUSY k = (s.bitAt Reg.AOUT_CALST.BUSY k && !ended k) ∧
        t.bitAt Reg.AOUT_CALST.FAIL k = if ended k then fail.getLsbD k else s.bitAt Reg.AOUT_CALST.FAIL k) ∧
      t.get Reg.AOUT_STAT.CAL_BUSY = b2n (t.get Reg.AOUT_CALST.BUSY != 0) ∧ t.get Reg.AOUT_EVT.CAL_DONE = 1 ∧
      Frame [Reg.AOUT_CALST.FAIL, Reg.AOUT_CALST.BUSY, Reg.AOUT_STAT.CAL_BUSY, Reg.AOUT_EVT.CAL_DONE] [.aout, .mbx] s t) ∧
  (∀ (fail : BitVec 16) (s : State), let ended := fun (k : Nat) => (s.aiCh k).calAt.any fun t => decide (t + 60 ≤ s.now)
    (∃ k < 16, ended k = true) → s.mbx.convCal = none → Completes (.calDone false fail) s fun t =>
      (∀ k < 16, t.bitAt Reg.AIN_CALST.BUSY k = (s.bitAt Reg.AIN_CALST.BUSY k && !ended k) ∧
        t.bitAt Reg.AIN_CALST.FAIL k = if ended k then fail.getLsbD k else s.bitAt Reg.AIN_CALST.FAIL k) ∧
      t.get Reg.AIN_STAT.CAL_BUSY = b2n (t.get Reg.AIN_CALST.BUSY != 0) ∧ t.get Reg.AIN_EVT.CAL_DONE = 1 ∧
      BlockOnly 0x140000 0x150000 s t ∧ OnlyParts [.ain, .mbx] s t))

/-- R178, R201, VDDA_5_LOST: every input and both amplifiers are UNAVAILABLE, a calibration is aborted, and the loss shows in both blocks and in the power
manager; VDDA_5_RESTORED takes the loss back. R180, PH_DONE once 4 ms and the settling time have passed: the group rests with its new level unless a newer one
waits, and the event is set. -/
def Obligations.AnalogueSupply : Prop :=
  (∀ s : State, s.get Reg.AIN_STAT.NOSUPPLY = 0 → Completes .vdda5Lost s fun t =>
    t.get Reg.AIN_STAT.NOSUPPLY = 1 ∧ t.get Reg.HP_STAT.NOSUPPLY = 1 ∧ t.get Reg.HP_STAT.CP_OK = 0 ∧ t.get Reg.AIN_CALST.BUSY = 0 ∧
    t.get Reg.AIN_EVT.SUPPLY = 1 ∧ t.get Reg.HP_EVT.SUPPLY = 1 ∧ t.get Reg.PWRM_EVT.SUPPLY = 1 ∧ t.get (Reg.PWRM_STAT.SUPPLY_OK.nth 6) = 0 ∧
    (∀ k < 16, t.aiState k = aiUNAVAILABLE) ∧ (∀ n < 2, t.hpState n = hpUNAVAILABLE ∧ (t.hpAmp n).clamped = true) ∧
    LowRegsSame 0x30000 s t ∧ OnlyParts [.timers, .ain, .hp] s t) ∧
  (∀ s : State, s.get Reg.AIN_STAT.NOSUPPLY = 1 → Completes .vdda5Restored s fun t =>
    t.get Reg.AIN_STAT.NOSUPPLY = 0 ∧ t.get Reg.HP_STAT.NOSUPPLY = 0 ∧ t.get Reg.AIN_EVT.SUPPLY = 1 ∧ t.get Reg.HP_EVT.SUPPLY = 1 ∧
    t.get (Reg.PWRM_STAT.SUPPLY_OK.nth 6) = 1 ∧ (∀ k < 16, t.aiState k ≠ aiUNAVAILABLE) ∧ LowRegsSame 0x30000 s t ∧ OnlyParts [.timers, .ain, .hp] s t) ∧
  (∀ (g : Fin 8) (x : PhChange) (s : State), (s.ph g).change = some x → x.at_ + 4 + x.settle ≤ s.now →
    s.bit (Reg.AIN_PHGRP.EN g) = x.en → Completes (.phDone g) s fun t =>
      t.ph g = { active := x.en, change := none } ∧ t.get Reg.AIN_EVT.PH_DONE = 1 ∧ BlockOnly 0x140000 0x150000 s t ∧ OnlyParts [.ain, .phantom] s t)

/-- R187, TRANSITION_END: a channel that has reached its goal takes the goal's state, and a settled channel leaves SETTLING after 10 ms. R188, SLEW_ENGAGEMENT:
a new engagement of the safety cap is counted. R189: DCLR_N puts every channel that is not OFF on its clear code; its release holds the outputs for CLRACK with
DCLR_LATCH, and otherwise lets every channel go. -/
def Obligations.LineOutputs : Prop :=
  (∀ (k : Fin 16) (s : State), s.aoState k = aoTRANSITION → (s.aoCh k).settled (s.aoTrim k) = true → Completes (.transitionEnd k) s fun t =>
    t.aoState k = s.aoFinal (s.aoCh k).goal ∧ Frame [Reg.AOUT_CH_STAT.STATE k] [] s t) ∧
  (∀ (k : Fin 16) (s : State), s.aoState k = aoSETTLING → s.due (tmAoutSettle k) 10 = true → Completes (.transitionEnd k) s fun t =>
    t.aoState k ≠ aoSETTLING ∧ t.timerOn (tmAoutSettle k) = false ∧ Frame [Reg.AOUT_CH_STAT.STATE k] [.timers, .aout] s t) ∧
  (∀ (k : Fin 16) (s : State), s.bit (Reg.AOUT_CH_CFG.SAFE k) = true → s.aoState k = aoRUN → (s.aoCh k).engaged = false →
    Completes (.slewEngagement k) s fun t =>
      t.get (Reg.AOUT_CH_STAT.SLEWCNT k) = min (s.get (Reg.AOUT_CH_STAT.SLEWCNT k) + 1) (2 ^ (Reg.AOUT_CH_STAT.SLEWCNT k).width - 1) ∧
      t.get Reg.AOUT_EVT.SLEW = 1 ∧ t.aoCh k = { s.aoCh k with engaged := true, calm := 0 } ∧
      Frame [Reg.AOUT_CH_STAT.SLEWCNT k, Reg.AOUT_EVT.SLEW] [.aout] s t) ∧
  (∀ s : State, s.get Reg.AOUT_STAT.DCLR = 0 → Completes .dclrNAssert s fun t =>
    t.get Reg.AOUT_STAT.DCLR = 1 ∧ t.get Reg.AOUT_EVT.DCLR = 1 ∧
    (∀ k < 16, s.aoState k ≠ aoOFF → (t.aoCh k).held = true ∧ (t.aoCh k).dc = s.aoClear k ∧ (s.aoState k ≠ aoSETTLING → t.aoState k = aoCLEAR)) ∧
    BlockOnly 0x150000 0x170000 s t ∧ OnlyParts [.timers, .aout, .hp] s t) ∧
  (∀ s : State, s.get Reg.AOUT_STAT.DCLR = 1 → s.get Reg.AOUT_CTL.DCLR_LATCH = 1 → Completes .dclrNRelease s fun t =>
    t.get Reg.AOUT_STAT.DCLR = 0 ∧ t.get Reg.AOUT_STAT.HELD = 1 ∧ t.get Reg.AOUT_EVT.DCLR_REL = 1 ∧
    Frame [Reg.AOUT_STAT.DCLR, Reg.AOUT_STAT.HELD, Reg.AOUT_EVT.DCLR_REL] [] s t) ∧
  (∀ s : State, s.get Reg.AOUT_STAT.DCLR = 1 → s.get Reg.AOUT_CTL.DCLR_LATCH = 0 → Completes .dclrNRelease s fun t =>
    t.get Reg.AOUT_STAT.DCLR = 0 ∧ t.get Reg.AOUT_STAT.HELD = 0 ∧ t.get Reg.AOUT_EVT.DCLR_REL = 1 ∧ (∀ k < 16, (t.aoCh k).held = false) ∧
    BlockOnly 0x150000 0x170000 s t ∧ OnlyParts [.timers, .aout, .hp] s t) ∧
  (∀ s : State, AccessReady .hsp .aout s → s.get Reg.AOUT_STAT.HELD = 1 → s.get Reg.AOUT_STAT.DCLR = 0 → Completes .clrack s fun t =>
    t.get Reg.AOUT_STAT.HELD = 0 ∧ (∀ k < 16, (t.aoCh k).held = false) ∧ t.bus = s.busOf .hsp 0 .done ∧ BlockOnly 0x150000 0x170000 s t ∧
    OnlyParts [.timers, .aout, .hp, .bus] s t)

/-- R199: an inserted jack is reported and a waiting amplifier starts; a removed one is reported, the measured impedance and limit are forgotten and a running
amplifier stops. R197, R198, HP_START in STARTING after 20 ms: the test's resistances and the limit they give are shown and the amplifier runs from mute. R197,
HP_STOP: with a failed condition the volume goes to mute first, and at mute the outputs are clamped. R200: an overcurrent clamps, counts and notes the trip; the
test that ends 70 ms later restarts a sound load or latches; HP_UNLATCH starts again. R196, VOLUME_STEP: one step toward VOL and the limit. -/
def Obligations.Headphones : Prop :=
  (∀ (n : Fin 2) (s : State), s.bit (fldJack n) = false → s.hpState n = hpNOJACK → s.domOn .aout = true → s.bit (Reg.HP_AMP_CTL.EN n) = true →
    s.bit Reg.HP_STAT.NOSUPPLY = false → s.aoPlaying = true → s.dclrParksHp = false → Completes (.jackInsert n) s fun t =>
      t.bit (fldJack n) = true ∧ t.bit (fldIns n) = true ∧ t.hpState n = hpSTARTING ∧ t.bit Reg.HP_STAT.CP_OK = true ∧ (t.hpAmp n).clamped = true ∧
      Frame [fldJack n, fldIns n, Reg.HP_AMP_STAT.STATE n, Reg.HP_STAT.CP_OK] [.timers, .hp] s t) ∧
  (∀ (n : Fin 2) (s : State), s.bit (fldJack n) = true → s.bitAt Reg.HP_DETCFG.IGNORE n = false → s.hpState n = hpRUN →
    (s.hpAmp n).latched = false → s.bit (Reg.HP_AMP_CTL.EN n) = true → s.bit Reg.HP_STAT.NOSUPPLY = false → Completes (.jackRemove n) s fun t =>
      t.bit (fldJack n) = false ∧ t.bit (fldRem n) = true ∧ t.hpState n = hpNOJACK ∧ (t.hpAmp n).clamped = true ∧ (t.hpAmp n).measured = false ∧
      t.get (Reg.HP_AMP_Z.LEFT n) = 1023 ∧ t.get (Reg.HP_AMP_Z.RIGHT n) = 1023 ∧ t.get (Reg.HP_AMP_STAT.LIM_L n) = 0 ∧ t.get (Reg.HP_AMP_STAT.LIM_R n) = 0 ∧
      Frame [fldJack n, fldRem n, Reg.HP_AMP_STAT.STATE n, Reg.HP_STAT.CP_OK, Reg.HP_AMP_Z.LEFT n, Reg.HP_AMP_Z.RIGHT n, Reg.HP_AMP_STAT.LIM_L n,
        Reg.HP_AMP_STAT.LIM_R n] [.timers, .hp] s t) ∧
  (∀ (n : Fin 2) (zL zR : Nat) (s : State), s.hpWants n = true → s.hpState n = hpSTARTING → (s.hpAmp n).measured = false → s.due (tmHpStart n) 20 = true → 4 ≤ zL → 4 ≤ zR →
    Completes (.hpStart n zL zR) s fun t =>
      t.hpState n = hpRUN ∧ t.get (Reg.HP_AMP_Z.LEFT n) = (if 1000 < zL then 1023 else zL) ∧ t.get (Reg.HP_AMP_Z.RIGHT n) = (if 1000 < zR then 1023 else zR) ∧
      t.get (Reg.HP_AMP_STAT.LIM_L n) = s.hpLimit (hpZ zL) ∧ t.get (Reg.HP_AMP_STAT.LIM_R n) = s.hpLimit (hpZ zR) ∧ t.get Reg.HP_EVT.ZDONE = 1 ∧
      t.hpAmp n = { s.hpAmp n with measured := true, clamped := false, attL := 201, attR := 201, tickL := 8, tickR := 8 } ∧
      Frame [Reg.HP_AMP_Z.LEFT n, Reg.HP_AMP_Z.RIGHT n, Reg.HP_AMP_STAT.LIM_L n, Reg.HP_AMP_STAT.LIM_R n, Reg.HP_EVT.ZDONE, Reg.HP_AMP_STAT.STATE n,
        Reg.HP_STAT.CP_OK] [.timers, .hp] s t) ∧
  (∀ (n : Fin 2) (s : State), s.hpWants n = false → s.hpState n = hpRUN → ((s.hpAmp n).attL < 201 ∨ (s.hpAmp n).attR < 201) → Completes (.hpStop n) s fun t =>
    t.hpAmp n = { s.hpAmp n with stopping := true } ∧ (∀ m, m ≠ n.val → t.hpAmp m = s.hpAmp m) ∧ Frame [] [.hp] s t) ∧
  (∀ (n : Fin 2) (s : State), s.hpWants n = false → s.hpState n = hpRUN → (s.hpAmp n).latched = false → 201 ≤ (s.hpAmp n).attL → 201 ≤ (s.hpAmp n).attR →
    Completes (.hpStop n) s fun t =>
      t.hpState n = s.hpRest n ∧ t.hpAmp n = { s.hpAmp n with attL := 201, attR := 201, clamped := true, stopping := false } ∧
      Frame [Reg.HP_AMP_STAT.STATE n, Reg.HP_STAT.CP_OK] [.timers, .hp] s t) ∧
  (∀ (n : Fin 2) (s : State), s.hpState n = hpRUN → Completes (.hpOvercurrent n) s fun t =>
    t.hpState n = hpFAULT ∧ t.get Reg.HP_EVT.OC = 1 ∧ t.get (Reg.HP_AMP_STAT.TRIPS n) = min ((recent s.now 10000 (s.hpAmp n).trips).length + 1) 15 ∧
    (t.hpAmp n).clamped = true ∧ t.timerOn (tmHpRetest n) = true ∧ t.errorOpen clsHP n = true ∧ OnlyParts [.timers, .hp, .stew] s t) ∧
  (∀ (n : Fin 2) (zL zR : Nat) (s : State), s.hpState n = hpFAULT → s.due (tmHpRetest n) 70 = true → zL < 4 → Completes (.hpRetest n zL zR) s fun t =>
    t.hpState n = hpLATCHED ∧ (t.hpAmp n).latched = true ∧ t.get Reg.HP_EVT.LATCH = 1 ∧ t.get (Reg.HP_AMP_Z.LEFT n) = 0 ∧
    Frame [Reg.HP_AMP_Z.LEFT n, Reg.HP_AMP_Z.RIGHT n, Reg.HP_AMP_STAT.LIM_L n, Reg.HP_AMP_STAT.LIM_R n, Reg.HP_EVT.LATCH, Reg.HP_AMP_STAT.STATE n]
      [.timers, .hp] s t) ∧
  (∀ (n : Fin 2) (zL zR : Nat) (s : State), s.hpState n = hpFAULT → s.due (tmHpRetest n) 70 = true → 4 ≤ zL → 4 ≤ zR →
    (recent s.now 10000 (s.hpAmp n).trips).length ≤ 3 → s.hpWants n = true → Completes (.hpRetest n zL zR) s fun t =>
      t.hpState n = hpRUN ∧ (t.hpAmp n).clamped = false ∧ t.get Reg.HP_EVT.ZDONE = 1 ∧ OnlyParts [.timers, .hp] s t) ∧
  (∀ (n : Fin 2) (s : State), AccessReady .hsp .aout s → s.hpState n = hpLATCHED → s.hpWants n = true → Completes (.hpUnlatch n) s fun t =>
    t.hpState n = hpSTARTING ∧ (t.hpAmp n).latched = false ∧ t.bus = s.busOf .hsp 0 .done ∧
    Frame [Reg.HP_AMP_STAT.STATE n, Reg.HP_STAT.CP_OK] [.timers, .hp, .bus] s t) ∧
  (∀ (n : Fin 2) (s : State), s.hpState n = hpRUN → (s.hpAmp n).stopping = false → 8 ≤ (s.hpAmp n).tickL →
    (s.hpAmp n).attL ≠ hpTarget (s.get (Reg.HP_AMP_VOL.LEFT n)) (s.get (Reg.HP_AMP_STAT.LIM_L n)) → Completes (.volumeStep n false) s fun t =>
      t.hpAmp n = { s.hpAmp n with tickL := 0, attL :=
        if (s.hpAmp n).attL < hpTarget (s.get (Reg.HP_AMP_VOL.LEFT n)) (s.get (Reg.HP_AMP_STAT.LIM_L n)) then (s.hpAmp n).attL + 1 else (s.hpAmp n).attL - 1 } ∧
      (∀ m, m ≠ n.val → t.hpAmp m = s.hpAmp m) ∧ Frame [] [.hp] s t) ∧
  (∀ (n : Fin 2) (s : State), s.hpState n = hpRUN → (s.hpAmp n).stopping = false → 8 ≤ (s.hpAmp n).tickR →
    (s.hpAmp n).attR ≠ hpTarget (s.get (Reg.HP_AMP_VOL.RIGHT n)) (s.get (Reg.HP_AMP_STAT.LIM_R n)) → Completes (.volumeStep n true) s fun t =>
      t.hpAmp n = { s.hpAmp n with tickR := 0, attR :=
        if (s.hpAmp n).attR < hpTarget (s.get (Reg.HP_AMP_VOL.RIGHT n)) (s.get (Reg.HP_AMP_STAT.LIM_R n)) then (s.hpAmp n).attR + 1 else (s.hpAmp n).attR - 1 } ∧
      (∀ m, m ≠ n.val → t.hpAmp m = s.hpAmp m) ∧ Frame [] [.hp] s t)

/-! ### The power stages -/

/-- R222, CHANNEL_START, one command per step: a channel in OFF whose conditions hold begins and releases its line, and with no coefficients reads CFG instead
(R212); the line high leads at once to switching at cm = 0 in a 2-level stage, and else 1 ms later to the probe pulses; capacitors in their window lead to
switching; the ends of the two ramps lead to the gain ramp and to RUN. R225, PSC_UNLATCH: LATCHED is left. -/
def Obligations.StageStarts : Prop :=
  (∀ (k : Fin 8) (line : Bool) (uv : Nat) (s : State), s.pscWants k = true → s.psState k = psOFF → (s.pscCh k).dcTest = .none → s.pscNoCoef k = false →
    Completes (.channelStart k line uv) s fun t =>
      t.psState k = psSTARTING ∧ t.get (Reg.PSC_STAT.LEVELS k) = s.pscLevelsCfg k ∧ (t.pscCh k).step = .waitReady ∧ (t.pscCh k).rdyReleased = true ∧
      (t.pscCh k).drive = .low ∧ t.timerOn (tmPscReady k) = true ∧ Frame [Reg.PSC_STAT.STATE k, Reg.PSC_STAT.LEVELS k] [.timers, .psc, .gauge] s t) ∧
  (∀ (k : Fin 8) (line : Bool) (uv : Nat) (s : State), s.pscWants k = true → s.psState k = psOFF → (s.pscCh k).dcTest = .none → s.pscNoCoef k = true →
    Completes (.channelStart k line uv) s fun t => t.get (Reg.PSC_STAT.CAUSE k) = 5 ∧ Frame [Reg.PSC_STAT.CAUSE k] [] s t) ∧
  (∀ (k : Fin 8) (uv : Nat) (s : State), s.psState k = psSTARTING → (s.pscCh k).step = .waitReady → Completes (.channelStart k true uv) s fun t =>
    t.get (Reg.PSC_STAT.RDY k) = 1 ∧ (s.get (Reg.PSC_STAT.LEVELS k) ≠ 1 → t.pscCh k = { s.pscCh k with step := .settle } ∧ t.timerOn (tmPscReady k) = true) ∧
    (s.get (Reg.PSC_STAT.LEVELS k) = 1 → (t.pscCh k).step = .cmRamp ∧ (t.pscCh k).drive = .switching ∧ (t.pscCh k).cm = ⟨0, 0x8000, s.now, s.rampCm k⟩ ∧
      t.timerOn (tmPscReady k) = false) ∧
    Frame [Reg.PSC_STAT.RDY k] [.timers, .psc] s t) ∧
  (∀ (k : Fin 8) (line : Bool) (uv : Nat) (s : State), s.psState k = psSTARTING → (s.pscCh k).step = .settle → s.get (Reg.PSC_STAT.LEVELS k) ≠ 1 →
    s.due (tmPscReady k) 1 = true → Completes (.channelStart k line uv) s fun t =>
    (t.pscCh k).step = .precharge ∧ (t.pscCh k).drive = .probe ∧ (t.pscCh k).est = [none, none, none, none] ∧ t.timerOn (tmPscReady k) = false ∧
    t.timerOn (tmPscPrecharge k) = true ∧ Frame [] [.timers, .psc] s t) ∧
  (∀ (k : Fin 8) (line : Bool) (uv : Nat) (s : State), s.psState k = psSTARTING → (s.pscCh k).step = .precharge → s.pscInWindow k = true →
    Completes (.channelStart k line uv) s fun t =>
    (t.pscCh k).step = .cmRamp ∧ (t.pscCh k).drive = .switching ∧ (t.pscCh k).cm = ⟨0, 0x8000, s.now, s.rampCm k⟩ ∧ t.timerOn (tmPscPrecharge k) = false ∧
    Frame [] [.timers, .psc] s t) ∧
  (∀ (k : Fin 8) (line : Bool) (uv : Nat) (s : State), s.psState k = psSTARTING → (s.pscCh k).step = .cmRamp → (s.pscCh k).cm.done s.now = true →
    Completes (.channelStart k line uv) s fun t =>
      t.pscCh k = { s.pscCh k with step := .gainRamp, gain := ⟨0, 0x10000, s.now, s.rampDiff k⟩ } ∧ Frame [] [.psc] s t) ∧
  (∀ (k : Fin 8) (line : Bool) (uv : Nat) (s : State), s.psState k = psSTARTING → (s.pscCh k).step = .gainRamp → (s.pscCh k).gain.done s.now = true → s.playing = true →
    Completes (.channelStart k line uv) s fun t => t.psState k = psRUN ∧ t.get (Reg.PSC_EVT.STARTED k) = 1 ∧
      Frame [Reg.PSC_STAT.STATE k, Reg.PSC_EVT.STARTED k] [.psc] s t) ∧
  (∀ (k : Fin 8) (s : State), AccessReady .hsp .pst s → s.psState k = psLATCHED → s.bit (Reg.PSC_CTL.EN k) = false → Completes (.pscUnlatch k) s fun t =>
    t.psState k = psOFF ∧ t.bus = s.busOf .hsp 0 .done ∧ Frame [Reg.PSC_STAT.STATE k] [.bus] s t) ∧
  (∀ (k : Fin 8) (s : State), AccessReady .hsp .pst s → s.psState k = psLATCHED → s.bit (Reg.PSC_CTL.EN k) = true → s.pscClocked = true → s.playing = true →
    s.gaugeInService = true → s.pscNoCoef k = false → Completes (.pscUnlatch k) s fun t =>
      t.psState k = psSTARTING ∧ t.bus = s.busOf .hsp 0 .done ∧ Frame [Reg.PSC_STAT.STATE k, Reg.PSC_STAT.LEVELS k] [.timers, .psc, .bus] s t)

/-- R223, CHANNEL_STOP: a switching channel begins its gain ramp down; once cm is at 0 every L switch is on, and the all-off order ends the stop in OFF. R222,
R225: a line that stays low, capacitors that stay outside their window, and a line that falls in RUN are stage faults, with every gate output low and the error
noted; the fault that would be the fourth restart in 10 s latches. R225, FAULT_RESTART: a restart is counted and goes on with the probes. -/
def Obligations.StageStops : Prop :=
  (∀ (k : Fin 8) (s : State), s.psState k = psRUN → s.bit (Reg.PSC_CTL.EN k) = false → s.gaugeInService = true → (s.pscCh k).drive = .switching →
    Completes (.channelStop k) s fun t =>
      t.psState k = psSTOPPING ∧ (t.pscCh k).step = .stopGain ∧ (t.pscCh k).gain = ⟨(s.pscCh k).gain.value s.now, 0, s.now, s.rampDiff k⟩ ∧
      Frame [Reg.PSC_STAT.STATE k] [.psc] s t) ∧
  (∀ (k : Fin 8) (s : State), s.psState k = psSTOPPING → (s.pscCh k).step = .stopCm → (s.pscCh k).cm.done s.now = true →
    Completes (.channelStop k) s fun t => t.pscCh k = { s.pscCh k with step := .stopLow, drive := .freewheel } ∧ Frame [] [.psc] s t) ∧
  (∀ (k : Fin 8) (s : State), s.psState k = psSTOPPING → (s.pscCh k).step = .stopLow → (s.pscCh k).stopFault = false →
    Completes (.channelStop k) s fun t =>
      t.psState k = psOFF ∧ t.get (Reg.PSC_EVT.STOPPED k) = 1 ∧ t.get (Reg.PSC_STAT.RDY k) = 0 ∧ (t.pscCh k).drive = .low ∧ (t.pscCh k).rdyReleased = false ∧
      (t.pscCh k).offAt = s.pscOffOrder k false ∧ Frame [Reg.PSC_STAT.STATE k, Reg.PSC_STAT.RDY k, Reg.PSC_EVT.STOPPED k] [.timers, .psc] s t) ∧
  (∀ (k : Fin 8) (c : Instr) (cause : Nat) (s : State),
    (c = .rdyTimeout k ∧ cause = 2 ∧ s.pscAwaitsLine k = true ∧ s.due (tmPscReady k) (s.get (Reg.PSC_RDYCFG.TO k)) = true ∨
     c = .prechgTimeout k ∧ cause = 3 ∧ s.pscProbes k = true ∧
       s.due (tmPscPrecharge k) (10 * max 1 (s.get (Reg.PSC_PRECHG.TO k))) = true ∨
     c = .pscRdyLow k ∧ cause = 2 ∧ s.psState k = psRUN ∧ (s.pscCh k).rdyReleased = true) → Completes c s fun t =>
      t.psState k = (if s.pscSpent k then psLATCHED else psFAULT) ∧ (s.pscSpent k = true → t.get (Reg.PSC_EVT.LATCH k) = 1) ∧
      t.get (Reg.PSC_STAT.CAUSE k) = cause ∧ t.get (Reg.PSC_EVT.FAULT k) = 1 ∧ t.get (Reg.PSC_STAT.RDY k) = 0 ∧
      (t.pscCh k).drive = .low ∧ (t.pscCh k).rdyReleased = false ∧ t.timerOn (tmPscFault k) = true ∧ t.errorOpen clsPSC_STAGE k = true ∧
      Frame [Reg.PSC_STAT.STATE k, Reg.PSC_STAT.CAUSE k, Reg.PSC_STAT.RDY k, Reg.PSC_EVT.FAULT k, Reg.PSC_EVT.LATCH k, Reg.STEW_LAST.COUNT,
        Reg.STEW_FSTAT.CLASS] [.timers, .psc, .stew] s t) ∧
  (∀ (k : Fin 8) (s : State), s.psState k = psFAULT → s.get (Reg.PSC_STAT.CAUSE k) ∈ [2, 3, 4] → s.pscWants k = true → s.due (tmPscFault k) 10 = true →
    s.pscNoCoef k = false → Completes (.faultRestart k) s fun t =>
      t.psState k = psSTARTING ∧ t.get (Reg.PSC_STAT.RETRIES k) = ((recent s.now 10000 (s.pscCh k).restarts).length + 1) % 16 ∧ t.get (Reg.PSC_STAT.RDY k) = 1 ∧
      (t.pscCh k).restarts = s.now :: recent s.now 10000 (s.pscCh k).restarts ∧
      (t.pscCh k).step = (if s.get (Reg.PSC_STAT.LEVELS k) = 1 then .cmRamp else .precharge) ∧
      (t.pscCh k).drive = (if s.get (Reg.PSC_STAT.LEVELS k) = 1 then .switching else .probe) ∧
      Frame [Reg.PSC_STAT.STATE k, Reg.PSC_STAT.RETRIES k, Reg.PSC_STAT.RDY k] [.timers, .psc] s t)

/-- R212, LOOP_SAMPLE of a channel whose loop runs: the loop output stays within MAXMOD, and one of a channel that does not switch does nothing. R216,
FC_ESTIMATE: a code that has come from the gauge gives an estimate within 0.5 % of PVDD of the capacitor fraction (327 units of 2^-16) and clears FC_STALE; a
missed opportunity is counted, and the 64th in a row sets FC_STALE. R218: each trim stays small enough for TRIM_MAX. R227, ILIM_TRIP: below LIM nothing trips.
R228: the first trip of a running channel cuts its pulses and it limits. R230, R231: the trip that reaches CNT with the voltage below SHORTV in every tripped
carrier is a fault of cause SHORT, and the load test waits, or the channel latches where its restarts are spent (R225). R229, LIMITING_END: a full carrier
without a trip takes the channel back to where it was. R235, PSC_DCTEST_RUN, and R233, R234, DC_LOAD_TEST: the host's test starts on a channel in OFF, waits for
its line and for capacitors in window, raises the load voltage, and ends in OFF with its result and resistance. -/
def Obligations.StageLoopAndProtection : Prop :=
  ((∀ (k : Fin 8) (v i : Word) (s : State), s.pscLoopRuns k = true → Completes (.loopSample k v i) s fun t =>
    -(s.pscMax k) ≤ (t.pscCh k).m ∧ (t.pscCh k).m ≤ s.pscMax k ∧ (t.pscCh k).isns = i.toInt ∧ (t.pscCh k).pos = (s.pscCh k).pos + 1024 ∧
    (∀ j, j ≠ k.val → t.pscCh j = s.pscCh j) ∧
    Frame [Reg.PSC_EVT.CLIP k, Reg.PSC_XPK.XPK k, Reg.PSC_PROT_EVT.XLIM k, Reg.PSC_MODEL.GR_T k, Reg.PSC_MODEL.GR_X k, Reg.PSC_FCEST.FC1 k, Reg.PSC_FCEST.FC2 k]
      [.free, .psc] s t) ∧
  (∀ (k : Fin 8) (v i : Word) (s : State), (s.pscCh k).drive = .low → Completes (.loopSample k v i) s fun t => t = s) ∧
  (∀ (k : Fin 8) (half : Bool) (s : State), (s.pscCh k).switches = true → (s.pscCh k).codes = [] → (s.pscCh k).fcBad < 15 → (s.pscCh k).fcBadN < 15 →
    Completes (.fcEstimate k half) s fun t =>
    (t.pscCh k).fcMissed = (s.pscCh k).fcMissed + 1 ∧ (64 ≤ (t.pscCh k).fcMissed → t.get (Reg.PSC_STAT.FC_STALE k) = 1) ∧ (t.pscCh k).est = (s.pscCh k).est ∧
    Frame [Reg.PSC_FCEST.FC1 k, Reg.PSC_FCEST.FC2 k, Reg.PSC_STAT.FC_STALE k, Reg.PSC_EVT.FCWARN k] [.free, .psc] s t) ∧
  (∀ (k : Fin 8) (x : FcCode) (v : Int) (s : State), (s.pscCh k).switches = true → (s.pscCh k).codes = [x] → x.half = false → x.node = .v1 → (s.pscCh k).est.length = 4 →
    0 < (s.pscCh k).pvdd → (x.code * 65536 : Nat) = v * (s.pscCh k).pvdd → 0 ≤ v → v ≤ 65535 → (s.pscCh k).fcBad < 15 → Completes (.fcEstimate k false) s fun t =>
    ((t.get (Reg.PSC_FCEST.FC1 k) : Int) - v).natAbs ≤ 327 ∧ t.get (Reg.PSC_STAT.FC_STALE k) = 0 ∧ (t.pscCh k).fcMissed = 0 ∧ (t.pscCh k).codes = [] ∧
    (∀ n ∈ (t.pscCh k).trims, n * (if s.pscCells k = 3 then 3000 else 1000) ≤ s.get (Reg.PSC_FCBAL.TRIM_MAX k) * 2 ^ 32) ∧
    Frame [Reg.PSC_FCEST.FC1 k, Reg.PSC_FCEST.FC2 k, Reg.PSC_STAT.FC_STALE k, Reg.PSC_EVT.FCWARN k] [.free, .psc] s t)) ∧
((∀ (k : Fin 8) (uv : Nat) (v : Word) (s : State), uv < s.ilimUv k → Completes (.ilimTrip k uv v) s fun t => t = s) ∧
  (∀ (k : Fin 8) (uv : Nat) (v : Word) (s : State), s.ilimUv k ≤ uv → (s.pscCh k).dcTest = .none → (s.pscCh k).switches = true → s.psState k ≠ psLIMITING →
    1 < s.ilimCnt k → Completes (.ilimTrip k uv v) s fun t =>
      t.psState k = psLIMITING ∧ t.get (Reg.PSC_PROT_EVT.ILIM k) = 1 ∧ (t.pscCh k).drive = .freewheel ∧ (t.pscCh k).beforeTrip = s.psState k ∧
      (t.pscCh k).tripped = 1 ∧ (t.pscCh k).tripCarrier = (s.pscCh k).carriers ∧ (t.pscCh k).shortSoFar = s.belowShort k v ∧ Frame [Reg.PSC_STAT.STATE k, Reg.PSC_PROT_EVT.ILIM k] [.psc] s t) ∧
  (∀ (k : Fin 8) (uv : Nat) (v : Word) (s : State), s.ilimUv k ≤ uv → (s.pscCh k).dcTest = .none → (s.pscCh k).switches = true → s.psState k = psLIMITING →
    (s.pscCh k).carriers = (s.pscCh k).tripCarrier + 1 → s.ilimCnt k ≤ (s.pscCh k).tripped + 1 → (s.pscCh k).shortSoFar = true → s.belowShort k v = true →
    (s.pscCh k).beforeTrip ≠ psSTOPPING → Completes (.ilimTrip k uv v) s fun t =>
      t.psState k = (if s.pscSpent k then psLATCHED else psFAULT) ∧ t.get (Reg.PSC_STAT.CAUSE k) = 8 ∧ t.get (Reg.PSC_PROT_EVT.SHORT k) = 1 ∧ (t.pscCh k).drive = .low ∧
      (t.pscCh k).dcTest = (if s.pscSpent k then .none else .waiting true) ∧ t.errorOpen clsPSC_TRIP k = true ∧
      Frame [Reg.PSC_STAT.STATE k, Reg.PSC_STAT.CAUSE k, Reg.PSC_STAT.RDY k, Reg.PSC_EVT.FAULT k, Reg.PSC_EVT.LATCH k, Reg.PSC_PROT_EVT.ILIM k,
        Reg.PSC_PROT_EVT.SHORT k, Reg.STEW_LAST.COUNT, Reg.STEW_FSTAT.CLASS] [.timers, .psc, .stew] s t) ∧
  (∀ (k : Fin 8) (s : State), s.psState k = psLIMITING → (s.pscCh k).tripCarrier + 2 ≤ (s.pscCh k).carriers → (s.pscCh k).beforeTrip = psRUN → s.playing = true →
    Completes (.limitingEnd k) s fun t => t.psState k = psRUN ∧ (t.pscCh k).tripped = 0 ∧ (t.pscCh k).shortSoFar = true ∧ Frame [Reg.PSC_STAT.STATE k] [.psc] s t) ∧
  (∀ (k : Fin 8) (s : State), AccessReady .hsp .pst s → s.psState k = psOFF → s.pscReadyToRun k = true → (s.pscCh k).dcTest = .none → Completes (.pscDctestRun k) s fun t =>
    (t.pscCh k).dcTest = .line false ∧ (t.pscCh k).rdyReleased = true ∧ t.get (Reg.PSC_STAT.LEVELS k) = s.pscLevelsCfg k ∧ t.timerOn (tmPscReady k) = true ∧
    t.bus = s.busOf .hsp 0 .done ∧ Frame [Reg.PSC_STAT.LEVELS k] [.timers, .psc, .bus] s t) ∧
  (∀ (k : Fin 8) (re : Bool) (mv ua : Nat) (s : State), (s.pscCh k).dcTest = .line re → Completes (.dcLoadTest k ⟨true, mv⟩ ua) s fun t =>
    (t.pscCh k).dcTest = .settle re ∧ t.get (Reg.PSC_STAT.RDY k) = 1 ∧ t.timerOn (tmPscReady k) = true ∧ Frame [Reg.PSC_STAT.RDY k] [.timers, .psc] s t) ∧
  (∀ (k : Fin 8) (re : Bool) (w : StageSeen) (ua : Nat) (s : State), (s.pscCh k).dcTest = .probing re → s.gaugeInService = true → s.pscInWindow k = true →
    Completes (.dcLoadTest k w ua) s fun t =>
      (t.pscCh k).dcTest = .running re ∧ (t.pscCh k).drive = .dcTest ∧ (t.pscCh k).testV = ⟨0, 100 * clampNat 1 50 (s.get (Reg.PSC_DCTEST.VT k)), s.now, 10⟩ ∧
      t.timerOn (tmPscTest k) = true ∧ Frame [] [.timers, .psc] s t) ∧
  (∀ (k : Fin 8) (line : Bool) (mv ua : Nat) (s : State), (s.pscCh k).dcTest = .running false → s.gaugeInService = true → s.due (tmPscTest k) 40 = true →
    s.dcOpenCurrent k ua = false → 0 < ua → mv * 1000000 % ua = 0 → 100 * s.get (Reg.PSC_DCTEST.RMIN k) ≤ mv * 1000000 / ua →
    mv * 1000000 / ua ≤ 1000 * s.get (Reg.PSC_DCTEST.RMAX k) → Completes (.dcLoadTest k ⟨line, mv⟩ ua) s fun t =>
      t.psState k = psOFF ∧ t.get (Reg.PSC_DCRES.RESULT k) = 1 ∧ t.get (Reg.PSC_DCRES.R k) = mv * 1000000 / ua ∧ t.get (Reg.PSC_PROT_EVT.DCDONE k) = 1 ∧
      (t.pscCh k).drive = .low ∧ (t.pscCh k).dcTest = .none ∧
      Frame [Reg.PSC_STAT.STATE k, Reg.PSC_STAT.RDY k, Reg.PSC_DCRES.RESULT k, Reg.PSC_DCRES.R k, Reg.PSC_PROT_EVT.DCDONE k] [.timers, .psc] s t))

/-- R236, PILOT_WINDOW_END of a complete window: magnitude and phase are shown; one that a limit or a trip spoilt is discarded. R240, COIL_TEMP_UPDATE: a stage
at its LIM code takes the gain down by 1 dB/s, no further than 24 dB, and sets TLIM; a cool one lets it rise again. R241, CAB_EEPROM_READ: a valid record
replaces the cabinet registers of the channels it covers, and an invalid one sets CABERR in all. -/
def Obligations.StageModels : Prop :=
  (∀ (k : Fin 8) (mag : Nat) (phase : BitVec 16) (re : Nat) (s : State), s.bit (Reg.PSC_PILOT.EN k) = true → (s.psState k = psRUN ∨ s.psState k = psIDLE) →
    (s.pscCh k).pilotVoid = false → s.due (tmPscPilot k) ((s.get (Reg.PSC_PILOT.INT k) + 1) * 100) = true → s.get (Reg.PSC_CAB.RE0 k) = 0 → Completes (.pilotWindowEnd k mag phase re) s fun t =>
      t.get (Reg.PSC_Z.MAG k) = min mag 65535 ∧ t.get (Reg.PSC_Z.PHASE k) = phase.toNat ∧ t.get (Reg.PSC_PROT_EVT.PILOT k) = 1 ∧
      t.pscCh k = { s.pscCh k with pilotFreq := s.pilotFreqCfg k, pilotLevel := s.pilotLevelCfg k } ∧
      Frame [Reg.PSC_Z.MAG k, Reg.PSC_Z.PHASE k, Reg.PSC_PROT_EVT.PILOT k] [.timers, .psc] s t) ∧
  (∀ (k : Fin 8) (mag : Nat) (phase : BitVec 16) (re : Nat) (s : State), (s.pilotOn k = true ∨ s.psState k = psLIMITING) → (s.pscCh k).pilotVoid = true →
    s.due (tmPscPilot k) ((s.get (Reg.PSC_PILOT.INT k) + 1) * 100) = true → Completes (.pilotWindowEnd k mag phase re) s fun t =>
      (t.pscCh k).pilotVoid = false ∧ Frame [] [.timers, .psc] s t) ∧
  (∀ (k : Fin 8) (irms : Nat) (s : State), s.domOn .pst = true → s.get (Reg.PSC_CAB.RE0 k) = 0 → s.get (Reg.PSC_CAB.XGAIN k) = 0 → s.get (Reg.PSC_NTC.MAX k) = 0 →
    0 < s.get (Reg.PSC_NTC.LIM k) → (s.pscCh k).ntc ≤ s.get (Reg.PSC_NTC.LIM k) → Completes (.coilTempUpdate k irms) s fun t =>
      (t.pscCh k).gt = min 96000 ((s.pscCh k).gt + 4) ∧ t.get (Reg.PSC_PROT_EVT.TLIM k) = 1 ∧
      Frame [Reg.PSC_PROT_EVT.TLIM k, Reg.PSC_MODEL.GR_T k, Reg.PSC_MODEL.GR_X k] [.psc] s t) ∧
  (∀ (k : Fin 8) (irms : Nat) (s : State), s.domOn .pst = true → s.get (Reg.PSC_CAB.RE0 k) = 0 → s.get (Reg.PSC_CAB.XGAIN k) = 0 → s.get (Reg.PSC_NTC.MAX k) = 0 →
    s.get (Reg.PSC_NTC.LIM k) = 0 → Completes (.coilTempUpdate k irms) s fun t =>
      (t.pscCh k).gt = (s.pscCh k).gt - 1 ∧ Frame [Reg.PSC_MODEL.GR_T k, Reg.PSC_MODEL.GR_X k] [.psc] s t) ∧
  (∀ (bs : List Byte) (s : State), s.bit Reg.PSC_CABSRC.EN = true → s.domOn .pst = true → cabValid bs = true → Completes (.cabEepromRead (some bs)) s fun t =>
    (∀ k < byteAt bs 5, ∀ n < 6, t.get (Reg.PSC_CAB.word k n) = leAt bs (8 + 24 * k + 4 * n) 4) ∧
    Frame ((List.range 8).flatMap fun k => (List.range 6).map fun n => Reg.PSC_CAB.word k n) [] s t) ∧
  (∀ (bs : List Byte) (s : State), s.bit Reg.PSC_CABSRC.EN = true → s.domOn .pst = true → cabValid bs = false → Completes (.cabEepromRead (some bs)) s fun t =>
    (∀ k < 8, t.get (Reg.PSC_PROT_EVT.CABERR k) = 1) ∧ Frame ((List.range 8).map fun k => Reg.PSC_PROT_EVT.CABERR k) [] s t)

/-! ### Rates, serial ports and the chain -/

/-- R245, R246, LANE_LOCK of a fed lane: a ratio in range locks it, and with a complete page its output ramps in over 5 ms; without a page it waits for a table
(R247), and a page of another class filters until the new one flips; out of range it does not lock. LANE_UNLOCK: a step of the ratio takes the lane off and sets
its flag, a smaller change is tracked. TABLE_BUILD: the page waits for its flip. RATIO_CLASS_CHANGE: after 20 ms past a boundary a table of the new class is
asked for. -/
def Obligations.Lanes : Prop :=
  (∀ (q : Fin 96) (ratio : BitVec 24) (s : State), s.laneFed q = true → s.bit (Reg.ASRC_LANE_STAT.LOCKED q) = false →
    ratioInRange (s.get (Reg.SAP_STAT.RATE (s.get (Reg.ASRC_LANE_CFG.PORT q)))) ratio.toNat = true → (s.lane q).page = some (ratioClass ratio.toNat) →
    Completes (.laneLock q ratio) s fun t =>
      t.get (Reg.ASRC_LANE_STAT.LOCKED q) = 1 ∧ t.get (Reg.ASRC_LANE_STAT.RATIO q) = ratio.toNat ∧
      t.get (Reg.ASRC_LANE_STAT.RANGE q) = 0 ∧ t.get Reg.ASRC_EVT.LOCK = 1 ∧ t.lane q = { s.lane q with ramp := ⟨0, 65536, s.now, 5⟩, past := 0 } ∧
      Frame [Reg.ASRC_LANE_STAT.RANGE q, Reg.ASRC_LANE_STAT.RATIO q, Reg.ASRC_LANE_STAT.LOCKED q, Reg.ASRC_EVT.LOCK] [.asrc] s t) ∧
  (∀ (q : Fin 96) (ratio : BitVec 24) (s : State), s.laneFed q = true → s.bit (Reg.ASRC_LANE_STAT.LOCKED q) = false →
    ratioInRange (s.get (Reg.SAP_STAT.RATE (s.get (Reg.ASRC_LANE_CFG.PORT q)))) ratio.toNat = true → (s.lane q).page = none →
    Completes (.laneLock q ratio) s fun t =>
      t.get (Reg.ASRC_LANE_STAT.LOCKED q) = 1 ∧ t.get (Reg.ASRC_LANE_STAT.TWAIT q) = 1 ∧ t.get (Reg.ASRC_LANE_STAT.REBUILD q) = 1 ∧ t.get Reg.ASRC_EVT.TWAIT = 1 ∧
      (t.lane q).want = some (ratioClass ratio.toNat) ∧ (t.lane q).page = none ∧
      Frame [Reg.ASRC_LANE_STAT.RANGE q, Reg.ASRC_LANE_STAT.RATIO q, Reg.ASRC_LANE_STAT.LOCKED q, Reg.ASRC_LANE_STAT.TWAIT q, Reg.ASRC_LANE_STAT.REBUILD q,
        Reg.ASRC_EVT.LOCK, Reg.ASRC_EVT.TWAIT] [.asrc] s t) ∧
  (∀ (q : Fin 96) (ratio : BitVec 24) (cls : Nat) (s : State), s.laneFed q = true → s.bit (Reg.ASRC_LANE_STAT.LOCKED q) = false →
    ratioInRange (s.get (Reg.SAP_STAT.RATE (s.get (Reg.ASRC_LANE_CFG.PORT q)))) ratio.toNat = true → (s.lane q).page = some cls → cls ≠ ratioClass ratio.toNat →
    Completes (.laneLock q ratio) s fun t =>
      t.get (Reg.ASRC_LANE_STAT.LOCKED q) = 1 ∧ t.get (Reg.ASRC_LANE_STAT.REBUILD q) = 1 ∧ (t.lane q).want = some (ratioClass ratio.toNat) ∧
      (t.lane q).page = some cls ∧ (t.lane q).ramp = ⟨0, 65536, s.now, 5⟩ ∧
      Frame [Reg.ASRC_LANE_STAT.RANGE q, Reg.ASRC_LANE_STAT.RATIO q, Reg.ASRC_LANE_STAT.LOCKED q, Reg.ASRC_LANE_STAT.REBUILD q, Reg.ASRC_EVT.LOCK] [.asrc] s t) ∧
  (∀ (q : Fin 96) (ratio : BitVec 24) (s : State), s.laneFed q = true → s.bit (Reg.ASRC_LANE_STAT.LOCKED q) = false →
    ratioInRange (s.get (Reg.SAP_STAT.RATE (s.get (Reg.ASRC_LANE_CFG.PORT q)))) ratio.toNat = false → Completes (.laneLock q ratio) s fun t =>
      t.get (Reg.ASRC_LANE_STAT.RANGE q) = 1 ∧ Frame [Reg.ASRC_LANE_STAT.RANGE q] [] s t) ∧
  (∀ (q : Fin 96) (ratio : BitVec 24) (s : State), s.bit (Reg.ASRC_LANE_STAT.LOCKED q) = true →
    stepped (s.get (Reg.ASRC_LANE_STAT.RATIO q)) ratio.toNat = true → Completes (.laneUnlock ⟨q, ratio⟩) s fun t =>
    t.get (Reg.ASRC_LANE_STAT.LOCKED q) = 0 ∧ t.get (Reg.ASRC_LANE_STAT.TWAIT q) = 0 ∧ t.get ((Reg.ASRC_UNLOCK.LANE (q / 32)).nth (q % 32)) = 1 ∧
    t.get Reg.ASRC_EVT.UNLOCK = 1 ∧ t.lane q = { s.lane q with ramp := {}, past := 0 } ∧
    Frame [Reg.ASRC_LANE_STAT.LOCKED q, Reg.ASRC_LANE_STAT.TWAIT q, (Reg.ASRC_UNLOCK.LANE (q / 32)).nth (q % 32), Reg.ASRC_EVT.UNLOCK] [.asrc] s t) ∧
  (∀ (q : Fin 96) (ratio : BitVec 24) (s : State), s.bit (Reg.ASRC_LANE_STAT.LOCKED q) = true → s.laneHeld q = true →
    stepped (s.get (Reg.ASRC_LANE_STAT.RATIO q)) ratio.toNat = false →
    ratioInRange (s.get (Reg.SAP_STAT.RATE (s.get (Reg.ASRC_LANE_CFG.PORT q)))) ratio.toNat = true → Completes (.laneUnlock ⟨q, ratio⟩) s fun t =>
    t.get (Reg.ASRC_LANE_STAT.RATIO q) = ratio.toNat ∧ t.get (Reg.ASRC_LANE_STAT.RANGE q) = 0 ∧
    Frame [Reg.ASRC_LANE_STAT.RATIO q, Reg.ASRC_LANE_STAT.RANGE q] [] s t) ∧
  (∀ (q : Fin 96) (s : State), (s.lane q).building = true → Completes (.tableBuild q) s fun t =>
    t.lane q = { s.lane q with building := false, flip := true } ∧ Frame [] [.asrc] s t) ∧
  (∀ (q : Fin 96) (ratio : BitVec 24) (s : State), s.bit (Reg.ASRC_LANE_STAT.LOCKED q) = true → pastBoundary (s.get (Reg.ASRC_LANE_STAT.CLASS q)) ratio.toNat = true →
    (s.lane q).past = 20 → (s.lane q).want = none → ratioInRange (s.get (Reg.SAP_STAT.RATE (s.get (Reg.ASRC_LANE_CFG.PORT q)))) ratio.toNat = true → Completes (.ratioClassChange q ratio) s fun t =>
      t.get (Reg.ASRC_LANE_STAT.RATIO q) = ratio.toNat ∧ t.get (Reg.ASRC_LANE_STAT.REBUILD q) = 1 ∧ (t.lane q).want = some (ratioClass ratio.toNat) ∧
      (t.lane q).page = (s.lane q).page ∧ Frame [Reg.ASRC_LANE_STAT.RATIO q, Reg.ASRC_LANE_STAT.RANGE q, Reg.ASRC_LANE_STAT.REBUILD q] [.asrc] s t)

/-- R250, R253 to R257, FRAME_SYNC_EDGE of a slave port, at the edge of WS that starts its frames: the first one starts it with two empty frames in each buffer,
and a later one delivers the received frame (in slip mode) and lets a transmit frame out; a mask write waits for the frame start and then takes effect.
FRAME_ERR: a native frame of another length is delivered unqualified; a legacy port whose WS disagrees with its slot reports LRMIS (R251). R251, R261, XRUN of a
running port: the event; in legacy format the channels received or sent change places, in native format the frame is completed with zero slots. LRMIS of a
legacy port: reported. R253, PORT_LOST: the port is unqualified and every lane on it loses lock. R254, SLIP: an empty buffer repeats its last frame and a full
one loses its oldest, counted unless the port is the reference. -/
def Obligations.SerialPorts : Prop :=
  ((∀ (n : Fin 2) (seen : FrameSeen) (rate10 : Nat) (wires : List Nat) (s : State), s.domOn .fab = true → s.get (Reg.SAP_CTL.EN n) = 1 →
    s.get (Reg.SAP_CTL.MASTER n) = 0 → s.get (Reg.SAP_STAT.RUN n) = 0 → (s.sapP n).master = false → (s.sapP n).masks = [] → seen.rising = s.sapStartEdge n → rate10 < 2 ^ 18 →
    Completes (.frameSyncEdge n seen rate10 wires) s fun t =>
      t.get (Reg.SAP_STAT.RUN n) = 1 ∧ t.get (Reg.SAP_STAT.RATE n) = rate10 ∧ t.get (Reg.SAP_STAT.OFFRATE n) = b2n (offRate rate10 (tickHz s.rate)) ∧
      (t.sapP n).rx = [[], []] ∧ (t.sapP n).tx = [[], []] ∧ (t.sapP n).prevBits = 0 ∧ (t.sapP n).waiting = false ∧
      Frame [Reg.SAP_STAT.RUN n, Reg.SAP_STAT.RATE n, Reg.SAP_STAT.OFFRATE n] [.sap] s t) ∧
  (∀ (n : Fin 2) (c : Instr) (seen : FrameSeen) (rate10 : Nat) (wires : List Nat) (f : SapFrame) (fs : List SapFrame) (s : State), s.domOn .fab = true →
    s.get (Reg.SAP_CTL.EN n) = 1 → s.get (Reg.SAP_CTL.MASTER n) = 0 → s.get (Reg.SAP_STAT.RUN n) = 1 → (s.sapP n).master = false → (s.sapP n).ending = false →
    (s.sapP n).lost = false → (s.sapP n).masks = [] → (s.sapP n).rx.length < 4 → (s.sapP n).tx = f :: fs → rate10 < 2 ^ 18 →
    s.get (Reg.SAP_STAT.OFFRATE n) = 0 → offRate rate10 (tickHz s.rate) = false → (s.get (Reg.SAP_CTL.LEGACY n) = 0 → seen.rising = s.sapStartEdge n) →
    (c = .frameSyncEdge n seen rate10 wires ∨
      c = .frameErr n seen rate10 wires ∧ s.get (Reg.SAP_CTL.LEGACY n) = 0 ∧ (s.sapP n).prevBits ≠ 0 ∧ (s.sapP n).prevBits ≠ seen.bits) → Completes c s fun t =>
      t.sapP n = { s.sapP n with rx := if s.get (Reg.SAP_CTL.DATA n) = 1 then (s.sapP n).rx else (s.sapP n).rx ++ [s.sapGate n seen.bits wires], tx := fs, lastTx := f, prevBits := seen.bits, cut := none } ∧
      t.get (Reg.SAP_STAT.RATE n) = rate10 ∧
      t.get (Reg.SAP_STAT.QUAL n) = b2n ((s.bit (Reg.SAP_CTL.LEGACY n) || (s.sapP n).prevBits == 0 || (s.sapP n).prevBits == seen.bits) && decide (800 ≤ rate10 ∧ rate10 ≤ 21600)) ∧
      (s.get (Reg.SAP_CTL.LEGACY n) = 0 → (s.sapP n).prevBits ≠ 0 → (s.sapP n).prevBits ≠ seen.bits → t.get (Reg.SAP_EVT.FRAME_ERR n) = 1) ∧
      (s.get (Reg.SAP_CTL.LEGACY n) = 1 → ((s.sapP n).swapped || (s.sapP n).swappedTx) ≠ seen.rising → t.get (Reg.SAP_STAT.LRMIS n) = 1 ∧ t.get (Reg.SAP_EVT.LRMIS n) = 1) ∧
      Frame ([Reg.SAP_STAT.RATE n, Reg.SAP_STAT.QUAL n, Reg.SAP_EVT.FRAME_ERR n, Reg.SAP_STAT.LRMIS n, Reg.SAP_EVT.LRMIS n] ++ laneFields) [.asrc, .sap] s t) ∧
  (∀ (n : Fin 2) (tx : Bool) (w : Fin 4) (v : Word) (s : State), AccessReady .hsp .fab s → Completes (.sapMaskWrite n tx w v) s fun t =>
    (Fin.ofNat 8 (if tx then 4 + w else w), v) ∈ (t.sapP n).masks ∧ t.bus = s.busOf .hsp 0 .done ∧ Frame [] [.sap, .bus] s t) ∧
  (∀ (n : Fin 2) (k : Fin 8) (v : Word) (seen : FrameSeen) (rate10 : Nat) (s : State), s.domOn .fab = true → s.get (Reg.SAP_CTL.EN n) = 1 → s.get (Reg.SAP_CTL.MASTER n) = 0 →
    s.get (Reg.SAP_STAT.RUN n) = 0 → (s.sapP n).master = false → seen.rising = s.sapStartEdge n → (s.sapP n).masks = [(k, v)] →
    Completes (.frameSyncEdge n seen rate10 []) s fun t =>
      t.get (sapMaskReg n k) = v.toNat ∧ (t.sapP n).masks = [] ∧ Frame [Reg.SAP_STAT.RUN n, Reg.SAP_STAT.RATE n, Reg.SAP_STAT.OFFRATE n, sapMaskReg n k] [.sap] s t)) ∧
((∀ (n : Fin 2) (tx : Bool) (slot : Fin 32) (s : State), s.get (Reg.SAP_STAT.RUN n) = 1 → Completes (.xrun ⟨n, tx, slot⟩) s fun t =>
    t.get (Reg.SAP_EVT.XRUN n) = 1 ∧
    (s.get (Reg.SAP_CTL.LEGACY n) = 1 → t.sapP n = { s.sapP n with swapped := (s.sapP n).swapped != !tx, swappedTx := (s.sapP n).swappedTx != tx }) ∧
    (s.get (Reg.SAP_CTL.LEGACY n) = 0 → tx = false → t.sapP n = { s.sapP n with cut := some slot.val }) ∧
    (s.get (Reg.SAP_CTL.LEGACY n) = 0 → tx = true → t.sapP n = { s.sapP n with lastTx := (s.sapP n).lastTx.filter fun e => e.1 % 32 < slot.val }) ∧
    Frame [Reg.SAP_EVT.XRUN n] [.sap] s t) ∧
  (∀ (n : Fin 2) (s : State), s.get (Reg.SAP_STAT.RUN n) = 1 → s.get (Reg.SAP_CTL.LEGACY n) = 1 → Completes (.lrmis n) s fun t =>
    t.get (Reg.SAP_STAT.LRMIS n) = 1 ∧ t.get (Reg.SAP_EVT.LRMIS n) = 1 ∧ Frame [Reg.SAP_STAT.LRMIS n, Reg.SAP_EVT.LRMIS n] [] s t) ∧
  (∀ (n : Fin 2) (s : State), s.get (Reg.SAP_STAT.RUN n) = 1 → (s.sapP n).master = false → Completes (.portLost n) s fun t =>
    t.get (Reg.SAP_STAT.QUAL n) = 0 ∧ t.get (Reg.SAP_EVT.LOST n) = 1 ∧ t.sapP n = { (s.sapP n).refill with lost := true, prevBits := 0 } ∧
    (∀ q < 96, s.get (Reg.ASRC_LANE_CFG.PORT q) = n → t.get (Reg.ASRC_LANE_STAT.LOCKED q) = 0) ∧
    Frame ([Reg.SAP_STAT.QUAL n, Reg.SAP_EVT.LOST n] ++ laneFields) [.asrc, .sap] s t) ∧
  (∀ (n : Fin 2) (s : State), s.sapSlips n = true →
    ((s.sapP n).rx = [] → Completes (.slip n false) s fun t =>
      t.sapP n = { s.sapP n with rx := [(s.sapP n).lastRx] } ∧ (s.sapIsReference n = false → t.get (Reg.SAP_SLIPCNT.REPEAT n) = min (s.get (Reg.SAP_SLIPCNT.REPEAT n) + 1) 65535 ∧
        t.get (Reg.SAP_EVT.SLIP n) = 1) ∧ Frame (if s.sapIsReference n then [] else [Reg.SAP_SLIPCNT.REPEAT n, Reg.SAP_EVT.SLIP n]) [.sap] s t) ∧
    (4 ≤ (s.sapP n).rx.length → Completes (.slip n false) s fun t =>
      t.sapP n = { s.sapP n with rx := (s.sapP n).rx.drop 1 } ∧ (s.sapIsReference n = false → t.get (Reg.SAP_SLIPCNT.DROP n) = min (s.get (Reg.SAP_SLIPCNT.DROP n) + 1) 65535 ∧
        t.get (Reg.SAP_EVT.SLIP n) = 1) ∧ Frame (if s.sapIsReference n then [] else [Reg.SAP_SLIPCNT.DROP n, Reg.SAP_EVT.SLIP n]) [.sap] s t)) ∧
  (∀ (n : Fin 2) (s : State), s.sapElastic n = true →
    ((s.sapP n).tx = [] → Completes (.slip n true) s fun t =>
      t.sapP n = { s.sapP n with tx := [(s.sapP n).lastTx] } ∧ (s.sapIsReference n = false → t.get (Reg.SAP_SLIPCNT.REPEAT n) = min (s.get (Reg.SAP_SLIPCNT.REPEAT n) + 1) 65535 ∧
        t.get (Reg.SAP_EVT.SLIP n) = 1) ∧ Frame (if s.sapIsReference n then [] else [Reg.SAP_SLIPCNT.REPEAT n, Reg.SAP_EVT.SLIP n]) [.sap] s t) ∧
    (4 ≤ (s.sapP n).tx.length → Completes (.slip n true) s fun t =>
      t.sapP n = { s.sapP n with tx := (s.sapP n).tx.drop 1 } ∧ (s.sapIsReference n = false → t.get (Reg.SAP_SLIPCNT.DROP n) = min (s.get (Reg.SAP_SLIPCNT.DROP n) + 1) 65535 ∧
        t.get (Reg.SAP_EVT.SLIP n) = 1) ∧ Frame (if s.sapIsReference n then [] else [Reg.SAP_SLIPCNT.DROP n, Reg.SAP_EVT.SLIP n]) [.sap] s t)))

/-- R264, R282: a module pulled from an UP port takes it down at once and leaves it without one after 1 ms, a lost signal of an UP port takes it down, and a
transmitter fault stops it; a level that comes back is shown (in the modes that LOS does not wake, R414). R266: NOLOCK is reported after 1 s of search,
RATE_SEARCH goes to the next lower rate, and PCS_LOCK leads to HELLO at the rate found. R282, R283, RECEIVE_LOSS of an UP port, by its line or by the third
parcel missing in a row: RX_DOWN; fewer are only counted. R281, CHAIN_RESTART: the port begins again. -/
def Obligations.ChainPorts : Prop :=
  (∀ (p : Fin 2) (s : State), s.bit (Reg.CHAIN_CP_STAT.MOD_ABS p) = false → s.domOn .chn = true → s.portState p = cpUP → Completes (.modAbsChange p true) s fun t =>
    t.get (Reg.CHAIN_CP_STAT.MOD_ABS p) = 1 ∧ t.get (Reg.CHAIN_CP_EVT.SFP p) = 1 ∧ t.get (Reg.CHAIN_CP_EVT.DOWN p) = 1 ∧ t.portState p = cpRX_DOWN ∧ t.timerOn (tmMod p) = true ∧
    Frame [Reg.CHAIN_CP_STAT.MOD_ABS p, Reg.CHAIN_CP_STAT.STATE p, Reg.CHAIN_CP_EVT.SFP p, Reg.CHAIN_CP_EVT.DOWN p, Reg.CHAIN_LINK_STAT.TOPO, Reg.CHAIN_LINK_EVT.TOPO]
      [.timers, .chain] s t) ∧
  (∀ (p : Fin 2) (s : State), s.bit (Reg.CHAIN_CP_STAT.MOD_ABS p) = true → s.due (tmMod p) 1 = true → s.bit (Reg.CHAIN_CP_CTL.EN p) = true → s.domOn .chn = true →
    Completes (.modAbsChange p true) s fun t => t.portState p = cpNOMODULE ∧ (t.port p).txDis = true ∧ t.timerOn (tmMod p) = false ∧
    Frame [Reg.CHAIN_CP_STAT.STATE p, Reg.CHAIN_LINK_STAT.TOPO, Reg.CHAIN_LINK_EVT.TOPO] [.timers, .chain] s t) ∧
  (∀ (p : Fin 2) (s : State), s.domOn .chn = true → s.portState p = cpUP → (wakeModes 5).elem s.wakeMode = false → Completes (.losChange p true) s fun t =>
    t.get (Reg.CHAIN_CP_STAT.LOS p) = 1 ∧ t.get (Reg.CHAIN_CP_EVT.SFP p) = 1 ∧ t.get (Reg.CHAIN_CP_EVT.DOWN p) = 1 ∧ t.portState p = cpRX_DOWN ∧
    Frame [Reg.CHAIN_CP_STAT.LOS p, Reg.CHAIN_CP_STAT.STATE p, Reg.CHAIN_CP_EVT.SFP p, Reg.CHAIN_CP_EVT.DOWN p, Reg.CHAIN_LINK_STAT.TOPO, Reg.CHAIN_LINK_EVT.TOPO]
      [.timers, .chain] s t) ∧
  (∀ (p : Fin 2) (s : State), (wakeModes 5).elem s.wakeMode = false → Completes (.losChange p false) s fun t =>
    t.get (Reg.CHAIN_CP_STAT.LOS p) = 0 ∧ t.get (Reg.CHAIN_CP_EVT.SFP p) = 1 ∧ Frame [Reg.CHAIN_CP_STAT.LOS p, Reg.CHAIN_CP_EVT.SFP p] [] s t) ∧
  (∀ (p : Fin 2) (s : State), s.domOn .chn = true → s.portState p = cpUP → Completes (.txFault p true) s fun t =>
    t.get (Reg.CHAIN_CP_STAT.TX_FAULT p) = 1 ∧ t.portState p = cpTXFAULT ∧ (t.port p).txDis = true ∧
    Frame [Reg.CHAIN_CP_STAT.TX_FAULT p, Reg.CHAIN_CP_STAT.STATE p, Reg.CHAIN_CP_EVT.SFP p, Reg.CHAIN_CP_EVT.DOWN p, Reg.CHAIN_LINK_STAT.TOPO, Reg.CHAIN_LINK_EVT.TOPO]
      [.timers, .chain] s t) ∧
  (∀ (p : Fin 2) (s : State), s.portState p = cpSEARCH → s.bit (Reg.CHAIN_CP_STAT.LOS p) = false → s.due (tmNoLock p) 1000 = true → Completes (.nolock p) s fun t =>
    t.get (Reg.CHAIN_CP_EVT.NOLOCK p) = 1 ∧ t.timerOn (tmNoLock p) = false ∧ Frame [Reg.CHAIN_CP_EVT.NOLOCK p] [.timers] s t) ∧
  (∀ s : State, s.searching = true → s.due tmSearch 20 = true → rateBelow s.ratesEither s.chain.search ≠ 0 → Completes .rateSearch s fun t =>
    t.chain = { s.chain with search := rateBelow s.ratesEither s.chain.search } ∧ t.timerOn tmSearch = true ∧ BlockOnly 0x10000 0x20000 s t ∧
    OnlyParts [.timers, .clk, .chain] s t) ∧
  (∀ (p : Fin 2) (s : State), s.domOn .chn = true → s.locked pllC = true → s.portState p = cpSEARCH → s.nodeRate = 0 → s.chain.search < 4 → Completes (.pcsLock p) s fun t =>
    t.portState p = cpHELLO ∧ t.get (Reg.CHAIN_CP_STAT.RATE p) = s.chain.search ∧ t.nodeRate = s.chain.search ∧
    Frame [Reg.CHAIN_LINK_STAT.RATE, Reg.CHAIN_LINK_EVT.RATE, Reg.CHAIN_SLOTS.MAX, Reg.CHAIN_SLOTS.USED, Reg.CHAIN_CP_STAT.RATE p, Reg.CHAIN_CP_STAT.STATE p,
      Reg.CHAIN_LINK_STAT.TOPO, Reg.CHAIN_LINK_EVT.TOPO] [.timers, .chain] s t) ∧
  (∀ (p : Fin 2) (n : Nat) (s : State), s.domOn .chn = true → s.portState p = cpUP → Completes (.receiveLoss ⟨p, true, n⟩) s fun t =>
    t.portState p = cpRX_DOWN ∧ t.get (Reg.CHAIN_CP_EVT.DOWN p) = 1 ∧ t.port p = (s.port p).down ∧
    Frame [Reg.CHAIN_CP_STAT.STATE p, Reg.CHAIN_CP_EVT.DOWN p, Reg.CHAIN_LINK_STAT.TOPO, Reg.CHAIN_LINK_EVT.TOPO] [.timers, .chain] s t) ∧
  (∀ (p : Fin 2) (n : Nat) (s : State), s.portHears p = true → s.portState p = cpUP → Completes (.receiveLoss ⟨p, false, n⟩) s fun t =>
    t.get (Reg.CHAIN_CP_ERR.PERR p) = min (s.get (Reg.CHAIN_CP_ERR.PERR p) + n) 65535 ∧
    ((s.port p).bad + n < 3 → t.portState p = cpUP ∧ (t.port p).bad = (s.port p).bad + n) ∧
    (3 ≤ (s.port p).bad + n → t.portState p = cpRX_DOWN ∧ t.get (Reg.CHAIN_CP_EVT.DOWN p) = 1) ∧
    Frame [Reg.CHAIN_CP_ERR.PERR p, Reg.CHAIN_CP_STAT.STATE p, Reg.CHAIN_CP_EVT.DOWN p, Reg.CHAIN_LINK_STAT.TOPO, Reg.CHAIN_LINK_EVT.TOPO] [.timers, .chain] s t) ∧
  (∀ (p : Fin 2) (s : State), AccessReady .hsp .chn s → s.portState p ≠ cpOFF → s.bit (Reg.CHAIN_CP_STAT.MOD_ABS p) = false → Completes (.chainRestart p) s fun t =>
    t.portState p = cpSEARCH ∧ (t.port p).faultTries = 0 ∧ (t.port p).txDis = false ∧ t.timerOn (tmNoLock p) = true ∧ t.bus = s.busOf .hsp 0 .done ∧
    (∀ a, a < 0x10000 ∨ 0x20000 ≤ a ∧ a < 0x1A0000 ∨ 0x1B0000 ≤ a → t.word a = s.word a) ∧ OnlyParts [.timers, .clk, .chain, .bus] s t)

/-- R267, HELLO_SEND: the block goes out. R267, R268, HELLO_BLOCK: a valid block is kept and shown; with both sides' ACK and with rate, family and tick rate in
common the link comes UP. R279, EXCLUDE_RECEIVED: an UP port is EXCLUDED. R286, LINK_TEST in a ring: TESTING, elsewhere only DEGRADE; TEST_DONE without errors:
HELLO again. -/
def Obligations.ChainLinks : Prop :=
  (∀ (p : Fin 2) (s : State), s.domOn .chn = true → s.portState p = cpHELLO → Completes (.helloSend p) s fun t =>
    (t.port p).sent = some { beacon := [0xD5, 0, 0, 0] ++ s.helloBlock p } ∧ Frame [] [.chain] s t) ∧
  (∀ (p : Fin 2) (bs : List Byte) (s : State), helloValid bs = true → s.portState p = cpHELLO → leAt bs 0 4 / 2048 % 2 = 0 → Completes (.helloBlock p bs) s fun t =>
    t.port p = { s.port p with
      hello := bs, same := if (s.port p).hello = bs then min 3 ((s.port p).same + 1) else 1
      ack := (s.port p).ack || ((s.port p).hello == bs && decide (2 ≤ (s.port p).same)), peerAck := false } ∧
    t.get (Reg.CHAIN_CP_STAT.PEER_ID p) = leAt bs 0 4 % 1024 ∧ t.get (Reg.CHAIN_CP_STAT.PEER_PORT p) = leAt bs 0 4 / 1024 % 2 ∧
    t.get (Reg.CHAIN_CP_PEERCAP.W1 p) = leAt bs 4 4 ∧ Frame [Reg.CHAIN_CP_STAT.PEER_ID p, Reg.CHAIN_CP_STAT.PEER_PORT p, Reg.CHAIN_CP_PEERCAP.W1 p] [.chain] s t) ∧
  (∀ (p : Fin 2) (bs : List Byte) (s : State), helloValid bs = true → s.portState p = cpHELLO → (s.port p).ack = true → leAt bs 0 4 / 2048 % 2 = 1 →
    leAt bs 0 4 / 65536 % 256 = 1 → rateIn (s.get (Reg.CHAIN_CP_CTL.RATES p) &&& (s.port p).ceiling &&& (leAt bs 4 4 % 8) &&& (leAt bs 4 4 / 65536 % 8)) s.nodeRate = true →
    leAt bs 4 4 / 2048 % 2 = s.get Reg.CLK_STAT.FAMILY → leAt bs 4 4 / 256 % 8 = s.rate → s.nodeRate ≠ 3 → s.get (Reg.CHAIN_CP_STAT.FEC p) = 0 →
    s.portState (1 - p) ≠ cpEXCLUDED → Completes (.helloBlock p bs) s fun t =>
      t.portState p = cpUP ∧ t.get (Reg.CHAIN_CP_EVT.UP p) = 1 ∧ t.get (Reg.CHAIN_CP_RES.OWN p) = s.ownResidence p % 65536 ∧ (t.port p).upTick = s.tick.count.toNat ∧
      Frame [Reg.CHAIN_CP_STAT.PEER_ID p, Reg.CHAIN_CP_STAT.PEER_PORT p, Reg.CHAIN_CP_STAT.STATE p, Reg.CHAIN_CP_PEERCAP.W1 p, Reg.CHAIN_CP_EVT.UP p, Reg.CHAIN_CP_RES.OWN p,
        Reg.CHAIN_LINK_STAT.TOPO, Reg.CHAIN_LINK_EVT.TOPO] [.chain] s t) ∧
  (∀ (p : Fin 2) (s : State), s.domOn .chn = true → s.locked pllC = true → s.portState p = cpUP → Completes (.excludeReceived p) s fun t =>
    t.portState p = cpEXCLUDED ∧ t.get (Reg.CHAIN_CP_EVT.EXCLUDED p) = 1 ∧
    Frame [Reg.CHAIN_CP_STAT.STATE 0, Reg.CHAIN_CP_STAT.STATE 1, Reg.CHAIN_CP_EVT.EXCLUDED p, Reg.CHAIN_LINK_STAT.TOPO, Reg.CHAIN_LINK_EVT.TOPO] [.chain] s t) ∧
  (∀ (p : Fin 2) (s : State), s.portState p = cpUP → s.inRing = true → Completes (.linkTest p) s fun t =>
    t.portState p = cpTESTING ∧ t.timerOn (tmTest p) = true ∧
    Frame [Reg.CHAIN_CP_STAT.STATE p, Reg.CHAIN_LINK_STAT.TOPO, Reg.CHAIN_LINK_EVT.TOPO] [.timers, .chain] s t) ∧
  (∀ (p : Fin 2) (s : State), s.portState p = cpUP → s.inRing = false → Completes (.linkTest p) s fun t =>
    t.get (Reg.CHAIN_CP_EVT.DEGRADE p) = 1 ∧ Frame [Reg.CHAIN_CP_EVT.DEGRADE p] [] s t) ∧
  (∀ (p : Fin 2) (s : State), s.portState p = cpTESTING → s.due (tmTest p) 2 = true → s.chain.asked = [] → Completes (.testDone p false) s fun t =>
    t.portState p = cpHELLO ∧ t.get (Reg.CHAIN_CP_EVT.TEST_DONE p) = 1 ∧ t.port p = (s.port p).down ∧
    Frame [Reg.CHAIN_CP_STAT.STATE p, Reg.CHAIN_CP_EVT.TEST_DONE p, Reg.CHAIN_LINK_STAT.TOPO, Reg.CHAIN_LINK_EVT.TOPO] [.timers, .chain] s t)

/-- R271, R275, PARCEL_EMIT of the closure origin: the parcel that leaves carries the present tick, this node as master, origin and sender, no hop and P. R276,
PARCEL_RECEIVE at the master of a parcel of another origin that has neither slots nor segments: counted, its time and beacon kept, and the copy kept for the
closure. R285: a parcel without a valid beacon is counted as an error. R291, ANNOUNCE at the master: a free hinted slot is given to the stream, and a released
stream gives its slot back; GRANT: the bundle of that stream shows its slot, or that there is none; ANNOUNCE_REPEAT of a bundle without a slot writes the cells
for the master. R301, REPORT: this node's goes out every 1,024 ticks, and the master keeps a received one. -/
def Obligations.ChainParcelsAndStreams : Prop :=
  ((∀ (d : Fin 2) (dep : BitVec 32) (s : State), s.portSends d = true → s.isMaster = true → Completes (.parcelEmit d dep) s fun t =>
    (∃ pc b, (t.port d).sent = some pc ∧ pc.beacon = beaconBytes b ∧ b.tick = s.tick.count.toNat ∧ b.master = s.nodeId ∧ b.origin = s.nodeId ∧ b.sender = s.nodeId ∧
      b.hops = 0 ∧ b.pofs = s.pofs ∧ b.clockQ = s.clockQ ∧ b.nbundle = pc.slots.length) ∧ (t.port d).testAsk = false ∧
    OnlyParts [.irq, .chain] s t) ∧
  (∀ (p : Fin 2) (pc : Parcel) (now : BitVec 32) (link : List Byte) (b : Beacon) (s : State), s.portHears p = true → s.portState p = cpUP → s.isMaster = true →
    readBeacon pc.beacon = some b → s.shouldFollow b.master b.clockQ b.hold = false → pc.cells = [link] → pc.slots = [] → pc.side = [] → cellValid link = true → byteAt link 0 = 1 → byteAt link 1 = 0 → (s.port p).deps = [] →
    b.arr = ofsNONE → b.keep = false → b.hold = true → b.origin ≠ s.nodeId → Completes (.parcelReceive p pc now) s fun t =>
      (t.port p).parcels = (s.port p).parcels + 1 ∧ (t.port p).beacon = some b ∧
      (t.port p).last = some (b.tick, (now.toNat : Int) + s.ticksLong ((s.tick.count.toNat : Int) - b.tick)) ∧ (t.port p).latest = some pc ∧
      Frame [Reg.CHAIN_LINK_STAT.TOPO, Reg.CHAIN_LINK_EVT.TOPO] [.timers, .chain] s t) ∧
  (∀ (p : Fin 2) (pc : Parcel) (now : BitVec 32) (s : State), s.portHears p = true → s.portState p = cpUP → readBeacon pc.beacon = none → (s.port p).bad < 2 →
    (s.port p).errs.length < max 1 (s.get Reg.CHAIN_LINK_POL.DEG_CNT) → Completes (.parcelReceive p pc now) s fun t =>
      (t.port p).parcels = (s.port p).parcels + 1 ∧ (t.port p).bad = (s.port p).bad + 1 ∧ t.get (Reg.CHAIN_CP_ERR.PERR p) = min (s.get (Reg.CHAIN_CP_ERR.PERR p) + 1) 65535 ∧
      Frame [Reg.CHAIN_CP_ERR.PERR p] [.chain] s t)) ∧
((∀ (src mseq stream hint : BitVec 16) (s : State), s.domOn .chn = true → (src.toNat, mseq.toNat) ∉ s.chain.taken → s.isMaster = true → s.slotFor stream.toNat = none →
    hint.toNat < s.slotLimit → tabGet (fun _ => 0) s.chain.slots hint.toNat = 0 → stream.toNat / 64 ≠ s.nodeId → Completes (.announce src mseq stream hint false) s fun t =>
      tabGet (fun _ => 0) t.chain.slots hint.toNat = stream.toNat + 1 ∧ (∀ i, i ≠ hint.toNat → tabGet (fun _ => 0) t.chain.slots i = tabGet (fun _ => 0) s.chain.slots i) ∧
      Frame [Reg.CHAIN_SLOTS.MAX, Reg.CHAIN_SLOTS.USED] [.chain] s t) ∧
  (∀ (src mseq stream hint : BitVec 16) (i : Nat) (s : State), s.domOn .chn = true → (src.toNat, mseq.toNat) ∉ s.chain.taken → s.isMaster = true → s.slotFor stream.toNat = some i →
    Completes (.announce src mseq stream hint true) s fun t =>
      tabGet (fun _ => 0) t.chain.slots i = 0 ∧ (∀ j, j ≠ i → tabGet (fun _ => 0) t.chain.slots j = tabGet (fun _ => 0) s.chain.slots j) ∧
      Frame [Reg.CHAIN_SLOTS.MAX, Reg.CHAIN_SLOTS.USED] [.chain] s t) ∧
  (∀ (src dst mseq stream slot : BitVec 16) (b : Nat) (s : State), s.domOn .chn = true → dst.toNat = s.nodeId → (src.toNat, mseq.toNat) ∉ s.chain.taken →
    (List.range 12).find? (fun b => s.bit (Reg.CHAIN_TX.EN b) && s.streamId b == stream.toNat) = some b → Completes (.grant src dst mseq stream slot) s fun t =>
      (slot ≠ 0xFFFF → t.get (Reg.CHAIN_TX.GRANTED b) = 1 ∧ t.get (Reg.CHAIN_TX.SLOT b) = slot.toNat % 512 ∧ (t.bundle b).stream = stream.toNat + 1 ∧ t.timerOn (tmAnnounce b) = false) ∧
      (slot = 0xFFFF → t.get (Reg.CHAIN_TX.GRANTED b) = 0 ∧ t.get Reg.CHAIN_STRM_EVT.NOSLOT = 1 ∧ (t.bundle b).stream = 0) ∧
      Frame [Reg.CHAIN_TX.GRANTED b, Reg.CHAIN_TX.SLOT b, Reg.CHAIN_STRM_EVT.NOSLOT] [.timers, .chain] s t) ∧
  (∀ (b : Fin 12) (s : State), s.bit (Reg.CHAIN_TX.EN b) = true → s.bit (Reg.CHAIN_TX.GRANTED b) = false → s.timerOn (tmAnnounce b) = false → s.timeRole = roleFOLLOWER →
    s.domOn .chn = true → s.chain.silent = false → Completes (.announceRepeat b) s fun t =>
      t.timerOn (tmAnnounce b) = true ∧ t.chain.mseq = (s.chain.mseq + 1) % 65536 ∧
      (∀ p < 2, (t.port p).cells = if s.portSends p then (s.port p).cells ++ messageCells 5 s.nodeId (s.get Reg.CHAIN_TIME_STAT.MASTER_ID) s.chain.mseq
        (leBytes 2 (s.streamId b) ++ leBytes 2 0xFFFF ++ leBytes 1 0) else (s.port p).cells) ∧ Frame [] [.timers, .chain] s t) ∧
  (∀ s : State, s.chain.reportAt + 1024 ≤ s.tick.count.toNat → s.domOn .chn = true → s.isMaster = false → s.chain.silent = false → Completes (.report none) s fun t =>
    t.chain.reportAt = s.tick.count.toNat ∧ t.chain.mseq = (s.chain.mseq + 1) % 65536 ∧ Frame [] [.chain] s t) ∧
  (∀ (src mseq pmin pmax : BitVec 16) (q : BitVec 8) (s : State), s.domOn .chn = true → (src.toNat, mseq.toNat) ∉ s.chain.taken → s.isMaster = true →
    Completes (.report (some (src, mseq, pmin, pmax, q))) s fun t => tabGet (fun _ => 0) t.chain.reports src.toNat = pmin.toNat ∧ Frame [] [.chain] s t))

/-- R304: a TEST_REQ at a master that runs no test is granted and its wait begins, a TEST_GRANT to this node's UP port in a ring begins the test that asks, and
a grant that times out makes room. R300, POFS: the new P waits for its tick. R303, R306, MRSP: the response waits in host queue 1. R306: QUEUE_TX_GO queues a
frame or sets FULL, a received frame is shown or dropped, and a read of the head frame gives its next four bytes. R296: a capable node with a port UP for 3
ticks and no master in its beacons becomes timing master and closure origin, and so does a follower whose clock has been the better one for REELECT_HOLD; a
better master seen is followed; a follower whose master has been silent for 3 ticks is an ORPHAN. R297, TICK_COUNT_RELOAD of a locked follower: the next count
is the chain's. R299, POFS_SET: P is set. R305, DUP_ID: the node is silent. -/
def Obligations.ChainMessagesAndTime : Prop :=
  ((∀ (src mseq : BitVec 16) (p : Fin 2) (s : State), s.domOn .chn = true → (src.toNat, mseq.toNat) ∉ s.chain.taken → s.isMaster = true → s.chain.testNow = none → s.chain.testQueue = [] →
    src.toNat ≠ s.nodeId → Completes (.testReq src mseq p) s fun t =>
      t.chain.testNow = some (src.toNat, p.val) ∧ t.chain.testQueue = [] ∧ t.timerOn tmGrant = true ∧ Frame [] [.timers, .chain] s t) ∧
  (∀ (src mseq node : BitVec 16) (p : Fin 2) (s : State), s.domOn .chn = true → node.toNat = s.nodeId → (src.toNat, mseq.toNat) ∉ s.chain.taken → s.portState p = cpUP → s.inRing = true →
    Completes (.testGrant src mseq node p) s fun t =>
      t.portState p = cpTESTING ∧ (t.port p).testAsk = true ∧ t.timerOn (tmTest p) = true ∧
      Frame [Reg.CHAIN_CP_STAT.STATE p, Reg.CHAIN_LINK_STAT.TOPO, Reg.CHAIN_LINK_EVT.TOPO] [.timers, .chain] s t) ∧
  (∀ s : State, s.isMaster = true → s.chain.testNow ≠ none → s.due tmGrant 20 = true → s.chain.testQueue = [] → Completes .testGrantTimeout s fun t =>
    t.chain.testNow = none ∧ t.timerOn tmGrant = false ∧ Frame [] [.timers, .chain] s t) ∧
  (∀ (src mseq p : BitVec 16) (n : BitVec 48) (s : State), s.domOn .chn = true → (src.toNat, mseq.toNat) ∉ s.chain.taken → Completes (.pofs src mseq p n) s fun t =>
    t.chain.newP = some (p.toNat % 1024, n.toNat) ∧ Frame [] [.chain] s t) ∧
  (∀ (src mseq : BitVec 16) (frame : List Byte) (s : State), s.domOn .chn = true → (src.toNat, mseq.toNat) ∉ s.chain.taken → (s.queue 1).rx.length < 16 →
    Completes (.mrsp src mseq frame) s fun t =>
      (t.queue 1).rx = (s.queue 1).rx ++ [(src.toNat, leBytes 2 s.nodeId ++ [1, 0] ++ frame)] ∧ t.get (Reg.CHAIN_Q_RXSTAT.AVAIL 1) = 1 ∧
      Frame [Reg.CHAIN_Q_RXSTAT.AVAIL 1, Reg.CHAIN_Q_RXSTAT.SRC 1, Reg.CHAIN_Q_RXSTAT.LEN 1] [.chain] s t) ∧
  (∀ (q : Fin 2) (len : BitVec 13) (s : State), AccessReady .hsp .chn s → (s.queue q).tx.length < 8 → Completes (.queueTxGo q len) s fun t =>
    t.queue q = { s.queue q with buf := [], tx := (s.queue q).tx ++ [padTo len.toNat (s.queue q).buf] } ∧ t.bus = s.busOf .hsp 0 .done ∧ Frame [] [.chain, .bus] s t) ∧
  (∀ (q : Fin 2) (len : BitVec 13) (s : State), AccessReady .hsp .chn s → 8 ≤ (s.queue q).tx.length → Completes (.queueTxGo q len) s fun t =>
    t.get (Reg.CHAIN_Q_TXCTL.FULL q) = 1 ∧ t.bus = s.busOf .hsp 0 .done ∧ Frame [Reg.CHAIN_Q_TXCTL.FULL q] [.bus] s t) ∧
  (∀ (src num : BitVec 16) (f : List Byte) (s : State), s.domOn .chn = true → (src.toNat, num.toNat) ∉ s.chain.sideTaken → Completes (.queueFrameReceived 0 src num f) s fun t =>
    ((s.queue 0).rx.length < 16 → (t.queue 0).rx = (s.queue 0).rx ++ [(src.toNat, f)] ∧ t.get (Reg.CHAIN_Q_RXSTAT.AVAIL 0) = 1) ∧
    (16 ≤ (s.queue 0).rx.length → t.queue 0 = s.queue 0 ∧ t.get (Reg.CHAIN_Q_RXSTAT.DROP 0) = min (s.get (Reg.CHAIN_Q_RXSTAT.DROP 0) + 1) 255) ∧
    Frame [Reg.CHAIN_Q_RXSTAT.AVAIL 0, Reg.CHAIN_Q_RXSTAT.SRC 0, Reg.CHAIN_Q_RXSTAT.LEN 0, Reg.CHAIN_Q_RXSTAT.DROP 0] [.chain] s t) ∧
  (∀ (q : Fin 2) (n : Nat) (f : List Byte) (rest : List (Nat × List Byte)) (s : State), AccessReady .hsp .chn s → (s.queue q).rx = (n, f) :: rest → Completes (.chainQueueRxRead q) s fun t =>
    t.bus = s.busOf .hsp (BitVec.ofNat 32 (leAt f (s.queue q).pos 4)) .done ∧
    t.queue q = (if f.length ≤ (s.queue q).pos + 4 then { s.queue q with rx := rest, pos := 0 } else { s.queue q with pos := (s.queue q).pos + 4 }) ∧
    Frame [Reg.CHAIN_Q_RXSTAT.AVAIL q, Reg.CHAIN_Q_RXSTAT.SRC q, Reg.CHAIN_Q_RXSTAT.LEN q] [.bus, .chain] s t)) ∧
((∀ s : State, s.domOn .chn = true → s.timeRole = roleNONE → s.clockQ ≠ 0 → s.heardMaster = false →
    (∃ p < 2, s.portState p = cpUP ∧ (s.port p).upTick + 3 ≤ s.tick.count.toNat) → Completes .electionStart s fun t =>
      t.timeRole = roleMASTER ∧ t.get Reg.CHAIN_TIME_STAT.MASTER_ID = s.nodeId ∧ t.get Reg.CHAIN_TIME_STAT.MASTER_Q = s.clockQ % 256 ∧ t.get Reg.CHAIN_LINK_STAT.CLOSURE = 1 ∧
      BlockOnly 0x1A0000 0x1B0000 s t ∧ OnlyParts [.timers, .chain] s t) ∧
  (∀ (p : Fin 2) (id hops : BitVec 10) (q : BitVec 8) (s : State), s.portHears p = true → s.shouldFollow id.toNat q.toNat false = true → Completes (.betterMasterSeen p id hops q) s fun t =>
    t.timeRole = roleFOLLOWER ∧ t.get Reg.CHAIN_TIME_STAT.MASTER_ID = id.toNat ∧ t.get Reg.CHAIN_TIME_STAT.MASTER_Q = q.toNat ∧ t.get Reg.CHAIN_TIME_STAT.UPPORT = p ∧
    t.get Reg.CHAIN_TIME_STAT.HOPS = hops.toNat ∧ t.get Reg.CHAIN_LINK_STAT.CLOSURE = 0 ∧ BlockOnly 0x1A0000 0x1B0000 s t ∧ OnlyParts [.chain] s t) ∧
  (∀ s : State, s.timeRole = roleFOLLOWER → s.clockQ ≠ 0 → s.due tmBetter (1000 * max 1 (s.get Reg.CHAIN_TIME_POL.REELECT_HOLD)) = true →
    s.get Reg.CLK_PLLA_REFST.ACTIVE ≠ 1 → Completes .challenge s fun t =>
      t.timeRole = roleMASTER ∧ t.get Reg.CHAIN_TIME_STAT.MASTER_ID = s.nodeId ∧ t.get Reg.CHAIN_LINK_STAT.CLOSURE = 1 ∧
      BlockOnly 0x1A0000 0x1B0000 s t ∧ OnlyParts [.timers, .chain] s t) ∧
  (∀ s : State, s.timeRole = roleFOLLOWER → s.clockQ = 0 → s.masterSilent = true → Completes .orphan s fun t =>
    t.timeRole = roleORPHAN ∧ t.get Reg.CHAIN_TIME_EVT.ORPHAN = 1 ∧ (∀ p < 2, (t.port p).beacon = none) ∧
    Frame [Reg.CHAIN_TIME_STAT.ROLE, Reg.CHAIN_TIME_EVT.ORPHAN] [.timers, .chain] s t) ∧
  (∀ (n : TickNo) (s : State), s.timeRole = roleFOLLOWER → s.refState = refLOCKED → s.get Reg.CLK_PLLA_REFST.ACTIVE = 1 → s.chain.ahead ≠ 0 → n = s.tick.count + 1 + BitVec.ofInt 48 s.chain.ahead → Completes (.tickCountReload n) s fun t =>
    t.tick = { s.tick with reload := some n } ∧ t.get Reg.CHAIN_TIME_EVT.RELOAD = 1 ∧ t.chain = { s.chain with ahead := 0 } ∧ Frame [Reg.CHAIN_TIME_EVT.RELOAD] [.tick, .chain] s t) ∧
  (∀ s : State, s.isMaster = true → s.chain.dHeld = 64 → s.pofs = 0 → s.chain.capped = false → Completes .pofsSet s fun t =>
    t.pofs = s.chosenP % 1024 ∧ (s.get Reg.CHAIN_RX_POL.POFS_MAX < s.chosenP % 1024 → t.get Reg.CHAIN_TIME_EVT.POFS_CAP = 1) ∧
    Frame [Reg.CHAIN_POFS.P, Reg.CHAIN_TIME_EVT.POFS_CAP] [.chain] s t) ∧
  (∀ s : State, s.domOn .chn = true → Completes .dupId s fun t => t.chain = { s.chain with silent := true } ∧ t.get Reg.CHAIN_TIME_EVT.DUP_ID = 1 ∧ Frame [Reg.CHAIN_TIME_EVT.DUP_ID] [.chain] s t))

/-! ### Listening and the gauge -/

/-- R313, W1_FIRE with its condition met and the pre-roll free: W2 starts over the last 0.5 s of frames, or W3 where W2 is passed over; a frozen pre-roll lets
nothing escalate, and with W2 and W3 passed over the match counts as found. W2_FIRE of an alignment whose coarse score reaches TH2: W3 starts. R314: W2_TIMEOUT
and W3_END take the stages back to W1; MATCH of an alignment that W3 may declare records it and freezes the pre-roll with its ring. Only registers of the block
change while the LSN domain stays on. R314, R315: AUTOREL after its seconds and PRE_ROLL_RELEASE unfreeze the pre-roll, REWIND starts its reading again, and
LSN_PRE_DATA_READ gives the next eight samples of a frozen ring. R318, CHK_DONE of a window that is over: the band levels are recorded, 0x8000 above the beam's
edge. -/
def Obligations.Listening : Prop :=
  ((∀ s : State, s.w1Runs = true → s.w1Met = true → s.frozen = false → s.lsn.w2 = false → s.lsn.w3 = false → s.bit Reg.LSN_CTL.W2EN = true → Completes .w1Fire s fun t =>
    t.lsn.w2 = true ∧ t.lsn.w3 = false ∧ t.lsn.frames = s.lsn.frames + 50 ∧ t.lsn.features.length = min 200 (s.lsn.features.length + 50) ∧ t.lsn.ring = s.lsn.ring ∧
    t.lsn.templates = s.lsn.templates ∧ t.get Reg.LSN_STAT.STAGE = 2 ∧ t.get Reg.LSN_EVT.W2_UP = 1 ∧ t.timerOn tmW2 = true ∧
    (s.domOn .lsn = true → Frame [Reg.LSN_STAT.STAGE, Reg.LSN_EVT.W2_UP] [.timers, .lsn] s t)) ∧
  (∀ (c : Instr) (tm : Fin 4) (path : List (Nat × Nat)) (s : State), s.frozen = false → s.bit Reg.LSN_CTL.W3EN = true →
    (c = .w1Fire ∧ s.w1Runs = true ∧ s.w1Met = true ∧ s.lsn.w2 = false ∧ s.lsn.w3 = false ∧ s.bit Reg.LSN_CTL.W2EN = false ∨
     c = .w2Fire tm path ∧ s.w1Runs = true ∧ s.lsn.w2 = true ∧ s.templateOn tm = true ∧ pathLegal s.lsn.features.reverse (s.template tm) (min 30 (byteAt (s.template tm) 2)) path = true ∧
       s.get Reg.LSN_WCFG.TH2 ≤ pathScore s.lsn.features.reverse (s.template tm) 0 true path) → Completes c s fun t =>
      t.lsn = { s.lsn with w2 := false, w3 := true, frameMs := 0 } ∧ t.get Reg.LSN_STAT.STAGE = 3 ∧ t.get Reg.LSN_EVT.W3_UP = 1 ∧ t.timerOn tmW3 = true ∧ t.timerOn tmW2 = false ∧
      (s.domOn .lsn = true → Frame [Reg.LSN_STAT.STAGE, Reg.LSN_EVT.W3_UP] [.timers, .lsn] s t)) ∧
  (∀ s : State, s.w1Runs = true → s.w1Met = true → s.frozen = false → s.lsn.w2 = false → s.lsn.w3 = false → s.bit Reg.LSN_CTL.W2EN = false → s.bit Reg.LSN_CTL.W3EN = false →
    (wakeModes 3).elem s.wakeMode = false → s.lsn.waiting = [] → Completes .w1Fire s fun t =>
      t.get Reg.LSN_STAT.FROZEN = 1 ∧ t.get Reg.LSN_EVT.MATCH = 1 ∧ t.lsn = { s.lsn with ring := [], pos := 0 } ∧ t.timerOn tmAutorel = true) ∧
  (∀ s : State, s.frozen = true → Completes .w1Fire s fun t => t = s) ∧
  (∀ s : State, s.lsn.w2 = true → s.due tmW2 1500 = true → s.lsn.waiting = [] → Completes .w2Timeout s fun t =>
    t.lsn = { s.lsn with w2 := false, w3 := false } ∧ t.get Reg.LSN_STAT.STAGE = b2n s.w1Runs ∧
    (s.bit Reg.LSN_CTL.EN = true → s.domOn .lsn = true → s.domMode = modeRUN ∨ s.domMode = modeQUIET → Frame [Reg.LSN_STAT.STAGE] [.timers, .lsn] s t)) ∧
  (∀ s : State, s.lsn.w3 = true → s.due tmW3 3000 = true → s.lsn.waiting = [] → Completes .w3End s fun t =>
    t.lsn = { s.lsn with w2 := false, w3 := false } ∧ t.get Reg.LSN_STAT.STAGE = b2n s.w1Runs ∧ t.get Reg.LSN_EVT.W3_END = 1 ∧
    (s.bit Reg.LSN_CTL.EN = true → s.domOn .lsn = true → s.domMode = modeRUN ∨ s.domMode = modeQUIET → Frame [Reg.LSN_STAT.STAGE, Reg.LSN_EVT.W3_END] [.timers, .lsn] s t)) ∧
  (∀ (tm : Fin 4) (v dur idx : BitVec 8) (path : List (Nat × Nat)) (pstart pred : BitVec 16) (ring : List Byte) (s : State), s.lsn.waiting = [] →
    s.matchAllowed ⟨tm, v.toNat, pathScore s.lsn.features.reverse (s.template tm) v.toNat false path, dur.toNat, pstart.toNat, pred.setWidth 32, idx.toNat, ring⟩ path = true →
    dur.toNat = min 255 (pathLength path) → s.frozen = true ∨ (wakeModes 3).elem s.wakeMode = false → Completes (.lsnMatch tm v dur idx path pstart pred ring) s fun t =>
      t.get Reg.LSN_MATCH.TEMPLATE = tm ∧ t.get Reg.LSN_MATCH.VARIANT = v.toNat ∧ t.get Reg.LSN_MATCH.SCORE = pathScore s.lsn.features.reverse (s.template tm) v.toNat false path ∧
      t.get Reg.LSN_MATCH.DUR = min 255 (pathLength path) ∧ t.get Reg.LSN_PRE_INFO.LEN = 2 * ring.length ∧ t.get Reg.LSN_PRE_INFO.PSTART = pstart.toNat ∧
      t.get Reg.LSN_STAT.FROZEN = 1 ∧ t.get Reg.LSN_EVT.MATCH = 1 ∧ t.lsn = { s.lsn with w2 := false, w3 := false, ring := ring, pos := 0 } ∧ t.timerOn tmAutorel = true ∧
      (s.bit Reg.LSN_CTL.EN = true → s.domOn .lsn = true → s.domMode = modeRUN ∨ s.domMode = modeQUIET →
        Frame [Reg.LSN_STAT.STAGE, Reg.LSN_STAT.FROZEN, Reg.LSN_EVT.MATCH, Reg.LSN_MATCH.TEMPLATE, Reg.LSN_MATCH.VARIANT, Reg.LSN_MATCH.SCORE, Reg.LSN_MATCH.DUR,
          Reg.LSN_PRE_INFO.LEN, Reg.LSN_PRE_INFO.PSTART, Reg.LSN_PRE_HDR.PRED, Reg.LSN_PRE_HDR.INDEX] [.timers, .lsn] s t))) ∧
((∀ s : State, s.domOn .sys = true → s.frozen = true → Completes .preRollRelease s fun t => t.get Reg.LSN_STAT.FROZEN = 0 ∧ t.lsn = { s.lsn with ring := [], pos := 0 } ∧
    t.timerOn tmAutorel = false ∧ t.bus = s.ackBus ∧ Frame [Reg.LSN_STAT.FROZEN] [.timers, .lsn, .bus] s t) ∧
  (∀ s : State, s.frozen = true → s.get Reg.LSN_CTL.AUTOREL ≠ 0 → s.due tmAutorel (1000 * s.get Reg.LSN_CTL.AUTOREL) = true → Completes .autorel s fun t =>
    t.get Reg.LSN_STAT.FROZEN = 0 ∧ t.lsn = { s.lsn with ring := [], pos := 0 } ∧ t.timerOn tmAutorel = false ∧ Frame [Reg.LSN_STAT.FROZEN] [.timers, .lsn] s t) ∧
  (∀ s : State, s.domOn .sys = true → Completes .rewind s fun t => t.lsn = { s.lsn with pos := 0 } ∧ t.bus = s.ackBus ∧ Frame [] [.lsn, .bus] s t) ∧
  (∀ s : State, s.domOn .sys = true → s.frozen = true → Completes .lsnPreDataRead s fun t =>
    t.bus = { s.bus with data := BitVec.ofNat 32 (leAt s.lsn.ring (4 * s.lsn.pos) 4), last := .done } ∧ t.lsn = { s.lsn with pos := min 6144 (s.lsn.pos + 1) } ∧ Frame [] [.bus, .lsn] s t) ∧
  (∀ s : State, s.domOn .sys = true → s.frozen = false → Completes .lsnPreDataRead s fun t => t.bus.last = .done ∧ Frame [] [.free, .bus] s t) ∧
  (∀ (levels : List (BitVec 16)) (w : CheckWin) (s : State), s.lsn.check = some w → w.len ≤ w.ticks → Completes (.chkDone levels) s fun t =>
    t.lsn = { s.lsn with check := none } ∧ t.get Reg.LSN_CHK_CTL.EN = 0 ∧ t.get Reg.LSN_EVT.CHK_DONE = 1 ∧
    (∀ i < 31, t.get (Reg.LSN_CHK_BAND.LEVEL i) = if s.bandAbove i then 0x8000 else (levels.getD i 0x8000).toNat) ∧
    Frame (Reg.LSN_CHK_CTL.EN :: Reg.LSN_EVT.CHK_DONE :: (List.range 31).map Reg.LSN_CHK_BAND.LEVEL) [.lsn] s t))

/-- R328, R329: a trigger of an enabled sequence takes the entries as they are now and starts a pass, whether it comes from a protection event in its mask, from
software, from the regular trigger or from the timer; a trigger that meets a running pass is counted and reported, but for a continuous sequence. R215, R326,
EVENT_CONVERSION of a due sample by the assigned converter in service: the result of its channel is held with the node that it took; PVDD is sampled at the
start of a channel (R222). -/
def Obligations.GaugeTriggers : Prop :=
  (∀ (c : Fin 2) (k : Fin 8) (volts : List Int) (s : State), s.bit (Reg.GAUGE_INJCTL.EN c) = true → (s.gconv c).inj = none → s.get (Reg.GAUGE_INJCTL.TRIG c) = 1 →
    s.bitAt (Reg.GAUGE_INJCTL.PMASK c) k = true → Completes (.injectedTrigger c k volts) s fun t =>
      t.gconv c = { s.gconv c with inj := some { entries := s.injEntries c, volts := volts } } ∧ t.gconv (1 - c) = s.gconv (1 - c) ∧ Frame [] [.gauge] s t) ∧
  (∀ (c : Fin 2) (volts : List Int) (s : State), s.domOn .sys = true → s.bit (Reg.GAUGE_INJCTL.EN c) = true → (s.gconv c).inj = none → Completes (.gaugeSwTrigger c volts) s fun t =>
    t.gconv c = { s.gconv c with inj := some { entries := s.injEntries c, volts := volts } } ∧ t.gconv (1 - c) = s.gconv (1 - c) ∧ t.bus = s.ackBus ∧ Frame [] [.gauge, .bus] s t) ∧
  (∀ (c : Fin 2) (volts : List Int) (r : GaugeRun) (s : State), s.domOn .sys = true → s.bit (Reg.GAUGE_INJCTL.EN c) = true → (s.gconv c).inj = some r →
    Completes (.gaugeSwTrigger c volts) s fun t =>
    t.get (Reg.GAUGE_CNT.INJ_OVR c) = min (s.get (Reg.GAUGE_CNT.INJ_OVR c) + 1) 65535 ∧ t.get Reg.GAUGE_EVT.INJ_OVR = 1 ∧ t.bus = s.ackBus ∧
    Frame [Reg.GAUGE_CNT.INJ_OVR c, Reg.GAUGE_EVT.INJ_OVR] [.bus] s t) ∧
  (∀ (c : Fin 2) (volts : List Int) (s : State), s.bit (Reg.GAUGE_SEQ.EN c) = true →
    (s.get (Reg.GAUGE_SEQ.TRIG c) = 1 ∨ s.get (Reg.GAUGE_SEQ.TRIG c) = 3 ∧ (s.pscCh (s.get (Reg.GAUGE_SEQ.PCH c))).switches = true) →
    ((s.gconv c).reg = none → Completes (.regularTrigger c volts) s fun t =>
      t.gconv c = { s.gconv c with reg := some { entries := s.regEntries c, volts := volts } } ∧ t.gconv (1 - c) = s.gconv (1 - c) ∧ Frame [] [.gauge] s t) ∧
    ((s.gconv c).reg ≠ none → Completes (.regularTrigger c volts) s fun t =>
      t.get (Reg.GAUGE_CNT.REG_OVR c) = min (s.get (Reg.GAUGE_CNT.REG_OVR c) + 1) 65535 ∧ t.get Reg.GAUGE_EVT.REG_OVR = 1 ∧
      Frame [Reg.GAUGE_CNT.REG_OVR c, Reg.GAUGE_EVT.REG_OVR] [] s t)) ∧
  (∀ (c : Fin 2) (volts : List Int) (s : State), s.get (Reg.GAUGE_SEQ.TRIG c) = 2 → (s.gconv c).reg ≠ none → Completes (.regularTrigger c volts) s fun t => t = s) ∧
  (∀ (regA injA regB injB : List Int) (s : State), s.bit Reg.GAUGE_TMR.EN = true → s.gaugePeriod ≤ s.gauge.tmr → s.get (Reg.GAUGE_INJCTL.TRIG 0) ≠ 2 → s.get (Reg.GAUGE_INJCTL.TRIG 1) ≠ 2 →
    s.get (Reg.GAUGE_SEQ.TRIG 0) = 1 → s.bit (Reg.GAUGE_SEQ.EN 0) = true → (s.gconv 0).reg = none → s.get (Reg.GAUGE_SEQ.TRIG 1) ≠ 1 → Completes (.gaugeTimer regA injA regB injB) s fun t =>
      t.gconv 0 = { s.gconv 0 with reg := some { entries := s.regEntries 0, volts := regA } } ∧ t.gconv 1 = s.gconv 1 ∧ t.gauge.tmr = s.gauge.tmr - s.gaugePeriod ∧
      Frame [] [.gauge] s t) ∧
  (∀ (k : Fin 8) (half second otherBusy : Bool) (x : FcNode) (uv c i : Nat) (s : State), s.domOn .pst = true → c = (if half then 1 - k.val % 2 else k.val % 2) →
    i = 2 * b2n half + b2n second → s.gaugeServes c = true → (s.hold (1 + c)).length < 8 → s.fcNode k half second = some x → s.fcDue k i = true →
    (s.fcTaken k i).fcLasts k half (if s.bit (Reg.CLK_PLL_STAT.BYPASSED 1) then 165 else 120) = true →
    Completes (.eventConversion k (if half then .n second else .p second) uv false otherBusy) s fun t =>
      t.hold (1 + c) = s.hold (1 + c) ++ [⟨gaugeWord c false (2 * k.val + b2n half) 0 0 (s.gaugeCode c (2 * k.val + b2n half) uv), 16 + 4 * k.val + b2n half, x⟩] ∧
      (∀ i < 3, i ≠ 1 + c → t.hold i = s.hold i) ∧ t.pscCh k = (s.fcTaken k i).pscCh k ∧ Frame [] [.gauge, .psc] s t) ∧
  (∀ (k : Fin 8) (otherBusy : Bool) (uv c : Nat) (s : State), s.domOn .pst = true → c = k.val % 2 → s.gaugeServes c = true → (s.hold (1 + c)).length < 8 →
    s.psState k = psSTARTING → Completes (.eventConversion k .pvdd uv false otherBusy) s fun t =>
      t.hold (1 + c) = s.hold (1 + c) ++ [⟨gaugeWord c false (16 + k.val) 0 0 (s.gaugeCode c (16 + k.val) uv), 16 + 4 * k.val + 2, .v1⟩] ∧
      (∀ i < 3, i ≠ 1 + c → t.hold i = s.hold i) ∧ Frame [] [.gauge] s t)

/-- R333, R334, RESULT_DELIVERY with no converter in service: the oldest result of GA goes to its buffer, at the place WR gives, and no other byte of SYS RAM
changes; GAUGE_BUF_RD_WRITE moves RD. R326, R335, STEWARD_CONVERSION: the stage code is kept, and a pair of GX within WIN shows its difference. R322, R324:
calibration, a change of reference and its settling, and the factors that end a calibration, computed from the sums of its raw results, each with every power-
stage channel in OFF; a reference change with a channel on is refused. -/
def Obligations.GaugeResults : Prop :=
  (∀ (r : GaugeResult) (rest : List GaugeResult) (s : State), s.gaugeServes 0 = false → s.gaugeServes 1 = false → s.gauge.holdInj = [] → s.gauge.holdA = r :: rest → r.dest < 8 →
    s.bit (Reg.GAUGE_BUF_CFG.EN r.dest) = true → s.bufFill r.dest ≠ s.bufSize r.dest - 1 → Completes .resultDelivery s fun t =>
      t.gauge = { s.gauge with holdA := rest } ∧ t.ramWord (s.bufAddr r.dest (s.get (Reg.GAUGE_BUF_WR.WR r.dest) % s.bufSize r.dest)) = r.word ∧
      t.get (Reg.GAUGE_BUF_WR.WR r.dest) = (s.get (Reg.GAUGE_BUF_WR.WR r.dest) % s.bufSize r.dest + 1) % s.bufSize r.dest % 65536 ∧
      (∀ a, (a < s.bufAddr r.dest (s.get (Reg.GAUGE_BUF_WR.WR r.dest) % s.bufSize r.dest) ∨
        s.bufAddr r.dest (s.get (Reg.GAUGE_BUF_WR.WR r.dest) % s.bufSize r.dest) + 4 ≤ a) → t.ramByte a = s.ramByte a) ∧
      Frame [Reg.GAUGE_BUF_WR.WR r.dest, Reg.GAUGE_WMST.BUF.nth r.dest, Reg.GAUGE_EVT.WM] [.gauge, .ram] s t) ∧
  (∀ (n : Fin 8) (rd : BitVec 16) (s : State), s.domOn .sys = true → rd.toNat < s.bufSize n → Completes (.gaugeBufRdWrite n rd) s fun t =>
    t.get (Reg.GAUGE_BUF_RD.RD n) = rd.toNat ∧ t.bus = s.ackBus ∧ Frame [Reg.GAUGE_BUF_RD.RD n, Reg.GAUGE_WMST.BUF.nth n, Reg.GAUGE_EVT.WM] [.bus] s t) ∧
  (∀ (v : Int) (s : State), s.gaugeInService = true → s.domOn .pst = true → s.get (Reg.PSC_CAB.RE0 0) = 0 → s.get (Reg.PSC_NTC.MAX 0) = 0 → Completes (.stewardConversion [v] none) s fun t =>
    t.pscCh 0 = { s.pscCh 0 with ntc := (s.gaugeCode (if s.gaugeServes 0 then 0 else 1) 24 v).toNat } ∧ (∀ k, k ≠ 0 → t.pscCh k = s.pscCh k) ∧ Frame [] [.psc] s t) ∧
  (∀ (a b d : Int) (s : State), s.gaugeServes 0 = true → s.gaugeServes 1 = true → s.stew.gxOff = false → s.timerOn tmGaugeGx = false →
    d = s.gaugeCode 0 (s.get Reg.GAUGE_PLCFG.SRC) a - s.gaugeCode 1 (s.get Reg.GAUGE_PLCFG.SRC) b → -32768 ≤ d → d ≤ 32767 → d.natAbs ≤ s.get Reg.GAUGE_PLCFG.WIN →
    Completes (.stewardConversion [] (some (a, b))) s fun t =>
      t.getInt Reg.GAUGE_PLSTAT.DIFF = d ∧ t.gauge = { s.gauge with plBad := 0 } ∧ t.timerOn tmGaugeGx = true ∧ Frame [Reg.GAUGE_PLSTAT.DIFF] [.timers, .gauge] s t) ∧
  (∀ (c : Fin 2) (i : Instr) (s : State), s.domOn .sys = true → (∀ k < 8, s.psState k = psOFF) → s.gauge.calNow = 0 → s.gauge.calNext = 0 → s.get Reg.GAUGE_STAT.REFRDY = 1 →
    (i = if c = 0 then .gaugeCalA else .gaugeCalB) → Completes i s fun t =>
      t.gaugeState c = gsCAL ∧ t.gauge = { s.gauge with calNow := 2 ^ c.val } ∧ t.timerOn (tmGaugeCal c) = true ∧ t.bus = s.ackBus ∧
      Frame [Reg.GAUGE_STAT.STATE_A, Reg.GAUGE_STAT.STATE_B] [.timers, .gauge, .bus] s t) ∧
  (∀ (ref : Fin 4) (s : State), s.domOn .sys = true → ref.val ≠ s.get Reg.GAUGE_CTL.REF →
    (s.anyPscOn = true → Completes (.gaugeRefWrite ref) s fun t => t.get Reg.GAUGE_EVT.REF_ERR = 1 ∧ t.bus = s.ackBus ∧ Frame [Reg.GAUGE_EVT.REF_ERR] [.bus] s t) ∧
    (s.anyPscOn = false → Completes (.gaugeRefWrite ref) s fun t =>
      t.get Reg.GAUGE_CTL.REF = ref ∧ t.get Reg.GAUGE_STAT.REFRDY = 0 ∧ t.gauge.recal = true ∧ t.bus = s.ackBus ∧
      Frame [Reg.GAUGE_CTL.REF, Reg.GAUGE_STAT.REFRDY, Reg.GAUGE_STAT.STATE_A, Reg.GAUGE_STAT.STATE_B] [.gauge, .bus] s t)) ∧
  (∀ s : State, (∀ k < 8, s.psState k = psOFF) → s.get Reg.GAUGE_STAT.REFRDY = 0 → s.domOn .sys = true → s.gauge.recal = true → s.gauge.calNow = 0 → s.gauge.calNext = 0 →
    Completes .refrdy s fun t =>
      t.get Reg.GAUGE_STAT.REFRDY = 1 ∧ t.gauge = { s.gauge with recal := false, calNow := 3 } ∧ t.get Reg.GAUGE_STAT.STATE_A = 1 ∧ t.get Reg.GAUGE_STAT.STATE_B = 1 ∧
      Frame [Reg.GAUGE_STAT.REFRDY, Reg.GAUGE_STAT.STATE_A, Reg.GAUGE_STAT.STATE_B] [.timers, .gauge] s t) ∧
  (∀ (c : Fin 2) (shorted gain : Int) (refchk : Nat) (s : State), s.calGain (calOffset shorted) refchk = some gain → (∀ k < 8, s.psState k = psOFF) → s.gaugeState c = gsCAL → s.due (tmGaugeCal c) 2 = true → s.gauge.calNow = 2 ^ c.val →
    s.gauge.calNext = 0 → s.mbx.gaugeCal = none → Completes (.gaugeCalDone c shorted refchk) s fun t =>
      t.get (if c = 0 then Reg.GAUGE_GA_CAL.GAIN else Reg.GAUGE_GB_CAL.GAIN) = gain.toNat ∧ t.getInt (if c = 0 then Reg.GAUGE_GA_CAL.OFS else Reg.GAUGE_GB_CAL.OFS) = calOffset shorted ∧
      t.gauge = { s.gauge with calNow := 0 } ∧ t.get Reg.GAUGE_EVT.CAL_DONE = 1 ∧
      Frame [if c = 0 then Reg.GAUGE_GA_CAL.GAIN else Reg.GAUGE_GB_CAL.GAIN, if c = 0 then Reg.GAUGE_GA_CAL.OFS else Reg.GAUGE_GB_CAL.OFS, Reg.GAUGE_STAT.STATE_A,
        Reg.GAUGE_STAT.STATE_B, Reg.GAUGE_EVT.CAL_DONE] [.free, .timers, .gauge] s t)

/-! ### The host ports and the mailbox -/

/-- R338 to R343, with CRC off and no word in the buffer: HSP_REGISTER_READ of one plain register returns the status word, the ready word and the register;
SYS_RAM_READ returns a word of SYS RAM; HSP_REGISTER_WRITE and SYS_RAM_WRITE post their word with its frame and address; a frame whose address is refused has no
effect beyond MISALIGN and its count. R340, POSTED_WRITE: the oldest posted word leaves the buffer for its word of SYS RAM, and no other byte changes; a word
for a register is one granted write. R344: HOST_MBX_GO while a request is pending is reported, else the bytes written go to the engine, whose answer stands
ready; HOST_MBX_DISCARD releases it; HOST_MBX_RX_READ returns its next four bytes. -/
def Obligations.HostSpi : Prop :=
  ((∀ (c : Word) (cyc : Nat) (r : RegRow) (s : State), s.domOn .sys = true → s.bit Reg.HOST_HSP_CFG.CRC = false → hspOp c = 0 → hspBad c = false → hspLen c = 1 → s.host.posted = [] →
    hspAddr c < 0x400000 → regRow (hspAddr c) = some r → AccessReady .hsp (accessDom r (hspAddr c)) s →
    stewardOnly (hspAddr c) = false → (∀ u : State, u.ownRead (hspAddr c) cyc = none) → Quiet s → Completes (.hspRegisterRead [c] false cyc) s fun t =>
      t.host.miso = [s.hspStatus, 0xA5, s.word (hspAddr c) &&& readMask r] ∧ t.bus = s.busOf .hsp (s.word (hspAddr c) &&& readMask r) .done ∧ t.host.posted = [] ∧ Frame [] [.host, .bus] s t) ∧
  (∀ (c : Word) (cyc : Nat) (s : State), s.domOn .sys = true → s.bit Reg.HOST_HSP_CFG.CRC = false → hspOp c = 2 → hspBad c = false → hspLen c = 1 → s.host.posted = [] →
    Quiet s → Completes (.sysRamRead [c] false cyc) s fun t =>
      t.host.miso = [s.hspStatus, 0xA5, s.ramWord (hspAddr c)] ∧ t.host.posted = [] ∧ t.bus = { s.bus with turn := .hsp } ∧ Frame [] [.host, .bus] s t) ∧
  (∀ (c v : Word) (op : Nat) (i : Instr) (s : State), s.domOn .sys = true → s.bit Reg.HOST_HSP_CFG.CRC = false → hspOp c = op → hspBad c = false → hspLen c = 1 → s.host.posted.length < 64 →
    (i = .hspRegisterWrite [c, v] false ∧ op = 1 ∨ i = .sysRamWrite [c, v] false ∧ op = 3) → Completes i s fun t =>
      t.host.posted = s.host.posted ++ [⟨s.host.frames + 1, decide (op = 3), hspAddr c, v⟩] ∧ t.host.miso = [s.hspStatus] ∧ Frame [] [.host] s t) ∧
  (∀ (c v : Word) (cyc : Nat) (i : Instr) (s : State), s.domOn .sys = true → s.bit Reg.HOST_HSP_CFG.CRC = false → hspBad c = true → s.host.posted = [] → Quiet s →
    (i = .hspRegisterRead [c] false cyc ∧ hspOp c = 0 ∨ i = .hspRegisterWrite [c, v] false ∧ hspOp c = 1 ∨ i = .sysRamRead [c] false cyc ∧ hspOp c = 2 ∨
      i = .sysRamWrite [c, v] false ∧ hspOp c = 3) → Completes i s fun t =>
      t.get Reg.HOST_HSP_STAT.MISALIGN = 1 ∧ t.get Reg.HOST_HSP_STAT.ERRS = min (s.get Reg.HOST_HSP_STAT.ERRS + 1) 65535 ∧ t.host.errAddr = true ∧ t.host.posted = [] ∧
      Frame [Reg.HOST_HSP_STAT.MISALIGN, Reg.HOST_HSP_STAT.ERRS] [.host] s t)) ∧
((∀ (p : PostedWord) (rest : List PostedWord) (cyc : Nat) (s : State), s.domOn .sys = true → s.host.posted = p :: rest → p.ram = true → p.addr + 3 < ramBytes → Quiet s → s.isHeld .hsp = false →
    Completes (.postedWrite cyc) s fun t => t.host = { s.host with posted := rest } ∧ t.ramWord p.addr = p.value ∧
      (∀ a, a < p.addr ∨ p.addr + 4 ≤ a → t.ramByte a = s.ramByte a) ∧ Frame [] [.host, .ram] s t) ∧
  (∀ (p : PostedWord) (rest : List PostedWord) (cyc : Nat) (r : RegRow) (s : State), s.domOn .sys = true → s.host.posted = p :: rest → p.ram = false → Quiet s →
    p.addr % 4 = 0 → p.addr < 0x400000 → regRow p.addr = some r → AccessReady .hsp (accessDom r p.addr) s → stewardOnly p.addr = false →
    r.tc = 0 → (∀ u : State, u.ownWrite r p.addr p.value cyc = none) → (∀ u : State, u.writeDone p.addr p.value = u) → p.addr ≠ Reg.GAUGE_CTL.word.addr → Completes (.postedWrite cyc) s fun t =>
      t.host = { s.host with posted := rest } ∧ t.word p.addr = ((s.word p.addr &&& ~~~r.rw) ||| (p.value &&& r.rw)) &&& ~~~(p.value &&& r.w1c) ∧ SameRegsBut [p.addr] s t ∧
      t.bus = s.ackBus ∧ OnlyParts [.host, .bus] s t) ∧
  (∀ (len : BitVec 13) (cyc : Nat) (s : State), MbxReady s →
    (s.bit Reg.HOST_MBX_STAT.BUSY = true → Completes (.hostMbxGo len cyc) s fun t => t.get Reg.HOST_MBX_STAT.REJECT = 1 ∧ t.bus = s.ackBus ∧ Frame [Reg.HOST_MBX_STAT.REJECT] [.bus] s t) ∧
    (s.bit Reg.HOST_MBX_STAT.BUSY = false → s.host.mbxTx.take len.toNat = [0x02, 0x00, 0x00, 0x00] → Completes (.hostMbxGo len cyc) s fun t =>
      t.host = { s.host with mbxTx := [], mbxRsp := s.respFrame stOK 0x0002 (leBytes 4 (s.word Reg.DEV_SVC.word.addr).toNat), mbxPos := 0 } ∧
      t.get Reg.HOST_MBX_STAT.RESP = 1 ∧ t.get Reg.HOST_MBX_STAT.BUSY = 0 ∧ t.get Reg.HOST_MBX_STAT.LEN = 12 ∧ t.bus = s.ackBus ∧
      Frame [Reg.HOST_MBX_STAT.RESP, Reg.HOST_MBX_STAT.BUSY, Reg.HOST_MBX_STAT.LEN] [.host, .bus] s t)) ∧
  (∀ s : State, s.domOn .sys = true → Completes .hostMbxDiscard s fun t =>
    t.host = { s.host with mbxRsp := [], mbxPos := 0 } ∧ t.get Reg.HOST_MBX_STAT.RESP = 0 ∧ t.get Reg.HOST_MBX_STAT.LEN = 0 ∧ t.bus = s.ackBus ∧
    Frame [Reg.HOST_MBX_STAT.RESP, Reg.HOST_MBX_STAT.LEN] [.host, .bus] s t) ∧
  (∀ s : State, s.domOn .sys = true → Completes .hostMbxRxRead s fun t =>
    t.bus = { s.bus with data := BitVec.ofNat 32 (leAt s.host.mbxRsp s.host.mbxPos 4), last := .done } ∧ t.host = { s.host with mbxPos := min s.host.mbxRsp.length (s.host.mbxPos + 4) } ∧ Frame [] [.host, .bus] s t))

/-- R345 to R348, each transfer that addresses its window: MAILBOX_WRITE of a GET_STATE request is answered at its STOP, and one while a request of the port
waits, or above 4,096 bytes, is not acknowledged; MAILBOX_READ returns the response, filled with 0xFF, and releases it when it was read whole, and is not
acknowledged without one; STATUS_READ returns the eight status bytes; STREAM_WRITE appends to the image buffer; CLAIM_READ returns a claim of target HB and
CLAIM_WRITE completes it; TWT_ABORT is counted; TWT_WAKE asks for the return from sleep. -/
def Obligations.TwoWireTarget : Prop :=
  (∀ (x : BitVec 7) (pins : BitVec 2) (cyc : Nat) (s : State), s.domOn .sys = true → s.twtHit x pins 0 = true → Quiet s →
    Completes (.mailboxWrite x pins [0x02, 0x00, 0x00, 0x00] cyc) s fun t =>
      t.host = { s.host with twtRsp := some (s.respFrame stOK 0x0002 (leBytes 4 (s.word Reg.DEV_SVC.word.addr).toNat)), twtStatus := stOK, twtWoken := false } ∧
      t.get Reg.HOST_TWT_STAT.PINS = pins.toNat ∧ Frame [Reg.HOST_TWT_STAT.PINS] [.host] s t) ∧
  (∀ (x : BitVec 7) (pins : BitVec 2) (bs : List Byte) (cyc : Nat) (s : State), s.domOn .sys = true → s.twtHit x pins 0 = true → (s.twtPending = true ∨ 4096 < bs.length) →
    Completes (.mailboxWrite x pins bs cyc) s fun t => t.host = { s.host with twtWoken := false } ∧ t.get Reg.HOST_TWT_EVT.NACK = 1 ∧ t.get Reg.HOST_TWT_STAT.PINS = pins.toNat ∧
      Frame [Reg.HOST_TWT_STAT.PINS, Reg.HOST_TWT_EVT.NACK] [.host] s t) ∧
  (∀ (x : BitVec 7) (pins : BitVec 2) (n : Nat) (s : State), s.domOn .sys = true → s.twtHit x pins 0 = true →
    (∀ r, s.host.twtRsp = some r → Completes (.mailboxRead x pins n) s fun t =>
      t.host = { s.host with twtOut := (r ++ List.replicate n 0xFF).take n, twtRsp := if r.length ≤ n then none else some r, twtWoken := false } ∧
      t.get Reg.HOST_TWT_STAT.PINS = pins.toNat ∧ Frame [Reg.HOST_TWT_STAT.PINS] [.host] s t) ∧
    (s.host.twtRsp = none → s.host.twtWoken = false → Completes (.mailboxRead x pins n) s fun t =>
      t.host = { s.host with twtOut := [] } ∧ t.get Reg.HOST_TWT_EVT.NACK = 1 ∧ Frame [Reg.HOST_TWT_STAT.PINS, Reg.HOST_TWT_EVT.NACK] [.host] s t)) ∧
  (∀ (x : BitVec 7) (pins : BitVec 2) (n : Nat) (s : State), s.domOn .sys = true → s.twtHit x pins 1 = true → Completes (.statusRead x pins n) s fun t =>
    t.host = { s.host with twtOut := (s.twtStatusBytes ++ List.replicate n 0xFF).take n, twtWoken := false } ∧ Frame [Reg.HOST_TWT_STAT.PINS] [.host] s t) ∧
  (∀ (x : BitVec 7) (pins : BitVec 2) (bs : List Byte) (b : ImgBuf) (s : State), s.domOn .sys = true → s.twtHit x pins 2 = true → s.mbx.image = some b → b.bytes.length + bs.length ≤ b.total →
    Completes (.streamWrite x pins bs) s fun t => t.mbx = { s.mbx with image := some { b with bytes := b.bytes ++ bs, at_ := s.now } } ∧
      t.fab = (s.ownWritten workBase 0xA7000).fab ∧ Frame [Reg.HOST_TWT_STAT.PINS] [.fab, .mbx, .host] s t) ∧
  (∀ (x : BitVec 7) (pins : BitVec 2) (n : Nat) (s : State), s.domOn .sys = true → s.twtHit x pins 3 = true → s.irq.wakeA = none → s.irq.wakeB = none →
    (s.twtStart pins).followLevels.claimSource 1 = some n → Completes (.claimRead x pins) s fun t =>
      t.host = { s.host with twtOut := leBytes 2 (claimValue n (pulseSource n && ((s.twtStart pins).followLevels.gate n).merged)).toNat, twtWoken := false } ∧
      t.gate n = { (s.twtStart pins).followLevels.gate n with st := .inService 1 } ∧ Frame [Reg.HOST_TWT_STAT.PINS, Reg.IC_SNAP.word 1] [.irq, .host] s t) ∧
  (∀ (x : BitVec 7) (pins : BitVec 2) (n : Byte) (s : State), s.domOn .sys = true → s.twtHit x pins 3 = true → n ≠ 0 → (s.gate n.toNat).st = .inService 1 → pulseSource n.toNat = true →
    (s.gate n.toNat).heldEvt = false → Completes (.claimWrite x pins [n, 0]) s fun t =>
      t.gate n.toNat = {} ∧ (∀ m, m ≠ n.toNat → t.gate m = s.gate m) ∧ t.host = { s.host with twtWoken := false } ∧ Frame [Reg.HOST_TWT_STAT.PINS] [.irq, .host] s t) ∧
  (∀ (x : BitVec 7) (pins : BitVec 2) (bs : List Byte) (s : State), s.domOn .sys = true → s.twtHit x pins 0 = true → s.twtHit x pins 2 = false → Completes (.twtAbort x pins bs) s fun t =>
    t.get Reg.HOST_TWT_STAT.ABORTS = min (s.get Reg.HOST_TWT_STAT.ABORTS + 1) 65535 ∧ t.get Reg.HOST_TWT_EVT.ABORT = 1 ∧ t.host = { s.host with twtWoken := false } ∧
    Frame [Reg.HOST_TWT_STAT.PINS, Reg.HOST_TWT_STAT.ABORTS, Reg.HOST_TWT_EVT.ABORT] [.host] s t) ∧
  (∀ (x : BitVec 7) (pins : BitVec 2) (w : Nat) (s : State), w < 4 → s.twtHit x pins w = true → s.pwr.entry = none → s.pwr.ret = none → s.mode = modeLISTEN → s.domOn .sys = false →
    s.bit Reg.HOST_TWT_CFG.WAKE = true → s.wakeEnabled 2 = true → s.stew.critHold = false → Completes (.twtWake x pins) s fun t =>
      t.get Reg.PWRM_WAKE_SRC.LAST = 2 ∧ t.get Reg.PWRM_EVT.WAKE = 1 ∧ t.get Reg.PWRM_STAT.CHANGING = 1 ∧ t.pwr = { s.pwr with ret := some { sleep := true } } ∧
      t.host = { s.host with twtWoken := true } ∧ Frame [Reg.PWRM_WAKE_SRC.LAST, Reg.PWRM_EVT.WAKE, Reg.PWRM_STAT.CHANGING] [.host, .pwr] s t)

/-- R350 to R353: TWC_TRANSFER that succeeds completes the oldest request with its bytes, and one that fails is recorded and tried again after a wait, when
RETRY allows it; TWC_RETRY after the wait; STRETCH_TO beyond the limit ends the transfer with FAULT and counts it; BUS_STUCK is recorded. R422, VDD_FAB_WRITE:
the setpoint goes out in the regulator's format, the time after which it counts begins and the voltage read back is shown, unless the regulator reports an
error. -/
def Obligations.TwoWireController : Prop :=
  (∀ (x : TwcXfer) (xs : List TwcXfer) (data : List Byte) (s : State), s.domOn .sys = true → s.host.twcNow = none → s.vfabWaits = false → s.host.twcQueue = x :: xs → (x.port = .hsp ∨ x.port = .twt) →
    Completes (.twcTransfer (.ok data)) s fun t =>
      t.host = { s.host with twcQueue := xs } ∧ t.mbx = { s.mbx with twc := s.mbx.twc.erase x.port, doneStatus := stOK, donePayload := padTo x.rlen data } ∧
      t.get Reg.DEV_MBX_DONE.CODE = 0x48 ∧ t.get Reg.DEV_MBX_DONE.STATUS = stOK ∧ t.get Reg.DEV_MBX_DONE.PORT = portCode x.port ∧ t.gate 3 = (s.gate 3).pulse false ∧
      Frame [Reg.DEV_MBX_DONE.CODE, Reg.DEV_MBX_DONE.STATUS, Reg.DEV_MBX_DONE.PORT] [.host, .mbx, .irq] s t) ∧
  (∀ (x : TwcXfer) (xs : List TwcXfer) (s : State), s.domOn .sys = true → s.host.twcNow = none → s.vfabWaits = false → s.host.twcQueue = x :: xs → 2 ≤ s.get Reg.HOST_TWC_CFG.RETRY →
    Completes (.twcTransfer (.err .nackAddr)) s fun t =>
      t.host = { s.host with twcQueue := xs, twcNow := some (.host x, 1) } ∧ t.get Reg.HOST_TWC_STAT.ERR = twcNACK_ADDR ∧ t.timerOn tmTwc = true ∧ t.elapsed tmTwc = 0 ∧
      Frame [Reg.HOST_TWC_STAT.word] [.timers, .host] s t) ∧
  (∀ (x : TwcXfer) (n : Nat) (data : List Byte) (s : State), s.domOn .sys = true → s.host.twcNow = some (.host x, n) → s.due tmTwc (n * s.get Reg.HOST_TWC_CFG.BACKOFF / 10) = true →
    (x.port = .hsp ∨ x.port = .twt) → Completes (.twcRetry (.ok data)) s fun t =>
      t.host = { s.host with twcNow := none } ∧ t.mbx = { s.mbx with twc := s.mbx.twc.erase x.port, doneStatus := stOK, donePayload := padTo x.rlen data } ∧ t.timerOn tmTwc = false ∧
      t.get Reg.DEV_MBX_DONE.CODE = 0x48 ∧ t.get Reg.DEV_MBX_DONE.STATUS = stOK ∧
      Frame [Reg.DEV_MBX_DONE.CODE, Reg.DEV_MBX_DONE.STATUS, Reg.DEV_MBX_DONE.PORT] [.timers, .host, .mbx, .irq] s t) ∧
  (∀ (x : TwcXfer) (xs : List TwcXfer) (seen : StretchSeen) (s : State), s.domOn .sys = true → max 1 (s.get Reg.HOST_TWC_CFG.STRETCH_TO) < seen.ms → s.host.twcNow = none → s.vfabWaits = false → s.host.twcQueue = x :: xs → (x.port = .hsp ∨ x.port = .twt) →
    Completes (.stretchTo seen) s fun t =>
      t.host = { s.host with twcQueue := xs } ∧ t.get Reg.HOST_TWC_STAT.ERR = twcSTRETCH_TO ∧ t.get Reg.HOST_TWC_STAT.BYTE = seen.byte.toNat ∧
      t.get Reg.HOST_TWC_CNT.FAIL = min (s.get Reg.HOST_TWC_CNT.FAIL + 1) 65535 ∧ t.mbx.doneStatus = stFAULT ∧ t.get Reg.DEV_MBX_DONE.STATUS = stFAULT ∧
      Frame [Reg.HOST_TWC_STAT.word, Reg.HOST_TWC_CNT.FAIL, Reg.DEV_MBX_DONE.CODE, Reg.DEV_MBX_DONE.STATUS, Reg.DEV_MBX_DONE.PORT] [.host, .mbx, .irq] s t) ∧
  (∀ s : State, s.domOn .sys = true → Completes .busStuck s fun t => t.get Reg.HOST_TWC_STAT.ERR = twcBUS_STUCK ∧ Frame [Reg.HOST_TWC_STAT.ERR] [] s t) ∧
  (∀ (m : BitVec 8) (status : BitVec 16) (mv : BitVec 10) (v : Nat) (s : State), s.domOn .sys = true → s.vfabWaits = true → s.stew.vfab = some v →
    (m.toNat < 32 → status.getLsbD 15 = false → Completes (.vddFabWrite (some m) status mv) s fun t =>
      t.get Reg.PWRM_VFAB_STAT.MV = mv.toNat ∧ t.stew = { s.stew with vfab := none, vset := some v, vsent := s.vfabBytes m v } ∧ t.timerOn tmVset = true ∧ t.elapsed tmVset = 0 ∧
      Frame [Reg.PWRM_VFAB_STAT.MV] [.timers, .stew] s t) ∧
    ((32 ≤ m.toNat ∨ status.getLsbD 15 = true) → Completes (.vddFabWrite (some m) status mv) s fun t =>
      t.get Reg.PWRM_EVT.VFAB_ERR = 1 ∧ t.stew = { s.stew with vfab := none, vsent := s.vfabBytes m v } ∧ t.timerOn tmVfab = false ∧ Frame [Reg.PWRM_EVT.VFAB_ERR] [.timers, .stew] s t))

/-- R361, R362: a request is refused by its first failing check, without side effect: only its response stands ready. One command for each check: BAD_LENGTH for
more payload than the port takes, LOCKED for an unlock challenge behind a broken seal, NOT_IN_STATE for GO_LIVE in BARE with the states it needs, PRESENCE for
ADOPT, BAD_ARG for the key of RESET, BUSY for a second image. R367: what an accepted command that only reads returns: GET_INFO, GET_STATE, REG_READ of a plain
register, FLASH_READ and LEDGER_READ. REG_WRITE gives a plain register its RW bits and clears its W1C bits written as 1. -/
def Obligations.MailboxRefusalsAndReads : Prop :=
  ((∀ (cyc : Nat) (off : Word) (bs : List Byte) (s : State), MbxReady s → 4088 < bs.length → Completes (.imageData ⟨.hsp, cyc⟩ off bs) s fun t =>
    Answered 0x31 stBAD_LENGTH [] s.host t ∧ Frame mbxFields [.host] s t) ∧
  (∀ (cyc : Nat) (s : State), MbxReady s → s.bit Reg.SEC_STAT.SEAL_BROKEN = true → s.bit Reg.STEW_POL_SEC.SEAL_BLOCK = true → Completes (.unlockChallenge ⟨.hsp, cyc⟩) s fun t =>
    Answered 0x58 stLOCKED [] s.host t ∧ Frame mbxFields [.host] s t) ∧
  (∀ (cyc : Nat) (s : State), MbxReady s → s.svc = svcBARE → Completes (.goLive ⟨.hsp, cyc⟩) s fun t =>
    Answered 0x10 stNOT_IN_STATE [10, 1] s.host t ∧ Frame mbxFields [.host] s t) ∧
  (∀ (cyc : Nat) (owner : BitVec 16) (s : State), MbxReady s → s.presValid = false → s.svc < 4 → Completes (.adopt ⟨.hsp, cyc⟩ owner) s fun t =>
    Answered 0x50 stPRESENCE [] s.host t ∧ Frame mbxFields [.host] s t) ∧
  (∀ (cyc : Nat) (key : BitVec 16) (s : State), MbxReady s → key ≠ 0x5AA5 → s.svc < 4 → Completes (.resetCommand ⟨.hsp, cyc⟩ key) s fun t =>
    Answered 0x05 stBAD_ARG [] s.host t ∧ Frame mbxFields [.host] s t) ∧
  (∀ (cyc : Nat) (total : Word) (b : ImgBuf) (s : State), MbxReady s → s.mbx.image = some b → 1 ≤ total.toNat → total.toNat ≤ 16777216 → s.svc < 4 →
    Completes (.imageOpen ⟨.hsp, cyc⟩ 0 total) s fun t => Answered 0x30 stBUSY [] s.host t ∧ Frame mbxFields [.host] s t)) ∧
((∀ (cyc : Nat) (s : State), Accepted 0x01 [] s → Completes (.getInfo ⟨.hsp, cyc⟩) s fun t =>
    Answered 0x01 stOK (wordsBytes [s.word Reg.DEV_ID.word.addr, s.word (Reg.DEV_UID.word 0).addr, s.word (Reg.DEV_UID.word 1).addr, s.word (Reg.DEV_UID.word 2).addr, s.word (Reg.DEV_UID.word 3).addr,
      s.word Reg.DEV_IMG_ID.word.addr, s.word Reg.DEV_IMG_VER.word.addr, s.word Reg.DEV_IMG_BOOT.word.addr] ++ leBytes 1 (s.mode + 128 * b2n s.changing) ++ [0, 0, 0]) s.host t ∧
    Frame mbxFields [.host] s t) ∧
  (∀ (cyc : Nat) (s : State), Accepted 0x02 [] s → Completes (.getState ⟨.hsp, cyc⟩) s fun t =>
    Answered 0x02 stOK (leBytes 4 (s.word Reg.DEV_SVC.word.addr).toNat) s.host t ∧ Frame mbxFields [.host] s t) ∧
  (∀ (cyc : Nat) (a : Word) (r : RegRow) (s : State), Accepted 0x03 (leBytes 4 a.toNat ++ [1, 0, 0, 0]) s → a.toNat < 0x400000 → regRow a.toNat = some r →
    AccessReady .mailbox (accessDom r a.toNat) s → s.host.posted = [] → stewardOnly a.toNat = false → (∀ u : State, u.ownRead a.toNat cyc = none) → Completes (.regRead ⟨.hsp, cyc⟩ a 1) s fun t =>
      Answered 0x03 stOK (leBytes 4 (s.word a.toNat &&& readMask r).toNat) s.host t ∧ t.bus = s.busOf .mailbox (s.word a.toNat &&& readMask r) .done ∧ Frame mbxFields [.host, .bus] s t) ∧
  (∀ (cyc : Nat) (a v : Word) (r : RegRow) (s : State), Accepted 0x04 (leBytes 4 a.toNat ++ [1, 0, 0, 0] ++ leBytes 4 v.toNat) s → a.toNat < 0x400000 → regRow a.toNat = some r →
    AccessReady .mailbox (accessDom r a.toNat) s → s.host.posted = [] → stewardOnly a.toNat = false → r.tc = 0 →
    (∀ u : State, u.ownWrite r a.toNat v cyc = none) → (∀ u : State, u.writeDone a.toNat v = u) → a.toNat ≠ Reg.GAUGE_CTL.word.addr → a.toNat ≠ Reg.HOST_MBX_STAT.word.addr →
    Completes (.regWrite ⟨.hsp, cyc⟩ a [v]) s fun t =>
      Answered 0x04 stOK [] s.host t ∧ t.word a.toNat = ((s.word a.toNat &&& ~~~r.rw) ||| (v &&& r.rw)) &&& ~~~(v &&& r.w1c) ∧ t.bus = s.busOf .mailbox 0 .done ∧
      SameRegsBut [a.toNat, Reg.HOST_MBX_STAT.word.addr] s t ∧ OnlyParts [.host, .bus] s t) ∧
  (∀ (cyc : Nat) (a : Word) (n : BitVec 16) (s : State), Accepted 0x35 (leBytes 4 a.toNat ++ leBytes 2 n.toNat ++ [0, 0]) s → Completes (.flashRead ⟨.hsp, cyc⟩ a n) s fun t =>
    Answered 0x35 stOK (s.flashRange a.toNat n.toNat) s.host t ∧ Frame mbxFields [.host] s t) ∧
  (∀ (cyc : Nat) (index : Word) (n : BitVec 16) (s : State), Accepted 0x60 (leBytes 4 index.toNat ++ leBytes 2 n.toNat ++ [0, 0]) s → Completes (.ledgerRead ⟨.hsp, cyc⟩ index n) s fun t =>
    Answered 0x60 stOK ((s.ledger.filter fun r => decide (index.toNat ≤ recIndex r)).take n.toNat).flatten s.host t ∧ Frame mbxFields [.host] s t))

/-- R363 to R366: RESET is due after its response; GO_LIVE waits for the weir; GO_LOADED makes the state LOADED and completes once the outputs have settled;
UNLOAD ends in BARE without an image; ENTER_SAFE ends in SAFE with cause HOST. Beside their own registers they move only the outputs, UNLOAD the fabric too, and
GO_LOADED the basins that SAFE had parked. -/
def Obligations.ServiceCommands : Prop :=
  (∀ (cyc : Nat) (s : State), Accepted 0x05 [0xA5, 0x5A, 0, 0] s → Completes (.resetCommand ⟨.hsp, cyc⟩ 0x5AA5) s fun t =>
    Answered 0x05 stOK [] s.host t ∧ t.pwr = { s.pwr with resetDue := 4 } ∧ Frame mbxFields [.host, .pwr] s t) ∧
  (∀ (cyc : Nat) (s : State), Accepted 0x10 [] s → s.svc ≠ svcSAFE → s.mbx.live = none → Completes (.goLive ⟨.hsp, cyc⟩) s fun t =>
    Answered 0x10 stACCEPTED [] s.host t ∧ t.mbx = { s.mbx with live := some ⟨some .hsp, false⟩ } ∧ Frame mbxFields [.mbx, .host] s t) ∧
  (∀ (cyc : Nat) (s : State), Accepted 0x11 [] s → Completes (.goLoaded ⟨.hsp, cyc⟩) s fun t =>
    t.svc = svcLOADED ∧ Answered 0x11 stACCEPTED [] s.host t ∧ t.mbx.live = none ∧ (t.outputsSettled = true → t.mbx.loaded = none ∧ Completed 0x11 stOK [] t) ∧
    (t.outputsSettled = false → t.mbx.loaded = some .hsp) ∧
    (∀ b < 10, ¬ (s.basinState b = bsPARKED ∧ s.get (Reg.FAB_B_STAT.CAUSE b) = bcSAFE) → t.basinState b = s.basinState b) ∧
    (∀ a, a < 0x150000 → a ∉ [Reg.DEV_SVC.word.addr, Reg.DEV_MBX_DONE.word.addr, Reg.HOST_MBX_STAT.word.addr] → a ∉ (List.range 10).map (fun b => (Reg.FAB_B_STAT.word b).addr) →
      t.word a = s.word a) ∧
    OnlyParts [.timers, .irq, .aout, .hp, .psc, .mbx, .host] s t) ∧
  (∀ (cyc : Nat) (s : State), Accepted 0x12 [] s → Completes (.unload ⟨.hsp, cyc⟩) s fun t =>
    t.svc = svcBARE ∧ t.word Reg.DEV_IMG_ID.word.addr = 0 ∧ (∀ L < 10, t.mapped L = none) ∧ t.fab.shelf = [] ∧ t.mbx = { s.mbx with live := none } ∧ Answered 0x12 stOK [] s.host t ∧
    (∀ a, a < 0x100000 → a ∉ [Reg.DEV_SVC.word.addr, Reg.DEV_IMG_ID.word.addr, Reg.HOST_MBX_STAT.word.addr] → t.word a = s.word a) ∧
    OnlyParts [.timers, .fab, .aout, .hp, .psc, .mbx, .host] s t) ∧
  (∀ (cyc : Nat) (s : State), Accepted 0x13 [] s → s.mbx.live = none → Completes (.enterSafe ⟨.hsp, cyc⟩) s fun t =>
    t.svc = svcSAFE ∧ t.get Reg.DEV_SVC.CAUSE = causeHOST ∧ t.get Reg.DEV_SVC.CNT = min (s.get Reg.DEV_SVC.CNT + 1) 65535 ∧ t.gate 4 = (s.gate 4).pulse false ∧ Answered 0x13 stOK [] s.host t ∧
    (∀ a, a < 0x150000 → a ∉ [Reg.DEV_SVC.word.addr, Reg.HOST_MBX_STAT.word.addr] → t.word a = s.word a) ∧ OnlyParts [.timers, .irq, .aout, .hp, .psc, .host] s t)

/-- R35 to R40, R160, R367: COMMIT requests GO and answers with the tick at which it applies; COMMIT_AT arms a target two or more ticks ahead; COMMIT_CANCEL
disarms; BASIN_HOLD and BASIN_RESUME stage HOLD of the handle's basin; POOL_WRITE writes the pool of the handle's basin. R147, R367, R368: IMAGE_OPEN starts a
buffer, IMAGE_DATA appends to it, IMAGE_ABORT discards it; IMAGE_CLOSE of a partial image answers ACCEPTED, discards the buffer and completes, with FAULT and
nothing applied when the image is refused; IMAGE_CONFIRM ends the trial and raises the fused rollback counter. CONV_CAL and GAUGE_CAL start calibrations whose
ends complete them; TWC_XFER joins the queue of the two-wire controller. -/
def Obligations.CommitAndImageCommands : Prop :=
  ((∀ (cyc : Nat) (s : State), Accepted 0x20 [] s → s.tick.target = none → Completes (.commitCmd ⟨.hsp, cyc⟩) s fun t =>
    t.tick = (if s.weirPhase cyc then { s.tick with goNext := true } else { s.tick with goNow := true }) ∧ t.get Reg.DEV_COMMIT_STAT.PENDING = 1 ∧
    Answered 0x20 stOK (leBytes 6 (if s.weirPhase cyc then s.nextCount else s.tick.count).toNat ++ [0, 0]) s.host t ∧
    Frame (Reg.DEV_COMMIT_STAT.PENDING :: Reg.DEV_COMMIT_STAT.ARMED :: mbxFields) [.tick, .host] s t) ∧
  (∀ (cyc : Nat) (n : TickNo) (s : State), Accepted 0x21 (leBytes 6 n.toNat ++ [0, 0]) s → s.tick.goNow = false → s.tick.goNext = false → (2 : Int) ≤ (n - s.countAt cyc).toInt →
    Completes (.commitAt ⟨.hsp, cyc⟩ n) s fun t =>
      t.tick = { s.tick with target := some n } ∧ t.get Reg.DEV_COMMIT_STAT.ARMED = 1 ∧ t.get Reg.DEV_COMMIT_AT_HI.TICK * 2 ^ 32 + (t.word Reg.DEV_COMMIT_AT_LO.word.addr).toNat = n.toNat ∧
      Answered 0x21 stOK [] s.host t ∧
      Frame (Reg.DEV_COMMIT_STAT.PENDING :: Reg.DEV_COMMIT_STAT.ARMED :: Reg.DEV_COMMIT_AT_HI.TICK :: Reg.DEV_COMMIT_AT_LO.word :: mbxFields) [.tick, .host] s t) ∧
  (∀ (cyc : Nat) (n : TickNo) (s : State), Accepted 0x22 [] s → s.tick.target = some n → Completes (.commitCancel ⟨.hsp, cyc⟩) s fun t =>
    t.tick = { s.tick with target := none } ∧ t.get Reg.DEV_COMMIT_STAT.ARMED = 0 ∧ t.get Reg.DEV_COMMIT_STAT.ERR = 1 ∧ t.get Reg.DEV_COMMIT_STAT.LAST_ERR = 5 ∧ Answered 0x22 stOK [] s.host t ∧
    Frame (Reg.DEV_COMMIT_STAT.word :: mbxFields) [.tick, .host] s t) ∧
  (∀ (cyc : Nat) (hold : Bool) (L : Byte) (b : Nat) (i : Instr) (r : RegRow) (s : State),
    (i = .basinHold ⟨.hsp, cyc⟩ L ∧ hold = true ∧ Accepted 0x23 [L, 0, 0, 0] s ∨ i = .basinResume ⟨.hsp, cyc⟩ L ∧ hold = false ∧ Accepted 0x24 [L, 0, 0, 0] s) →
    s.mapped L.toNat = some b → b < 10 → s.domOn .fab = true → s.inWeir cyc = false → s.tcCheck (Reg.FAB_B_CTL.word b).addr (BitVec.ofNat 32 (b2n hold)) = none →
    regRow (Reg.FAB_B_CTL.word b).addr = some r → Completes i s fun t =>
      t.viewWord (Reg.FAB_B_CTL.word b).addr = overlay (s.viewWord (Reg.FAB_B_CTL.word b).addr) r.tc (BitVec.ofNat 32 (b2n hold)) ∧ t.get Reg.DEV_COMMIT_STAT.STAGED = 1 ∧
      Answered (if hold then 0x23 else 0x24) stOK [] s.host t ∧ Frame (Reg.DEV_COMMIT_STAT.STAGED :: mbxFields) [.tick, .bus, .host] s t) ∧
  (∀ (cyc : Nat) (L : Byte) (a : BitVec 16) (v : Word) (b : Nat) (s : State), Accepted 0x25 ([L, 0] ++ leBytes 2 a.toNat ++ [1, 0, 0, 0] ++ leBytes 4 v.toNat) s → s.mapped L.toNat = some b →
    a.toNat < poolWords → Completes (.poolWrite ⟨.hsp, cyc⟩ L a [v]) s fun t =>
      tabGet (fun _ => 0) (t.basin b).pool a.toNat = v ∧ (∀ n, n ≠ a.toNat → tabGet (fun _ => 0) (t.basin b).pool n = tabGet (fun _ => 0) (s.basin b).pool n) ∧
      (∀ c, c ≠ b → t.basin c = s.basin c) ∧ Answered 0x25 stOK [] s.host t ∧
      (∀ n, (n < 0x100000 ∨ 0x110000 ≤ n) → n ≠ Reg.HOST_MBX_STAT.word.addr → t.word n = s.word n) ∧ OnlyParts [.fab, .host] s t)) ∧
((∀ (cyc : Nat) (kind : Byte) (total : Word) (s : State), Accepted 0x30 ([kind, 0, 0, 0] ++ leBytes 4 total.toNat) s → Completes (.imageOpen ⟨.hsp, cyc⟩ kind total) s fun t =>
    t.mbx = { s.mbx with image := some { part := kind == 1, total := total.toNat, port := .hsp, at_ := s.now } } ∧ Answered 0x30 stOK [] s.host t ∧ Frame mbxFields [.mbx, .host] s t) ∧
  (∀ (cyc : Nat) (off : Word) (bs : List Byte) (b : ImgBuf) (s : State), Accepted 0x31 (leBytes 4 off.toNat ++ bs) s → s.mbx.image = some b → Completes (.imageData ⟨.hsp, cyc⟩ off bs) s fun t =>
    t.mbx = { s.mbx with image := some { b with bytes := b.bytes ++ bs, at_ := s.now } } ∧ Answered 0x31 stOK [] s.host t ∧
    t.fab = (s.ownWritten workBase 0xA7000).fab ∧ Frame mbxFields [.fab, .mbx, .host] s t) ∧
  (∀ (cyc : Nat) (s : State), Accepted 0x34 [] s → Completes (.imageAbort ⟨.hsp, cyc⟩) s fun t =>
    t.mbx = { s.mbx with image := none } ∧ Answered 0x34 stOK [] s.host t ∧ Frame mbxFields [.mbx, .host] s t) ∧
  (∀ (cyc : Nat) (b : ImgBuf) (s u : State), Accepted 0x32 [] s → s.mbx.image = some b → b.part = true → u = ({ s with mbx := { s.mbx with image := none } } : State).respond .hsp 0x32 stACCEPTED [] →
    (u.imageRefused b.bytes true u.persisted = none → Completes (.imageClose ⟨.hsp, cyc⟩ none) s fun t => t.mbx.image = none ∧ t.host.mbxRsp = s.respFrame stACCEPTED 0x32 [] ∧ Completed 0x32 stOK [] t ∧
      OnlyParts [.tick, .fab, .bus, .irq, .mbx, .host, .lsn] s t) ∧
    (∀ f, u.imageRefused b.bytes true u.persisted = some f → f.reason ≠ 0x16 → Completes (.imageClose ⟨.hsp, cyc⟩ none) s fun t =>
      t.mbx.image = none ∧ t.host.mbxRsp = s.respFrame stACCEPTED 0x32 [] ∧ t.mbx.doneStatus = stFAULT ∧ t.get Reg.DEV_MBX_DONE.CODE = 0x32 ∧ t.get Reg.DEV_MBX_DONE.STATUS = stFAULT ∧
      Frame ([Reg.DEV_IMG_STAT.REASON, Reg.DEV_IMG_STAT.SECTION, Reg.DEV_IMG_DETAIL.word, Reg.LSN_EVT.TMPL_ERR] ++ doneFields ++ mbxFields) [.irq, .mbx, .host] s t)) ∧
  (∀ (cyc : Nat) (b : Bool) (s : State), Accepted 0x33 [] s → s.booted = some b → Completes (.imageConfirm ⟨.hsp, cyc⟩) s fun t =>
    t.get Reg.DEV_IMG_BOOT.TRIAL = 0 ∧ t.get Reg.DEV_IMG_VER.FUSED = max (s.get Reg.DEV_IMG_VER.FUSED) (s.get Reg.DEV_IMG_VER.ROLLBACK) ∧ Answered 0x33 stOK [] s.host t ∧
    Frame (Reg.DEV_IMG_BOOT.TRIAL :: Reg.DEV_IMG_VER.FUSED :: mbxFields) [.flash, .host] s t) ∧
  (∀ (cyc : Nat) (k : Fin 16) (s : State), Accepted 0x40 (leBytes 2 (2 ^ k.val) ++ [0, 0]) s → s.domOn .ain = true → s.domOn .aout = true → s.get Reg.AIN_STAT.NOSUPPLY = 0 → s.get Reg.AIN_CALST.BUSY = 0 →
    s.aiState k ≠ aiOFF → s.aiState k ≠ aiUNAVAILABLE → Completes (.convCal ⟨.hsp, cyc⟩ (BitVec.ofNat 16 (2 ^ k.val)) 0) s fun t =>
      t.get Reg.AIN_CALST.BUSY = 2 ^ k.val ∧ t.get Reg.AIN_STAT.CAL_BUSY = 1 ∧ (t.aiCh k).calAt = some s.now ∧ t.mbx = { s.mbx with convCal := some .hsp, convAin := true, convAout := false } ∧
      Answered 0x40 stACCEPTED [] s.host t ∧ Frame ([Reg.AIN_CALST.BUSY, Reg.AIN_STAT.CAL_BUSY, Reg.AIN_CH_STAT.STATE k] ++ mbxFields) [.timers, .ain, .mbx, .host] s t) ∧
  (∀ (cyc : Nat) (c : Fin 2) (s : State), Accepted 0x41 [BitVec.ofNat 8 (2 ^ c.val), 0, 0, 0] s → (∀ k < 8, s.psState k = psOFF) → s.gauge.calNow = 0 → s.gauge.calNext = 0 → s.get Reg.GAUGE_STAT.REFRDY = 1 →
    Completes (.gaugeCal ⟨.hsp, cyc⟩ (BitVec.ofNat 8 (2 ^ c.val))) s fun t =>
      t.gaugeState c = gsCAL ∧ t.gauge = { s.gauge with calNow := 2 ^ c.val } ∧ t.mbx = { s.mbx with gaugeCal := some .hsp, gaugeLeft := 2 ^ c.val } ∧ Answered 0x41 stACCEPTED [] s.host t ∧
      Frame ([Reg.GAUGE_STAT.STATE_A, Reg.GAUGE_STAT.STATE_B] ++ mbxFields) [.timers, .gauge, .mbx, .host] s t) ∧
  (∀ (cyc : Nat) (a rlen : Byte) (ws : List Byte) (s : State), ws.length < 256 → Accepted 0x48 ([a, BitVec.ofNat 8 ws.length, rlen, 0] ++ ws) s → Completes (.twcXfer ⟨.hsp, cyc⟩ a rlen 0 ws) s fun t =>
    t.mbx = { s.mbx with twc := s.mbx.twc ++ [.hsp] } ∧
    Answered 0x48 stACCEPTED [] { s.host with twcQueue := s.host.twcQueue ++ [{ port := .hsp, addr := a.toNat, wdata := ws, rlen := rlen.toNat, pec := false }] } t ∧ Frame mbxFields [.mbx, .host] s t))

/-- R429 to R432, R435, each with presence valid: ADOPT and RELEASE set the owner, SET_IDENTITY the node ID, each with an OWNER record; FACTORY_RESET asks for
the reset that completes it; POLICY_PERSIST queues one record for each policy register; UNLOCK_CHALLENGE hands out a nonce, and UNLOCK_RESPONSE consumes it: the
wanted MAC opens a session, any other is counted. MREQ: a request of another node is executed once, and its response goes back over the chain. -/
def Obligations.IdentityCommands : Prop :=
  (∀ (cyc : Nat) (owner : BitVec 16) (s : State), Accepted 0x50 (leBytes 2 owner.toNat ++ [0, 0]) s → Completes (.adopt ⟨.hsp, cyc⟩ owner) s fun t =>
    t.get Reg.CHAIN_OWNER.OWNER = owner.toNat ∧ t.get Reg.CHAIN_OWNER.ADOPTED = 1 ∧ t.stew = s.noted rtOWNER (leBytes 2 s.nodeId ++ leBytes 2 owner.toNat ++ [1]) ∧ Answered 0x50 stOK [] s.host t ∧
    Frame ([Reg.CHAIN_OWNER.OWNER, Reg.CHAIN_OWNER.ADOPTED] ++ mbxFields) [.stew, .host] s t) ∧
  (∀ (cyc : Nat) (s : State), Accepted 0x51 [] s → Completes (.release ⟨.hsp, cyc⟩) s fun t =>
    t.get Reg.CHAIN_OWNER.ADOPTED = 0 ∧ t.stew = s.noted rtOWNER (leBytes 2 s.nodeId ++ leBytes 2 (s.get Reg.CHAIN_OWNER.OWNER) ++ [0]) ∧ Answered 0x51 stOK [] s.host t ∧
    Frame (Reg.CHAIN_OWNER.ADOPTED :: mbxFields) [.stew, .host] s t) ∧
  (∀ (cyc : Nat) (node : BitVec 16) (s : State), Accepted 0x52 (leBytes 2 node.toNat ++ [0, 0]) s → s.domOn .chn = false → Completes (.setIdentity ⟨.hsp, cyc⟩ node) s fun t =>
    t.nodeId = node.toNat ∧ t.chain = { s.chain with silent := false } ∧ Answered 0x52 stOK [] s.host t ∧
    t.stew = s.noted rtOWNER (leBytes 2 node.toNat ++ leBytes 2 (s.get Reg.CHAIN_OWNER.OWNER) ++ leBytes 1 (s.get Reg.CHAIN_OWNER.ADOPTED)) ∧
    Frame (Reg.CHAIN_LINK_STAT.NODE_ID :: mbxFields) [.stew, .chain, .host] s t) ∧
  (∀ (cyc : Nat) (s : State), Accepted 0x53 [] s → Completes (.factoryReset ⟨.hsp, cyc⟩) s fun t =>
    t.pwr = { s.pwr with noBoot := true, resetDue := 5, factory := some .hsp } ∧ t.nodeId = uidNode ∧ t.bit Reg.SEC_STAT.SESSION = false ∧ t.stew = { s.stew with records := [] } ∧
    Answered 0x53 stACCEPTED [] s.host t ∧
    SameRegsBut [Reg.SEC_STAT.word.addr, Reg.CHAIN_LINK_STAT.word.addr, Reg.STEW_LEDGER_NEW.word.addr, Reg.STEW_LEDGER_OLD.word.addr, Reg.STEW_LEDGER_STAT.word.addr, Reg.HOST_MBX_STAT.word.addr] s t ∧
    OnlyParts [.flash, .stew, .pwr, .host] s t) ∧
  (∀ (cyc : Nat) (s : State), Accepted 0x54 [] s → Completes (.policyPersist ⟨.hsp, cyc⟩) s fun t =>
    t.stew = { s.stew with records := s.stew.records ++ policyRegs.map fun a =>
      ⟨rtPOLICY, 0, 0, 0, s.tick.count, 0, s.get Reg.STEW_MINUTES.MIN, leBytes 4 a ++ leBytes 4 (s.word a).toNat⟩ } ∧
    Answered 0x54 stOK [] s.host t ∧ Frame mbxFields [.stew, .host] s t) ∧
  (∀ (cyc : Nat) (s : State), Accepted 0x58 [] s → s.bit Reg.SEC_STAT.UKEY = true → Completes (.unlockChallenge ⟨.hsp, cyc⟩) s fun t =>
    ∃ n, n.length = 16 ∧ t.sec = { s.sec with nonce := some n } ∧ t.timerOn tmNonce = true ∧ Answered 0x58 stOK n s.host t ∧ Frame mbxFields [.free, .timers, .sec, .host] s t) ∧
  (∀ (cyc : Nat) (mac : BitVec 128) (n : List Byte) (s : State), Accepted 0x59 (leBytes 16 mac.toNat) s → s.bit Reg.SEC_STAT.UKEY = true → s.nonceNow = some n →
    (leBytes 16 mac.toNat = s.wantedMac n → Completes (.unlockResponse ⟨.hsp, cyc⟩ mac) s fun t =>
      t.get Reg.SEC_STAT.SESSION = 1 ∧ t.get Reg.SEC_STAT.LOCKED = 0 ∧ t.get Reg.SEC_STAT.FAILS = 0 ∧ t.get Reg.SEC_EVT.UNLOCK = 1 ∧ t.sec = { s.sec with nonce := none } ∧
      Answered 0x59 stOK [] s.host t ∧ Frame ([Reg.SEC_STAT.SESSION, Reg.SEC_STAT.LOCKED, Reg.SEC_STAT.FAILS, Reg.SEC_EVT.UNLOCK] ++ mbxFields) [.timers, .sec, .host] s t) ∧
    (leBytes 16 mac.toNat ≠ s.wantedMac n → s.get Reg.SEC_STAT.FAILS < 4 → Completes (.unlockResponse ⟨.hsp, cyc⟩ mac) s fun t =>
      t.get Reg.SEC_STAT.FAILS = s.get Reg.SEC_STAT.FAILS + 1 ∧ t.get Reg.SEC_EVT.AUTH_FAIL = 1 ∧ t.sec = { s.sec with nonce := none } ∧ t.timerOn tmLockout = s.timerOn tmLockout ∧
      Answered 0x59 stAUTH_FAILED [] s.host t ∧ Frame ([Reg.SEC_STAT.FAILS, Reg.SEC_EVT.AUTH_FAIL] ++ mbxFields) [.timers, .sec, .host] s t)) ∧
  (∀ (src mseq : BitVec 16) (s : State), MbxReady s → s.domOn .chn = true → s.chain.silent = false → (src.toNat, mseq.toNat) ∉ s.chain.taken → s.bit Reg.CHAIN_OWNER.ADOPTED = false → s.svc < 4 →
    Completes (.mreq src mseq [0x02, 0x00, 0x00, 0x00]) s fun t =>
      t.chain.taken = ((src.toNat, mseq.toNat) :: s.chain.taken).take 256 ∧ t.chain.mseq = (s.chain.mseq + 1) % 65536 ∧
      (∀ p : Fin 2, (t.port p).cells = (s.port p).cells ++ (if s.portSends p then
        messageCells ctMRSP s.nodeId src.toNat s.chain.mseq (s.respFrame stOK 0x0002 (leBytes 4 (s.word Reg.DEV_SVC.word.addr).toNat)) else [])) ∧
      Frame [] [.chain] s t)

/-! ### The weir and interrupts -/

/-- R23, R29, R33, R38, R43, WEIR of a tick in which no basin runs: without a commit TICK_COUNT goes on and the GO of the weir becomes that of the new tick; a
commit that stages another rate of the family alone applies it, empties the buffer and notes its tick; a commit that stages a rate of the other family is
refused with FAMILY, and staging stays. R147, CONFIRM_ON_LIVE: after 60 s of LIVE the trial ends, and the fused rollback counter follows the image. R368,
IMAGE_BUFFER_TIMEOUT: after 10 s without data the image buffer is discarded. -/
def Obligations.WeirAndImageTimers : Prop :=
  ((∀ (samples : List (BitVec 12 × Word)) (s : State), s.ticksRun = true → s.weirLeft.runningBasins = [] → s.tick.held = [] → s.tick.goNow = false → s.tick.target = none → Completes (.weir samples) s fun t =>
    t.tick = { s.tick with count := s.nextCount, reload := none, goNow := s.tick.goNext, goNext := false } ∧ t.rate = s.rate ∧ LowRegsSame 0x5C s t) ∧
  (∀ (samples : List (BitVec 12 × Word)) (v : Word) (s : State), s.domOn .sys = true → s.ticksRun = true → s.weirLeft = s → s.runningBasins = [] → (∀ h < 4, s.hoState h ≠ hoFADING) → s.tick.held = [] → s.tick.goNow = true →
    s.tick.target = none → s.tick.staged = [(Reg.DEV_TICK_CTL.word.addr, { mask := 7, value := v })] → s.commitFamily = false → s.commitMisfit = false → Completes (.weir samples) s fun t =>
      t.rate = v.toNat % 8 ∧ t.get Reg.DEV_COMMIT_STAT.DONE = 1 ∧ t.get Reg.DEV_COMMIT_STAT.STAGED = 0 ∧
      t.tick = { s.tick with count := s.nextCount, reload := none, goNow := s.tick.goNext, goNext := false, staged := [], last := s.tick.count } ∧ LowRegsSame 0x4C s t) ∧
  (∀ (samples : List (BitVec 12 × Word)) (s : State), s.ticksRun = true → s.weirLeft.runningBasins = [] → s.tick.held = [] → s.tick.goNow = true → s.tick.target = none → s.commitFamily = true →
    Completes (.weir samples) s fun t =>
      t.get Reg.DEV_COMMIT_STAT.ERR = 1 ∧ t.get Reg.DEV_COMMIT_STAT.LAST_ERR = 4 ∧ t.rate = s.rate ∧
      t.tick = { s.tick with count := s.nextCount, reload := none, goNow := s.tick.goNext, goNext := false } ∧ LowRegsSame 0x5C s t)) ∧
((∀ (b : Bool) (s : State), s.mbx.confirm = true → s.get Reg.DEV_IMG_BOOT.TRIAL = 1 → s.svc = svcLIVE → s.mbx.liveSince + 60000 ≤ s.now → s.booted = some b → Completes .confirmOnLive s fun t =>
    t.get Reg.DEV_IMG_BOOT.TRIAL = 0 ∧ t.get Reg.DEV_IMG_VER.FUSED = max (s.get Reg.DEV_IMG_VER.FUSED) (s.get Reg.DEV_IMG_VER.ROLLBACK) ∧
    Frame [Reg.DEV_IMG_BOOT.TRIAL, Reg.DEV_IMG_VER.FUSED] [.flash] s t) ∧
  (∀ (b : ImgBuf) (s : State), s.mbx.image = some b → b.at_ + 10000 ≤ s.now → Completes .imageBufferTimeout s fun t => t.mbx = { s.mbx with image := none } ∧ Frame [] [.mbx] s t))

/-- R376, IC_CLAIM: with nothing eligible the claim reads 0; else it takes the source that R376 selects, whose gateway is in service of the target and whose
status stands in the snapshot. R377, IC_COMPLETE: a PULSE source in the target's service becomes pending again with an event held behind it, and idle without;
source 0 does nothing; any other completion is reported. R374: IC_SWSET_WRITE raises its software source as a pulse: an idle gateway is pending, a pending one
notes that pulses merged, one in service holds the event. SOURCE_EVENT does the same for a PULSE source; the gateway of a LEVEL source whose flags assert is
pending. R375, ELIGIBILITY_EVALUATION with no target asleep: each delivery is asserted exactly while some source is eligible for its target; without SYS the
balls are released. -/
def Obligations.Interrupts : Prop :=
  ((∀ (t : Fin 4) (s : State), s.domOn .sys = true → s.followLevels.claimSource t = none → Completes (.icClaim t) s fun u => u = { s.followLevels with bus := s.ackBus } ∧ Frame [] [.irq, .bus] s u) ∧
  (∀ (t : Fin 4) (n : Nat) (s : State), s.domOn .sys = true → s.followLevels.claimSource t = some n → s.irq.wakeA = none → s.irq.wakeB = none → Completes (.icClaim t) s fun u =>
    u.bus = { s.bus with data := claimValue n (pulseSource n && (s.followLevels.gate n).merged), last := .done } ∧ u.gate n = { s.followLevels.gate n with st := .inService t } ∧
    (∀ m, m ≠ n → u.gate m = s.followLevels.gate m) ∧ u.word (Reg.IC_SNAP.word t).addr = s.sourceStatus n ∧ Frame [Reg.IC_SNAP.word t] [.irq, .bus] s u) ∧
  (∀ (t : Fin 4) (n : Fin 256) (s : State), s.domOn .sys = true → n.val ≠ 0 → (s.gate n).st = .inService t → pulseSource n = true → Completes (.icComplete t n) s fun u =>
    u.gate n = (if (s.gate n).heldEvt then { st := .pending, merged := (s.gate n).heldMerged } else {}) ∧ (∀ m, m ≠ n.val → u.gate m = s.gate m) ∧
    u.bus = s.ackBus ∧ Frame [] [.irq, .bus] s u) ∧
  (∀ (t : Fin 4) (n : Fin 256) (s : State), s.domOn .sys = true → n.val ≠ 0 → (s.gate n).st ≠ .inService t → Completes (.icComplete t n) s fun u =>
    u.get Reg.IC_EVT.BAD_COMPLETE = 1 ∧ u.bus = s.ackBus ∧ Frame [Reg.IC_EVT.BAD_COMPLETE] [.bus] s u) ∧
  (∀ (t : Fin 4) (s : State), s.domOn .sys = true → Completes (.icComplete t 0) s fun u => u = { s with bus := s.ackBus })) ∧
((∀ (n : Fin 64) (s : State), s.domOn .sys = true → Completes (.icSwsetWrite n) s fun u =>
    u.gate (0xC0 + n) = (match (s.gate (0xC0 + n)).st with
      | .idle => { s.gate (0xC0 + n) with st := .pending, merged := false }
      | .pending => { s.gate (0xC0 + n) with merged := true }
      | .inService _ => { s.gate (0xC0 + n) with heldEvt := true, heldMerged := (s.gate (0xC0 + n)).heldEvt }) ∧
    (∀ m, m ≠ 0xC0 + n.val → u.gate m = s.gate m) ∧ u.bus = s.ackBus ∧ Frame [] [.irq, .bus] s u) ∧
  (∀ (n : Fin 256) (merged : Bool) (s : State), pulseSource n = true → (s.gate n).st = .idle → Completes (.sourceEvent n merged) s fun u =>
    u.gate n = { s.gate n with st := .pending, merged := merged } ∧ (∀ m, m ≠ n.val → u.gate m = s.gate m) ∧ Frame [] [.irq] s u) ∧
  (∀ (n : Fin 256) (merged : Bool) (s : State), pulseSource n = false → s.sourceAsserted n = true → (s.gate n).st = .idle → Completes (.sourceEvent n merged) s fun u =>
    u.gate n = { st := .pending } ∧ (∀ m, m ≠ n.val → u.gate m = s.gate m) ∧ Frame [] [.irq] s u) ∧
  (∀ s : State, s.domOn .sys = true → s.get Reg.IC_TGT_SLEEP.SLEEP = 0 → s.irq.wakeA = none → s.irq.wakeB = none → Completes .eligibilityEvaluation s fun u =>
    u.irq.gates = s.followLevels.irq.gates ∧ (u.irq.irqA = true ↔ ∃ n ∈ u.pendingSources, u.eligible n 0 = true) ∧ (u.irq.irqB = true ↔ ∃ n ∈ u.pendingSources, u.eligible n 1 = true) ∧
    (u.irq.chDue = true ↔ ∃ n ∈ u.pendingSources, u.eligible n 2 = true) ∧ (u.irq.stDue = true ↔ ∃ n ∈ u.pendingSources, u.eligible n 3 = true) ∧ Frame [] [.irq] s u) ∧
  (∀ s : State, s.domOn .sys = false → Completes .eligibilityEvaluation s fun u => u.irq = { s.irq with irqA := false, irqB := false, chDue := false, stDue := false } ∧ Frame [] [.irq] s u))

/-! ### Stewards, power and security -/

/-- R384: TARGETED_TEST starts the test of a noted error; of a basin that is parked and unmapped, its BIST. TEST_CLASSIFICATION of a PLL that locked again: no
fault found, with its measurement; of an amplifier that latched: a lasting fault, with the flag that the policy asks for. Both take the error out. RETEST notes
a test of its own. -/
def Obligations.StewardTests : Prop :=
  (∀ (cls : Fin 16) (unit : BitVec 8) (first : Fin 2) (e : StewErr) (s : State), s.domOn .sys = true → cls.val ∈ [1, 3, 4, 5, 7, 8] → s.errOf cls unit.toNat = some e → e.testing = false →
    Completes (.targetedTest cls unit first) s fun t =>
      t.errOf cls unit.toNat = some { e with testing := true, at_ := s.now } ∧ (∀ c u, (c, u) ≠ (cls.val, unit.toNat) → t.errOf c u = s.errOf c u) ∧
      t.get Reg.STEW_STAT.TESTS = (t.stew.errs.countP fun e => e.testing) % 256 ∧ t.stew = { s.stew with errs := t.stew.errs } ∧ Frame [Reg.STEW_STAT.TESTS] [.stew] s t) ∧
  (∀ (b : Fin 10) (first : Fin 2) (e : StewErr) (s : State), s.domOn .sys = true → s.errOf clsBASIN b = some e → e.testing = false → s.struckOut b = false → s.bistReady b = true →
    Completes (.targetedTest 2 (BitVec.ofNat 8 b) first) s fun t =>
      t.basin b = { s.basin b with bist := true } ∧ (∀ c, c ≠ b.val → t.basin c = s.basin c) ∧ t.errOf clsBASIN b = some { e with testing := true, at_ := s.now } ∧ Frame [Reg.STEW_STAT.TESTS] [.fab, .stew] s t) ∧
  (∀ (p : Fin 4) (pass differs : Bool) (meas : Word) (e : StewErr) (s : State), s.domOn .sys = true → s.errOf clsPLL p = some e → s.locked p = true →
    Completes (.testClassification 7 (BitVec.ofNat 8 p) pass meas differs) s fun t =>
      t.get Reg.STEW_LAST.CLASS = 7 ∧ t.get Reg.STEW_LAST.UNIT = p ∧ t.get Reg.STEW_LAST.OUTCOME = 1 ∧ t.word Reg.STEW_LAST_DATA.word.addr = BitVec.ofNat 32 e.tries ∧ t.get Reg.STEW_EVT.TEST_DONE = 1 ∧
      t.errOf clsPLL p = none ∧ (∀ c u, (c, u) ≠ (clsPLL, p.val) → t.errOf c u = s.errOf c u) ∧
      Frame [Reg.STEW_LAST.CLASS, Reg.STEW_LAST.UNIT, Reg.STEW_LAST.OUTCOME, Reg.STEW_LAST_DATA.word, Reg.STEW_EVT.TEST_DONE, Reg.STEW_STAT.TESTS] [.stew] s t) ∧
  (∀ (n : Fin 2) (pass differs : Bool) (meas : Word) (e : StewErr) (s : State), s.domOn .sys = true → s.errOf clsHP n = some e → e.retest = false → s.hpState n = hpLATCHED → s.bitAt Reg.STEW_POL_SAFE.MASK 8 = false →
    Completes (.testClassification 8 (BitVec.ofNat 8 n) pass meas differs) s fun t =>
      t.get Reg.STEW_LAST.CLASS = 8 ∧ t.get Reg.STEW_LAST.UNIT = n ∧ t.get Reg.STEW_LAST.OUTCOME = 2 ∧ t.word Reg.STEW_LAST_DATA.word.addr = s.word (Reg.HP_AMP_Z.word n).addr ∧
      t.get Reg.STEW_EVT.TEST_DONE = 1 ∧ t.get Reg.STEW_EVT.LASTING = 1 ∧ t.bitAt Reg.STEW_FSTAT.CLASS 8 = (s.bitAt Reg.STEW_FSTAT.CLASS 8 || s.bitAt Reg.STEW_POL_FAULT.FLT_LAST 8) ∧ t.errOf clsHP n = none ∧
      Frame [Reg.STEW_LAST.CLASS, Reg.STEW_LAST.UNIT, Reg.STEW_LAST.OUTCOME, Reg.STEW_LAST_DATA.word, Reg.STEW_EVT.TEST_DONE, Reg.STEW_EVT.LASTING, Reg.STEW_FSTAT.CLASS.nth 8, Reg.STEW_STAT.TESTS]
        [.stew] s t) ∧
  (∀ (cls : Fin 16) (unit : BitVec 8) (s : State), s.domOn .sys = true → cls.val ∈ [1, 3, 4, 5, 8] → unit.toNat < classUnits cls → s.errOf cls unit.toNat = none → Completes (.retest cls unit) s fun t =>
    t.errOf cls unit.toNat = some { cls := cls, unit := unit.toNat, count := 0, testing := true, at_ := s.now, status := s.errStatus cls unit.toNat, tick := s.tick.count, retest := true } ∧
    t.get Reg.STEW_CTL.RT_CLASS = cls ∧ t.get Reg.STEW_CTL.RT_UNIT = unit.toNat ∧ (∀ c u, (c, u) ≠ (cls.val, unit.toNat) → t.errOf c u = s.errOf c u) ∧
    t.bus = s.ackBus ∧ Frame [Reg.STEW_CTL.RT_CLASS, Reg.STEW_CTL.RT_UNIT, Reg.STEW_STAT.TESTS] [.bus, .stew] s t)

/-- R390, DIE_TEMPERATURE_SAMPLE: a cool sample shows TJ, its sensor and the peak, ends every run and the hold of THERM_CRIT; the tenth sample in a row at TCRIT
reports THERM_CRIT, holds the device and asks for STANDBY. R391, HEARTBEAT_MISS while both cores run: the failure is recorded as lasting and the core stops; it
is reloaded, or, at the second failure within an hour, held. R396 to R398, LEDGER_WRITE: the oldest waiting record is programmed into the next erased place, and
no other flash byte changes; a program that fails spoils the place, and the record still waits. HOURS_TIMER: an HOURS record every four powered hours. R401,
SKIM asks for a pass; SKIM_PASS, at the end of a running one, shows what it measured and ends the request. R403, MARGIN_COMMIT: the stewards' GO once the buffer
has held only their values for 1 s. -/
def Obligations.HealthLedgerAndPlans : Prop :=
  ((∀ (v : BitVec 16) (s : State), s.domOn .sys = true → (-16384 : Int) ≤ v.toInt → v.toInt < 128 * s.get Reg.STEW_POL_THERM.TWARN → v.toInt < 128 * ((s.get Reg.STEW_POL_THERM.THOT : Int) - 10) →
    v.toInt < 128 * s.get Reg.STEW_POL_THERM.TCRIT → v.toInt < 16384 → Completes (.dieTemperatureSample [v]) s fun t =>
      t.getInt Reg.STEW_THERM.TJ = v.toInt / 128 ∧ t.get Reg.STEW_THERM.SENSOR = 0 ∧ t.getInt Reg.STEW_THERM.PEAK = max (s.getInt Reg.STEW_THERM.PEAK) (v.toInt / 128) ∧
      t.stew = { s.stew with warm := 0, hot := 0, crit := 0, critHold := false } ∧ Frame [Reg.STEW_THERM.TJ, Reg.STEW_THERM.SENSOR, Reg.STEW_THERM.PEAK] [.stew] s t) ∧
  (∀ (v : BitVec 16) (s : State), s.domOn .sys = true → s.stew.crit = 9 → (128 * s.get Reg.STEW_POL_THERM.TCRIT : Int) ≤ v.toInt → 128 * ((s.get Reg.STEW_POL_THERM.THOT : Int) - 10) ≤ v.toInt →
    s.stew.warm ≠ 99 → s.stew.hot ≠ 99 → s.bitAt Reg.STEW_POL_SAFE.MASK 9 = false → s.mode < 2 → Completes (.dieTemperatureSample [v]) s fun t =>
      t.get Reg.STEW_EVT.THERM_CRIT = 1 ∧ t.get Reg.STEW_LAST.CLASS = 9 ∧ t.stew.critHold = true ∧ t.pwr = { s.pwr with entry := some { mode := modeSTANDBY }, ret := none } ∧
      Frame [Reg.STEW_THERM.word, Reg.STEW_LAST.word, Reg.STEW_LAST_DATA.word, Reg.STEW_EVT.word, Reg.STEW_FSTAT.word] [.stew, .pwr] s t) ∧
  (∀ (i : Fin 2) (s : State), s.domOn .sys = true → s.get Reg.STEW_STAT.CORES = 3 → s.bitAt Reg.STEW_POL_SAFE.MASK 11 = false → Completes (.heartbeatMiss i) s fun t =>
    t.get Reg.STEW_EVT.STEWARD = 1 ∧ t.get Reg.STEW_EVT.LASTING = 1 ∧ t.get Reg.STEW_LAST.CLASS = 11 ∧ t.get Reg.STEW_LAST.UNIT = i ∧ t.get Reg.STEW_LAST.OUTCOME = 2 ∧
    t.stew.history = s.stew.history ++ [(11, i.val, s.now)] ∧
    t.bitAt Reg.STEW_STAT.CORES i = false ∧ (s.recurrences clsSTEWARD i msHour = 0 → t.stew.held = s.stew.held ∧ t.timerOn tmCore = true ∧ t.elapsed tmCore = 0) ∧
    (0 < s.recurrences clsSTEWARD i msHour → t.stew.held = s.stew.held ||| 2 ^ i.val ∧ t.timers = s.timers) ∧
    Frame [Reg.STEW_LAST.word, Reg.STEW_LAST_DATA.word, Reg.STEW_EVT.word, Reg.STEW_FSTAT.word, Reg.STEW_STAT.CORES.nth i] [.timers, .stew] s t)) ∧
((∀ (r : LedgerRec) (rest : List LedgerRec) (i q k : Nat) (s : State), s.domOn .sys = true → s.stew.records = r :: rest → s.stew.stopped = false → s.newestSector = some (i, q) → i < 64 →
    (s.carriedIn ((i + 1) % 64)).length < (s.erasedPlaces i).length → (s.erasedPlaces i).head? = some k →
    Completes (.ledgerWrite true) s (fun t =>
      t.flashRange (placeAddr i k) 32 = r.bytes s.nextIndex ∧ (∀ a, (a < placeAddr i k ∨ placeAddr i k + 32 ≤ a) → tabGet erased t.flash a = tabGet erased s.flash a) ∧
      t.stew = { s.stew with records := rest, fails := 0 } ∧ t.get Reg.STEW_LEDGER_STAT.OK = 1 ∧
      Frame [Reg.STEW_LEDGER_STAT.OK, Reg.STEW_LEDGER_STAT.ERASES, Reg.STEW_LEDGER_NEW.INDEX, Reg.STEW_LEDGER_OLD.INDEX] [.stew, .flash] s t) ∧
    (s.stew.fails < 2 → Completes (.ledgerWrite false) s fun t =>
      t.flashRange (placeAddr i k) 32 = List.replicate 32 0 ∧ (∀ a, (a < placeAddr i k ∨ placeAddr i k + 32 ≤ a) → tabGet erased t.flash a = tabGet erased s.flash a) ∧
      t.stew = { s.stew with fails := s.stew.fails + 1 } ∧ t.get Reg.STEW_LEDGER_STAT.FAILS = min (s.get Reg.STEW_LEDGER_STAT.FAILS + 1) 255 ∧ Frame [Reg.STEW_LEDGER_STAT.FAILS] [.stew, .flash] s t)) ∧
  (∀ s : State, s.domOn .sys = true → 4 * msHour ≤ s.stew.msHours → Completes .hoursTimer s fun t =>
    t.stew = { s.noted rtHOURS [] with msHours := s.stew.msHours - 4 * msHour } ∧ Frame [] [.stew] s t) ∧
  (∀ s : State, s.domOn .sys = true → s.bit Reg.STEW_CTL.RETEST = false → s.get Reg.STEW_STAT.SKIM = 0 → Completes .skim s fun t =>
    t.get Reg.STEW_STAT.SKIM = skDUE ∧ t.bus = s.ackBus ∧ Frame [Reg.STEW_STAT.SKIM] [.bus] s t) ∧
  (∀ (am : List (BitVec 16)) (slack : List (BitVec 8)) (s : State), s.domOn .sys = true → s.get Reg.STEW_STAT.SKIM = skRUNNING → s.due tmSkim 110 = true → s.stew.skimFab = false → Completes (.skimPass am slack []) s fun t =>
    t.get Reg.STEW_STAT.SKIM = 0 ∧ t.get Reg.STEW_EVT.SKIM_DONE = 1 ∧ t.stew.msSkim = 0 ∧ t.stew.gxOff = false ∧ (∀ n < 16, t.get (Reg.STEW_AM.DEGR n) = (am.getD n 0).toNat) ∧
    (∀ b < 10, s.basinState b = bsRUNNING → s.mode ≠ modeSTANDBY → t.get (Reg.STEW_SLACK.PS b) = min 250 (slack.getD b 250).toNat ∧ t.get (Reg.STEW_SLACK.STALE b) = 0) ∧
    (∀ a, a < 0x70000 → t.word a = s.word a) ∧ OnlyParts [.timers, .psc, .stew, .gauge] s t) ∧
  (∀ (cyc : Nat) (s : State), s.onlyStewards = true → s.due tmMargin 1000 = true → Completes (.marginCommit cyc) s fun t =>
    t.tick = (if s.weirPhase cyc then { s.tick with goNext := true } else { s.tick with goNow := true }) ∧ t.get Reg.DEV_COMMIT_STAT.PENDING = 1 ∧ t.timerOn tmMargin = false ∧
    Frame [Reg.DEV_COMMIT_STAT.PENDING, Reg.DEV_COMMIT_STAT.ARMED] [.timers, .tick] s t))

/-- R409, R411: MODE_REQUEST of another mode starts an entry, and one that is refused is reported; MODE_ENTRY takes its steps: the change shows and the outputs
leave, QUIET is reached once they settled, STANDBY once the fabric is off, and LISTEN or DORMANT with SYS and every other domain off and the service state kept.
R410, CLOCK_GATE: exactly the domains that may rest are gated. R413 to R416: a wake source that acts in the mode and is enabled is recorded and starts the
return, from STANDBY or from sleep: WAKE of a source, WAKE_N, PRESENCE_PRESS, AON_TIMER and CHAIN_WAKE_PATTERN. STANDBY_RETURN and SLEEP_RETURN take the steps
that are due: the domains come back on, the outputs are ready, and RUN is reached. -/
def Obligations.PowerModesAndWakes : Prop :=
  ((∀ (m : Fin 8) (s : State), s.domOn .sys = true → 5 ≤ m.val → Completes (.modeRequest m) s fun t => t.get Reg.PWRM_EVT.REQ_ERR = 1 ∧ t.bus = s.ackBus ∧ Frame [Reg.PWRM_EVT.REQ_ERR] [.bus] s t) ∧
  (∀ (m : Fin 8) (s : State), s.domOn .sys = true → 1 ≤ m.val → m.val < 5 → m.val ≠ s.mode → s.changeRuns = false → s.stew.critHold = false → (m.val = modeQUIET → s.mode ≠ modeSTANDBY) → s.get Reg.DEV_IMG_BOOT.TRIAL = 0 →
    s.get Reg.DEV_COMMIT_STAT.ARMED = 0 → s.get Reg.DEV_COMMIT_STAT.STAGED = 0 → Completes (.modeRequest m) s fun t =>
      t.pwr = { s.pwr with entry := some { mode := m } } ∧ t.bus = s.ackBus ∧ Frame [] [.bus, .pwr] s t) ∧
  (∀ (e : PwrEntry) (s : State), s.pwr.entry = some e → e.step = 1 → s.clk.hop = none → Completes .modeEntry s fun t =>
    t.get Reg.PWRM_STAT.CHANGING = 1 ∧ t.pwr = { s.pwr with entry := some { e with step := 2 } } ∧ t.timerOn tmPark = true ∧ (∀ a, a < 0x150000 → a ≠ Reg.PWRM_STAT.word.addr → t.word a = s.word a) ∧
    OnlyParts [.timers, .aout, .hp, .psc, .pwr] s t) ∧
  (∀ (e : PwrEntry) (s : State), s.pwr.entry = some e → e.step = 2 → e.mode = modeQUIET → s.outputsSettled = true → Completes .modeEntry s fun t =>
    t.mode = modeQUIET ∧ t.get Reg.PWRM_STAT.CHANGING = 0 ∧ t.get Reg.PWRM_EVT.DONE = 1 ∧ t.pwr = { s.pwr with entry := none, ret := none } ∧ t.timerOn tmAon = s.bit Reg.PWRM_TMR.EN ∧
    Frame [Reg.PWRM_STAT.MODE, Reg.PWRM_STAT.CHANGING, Reg.PWRM_EVT.DONE, Reg.LSN_STAT.CLKSRC] [.timers, .pwr] s t) ∧
  (∀ (e : PwrEntry) (s : State), s.pwr.entry = some e → e.step = 5 → e.mode = modeSTANDBY → s.get Reg.STEW_STAT.SKIM ≠ skDUE → Completes .modeEntry s fun t =>
    t.mode = modeSTANDBY ∧ t.get Reg.PWRM_STAT.CHANGING = 0 ∧ t.get Reg.PWRM_EVT.DONE = 1 ∧ t.stew = s.noted rtHOURS [] ∧ t.pwr = { s.pwr with entry := none, ret := none } ∧
    Frame [Reg.PWRM_STAT.MODE, Reg.PWRM_STAT.CHANGING, Reg.PWRM_EVT.DONE, Reg.LSN_STAT.CLKSRC] [.timers, .stew, .pwr] s t) ∧
  (∀ (e : PwrEntry) (s : State), s.pwr.entry = some e → e.step = 6 → (e.mode = modeLISTEN ∨ e.mode = modeDORMANT) → Completes .modeEntry s fun t =>
    t.mode = e.mode ∧ t.get Reg.PWRM_STAT.CHANGING = 0 ∧ t.domOn .aon = true ∧ (∀ d, d ≠ .aon → d ≠ .lsn → t.domOn d = false) ∧ t.pwr.entry = none ∧ t.pwr.svc = s.svc ∧ t.pwr.wakeOut = false ∧
    t.ram = [] ∧ t.flash = s.flash ∧ t.sec.ukey = s.sec.ukey ∧ t.sec.nonce = none ∧ t.pending = s.pending ∧ t.now = s.now ∧ (∀ a, 0x1B0000 ≤ a → a < 0x1B0014 → t.word a = s.word a)) ∧
  (∀ s : State, Completes .clockGate s fun t =>
    (∀ d : Dom, t.pwr.gated / 2 ^ d.index % 2 = 1 ↔ (d = .lsn ∨ d = .ain ∨ d = .aout ∨ d = .pst) ∧ s.domOn d = true ∧ s.mayGate d = true) ∧
    t.pwr = { s.pwr with gated := t.pwr.gated } ∧ Frame [] [.pwr] s t)) ∧
((∀ (code : Fin 16) (i : Instr) (s : State), s.pwr.entry = none → s.pwr.ret = none → 2 ≤ s.mode → s.mode ∈ wakeModes code → s.wakeEnabled code = true → s.stew.critHold = false →
    (i = .wake code ∨ i = .wakeN ∧ code = 1) → Completes i s fun t =>
      t.get Reg.PWRM_WAKE_SRC.LAST = code ∧ t.get Reg.PWRM_EVT.WAKE = 1 ∧ t.get Reg.PWRM_STAT.CHANGING = 1 ∧ t.pwr = { s.pwr with ret := some { sleep := s.mode != modeSTANDBY } } ∧
      Frame [Reg.PWRM_WAKE_SRC.LAST, Reg.PWRM_EVT.WAKE, Reg.PWRM_STAT.CHANGING] [.pwr] s t) ∧
  (∀ s : State, s.pwr.entry = none → s.pwr.ret = none → s.mode = modeSTANDBY → s.wakeEnabled 7 = true → s.stew.critHold = false → s.due tmAon (1000 * max 1 (s.get Reg.PWRM_TMR.SEC)) = true →
    Completes .aonTimer s fun t => t.get Reg.PWRM_WAKE_SRC.LAST = 7 ∧ t.get Reg.PWRM_EVT.WAKE = 1 ∧ t.timerOn tmAon = false ∧ t.pwr = { s.pwr with ret := some {} } ∧
      Frame [Reg.PWRM_WAKE_SRC.LAST, Reg.PWRM_EVT.WAKE, Reg.PWRM_STAT.CHANGING] [.timers, .pwr] s t) ∧
  (∀ s : State, s.pwr.entry = none → s.pwr.ret = none → s.mode = modeSTANDBY → s.wakeEnabled 4 = true → s.stew.critHold = false → s.chain.pattern = true → Completes .chainWakePattern s fun t =>
    t.get Reg.PWRM_WAKE_SRC.LAST = 4 ∧ t.get Reg.PWRM_EVT.WAKE = 1 ∧ t.chain = { s.chain with pattern := false } ∧ t.pwr = { s.pwr with ret := some {} } ∧
    Frame [Reg.PWRM_WAKE_SRC.LAST, Reg.PWRM_EVT.WAKE, Reg.PWRM_STAT.CHANGING] [.chain, .pwr] s t) ∧
  (∀ (r : PwrReturn) (s : State), s.pwr.ret = some r → r.sleep = false → r.step = 1 → Completes .standbyReturn s fun t =>
    t.domOn .fab = true ∧ t.domOn .ain = true ∧ t.domOn .aout = true ∧ t.domOn .pst = true ∧ t.pwr = { s.pwr with ret := some { r with step := 2 } } ∧ t.timerOn tmReturn = true) ∧
  (∀ (r : PwrReturn) (s : State), s.pwr.ret = some r → r.sleep = false → r.step = 3 → Completes .standbyReturn s fun t =>
    t.get Reg.AOUT_STAT.READY = 1 ∧ t.pwr = { s.pwr with ret := some { r with step := 4 } } ∧ Frame [Reg.AOUT_STAT.READY] [.pwr] s t) ∧
  (∀ (r : PwrReturn) (s : State), s.pwr.ret = some r → r.sleep = false → r.step = 4 → r.mode = modeRUN → s.due tmReturn 32 = true → Completes .standbyReturn s fun t =>
    t.mode = modeRUN ∧ t.get Reg.PWRM_STAT.CHANGING = 0 ∧ t.get Reg.PWRM_EVT.DONE = 1 ∧ t.pwr = { s.pwr with entry := none, ret := none } ∧ LowRegsSame 0x10000 s t) ∧
  (∀ (f : FlashId) (r : PwrReturn) (s : State), s.pwr.ret = some r → r.sleep = true → r.step = 1 → Completes (.sleepReturn f) s fun t =>
    t.domOn .sys = true ∧ t.get Reg.PWRM_WAKE_SRC.CAUSE = 5 ∧ t.pwr = { s.pwr with wakeOut := true, ret := some { r with step := 2 } } ∧ t.irq = {} ∧ t.locked pllC = false ∧ t.locked pllP = false) ∧
  (∀ (f : FlashId) (r : PwrReturn) (s : State), s.pwr.ret = some r → r.sleep = true → r.step = 3 → s.get Reg.CLK_STAT.REF_OK = 1 → Completes (.sleepReturn f) s fun t =>
    t.pwr = { s.pwr with ret := some { r with step := 4 } } ∧ Frame [] [.pwr] s t))

/-- R391, R418, R419, R421, R442, R460: RESET_N and AON_WATCHDOG, with no switching output, reset the device with their cause; a POR without its supplies holds
it with every domain off, and their return resets it 2 ms later; START_UP begins on LPO, and the input part is ready once the calibration of both parts is over.
R420, PWRM_RST_WRITE: bits of AON and SYS and of domains that are off do nothing; a reset of FAB ends its jets, keeps what FAB_B_STAT shows and starts the
return that reloads it. R423, GPIO_EDGE of a pin that the device does not drive: the level shows, and a selected edge sets the event of its pin alone. -/
def Obligations.ResetsAndDomains : Prop :=
  ((∀ s : State, s.pwr.inReset = false → (∀ k < 8, (s.pscCh k).drive = .low) → Completes .resetN s (AfterReset 1 s)) ∧
  (∀ s : State, s.domOn .sys = true → s.pwr.inReset = false → (∀ k < 8, (s.pscCh k).drive = .low) → Completes .aonWatchdog s (AfterReset 2 s)) ∧
  (∀ (v : SupplyLevels) (good : Nat) (s : State), (goodSupplies v).toNat = good → s.pwr.inReset = true → good &&& s.supplyNeed = s.supplyNeed →
    (s.timerOn tmPor = false → Completes (.por v) s fun t => t.get Reg.PWRM_STAT.SUPPLY_OK = good ∧ t.timerOn tmPor = true ∧ t.elapsed tmPor = 0 ∧ Frame [Reg.PWRM_STAT.SUPPLY_OK] [.timers] s t) ∧
    (s.due tmPor 2 = true → Completes (.por v) s fun t => AfterReset 0 s t ∧ t.get Reg.PWRM_STAT.SUPPLY_OK = good)) ∧
  (∀ (v : SupplyLevels) (good : Nat) (s : State), (goodSupplies v).toNat = good → s.pwr.inReset = false → good &&& s.supplyNeed ≠ s.supplyNeed → Completes (.por v) s fun t =>
    t.pwr.inReset = true ∧ (∀ d, t.domOn d = false) ∧ t.get Reg.PWRM_STAT.SUPPLY_OK = good ∧ t.get Reg.SEC_STAT.SEAL_BROKEN = 0 ∧ t.flash = s.flash ∧ t.ram = [] ∧ t.pending = s.pending) ∧
  (∀ (v : SupplyLevels) (good : Nat) (s : State), (goodSupplies v).toNat = good → s.pwr.inReset = false → good &&& s.supplyNeed = s.supplyNeed → Completes (.por v) s fun t =>
    t.get Reg.PWRM_STAT.SUPPLY_OK = good &&& 0xBF ||| (s.get Reg.PWRM_STAT.SUPPLY_OK &&& 0x40) ∧ Frame [Reg.PWRM_STAT.SUPPLY_OK, Reg.PWRM_EVT.SUPPLY] [] s t) ∧
  (∀ (f : FlashId) (s : State), s.pwr.inReset = false → s.pwr.startUp = 1 → Completes (.startUp f) s fun t =>
    t.pwr = { s.pwr with startUp := 2 } ∧ t.clk = { s.clk with sysOnLpo := true } ∧ Frame [] [.clk, .pwr] s t) ∧
  (∀ (f : FlashId) (s : State), s.pwr.inReset = false → s.pwr.startUp = 5 → s.get Reg.AIN_CALST.BUSY = 0 → s.get Reg.AOUT_CALST.BUSY = 0 → Completes (.startUp f) s fun t =>
    t.pwr = { s.pwr with startUp := 6 } ∧ t.get Reg.AIN_STAT.READY = 1 ∧ Frame [Reg.AIN_STAT.READY] [.pwr] s t)) ∧
((∀ (doms : BitVec 8) (s : State), s.domOn .sys = true → (∀ d : Dom, doms.getLsbD d.index = true → d = .aon ∨ d = .sys ∨ s.domOn d = false) → Completes (.pwrmRstWrite doms) s fun t => t = { s with bus := s.ackBus }) ∧
  (∀ s : State, s.domOn .sys = true → s.domOn .fab = true → Completes (.pwrmRstWrite 4) s fun t =>
    (∀ b < 10, (t.basin b).jets = []) ∧ (∀ b < 10, t.word (Reg.FAB_B_STAT.word b).addr = s.word (Reg.FAB_B_STAT.word b).addr) ∧ t.pwr = { s.pwr with ret := some { mode := s.mode, step := 2 } } ∧
    t.timerOn tmReturn = true) ∧
  (∀ (g : Fin 8) (high : Bool) (s : State), s.pwr.inReset = false → s.gpioDrive g = none → Completes (.gpioEdge g high) s fun t =>
    t.bitAt Reg.GPIO_IN.LEVEL g = high ∧
    t.bitAt Reg.GPIO_EVT.PIN g = (s.bitAt Reg.GPIO_EVT.PIN g || (high && !s.bitAt Reg.GPIO_IN.LEVEL g && s.bitAt Reg.GPIO_EDGE.EDGE (2 * g)) ||
      (!high && s.bitAt Reg.GPIO_IN.LEVEL g && s.bitAt Reg.GPIO_EDGE.EDGE (2 * g + 1))) ∧
    Frame [Reg.GPIO_IN.LEVEL.nth g, Reg.GPIO_EVT.PIN.nth g] [] s t))

/-- R433, R434: PRESENCE_PRESS opens the window and starts the count of the held ball; PRESENCE_RELEASE ends the press, PRESENCE_WINDOW_END the window; JUMPER
after ten minutes. Each shows whether presence is valid. R436: SEAL_BREAK of an open loop breaks the seal with a SEAL record, and ends a session where the
policy blocks; of a closed loop it shows the level. SEAL_CLR with presence, the loop closed and no field lock clears SEAL_BROKEN with a LOCK record, and is
denied otherwise. R432, RELOCK: the session ends. R429, NONCE_EXPIRY and R431, LOCKOUT_END: the nonce and the lockout end with their time. -/
def Obligations.PresenceSealAndLock : Prop :=
  ((∀ s : State, s.pwr.inReset = false → s.mode = modeRUN → s.pwr.entry = none → Completes .presencePress s fun t =>
    t.sec = { s.sec with window := s.get Reg.STEW_POL_SEC.PRES_WIN } ∧ t.timerOn tmWindow = true ∧ t.presLow = true ∧ t.get Reg.SEC_EVT.PRESS = 1 ∧ t.get Reg.SEC_STAT.PRES = b2n t.presValid ∧
    Frame [Reg.SEC_EVT.PRESS, Reg.SEC_STAT.PRES, Reg.SEC_STAT.PRES_LEFT] [.timers, .sec] s t) ∧
  (∀ s : State, Completes .presenceRelease s fun t =>
    t.presLow = false ∧ t.get Reg.SEC_STAT.JUMPER = 0 ∧ t.get Reg.SEC_STAT.PRES = b2n t.presValid ∧ t.timerOn tmWindow = s.timerOn tmWindow ∧
    Frame [Reg.SEC_STAT.JUMPER, Reg.SEC_STAT.PRES, Reg.SEC_STAT.PRES_LEFT] [.timers] s t) ∧
  (∀ s : State, s.due tmWindow (1000 * s.sec.window) = true → Completes .presenceWindowEnd s fun t =>
    t.windowOpen = false ∧ t.get Reg.SEC_STAT.PRES = b2n t.presValid ∧ t.get Reg.SEC_STAT.PRES_LEFT = 0 ∧ t.presLow = s.presLow ∧ Frame [Reg.SEC_STAT.PRES, Reg.SEC_STAT.PRES_LEFT] [.timers] s t) ∧
  (∀ s : State, s.due tmPresLow 600000 = true → s.get Reg.SEC_STAT.JUMPER = 0 → Completes .jumper s fun t =>
    t.get Reg.SEC_STAT.JUMPER = 1 ∧ t.get Reg.SEC_EVT.JUMPER = 1 ∧ t.get Reg.SEC_STAT.PRES = s.get Reg.STEW_POL_SEC.PRES_JUMPER_OK ∧
    Frame [Reg.SEC_STAT.JUMPER, Reg.SEC_EVT.JUMPER, Reg.SEC_STAT.PRES, Reg.SEC_STAT.PRES_LEFT] [] s t)) ∧
((∀ s : State, s.pwr.inReset = false → Completes (.sealBreak true) s fun t =>
    t.get Reg.SEC_STAT.SEAL_OPEN = 1 ∧ t.get Reg.SEC_STAT.SEAL_BROKEN = 1 ∧ t.get Reg.SEC_EVT.SEAL = 1 ∧ t.stew = s.noted rtSEAL [] ∧
    (s.get Reg.STEW_POL_SEC.SEAL_BLOCK = 1 → t.get Reg.SEC_STAT.SESSION = 0 ∧ t.get Reg.SEC_STAT.LOCKED = b2n s.lockState) ∧
    (s.get Reg.STEW_POL_SEC.SEAL_BLOCK = 0 → t.get Reg.SEC_STAT.SESSION = s.get Reg.SEC_STAT.SESSION ∧ t.get Reg.SEC_STAT.LOCKED = s.get Reg.SEC_STAT.LOCKED) ∧
    Frame [Reg.SEC_STAT.SEAL_OPEN, Reg.SEC_STAT.SEAL_BROKEN, Reg.SEC_EVT.SEAL, Reg.SEC_STAT.SESSION, Reg.SEC_STAT.LOCKED] [.stew] s t) ∧
  (∀ s : State, Completes (.sealBreak false) s fun t => t.get Reg.SEC_STAT.SEAL_OPEN = 0 ∧ Frame [Reg.SEC_STAT.SEAL_OPEN] [] s t) ∧
  (∀ s : State, s.domOn .sys = true → s.presValid = true → s.get Reg.SEC_STAT.SEAL_OPEN = 0 → s.fieldLocked = false → Completes .sealClr s fun t =>
    t.get Reg.SEC_STAT.SEAL_BROKEN = 0 ∧ t.stew = s.noted rtLOCK [BitVec.ofNat 8 (b2n s.lockState)] ∧ t.bus = s.ackBus ∧ Frame [Reg.SEC_STAT.SEAL_BROKEN] [.bus, .stew] s t) ∧
  (∀ s : State, s.domOn .sys = true → (s.presValid = false ∨ s.get Reg.SEC_STAT.SEAL_OPEN = 1 ∨ s.fieldLocked = true) → Completes .sealClr s fun t =>
    t.get Reg.SEC_EVT.DENIED = 1 ∧ t.bus = s.ackBus ∧ Frame [Reg.SEC_EVT.DENIED] [.bus] s t) ∧
  (∀ s : State, s.domOn .sys = true → Completes .relock s fun t =>
    t.get Reg.SEC_STAT.SESSION = 0 ∧ t.get Reg.SEC_STAT.LOCKED = b2n s.lockState ∧ t.bus = s.ackBus ∧ Frame [Reg.SEC_STAT.SESSION, Reg.SEC_STAT.LOCKED] [.bus] s t) ∧
  (∀ s : State, s.due tmNonce 120000 = true → Completes .nonceExpiry s fun t => t.sec = { s.sec with nonce := none } ∧ t.timerOn tmNonce = false ∧ Frame [] [.timers, .sec] s t) ∧
  (∀ s : State, s.due tmLockout 900000 = true → Completes .lockoutEnd s fun t => t.get Reg.SEC_STAT.FAILS = 0 ∧ t.lockout = false ∧ Frame [Reg.SEC_STAT.FAILS] [.timers] s t))

/-- R437: SEC_FPROG_GO with its key, a target 0 to 10 and no program running starts the program, or is refused with the first reason that holds, LOCKED before
PRESENCE before USED; without key or GO nothing happens. FPROG_DONE of a good read-back blows the target: the hash of a key slot, a revocation, a key, or the
lock fuse, which locks the device; the data words are cleared. -/
def Obligations.Fuses : Prop :=
  (∀ (v : Word) (s : State), s.domOn .sys = true → (v.toNat / 65536 % 256 ≠ 0xA5 ∨ v.getLsbD 31 = false ∨ 11 ≤ v.toNat % 16) → Completes (.secFprogGo v) s fun t => t = { s with bus := s.ackBus }) ∧
  (∀ (v : Word) (s : State), s.domOn .sys = true → v.toNat / 65536 % 256 = 0xA5 → v.getLsbD 31 = true → v.toNat % 16 < 11 → s.get Reg.SEC_FPROG.BUSY = 0 →
    (s.fprogRefusal (v.toNat % 16) = 0 → Completes (.secFprogGo v) s fun t =>
      t.sec = { s.sec with target := some (v.toNat % 16) } ∧ t.get Reg.SEC_FPROG.BUSY = 1 ∧ t.bus = s.ackBus ∧ Frame [Reg.SEC_FPROG.BUSY] [.bus, .sec] s t) ∧
    (s.fieldLocked = true → Completes (.secFprogGo v) s fun t =>
      t.get Reg.SEC_FPROG.RESULT = fpLOCKED ∧ t.get Reg.SEC_EVT.FPROG_ERR = 1 ∧ t.get Reg.SEC_EVT.DENIED = 1 ∧ t.bus = s.ackBus ∧
      Frame [Reg.SEC_FPROG.RESULT, Reg.SEC_EVT.FPROG_ERR, Reg.SEC_EVT.DENIED] [.bus] s t) ∧
    (s.fieldLocked = false → s.presValid = false → Completes (.secFprogGo v) s fun t =>
      t.get Reg.SEC_FPROG.RESULT = fpPRESENCE ∧ t.get Reg.SEC_EVT.FPROG_ERR = 1 ∧ t.bus = s.ackBus ∧ Frame [Reg.SEC_FPROG.RESULT, Reg.SEC_EVT.FPROG_ERR] [.bus] s t) ∧
    (s.fieldLocked = false → s.presValid = true → s.targetUsed (v.toNat % 16) = true → Completes (.secFprogGo v) s fun t =>
      t.get Reg.SEC_FPROG.RESULT = fpUSED ∧ t.get Reg.SEC_EVT.FPROG_ERR = 1 ∧ t.bus = s.ackBus ∧ Frame [Reg.SEC_FPROG.RESULT, Reg.SEC_EVT.FPROG_ERR] [.bus] s t)) ∧
  (∀ (n : Fin 4) (s : State), s.sec.target = some n.val → Completes (.fprogDone true) s fun t =>
    (∀ i < 8, t.word (Reg.SEC_KEY_H.word n i).addr = s.word (Reg.SEC_FDATA.word i).addr) ∧ t.bitAt Reg.SEC_STAT.SLOT_SET n = s.fdata.any (· != 0) ∧ (∀ i < 8, t.word (Reg.SEC_FDATA.word i).addr = 0) ∧
    t.get Reg.SEC_FPROG.BUSY = 0 ∧ t.get Reg.SEC_FPROG.RESULT = fpOK ∧ t.get Reg.SEC_EVT.FPROG_DONE = 1 ∧ t.sec = { s.sec with target := none }) ∧
  (∀ (n : Fin 4) (s : State), s.sec.target = some (4 + n.val) → Completes (.fprogDone true) s fun t =>
    t.bitAt Reg.SEC_STAT.SLOT_REVOKED n = true ∧ (∀ i < 8, t.word (Reg.SEC_FDATA.word i).addr = 0) ∧ t.get Reg.SEC_FPROG.RESULT = fpOK ∧ t.sec = { s.sec with target := none } ∧
    BlockOnly 0x60000 0x60040 s t ∧ OnlyParts [.sec] s t) ∧
  (∀ (t0 : Fin 2) (s : State), s.sec.target = some (8 + t0.val) → Completes (.fprogDone true) s fun t =>
    t.sec = (if t0 = 0 then { s.sec with ikey := s.fdata, target := none } else { s.sec with ukey := s.fdata, target := none }) ∧
    t.get (if t0 = 0 then Reg.SEC_STAT.IKEY else Reg.SEC_STAT.UKEY) = 1 ∧ t.get Reg.SEC_FPROG.RESULT = fpOK ∧ BlockOnly 0x60000 0x60040 s t ∧ OnlyParts [.sec] s t) ∧
  (∀ s : State, s.sec.target = some 10 → Completes (.fprogDone true) s fun t =>
    t.get Reg.SEC_STAT.LOCK_FUSE = 1 ∧ t.get Reg.SEC_STAT.LOCKED = 1 ∧ t.get Reg.SEC_STAT.SESSION = 0 ∧ t.sec = { s.sec with lockRec := true, target := none } ∧ t.stew = s.noted rtLOCK [1] ∧
    BlockOnly 0x60000 0x60040 s t ∧ OnlyParts [.stew, .sec] s t) ∧
  (∀ (n : Fin 4) (s : State), s.sec.target = some (4 + n.val) → Completes (.fprogDone false) s fun t =>
    t.get Reg.SEC_FPROG.RESULT = fpREADBACK ∧ t.get Reg.SEC_EVT.FPROG_ERR = 1 ∧ t.get Reg.SEC_STAT.SLOT_REVOKED = s.get Reg.SEC_STAT.SLOT_REVOKED ∧ t.sec = { s.sec with target := none } ∧
    BlockOnly 0x60000 0x60040 s t ∧ OnlyParts [.sec] s t)
end

