-- ==== Sys2Proof/Laws/Tab.lean ====
section
/-! SUPPORT. What a table operation does, once: a read after a write, and that every write keeps the canonical form. -/

set_option Elab.async false

namespace Sys2Proof.Laws

open Sys2Proof.Machine

variable {α : Type}

theorem tabGet_erase_self (d : Nat → α) (m : Tab α) (a : Nat) : tabGet d (tabErase a m) a = d a := by
  induction m with
  | nil => rfl
  | cons p t ih =>
    obtain ⟨k, v⟩ := p
    by_cases h : k = a <;> simp [tabErase, tabGet, h, ih]

theorem tabGet_erase_ne (d : Nat → α) (m : Tab α) {a b : Nat} (hne : b ≠ a) :
    tabGet d (tabErase a m) b = tabGet d m b := by
  induction m with
  | nil => rfl
  | cons p t ih =>
    obtain ⟨k, v⟩ := p
    by_cases h : k = a
    · subst h
      have : k ≠ b := fun e => hne e.symm
      simp [tabErase, tabGet, ih, this]
    · simp [tabErase, tabGet, h, ih]

theorem tabGet_insert_ne (d : Nat → α) (m : Tab α) {a b : Nat} (v : α) (hne : b ≠ a) :
    tabGet d (tabInsert a v m) b = tabGet d m b := by
  have hab : a ≠ b := fun e => hne e.symm
  induction m with
  | nil => simp [tabInsert, tabGet, hab]
  | cons p t ih =>
    obtain ⟨k, w⟩ := p
    by_cases h : a < k
    · simp [tabInsert, tabGet, h, hab]
    · simp [tabInsert, tabGet, h, ih]

theorem tabGet_insert_erase (d : Nat → α) (m : Tab α) (a : Nat) (v : α) :
    tabGet d (tabInsert a v (tabErase a m)) a = v := by
  induction m with
  | nil => simp [tabErase, tabInsert, tabGet]
  | cons p t ih =>
    obtain ⟨k, w⟩ := p
    by_cases h : k = a
    · simpa [tabErase, h] using ih
    · by_cases h2 : a < k
      · simp [tabErase, tabInsert, tabGet, h, h2]
      · simp [tabErase, tabInsert, tabGet, h, h2, ih]

/-- Reading the key just written gives the value written. -/
@[simp] theorem tabGet_put_self [DecidableEq α] (d : Nat → α) (m : Tab α) (a : Nat) (v : α) :
    tabGet d (tabPut d m a v) a = v := by
  by_cases h : v = d a
  · simp [tabPut, h, tabGet_erase_self]
  · simp [tabPut, h, tabGet_insert_erase]

/-- A write leaves every other key as it was. -/
theorem tabGet_put_ne [DecidableEq α] (d : Nat → α) (m : Tab α) {a b : Nat} (v : α) (hne : b ≠ a) :
    tabGet d (tabPut d m a v) b = tabGet d m b := by
  by_cases h : v = d a
  · simp [tabPut, h, tabGet_erase_ne d m hne]
  · simp [tabPut, h, tabGet_insert_ne d _ v hne, tabGet_erase_ne d m hne]

/-- A read after a write, both cases. -/
theorem tabGet_put [DecidableEq α] (d : Nat → α) (m : Tab α) (a b : Nat) (v : α) :
    tabGet d (tabPut d m a v) b = if b = a then v else tabGet d m b := by
  by_cases h : b = a
  · subst h; simp
  · simp [h, tabGet_put_ne d m v h]

theorem tabWfFrom_mono [DecidableEq α] (d : Nat → α) (m : Tab α) {lo lo' : Nat} (h : lo' ≤ lo)
    (hw : tabWfFrom d lo m = true) : tabWfFrom d lo' m = true := by
  cases m with
  | nil => rfl
  | cons p t =>
    obtain ⟨k, v⟩ := p
    simp only [tabWfFrom, Bool.and_eq_true, decide_eq_true_eq] at hw ⊢
    exact ⟨⟨Nat.le_trans h hw.1.1, hw.1.2⟩, hw.2⟩

theorem tabWfFrom_erase [DecidableEq α] (d : Nat → α) (m : Tab α) (a lo : Nat)
    (hw : tabWfFrom d lo m = true) : tabWfFrom d lo (tabErase a m) = true := by
  induction m generalizing lo with
  | nil => rfl
  | cons p t ih =>
    obtain ⟨k, v⟩ := p
    simp only [tabWfFrom, Bool.and_eq_true, decide_eq_true_eq] at hw
    by_cases h : k = a
    · simp only [tabErase, h, if_true]
      exact ih lo (tabWfFrom_mono d t (Nat.le_succ_of_le hw.1.1) hw.2)
    · simp only [tabErase, h, if_false, tabWfFrom, Bool.and_eq_true, decide_eq_true_eq]
      exact ⟨hw.1, ih (k + 1) hw.2⟩

theorem tabErase_noKey (m : Tab α) (a : Nat) : ∀ p ∈ tabErase a m, p.1 ≠ a := by
  induction m with
  | nil => simp [tabErase]
  | cons q t ih =>
    obtain ⟨k, v⟩ := q
    by_cases h : k = a
    · simpa [tabErase, h] using ih
    · intro p hp
      simp only [tabErase, h, if_false, List.mem_cons] at hp
      rcases hp with rfl | hp
      · exact h
      · exact ih p hp

theorem tabWfFrom_insert [DecidableEq α] (d : Nat → α) (m : Tab α) (a lo : Nat) (v : α) (hlo : lo ≤ a)
    (hv : v ≠ d a) (hk : ∀ p ∈ m, p.1 ≠ a) (hw : tabWfFrom d lo m = true) :
    tabWfFrom d lo (tabInsert a v m) = true := by
  induction m generalizing lo with
  | nil => simp [tabInsert, tabWfFrom, hlo, hv]
  | cons p t ih =>
    obtain ⟨k, w⟩ := p
    simp only [tabWfFrom, Bool.and_eq_true, decide_eq_true_eq] at hw
    by_cases h : a < k
    · simp only [tabInsert, h, if_true, tabWfFrom, Bool.and_eq_true, decide_eq_true_eq]
      exact ⟨⟨hlo, hv⟩, ⟨h, hw.1.2⟩, hw.2⟩
    · have hka : k ≠ a := hk (k, w) (by simp)
      simp only [tabInsert, h, if_false, tabWfFrom, Bool.and_eq_true, decide_eq_true_eq]
      exact ⟨hw.1, ih (k + 1) (by omega) (fun p hp => hk p (by simp [hp])) hw.2⟩

/-- Every write keeps the canonical form. -/
theorem tabWf_put [DecidableEq α] (d : Nat → α) (m : Tab α) (a : Nat) (v : α) (hw : tabWf d m = true) :
    tabWf d (tabPut d m a v) = true := by
  unfold tabWf at hw ⊢
  by_cases h : v = d a
  · simpa [tabPut, h] using tabWfFrom_erase d m a 0 hw
  · simpa [tabPut, h] using
      tabWfFrom_insert d _ a 0 v (Nat.zero_le a) h (tabErase_noKey m a) (tabWfFrom_erase d m a 0 hw)

/-- Consecutive writes keep the canonical form. -/
theorem tabWf_putList [DecidableEq α] (d : Nat → α) (m : Tab α) (a : Nat) (vs : List α) (hw : tabWf d m = true) :
    tabWf d (tabPutList d m a vs) = true := by
  induction vs generalizing m a with
  | nil => exact hw
  | cons v vs ih => exact ih _ _ (tabWf_put d m a v hw)

theorem tabWfFrom_filter [DecidableEq α] (d : Nat → α) (p : Nat × α → Bool) (m : Tab α) (lo : Nat)
    (hw : tabWfFrom d lo m = true) : tabWfFrom d lo (m.filter p) = true := by
  induction m generalizing lo with
  | nil => rfl
  | cons e t ih =>
    obtain ⟨k, v⟩ := e
    simp only [tabWfFrom, Bool.and_eq_true, decide_eq_true_eq] at hw
    by_cases h : p (k, v) = true
    · simp only [List.filter_cons, h, if_true, tabWfFrom, Bool.and_eq_true, decide_eq_true_eq]
      exact ⟨hw.1, ih (k + 1) hw.2⟩
    · simp only [List.filter_cons, h]
      exact ih lo (tabWfFrom_mono d t (Nat.le_succ_of_le hw.1.1) hw.2)

/-- Leaving entries out keeps the canonical form. -/
theorem tabWf_filter [DecidableEq α] (d : Nat → α) (p : Nat × α → Bool) (m : Tab α) (hw : tabWf d m = true) :
    tabWf d (m.filter p) = true := tabWfFrom_filter d p m 0 hw

theorem tabWf_nil [DecidableEq α] (d : Nat → α) : tabWf d ([] : Tab α) = true := rfl

end Sys2Proof.Laws
end

