-- ==== Sys2Proof/Laws/Kept.lean ====
section
/-! SUPPORT. What every operation of the block keeps: the queue of waiting commands, the time, and the invariant. One
relation holds all three, and each operation has one lemma about it, so that a claim over all commands is a case split. -/

set_option Elab.async false

namespace Sys2Proof.Laws

open Sys2Proof.Machine

/-- From `s` to `t` the queue and the time stay, the invariant is kept, every register below address `lb` reads as before, and
every part of the state outside `may` is the same. -/
structure Kept (lb : Nat) (may : Part → Prop) (s t : State) : Prop where
  pending : t.pending = s.pending
  now : t.now = s.now
  inv : s.Inv → t.Inv
  low : ∀ a, a < lb → t.word a = s.word a
  part : ∀ p, ¬ may p → SamePart p s t

/-- `n` lies at or below `b`. -/
def Low (n b : Nat) : Prop := n ≤ b

theorem Low.of_le {n b b' : Nat} (h : Low n b) (hb : b ≤ b') : Low n b' := Nat.le_trans h hb
theorem Low.up {n b b' : Nat} (h : Low n b) (hb : Nat.ble b b' = true) : Low n b' := Nat.le_trans h (Nat.le_of_ble_eq_true hb)
theorem Low.up1 {n b a : Nat} (h : Low n b) (hb : Nat.ble b a = true) {k : Nat} : Low n (a + k) := Nat.le_add_right_of_le (h.up hb)
theorem Low.up2 {n b a : Nat} (h : Low n b) (hb : Nat.ble b a = true) {k m : Nat} : Low n (a + k + m) :=
  Nat.le_add_right_of_le (h.up1 hb)
theorem Low.zero (b : Nat) : Low 0 b := Nat.zero_le b

theorem SamePart.refl (p : Part) (s : State) : SamePart p s s := by cases p <;> rfl

theorem SamePart.trans {p : Part} {s t u : State} (h : SamePart p s t) (k : SamePart p t u) : SamePart p s u := by
  cases p <;> exact Eq.trans k h

variable {lb : Nat} {may : Part → Prop}

theorem Kept.refl (s : State) : Kept lb may s s := ⟨rfl, rfl, id, fun _ _ => rfl, fun p _ => SamePart.refl p s⟩

theorem Kept.trans {s t u : State} (a : Kept lb may s t) (b : Kept lb may t u) : Kept lb may s u :=
  ⟨b.pending.trans a.pending, b.now.trans a.now, fun h => b.inv (a.inv h), fun x hx => (b.low x hx).trans (a.low x hx),
    fun p hp => SamePart.trans (a.part p hp) (b.part p hp)⟩

/-- An update that leaves the registers and all that the invariant reads. -/
theorem Kept.update {s t u : State} (h : Kept lb may s t) (hp : u.pending = t.pending) (hn : u.now = t.now) (hr : u.regs = t.regs)
    (hm : u.ram = t.ram) (hf : u.flash = t.flash) (hc : u.fab.cis = t.fab.cis) (ht : u.host.posted = t.host.posted)
    (hx : u.host.mbxTx = t.host.mbxTx) (hq : ∀ p, ¬ may p → SamePart p t u) : Kept lb may s u :=
  ⟨hp.trans h.pending, hn.trans h.now, fun i =>
    let j := h.inv i
    ⟨hr ▸ j.regs, hm ▸ j.ram, hf ▸ j.flash, hc ▸ j.cis, ht ▸ j.posted, hx ▸ j.mbxTx⟩,
    fun a ha => (congrArg (fun m => tabGet regReset m a) hr).trans (h.low a ha), fun p hp => SamePart.trans (h.part p hp) (hq p hp)⟩

/-! One part replaced. -/

theorem Kept.with_free {s0 s : State} (x) (h : Kept lb may s0 s) (hc : may .free := by assumption) : Kept lb may s0 { s with free := x } :=
  h.update rfl rfl rfl rfl rfl rfl rfl rfl fun p hp => by cases p <;> first | rfl | exact absurd hc hp
theorem Kept.with_timers {s0 s : State} (x) (h : Kept lb may s0 s) (hc : may .timers := by assumption) : Kept lb may s0 { s with timers := x } :=
  h.update rfl rfl rfl rfl rfl rfl rfl rfl fun p hp => by cases p <;> first | rfl | exact absurd hc hp
theorem Kept.with_tick {s0 s : State} (x) (h : Kept lb may s0 s) (hc : may .tick := by assumption) : Kept lb may s0 { s with tick := x } :=
  h.update rfl rfl rfl rfl rfl rfl rfl rfl fun p hp => by cases p <;> first | rfl | exact absurd hc hp
theorem Kept.with_clk {s0 s : State} (x) (h : Kept lb may s0 s) (hc : may .clk := by assumption) : Kept lb may s0 { s with clk := x } :=
  h.update rfl rfl rfl rfl rfl rfl rfl rfl fun p hp => by cases p <;> first | rfl | exact absurd hc hp
theorem Kept.with_bus {s0 s : State} (x) (h : Kept lb may s0 s) (hc : may .bus := by assumption) : Kept lb may s0 { s with bus := x } :=
  h.update rfl rfl rfl rfl rfl rfl rfl rfl fun p hp => by cases p <;> first | rfl | exact absurd hc hp
theorem Kept.with_irq {s0 s : State} (x) (h : Kept lb may s0 s) (hc : may .irq := by assumption) : Kept lb may s0 { s with irq := x } :=
  h.update rfl rfl rfl rfl rfl rfl rfl rfl fun p hp => by cases p <;> first | rfl | exact absurd hc hp
theorem Kept.with_ain {s0 s : State} (x) (h : Kept lb may s0 s) (hc : may .ain := by assumption) : Kept lb may s0 { s with ain := x } :=
  h.update rfl rfl rfl rfl rfl rfl rfl rfl fun p hp => by cases p <;> first | rfl | exact absurd hc hp
theorem Kept.with_phantom {s0 s : State} (x) (h : Kept lb may s0 s) (hc : may .phantom := by assumption) : Kept lb may s0 { s with phantom := x } :=
  h.update rfl rfl rfl rfl rfl rfl rfl rfl fun p hp => by cases p <;> first | rfl | exact absurd hc hp
theorem Kept.with_aout {s0 s : State} (x) (h : Kept lb may s0 s) (hc : may .aout := by assumption) : Kept lb may s0 { s with aout := x } :=
  h.update rfl rfl rfl rfl rfl rfl rfl rfl fun p hp => by cases p <;> first | rfl | exact absurd hc hp
theorem Kept.with_hp {s0 s : State} (x) (h : Kept lb may s0 s) (hc : may .hp := by assumption) : Kept lb may s0 { s with hp := x } :=
  h.update rfl rfl rfl rfl rfl rfl rfl rfl fun p hp => by cases p <;> first | rfl | exact absurd hc hp
theorem Kept.with_psc {s0 s : State} (x) (h : Kept lb may s0 s) (hc : may .psc := by assumption) : Kept lb may s0 { s with psc := x } :=
  h.update rfl rfl rfl rfl rfl rfl rfl rfl fun p hp => by cases p <;> first | rfl | exact absurd hc hp
theorem Kept.with_asrc {s0 s : State} (x) (h : Kept lb may s0 s) (hc : may .asrc := by assumption) : Kept lb may s0 { s with asrc := x } :=
  h.update rfl rfl rfl rfl rfl rfl rfl rfl fun p hp => by cases p <;> first | rfl | exact absurd hc hp
theorem Kept.with_sap {s0 s : State} (x) (h : Kept lb may s0 s) (hc : may .sap := by assumption) : Kept lb may s0 { s with sap := x } :=
  h.update rfl rfl rfl rfl rfl rfl rfl rfl fun p hp => by cases p <;> first | rfl | exact absurd hc hp
theorem Kept.with_stew {s0 s : State} (x) (h : Kept lb may s0 s) (hc : may .stew := by assumption) : Kept lb may s0 { s with stew := x } :=
  h.update rfl rfl rfl rfl rfl rfl rfl rfl fun p hp => by cases p <;> first | rfl | exact absurd hc hp
theorem Kept.with_mbx {s0 s : State} (x) (h : Kept lb may s0 s) (hc : may .mbx := by assumption) : Kept lb may s0 { s with mbx := x } :=
  h.update rfl rfl rfl rfl rfl rfl rfl rfl fun p hp => by cases p <;> first | rfl | exact absurd hc hp
theorem Kept.with_chain {s0 s : State} (x) (h : Kept lb may s0 s) (hc : may .chain := by assumption) : Kept lb may s0 { s with chain := x } :=
  h.update rfl rfl rfl rfl rfl rfl rfl rfl fun p hp => by cases p <;> first | rfl | exact absurd hc hp
theorem Kept.with_lsn {s0 s : State} (x) (h : Kept lb may s0 s) (hc : may .lsn := by assumption) : Kept lb may s0 { s with lsn := x } :=
  h.update rfl rfl rfl rfl rfl rfl rfl rfl fun p hp => by cases p <;> first | rfl | exact absurd hc hp
theorem Kept.with_gauge {s0 s : State} (x) (h : Kept lb may s0 s) (hc : may .gauge := by assumption) : Kept lb may s0 { s with gauge := x } :=
  h.update rfl rfl rfl rfl rfl rfl rfl rfl fun p hp => by cases p <;> first | rfl | exact absurd hc hp
theorem Kept.with_sec {s0 s : State} (x) (h : Kept lb may s0 s) (hc : may .sec := by assumption) : Kept lb may s0 { s with sec := x } :=
  h.update rfl rfl rfl rfl rfl rfl rfl rfl fun p hp => by cases p <;> first | rfl | exact absurd hc hp
theorem Kept.with_pwr {s0 s : State} (x) (h : Kept lb may s0 s) (hc : may .pwr := by assumption) : Kept lb may s0 { s with pwr := x } :=
  h.update rfl rfl rfl rfl rfl rfl rfl rfl fun p hp => by cases p <;> first | rfl | exact absurd hc hp
theorem Kept.with_xing {s0 s : State} (x) (h : Kept lb may s0 s) (hc : may .xing := by assumption) : Kept lb may s0 { s with xing := x } :=
  h.update rfl rfl rfl rfl rfl rfl rfl rfl fun p hp => by cases p <;> first | rfl | exact absurd hc hp
theorem Kept.with_fab {s0 s : State} (x : FabSt) (h : Kept lb may s0 s) (hx : x.cis = s.fab.cis) (hc : may .fab := by assumption) :
    Kept lb may s0 { s with fab := x } :=
  h.update rfl rfl rfl rfl rfl hx rfl rfl fun p hp => by cases p <;> first | rfl | exact absurd hc hp
theorem Kept.with_host {s0 s : State} (x : HostSt) (h : Kept lb may s0 s) (hp : x.posted = s.host.posted) (ht : x.mbxTx = s.host.mbxTx)
    (hc : may .host := by assumption) : Kept lb may s0 { s with host := x } :=
  h.update rfl rfl rfl rfl rfl rfl hp ht fun p hp => by cases p <;> first | rfl | exact absurd hc hp

/-- The SYS RAM, the flash, the cistern or the host port's state replaced by one that the invariant allows. -/
theorem Kept.with_ram {s0 s : State} (x : Tab Byte) (h : Kept lb may s0 s)
    (hw : tabWf (fun _ => (0 : Byte)) s.ram = true → tabWf (fun _ => (0 : Byte)) x = true) (h_ram : may .ram := by assumption) :
    Kept lb may s0 { s with ram := x } :=
  ⟨h.pending, h.now, fun i =>
    let j := h.inv i
    ⟨j.regs, hw j.ram, j.flash, j.cis, j.posted, j.mbxTx⟩, h.low,
    fun p hp => SamePart.trans (h.part p hp) (by cases p <;> first | rfl | exact absurd h_ram hp)⟩

theorem Kept.with_flash {s0 s : State} (x : Tab Byte) (h : Kept lb may s0 s) (hw : tabWf erased s.flash = true → tabWf erased x = true)
    (h_flash : may .flash := by assumption) : Kept lb may s0 { s with flash := x } :=
  ⟨h.pending, h.now, fun i =>
    let j := h.inv i
    ⟨j.regs, j.ram, hw j.flash, j.cis, j.posted, j.mbxTx⟩, h.low,
    fun p hp => SamePart.trans (h.part p hp) (by cases p <;> first | rfl | exact absurd h_flash hp)⟩

theorem Kept.with_cis {s0 s : State} (x : Tab DWord) (h : Kept lb may s0 s)
    (hw : tabWf (fun _ => (0 : DWord)) s.fab.cis = true → tabWf (fun _ => (0 : DWord)) x = true) (h_fab : may .fab := by assumption) :
    Kept lb may s0 { s with fab := { s.fab with cis := x } } :=
  ⟨h.pending, h.now, fun i =>
    let j := h.inv i
    ⟨j.regs, j.ram, j.flash, hw j.cis, j.posted, j.mbxTx⟩, h.low,
    fun p hp => SamePart.trans (h.part p hp) (by cases p <;> first | rfl | exact absurd h_fab hp)⟩

theorem Kept.with_host_le {s0 s : State} (x : HostSt) (h : Kept lb may s0 s)
    (hp : x.posted.length ≤ 64 ∨ x.posted.length ≤ s.host.posted.length)
    (ht : x.mbxTx.length ≤ 4096 ∨ x.mbxTx.length ≤ s.host.mbxTx.length) (h_host : may .host := by assumption) :
    Kept lb may s0 { s with host := x } :=
  ⟨h.pending, h.now, fun i =>
    let j := h.inv i
    ⟨j.regs, j.ram, j.flash, j.cis, hp.elim id (·.trans j.posted), ht.elim id (·.trans j.mbxTx)⟩, h.low,
    fun p hp => SamePart.trans (h.part p hp) (by cases p <;> first | rfl | exact absurd h_host hp)⟩

/-- A fold of steps that each keep. -/
theorem Kept.foldl {β : Type} {s : State} (f : State → β → State) (l : List β) (t : State) (h : Kept lb may s t)
    (hf : ∀ u x, Kept lb may s u → Kept lb may s (f u x)) : Kept lb may s (l.foldl f t) := by
  induction l generalizing t with
  | nil => exact h
  | cons x l ih => exact ih _ (hf t x h)

/-- A fold that carries a value beside the state. -/
theorem Kept.foldl_snd {β γ : Type} {s : State} (f : γ × State → β → γ × State) (l : List β) (t : γ × State) (h : Kept lb may s t.2)
    (hf : ∀ u x, Kept lb may s u.2 → Kept lb may s (f u x).2) : Kept lb may s (l.foldl f t).2 := by
  induction l generalizing t with
  | nil => exact h
  | cons x l ih => exact ih _ (hf t x h)

/-- A fold that carries a value behind the state. -/
theorem Kept.foldl_fst {β γ : Type} {s : State} (f : State × γ → β → State × γ) (l : List β) (t : State × γ) (h : Kept lb may s t.1)
    (hf : ∀ u x, Kept lb may s u.1 → Kept lb may s (f u x).1) : Kept lb may s (l.foldl f t).1 := by
  induction l generalizing t with
  | nil => exact h
  | cons x l ih => exact ih _ (hf t x h)

/-- An optional state, where there is one, keeps. -/
def KeptOpt (lb : Nat) (may : Part → Prop) (s : State) (o : Option State) : Prop := ∀ t, o = some t → Kept lb may s t

theorem KeptOpt.none {s : State} : KeptOpt lb may s .none := fun _ h => nomatch h
theorem KeptOpt.some {s t : State} (h : Kept lb may s t) : KeptOpt lb may s (.some t) := fun _ e => Option.some.inj e ▸ h
theorem KeptOpt.of {s t : State} {o : Option State} (e : o = .some t) (h : KeptOpt lb may s o) : Kept lb may s t := h t e

/-- A write of a register keeps. -/
theorem setWord_kept {s0 s : State} (h : Kept lb may s0 s) (a : Nat) (v : Word) (hn : Low lb a) : Kept lb may s0 (s.setWord a v) :=
  ⟨h.pending, h.now, fun i =>
    let j := h.inv i
    ⟨tabWf_put _ _ _ _ j.regs, j.ram, j.flash, j.cis, j.posted, j.mbxTx⟩,
    fun b hb => (tabGet_put_ne _ _ _ (Nat.ne_of_lt (Nat.lt_of_lt_of_le hb hn))).trans (h.low b hb),
    fun p hp => SamePart.trans (h.part p hp) (by cases p <;> rfl)⟩

end Sys2Proof.Laws
end

