-- ==== Sys2Proof/Laws/State.lean ====
section
/-! SUPPORT. What each update of the state leaves in each field: one lemma per field per update, so that no proof unfolds
a record update. -/

set_option Elab.async false

namespace Sys2Proof.Machine

/-! `setWord` replaces regs. -/

@[simp] theorem State.setWord_regs (s : State) (a v) : (s.setWord a v).regs = tabPut regReset s.regs a v := rfl
@[simp] theorem State.setWord_now (s : State) (a v) : (s.setWord a v).now = s.now := rfl
@[simp] theorem State.setWord_free (s : State) (a v) : (s.setWord a v).free = s.free := rfl
@[simp] theorem State.setWord_timers (s : State) (a v) : (s.setWord a v).timers = s.timers := rfl
@[simp] theorem State.setWord_tick (s : State) (a v) : (s.setWord a v).tick = s.tick := rfl
@[simp] theorem State.setWord_clk (s : State) (a v) : (s.setWord a v).clk = s.clk := rfl
@[simp] theorem State.setWord_fab (s : State) (a v) : (s.setWord a v).fab = s.fab := rfl
@[simp] theorem State.setWord_bus (s : State) (a v) : (s.setWord a v).bus = s.bus := rfl
@[simp] theorem State.setWord_xing (s : State) (a v) : (s.setWord a v).xing = s.xing := rfl
@[simp] theorem State.setWord_irq (s : State) (a v) : (s.setWord a v).irq = s.irq := rfl
@[simp] theorem State.setWord_ain (s : State) (a v) : (s.setWord a v).ain = s.ain := rfl
@[simp] theorem State.setWord_phantom (s : State) (a v) : (s.setWord a v).phantom = s.phantom := rfl
@[simp] theorem State.setWord_aout (s : State) (a v) : (s.setWord a v).aout = s.aout := rfl
@[simp] theorem State.setWord_hp (s : State) (a v) : (s.setWord a v).hp = s.hp := rfl
@[simp] theorem State.setWord_psc (s : State) (a v) : (s.setWord a v).psc = s.psc := rfl
@[simp] theorem State.setWord_asrc (s : State) (a v) : (s.setWord a v).asrc = s.asrc := rfl
@[simp] theorem State.setWord_sap (s : State) (a v) : (s.setWord a v).sap = s.sap := rfl
@[simp] theorem State.setWord_stew (s : State) (a v) : (s.setWord a v).stew = s.stew := rfl
@[simp] theorem State.setWord_mbx (s : State) (a v) : (s.setWord a v).mbx = s.mbx := rfl
@[simp] theorem State.setWord_host (s : State) (a v) : (s.setWord a v).host = s.host := rfl
@[simp] theorem State.setWord_chain (s : State) (a v) : (s.setWord a v).chain = s.chain := rfl
@[simp] theorem State.setWord_lsn (s : State) (a v) : (s.setWord a v).lsn = s.lsn := rfl
@[simp] theorem State.setWord_gauge (s : State) (a v) : (s.setWord a v).gauge = s.gauge := rfl
@[simp] theorem State.setWord_ram (s : State) (a v) : (s.setWord a v).ram = s.ram := rfl
@[simp] theorem State.setWord_flash (s : State) (a v) : (s.setWord a v).flash = s.flash := rfl
@[simp] theorem State.setWord_sec (s : State) (a v) : (s.setWord a v).sec = s.sec := rfl
@[simp] theorem State.setWord_pwr (s : State) (a v) : (s.setWord a v).pwr = s.pwr := rfl
@[simp] theorem State.setWord_pending (s : State) (a v) : (s.setWord a v).pending = s.pending := rfl

/-! `set` replaces regs. -/

@[simp] theorem State.set_regs (s : State) (f v) : (s.set f v).regs = tabPut regReset s.regs f.addr (f.put (s.word f.addr) v) := rfl
@[simp] theorem State.set_now (s : State) (f v) : (s.set f v).now = s.now := rfl
@[simp] theorem State.set_free (s : State) (f v) : (s.set f v).free = s.free := rfl
@[simp] theorem State.set_timers (s : State) (f v) : (s.set f v).timers = s.timers := rfl
@[simp] theorem State.set_tick (s : State) (f v) : (s.set f v).tick = s.tick := rfl
@[simp] theorem State.set_clk (s : State) (f v) : (s.set f v).clk = s.clk := rfl
@[simp] theorem State.set_fab (s : State) (f v) : (s.set f v).fab = s.fab := rfl
@[simp] theorem State.set_bus (s : State) (f v) : (s.set f v).bus = s.bus := rfl
@[simp] theorem State.set_xing (s : State) (f v) : (s.set f v).xing = s.xing := rfl
@[simp] theorem State.set_irq (s : State) (f v) : (s.set f v).irq = s.irq := rfl
@[simp] theorem State.set_ain (s : State) (f v) : (s.set f v).ain = s.ain := rfl
@[simp] theorem State.set_phantom (s : State) (f v) : (s.set f v).phantom = s.phantom := rfl
@[simp] theorem State.set_aout (s : State) (f v) : (s.set f v).aout = s.aout := rfl
@[simp] theorem State.set_hp (s : State) (f v) : (s.set f v).hp = s.hp := rfl
@[simp] theorem State.set_psc (s : State) (f v) : (s.set f v).psc = s.psc := rfl
@[simp] theorem State.set_asrc (s : State) (f v) : (s.set f v).asrc = s.asrc := rfl
@[simp] theorem State.set_sap (s : State) (f v) : (s.set f v).sap = s.sap := rfl
@[simp] theorem State.set_stew (s : State) (f v) : (s.set f v).stew = s.stew := rfl
@[simp] theorem State.set_mbx (s : State) (f v) : (s.set f v).mbx = s.mbx := rfl
@[simp] theorem State.set_host (s : State) (f v) : (s.set f v).host = s.host := rfl
@[simp] theorem State.set_chain (s : State) (f v) : (s.set f v).chain = s.chain := rfl
@[simp] theorem State.set_lsn (s : State) (f v) : (s.set f v).lsn = s.lsn := rfl
@[simp] theorem State.set_gauge (s : State) (f v) : (s.set f v).gauge = s.gauge := rfl
@[simp] theorem State.set_ram (s : State) (f v) : (s.set f v).ram = s.ram := rfl
@[simp] theorem State.set_flash (s : State) (f v) : (s.set f v).flash = s.flash := rfl
@[simp] theorem State.set_sec (s : State) (f v) : (s.set f v).sec = s.sec := rfl
@[simp] theorem State.set_pwr (s : State) (f v) : (s.set f v).pwr = s.pwr := rfl
@[simp] theorem State.set_pending (s : State) (f v) : (s.set f v).pending = s.pending := rfl

/-! `setNat` replaces regs. -/

@[simp] theorem State.setNat_regs (s : State) (f v) : (s.setNat f v).regs = tabPut regReset s.regs f.addr (BitVec.ofNat 32 v) := rfl
@[simp] theorem State.setNat_now (s : State) (f v) : (s.setNat f v).now = s.now := rfl
@[simp] theorem State.setNat_free (s : State) (f v) : (s.setNat f v).free = s.free := rfl
@[simp] theorem State.setNat_timers (s : State) (f v) : (s.setNat f v).timers = s.timers := rfl
@[simp] theorem State.setNat_tick (s : State) (f v) : (s.setNat f v).tick = s.tick := rfl
@[simp] theorem State.setNat_clk (s : State) (f v) : (s.setNat f v).clk = s.clk := rfl
@[simp] theorem State.setNat_fab (s : State) (f v) : (s.setNat f v).fab = s.fab := rfl
@[simp] theorem State.setNat_bus (s : State) (f v) : (s.setNat f v).bus = s.bus := rfl
@[simp] theorem State.setNat_xing (s : State) (f v) : (s.setNat f v).xing = s.xing := rfl
@[simp] theorem State.setNat_irq (s : State) (f v) : (s.setNat f v).irq = s.irq := rfl
@[simp] theorem State.setNat_ain (s : State) (f v) : (s.setNat f v).ain = s.ain := rfl
@[simp] theorem State.setNat_phantom (s : State) (f v) : (s.setNat f v).phantom = s.phantom := rfl
@[simp] theorem State.setNat_aout (s : State) (f v) : (s.setNat f v).aout = s.aout := rfl
@[simp] theorem State.setNat_hp (s : State) (f v) : (s.setNat f v).hp = s.hp := rfl
@[simp] theorem State.setNat_psc (s : State) (f v) : (s.setNat f v).psc = s.psc := rfl
@[simp] theorem State.setNat_asrc (s : State) (f v) : (s.setNat f v).asrc = s.asrc := rfl
@[simp] theorem State.setNat_sap (s : State) (f v) : (s.setNat f v).sap = s.sap := rfl
@[simp] theorem State.setNat_stew (s : State) (f v) : (s.setNat f v).stew = s.stew := rfl
@[simp] theorem State.setNat_mbx (s : State) (f v) : (s.setNat f v).mbx = s.mbx := rfl
@[simp] theorem State.setNat_host (s : State) (f v) : (s.setNat f v).host = s.host := rfl
@[simp] theorem State.setNat_chain (s : State) (f v) : (s.setNat f v).chain = s.chain := rfl
@[simp] theorem State.setNat_lsn (s : State) (f v) : (s.setNat f v).lsn = s.lsn := rfl
@[simp] theorem State.setNat_gauge (s : State) (f v) : (s.setNat f v).gauge = s.gauge := rfl
@[simp] theorem State.setNat_ram (s : State) (f v) : (s.setNat f v).ram = s.ram := rfl
@[simp] theorem State.setNat_flash (s : State) (f v) : (s.setNat f v).flash = s.flash := rfl
@[simp] theorem State.setNat_sec (s : State) (f v) : (s.setNat f v).sec = s.sec := rfl
@[simp] theorem State.setNat_pwr (s : State) (f v) : (s.setNat f v).pwr = s.pwr := rfl
@[simp] theorem State.setNat_pending (s : State) (f v) : (s.setNat f v).pending = s.pending := rfl

/-! `flag` replaces regs. -/

@[simp] theorem State.flag_regs (s : State) (f) : (s.flag f).regs = tabPut regReset s.regs f.addr (f.put (s.word f.addr) 1) := rfl
@[simp] theorem State.flag_now (s : State) (f) : (s.flag f).now = s.now := rfl
@[simp] theorem State.flag_free (s : State) (f) : (s.flag f).free = s.free := rfl
@[simp] theorem State.flag_timers (s : State) (f) : (s.flag f).timers = s.timers := rfl
@[simp] theorem State.flag_tick (s : State) (f) : (s.flag f).tick = s.tick := rfl
@[simp] theorem State.flag_clk (s : State) (f) : (s.flag f).clk = s.clk := rfl
@[simp] theorem State.flag_fab (s : State) (f) : (s.flag f).fab = s.fab := rfl
@[simp] theorem State.flag_bus (s : State) (f) : (s.flag f).bus = s.bus := rfl
@[simp] theorem State.flag_xing (s : State) (f) : (s.flag f).xing = s.xing := rfl
@[simp] theorem State.flag_irq (s : State) (f) : (s.flag f).irq = s.irq := rfl
@[simp] theorem State.flag_ain (s : State) (f) : (s.flag f).ain = s.ain := rfl
@[simp] theorem State.flag_phantom (s : State) (f) : (s.flag f).phantom = s.phantom := rfl
@[simp] theorem State.flag_aout (s : State) (f) : (s.flag f).aout = s.aout := rfl
@[simp] theorem State.flag_hp (s : State) (f) : (s.flag f).hp = s.hp := rfl
@[simp] theorem State.flag_psc (s : State) (f) : (s.flag f).psc = s.psc := rfl
@[simp] theorem State.flag_asrc (s : State) (f) : (s.flag f).asrc = s.asrc := rfl
@[simp] theorem State.flag_sap (s : State) (f) : (s.flag f).sap = s.sap := rfl
@[simp] theorem State.flag_stew (s : State) (f) : (s.flag f).stew = s.stew := rfl
@[simp] theorem State.flag_mbx (s : State) (f) : (s.flag f).mbx = s.mbx := rfl
@[simp] theorem State.flag_host (s : State) (f) : (s.flag f).host = s.host := rfl
@[simp] theorem State.flag_chain (s : State) (f) : (s.flag f).chain = s.chain := rfl
@[simp] theorem State.flag_lsn (s : State) (f) : (s.flag f).lsn = s.lsn := rfl
@[simp] theorem State.flag_gauge (s : State) (f) : (s.flag f).gauge = s.gauge := rfl
@[simp] theorem State.flag_ram (s : State) (f) : (s.flag f).ram = s.ram := rfl
@[simp] theorem State.flag_flash (s : State) (f) : (s.flag f).flash = s.flash := rfl
@[simp] theorem State.flag_sec (s : State) (f) : (s.flag f).sec = s.sec := rfl
@[simp] theorem State.flag_pwr (s : State) (f) : (s.flag f).pwr = s.pwr := rfl
@[simp] theorem State.flag_pending (s : State) (f) : (s.flag f).pending = s.pending := rfl

/-! `count` replaces regs. -/

@[simp] theorem State.count_now (s : State) (f n) : (s.count f n).now = s.now := rfl
@[simp] theorem State.count_free (s : State) (f n) : (s.count f n).free = s.free := rfl
@[simp] theorem State.count_timers (s : State) (f n) : (s.count f n).timers = s.timers := rfl
@[simp] theorem State.count_tick (s : State) (f n) : (s.count f n).tick = s.tick := rfl
@[simp] theorem State.count_clk (s : State) (f n) : (s.count f n).clk = s.clk := rfl
@[simp] theorem State.count_fab (s : State) (f n) : (s.count f n).fab = s.fab := rfl
@[simp] theorem State.count_bus (s : State) (f n) : (s.count f n).bus = s.bus := rfl
@[simp] theorem State.count_xing (s : State) (f n) : (s.count f n).xing = s.xing := rfl
@[simp] theorem State.count_irq (s : State) (f n) : (s.count f n).irq = s.irq := rfl
@[simp] theorem State.count_ain (s : State) (f n) : (s.count f n).ain = s.ain := rfl
@[simp] theorem State.count_phantom (s : State) (f n) : (s.count f n).phantom = s.phantom := rfl
@[simp] theorem State.count_aout (s : State) (f n) : (s.count f n).aout = s.aout := rfl
@[simp] theorem State.count_hp (s : State) (f n) : (s.count f n).hp = s.hp := rfl
@[simp] theorem State.count_psc (s : State) (f n) : (s.count f n).psc = s.psc := rfl
@[simp] theorem State.count_asrc (s : State) (f n) : (s.count f n).asrc = s.asrc := rfl
@[simp] theorem State.count_sap (s : State) (f n) : (s.count f n).sap = s.sap := rfl
@[simp] theorem State.count_stew (s : State) (f n) : (s.count f n).stew = s.stew := rfl
@[simp] theorem State.count_mbx (s : State) (f n) : (s.count f n).mbx = s.mbx := rfl
@[simp] theorem State.count_host (s : State) (f n) : (s.count f n).host = s.host := rfl
@[simp] theorem State.count_chain (s : State) (f n) : (s.count f n).chain = s.chain := rfl
@[simp] theorem State.count_lsn (s : State) (f n) : (s.count f n).lsn = s.lsn := rfl
@[simp] theorem State.count_gauge (s : State) (f n) : (s.count f n).gauge = s.gauge := rfl
@[simp] theorem State.count_ram (s : State) (f n) : (s.count f n).ram = s.ram := rfl
@[simp] theorem State.count_flash (s : State) (f n) : (s.count f n).flash = s.flash := rfl
@[simp] theorem State.count_sec (s : State) (f n) : (s.count f n).sec = s.sec := rfl
@[simp] theorem State.count_pwr (s : State) (f n) : (s.count f n).pwr = s.pwr := rfl
@[simp] theorem State.count_pending (s : State) (f n) : (s.count f n).pending = s.pending := rfl

/-! `setInt` replaces regs. -/

@[simp] theorem State.setInt_now (s : State) (f v) : (s.setInt f v).now = s.now := rfl
@[simp] theorem State.setInt_free (s : State) (f v) : (s.setInt f v).free = s.free := rfl
@[simp] theorem State.setInt_timers (s : State) (f v) : (s.setInt f v).timers = s.timers := rfl
@[simp] theorem State.setInt_tick (s : State) (f v) : (s.setInt f v).tick = s.tick := rfl
@[simp] theorem State.setInt_clk (s : State) (f v) : (s.setInt f v).clk = s.clk := rfl
@[simp] theorem State.setInt_fab (s : State) (f v) : (s.setInt f v).fab = s.fab := rfl
@[simp] theorem State.setInt_bus (s : State) (f v) : (s.setInt f v).bus = s.bus := rfl
@[simp] theorem State.setInt_xing (s : State) (f v) : (s.setInt f v).xing = s.xing := rfl
@[simp] theorem State.setInt_irq (s : State) (f v) : (s.setInt f v).irq = s.irq := rfl
@[simp] theorem State.setInt_ain (s : State) (f v) : (s.setInt f v).ain = s.ain := rfl
@[simp] theorem State.setInt_phantom (s : State) (f v) : (s.setInt f v).phantom = s.phantom := rfl
@[simp] theorem State.setInt_aout (s : State) (f v) : (s.setInt f v).aout = s.aout := rfl
@[simp] theorem State.setInt_hp (s : State) (f v) : (s.setInt f v).hp = s.hp := rfl
@[simp] theorem State.setInt_psc (s : State) (f v) : (s.setInt f v).psc = s.psc := rfl
@[simp] theorem State.setInt_asrc (s : State) (f v) : (s.setInt f v).asrc = s.asrc := rfl
@[simp] theorem State.setInt_sap (s : State) (f v) : (s.setInt f v).sap = s.sap := rfl
@[simp] theorem State.setInt_stew (s : State) (f v) : (s.setInt f v).stew = s.stew := rfl
@[simp] theorem State.setInt_mbx (s : State) (f v) : (s.setInt f v).mbx = s.mbx := rfl
@[simp] theorem State.setInt_host (s : State) (f v) : (s.setInt f v).host = s.host := rfl
@[simp] theorem State.setInt_chain (s : State) (f v) : (s.setInt f v).chain = s.chain := rfl
@[simp] theorem State.setInt_lsn (s : State) (f v) : (s.setInt f v).lsn = s.lsn := rfl
@[simp] theorem State.setInt_gauge (s : State) (f v) : (s.setInt f v).gauge = s.gauge := rfl
@[simp] theorem State.setInt_ram (s : State) (f v) : (s.setInt f v).ram = s.ram := rfl
@[simp] theorem State.setInt_flash (s : State) (f v) : (s.setInt f v).flash = s.flash := rfl
@[simp] theorem State.setInt_sec (s : State) (f v) : (s.setInt f v).sec = s.sec := rfl
@[simp] theorem State.setInt_pwr (s : State) (f v) : (s.setInt f v).pwr = s.pwr := rfl
@[simp] theorem State.setInt_pending (s : State) (f v) : (s.setInt f v).pending = s.pending := rfl

/-! `setBitAt` replaces regs. -/

@[simp] theorem State.setBitAt_now (s : State) (f i b) : (s.setBitAt f i b).now = s.now := rfl
@[simp] theorem State.setBitAt_free (s : State) (f i b) : (s.setBitAt f i b).free = s.free := rfl
@[simp] theorem State.setBitAt_timers (s : State) (f i b) : (s.setBitAt f i b).timers = s.timers := rfl
@[simp] theorem State.setBitAt_tick (s : State) (f i b) : (s.setBitAt f i b).tick = s.tick := rfl
@[simp] theorem State.setBitAt_clk (s : State) (f i b) : (s.setBitAt f i b).clk = s.clk := rfl
@[simp] theorem State.setBitAt_fab (s : State) (f i b) : (s.setBitAt f i b).fab = s.fab := rfl
@[simp] theorem State.setBitAt_bus (s : State) (f i b) : (s.setBitAt f i b).bus = s.bus := rfl
@[simp] theorem State.setBitAt_xing (s : State) (f i b) : (s.setBitAt f i b).xing = s.xing := rfl
@[simp] theorem State.setBitAt_irq (s : State) (f i b) : (s.setBitAt f i b).irq = s.irq := rfl
@[simp] theorem State.setBitAt_ain (s : State) (f i b) : (s.setBitAt f i b).ain = s.ain := rfl
@[simp] theorem State.setBitAt_phantom (s : State) (f i b) : (s.setBitAt f i b).phantom = s.phantom := rfl
@[simp] theorem State.setBitAt_aout (s : State) (f i b) : (s.setBitAt f i b).aout = s.aout := rfl
@[simp] theorem State.setBitAt_hp (s : State) (f i b) : (s.setBitAt f i b).hp = s.hp := rfl
@[simp] theorem State.setBitAt_psc (s : State) (f i b) : (s.setBitAt f i b).psc = s.psc := rfl
@[simp] theorem State.setBitAt_asrc (s : State) (f i b) : (s.setBitAt f i b).asrc = s.asrc := rfl
@[simp] theorem State.setBitAt_sap (s : State) (f i b) : (s.setBitAt f i b).sap = s.sap := rfl
@[simp] theorem State.setBitAt_stew (s : State) (f i b) : (s.setBitAt f i b).stew = s.stew := rfl
@[simp] theorem State.setBitAt_mbx (s : State) (f i b) : (s.setBitAt f i b).mbx = s.mbx := rfl
@[simp] theorem State.setBitAt_host (s : State) (f i b) : (s.setBitAt f i b).host = s.host := rfl
@[simp] theorem State.setBitAt_chain (s : State) (f i b) : (s.setBitAt f i b).chain = s.chain := rfl
@[simp] theorem State.setBitAt_lsn (s : State) (f i b) : (s.setBitAt f i b).lsn = s.lsn := rfl
@[simp] theorem State.setBitAt_gauge (s : State) (f i b) : (s.setBitAt f i b).gauge = s.gauge := rfl
@[simp] theorem State.setBitAt_ram (s : State) (f i b) : (s.setBitAt f i b).ram = s.ram := rfl
@[simp] theorem State.setBitAt_flash (s : State) (f i b) : (s.setBitAt f i b).flash = s.flash := rfl
@[simp] theorem State.setBitAt_sec (s : State) (f i b) : (s.setBitAt f i b).sec = s.sec := rfl
@[simp] theorem State.setBitAt_pwr (s : State) (f i b) : (s.setBitAt f i b).pwr = s.pwr := rfl
@[simp] theorem State.setBitAt_pending (s : State) (f i b) : (s.setBitAt f i b).pending = s.pending := rfl



/-! `drawn` replaces free. -/

@[simp] theorem State.drawn_regs (s : State) : (s.drawn).regs = s.regs := rfl
@[simp] theorem State.drawn_now (s : State) : (s.drawn).now = s.now := rfl
@[simp] theorem State.drawn_free (s : State) : (s.drawn).free = s.free + 1 := rfl
@[simp] theorem State.drawn_timers (s : State) : (s.drawn).timers = s.timers := rfl
@[simp] theorem State.drawn_tick (s : State) : (s.drawn).tick = s.tick := rfl
@[simp] theorem State.drawn_clk (s : State) : (s.drawn).clk = s.clk := rfl
@[simp] theorem State.drawn_fab (s : State) : (s.drawn).fab = s.fab := rfl
@[simp] theorem State.drawn_bus (s : State) : (s.drawn).bus = s.bus := rfl
@[simp] theorem State.drawn_xing (s : State) : (s.drawn).xing = s.xing := rfl
@[simp] theorem State.drawn_irq (s : State) : (s.drawn).irq = s.irq := rfl
@[simp] theorem State.drawn_ain (s : State) : (s.drawn).ain = s.ain := rfl
@[simp] theorem State.drawn_phantom (s : State) : (s.drawn).phantom = s.phantom := rfl
@[simp] theorem State.drawn_aout (s : State) : (s.drawn).aout = s.aout := rfl
@[simp] theorem State.drawn_hp (s : State) : (s.drawn).hp = s.hp := rfl
@[simp] theorem State.drawn_psc (s : State) : (s.drawn).psc = s.psc := rfl
@[simp] theorem State.drawn_asrc (s : State) : (s.drawn).asrc = s.asrc := rfl
@[simp] theorem State.drawn_sap (s : State) : (s.drawn).sap = s.sap := rfl
@[simp] theorem State.drawn_stew (s : State) : (s.drawn).stew = s.stew := rfl
@[simp] theorem State.drawn_mbx (s : State) : (s.drawn).mbx = s.mbx := rfl
@[simp] theorem State.drawn_host (s : State) : (s.drawn).host = s.host := rfl
@[simp] theorem State.drawn_chain (s : State) : (s.drawn).chain = s.chain := rfl
@[simp] theorem State.drawn_lsn (s : State) : (s.drawn).lsn = s.lsn := rfl
@[simp] theorem State.drawn_gauge (s : State) : (s.drawn).gauge = s.gauge := rfl
@[simp] theorem State.drawn_ram (s : State) : (s.drawn).ram = s.ram := rfl
@[simp] theorem State.drawn_flash (s : State) : (s.drawn).flash = s.flash := rfl
@[simp] theorem State.drawn_sec (s : State) : (s.drawn).sec = s.sec := rfl
@[simp] theorem State.drawn_pwr (s : State) : (s.drawn).pwr = s.pwr := rfl
@[simp] theorem State.drawn_pending (s : State) : (s.drawn).pending = s.pending := rfl
@[simp] theorem State.drawn_word (s : State) (r) : (s.drawn).word r = s.word r := rfl
@[simp] theorem State.drawn_get (s : State) (r) : (s.drawn).get r = s.get r := rfl

/-! `startTimer` replaces timers. -/

@[simp] theorem State.startTimer_regs (s : State) (t) : (s.startTimer t).regs = s.regs := rfl
@[simp] theorem State.startTimer_now (s : State) (t) : (s.startTimer t).now = s.now := rfl
@[simp] theorem State.startTimer_free (s : State) (t) : (s.startTimer t).free = s.free := rfl
@[simp] theorem State.startTimer_timers (s : State) (t) : (s.startTimer t).timers = tabPut (fun _ => 0) s.timers t (s.now + 1) := rfl
@[simp] theorem State.startTimer_tick (s : State) (t) : (s.startTimer t).tick = s.tick := rfl
@[simp] theorem State.startTimer_clk (s : State) (t) : (s.startTimer t).clk = s.clk := rfl
@[simp] theorem State.startTimer_fab (s : State) (t) : (s.startTimer t).fab = s.fab := rfl
@[simp] theorem State.startTimer_bus (s : State) (t) : (s.startTimer t).bus = s.bus := rfl
@[simp] theorem State.startTimer_xing (s : State) (t) : (s.startTimer t).xing = s.xing := rfl
@[simp] theorem State.startTimer_irq (s : State) (t) : (s.startTimer t).irq = s.irq := rfl
@[simp] theorem State.startTimer_ain (s : State) (t) : (s.startTimer t).ain = s.ain := rfl
@[simp] theorem State.startTimer_phantom (s : State) (t) : (s.startTimer t).phantom = s.phantom := rfl
@[simp] theorem State.startTimer_aout (s : State) (t) : (s.startTimer t).aout = s.aout := rfl
@[simp] theorem State.startTimer_hp (s : State) (t) : (s.startTimer t).hp = s.hp := rfl
@[simp] theorem State.startTimer_psc (s : State) (t) : (s.startTimer t).psc = s.psc := rfl
@[simp] theorem State.startTimer_asrc (s : State) (t) : (s.startTimer t).asrc = s.asrc := rfl
@[simp] theorem State.startTimer_sap (s : State) (t) : (s.startTimer t).sap = s.sap := rfl
@[simp] theorem State.startTimer_stew (s : State) (t) : (s.startTimer t).stew = s.stew := rfl
@[simp] theorem State.startTimer_mbx (s : State) (t) : (s.startTimer t).mbx = s.mbx := rfl
@[simp] theorem State.startTimer_host (s : State) (t) : (s.startTimer t).host = s.host := rfl
@[simp] theorem State.startTimer_chain (s : State) (t) : (s.startTimer t).chain = s.chain := rfl
@[simp] theorem State.startTimer_lsn (s : State) (t) : (s.startTimer t).lsn = s.lsn := rfl
@[simp] theorem State.startTimer_gauge (s : State) (t) : (s.startTimer t).gauge = s.gauge := rfl
@[simp] theorem State.startTimer_ram (s : State) (t) : (s.startTimer t).ram = s.ram := rfl
@[simp] theorem State.startTimer_flash (s : State) (t) : (s.startTimer t).flash = s.flash := rfl
@[simp] theorem State.startTimer_sec (s : State) (t) : (s.startTimer t).sec = s.sec := rfl
@[simp] theorem State.startTimer_pwr (s : State) (t) : (s.startTimer t).pwr = s.pwr := rfl
@[simp] theorem State.startTimer_pending (s : State) (t) : (s.startTimer t).pending = s.pending := rfl
@[simp] theorem State.startTimer_word (s : State) (t) (r) : (s.startTimer t).word r = s.word r := rfl
@[simp] theorem State.startTimer_get (s : State) (t) (r) : (s.startTimer t).get r = s.get r := rfl

/-! `stopTimer` replaces timers. -/

@[simp] theorem State.stopTimer_regs (s : State) (t) : (s.stopTimer t).regs = s.regs := rfl
@[simp] theorem State.stopTimer_now (s : State) (t) : (s.stopTimer t).now = s.now := rfl
@[simp] theorem State.stopTimer_free (s : State) (t) : (s.stopTimer t).free = s.free := rfl
@[simp] theorem State.stopTimer_timers (s : State) (t) : (s.stopTimer t).timers = tabPut (fun _ => 0) s.timers t 0 := rfl
@[simp] theorem State.stopTimer_tick (s : State) (t) : (s.stopTimer t).tick = s.tick := rfl
@[simp] theorem State.stopTimer_clk (s : State) (t) : (s.stopTimer t).clk = s.clk := rfl
@[simp] theorem State.stopTimer_fab (s : State) (t) : (s.stopTimer t).fab = s.fab := rfl
@[simp] theorem State.stopTimer_bus (s : State) (t) : (s.stopTimer t).bus = s.bus := rfl
@[simp] theorem State.stopTimer_xing (s : State) (t) : (s.stopTimer t).xing = s.xing := rfl
@[simp] theorem State.stopTimer_irq (s : State) (t) : (s.stopTimer t).irq = s.irq := rfl
@[simp] theorem State.stopTimer_ain (s : State) (t) : (s.stopTimer t).ain = s.ain := rfl
@[simp] theorem State.stopTimer_phantom (s : State) (t) : (s.stopTimer t).phantom = s.phantom := rfl
@[simp] theorem State.stopTimer_aout (s : State) (t) : (s.stopTimer t).aout = s.aout := rfl
@[simp] theorem State.stopTimer_hp (s : State) (t) : (s.stopTimer t).hp = s.hp := rfl
@[simp] theorem State.stopTimer_psc (s : State) (t) : (s.stopTimer t).psc = s.psc := rfl
@[simp] theorem State.stopTimer_asrc (s : State) (t) : (s.stopTimer t).asrc = s.asrc := rfl
@[simp] theorem State.stopTimer_sap (s : State) (t) : (s.stopTimer t).sap = s.sap := rfl
@[simp] theorem State.stopTimer_stew (s : State) (t) : (s.stopTimer t).stew = s.stew := rfl
@[simp] theorem State.stopTimer_mbx (s : State) (t) : (s.stopTimer t).mbx = s.mbx := rfl
@[simp] theorem State.stopTimer_host (s : State) (t) : (s.stopTimer t).host = s.host := rfl
@[simp] theorem State.stopTimer_chain (s : State) (t) : (s.stopTimer t).chain = s.chain := rfl
@[simp] theorem State.stopTimer_lsn (s : State) (t) : (s.stopTimer t).lsn = s.lsn := rfl
@[simp] theorem State.stopTimer_gauge (s : State) (t) : (s.stopTimer t).gauge = s.gauge := rfl
@[simp] theorem State.stopTimer_ram (s : State) (t) : (s.stopTimer t).ram = s.ram := rfl
@[simp] theorem State.stopTimer_flash (s : State) (t) : (s.stopTimer t).flash = s.flash := rfl
@[simp] theorem State.stopTimer_sec (s : State) (t) : (s.stopTimer t).sec = s.sec := rfl
@[simp] theorem State.stopTimer_pwr (s : State) (t) : (s.stopTimer t).pwr = s.pwr := rfl
@[simp] theorem State.stopTimer_pending (s : State) (t) : (s.stopTimer t).pending = s.pending := rfl
@[simp] theorem State.stopTimer_word (s : State) (t) (r) : (s.stopTimer t).word r = s.word r := rfl
@[simp] theorem State.stopTimer_get (s : State) (t) (r) : (s.stopTimer t).get r = s.get r := rfl

/-! `setTick` replaces tick. -/

@[simp] theorem State.setTick_regs (s : State) (x) : (s.setTick x).regs = s.regs := rfl
@[simp] theorem State.setTick_now (s : State) (x) : (s.setTick x).now = s.now := rfl
@[simp] theorem State.setTick_free (s : State) (x) : (s.setTick x).free = s.free := rfl
@[simp] theorem State.setTick_timers (s : State) (x) : (s.setTick x).timers = s.timers := rfl
@[simp] theorem State.setTick_tick (s : State) (x) : (s.setTick x).tick = x := rfl
@[simp] theorem State.setTick_clk (s : State) (x) : (s.setTick x).clk = s.clk := rfl
@[simp] theorem State.setTick_fab (s : State) (x) : (s.setTick x).fab = s.fab := rfl
@[simp] theorem State.setTick_bus (s : State) (x) : (s.setTick x).bus = s.bus := rfl
@[simp] theorem State.setTick_xing (s : State) (x) : (s.setTick x).xing = s.xing := rfl
@[simp] theorem State.setTick_irq (s : State) (x) : (s.setTick x).irq = s.irq := rfl
@[simp] theorem State.setTick_ain (s : State) (x) : (s.setTick x).ain = s.ain := rfl
@[simp] theorem State.setTick_phantom (s : State) (x) : (s.setTick x).phantom = s.phantom := rfl
@[simp] theorem State.setTick_aout (s : State) (x) : (s.setTick x).aout = s.aout := rfl
@[simp] theorem State.setTick_hp (s : State) (x) : (s.setTick x).hp = s.hp := rfl
@[simp] theorem State.setTick_psc (s : State) (x) : (s.setTick x).psc = s.psc := rfl
@[simp] theorem State.setTick_asrc (s : State) (x) : (s.setTick x).asrc = s.asrc := rfl
@[simp] theorem State.setTick_sap (s : State) (x) : (s.setTick x).sap = s.sap := rfl
@[simp] theorem State.setTick_stew (s : State) (x) : (s.setTick x).stew = s.stew := rfl
@[simp] theorem State.setTick_mbx (s : State) (x) : (s.setTick x).mbx = s.mbx := rfl
@[simp] theorem State.setTick_host (s : State) (x) : (s.setTick x).host = s.host := rfl
@[simp] theorem State.setTick_chain (s : State) (x) : (s.setTick x).chain = s.chain := rfl
@[simp] theorem State.setTick_lsn (s : State) (x) : (s.setTick x).lsn = s.lsn := rfl
@[simp] theorem State.setTick_gauge (s : State) (x) : (s.setTick x).gauge = s.gauge := rfl
@[simp] theorem State.setTick_ram (s : State) (x) : (s.setTick x).ram = s.ram := rfl
@[simp] theorem State.setTick_flash (s : State) (x) : (s.setTick x).flash = s.flash := rfl
@[simp] theorem State.setTick_sec (s : State) (x) : (s.setTick x).sec = s.sec := rfl
@[simp] theorem State.setTick_pwr (s : State) (x) : (s.setTick x).pwr = s.pwr := rfl
@[simp] theorem State.setTick_pending (s : State) (x) : (s.setTick x).pending = s.pending := rfl
@[simp] theorem State.setTick_word (s : State) (x) (r) : (s.setTick x).word r = s.word r := rfl
@[simp] theorem State.setTick_get (s : State) (x) (r) : (s.setTick x).get r = s.get r := rfl

/-! `setClk` replaces clk. -/

@[simp] theorem State.setClk_regs (s : State) (x) : (s.setClk x).regs = s.regs := rfl
@[simp] theorem State.setClk_now (s : State) (x) : (s.setClk x).now = s.now := rfl
@[simp] theorem State.setClk_free (s : State) (x) : (s.setClk x).free = s.free := rfl
@[simp] theorem State.setClk_timers (s : State) (x) : (s.setClk x).timers = s.timers := rfl
@[simp] theorem State.setClk_tick (s : State) (x) : (s.setClk x).tick = s.tick := rfl
@[simp] theorem State.setClk_clk (s : State) (x) : (s.setClk x).clk = x := rfl
@[simp] theorem State.setClk_fab (s : State) (x) : (s.setClk x).fab = s.fab := rfl
@[simp] theorem State.setClk_bus (s : State) (x) : (s.setClk x).bus = s.bus := rfl
@[simp] theorem State.setClk_xing (s : State) (x) : (s.setClk x).xing = s.xing := rfl
@[simp] theorem State.setClk_irq (s : State) (x) : (s.setClk x).irq = s.irq := rfl
@[simp] theorem State.setClk_ain (s : State) (x) : (s.setClk x).ain = s.ain := rfl
@[simp] theorem State.setClk_phantom (s : State) (x) : (s.setClk x).phantom = s.phantom := rfl
@[simp] theorem State.setClk_aout (s : State) (x) : (s.setClk x).aout = s.aout := rfl
@[simp] theorem State.setClk_hp (s : State) (x) : (s.setClk x).hp = s.hp := rfl
@[simp] theorem State.setClk_psc (s : State) (x) : (s.setClk x).psc = s.psc := rfl
@[simp] theorem State.setClk_asrc (s : State) (x) : (s.setClk x).asrc = s.asrc := rfl
@[simp] theorem State.setClk_sap (s : State) (x) : (s.setClk x).sap = s.sap := rfl
@[simp] theorem State.setClk_stew (s : State) (x) : (s.setClk x).stew = s.stew := rfl
@[simp] theorem State.setClk_mbx (s : State) (x) : (s.setClk x).mbx = s.mbx := rfl
@[simp] theorem State.setClk_host (s : State) (x) : (s.setClk x).host = s.host := rfl
@[simp] theorem State.setClk_chain (s : State) (x) : (s.setClk x).chain = s.chain := rfl
@[simp] theorem State.setClk_lsn (s : State) (x) : (s.setClk x).lsn = s.lsn := rfl
@[simp] theorem State.setClk_gauge (s : State) (x) : (s.setClk x).gauge = s.gauge := rfl
@[simp] theorem State.setClk_ram (s : State) (x) : (s.setClk x).ram = s.ram := rfl
@[simp] theorem State.setClk_flash (s : State) (x) : (s.setClk x).flash = s.flash := rfl
@[simp] theorem State.setClk_sec (s : State) (x) : (s.setClk x).sec = s.sec := rfl
@[simp] theorem State.setClk_pwr (s : State) (x) : (s.setClk x).pwr = s.pwr := rfl
@[simp] theorem State.setClk_pending (s : State) (x) : (s.setClk x).pending = s.pending := rfl
@[simp] theorem State.setClk_word (s : State) (x) (r) : (s.setClk x).word r = s.word r := rfl
@[simp] theorem State.setClk_get (s : State) (x) (r) : (s.setClk x).get r = s.get r := rfl

/-! `setFab` replaces fab. -/

@[simp] theorem State.setFab_regs (s : State) (x) : (s.setFab x).regs = s.regs := rfl
@[simp] theorem State.setFab_now (s : State) (x) : (s.setFab x).now = s.now := rfl
@[simp] theorem State.setFab_free (s : State) (x) : (s.setFab x).free = s.free := rfl
@[simp] theorem State.setFab_timers (s : State) (x) : (s.setFab x).timers = s.timers := rfl
@[simp] theorem State.setFab_tick (s : State) (x) : (s.setFab x).tick = s.tick := rfl
@[simp] theorem State.setFab_clk (s : State) (x) : (s.setFab x).clk = s.clk := rfl
@[simp] theorem State.setFab_fab (s : State) (x) : (s.setFab x).fab = x := rfl
@[simp] theorem State.setFab_bus (s : State) (x) : (s.setFab x).bus = s.bus := rfl
@[simp] theorem State.setFab_xing (s : State) (x) : (s.setFab x).xing = s.xing := rfl
@[simp] theorem State.setFab_irq (s : State) (x) : (s.setFab x).irq = s.irq := rfl
@[simp] theorem State.setFab_ain (s : State) (x) : (s.setFab x).ain = s.ain := rfl
@[simp] theorem State.setFab_phantom (s : State) (x) : (s.setFab x).phantom = s.phantom := rfl
@[simp] theorem State.setFab_aout (s : State) (x) : (s.setFab x).aout = s.aout := rfl
@[simp] theorem State.setFab_hp (s : State) (x) : (s.setFab x).hp = s.hp := rfl
@[simp] theorem State.setFab_psc (s : State) (x) : (s.setFab x).psc = s.psc := rfl
@[simp] theorem State.setFab_asrc (s : State) (x) : (s.setFab x).asrc = s.asrc := rfl
@[simp] theorem State.setFab_sap (s : State) (x) : (s.setFab x).sap = s.sap := rfl
@[simp] theorem State.setFab_stew (s : State) (x) : (s.setFab x).stew = s.stew := rfl
@[simp] theorem State.setFab_mbx (s : State) (x) : (s.setFab x).mbx = s.mbx := rfl
@[simp] theorem State.setFab_host (s : State) (x) : (s.setFab x).host = s.host := rfl
@[simp] theorem State.setFab_chain (s : State) (x) : (s.setFab x).chain = s.chain := rfl
@[simp] theorem State.setFab_lsn (s : State) (x) : (s.setFab x).lsn = s.lsn := rfl
@[simp] theorem State.setFab_gauge (s : State) (x) : (s.setFab x).gauge = s.gauge := rfl
@[simp] theorem State.setFab_ram (s : State) (x) : (s.setFab x).ram = s.ram := rfl
@[simp] theorem State.setFab_flash (s : State) (x) : (s.setFab x).flash = s.flash := rfl
@[simp] theorem State.setFab_sec (s : State) (x) : (s.setFab x).sec = s.sec := rfl
@[simp] theorem State.setFab_pwr (s : State) (x) : (s.setFab x).pwr = s.pwr := rfl
@[simp] theorem State.setFab_pending (s : State) (x) : (s.setFab x).pending = s.pending := rfl
@[simp] theorem State.setFab_word (s : State) (x) (r) : (s.setFab x).word r = s.word r := rfl
@[simp] theorem State.setFab_get (s : State) (x) (r) : (s.setFab x).get r = s.get r := rfl

/-! `onBus` replaces bus. -/

@[simp] theorem State.onBus_regs (s : State) (data last) : (s.onBus data last).regs = s.regs := rfl
@[simp] theorem State.onBus_now (s : State) (data last) : (s.onBus data last).now = s.now := rfl
@[simp] theorem State.onBus_free (s : State) (data last) : (s.onBus data last).free = s.free := rfl
@[simp] theorem State.onBus_timers (s : State) (data last) : (s.onBus data last).timers = s.timers := rfl
@[simp] theorem State.onBus_tick (s : State) (data last) : (s.onBus data last).tick = s.tick := rfl
@[simp] theorem State.onBus_clk (s : State) (data last) : (s.onBus data last).clk = s.clk := rfl
@[simp] theorem State.onBus_fab (s : State) (data last) : (s.onBus data last).fab = s.fab := rfl
@[simp] theorem State.onBus_bus (s : State) (data last) : (s.onBus data last).bus = { s.bus with data := data, last := last } := rfl
@[simp] theorem State.onBus_xing (s : State) (data last) : (s.onBus data last).xing = s.xing := rfl
@[simp] theorem State.onBus_irq (s : State) (data last) : (s.onBus data last).irq = s.irq := rfl
@[simp] theorem State.onBus_ain (s : State) (data last) : (s.onBus data last).ain = s.ain := rfl
@[simp] theorem State.onBus_phantom (s : State) (data last) : (s.onBus data last).phantom = s.phantom := rfl
@[simp] theorem State.onBus_aout (s : State) (data last) : (s.onBus data last).aout = s.aout := rfl
@[simp] theorem State.onBus_hp (s : State) (data last) : (s.onBus data last).hp = s.hp := rfl
@[simp] theorem State.onBus_psc (s : State) (data last) : (s.onBus data last).psc = s.psc := rfl
@[simp] theorem State.onBus_asrc (s : State) (data last) : (s.onBus data last).asrc = s.asrc := rfl
@[simp] theorem State.onBus_sap (s : State) (data last) : (s.onBus data last).sap = s.sap := rfl
@[simp] theorem State.onBus_stew (s : State) (data last) : (s.onBus data last).stew = s.stew := rfl
@[simp] theorem State.onBus_mbx (s : State) (data last) : (s.onBus data last).mbx = s.mbx := rfl
@[simp] theorem State.onBus_host (s : State) (data last) : (s.onBus data last).host = s.host := rfl
@[simp] theorem State.onBus_chain (s : State) (data last) : (s.onBus data last).chain = s.chain := rfl
@[simp] theorem State.onBus_lsn (s : State) (data last) : (s.onBus data last).lsn = s.lsn := rfl
@[simp] theorem State.onBus_gauge (s : State) (data last) : (s.onBus data last).gauge = s.gauge := rfl
@[simp] theorem State.onBus_ram (s : State) (data last) : (s.onBus data last).ram = s.ram := rfl
@[simp] theorem State.onBus_flash (s : State) (data last) : (s.onBus data last).flash = s.flash := rfl
@[simp] theorem State.onBus_sec (s : State) (data last) : (s.onBus data last).sec = s.sec := rfl
@[simp] theorem State.onBus_pwr (s : State) (data last) : (s.onBus data last).pwr = s.pwr := rfl
@[simp] theorem State.onBus_pending (s : State) (data last) : (s.onBus data last).pending = s.pending := rfl
@[simp] theorem State.onBus_word (s : State) (data last) (r) : (s.onBus data last).word r = s.word r := rfl
@[simp] theorem State.onBus_get (s : State) (data last) (r) : (s.onBus data last).get r = s.get r := rfl

/-! `setXing` replaces xing, and LEVEL shows it. -/

@[simp] theorem State.setXing_regs (s : State) (n x) : (s.setXing n x).regs = (s.set (Reg.XING_STAT.LEVEL n) x.words.length).regs := rfl
@[simp] theorem State.setXing_now (s : State) (n x) : (s.setXing n x).now = s.now := rfl
@[simp] theorem State.setXing_free (s : State) (n x) : (s.setXing n x).free = s.free := rfl
@[simp] theorem State.setXing_timers (s : State) (n x) : (s.setXing n x).timers = s.timers := rfl
@[simp] theorem State.setXing_tick (s : State) (n x) : (s.setXing n x).tick = s.tick := rfl
@[simp] theorem State.setXing_clk (s : State) (n x) : (s.setXing n x).clk = s.clk := rfl
@[simp] theorem State.setXing_fab (s : State) (n x) : (s.setXing n x).fab = s.fab := rfl
@[simp] theorem State.setXing_bus (s : State) (n x) : (s.setXing n x).bus = s.bus := rfl
@[simp] theorem State.setXing_xing (s : State) (n x) : (s.setXing n x).xing = tabPut (fun _ => {}) s.xing n x := rfl
@[simp] theorem State.setXing_irq (s : State) (n x) : (s.setXing n x).irq = s.irq := rfl
@[simp] theorem State.setXing_ain (s : State) (n x) : (s.setXing n x).ain = s.ain := rfl
@[simp] theorem State.setXing_phantom (s : State) (n x) : (s.setXing n x).phantom = s.phantom := rfl
@[simp] theorem State.setXing_aout (s : State) (n x) : (s.setXing n x).aout = s.aout := rfl
@[simp] theorem State.setXing_hp (s : State) (n x) : (s.setXing n x).hp = s.hp := rfl
@[simp] theorem State.setXing_psc (s : State) (n x) : (s.setXing n x).psc = s.psc := rfl
@[simp] theorem State.setXing_asrc (s : State) (n x) : (s.setXing n x).asrc = s.asrc := rfl
@[simp] theorem State.setXing_sap (s : State) (n x) : (s.setXing n x).sap = s.sap := rfl
@[simp] theorem State.setXing_stew (s : State) (n x) : (s.setXing n x).stew = s.stew := rfl
@[simp] theorem State.setXing_mbx (s : State) (n x) : (s.setXing n x).mbx = s.mbx := rfl
@[simp] theorem State.setXing_host (s : State) (n x) : (s.setXing n x).host = s.host := rfl
@[simp] theorem State.setXing_chain (s : State) (n x) : (s.setXing n x).chain = s.chain := rfl
@[simp] theorem State.setXing_lsn (s : State) (n x) : (s.setXing n x).lsn = s.lsn := rfl
@[simp] theorem State.setXing_gauge (s : State) (n x) : (s.setXing n x).gauge = s.gauge := rfl
@[simp] theorem State.setXing_ram (s : State) (n x) : (s.setXing n x).ram = s.ram := rfl
@[simp] theorem State.setXing_flash (s : State) (n x) : (s.setXing n x).flash = s.flash := rfl
@[simp] theorem State.setXing_sec (s : State) (n x) : (s.setXing n x).sec = s.sec := rfl
@[simp] theorem State.setXing_pwr (s : State) (n x) : (s.setXing n x).pwr = s.pwr := rfl
@[simp] theorem State.setXing_pending (s : State) (n x) : (s.setXing n x).pending = s.pending := rfl

/-! `setIrq` replaces irq. -/

@[simp] theorem State.setIrq_regs (s : State) (x) : (s.setIrq x).regs = s.regs := rfl
@[simp] theorem State.setIrq_now (s : State) (x) : (s.setIrq x).now = s.now := rfl
@[simp] theorem State.setIrq_free (s : State) (x) : (s.setIrq x).free = s.free := rfl
@[simp] theorem State.setIrq_timers (s : State) (x) : (s.setIrq x).timers = s.timers := rfl
@[simp] theorem State.setIrq_tick (s : State) (x) : (s.setIrq x).tick = s.tick := rfl
@[simp] theorem State.setIrq_clk (s : State) (x) : (s.setIrq x).clk = s.clk := rfl
@[simp] theorem State.setIrq_fab (s : State) (x) : (s.setIrq x).fab = s.fab := rfl
@[simp] theorem State.setIrq_bus (s : State) (x) : (s.setIrq x).bus = s.bus := rfl
@[simp] theorem State.setIrq_xing (s : State) (x) : (s.setIrq x).xing = s.xing := rfl
@[simp] theorem State.setIrq_irq (s : State) (x) : (s.setIrq x).irq = x := rfl
@[simp] theorem State.setIrq_ain (s : State) (x) : (s.setIrq x).ain = s.ain := rfl
@[simp] theorem State.setIrq_phantom (s : State) (x) : (s.setIrq x).phantom = s.phantom := rfl
@[simp] theorem State.setIrq_aout (s : State) (x) : (s.setIrq x).aout = s.aout := rfl
@[simp] theorem State.setIrq_hp (s : State) (x) : (s.setIrq x).hp = s.hp := rfl
@[simp] theorem State.setIrq_psc (s : State) (x) : (s.setIrq x).psc = s.psc := rfl
@[simp] theorem State.setIrq_asrc (s : State) (x) : (s.setIrq x).asrc = s.asrc := rfl
@[simp] theorem State.setIrq_sap (s : State) (x) : (s.setIrq x).sap = s.sap := rfl
@[simp] theorem State.setIrq_stew (s : State) (x) : (s.setIrq x).stew = s.stew := rfl
@[simp] theorem State.setIrq_mbx (s : State) (x) : (s.setIrq x).mbx = s.mbx := rfl
@[simp] theorem State.setIrq_host (s : State) (x) : (s.setIrq x).host = s.host := rfl
@[simp] theorem State.setIrq_chain (s : State) (x) : (s.setIrq x).chain = s.chain := rfl
@[simp] theorem State.setIrq_lsn (s : State) (x) : (s.setIrq x).lsn = s.lsn := rfl
@[simp] theorem State.setIrq_gauge (s : State) (x) : (s.setIrq x).gauge = s.gauge := rfl
@[simp] theorem State.setIrq_ram (s : State) (x) : (s.setIrq x).ram = s.ram := rfl
@[simp] theorem State.setIrq_flash (s : State) (x) : (s.setIrq x).flash = s.flash := rfl
@[simp] theorem State.setIrq_sec (s : State) (x) : (s.setIrq x).sec = s.sec := rfl
@[simp] theorem State.setIrq_pwr (s : State) (x) : (s.setIrq x).pwr = s.pwr := rfl
@[simp] theorem State.setIrq_pending (s : State) (x) : (s.setIrq x).pending = s.pending := rfl
@[simp] theorem State.setIrq_word (s : State) (x) (r) : (s.setIrq x).word r = s.word r := rfl
@[simp] theorem State.setIrq_get (s : State) (x) (r) : (s.setIrq x).get r = s.get r := rfl

/-! `setStew` replaces stew. -/

@[simp] theorem State.setStew_regs (s : State) (x) : (s.setStew x).regs = s.regs := rfl
@[simp] theorem State.setStew_now (s : State) (x) : (s.setStew x).now = s.now := rfl
@[simp] theorem State.setStew_free (s : State) (x) : (s.setStew x).free = s.free := rfl
@[simp] theorem State.setStew_timers (s : State) (x) : (s.setStew x).timers = s.timers := rfl
@[simp] theorem State.setStew_tick (s : State) (x) : (s.setStew x).tick = s.tick := rfl
@[simp] theorem State.setStew_clk (s : State) (x) : (s.setStew x).clk = s.clk := rfl
@[simp] theorem State.setStew_fab (s : State) (x) : (s.setStew x).fab = s.fab := rfl
@[simp] theorem State.setStew_bus (s : State) (x) : (s.setStew x).bus = s.bus := rfl
@[simp] theorem State.setStew_xing (s : State) (x) : (s.setStew x).xing = s.xing := rfl
@[simp] theorem State.setStew_irq (s : State) (x) : (s.setStew x).irq = s.irq := rfl
@[simp] theorem State.setStew_ain (s : State) (x) : (s.setStew x).ain = s.ain := rfl
@[simp] theorem State.setStew_phantom (s : State) (x) : (s.setStew x).phantom = s.phantom := rfl
@[simp] theorem State.setStew_aout (s : State) (x) : (s.setStew x).aout = s.aout := rfl
@[simp] theorem State.setStew_hp (s : State) (x) : (s.setStew x).hp = s.hp := rfl
@[simp] theorem State.setStew_psc (s : State) (x) : (s.setStew x).psc = s.psc := rfl
@[simp] theorem State.setStew_asrc (s : State) (x) : (s.setStew x).asrc = s.asrc := rfl
@[simp] theorem State.setStew_sap (s : State) (x) : (s.setStew x).sap = s.sap := rfl
@[simp] theorem State.setStew_stew (s : State) (x) : (s.setStew x).stew = x := rfl
@[simp] theorem State.setStew_mbx (s : State) (x) : (s.setStew x).mbx = s.mbx := rfl
@[simp] theorem State.setStew_host (s : State) (x) : (s.setStew x).host = s.host := rfl
@[simp] theorem State.setStew_chain (s : State) (x) : (s.setStew x).chain = s.chain := rfl
@[simp] theorem State.setStew_lsn (s : State) (x) : (s.setStew x).lsn = s.lsn := rfl
@[simp] theorem State.setStew_gauge (s : State) (x) : (s.setStew x).gauge = s.gauge := rfl
@[simp] theorem State.setStew_ram (s : State) (x) : (s.setStew x).ram = s.ram := rfl
@[simp] theorem State.setStew_flash (s : State) (x) : (s.setStew x).flash = s.flash := rfl
@[simp] theorem State.setStew_sec (s : State) (x) : (s.setStew x).sec = s.sec := rfl
@[simp] theorem State.setStew_pwr (s : State) (x) : (s.setStew x).pwr = s.pwr := rfl
@[simp] theorem State.setStew_pending (s : State) (x) : (s.setStew x).pending = s.pending := rfl
@[simp] theorem State.setStew_word (s : State) (x) (r) : (s.setStew x).word r = s.word r := rfl
@[simp] theorem State.setStew_get (s : State) (x) (r) : (s.setStew x).get r = s.get r := rfl

/-! `setMbx` replaces mbx. -/

@[simp] theorem State.setMbx_regs (s : State) (x) : (s.setMbx x).regs = s.regs := rfl
@[simp] theorem State.setMbx_now (s : State) (x) : (s.setMbx x).now = s.now := rfl
@[simp] theorem State.setMbx_free (s : State) (x) : (s.setMbx x).free = s.free := rfl
@[simp] theorem State.setMbx_timers (s : State) (x) : (s.setMbx x).timers = s.timers := rfl
@[simp] theorem State.setMbx_tick (s : State) (x) : (s.setMbx x).tick = s.tick := rfl
@[simp] theorem State.setMbx_clk (s : State) (x) : (s.setMbx x).clk = s.clk := rfl
@[simp] theorem State.setMbx_fab (s : State) (x) : (s.setMbx x).fab = s.fab := rfl
@[simp] theorem State.setMbx_bus (s : State) (x) : (s.setMbx x).bus = s.bus := rfl
@[simp] theorem State.setMbx_xing (s : State) (x) : (s.setMbx x).xing = s.xing := rfl
@[simp] theorem State.setMbx_irq (s : State) (x) : (s.setMbx x).irq = s.irq := rfl
@[simp] theorem State.setMbx_ain (s : State) (x) : (s.setMbx x).ain = s.ain := rfl
@[simp] theorem State.setMbx_phantom (s : State) (x) : (s.setMbx x).phantom = s.phantom := rfl
@[simp] theorem State.setMbx_aout (s : State) (x) : (s.setMbx x).aout = s.aout := rfl
@[simp] theorem State.setMbx_hp (s : State) (x) : (s.setMbx x).hp = s.hp := rfl
@[simp] theorem State.setMbx_psc (s : State) (x) : (s.setMbx x).psc = s.psc := rfl
@[simp] theorem State.setMbx_asrc (s : State) (x) : (s.setMbx x).asrc = s.asrc := rfl
@[simp] theorem State.setMbx_sap (s : State) (x) : (s.setMbx x).sap = s.sap := rfl
@[simp] theorem State.setMbx_stew (s : State) (x) : (s.setMbx x).stew = s.stew := rfl
@[simp] theorem State.setMbx_mbx (s : State) (x) : (s.setMbx x).mbx = x := rfl
@[simp] theorem State.setMbx_host (s : State) (x) : (s.setMbx x).host = s.host := rfl
@[simp] theorem State.setMbx_chain (s : State) (x) : (s.setMbx x).chain = s.chain := rfl
@[simp] theorem State.setMbx_lsn (s : State) (x) : (s.setMbx x).lsn = s.lsn := rfl
@[simp] theorem State.setMbx_gauge (s : State) (x) : (s.setMbx x).gauge = s.gauge := rfl
@[simp] theorem State.setMbx_ram (s : State) (x) : (s.setMbx x).ram = s.ram := rfl
@[simp] theorem State.setMbx_flash (s : State) (x) : (s.setMbx x).flash = s.flash := rfl
@[simp] theorem State.setMbx_sec (s : State) (x) : (s.setMbx x).sec = s.sec := rfl
@[simp] theorem State.setMbx_pwr (s : State) (x) : (s.setMbx x).pwr = s.pwr := rfl
@[simp] theorem State.setMbx_pending (s : State) (x) : (s.setMbx x).pending = s.pending := rfl
@[simp] theorem State.setMbx_word (s : State) (x) (r) : (s.setMbx x).word r = s.word r := rfl
@[simp] theorem State.setMbx_get (s : State) (x) (r) : (s.setMbx x).get r = s.get r := rfl

/-! `setHost` replaces host. -/

@[simp] theorem State.setHost_regs (s : State) (x) : (s.setHost x).regs = s.regs := rfl
@[simp] theorem State.setHost_now (s : State) (x) : (s.setHost x).now = s.now := rfl
@[simp] theorem State.setHost_free (s : State) (x) : (s.setHost x).free = s.free := rfl
@[simp] theorem State.setHost_timers (s : State) (x) : (s.setHost x).timers = s.timers := rfl
@[simp] theorem State.setHost_tick (s : State) (x) : (s.setHost x).tick = s.tick := rfl
@[simp] theorem State.setHost_clk (s : State) (x) : (s.setHost x).clk = s.clk := rfl
@[simp] theorem State.setHost_fab (s : State) (x) : (s.setHost x).fab = s.fab := rfl
@[simp] theorem State.setHost_bus (s : State) (x) : (s.setHost x).bus = s.bus := rfl
@[simp] theorem State.setHost_xing (s : State) (x) : (s.setHost x).xing = s.xing := rfl
@[simp] theorem State.setHost_irq (s : State) (x) : (s.setHost x).irq = s.irq := rfl
@[simp] theorem State.setHost_ain (s : State) (x) : (s.setHost x).ain = s.ain := rfl
@[simp] theorem State.setHost_phantom (s : State) (x) : (s.setHost x).phantom = s.phantom := rfl
@[simp] theorem State.setHost_aout (s : State) (x) : (s.setHost x).aout = s.aout := rfl
@[simp] theorem State.setHost_hp (s : State) (x) : (s.setHost x).hp = s.hp := rfl
@[simp] theorem State.setHost_psc (s : State) (x) : (s.setHost x).psc = s.psc := rfl
@[simp] theorem State.setHost_asrc (s : State) (x) : (s.setHost x).asrc = s.asrc := rfl
@[simp] theorem State.setHost_sap (s : State) (x) : (s.setHost x).sap = s.sap := rfl
@[simp] theorem State.setHost_stew (s : State) (x) : (s.setHost x).stew = s.stew := rfl
@[simp] theorem State.setHost_mbx (s : State) (x) : (s.setHost x).mbx = s.mbx := rfl
@[simp] theorem State.setHost_host (s : State) (x) : (s.setHost x).host = x := rfl
@[simp] theorem State.setHost_chain (s : State) (x) : (s.setHost x).chain = s.chain := rfl
@[simp] theorem State.setHost_lsn (s : State) (x) : (s.setHost x).lsn = s.lsn := rfl
@[simp] theorem State.setHost_gauge (s : State) (x) : (s.setHost x).gauge = s.gauge := rfl
@[simp] theorem State.setHost_ram (s : State) (x) : (s.setHost x).ram = s.ram := rfl
@[simp] theorem State.setHost_flash (s : State) (x) : (s.setHost x).flash = s.flash := rfl
@[simp] theorem State.setHost_sec (s : State) (x) : (s.setHost x).sec = s.sec := rfl
@[simp] theorem State.setHost_pwr (s : State) (x) : (s.setHost x).pwr = s.pwr := rfl
@[simp] theorem State.setHost_pending (s : State) (x) : (s.setHost x).pending = s.pending := rfl
@[simp] theorem State.setHost_word (s : State) (x) (r) : (s.setHost x).word r = s.word r := rfl
@[simp] theorem State.setHost_get (s : State) (x) (r) : (s.setHost x).get r = s.get r := rfl

/-! `setChain` replaces chain. -/

@[simp] theorem State.setChain_regs (s : State) (x) : (s.setChain x).regs = s.regs := rfl
@[simp] theorem State.setChain_now (s : State) (x) : (s.setChain x).now = s.now := rfl
@[simp] theorem State.setChain_free (s : State) (x) : (s.setChain x).free = s.free := rfl
@[simp] theorem State.setChain_timers (s : State) (x) : (s.setChain x).timers = s.timers := rfl
@[simp] theorem State.setChain_tick (s : State) (x) : (s.setChain x).tick = s.tick := rfl
@[simp] theorem State.setChain_clk (s : State) (x) : (s.setChain x).clk = s.clk := rfl
@[simp] theorem State.setChain_fab (s : State) (x) : (s.setChain x).fab = s.fab := rfl
@[simp] theorem State.setChain_bus (s : State) (x) : (s.setChain x).bus = s.bus := rfl
@[simp] theorem State.setChain_xing (s : State) (x) : (s.setChain x).xing = s.xing := rfl
@[simp] theorem State.setChain_irq (s : State) (x) : (s.setChain x).irq = s.irq := rfl
@[simp] theorem State.setChain_ain (s : State) (x) : (s.setChain x).ain = s.ain := rfl
@[simp] theorem State.setChain_phantom (s : State) (x) : (s.setChain x).phantom = s.phantom := rfl
@[simp] theorem State.setChain_aout (s : State) (x) : (s.setChain x).aout = s.aout := rfl
@[simp] theorem State.setChain_hp (s : State) (x) : (s.setChain x).hp = s.hp := rfl
@[simp] theorem State.setChain_psc (s : State) (x) : (s.setChain x).psc = s.psc := rfl
@[simp] theorem State.setChain_asrc (s : State) (x) : (s.setChain x).asrc = s.asrc := rfl
@[simp] theorem State.setChain_sap (s : State) (x) : (s.setChain x).sap = s.sap := rfl
@[simp] theorem State.setChain_stew (s : State) (x) : (s.setChain x).stew = s.stew := rfl
@[simp] theorem State.setChain_mbx (s : State) (x) : (s.setChain x).mbx = s.mbx := rfl
@[simp] theorem State.setChain_host (s : State) (x) : (s.setChain x).host = s.host := rfl
@[simp] theorem State.setChain_chain (s : State) (x) : (s.setChain x).chain = x := rfl
@[simp] theorem State.setChain_lsn (s : State) (x) : (s.setChain x).lsn = s.lsn := rfl
@[simp] theorem State.setChain_gauge (s : State) (x) : (s.setChain x).gauge = s.gauge := rfl
@[simp] theorem State.setChain_ram (s : State) (x) : (s.setChain x).ram = s.ram := rfl
@[simp] theorem State.setChain_flash (s : State) (x) : (s.setChain x).flash = s.flash := rfl
@[simp] theorem State.setChain_sec (s : State) (x) : (s.setChain x).sec = s.sec := rfl
@[simp] theorem State.setChain_pwr (s : State) (x) : (s.setChain x).pwr = s.pwr := rfl
@[simp] theorem State.setChain_pending (s : State) (x) : (s.setChain x).pending = s.pending := rfl
@[simp] theorem State.setChain_word (s : State) (x) (r) : (s.setChain x).word r = s.word r := rfl
@[simp] theorem State.setChain_get (s : State) (x) (r) : (s.setChain x).get r = s.get r := rfl

/-! `setLsn` replaces lsn. -/

@[simp] theorem State.setLsn_regs (s : State) (x) : (s.setLsn x).regs = s.regs := rfl
@[simp] theorem State.setLsn_now (s : State) (x) : (s.setLsn x).now = s.now := rfl
@[simp] theorem State.setLsn_free (s : State) (x) : (s.setLsn x).free = s.free := rfl
@[simp] theorem State.setLsn_timers (s : State) (x) : (s.setLsn x).timers = s.timers := rfl
@[simp] theorem State.setLsn_tick (s : State) (x) : (s.setLsn x).tick = s.tick := rfl
@[simp] theorem State.setLsn_clk (s : State) (x) : (s.setLsn x).clk = s.clk := rfl
@[simp] theorem State.setLsn_fab (s : State) (x) : (s.setLsn x).fab = s.fab := rfl
@[simp] theorem State.setLsn_bus (s : State) (x) : (s.setLsn x).bus = s.bus := rfl
@[simp] theorem State.setLsn_xing (s : State) (x) : (s.setLsn x).xing = s.xing := rfl
@[simp] theorem State.setLsn_irq (s : State) (x) : (s.setLsn x).irq = s.irq := rfl
@[simp] theorem State.setLsn_ain (s : State) (x) : (s.setLsn x).ain = s.ain := rfl
@[simp] theorem State.setLsn_phantom (s : State) (x) : (s.setLsn x).phantom = s.phantom := rfl
@[simp] theorem State.setLsn_aout (s : State) (x) : (s.setLsn x).aout = s.aout := rfl
@[simp] theorem State.setLsn_hp (s : State) (x) : (s.setLsn x).hp = s.hp := rfl
@[simp] theorem State.setLsn_psc (s : State) (x) : (s.setLsn x).psc = s.psc := rfl
@[simp] theorem State.setLsn_asrc (s : State) (x) : (s.setLsn x).asrc = s.asrc := rfl
@[simp] theorem State.setLsn_sap (s : State) (x) : (s.setLsn x).sap = s.sap := rfl
@[simp] theorem State.setLsn_stew (s : State) (x) : (s.setLsn x).stew = s.stew := rfl
@[simp] theorem State.setLsn_mbx (s : State) (x) : (s.setLsn x).mbx = s.mbx := rfl
@[simp] theorem State.setLsn_host (s : State) (x) : (s.setLsn x).host = s.host := rfl
@[simp] theorem State.setLsn_chain (s : State) (x) : (s.setLsn x).chain = s.chain := rfl
@[simp] theorem State.setLsn_lsn (s : State) (x) : (s.setLsn x).lsn = x := rfl
@[simp] theorem State.setLsn_gauge (s : State) (x) : (s.setLsn x).gauge = s.gauge := rfl
@[simp] theorem State.setLsn_ram (s : State) (x) : (s.setLsn x).ram = s.ram := rfl
@[simp] theorem State.setLsn_flash (s : State) (x) : (s.setLsn x).flash = s.flash := rfl
@[simp] theorem State.setLsn_sec (s : State) (x) : (s.setLsn x).sec = s.sec := rfl
@[simp] theorem State.setLsn_pwr (s : State) (x) : (s.setLsn x).pwr = s.pwr := rfl
@[simp] theorem State.setLsn_pending (s : State) (x) : (s.setLsn x).pending = s.pending := rfl
@[simp] theorem State.setLsn_word (s : State) (x) (r) : (s.setLsn x).word r = s.word r := rfl
@[simp] theorem State.setLsn_get (s : State) (x) (r) : (s.setLsn x).get r = s.get r := rfl

/-! `setGauge` replaces gauge. -/

@[simp] theorem State.setGauge_regs (s : State) (x) : (s.setGauge x).regs = s.regs := rfl
@[simp] theorem State.setGauge_now (s : State) (x) : (s.setGauge x).now = s.now := rfl
@[simp] theorem State.setGauge_free (s : State) (x) : (s.setGauge x).free = s.free := rfl
@[simp] theorem State.setGauge_timers (s : State) (x) : (s.setGauge x).timers = s.timers := rfl
@[simp] theorem State.setGauge_tick (s : State) (x) : (s.setGauge x).tick = s.tick := rfl
@[simp] theorem State.setGauge_clk (s : State) (x) : (s.setGauge x).clk = s.clk := rfl
@[simp] theorem State.setGauge_fab (s : State) (x) : (s.setGauge x).fab = s.fab := rfl
@[simp] theorem State.setGauge_bus (s : State) (x) : (s.setGauge x).bus = s.bus := rfl
@[simp] theorem State.setGauge_xing (s : State) (x) : (s.setGauge x).xing = s.xing := rfl
@[simp] theorem State.setGauge_irq (s : State) (x) : (s.setGauge x).irq = s.irq := rfl
@[simp] theorem State.setGauge_ain (s : State) (x) : (s.setGauge x).ain = s.ain := rfl
@[simp] theorem State.setGauge_phantom (s : State) (x) : (s.setGauge x).phantom = s.phantom := rfl
@[simp] theorem State.setGauge_aout (s : State) (x) : (s.setGauge x).aout = s.aout := rfl
@[simp] theorem State.setGauge_hp (s : State) (x) : (s.setGauge x).hp = s.hp := rfl
@[simp] theorem State.setGauge_psc (s : State) (x) : (s.setGauge x).psc = s.psc := rfl
@[simp] theorem State.setGauge_asrc (s : State) (x) : (s.setGauge x).asrc = s.asrc := rfl
@[simp] theorem State.setGauge_sap (s : State) (x) : (s.setGauge x).sap = s.sap := rfl
@[simp] theorem State.setGauge_stew (s : State) (x) : (s.setGauge x).stew = s.stew := rfl
@[simp] theorem State.setGauge_mbx (s : State) (x) : (s.setGauge x).mbx = s.mbx := rfl
@[simp] theorem State.setGauge_host (s : State) (x) : (s.setGauge x).host = s.host := rfl
@[simp] theorem State.setGauge_chain (s : State) (x) : (s.setGauge x).chain = s.chain := rfl
@[simp] theorem State.setGauge_lsn (s : State) (x) : (s.setGauge x).lsn = s.lsn := rfl
@[simp] theorem State.setGauge_gauge (s : State) (x) : (s.setGauge x).gauge = x := rfl
@[simp] theorem State.setGauge_ram (s : State) (x) : (s.setGauge x).ram = s.ram := rfl
@[simp] theorem State.setGauge_flash (s : State) (x) : (s.setGauge x).flash = s.flash := rfl
@[simp] theorem State.setGauge_sec (s : State) (x) : (s.setGauge x).sec = s.sec := rfl
@[simp] theorem State.setGauge_pwr (s : State) (x) : (s.setGauge x).pwr = s.pwr := rfl
@[simp] theorem State.setGauge_pending (s : State) (x) : (s.setGauge x).pending = s.pending := rfl
@[simp] theorem State.setGauge_word (s : State) (x) (r) : (s.setGauge x).word r = s.word r := rfl
@[simp] theorem State.setGauge_get (s : State) (x) (r) : (s.setGauge x).get r = s.get r := rfl

/-! `setSec` replaces sec. -/

@[simp] theorem State.setSec_regs (s : State) (x) : (s.setSec x).regs = s.regs := rfl
@[simp] theorem State.setSec_now (s : State) (x) : (s.setSec x).now = s.now := rfl
@[simp] theorem State.setSec_free (s : State) (x) : (s.setSec x).free = s.free := rfl
@[simp] theorem State.setSec_timers (s : State) (x) : (s.setSec x).timers = s.timers := rfl
@[simp] theorem State.setSec_tick (s : State) (x) : (s.setSec x).tick = s.tick := rfl
@[simp] theorem State.setSec_clk (s : State) (x) : (s.setSec x).clk = s.clk := rfl
@[simp] theorem State.setSec_fab (s : State) (x) : (s.setSec x).fab = s.fab := rfl
@[simp] theorem State.setSec_bus (s : State) (x) : (s.setSec x).bus = s.bus := rfl
@[simp] theorem State.setSec_xing (s : State) (x) : (s.setSec x).xing = s.xing := rfl
@[simp] theorem State.setSec_irq (s : State) (x) : (s.setSec x).irq = s.irq := rfl
@[simp] theorem State.setSec_ain (s : State) (x) : (s.setSec x).ain = s.ain := rfl
@[simp] theorem State.setSec_phantom (s : State) (x) : (s.setSec x).phantom = s.phantom := rfl
@[simp] theorem State.setSec_aout (s : State) (x) : (s.setSec x).aout = s.aout := rfl
@[simp] theorem State.setSec_hp (s : State) (x) : (s.setSec x).hp = s.hp := rfl
@[simp] theorem State.setSec_psc (s : State) (x) : (s.setSec x).psc = s.psc := rfl
@[simp] theorem State.setSec_asrc (s : State) (x) : (s.setSec x).asrc = s.asrc := rfl
@[simp] theorem State.setSec_sap (s : State) (x) : (s.setSec x).sap = s.sap := rfl
@[simp] theorem State.setSec_stew (s : State) (x) : (s.setSec x).stew = s.stew := rfl
@[simp] theorem State.setSec_mbx (s : State) (x) : (s.setSec x).mbx = s.mbx := rfl
@[simp] theorem State.setSec_host (s : State) (x) : (s.setSec x).host = s.host := rfl
@[simp] theorem State.setSec_chain (s : State) (x) : (s.setSec x).chain = s.chain := rfl
@[simp] theorem State.setSec_lsn (s : State) (x) : (s.setSec x).lsn = s.lsn := rfl
@[simp] theorem State.setSec_gauge (s : State) (x) : (s.setSec x).gauge = s.gauge := rfl
@[simp] theorem State.setSec_ram (s : State) (x) : (s.setSec x).ram = s.ram := rfl
@[simp] theorem State.setSec_flash (s : State) (x) : (s.setSec x).flash = s.flash := rfl
@[simp] theorem State.setSec_sec (s : State) (x) : (s.setSec x).sec = x := rfl
@[simp] theorem State.setSec_pwr (s : State) (x) : (s.setSec x).pwr = s.pwr := rfl
@[simp] theorem State.setSec_pending (s : State) (x) : (s.setSec x).pending = s.pending := rfl
@[simp] theorem State.setSec_word (s : State) (x) (r) : (s.setSec x).word r = s.word r := rfl
@[simp] theorem State.setSec_get (s : State) (x) (r) : (s.setSec x).get r = s.get r := rfl

/-! `setPwr` replaces pwr. -/

@[simp] theorem State.setPwr_regs (s : State) (x) : (s.setPwr x).regs = s.regs := rfl
@[simp] theorem State.setPwr_now (s : State) (x) : (s.setPwr x).now = s.now := rfl
@[simp] theorem State.setPwr_free (s : State) (x) : (s.setPwr x).free = s.free := rfl
@[simp] theorem State.setPwr_timers (s : State) (x) : (s.setPwr x).timers = s.timers := rfl
@[simp] theorem State.setPwr_tick (s : State) (x) : (s.setPwr x).tick = s.tick := rfl
@[simp] theorem State.setPwr_clk (s : State) (x) : (s.setPwr x).clk = s.clk := rfl
@[simp] theorem State.setPwr_fab (s : State) (x) : (s.setPwr x).fab = s.fab := rfl
@[simp] theorem State.setPwr_bus (s : State) (x) : (s.setPwr x).bus = s.bus := rfl
@[simp] theorem State.setPwr_xing (s : State) (x) : (s.setPwr x).xing = s.xing := rfl
@[simp] theorem State.setPwr_irq (s : State) (x) : (s.setPwr x).irq = s.irq := rfl
@[simp] theorem State.setPwr_ain (s : State) (x) : (s.setPwr x).ain = s.ain := rfl
@[simp] theorem State.setPwr_phantom (s : State) (x) : (s.setPwr x).phantom = s.phantom := rfl
@[simp] theorem State.setPwr_aout (s : State) (x) : (s.setPwr x).aout = s.aout := rfl
@[simp] theorem State.setPwr_hp (s : State) (x) : (s.setPwr x).hp = s.hp := rfl
@[simp] theorem State.setPwr_psc (s : State) (x) : (s.setPwr x).psc = s.psc := rfl
@[simp] theorem State.setPwr_asrc (s : State) (x) : (s.setPwr x).asrc = s.asrc := rfl
@[simp] theorem State.setPwr_sap (s : State) (x) : (s.setPwr x).sap = s.sap := rfl
@[simp] theorem State.setPwr_stew (s : State) (x) : (s.setPwr x).stew = s.stew := rfl
@[simp] theorem State.setPwr_mbx (s : State) (x) : (s.setPwr x).mbx = s.mbx := rfl
@[simp] theorem State.setPwr_host (s : State) (x) : (s.setPwr x).host = s.host := rfl
@[simp] theorem State.setPwr_chain (s : State) (x) : (s.setPwr x).chain = s.chain := rfl
@[simp] theorem State.setPwr_lsn (s : State) (x) : (s.setPwr x).lsn = s.lsn := rfl
@[simp] theorem State.setPwr_gauge (s : State) (x) : (s.setPwr x).gauge = s.gauge := rfl
@[simp] theorem State.setPwr_ram (s : State) (x) : (s.setPwr x).ram = s.ram := rfl
@[simp] theorem State.setPwr_flash (s : State) (x) : (s.setPwr x).flash = s.flash := rfl
@[simp] theorem State.setPwr_sec (s : State) (x) : (s.setPwr x).sec = s.sec := rfl
@[simp] theorem State.setPwr_pwr (s : State) (x) : (s.setPwr x).pwr = x := rfl
@[simp] theorem State.setPwr_pending (s : State) (x) : (s.setPwr x).pending = s.pending := rfl
@[simp] theorem State.setPwr_word (s : State) (x) (r) : (s.setPwr x).word r = s.word r := rfl
@[simp] theorem State.setPwr_get (s : State) (x) (r) : (s.setPwr x).get r = s.get r := rfl

/-! `setAiCh` replaces ain. -/

@[simp] theorem State.setAiCh_regs (s : State) (k x) : (s.setAiCh k x).regs = s.regs := rfl
@[simp] theorem State.setAiCh_now (s : State) (k x) : (s.setAiCh k x).now = s.now := rfl
@[simp] theorem State.setAiCh_free (s : State) (k x) : (s.setAiCh k x).free = s.free := rfl
@[simp] theorem State.setAiCh_timers (s : State) (k x) : (s.setAiCh k x).timers = s.timers := rfl
@[simp] theorem State.setAiCh_tick (s : State) (k x) : (s.setAiCh k x).tick = s.tick := rfl
@[simp] theorem State.setAiCh_clk (s : State) (k x) : (s.setAiCh k x).clk = s.clk := rfl
@[simp] theorem State.setAiCh_fab (s : State) (k x) : (s.setAiCh k x).fab = s.fab := rfl
@[simp] theorem State.setAiCh_bus (s : State) (k x) : (s.setAiCh k x).bus = s.bus := rfl
@[simp] theorem State.setAiCh_xing (s : State) (k x) : (s.setAiCh k x).xing = s.xing := rfl
@[simp] theorem State.setAiCh_irq (s : State) (k x) : (s.setAiCh k x).irq = s.irq := rfl
@[simp] theorem State.setAiCh_ain (s : State) (k x) : (s.setAiCh k x).ain = tabPut (fun _ => {}) s.ain k x := rfl
@[simp] theorem State.setAiCh_phantom (s : State) (k x) : (s.setAiCh k x).phantom = s.phantom := rfl
@[simp] theorem State.setAiCh_aout (s : State) (k x) : (s.setAiCh k x).aout = s.aout := rfl
@[simp] theorem State.setAiCh_hp (s : State) (k x) : (s.setAiCh k x).hp = s.hp := rfl
@[simp] theorem State.setAiCh_psc (s : State) (k x) : (s.setAiCh k x).psc = s.psc := rfl
@[simp] theorem State.setAiCh_asrc (s : State) (k x) : (s.setAiCh k x).asrc = s.asrc := rfl
@[simp] theorem State.setAiCh_sap (s : State) (k x) : (s.setAiCh k x).sap = s.sap := rfl
@[simp] theorem State.setAiCh_stew (s : State) (k x) : (s.setAiCh k x).stew = s.stew := rfl
@[simp] theorem State.setAiCh_mbx (s : State) (k x) : (s.setAiCh k x).mbx = s.mbx := rfl
@[simp] theorem State.setAiCh_host (s : State) (k x) : (s.setAiCh k x).host = s.host := rfl
@[simp] theorem State.setAiCh_chain (s : State) (k x) : (s.setAiCh k x).chain = s.chain := rfl
@[simp] theorem State.setAiCh_lsn (s : State) (k x) : (s.setAiCh k x).lsn = s.lsn := rfl
@[simp] theorem State.setAiCh_gauge (s : State) (k x) : (s.setAiCh k x).gauge = s.gauge := rfl
@[simp] theorem State.setAiCh_ram (s : State) (k x) : (s.setAiCh k x).ram = s.ram := rfl
@[simp] theorem State.setAiCh_flash (s : State) (k x) : (s.setAiCh k x).flash = s.flash := rfl
@[simp] theorem State.setAiCh_sec (s : State) (k x) : (s.setAiCh k x).sec = s.sec := rfl
@[simp] theorem State.setAiCh_pwr (s : State) (k x) : (s.setAiCh k x).pwr = s.pwr := rfl
@[simp] theorem State.setAiCh_pending (s : State) (k x) : (s.setAiCh k x).pending = s.pending := rfl
@[simp] theorem State.setAiCh_word (s : State) (k x) (r) : (s.setAiCh k x).word r = s.word r := rfl
@[simp] theorem State.setAiCh_get (s : State) (k x) (r) : (s.setAiCh k x).get r = s.get r := rfl

/-! `setPh` replaces phantom. -/

@[simp] theorem State.setPh_regs (s : State) (k x) : (s.setPh k x).regs = s.regs := rfl
@[simp] theorem State.setPh_now (s : State) (k x) : (s.setPh k x).now = s.now := rfl
@[simp] theorem State.setPh_free (s : State) (k x) : (s.setPh k x).free = s.free := rfl
@[simp] theorem State.setPh_timers (s : State) (k x) : (s.setPh k x).timers = s.timers := rfl
@[simp] theorem State.setPh_tick (s : State) (k x) : (s.setPh k x).tick = s.tick := rfl
@[simp] theorem State.setPh_clk (s : State) (k x) : (s.setPh k x).clk = s.clk := rfl
@[simp] theorem State.setPh_fab (s : State) (k x) : (s.setPh k x).fab = s.fab := rfl
@[simp] theorem State.setPh_bus (s : State) (k x) : (s.setPh k x).bus = s.bus := rfl
@[simp] theorem State.setPh_xing (s : State) (k x) : (s.setPh k x).xing = s.xing := rfl
@[simp] theorem State.setPh_irq (s : State) (k x) : (s.setPh k x).irq = s.irq := rfl
@[simp] theorem State.setPh_ain (s : State) (k x) : (s.setPh k x).ain = s.ain := rfl
@[simp] theorem State.setPh_phantom (s : State) (k x) : (s.setPh k x).phantom = tabPut (fun _ => {}) s.phantom k x := rfl
@[simp] theorem State.setPh_aout (s : State) (k x) : (s.setPh k x).aout = s.aout := rfl
@[simp] theorem State.setPh_hp (s : State) (k x) : (s.setPh k x).hp = s.hp := rfl
@[simp] theorem State.setPh_psc (s : State) (k x) : (s.setPh k x).psc = s.psc := rfl
@[simp] theorem State.setPh_asrc (s : State) (k x) : (s.setPh k x).asrc = s.asrc := rfl
@[simp] theorem State.setPh_sap (s : State) (k x) : (s.setPh k x).sap = s.sap := rfl
@[simp] theorem State.setPh_stew (s : State) (k x) : (s.setPh k x).stew = s.stew := rfl
@[simp] theorem State.setPh_mbx (s : State) (k x) : (s.setPh k x).mbx = s.mbx := rfl
@[simp] theorem State.setPh_host (s : State) (k x) : (s.setPh k x).host = s.host := rfl
@[simp] theorem State.setPh_chain (s : State) (k x) : (s.setPh k x).chain = s.chain := rfl
@[simp] theorem State.setPh_lsn (s : State) (k x) : (s.setPh k x).lsn = s.lsn := rfl
@[simp] theorem State.setPh_gauge (s : State) (k x) : (s.setPh k x).gauge = s.gauge := rfl
@[simp] theorem State.setPh_ram (s : State) (k x) : (s.setPh k x).ram = s.ram := rfl
@[simp] theorem State.setPh_flash (s : State) (k x) : (s.setPh k x).flash = s.flash := rfl
@[simp] theorem State.setPh_sec (s : State) (k x) : (s.setPh k x).sec = s.sec := rfl
@[simp] theorem State.setPh_pwr (s : State) (k x) : (s.setPh k x).pwr = s.pwr := rfl
@[simp] theorem State.setPh_pending (s : State) (k x) : (s.setPh k x).pending = s.pending := rfl
@[simp] theorem State.setPh_word (s : State) (k x) (r) : (s.setPh k x).word r = s.word r := rfl
@[simp] theorem State.setPh_get (s : State) (k x) (r) : (s.setPh k x).get r = s.get r := rfl

/-! `setAoCh` replaces aout. -/

@[simp] theorem State.setAoCh_regs (s : State) (k x) : (s.setAoCh k x).regs = s.regs := rfl
@[simp] theorem State.setAoCh_now (s : State) (k x) : (s.setAoCh k x).now = s.now := rfl
@[simp] theorem State.setAoCh_free (s : State) (k x) : (s.setAoCh k x).free = s.free := rfl
@[simp] theorem State.setAoCh_timers (s : State) (k x) : (s.setAoCh k x).timers = s.timers := rfl
@[simp] theorem State.setAoCh_tick (s : State) (k x) : (s.setAoCh k x).tick = s.tick := rfl
@[simp] theorem State.setAoCh_clk (s : State) (k x) : (s.setAoCh k x).clk = s.clk := rfl
@[simp] theorem State.setAoCh_fab (s : State) (k x) : (s.setAoCh k x).fab = s.fab := rfl
@[simp] theorem State.setAoCh_bus (s : State) (k x) : (s.setAoCh k x).bus = s.bus := rfl
@[simp] theorem State.setAoCh_xing (s : State) (k x) : (s.setAoCh k x).xing = s.xing := rfl
@[simp] theorem State.setAoCh_irq (s : State) (k x) : (s.setAoCh k x).irq = s.irq := rfl
@[simp] theorem State.setAoCh_ain (s : State) (k x) : (s.setAoCh k x).ain = s.ain := rfl
@[simp] theorem State.setAoCh_phantom (s : State) (k x) : (s.setAoCh k x).phantom = s.phantom := rfl
@[simp] theorem State.setAoCh_aout (s : State) (k x) : (s.setAoCh k x).aout = tabPut (fun _ => {}) s.aout k x := rfl
@[simp] theorem State.setAoCh_hp (s : State) (k x) : (s.setAoCh k x).hp = s.hp := rfl
@[simp] theorem State.setAoCh_psc (s : State) (k x) : (s.setAoCh k x).psc = s.psc := rfl
@[simp] theorem State.setAoCh_asrc (s : State) (k x) : (s.setAoCh k x).asrc = s.asrc := rfl
@[simp] theorem State.setAoCh_sap (s : State) (k x) : (s.setAoCh k x).sap = s.sap := rfl
@[simp] theorem State.setAoCh_stew (s : State) (k x) : (s.setAoCh k x).stew = s.stew := rfl
@[simp] theorem State.setAoCh_mbx (s : State) (k x) : (s.setAoCh k x).mbx = s.mbx := rfl
@[simp] theorem State.setAoCh_host (s : State) (k x) : (s.setAoCh k x).host = s.host := rfl
@[simp] theorem State.setAoCh_chain (s : State) (k x) : (s.setAoCh k x).chain = s.chain := rfl
@[simp] theorem State.setAoCh_lsn (s : State) (k x) : (s.setAoCh k x).lsn = s.lsn := rfl
@[simp] theorem State.setAoCh_gauge (s : State) (k x) : (s.setAoCh k x).gauge = s.gauge := rfl
@[simp] theorem State.setAoCh_ram (s : State) (k x) : (s.setAoCh k x).ram = s.ram := rfl
@[simp] theorem State.setAoCh_flash (s : State) (k x) : (s.setAoCh k x).flash = s.flash := rfl
@[simp] theorem State.setAoCh_sec (s : State) (k x) : (s.setAoCh k x).sec = s.sec := rfl
@[simp] theorem State.setAoCh_pwr (s : State) (k x) : (s.setAoCh k x).pwr = s.pwr := rfl
@[simp] theorem State.setAoCh_pending (s : State) (k x) : (s.setAoCh k x).pending = s.pending := rfl
@[simp] theorem State.setAoCh_word (s : State) (k x) (r) : (s.setAoCh k x).word r = s.word r := rfl
@[simp] theorem State.setAoCh_get (s : State) (k x) (r) : (s.setAoCh k x).get r = s.get r := rfl

/-! `setHpAmp` replaces hp. -/

@[simp] theorem State.setHpAmp_regs (s : State) (k x) : (s.setHpAmp k x).regs = s.regs := rfl
@[simp] theorem State.setHpAmp_now (s : State) (k x) : (s.setHpAmp k x).now = s.now := rfl
@[simp] theorem State.setHpAmp_free (s : State) (k x) : (s.setHpAmp k x).free = s.free := rfl
@[simp] theorem State.setHpAmp_timers (s : State) (k x) : (s.setHpAmp k x).timers = s.timers := rfl
@[simp] theorem State.setHpAmp_tick (s : State) (k x) : (s.setHpAmp k x).tick = s.tick := rfl
@[simp] theorem State.setHpAmp_clk (s : State) (k x) : (s.setHpAmp k x).clk = s.clk := rfl
@[simp] theorem State.setHpAmp_fab (s : State) (k x) : (s.setHpAmp k x).fab = s.fab := rfl
@[simp] theorem State.setHpAmp_bus (s : State) (k x) : (s.setHpAmp k x).bus = s.bus := rfl
@[simp] theorem State.setHpAmp_xing (s : State) (k x) : (s.setHpAmp k x).xing = s.xing := rfl
@[simp] theorem State.setHpAmp_irq (s : State) (k x) : (s.setHpAmp k x).irq = s.irq := rfl
@[simp] theorem State.setHpAmp_ain (s : State) (k x) : (s.setHpAmp k x).ain = s.ain := rfl
@[simp] theorem State.setHpAmp_phantom (s : State) (k x) : (s.setHpAmp k x).phantom = s.phantom := rfl
@[simp] theorem State.setHpAmp_aout (s : State) (k x) : (s.setHpAmp k x).aout = s.aout := rfl
@[simp] theorem State.setHpAmp_hp (s : State) (k x) : (s.setHpAmp k x).hp = tabPut (fun _ => {}) s.hp k x := rfl
@[simp] theorem State.setHpAmp_psc (s : State) (k x) : (s.setHpAmp k x).psc = s.psc := rfl
@[simp] theorem State.setHpAmp_asrc (s : State) (k x) : (s.setHpAmp k x).asrc = s.asrc := rfl
@[simp] theorem State.setHpAmp_sap (s : State) (k x) : (s.setHpAmp k x).sap = s.sap := rfl
@[simp] theorem State.setHpAmp_stew (s : State) (k x) : (s.setHpAmp k x).stew = s.stew := rfl
@[simp] theorem State.setHpAmp_mbx (s : State) (k x) : (s.setHpAmp k x).mbx = s.mbx := rfl
@[simp] theorem State.setHpAmp_host (s : State) (k x) : (s.setHpAmp k x).host = s.host := rfl
@[simp] theorem State.setHpAmp_chain (s : State) (k x) : (s.setHpAmp k x).chain = s.chain := rfl
@[simp] theorem State.setHpAmp_lsn (s : State) (k x) : (s.setHpAmp k x).lsn = s.lsn := rfl
@[simp] theorem State.setHpAmp_gauge (s : State) (k x) : (s.setHpAmp k x).gauge = s.gauge := rfl
@[simp] theorem State.setHpAmp_ram (s : State) (k x) : (s.setHpAmp k x).ram = s.ram := rfl
@[simp] theorem State.setHpAmp_flash (s : State) (k x) : (s.setHpAmp k x).flash = s.flash := rfl
@[simp] theorem State.setHpAmp_sec (s : State) (k x) : (s.setHpAmp k x).sec = s.sec := rfl
@[simp] theorem State.setHpAmp_pwr (s : State) (k x) : (s.setHpAmp k x).pwr = s.pwr := rfl
@[simp] theorem State.setHpAmp_pending (s : State) (k x) : (s.setHpAmp k x).pending = s.pending := rfl
@[simp] theorem State.setHpAmp_word (s : State) (k x) (r) : (s.setHpAmp k x).word r = s.word r := rfl
@[simp] theorem State.setHpAmp_get (s : State) (k x) (r) : (s.setHpAmp k x).get r = s.get r := rfl

/-! `setPscCh` replaces psc. -/

@[simp] theorem State.setPscCh_regs (s : State) (k x) : (s.setPscCh k x).regs = s.regs := rfl
@[simp] theorem State.setPscCh_now (s : State) (k x) : (s.setPscCh k x).now = s.now := rfl
@[simp] theorem State.setPscCh_free (s : State) (k x) : (s.setPscCh k x).free = s.free := rfl
@[simp] theorem State.setPscCh_timers (s : State) (k x) : (s.setPscCh k x).timers = s.timers := rfl
@[simp] theorem State.setPscCh_tick (s : State) (k x) : (s.setPscCh k x).tick = s.tick := rfl
@[simp] theorem State.setPscCh_clk (s : State) (k x) : (s.setPscCh k x).clk = s.clk := rfl
@[simp] theorem State.setPscCh_fab (s : State) (k x) : (s.setPscCh k x).fab = s.fab := rfl
@[simp] theorem State.setPscCh_bus (s : State) (k x) : (s.setPscCh k x).bus = s.bus := rfl
@[simp] theorem State.setPscCh_xing (s : State) (k x) : (s.setPscCh k x).xing = s.xing := rfl
@[simp] theorem State.setPscCh_irq (s : State) (k x) : (s.setPscCh k x).irq = s.irq := rfl
@[simp] theorem State.setPscCh_ain (s : State) (k x) : (s.setPscCh k x).ain = s.ain := rfl
@[simp] theorem State.setPscCh_phantom (s : State) (k x) : (s.setPscCh k x).phantom = s.phantom := rfl
@[simp] theorem State.setPscCh_aout (s : State) (k x) : (s.setPscCh k x).aout = s.aout := rfl
@[simp] theorem State.setPscCh_hp (s : State) (k x) : (s.setPscCh k x).hp = s.hp := rfl
@[simp] theorem State.setPscCh_psc (s : State) (k x) : (s.setPscCh k x).psc = tabPut (fun _ => {}) s.psc k x := rfl
@[simp] theorem State.setPscCh_asrc (s : State) (k x) : (s.setPscCh k x).asrc = s.asrc := rfl
@[simp] theorem State.setPscCh_sap (s : State) (k x) : (s.setPscCh k x).sap = s.sap := rfl
@[simp] theorem State.setPscCh_stew (s : State) (k x) : (s.setPscCh k x).stew = s.stew := rfl
@[simp] theorem State.setPscCh_mbx (s : State) (k x) : (s.setPscCh k x).mbx = s.mbx := rfl
@[simp] theorem State.setPscCh_host (s : State) (k x) : (s.setPscCh k x).host = s.host := rfl
@[simp] theorem State.setPscCh_chain (s : State) (k x) : (s.setPscCh k x).chain = s.chain := rfl
@[simp] theorem State.setPscCh_lsn (s : State) (k x) : (s.setPscCh k x).lsn = s.lsn := rfl
@[simp] theorem State.setPscCh_gauge (s : State) (k x) : (s.setPscCh k x).gauge = s.gauge := rfl
@[simp] theorem State.setPscCh_ram (s : State) (k x) : (s.setPscCh k x).ram = s.ram := rfl
@[simp] theorem State.setPscCh_flash (s : State) (k x) : (s.setPscCh k x).flash = s.flash := rfl
@[simp] theorem State.setPscCh_sec (s : State) (k x) : (s.setPscCh k x).sec = s.sec := rfl
@[simp] theorem State.setPscCh_pwr (s : State) (k x) : (s.setPscCh k x).pwr = s.pwr := rfl
@[simp] theorem State.setPscCh_pending (s : State) (k x) : (s.setPscCh k x).pending = s.pending := rfl
@[simp] theorem State.setPscCh_word (s : State) (k x) (r) : (s.setPscCh k x).word r = s.word r := rfl
@[simp] theorem State.setPscCh_get (s : State) (k x) (r) : (s.setPscCh k x).get r = s.get r := rfl

/-! `setLane` replaces asrc. -/

@[simp] theorem State.setLane_regs (s : State) (k x) : (s.setLane k x).regs = s.regs := rfl
@[simp] theorem State.setLane_now (s : State) (k x) : (s.setLane k x).now = s.now := rfl
@[simp] theorem State.setLane_free (s : State) (k x) : (s.setLane k x).free = s.free := rfl
@[simp] theorem State.setLane_timers (s : State) (k x) : (s.setLane k x).timers = s.timers := rfl
@[simp] theorem State.setLane_tick (s : State) (k x) : (s.setLane k x).tick = s.tick := rfl
@[simp] theorem State.setLane_clk (s : State) (k x) : (s.setLane k x).clk = s.clk := rfl
@[simp] theorem State.setLane_fab (s : State) (k x) : (s.setLane k x).fab = s.fab := rfl
@[simp] theorem State.setLane_bus (s : State) (k x) : (s.setLane k x).bus = s.bus := rfl
@[simp] theorem State.setLane_xing (s : State) (k x) : (s.setLane k x).xing = s.xing := rfl
@[simp] theorem State.setLane_irq (s : State) (k x) : (s.setLane k x).irq = s.irq := rfl
@[simp] theorem State.setLane_ain (s : State) (k x) : (s.setLane k x).ain = s.ain := rfl
@[simp] theorem State.setLane_phantom (s : State) (k x) : (s.setLane k x).phantom = s.phantom := rfl
@[simp] theorem State.setLane_aout (s : State) (k x) : (s.setLane k x).aout = s.aout := rfl
@[simp] theorem State.setLane_hp (s : State) (k x) : (s.setLane k x).hp = s.hp := rfl
@[simp] theorem State.setLane_psc (s : State) (k x) : (s.setLane k x).psc = s.psc := rfl
@[simp] theorem State.setLane_asrc (s : State) (k x) : (s.setLane k x).asrc = tabPut (fun _ => {}) s.asrc k x := rfl
@[simp] theorem State.setLane_sap (s : State) (k x) : (s.setLane k x).sap = s.sap := rfl
@[simp] theorem State.setLane_stew (s : State) (k x) : (s.setLane k x).stew = s.stew := rfl
@[simp] theorem State.setLane_mbx (s : State) (k x) : (s.setLane k x).mbx = s.mbx := rfl
@[simp] theorem State.setLane_host (s : State) (k x) : (s.setLane k x).host = s.host := rfl
@[simp] theorem State.setLane_chain (s : State) (k x) : (s.setLane k x).chain = s.chain := rfl
@[simp] theorem State.setLane_lsn (s : State) (k x) : (s.setLane k x).lsn = s.lsn := rfl
@[simp] theorem State.setLane_gauge (s : State) (k x) : (s.setLane k x).gauge = s.gauge := rfl
@[simp] theorem State.setLane_ram (s : State) (k x) : (s.setLane k x).ram = s.ram := rfl
@[simp] theorem State.setLane_flash (s : State) (k x) : (s.setLane k x).flash = s.flash := rfl
@[simp] theorem State.setLane_sec (s : State) (k x) : (s.setLane k x).sec = s.sec := rfl
@[simp] theorem State.setLane_pwr (s : State) (k x) : (s.setLane k x).pwr = s.pwr := rfl
@[simp] theorem State.setLane_pending (s : State) (k x) : (s.setLane k x).pending = s.pending := rfl
@[simp] theorem State.setLane_word (s : State) (k x) (r) : (s.setLane k x).word r = s.word r := rfl
@[simp] theorem State.setLane_get (s : State) (k x) (r) : (s.setLane k x).get r = s.get r := rfl

/-! `setSapP` replaces sap. -/

@[simp] theorem State.setSapP_regs (s : State) (k x) : (s.setSapP k x).regs = s.regs := rfl
@[simp] theorem State.setSapP_now (s : State) (k x) : (s.setSapP k x).now = s.now := rfl
@[simp] theorem State.setSapP_free (s : State) (k x) : (s.setSapP k x).free = s.free := rfl
@[simp] theorem State.setSapP_timers (s : State) (k x) : (s.setSapP k x).timers = s.timers := rfl
@[simp] theorem State.setSapP_tick (s : State) (k x) : (s.setSapP k x).tick = s.tick := rfl
@[simp] theorem State.setSapP_clk (s : State) (k x) : (s.setSapP k x).clk = s.clk := rfl
@[simp] theorem State.setSapP_fab (s : State) (k x) : (s.setSapP k x).fab = s.fab := rfl
@[simp] theorem State.setSapP_bus (s : State) (k x) : (s.setSapP k x).bus = s.bus := rfl
@[simp] theorem State.setSapP_xing (s : State) (k x) : (s.setSapP k x).xing = s.xing := rfl
@[simp] theorem State.setSapP_irq (s : State) (k x) : (s.setSapP k x).irq = s.irq := rfl
@[simp] theorem State.setSapP_ain (s : State) (k x) : (s.setSapP k x).ain = s.ain := rfl
@[simp] theorem State.setSapP_phantom (s : State) (k x) : (s.setSapP k x).phantom = s.phantom := rfl
@[simp] theorem State.setSapP_aout (s : State) (k x) : (s.setSapP k x).aout = s.aout := rfl
@[simp] theorem State.setSapP_hp (s : State) (k x) : (s.setSapP k x).hp = s.hp := rfl
@[simp] theorem State.setSapP_psc (s : State) (k x) : (s.setSapP k x).psc = s.psc := rfl
@[simp] theorem State.setSapP_asrc (s : State) (k x) : (s.setSapP k x).asrc = s.asrc := rfl
@[simp] theorem State.setSapP_sap (s : State) (k x) : (s.setSapP k x).sap = tabPut (fun _ => {}) s.sap k x := rfl
@[simp] theorem State.setSapP_stew (s : State) (k x) : (s.setSapP k x).stew = s.stew := rfl
@[simp] theorem State.setSapP_mbx (s : State) (k x) : (s.setSapP k x).mbx = s.mbx := rfl
@[simp] theorem State.setSapP_host (s : State) (k x) : (s.setSapP k x).host = s.host := rfl
@[simp] theorem State.setSapP_chain (s : State) (k x) : (s.setSapP k x).chain = s.chain := rfl
@[simp] theorem State.setSapP_lsn (s : State) (k x) : (s.setSapP k x).lsn = s.lsn := rfl
@[simp] theorem State.setSapP_gauge (s : State) (k x) : (s.setSapP k x).gauge = s.gauge := rfl
@[simp] theorem State.setSapP_ram (s : State) (k x) : (s.setSapP k x).ram = s.ram := rfl
@[simp] theorem State.setSapP_flash (s : State) (k x) : (s.setSapP k x).flash = s.flash := rfl
@[simp] theorem State.setSapP_sec (s : State) (k x) : (s.setSapP k x).sec = s.sec := rfl
@[simp] theorem State.setSapP_pwr (s : State) (k x) : (s.setSapP k x).pwr = s.pwr := rfl
@[simp] theorem State.setSapP_pending (s : State) (k x) : (s.setSapP k x).pending = s.pending := rfl
@[simp] theorem State.setSapP_word (s : State) (k x) (r) : (s.setSapP k x).word r = s.word r := rfl
@[simp] theorem State.setSapP_get (s : State) (k x) (r) : (s.setSapP k x).get r = s.get r := rfl

/-! `flashErase` replaces flash. -/

@[simp] theorem State.flashErase_regs (s : State) (a n) : (s.flashErase a n).regs = s.regs := rfl
@[simp] theorem State.flashErase_now (s : State) (a n) : (s.flashErase a n).now = s.now := rfl
@[simp] theorem State.flashErase_free (s : State) (a n) : (s.flashErase a n).free = s.free := rfl
@[simp] theorem State.flashErase_timers (s : State) (a n) : (s.flashErase a n).timers = s.timers := rfl
@[simp] theorem State.flashErase_tick (s : State) (a n) : (s.flashErase a n).tick = s.tick := rfl
@[simp] theorem State.flashErase_clk (s : State) (a n) : (s.flashErase a n).clk = s.clk := rfl
@[simp] theorem State.flashErase_fab (s : State) (a n) : (s.flashErase a n).fab = s.fab := rfl
@[simp] theorem State.flashErase_bus (s : State) (a n) : (s.flashErase a n).bus = s.bus := rfl
@[simp] theorem State.flashErase_xing (s : State) (a n) : (s.flashErase a n).xing = s.xing := rfl
@[simp] theorem State.flashErase_irq (s : State) (a n) : (s.flashErase a n).irq = s.irq := rfl
@[simp] theorem State.flashErase_ain (s : State) (a n) : (s.flashErase a n).ain = s.ain := rfl
@[simp] theorem State.flashErase_phantom (s : State) (a n) : (s.flashErase a n).phantom = s.phantom := rfl
@[simp] theorem State.flashErase_aout (s : State) (a n) : (s.flashErase a n).aout = s.aout := rfl
@[simp] theorem State.flashErase_hp (s : State) (a n) : (s.flashErase a n).hp = s.hp := rfl
@[simp] theorem State.flashErase_psc (s : State) (a n) : (s.flashErase a n).psc = s.psc := rfl
@[simp] theorem State.flashErase_asrc (s : State) (a n) : (s.flashErase a n).asrc = s.asrc := rfl
@[simp] theorem State.flashErase_sap (s : State) (a n) : (s.flashErase a n).sap = s.sap := rfl
@[simp] theorem State.flashErase_stew (s : State) (a n) : (s.flashErase a n).stew = s.stew := rfl
@[simp] theorem State.flashErase_mbx (s : State) (a n) : (s.flashErase a n).mbx = s.mbx := rfl
@[simp] theorem State.flashErase_host (s : State) (a n) : (s.flashErase a n).host = s.host := rfl
@[simp] theorem State.flashErase_chain (s : State) (a n) : (s.flashErase a n).chain = s.chain := rfl
@[simp] theorem State.flashErase_lsn (s : State) (a n) : (s.flashErase a n).lsn = s.lsn := rfl
@[simp] theorem State.flashErase_gauge (s : State) (a n) : (s.flashErase a n).gauge = s.gauge := rfl
@[simp] theorem State.flashErase_ram (s : State) (a n) : (s.flashErase a n).ram = s.ram := rfl
@[simp] theorem State.flashErase_sec (s : State) (a n) : (s.flashErase a n).sec = s.sec := rfl
@[simp] theorem State.flashErase_pwr (s : State) (a n) : (s.flashErase a n).pwr = s.pwr := rfl
@[simp] theorem State.flashErase_pending (s : State) (a n) : (s.flashErase a n).pending = s.pending := rfl
@[simp] theorem State.flashErase_word (s : State) (a n) (r) : (s.flashErase a n).word r = s.word r := rfl
@[simp] theorem State.flashErase_get (s : State) (a n) (r) : (s.flashErase a n).get r = s.get r := rfl

/-! `flashProgram` replaces flash. -/

@[simp] theorem State.flashProgram_regs (s : State) (a bs) : (s.flashProgram a bs).regs = s.regs := rfl
@[simp] theorem State.flashProgram_now (s : State) (a bs) : (s.flashProgram a bs).now = s.now := rfl
@[simp] theorem State.flashProgram_free (s : State) (a bs) : (s.flashProgram a bs).free = s.free := rfl
@[simp] theorem State.flashProgram_timers (s : State) (a bs) : (s.flashProgram a bs).timers = s.timers := rfl
@[simp] theorem State.flashProgram_tick (s : State) (a bs) : (s.flashProgram a bs).tick = s.tick := rfl
@[simp] theorem State.flashProgram_clk (s : State) (a bs) : (s.flashProgram a bs).clk = s.clk := rfl
@[simp] theorem State.flashProgram_fab (s : State) (a bs) : (s.flashProgram a bs).fab = s.fab := rfl
@[simp] theorem State.flashProgram_bus (s : State) (a bs) : (s.flashProgram a bs).bus = s.bus := rfl
@[simp] theorem State.flashProgram_xing (s : State) (a bs) : (s.flashProgram a bs).xing = s.xing := rfl
@[simp] theorem State.flashProgram_irq (s : State) (a bs) : (s.flashProgram a bs).irq = s.irq := rfl
@[simp] theorem State.flashProgram_ain (s : State) (a bs) : (s.flashProgram a bs).ain = s.ain := rfl
@[simp] theorem State.flashProgram_phantom (s : State) (a bs) : (s.flashProgram a bs).phantom = s.phantom := rfl
@[simp] theorem State.flashProgram_aout (s : State) (a bs) : (s.flashProgram a bs).aout = s.aout := rfl
@[simp] theorem State.flashProgram_hp (s : State) (a bs) : (s.flashProgram a bs).hp = s.hp := rfl
@[simp] theorem State.flashProgram_psc (s : State) (a bs) : (s.flashProgram a bs).psc = s.psc := rfl
@[simp] theorem State.flashProgram_asrc (s : State) (a bs) : (s.flashProgram a bs).asrc = s.asrc := rfl
@[simp] theorem State.flashProgram_sap (s : State) (a bs) : (s.flashProgram a bs).sap = s.sap := rfl
@[simp] theorem State.flashProgram_stew (s : State) (a bs) : (s.flashProgram a bs).stew = s.stew := rfl
@[simp] theorem State.flashProgram_mbx (s : State) (a bs) : (s.flashProgram a bs).mbx = s.mbx := rfl
@[simp] theorem State.flashProgram_host (s : State) (a bs) : (s.flashProgram a bs).host = s.host := rfl
@[simp] theorem State.flashProgram_chain (s : State) (a bs) : (s.flashProgram a bs).chain = s.chain := rfl
@[simp] theorem State.flashProgram_lsn (s : State) (a bs) : (s.flashProgram a bs).lsn = s.lsn := rfl
@[simp] theorem State.flashProgram_gauge (s : State) (a bs) : (s.flashProgram a bs).gauge = s.gauge := rfl
@[simp] theorem State.flashProgram_ram (s : State) (a bs) : (s.flashProgram a bs).ram = s.ram := rfl
@[simp] theorem State.flashProgram_flash (s : State) (a bs) : (s.flashProgram a bs).flash = flashProgramTab s.flash a bs := rfl
@[simp] theorem State.flashProgram_sec (s : State) (a bs) : (s.flashProgram a bs).sec = s.sec := rfl
@[simp] theorem State.flashProgram_pwr (s : State) (a bs) : (s.flashProgram a bs).pwr = s.pwr := rfl
@[simp] theorem State.flashProgram_pending (s : State) (a bs) : (s.flashProgram a bs).pending = s.pending := rfl
@[simp] theorem State.flashProgram_word (s : State) (a bs) (r) : (s.flashProgram a bs).word r = s.word r := rfl
@[simp] theorem State.flashProgram_get (s : State) (a bs) (r) : (s.flashProgram a bs).get r = s.get r := rfl

end Sys2Proof.Machine
end

