-- ==== Sys2Proof/Laws/Ops.lean ====
section
/-! SUPPORT. What the register operations do: a word or a field reads back as it was written, and every other word and
every field that shares no bit with it reads as before. -/

set_option Elab.async false

namespace Sys2Proof.Machine

open Sys2Proof.Laws

/-! ### Words -/

theorem State.word_setWord (s : State) (a b : Nat) (v : Word) : (s.setWord a v).word b = if b = a then v else s.word b :=
  tabGet_put _ _ _ _ _

@[simp] theorem State.word_setWord_self (s : State) (a : Nat) (v : Word) : (s.setWord a v).word a = v := tabGet_put_self _ _ _ _

theorem State.word_setWord_ne (s : State) {a b : Nat} (v : Word) (h : b ≠ a) : (s.setWord a v).word b = s.word b :=
  tabGet_put_ne _ _ _ h

theorem State.word_set_ne (s : State) (f : Fld) (v : Nat) {a : Nat} (h : a ≠ f.addr) : (s.set f v).word a = s.word a :=
  tabGet_put_ne _ _ _ h

@[simp] theorem State.word_set_self (s : State) (f : Fld) (v : Nat) : (s.set f v).word f.addr = f.put (s.word f.addr) v :=
  tabGet_put_self _ _ _ _

@[simp] theorem State.word_setNat_self (s : State) (f : Fld) (v : Nat) : (s.setNat f v).word f.addr = BitVec.ofNat 32 v :=
  tabGet_put_self _ _ _ _

/-! ### Fields -/

theorem Fld.mask_bit (f : Fld) (i : Nat) :
    f.mask.getLsbD i = (decide (i < 32) && decide (f.lo ≤ i) && decide (i < f.lo + f.width)) := by
  simp only [Fld.mask, BitVec.getLsbD_ofNat, Nat.testBit_mul_two_pow, Nat.testBit_two_pow_sub_one]
  by_cases h : f.lo ≤ i
  · simp only [h, decide_true, Bool.true_and, Bool.and_true]
    congr 1
    exact decide_eq_decide.mpr (by omega)
  · simp [h]

theorem Fld.put_bit (f : Fld) (w : Word) (v i : Nat) (hi : i < 32) :
    (f.put w v).getLsbD i = if f.lo ≤ i ∧ i < f.lo + f.width then v.testBit (i - f.lo) else w.getLsbD i := by
  simp only [Fld.put, BitVec.getLsbD_or, BitVec.getLsbD_and, BitVec.getLsbD_not, Fld.mask_bit, BitVec.getLsbD_ofNat,
    Nat.testBit_mul_two_pow, Nat.testBit_mod_two_pow, hi, decide_true, Bool.true_and]
  by_cases h1 : f.lo ≤ i
  · by_cases h2 : i < f.lo + f.width
    · have : i - f.lo < f.width := by omega
      simp [h1, h2, this]
    · have : ¬ i - f.lo < f.width := by omega
      simp [h1, h2, this]
  · simp [h1]

theorem State.get_bit (s : State) (f : Fld) (i : Nat) :
    (s.get f).testBit i = (decide (i < f.width) && (s.word f.addr).getLsbD (f.lo + i)) := by
  simp only [State.get, Nat.testBit_mod_two_pow, Nat.testBit_div_two_pow, BitVec.getLsbD, Nat.add_comm]

theorem State.get_lt (s : State) (f : Fld) : s.get f < 2 ^ f.width := Nat.mod_lt _ (Nat.two_pow_pos _)

/-- A field reads back what was written, in the field's width. -/
theorem State.get_set_self (s : State) (f : Fld) (v : Nat) (hf : f.fits) : (s.set f v).get f = v % 2 ^ f.width := by
  apply Nat.eq_of_testBit_eq
  intro i
  rw [State.get_bit, State.word_set_self, Nat.testBit_mod_two_pow]
  by_cases h : i < f.width
  · have hf : f.lo + f.width ≤ 32 := hf
    rw [Fld.put_bit _ _ _ _ (by omega), if_pos ⟨by omega, by omega⟩]
    simp [h]
  · simp [h]

/-- A field that shares no bit with the one written reads as before. -/
theorem State.get_set_apart (s : State) (f g : Fld) (v : Nat) (hg : g.fits) (h : f.apart g) : (s.set f v).get g = s.get g := by
  by_cases ha : g.addr = f.addr
  · apply Nat.eq_of_testBit_eq
    intro i
    rw [State.get_bit, State.get_bit, ha, State.word_set_self]
    by_cases hi : i < g.width
    · unfold Fld.fits at hg
      have : ¬ (f.lo ≤ g.lo + i ∧ g.lo + i < f.lo + f.width) := by
        rcases h with h | h | h
        · exact absurd ha.symm h
        · omega
        · omega
      rw [Fld.put_bit _ _ _ _ (by omega), if_neg this]
    · simp [hi]
  · simp only [State.get, State.word_set_ne s f v ha]

theorem State.get_setWord_ne (s : State) (g : Fld) {a : Nat} (v : Word) (h : g.addr ≠ a) : (s.setWord a v).get g = s.get g := by
  simp only [State.get, State.word_setWord_ne s v h]

theorem State.bit_set_self (s : State) (f : Fld) (v : Nat) (hf : f.fits) : (s.set f v).bit f = (v % 2 ^ f.width != 0) := by
  rw [State.bit, State.get_set_self s f v hf]

theorem State.bit_set_apart (s : State) (f g : Fld) (v : Nat) (hg : g.fits) (h : f.apart g) : (s.set f v).bit g = s.bit g := by
  rw [State.bit, State.get_set_apart s f g v hg h, State.bit]

/-- A flag that was set reads as 1. -/
theorem State.bit_flag_self (s : State) (f : Fld) (hf : f.fits) (hw : 0 < f.width) : (s.flag f).bit f = true := by
  have h2 : (1 : Nat) < 2 ^ f.width := Nat.one_lt_two_pow (Nat.pos_iff_ne_zero.mp hw)
  rw [State.flag, State.bit_set_self s f 1 hf, Nat.mod_eq_of_lt h2]
  rfl

theorem State.get_flag_self (s : State) (f : Fld) (hf : f.fits) (hw : 0 < f.width) : (s.flag f).get f = 1 := by
  rw [State.flag, State.get_set_self s f 1 hf]
  exact Nat.mod_eq_of_lt (Nat.one_lt_two_pow (Nat.pos_iff_ne_zero.mp hw))

theorem State.get_flag_apart (s : State) (f g : Fld) (hg : g.fits) (h : f.apart g) : (s.flag f).get g = s.get g :=
  State.get_set_apart s f g 1 hg h

theorem State.get_count_apart (s : State) (f g : Fld) (n : Nat) (hg : g.fits) (h : f.apart g) : (s.count f n).get g = s.get g :=
  State.get_set_apart s f g _ hg h

theorem State.get_setBitAt_apart (s : State) (f g : Fld) (i : Nat) (b : Bool) (hg : g.fits) (h : (⟨f.addr, f.lo + i, 1⟩ : Fld).apart g) :
    (s.setBitAt f i b).get g = s.get g := State.get_set_apart s _ g _ hg h

theorem State.word_flag_ne (s : State) (f : Fld) {a : Nat} (h : a ≠ f.addr) : (s.flag f).word a = s.word a := State.word_set_ne s f 1 h

theorem State.word_count_ne (s : State) (f : Fld) (n : Nat) {a : Nat} (h : a ≠ f.addr) : (s.count f n).word a = s.word a :=
  State.word_set_ne s f _ h

theorem State.word_setNat_ne (s : State) (f : Fld) (v : Nat) {a : Nat} (h : a ≠ f.addr) : (s.setNat f v).word a = s.word a :=
  State.word_setWord_ne s _ h

theorem bit_of_field (n lo i w : Nat) (h : i < w) : n / 2 ^ lo % 2 ^ w / 2 ^ i % 2 = n / 2 ^ (lo + i) % 2 ^ 1 := by
  have e : n / 2 ^ lo % 2 ^ w / 2 ^ i % 2 = ((n / 2 ^ lo % 2 ^ w).testBit i).toNat := by
    rw [Nat.testBit_eq_decide_div_mod_eq]
    rcases Nat.mod_two_eq_zero_or_one (n / 2 ^ lo % 2 ^ w / 2 ^ i) with h | h <;> simp [h]
  rw [e, Nat.testBit_mod_two_pow, Nat.testBit_div_two_pow]
  simp only [h, decide_true, Bool.true_and, Nat.testBit_eq_decide_div_mod_eq, Nat.pow_one]
  rw [Nat.add_comm i lo]
  rcases Nat.mod_two_eq_zero_or_one (n / 2 ^ (lo + i)) with h | h <;> simp [h]

/-- Bit `i` of a field reads back as it was set. -/
theorem State.bitAt_setBitAt_self (s : State) (f : Fld) (i : Nat) (b : Bool) (hf : f.fits) (hi : i < f.width) :
    (s.setBitAt f i b).bitAt f i = b := by
  have h1 : (⟨f.addr, f.lo + i, 1⟩ : Fld).fits := by
    have hf : f.lo + f.width ≤ 32 := hf
    show f.lo + i + 1 ≤ 32
    omega
  have h2 := State.get_set_self s ⟨f.addr, f.lo + i, 1⟩ (if b then 1 else 0) h1
  have h3 : (s.setBitAt f i b).get f / 2 ^ i % 2 = (s.setBitAt f i b).get ⟨f.addr, f.lo + i, 1⟩ := by
    simp only [State.get]
    exact bit_of_field _ _ _ _ hi
  rw [State.bitAt, h3, State.setBitAt, h2]
  cases b <;> rfl

/-- A counting field saturates. -/
theorem State.get_count_self (s : State) (f : Fld) (n : Nat) (hf : f.fits) :
    (s.count f n).get f = min (s.get f + n) (2 ^ f.width - 1) := by
  rw [State.count, State.get_set_self s f _ hf]
  apply Nat.mod_eq_of_lt
  have := Nat.two_pow_pos f.width
  omega

/-! ### The bank alone: a field is read from, and written to, the register bank and nothing else -/

/-- A field as a register bank holds it. -/
def bankGet (m : Tab Word) (f : Fld) : Nat := (tabGet regReset m f.addr).toNat / 2 ^ f.lo % 2 ^ f.width

/-- A register bank with a field replaced. -/
def bankSet (m : Tab Word) (f : Fld) (v : Nat) : Tab Word := tabPut regReset m f.addr (f.put (tabGet regReset m f.addr) v)

theorem State.get_eq (s : State) (f : Fld) : s.get f = bankGet s.regs f := rfl

theorem State.regs_set (s : State) (f : Fld) (v : Nat) : (s.set f v).regs = bankSet s.regs f v := rfl

theorem State.regs_flag (s : State) (f : Fld) : (s.flag f).regs = bankSet s.regs f 1 := rfl

theorem State.regs_count (s : State) (f : Fld) (n : Nat) :
    (s.count f n).regs = bankSet s.regs f (Nat.min (bankGet s.regs f + n) (2 ^ f.width - 1)) := rfl

theorem State.regs_setBitAt (s : State) (f : Fld) (i : Nat) (b : Bool) :
    (s.setBitAt f i b).regs = bankSet s.regs ⟨f.addr, f.lo + i, 1⟩ (b2n b) := rfl

theorem State.regs_setInt (s : State) (f : Fld) (v : Int) : (s.setInt f v).regs = bankSet s.regs f (v % 2 ^ f.width).toNat := rfl

theorem State.regs_flagIf (s : State) (c : Bool) (f : Fld) : (s.flagIf c f).regs = if c then bankSet s.regs f 1 else s.regs := by
  unfold State.flagIf
  cases c <;> rfl

theorem State.regs_setNat (s : State) (f : Fld) (v : Nat) : (s.setNat f v).regs = tabPut regReset s.regs f.addr (BitVec.ofNat 32 v) := rfl

theorem State.regs_setWord (s : State) (a : Nat) (v : Word) : (s.setWord a v).regs = tabPut regReset s.regs a v := rfl

theorem State.regs_startTimer (s : State) (t : Nat) : (s.startTimer t).regs = s.regs := rfl

theorem State.regs_stopTimer (s : State) (t : Nat) : (s.stopTimer t).regs = s.regs := rfl

theorem State.regs_drawn (s : State) : s.drawn.regs = s.regs := rfl

theorem State.regs_pulse (s : State) (n : Nat) (m : Bool) : (s.pulse n m).regs = s.regs := by
  unfold State.pulse
  split <;> rfl

theorem bankGet_lt (m : Tab Word) (f : Fld) : bankGet m f < 2 ^ f.width := Nat.mod_lt _ (Nat.two_pow_pos _)

theorem bankGet_set_self (m : Tab Word) (f : Fld) (v : Nat) (hf : f.fits) : bankGet (bankSet m f v) f = v % 2 ^ f.width :=
  State.get_set_self { regs := m } f v hf

theorem bankGet_set_apart (m : Tab Word) (f g : Fld) (v : Nat) (hg : g.fits) (h : f.apart g) :
    bankGet (bankSet m f v) g = bankGet m g := State.get_set_apart { regs := m } f g v hg h

theorem bankGet_setWord_ne (m : Tab Word) (g : Fld) {a : Nat} (v : Word) (h : g.addr ≠ a) :
    bankGet (tabPut regReset m a v) g = bankGet m g := State.get_setWord_ne { regs := m } g v h

/-! ### Every other register -/

theorem SameRegsBut.refl (as : List Nat) (s : State) : SameRegsBut as s s := fun _ _ => rfl

theorem SameRegsBut.trans {as : List Nat} {s t u : State} (h : SameRegsBut as s t) (k : SameRegsBut as t u) : SameRegsBut as s u :=
  fun a ha => (k a ha).trans (h a ha)

theorem SameRegsBut.mono {as bs : List Nat} {s t : State} (h : SameRegsBut as s t) (hs : ∀ a ∈ as, a ∈ bs) : SameRegsBut bs s t :=
  fun a ha => h a fun h' => ha (hs a h')

theorem SameRegsBut.set {as : List Nat} {s t : State} (h : SameRegsBut as s t) (f : Fld) (v : Nat) (hf : f.addr ∈ as) :
    SameRegsBut as s (t.set f v) :=
  fun a ha => (State.word_set_ne t f v fun (e : a = f.addr) => ha (e ▸ hf)).trans (h a ha)

theorem SameRegsBut.setWord {as : List Nat} {s t : State} (h : SameRegsBut as s t) (b : Nat) (v : Word) (hb : b ∈ as) :
    SameRegsBut as s (t.setWord b v) :=
  fun a ha => (State.word_setWord_ne t v fun (e : a = b) => ha (e ▸ hb)).trans (h a ha)

theorem SameRegsBut.flag {as : List Nat} {s t : State} (h : SameRegsBut as s t) (f : Fld) (hf : f.addr ∈ as) :
    SameRegsBut as s (t.flag f) := h.set f 1 hf

theorem SameRegsBut.flagIf {as : List Nat} {s t : State} (h : SameRegsBut as s t) (c : Bool) (f : Fld) (hf : f.addr ∈ as) :
    SameRegsBut as s (t.flagIf c f) := by
  unfold State.flagIf
  split
  · exact h.set f 1 hf
  · exact h

theorem SameRegsBut.count {as : List Nat} {s t : State} (h : SameRegsBut as s t) (f : Fld) (n : Nat) (hf : f.addr ∈ as) :
    SameRegsBut as s (t.count f n) := h.set f _ hf

theorem SameRegsBut.setNat {as : List Nat} {s t : State} (h : SameRegsBut as s t) (f : Fld) (v : Nat) (hf : f.addr ∈ as) :
    SameRegsBut as s (t.setNat f v) := h.setWord f.addr _ hf

theorem SameRegsBut.setInt {as : List Nat} {s t : State} (h : SameRegsBut as s t) (f : Fld) (v : Int) (hf : f.addr ∈ as) :
    SameRegsBut as s (t.setInt f v) := h.set f _ hf

theorem SameRegsBut.setBitAt {as : List Nat} {s t : State} (h : SameRegsBut as s t) (f : Fld) (i : Nat) (b : Bool) (hf : f.addr ∈ as) :
    SameRegsBut as s (t.setBitAt f i b) := h.set ⟨f.addr, f.lo + i, 1⟩ _ hf

/-- Updates of other fields of the state leave every register as it is. -/
theorem SameRegsBut.other {as : List Nat} {s t u : State} (h : SameRegsBut as s t) (hu : u.regs = t.regs) : SameRegsBut as s u :=
  fun a ha => (congrArg (fun m => tabGet regReset m a) hu).trans (h a ha)

/-! ### Every other field -/

/-- Field `g` takes in every bit of field `f`. -/
abbrev Fld.covers (g f : Fld) : Prop := g.addr = f.addr ∧ g.lo ≤ f.lo ∧ f.lo + f.width ≤ g.lo + g.width

theorem Fld.covers.apart {g f k : Fld} (h : g.covers f) (hk : g.apart k) : f.apart k := by
  obtain ⟨h1, h2, h3⟩ := h
  rcases hk with hk | hk | hk
  · exact .inl (h1 ▸ hk)
  · exact .inr (.inl (by omega))
  · exact .inr (.inr (by omega))

theorem OnlyFields.refl (fs : List Fld) (s : State) : OnlyFields fs s s := fun _ _ _ => rfl

theorem OnlyFields.trans {fs : List Fld} {s t u : State} (h : OnlyFields fs s t) (k : OnlyFields fs t u) : OnlyFields fs s u :=
  fun f hf hg => (k f hf hg).trans (h f hf hg)

theorem OnlyFields.set {fs : List Fld} {s t : State} (h : OnlyFields fs s t) (f : Fld) (v : Nat) (hf : ∃ g ∈ fs, g.covers f) :
    OnlyFields fs s (t.set f v) := by
  intro k hk hg
  obtain ⟨g, hm, hc⟩ := hf
  rw [State.get_set_apart t f k v hk (hc.apart (hg g hm))]
  exact h k hk hg

theorem OnlyFields.setWord {fs : List Fld} {s t : State} (h : OnlyFields fs s t) (a : Nat) (v : Word) (hf : (⟨a, 0, 32⟩ : Fld) ∈ fs) :
    OnlyFields fs s (t.setWord a v) := by
  intro k hk hg
  by_cases hw : k.width = 0
  · simp [State.get, hw, Nat.mod_one]
  · have : k.addr ≠ a := by
      intro e
      rcases hg _ hf with h1 | h1 | h1
      · exact h1 e.symm
      · exact absurd h1 (by unfold Fld.fits at hk; simp; omega)
      · exact absurd h1 (by simp; omega)
    rw [State.get_setWord_ne t k v this]
    exact h k hk hg

theorem OnlyFields.setNat {fs : List Fld} {s t : State} (h : OnlyFields fs s t) (f : Fld) (v : Nat) (hf : (⟨f.addr, 0, 32⟩ : Fld) ∈ fs) :
    OnlyFields fs s (t.setNat f v) := h.setWord f.addr _ hf

theorem OnlyFields.flag {fs : List Fld} {s t : State} (h : OnlyFields fs s t) (f : Fld) (hf : ∃ g ∈ fs, g.covers f) :
    OnlyFields fs s (t.flag f) := h.set f 1 hf

theorem OnlyFields.flagIf {fs : List Fld} {s t : State} (h : OnlyFields fs s t) (c : Bool) (f : Fld) (hf : ∃ g ∈ fs, g.covers f) :
    OnlyFields fs s (t.flagIf c f) := by
  unfold State.flagIf
  split
  · exact h.set f 1 hf
  · exact h

theorem OnlyFields.count {fs : List Fld} {s t : State} (h : OnlyFields fs s t) (f : Fld) (n : Nat) (hf : ∃ g ∈ fs, g.covers f) :
    OnlyFields fs s (t.count f n) := h.set f _ hf

theorem OnlyFields.setInt {fs : List Fld} {s t : State} (h : OnlyFields fs s t) (f : Fld) (v : Int) (hf : ∃ g ∈ fs, g.covers f) :
    OnlyFields fs s (t.setInt f v) := h.set f _ hf

theorem OnlyFields.setBitAt {fs : List Fld} {s t : State} (h : OnlyFields fs s t) (f : Fld) (i : Nat) (b : Bool)
    (hf : ∃ g ∈ fs, g.covers ⟨f.addr, f.lo + i, 1⟩) : OnlyFields fs s (t.setBitAt f i b) := h.set ⟨f.addr, f.lo + i, 1⟩ _ hf

/-- Updates of other parts of the state leave every field as it is. -/
theorem OnlyFields.other {fs : List Fld} {s t u : State} (h : OnlyFields fs s t) (hu : u.regs = t.regs) : OnlyFields fs s u :=
  fun f hf hg => (congrArg (fun m => (tabGet regReset m f.addr).toNat / 2 ^ f.lo % 2 ^ f.width) hu).trans (h f hf hg)

/-- A change of fields within a block is a change within the block. -/
theorem OnlyFields.block {fs : List Fld} {s t : State} (h : OnlyFields fs s t) (lo hi : Nat) (hf : ∀ g ∈ fs, lo ≤ g.addr ∧ g.addr < hi) :
    BlockOnly lo hi s t := by
  intro a ha
  have e := h ⟨a, 0, 32⟩ (by simp [Fld.fits]) fun g hg => .inl fun (e : g.addr = a) => by have := hf g hg; omega
  apply BitVec.eq_of_toNat_eq
  simpa [State.get, Nat.mod_eq_of_lt (BitVec.isLt _)] using e

theorem BlockOnly.refl (lo hi : Nat) (s : State) : BlockOnly lo hi s s := fun _ _ => rfl

theorem BlockOnly.trans {lo hi : Nat} {s t u : State} (h : BlockOnly lo hi s t) (k : BlockOnly lo hi t u) : BlockOnly lo hi s u :=
  fun a ha => (k a ha).trans (h a ha)

/-- A set of the parts' values that is the state's own is no change. -/
theorem OnlyParts.refl (ps : List Part) (s : State) : OnlyParts ps s s := ⟨rfl, rfl, fun p _ => by cases p <;> rfl⟩

theorem OnlyParts.trans {ps : List Part} {s t u : State} (h : OnlyParts ps s t) (k : OnlyParts ps t u) : OnlyParts ps s u :=
  ⟨k.1.trans h.1, k.2.1.trans h.2.1, fun p hp => by
    have a := h.2.2 p hp
    have b := k.2.2 p hp
    cases p <;> exact Eq.trans b a⟩

/-! ### Waits -/

theorem State.timerOn_start (s : State) (t : Nat) : (s.startTimer t).timerOn t = true := by
  simp [State.timerOn, tabGet_put_self]

theorem State.timerOn_stop (s : State) (t : Nat) : (s.stopTimer t).timerOn t = false := by
  simp [State.timerOn, tabGet_put_self]

theorem State.elapsed_start (s : State) (t : Nat) : (s.startTimer t).elapsed t = 0 := by
  simp [State.elapsed, tabGet_put_self]

/-- While SYS is on, the command of a register row has its outcome (R15). -/
theorem State.byRow_on {s t : State} (h : s.domOn .sys = true) : s.byRow t = t := if_pos h

end Sys2Proof.Machine
end

