-- ==== Sys2Proof/Laws/Arbiter.lean ====
section
/-! SUPPORT. The register arbiter: where nothing is under way it does nothing, and an access that nothing holds takes place as it is
granted. -/

set_option Elab.async false

namespace Sys2Proof.Machine

/-- With nothing under way no requester has an access to be granted. -/
theorem State.owes_quiet (s : State) (h : Quiet s) (w : Requester) : s.owes w = false := by
  obtain ⟨-, -, hb, hf, hw, -⟩ := h
  unfold State.owes
  rw [hw, hb, hf]
  cases w <;> simp

theorem State.arbRun_quiet (n : Nat) (s : State) (h : Quiet s) : s.arbRun n = s := by
  cases n with
  | zero => rfl
  | succ n => simp [State.arbRun, List.find?, s.owes_quiet h]

theorem State.arbiter_quiet (s : State) (h : Quiet s) : s.arbiter = s := by
  have e : { s with bus := { s.bus with ended := [] } } = s := by rw [← h.2.2.2.2.2]
  unfold State.arbiter
  rw [h.2.2.2.2.2]
  simp only [List.foldl_nil, e]
  exact s.arbRun_quiet _ h

theorem State.got_row (s : State) (x : Access) (h : x.serves = .row) : s.got x = s := by
  unfold State.got
  rw [h]

theorem State.grantTo_row (s : State) (x : Access) (h : x.serves = .row) : s.grantTo x = s.grant x := by
  unfold State.grantTo
  dsimp only
  rw [State.got_row _ _ h, ite_self]

theorem State.ungate_running (s : State) (d : Dom) (h : s.isGated d = false) : s.ungate d = s := by
  unfold State.ungate
  rw [if_neg]
  simpa [State.isGated] using h

/-- An access of a command's own row that nothing holds takes place in the turn of its requester. -/
theorem State.access_ready {s : State} {x : Access} {r : RegRow} (hx : x.serves = .row) (hr : regRow x.addr = some r) (ha : x.addr % 4 = 0)
    (hl : x.addr < 0x400000) (hc : x.addr ≠ Reg.FAB_CIS_DATA.word.addr) (h : AccessReady x.who (accessDom r x.addr) s) :
    s.access x = ({ s with bus := { s.bus with turn := x.who } }).perform x := by
  obtain ⟨h1, h2, h3, h4, h5, h6⟩ := h
  have w : ¬ (0x400000 ≤ x.addr ∧ x.addr < 0x600000) := by omega
  have hd : x.dom = accessDom r x.addr := by unfold Access.dom; rw [hr]
  unfold State.access
  rw [h4, h5, if_neg (by simp), State.grantTo_row _ _ hx]
  have key (u : State) (hu : u = { s with bus := { s.bus with turn := x.who } }) : u.cross x = u.perform x := by
    subst hu
    unfold State.cross
    rw [hd]
    cases e : xingOfDom (accessDom r x.addr) with
    | none => rfl
    | some n =>
      have h7 := h6 n e
      have c : ((({ s with bus := { s.bus with turn := x.who } } : State).xingOpen n && ({ s with bus := { s.bus with turn := x.who } } : State).farRuns (accessDom r x.addr)) &&
          (({ s with bus := { s.bus with turn := x.who } } : State).xingSt n).words.isEmpty) = true := by
        show ((s.xingOpen n && s.farRuns (accessDom r x.addr)) && (s.xingSt n).words.isEmpty) = true
        rw [h7.1, h7.2.1, h7.2.2]; rfl
      dsimp only
      rw [if_pos c, State.ungate_running _ _ (show ({ s with bus := { s.bus with turn := x.who } } : State).isGated _ = false from h3)]
      unfold State.cisBusy
      rw [if_neg hc]
  unfold State.grant
  rw [if_neg (by show ¬ (!s.domOn .sys || x.addr % 4 != 0) = true; simp [h1, ha]), if_neg w, hr]
  dsimp only
  rw [if_neg (by show ¬ (!s.domOn (accessDom r x.addr)) = true; simp [h2])]
  split
  · exact key _ rfl
  · rfl

end Sys2Proof.Machine
end

