-- ==== Sys2Proof/Laws/KeptOps.lean ====
section
/-! SUPPORT. Each operation of Machine/Ops.lean keeps the queue, the time and the invariant. -/

set_option Elab.async false

namespace Sys2Proof.Laws

open Sys2Proof.Machine

theorem set_kept {lb : Nat} {may : Part → Prop} {s0 s : State} (f : Fld) (v : ℕ) (h : Kept lb may s0 s) (hn : Low lb f.addr := by
      first
      | assumption
      | exact ‹Low _ _›.up2 rfl
      | exact ‹Low _ _›.up1 rfl
      | exact ‹Low _ _›.of_le (by decide)) :
    Kept lb may s0 (State.set s f v) :=
  setWord_kept h _ _ hn

theorem setNat_kept {lb : Nat} {may : Part → Prop} {s0 s : State} (f : Fld) (v : ℕ) (h : Kept lb may s0 s) (hn : Low lb f.addr := by
      first
      | assumption
      | exact ‹Low _ _›.up2 rfl
      | exact ‹Low _ _›.up1 rfl
      | exact ‹Low _ _›.of_le (by decide)) :
    Kept lb may s0 (State.setNat s f v) :=
  setWord_kept h _ _ hn

theorem flag_kept {lb : Nat} {may : Part → Prop} {s0 s : State} (f : Fld) (h : Kept lb may s0 s) (hn : Low lb f.addr := by
      first
      | assumption
      | exact ‹Low _ _›.up2 rfl
      | exact ‹Low _ _›.up1 rfl
      | exact ‹Low _ _›.of_le (by decide)) :
    Kept lb may s0 (State.flag s f) :=
  set_kept _ _ h hn

theorem flagIf_kept {lb : Nat} {may : Part → Prop} {s0 s : State} (c : Bool) (f : Fld) (h : Kept lb may s0 s) (hn : Low lb f.addr := by
      first
      | assumption
      | exact ‹Low _ _›.up2 rfl
      | exact ‹Low _ _›.up1 rfl
      | exact ‹Low _ _›.of_le (by decide)) :
    Kept lb may s0 (State.flagIf s c f) := by
  unfold State.flagIf
  split
  · exact flag_kept _ h hn
  · exact h

theorem setBitAt_kept {lb : Nat} {may : Part → Prop} {s0 s : State} (f : Fld) (i : ℕ) (b : Bool) (h : Kept lb may s0 s) (hn : Low lb f.addr := by
      first
      | assumption
      | exact ‹Low _ _›.up2 rfl
      | exact ‹Low _ _›.up1 rfl
      | exact ‹Low _ _›.of_le (by decide)) :
    Kept lb may s0 (State.setBitAt s f i b) :=
  set_kept _ _ h hn

theorem count_kept {lb : Nat} {may : Part → Prop} {s0 s : State} (f : Fld) (n : ℕ) (h : Kept lb may s0 s) (hn : Low lb f.addr := by
      first
      | assumption
      | exact ‹Low _ _›.up2 rfl
      | exact ‹Low _ _›.up1 rfl
      | exact ‹Low _ _›.of_le (by decide)) :
    Kept lb may s0 (State.count s f n) :=
  set_kept _ _ h hn

theorem setInt_kept {lb : Nat} {may : Part → Prop} {s0 s : State} (f : Fld) (v : ℤ) (h : Kept lb may s0 s) (hn : Low lb f.addr := by
      first
      | assumption
      | exact ‹Low _ _›.up2 rfl
      | exact ‹Low _ _›.up1 rfl
      | exact ‹Low _ _›.of_le (by decide)) :
    Kept lb may s0 (State.setInt s f v) :=
  set_kept _ _ h hn

theorem drawn_kept {lb : Nat} {may : Part → Prop} {s0 s : State} (h : Kept lb may s0 s) (h_free : may .free := by assumption) :
    Kept lb may s0 (State.drawn s) := by
  unfold State.drawn
  repeat' (first
    | with_reducible assumption
    | with_reducible apply Kept.with_free)

theorem startTimer_kept {lb : Nat} {may : Part → Prop} {s0 s : State} (t : ℕ) (h : Kept lb may s0 s) (h_timers : may .timers := by assumption) :
    Kept lb may s0 (State.startTimer s t) := by
  unfold State.startTimer
  repeat' (first
    | with_reducible assumption
    | intro v
    | with_reducible apply Kept.with_timers)

theorem stopTimer_kept {lb : Nat} {may : Part → Prop} {s0 s : State} (t : ℕ) (h : Kept lb may s0 s) (h_timers : may .timers := by assumption) :
    Kept lb may s0 (State.stopTimer s t) := by
  unfold State.stopTimer
  repeat' (first
    | with_reducible assumption
    | intro v
    | with_reducible apply Kept.with_timers)

theorem setDom_kept {lb : Nat} {may : Part → Prop} {s0 s : State} (d : Dom) (b : Bool) (h : Kept lb may s0 s) (hn : Low lb 0x30004 := by exact ‹Low _ _›.up rfl) :
    Kept lb may s0 (State.setDom s d b) := by
  unfold State.setDom
  repeat' (first
    | with_reducible assumption
    | exact ‹Low _ _›.of_le (by decide)
    | with_reducible apply setBitAt_kept
)

theorem onBus_kept {lb : Nat} {may : Part → Prop} {s0 s : State} (data : Word) (last : BusEnd) (h : Kept lb may s0 s) (h_bus : may .bus := by assumption) :
    Kept lb may s0 (State.onBus s data last) := by
  unfold State.onBus
  repeat' (first
    | with_reducible assumption
    | (extract_lets +onlyGivenNames x; clear_value x)
    | with_reducible apply Kept.with_bus)

theorem byRow_kept {lb : Nat} {may : Part → Prop} {s0 s t : State} (h : Kept lb may s0 s) (ht : Kept lb may s0 t) (h_bus : may .bus := by assumption) :
    Kept lb may s0 (State.byRow s t) := by
  unfold State.byRow
  exact iteInduction (fun _ => ht) fun _ => onBus_kept _ _ h

theorem setBasinState_kept {lb : Nat} {may : Part → Prop} {s0 s : State} (b : ℕ) (v : ℕ) (h : Kept lb may s0 s) (hn : Low lb 0x100004 := by exact ‹Low _ _›.up rfl) :
    Kept lb may s0 (State.setBasinState s b v) := by
  unfold State.setBasinState
  repeat' (first
    | with_reducible assumption
    | exact ‹Low _ _›.up1 rfl
    | exact ‹Low _ _›.of_le (by decide)
    | with_reducible apply set_kept
)

theorem setFab_kept {lb : Nat} {may : Part → Prop} {s0 s : State} (f : FabSt) (h : Kept lb may s0 s) (hc : f.cis = s.fab.cis)
    (h_fab : may .fab := by assumption) : Kept lb may s0 (State.setFab s f) :=
  h.with_fab f hc


theorem setBasin_kept {lb : Nat} {may : Part → Prop} {s0 s : State} (b : ℕ) (a2 : Basin) (h : Kept lb may s0 s) (h_fab : may .fab := by assumption) :
    Kept lb may s0 (State.setBasin s b a2) := by
  unfold State.setBasin
  repeat' (first
    | with_reducible assumption
    | (extract_lets +onlyGivenNames x; subst x)
    | with_reducible apply setFab_kept
    | intro v
    | (fail_if_no_progress beta_reduce)
    | rfl)

theorem setGate_kept {lb : Nat} {may : Part → Prop} {s0 s : State} (n : ℕ) (g : Gateway) (h : Kept lb may s0 s) (h_irq : may .irq := by assumption) :
    Kept lb may s0 (State.setGate s n g) := by
  unfold State.setGate
  repeat' (first
    | with_reducible assumption
    | (extract_lets +onlyGivenNames x; subst x)
    | intro v
    | with_reducible apply Kept.with_irq)

theorem pulse_kept {lb : Nat} {may : Part → Prop} {s0 s : State} (n : ℕ) (manyPulses : Bool) (h : Kept lb may s0 s) (h_irq : may .irq := by assumption) :
    Kept lb may s0 (State.pulse s n manyPulses) := by
  unfold State.pulse
  repeat' (first
    | with_reducible assumption
    | with_reducible apply setGate_kept
    | split)

theorem followLevel_kept {lb : Nat} {may : Part → Prop} {s0 s : State} (n : ℕ) (h : Kept lb may s0 s) (h_irq : may .irq := by assumption) :
    Kept lb may s0 (State.followLevel s n) := by
  unfold State.followLevel
  repeat' (first
    | with_reducible assumption
    | with_reducible apply setGate_kept
    | split)

end Sys2Proof.Laws
end

