-- ==== Sys2Proof/Laws/KeptErrors.lean ====
section
/-! SUPPORT. Each operation of Machine/Errors.lean keeps the queue, the time and the invariant. -/

set_option Elab.async false

namespace Sys2Proof.Laws

open Sys2Proof.Machine

theorem errorSeen_kept {lb : Nat} {may : Part → Prop} {s0 s : State} (cls : ℕ) (h : Kept lb may s0 s) (hn : Low lb 0x7000c := by exact ‹Low _ _›.up rfl) :
    Kept lb may s0 (State.errorSeen s cls) := by
  unfold State.errorSeen
  repeat' (first
    | with_reducible assumption
    | exact ‹Low _ _›.of_le (by decide)
    | (extract_lets +onlyGivenNames x; subst x)
    | with_reducible apply count_kept
    | with_reducible apply setBitAt_kept
    | split)

theorem remember_kept {lb : Nat} {may : Part → Prop} {s0 s : State} (cls : ℕ) (unit : ℕ) (h : Kept lb may s0 s) (h_stew : may .stew := by assumption) :
    Kept lb may s0 (State.remember s cls unit) := by
  unfold State.remember
  repeat' (first
    | with_reducible assumption
    | (extract_lets +onlyGivenNames x; clear_value x)
    | with_reducible apply Kept.with_stew)

theorem error_kept {lb : Nat} {may : Part → Prop} {s0 s : State} (cls : ℕ) (unit : ℕ) (h : Kept lb may s0 s) (hn : Low lb 0x7000c := by exact ‹Low _ _›.up rfl) (h_stew : may .stew := by assumption) :
    Kept lb may s0 (State.error s cls unit) := by
  unfold State.error
  repeat' (first
    | with_reducible assumption
    | exact ‹Low _ _›.of_le (by decide)
    | (extract_lets +onlyGivenNames x; refine (have hx : Kept lb may s0 x := ?_; ?_); rotate_left; clear_value x; rotate_right; subst x)
    | (extract_lets +onlyGivenNames x; clear_value x)
    | with_reducible apply errorSeen_kept
    | with_reducible apply remember_kept
    | split
    | with_reducible apply Kept.with_stew)

theorem record_kept {lb : Nat} {may : Part → Prop} {s0 s : State} (ty : ℕ) (cls : ℕ) (unit : ℕ) (outcome : ℕ) (tick : TickNo) (rep : ℕ) (data : List Byte) (h : Kept lb may s0 s) (h_stew : may .stew := by assumption) :
    Kept lb may s0 (State.record s ty cls unit outcome tick rep data) := by
  unfold State.record
  repeat' (first
    | with_reducible assumption
    | (extract_lets +onlyGivenNames x; subst x)
    | with_reducible apply Kept.with_stew)

theorem note_kept {lb : Nat} {may : Part → Prop} {s0 s : State} (ty : ℕ) (data : List Byte) (h : Kept lb may s0 s) (h_stew : may .stew := by assumption) :
    Kept lb may s0 (State.note s ty data) := by
  unfold State.note
  repeat' (first
    | with_reducible assumption
    | with_reducible apply record_kept
)

theorem errorRecord_kept {lb : Nat} {may : Part → Prop} {s0 s : State} (cls : ℕ) (unit : ℕ) (outcome : ℕ) (tick : TickNo) (data : List Byte) (h : Kept lb may s0 s) (h_stew : may .stew := by assumption) :
    Kept lb may s0 (State.errorRecord s cls unit outcome tick data) := by
  unfold State.errorRecord
  repeat' (first
    | with_reducible assumption
    | (extract_lets +onlyGivenNames x; subst x; beta_reduce)
    | with_reducible apply record_kept
    | intro v
    | split
    | with_reducible apply Kept.with_stew)

theorem errorDone_kept {lb : Nat} {may : Part → Prop} {s0 s : State} (cls : ℕ) (unit : ℕ) (h : Kept lb may s0 s) (h_stew : may .stew := by assumption) :
    Kept lb may s0 (State.errorDone s cls unit) := by
  unfold State.errorDone
  repeat' (first
    | with_reducible assumption
    | (extract_lets +onlyGivenNames x; subst x)
    | intro v
    | with_reducible apply Kept.with_stew)

theorem showTests_kept {lb : Nat} {may : Part → Prop} {s0 s : State} (h : Kept lb may s0 s) (hn : Low lb 0x70004 := by exact ‹Low _ _›.up rfl) :
    Kept lb may s0 (State.showTests s) := by
  unfold State.showTests
  repeat' (first
    | with_reducible assumption
    | exact ‹Low _ _›.of_le (by decide)
    | with_reducible apply set_kept)

end Sys2Proof.Laws
end

