-- ==== Sys2Proof/Laws/KeptAout.lean ====
section
/-! SUPPORT. Each operation of Machine/Aout.lean keeps the queue, the time and the invariant. -/

set_option Elab.async false

namespace Sys2Proof.Laws

open Sys2Proof.Machine

theorem setAoCh_kept {lb : Nat} {may : Part → Prop} {s0 s : State} (k : ℕ) (c : AoutCh) (h : Kept lb may s0 s) (h_aout : may .aout := by assumption) :
    Kept lb may s0 (State.setAoCh s k c) := by
  unfold State.setAoCh
  repeat' (first
    | with_reducible assumption
    | intro v
    | with_reducible apply Kept.with_aout)

theorem aoRetarget_kept {lb : Nat} {may : Part → Prop} {s0 s : State} (k : ℕ) (h : Kept lb may s0 s) (hn : Low lb 0x15010c := by exact ‹Low _ _›.up rfl) (h_timers : may .timers := by assumption) (h_aout : may .aout := by assumption) :
    Kept lb may s0 (State.aoRetarget s k) := by
  unfold State.aoRetarget
  repeat' (first
    | with_reducible assumption
    | exact ‹Low _ _›.up1 rfl
    | exact ‹Low _ _›.of_le (by decide)
    | (extract_lets +onlyGivenNames x; refine (have hx : Kept lb may s0 x := ?_; ?_); rotate_left; clear_value x; rotate_right; subst x)
    | (extract_lets +onlyGivenNames x; clear_value x)
    | with_reducible apply startTimer_kept
    | with_reducible apply set_kept
    | with_reducible apply setAoCh_kept
    | split)

theorem aoRetargetAll_kept {lb : Nat} {may : Part → Prop} {s0 s : State} (h : Kept lb may s0 s) (hn : Low lb 0x15010c := by exact ‹Low _ _›.up rfl) (h_timers : may .timers := by assumption) (h_aout : may .aout := by assumption) :
    Kept lb may s0 (State.aoRetargetAll s) := by
  unfold State.aoRetargetAll
  repeat' (first
    | with_reducible assumption
    | exact ‹Low _ _›.of_le (by decide)
    | with_reducible apply aoRetarget_kept
    | with_reducible apply Kept.foldl
    | intro v)

theorem aoEngaged_kept {lb : Nat} {may : Part → Prop} {s0 s : State} (k : ℕ) (h : Kept lb may s0 s) (hn : Low lb 0x150004 := by exact ‹Low _ _›.up rfl) (h_aout : may .aout := by assumption) :
    Kept lb may s0 (State.aoEngaged s k) := by
  unfold State.aoEngaged
  repeat' (first
    | with_reducible assumption
    | exact ‹Low _ _›.up1 rfl
    | exact ‹Low _ _›.of_le (by decide)
    | (extract_lets +onlyGivenNames x; clear_value x)
    | with_reducible apply setAoCh_kept
    | with_reducible apply flag_kept
    | with_reducible apply count_kept
    | split)

theorem aoTick_kept {lb : Nat} {may : Part → Prop} {s0 s : State} (k : ℕ) (h : Kept lb may s0 s) (hn : Low lb 0x150004 := by exact ‹Low _ _›.up rfl) (h_aout : may .aout := by assumption) :
    Kept lb may s0 (State.aoTick s k) := by
  unfold State.aoTick
  repeat' (first
    | with_reducible assumption
    | exact ‹Low _ _›.of_le (by decide)
    | (extract_lets +onlyGivenNames x; refine (have hx : Kept lb may s0 x := ?_; ?_); rotate_left; clear_value x; rotate_right; subst x)
    | (extract_lets +onlyGivenNames x; clear_value x)
    | with_reducible apply setAoCh_kept
    | with_reducible apply aoEngaged_kept
    | split)

theorem aoTransitionEnd_kept {lb : Nat} {may : Part → Prop} {s0 s : State} (k : ℕ) (h : Kept lb may s0 s) (hn : Low lb 0x15010c := by exact ‹Low _ _›.up rfl) (h_timers : may .timers := by assumption) (h_aout : may .aout := by assumption) :
    Kept lb may s0 (State.aoTransitionEnd s k) := by
  unfold State.aoTransitionEnd
  repeat' (first
    | with_reducible assumption
    | exact ‹Low _ _›.up1 rfl
    | exact ‹Low _ _›.of_le (by decide)
    | (extract_lets +onlyGivenNames x; subst x)
    | with_reducible apply stopTimer_kept
    | with_reducible apply set_kept
    | with_reducible apply setAoCh_kept
    | split)

theorem aoClearAll_kept {lb : Nat} {may : Part → Prop} {s0 s : State} (h : Kept lb may s0 s) (hn : Low lb 0x15010c := by exact ‹Low _ _›.up rfl) (h_aout : may .aout := by assumption) :
    Kept lb may s0 (State.aoClearAll s) := by
  unfold State.aoClearAll
  repeat' (first
    | with_reducible assumption
    | exact ‹Low _ _›.up1 rfl
    | exact ‹Low _ _›.of_le (by decide)
    | (extract_lets +onlyGivenNames x; refine (have hx : Kept lb may s0 x := ?_; ?_); rotate_left; clear_value x; rotate_right; subst x)
    | (extract_lets +onlyGivenNames x; clear_value x)
    | with_reducible apply setAoCh_kept
    | with_reducible apply set_kept
    | with_reducible refine Kept.foldl _ _ _ ?_ fun _ _ _ => ?_
    | with_reducible refine Kept.foldl_snd _ _ _ ?_ fun _ _ _ => ?_
    | with_reducible refine Kept.foldl_fst _ _ _ ?_ fun _ _ _ => ?_
    | intro v
    | split)

theorem aoRelease_kept {lb : Nat} {may : Part → Prop} {s0 s : State} (h : Kept lb may s0 s) (hn : Low lb 0x15010c := by exact ‹Low _ _›.up rfl) (h_timers : may .timers := by assumption) (h_aout : may .aout := by assumption) :
    Kept lb may s0 (State.aoRelease s) := by
  unfold State.aoRelease
  repeat' (first
    | with_reducible assumption
    | exact ‹Low _ _›.of_le (by decide)
    | (extract_lets +onlyGivenNames x; clear_value x)
    | with_reducible apply aoRetarget_kept
    | with_reducible apply setAoCh_kept
    | with_reducible refine Kept.foldl _ _ _ ?_ fun _ _ _ => ?_)

theorem aoRateChange_kept {lb : Nat} {may : Part → Prop} {s0 s : State} (h : Kept lb may s0 s) (h_aout : may .aout := by assumption) :
    Kept lb may s0 (State.aoRateChange s) := by
  unfold State.aoRateChange
  repeat' (first
    | with_reducible assumption
    | (extract_lets +onlyGivenNames x; clear_value x)
    | with_reducible apply setAoCh_kept
    | with_reducible refine Kept.foldl _ _ _ ?_ fun _ _ _ => ?_
    | with_reducible refine Kept.foldl_snd _ _ _ ?_ fun _ _ _ => ?_
    | with_reducible refine Kept.foldl_fst _ _ _ ?_ fun _ _ _ => ?_
    | intro v
    | split)

theorem aoTakeClear_kept {lb : Nat} {may : Part → Prop} {s0 s : State} (h : Kept lb may s0 s) (h_aout : may .aout := by assumption) :
    Kept lb may s0 (State.aoTakeClear s) := by
  unfold State.aoTakeClear
  repeat' (first
    | with_reducible assumption
    | (extract_lets +onlyGivenNames x; clear_value x)
    | with_reducible apply setAoCh_kept
    | with_reducible refine Kept.foldl _ _ _ ?_ fun _ _ _ => ?_
    | with_reducible refine Kept.foldl_snd _ _ _ ?_ fun _ _ _ => ?_
    | with_reducible refine Kept.foldl_fst _ _ _ ?_ fun _ _ _ => ?_
    | intro v
    | split)

theorem aoPowerOff_kept {lb : Nat} {may : Part → Prop} {s0 s : State} (h : Kept lb may s0 s) (hn : Low lb 0x150000 := by exact ‹Low _ _›.up rfl) (h_timers : may .timers := by assumption) (h_aout : may .aout := by assumption) :
    Kept lb may s0 (State.aoPowerOff s) := by
  unfold State.aoPowerOff
  repeat' (first
    | with_reducible assumption
    | exact ‹Low _ _›.up1 rfl
    | exact ‹Low _ _›.of_le (by decide)
    | with_reducible apply stopTimer_kept
    | with_reducible apply set_kept
    | with_reducible apply setAoCh_kept
    | with_reducible refine Kept.foldl _ _ _ ?_ fun _ _ _ => ?_)

theorem aoPowerUp_kept {lb : Nat} {may : Part → Prop} {s0 s : State} (h : Kept lb may s0 s) (hn : Low lb 0x150000 := by exact ‹Low _ _›.up rfl) (h_timers : may .timers := by assumption) (h_aout : may .aout := by assumption) :
    Kept lb may s0 (State.aoPowerUp s) := by
  unfold State.aoPowerUp
  repeat' (first
    | with_reducible assumption
    | exact ‹Low _ _›.of_le (by decide)
    | with_reducible apply aoRetargetAll_kept
    | with_reducible apply startTimer_kept
    | with_reducible apply set_kept
)

theorem aoSettle_kept {lb : Nat} {may : Part → Prop} {s0 s : State} (h : Kept lb may s0 s) (hn : Low lb 0x150000 := by exact ‹Low _ _›.up rfl) (h_timers : may .timers := by assumption) :
    Kept lb may s0 (State.aoSettle s) := by
  unfold State.aoSettle
  repeat' (first
    | with_reducible assumption
    | exact ‹Low _ _›.of_le (by decide)
    | with_reducible apply stopTimer_kept
    | with_reducible apply set_kept
    | split)

theorem aoCalibrate_kept {lb : Nat} {may : Part → Prop} {s0 s : State} (mask : ℕ) (h : Kept lb may s0 s) (hn : Low lb 0x150000 := by exact ‹Low _ _›.up rfl) (h_aout : may .aout := by assumption) :
    Kept lb may s0 (State.aoCalibrate s mask) := by
  unfold State.aoCalibrate
  repeat' (first
    | with_reducible assumption
    | exact ‹Low _ _›.of_le (by decide)
    | (extract_lets +onlyGivenNames x; clear_value x)
    | with_reducible apply setAoCh_kept
    | with_reducible apply set_kept
    | with_reducible refine Kept.foldl _ _ _ ?_ fun _ _ _ => ?_
    | with_reducible refine Kept.foldl_snd _ _ _ ?_ fun _ _ _ => ?_
    | with_reducible refine Kept.foldl_fst _ _ _ ?_ fun _ _ _ => ?_
    | intro v
    | split)

theorem aoCalStart_kept {lb : Nat} {may : Part → Prop} {s0 s : State} (mask : ℕ) (h : Kept lb may s0 s) (hn : Low lb 0x150000 := by exact ‹Low _ _›.up rfl) (h_aout : may .aout := by assumption) :
    Kept lb may s0 (State.aoCalStart s mask) := by
  unfold State.aoCalStart
  repeat' (first
    | with_reducible assumption
    | exact ‹Low _ _›.of_le (by decide)
    | (extract_lets +onlyGivenNames x; clear_value x)
    | with_reducible apply flag_kept
    | with_reducible apply aoCalibrate_kept
    | with_reducible refine Kept.foldl _ _ _ ?_ fun _ _ _ => ?_
    | with_reducible refine Kept.foldl_snd _ _ _ ?_ fun _ _ _ => ?_
    | with_reducible refine Kept.foldl_fst _ _ _ ?_ fun _ _ _ => ?_
    | intro v
    | split)

theorem aoCalDone_kept {lb : Nat} {may : Part → Prop} {s0 s : State} (fail : ℕ) (h : Kept lb may s0 s) (hn : Low lb 0x150000 := by exact ‹Low _ _›.up rfl) (h_aout : may .aout := by assumption) :
    Kept lb may s0 (State.aoCalDone s fail) := by
  unfold State.aoCalDone
  repeat' (first
    | with_reducible assumption
    | exact ‹Low _ _›.of_le (by decide)
    | (extract_lets +onlyGivenNames x; refine (have hx : Kept lb may s0 x := ?_; ?_); rotate_left; clear_value x; rotate_right; subst x)
    | (extract_lets +onlyGivenNames x; clear_value x)
    | with_reducible apply setBitAt_kept
    | with_reducible apply setAoCh_kept
    | with_reducible apply flag_kept
    | with_reducible apply set_kept
    | with_reducible refine Kept.foldl _ _ _ ?_ fun _ _ _ => ?_
    | with_reducible refine Kept.foldl_snd _ _ _ ?_ fun _ _ _ => ?_
    | with_reducible refine Kept.foldl_fst _ _ _ ?_ fun _ _ _ => ?_
    | intro v
    | split)

theorem aoEngage_kept {lb : Nat} {may : Part → Prop} {s0 s : State} (k : ℕ) (h : Kept lb may s0 s) (hn : Low lb 0x150004 := by exact ‹Low _ _›.up rfl) (h_aout : may .aout := by assumption) :
    Kept lb may s0 (State.aoEngage s k) := by
  unfold State.aoEngage
  repeat' (first
    | with_reducible assumption
    | exact ‹Low _ _›.of_le (by decide)
    | with_reducible apply aoEngaged_kept
    | split)

theorem execTransitionEnd_kept {lb : Nat} {may : Part → Prop} {s0 s : State} (k : Fin 16) (h : Kept lb may s0 s) (hn : Low lb 0x15010c := by exact ‹Low _ _›.up rfl) (h_timers : may .timers := by assumption) (h_aout : may .aout := by assumption) :
    ∃ out, execTransitionEnd k s = .next out ∧ Kept lb may s0 out := by
  refine ⟨_, rfl, ?_⟩
  repeat' (first
    | with_reducible assumption
    | with_reducible intro v
    | exact ‹Low _ _›.of_le (by decide)
    | with_reducible apply aoTransitionEnd_kept
)

theorem execSlewEngagement_kept {lb : Nat} {may : Part → Prop} {s0 s : State} (k : Fin 16) (h : Kept lb may s0 s) (hn : Low lb 0x150004 := by exact ‹Low _ _›.up rfl) (h_aout : may .aout := by assumption) :
    ∃ out, execSlewEngagement k s = .next out ∧ Kept lb may s0 out := by
  refine ⟨_, rfl, ?_⟩
  repeat' (first
    | with_reducible assumption
    | with_reducible intro v
    | exact ‹Low _ _›.of_le (by decide)
    | with_reducible apply aoEngage_kept
)

end Sys2Proof.Laws
end

