-- ==== Sys2Proof/Laws/KeptHp.lean ====
section
/-! SUPPORT. Each operation of Machine/Hp.lean keeps the queue, the time and the invariant. -/

set_option Elab.async false

namespace Sys2Proof.Laws

open Sys2Proof.Machine

theorem setHpAmp_kept {lb : Nat} {may : Part → Prop} {s0 s : State} (n : ℕ) (a : HpAmp) (h : Kept lb may s0 s) (h_hp : may .hp := by assumption) :
    Kept lb may s0 (State.setHpAmp s n a) := by
  unfold State.setHpAmp
  repeat' (first
    | with_reducible assumption
    | intro v
    | with_reducible apply Kept.with_hp)

theorem setHpState_kept {lb : Nat} {may : Part → Prop} {s0 s : State} (n : ℕ) (v : ℕ) (h : Kept lb may s0 s) (hn : Low lb 0x16010c := by exact ‹Low _ _›.up rfl) :
    Kept lb may s0 (State.setHpState s n v) := by
  unfold State.setHpState
  repeat' (first
    | with_reducible assumption
    | exact ‹Low _ _›.up1 rfl
    | exact ‹Low _ _›.of_le (by decide)
    | with_reducible apply set_kept
)

theorem hpPump_kept {lb : Nat} {may : Part → Prop} {s0 s : State} (h : Kept lb may s0 s) (hn : Low lb 0x160000 := by exact ‹Low _ _›.up rfl) :
    Kept lb may s0 (State.hpPump s) := by
  unfold State.hpPump
  repeat' (first
    | with_reducible assumption
    | exact ‹Low _ _›.of_le (by decide)
    | (extract_lets +onlyGivenNames x; subst x; beta_reduce)
    | with_reducible apply set_kept)

theorem hpClamp_kept {lb : Nat} {may : Part → Prop} {s0 s : State} (n : ℕ) (h : Kept lb may s0 s) (h_timers : may .timers := by assumption) (h_hp : may .hp := by assumption) :
    Kept lb may s0 (State.hpClamp s n) := by
  unfold State.hpClamp
  repeat' (first
    | with_reducible assumption
    | (extract_lets +onlyGivenNames x; clear_value x)
    | with_reducible apply stopTimer_kept
    | with_reducible apply setHpAmp_kept)

theorem hpSettle_kept {lb : Nat} {may : Part → Prop} {s0 s : State} (n : ℕ) (h : Kept lb may s0 s) (hn : Low lb 0x160000 := by exact ‹Low _ _›.up rfl) (h_timers : may .timers := by assumption) (h_hp : may .hp := by assumption) :
    Kept lb may s0 (State.hpSettle s n) := by
  unfold State.hpSettle
  repeat' (first
    | with_reducible assumption
    | exact ‹Low _ _›.of_le (by decide)
    | with_reducible apply hpPump_kept
    | with_reducible apply setHpState_kept
    | with_reducible apply hpClamp_kept)

theorem hpStop_kept {lb : Nat} {may : Part → Prop} {s0 s : State} (n : ℕ) (h : Kept lb may s0 s) (hn : Low lb 0x160000 := by exact ‹Low _ _›.up rfl) (h_timers : may .timers := by assumption) (h_hp : may .hp := by assumption) :
    Kept lb may s0 (State.hpStop s n) := by
  unfold State.hpStop
  repeat' (first
    | with_reducible assumption
    | exact ‹Low _ _›.of_le (by decide)
    | (extract_lets +onlyGivenNames x; clear_value x)
    | with_reducible apply setHpAmp_kept
    | with_reducible apply hpSettle_kept
    | split)

theorem hpBegin_kept {lb : Nat} {may : Part → Prop} {s0 s : State} (n : ℕ) (h : Kept lb may s0 s) (hn : Low lb 0x160000 := by exact ‹Low _ _›.up rfl) (h_timers : may .timers := by assumption) (h_hp : may .hp := by assumption) :
    Kept lb may s0 (State.hpBegin s n) := by
  unfold State.hpBegin
  repeat' (first
    | with_reducible assumption
    | exact ‹Low _ _›.of_le (by decide)
    | with_reducible apply startTimer_kept
    | with_reducible apply hpPump_kept
    | with_reducible apply setHpState_kept
    | with_reducible apply hpClamp_kept
)

theorem hpFollow_kept {lb : Nat} {may : Part → Prop} {s0 s : State} (n : ℕ) (h : Kept lb may s0 s) (hn : Low lb 0x160000 := by exact ‹Low _ _›.up rfl) (h_timers : may .timers := by assumption) (h_hp : may .hp := by assumption) :
    Kept lb may s0 (State.hpFollow s n) := by
  unfold State.hpFollow
  repeat' (first
    | with_reducible assumption
    | exact ‹Low _ _›.of_le (by decide)
    | (extract_lets +onlyGivenNames x; clear_value x)
    | with_reducible apply hpBegin_kept
    | with_reducible apply setHpAmp_kept
    | with_reducible apply hpStop_kept
    | split)

theorem hpMeasure_kept {lb : Nat} {may : Part → Prop} {s0 s : State} (n : ℕ) (zL : ℕ) (zR : ℕ) (h : Kept lb may s0 s) (hn : Low lb 0x160108 := by exact ‹Low _ _›.up rfl) (h_hp : may .hp := by assumption) :
    Kept lb may s0 (State.hpMeasure s n zL zR) := by
  unfold State.hpMeasure
  repeat' (first
    | with_reducible assumption
    | exact ‹Low _ _›.up1 rfl
    | exact ‹Low _ _›.of_le (by decide)
    | (extract_lets +onlyGivenNames x; subst x)
    | with_reducible apply set_kept
    | with_reducible apply setHpAmp_kept)

theorem hpTrip_kept {lb : Nat} {may : Part → Prop} {s0 s : State} (n : ℕ) (h : Kept lb may s0 s) (hn : Low lb 0x7000c := by exact ‹Low _ _›.up rfl) (h_timers : may .timers := by assumption) (h_hp : may .hp := by assumption) (h_stew : may .stew := by assumption) :
    Kept lb may s0 (State.hpTrip s n) := by
  unfold State.hpTrip
  repeat' (first
    | with_reducible assumption
    | exact ‹Low _ _›.up1 rfl
    | exact ‹Low _ _›.of_le (by decide)
    | (extract_lets +onlyGivenNames x; subst x)
    | with_reducible apply hpClamp_kept
    | with_reducible apply error_kept
    | with_reducible apply startTimer_kept
    | with_reducible apply set_kept
    | with_reducible apply flag_kept
    | with_reducible apply setHpState_kept
    | with_reducible apply setHpAmp_kept)

theorem hpRunNow_kept {lb : Nat} {may : Part → Prop} {s0 s : State} (n : ℕ) (h : Kept lb may s0 s) (hn : Low lb 0x160000 := by exact ‹Low _ _›.up rfl) (h_timers : may .timers := by assumption) (h_hp : may .hp := by assumption) :
    Kept lb may s0 (State.hpRunNow s n) := by
  unfold State.hpRunNow
  repeat' (first
    | with_reducible assumption
    | exact ‹Low _ _›.of_le (by decide)
    | (extract_lets +onlyGivenNames x; clear_value x)
    | with_reducible apply stopTimer_kept
    | with_reducible apply hpPump_kept
    | with_reducible apply setHpState_kept
    | with_reducible apply setHpAmp_kept)

theorem hpStart_kept {lb : Nat} {may : Part → Prop} {s0 s : State} (n : ℕ) (zL : ℕ) (zR : ℕ) (h : Kept lb may s0 s) (hn : Low lb 0x7000c := by exact ‹Low _ _›.up rfl) (h_timers : may .timers := by assumption) (h_hp : may .hp := by assumption) (h_stew : may .stew := by assumption) :
    Kept lb may s0 (State.hpStart s n zL zR) := by
  unfold State.hpStart
  repeat' (first
    | with_reducible assumption
    | exact ‹Low _ _›.of_le (by decide)
    | (extract_lets +onlyGivenNames x; refine (have hx : Kept lb may s0 x := ?_; ?_); rotate_left; clear_value x; rotate_right; subst x)
    | with_reducible apply hpBegin_kept
    | with_reducible apply hpRunNow_kept
    | with_reducible apply hpMeasure_kept
    | with_reducible apply hpTrip_kept
    | with_reducible apply flag_kept
    | split)

theorem hpRetest_kept {lb : Nat} {may : Part → Prop} {s0 s : State} (n : ℕ) (zL : ℕ) (zR : ℕ) (h : Kept lb may s0 s) (hn : Low lb 0x160000 := by exact ‹Low _ _›.up rfl) (h_timers : may .timers := by assumption) (h_hp : may .hp := by assumption) :
    Kept lb may s0 (State.hpRetest s n zL zR) := by
  unfold State.hpRetest
  repeat' (first
    | with_reducible assumption
    | exact ‹Low _ _›.of_le (by decide)
    | (extract_lets +onlyGivenNames x; refine (have hx : Kept lb may s0 x := ?_; ?_); rotate_left; clear_value x; rotate_right; subst x)
    | (extract_lets +onlyGivenNames x; clear_value x)
    | with_reducible apply stopTimer_kept
    | with_reducible apply hpMeasure_kept
    | with_reducible apply hpRunNow_kept
    | with_reducible apply flag_kept
    | with_reducible apply hpSettle_kept
    | with_reducible apply setHpState_kept
    | with_reducible apply setHpAmp_kept
    | split)

theorem hpUnlatch_kept {lb : Nat} {may : Part → Prop} {s0 s : State} (n : ℕ) (h : Kept lb may s0 s) (hn : Low lb 0x160000 := by exact ‹Low _ _›.up rfl) (h_timers : may .timers := by assumption) (h_hp : may .hp := by assumption) :
    Kept lb may s0 (State.hpUnlatch s n) := by
  unfold State.hpUnlatch
  repeat' (first
    | with_reducible assumption
    | exact ‹Low _ _›.of_le (by decide)
    | (extract_lets +onlyGivenNames x; refine (have hx : Kept lb may s0 x := ?_; ?_); rotate_left; clear_value x; rotate_right; subst x)
    | (extract_lets +onlyGivenNames x; clear_value x)
    | with_reducible apply setHpAmp_kept
    | with_reducible apply hpBegin_kept
    | with_reducible apply hpSettle_kept
    | split)

theorem hpVolumeStep_kept {lb : Nat} {may : Part → Prop} {s0 s : State} (n : ℕ) (right : Bool) (h : Kept lb may s0 s) (hn : Low lb 0x160000 := by exact ‹Low _ _›.up rfl) (h_timers : may .timers := by assumption) (h_hp : may .hp := by assumption) :
    Kept lb may s0 (State.hpVolumeStep s n right) := by
  unfold State.hpVolumeStep
  repeat' (first
    | with_reducible assumption
    | exact ‹Low _ _›.of_le (by decide)
    | (extract_lets +onlyGivenNames x; refine (have hx : Kept lb may s0 x := ?_; ?_); rotate_left; clear_value x; rotate_right; subst x)
    | (extract_lets +onlyGivenNames x; clear_value x)
    | with_reducible apply setHpAmp_kept
    | with_reducible apply hpStop_kept
    | intro v
    | split)

theorem hpTick_kept {lb : Nat} {may : Part → Prop} {s0 s : State} (n : ℕ) (h : Kept lb may s0 s) (h_hp : may .hp := by assumption) :
    Kept lb may s0 (State.hpTick s n) := by
  unfold State.hpTick
  repeat' (first
    | with_reducible assumption
    | (extract_lets +onlyGivenNames x; clear_value x)
    | with_reducible apply setHpAmp_kept)

theorem hpRateChange_kept {lb : Nat} {may : Part → Prop} {s0 s : State} (h : Kept lb may s0 s) (h_hp : may .hp := by assumption) :
    Kept lb may s0 (State.hpRateChange s) := by
  unfold State.hpRateChange
  repeat' (first
    | with_reducible assumption
    | (extract_lets +onlyGivenNames x; subst x; beta_reduce)
    | with_reducible apply setHpAmp_kept
    | intro v
    | split)

theorem hpShowTrips_kept {lb : Nat} {may : Part → Prop} {s0 s : State} (h : Kept lb may s0 s) (hn : Low lb 0x16010c := by exact ‹Low _ _›.up rfl) :
    Kept lb may s0 (State.hpShowTrips s) := by
  unfold State.hpShowTrips
  repeat' (first
    | with_reducible assumption
    | exact ‹Low _ _›.up1 rfl
    | exact ‹Low _ _›.of_le (by decide)
    | (extract_lets +onlyGivenNames x; subst x; beta_reduce)
    | with_reducible apply set_kept)

theorem jackInsert_kept {lb : Nat} {may : Part → Prop} {s0 s : State} (n : ℕ) (h : Kept lb may s0 s) (hn : Low lb 0x160000 := by exact ‹Low _ _›.up rfl) (h_timers : may .timers := by assumption) (h_hp : may .hp := by assumption) :
    Kept lb may s0 (State.jackInsert s n) := by
  unfold State.jackInsert
  repeat' (first
    | with_reducible assumption
    | exact ‹Low _ _›.up2 rfl
    | exact ‹Low _ _›.up1 rfl
    | exact ‹Low _ _›.of_le (by decide)
    | exact ‹Low _ _›.of_le (by decide : 0x160000 ≤ Reg.HP_STAT.word.addr)
    | exact ‹Low _ _›.of_le (by decide : 0x160000 ≤ Reg.HP_EVT.word.addr)
    | (extract_lets +onlyGivenNames x; refine (have hx : Kept lb may s0 x := ?_; ?_); rotate_left; clear_value x; rotate_right; subst x)
    | (extract_lets +onlyGivenNames x; clear_value x)
    | with_reducible apply flag_kept
    | with_reducible apply setHpAmp_kept
    | with_reducible apply setHpState_kept
    | with_reducible apply hpBegin_kept
    | with_reducible apply hpPump_kept
    | split)

theorem jackRemove_kept {lb : Nat} {may : Part → Prop} {s0 s : State} (n : ℕ) (h : Kept lb may s0 s) (hn : Low lb 0x160000 := by exact ‹Low _ _›.up rfl) (h_timers : may .timers := by assumption) (h_hp : may .hp := by assumption) :
    Kept lb may s0 (State.jackRemove s n) := by
  unfold State.jackRemove
  repeat' (first
    | with_reducible assumption
    | exact ‹Low _ _›.up2 rfl
    | exact ‹Low _ _›.up1 rfl
    | exact ‹Low _ _›.of_le (by decide)
    | exact ‹Low _ _›.of_le (by decide : 0x160000 ≤ Reg.HP_STAT.word.addr)
    | exact ‹Low _ _›.of_le (by decide : 0x160000 ≤ Reg.HP_EVT.word.addr)
    | (extract_lets +onlyGivenNames x; refine (have hx : Kept lb may s0 x := ?_; ?_); rotate_left; clear_value x; rotate_right; subst x)
    | (extract_lets +onlyGivenNames x; clear_value x)
    | with_reducible apply flag_kept
    | with_reducible apply set_kept
    | with_reducible apply setHpAmp_kept
    | with_reducible apply stopTimer_kept
    | with_reducible apply hpSettle_kept
    | split)

theorem hpSupplyLost_kept {lb : Nat} {may : Part → Prop} {s0 s : State} (h : Kept lb may s0 s) (hn : Low lb 0x160000 := by exact ‹Low _ _›.up rfl) (h_timers : may .timers := by assumption) (h_hp : may .hp := by assumption) :
    Kept lb may s0 (State.hpSupplyLost s) := by
  unfold State.hpSupplyLost
  repeat' (first
    | with_reducible assumption
    | exact ‹Low _ _›.of_le (by decide)
    | (extract_lets +onlyGivenNames x; subst x)
    | with_reducible apply flag_kept
    | with_reducible apply set_kept
    | with_reducible apply hpPump_kept
    | with_reducible apply stopTimer_kept
    | with_reducible apply setHpState_kept
    | with_reducible apply hpClamp_kept)

theorem hpSupplyBack_kept {lb : Nat} {may : Part → Prop} {s0 s : State} (h : Kept lb may s0 s) (hn : Low lb 0x160000 := by exact ‹Low _ _›.up rfl) (h_timers : may .timers := by assumption) (h_hp : may .hp := by assumption) :
    Kept lb may s0 (State.hpSupplyBack s) := by
  unfold State.hpSupplyBack
  repeat' (first
    | with_reducible assumption
    | exact ‹Low _ _›.of_le (by decide)
    | (extract_lets +onlyGivenNames x; refine (have hx : Kept lb may s0 x := ?_; ?_); rotate_left; clear_value x; rotate_right; subst x)
    | (extract_lets +onlyGivenNames x; subst x; beta_reduce)
    | with_reducible apply flag_kept
    | with_reducible apply set_kept
    | with_reducible apply hpBegin_kept
    | with_reducible apply hpSettle_kept
    | split)

theorem hpFollowAll_kept {lb : Nat} {may : Part → Prop} {s0 s : State} (h : Kept lb may s0 s) (hn : Low lb 0x160000 := by exact ‹Low _ _›.up rfl) (h_timers : may .timers := by assumption) (h_hp : may .hp := by assumption) :
    Kept lb may s0 (State.hpFollowAll s) := by
  unfold State.hpFollowAll
  repeat' (first
    | with_reducible assumption
    | exact ‹Low _ _›.of_le (by decide)
    | with_reducible apply hpFollow_kept
)

theorem hpPowerOff_kept {lb : Nat} {may : Part → Prop} {s0 s : State} (h : Kept lb may s0 s) (hn : Low lb 0x160000 := by exact ‹Low _ _›.up rfl) (h_timers : may .timers := by assumption) (h_hp : may .hp := by assumption) :
    Kept lb may s0 (State.hpPowerOff s) := by
  unfold State.hpPowerOff
  repeat' (first
    | with_reducible assumption
    | exact ‹Low _ _›.of_le (by decide)
    | (extract_lets +onlyGivenNames x; subst x; beta_reduce)
    | with_reducible apply stopTimer_kept
    | with_reducible apply setHpState_kept
    | with_reducible apply hpClamp_kept
    | with_reducible apply hpPump_kept)

theorem hpPowerUp_kept {lb : Nat} {may : Part → Prop} {s0 s : State} (h : Kept lb may s0 s) (hn : Low lb 0x160000 := by exact ‹Low _ _›.up rfl) (h_timers : may .timers := by assumption) (h_hp : may .hp := by assumption) :
    Kept lb may s0 (State.hpPowerUp s) := by
  unfold State.hpPowerUp
  repeat' (first
    | with_reducible assumption
    | exact ‹Low _ _›.of_le (by decide)
    | (extract_lets +onlyGivenNames x; subst x; beta_reduce)
    | with_reducible apply hpSettle_kept
    | with_reducible apply hpFollow_kept
    | intro v
    | split)

theorem dclrAssert_kept {lb : Nat} {may : Part → Prop} {s0 s : State} (h : Kept lb may s0 s) (hn : Low lb 0x150000 := by exact ‹Low _ _›.up rfl) (h_timers : may .timers := by assumption) (h_aout : may .aout := by assumption) (h_hp : may .hp := by assumption) :
    Kept lb may s0 (State.dclrAssert s) := by
  unfold State.dclrAssert
  repeat' (first
    | with_reducible assumption
    | exact ‹Low _ _›.of_le (by decide)
    | with_reducible apply hpFollowAll_kept
    | with_reducible apply aoClearAll_kept
    | with_reducible apply flag_kept
    | split)

theorem dclrRelease_kept {lb : Nat} {may : Part → Prop} {s0 s : State} (h : Kept lb may s0 s) (hn : Low lb 0x150000 := by exact ‹Low _ _›.up rfl) (h_timers : may .timers := by assumption) (h_aout : may .aout := by assumption) (h_hp : may .hp := by assumption) :
    Kept lb may s0 (State.dclrRelease s) := by
  unfold State.dclrRelease
  repeat' (first
    | with_reducible assumption
    | exact ‹Low _ _›.of_le (by decide)
    | (extract_lets +onlyGivenNames x; refine (have hx : Kept lb may s0 x := ?_; ?_); rotate_left; clear_value x; rotate_right; subst x)
    | with_reducible apply flag_kept
    | with_reducible apply set_kept
    | with_reducible apply hpFollowAll_kept
    | with_reducible apply aoRelease_kept
    | split)

theorem clrAck_kept {lb : Nat} {may : Part → Prop} {s0 s : State} (h : Kept lb may s0 s) (hn : Low lb 0x150000 := by exact ‹Low _ _›.up rfl) (h_timers : may .timers := by assumption) (h_aout : may .aout := by assumption) (h_hp : may .hp := by assumption) :
    Kept lb may s0 (State.clrAck s) := by
  unfold State.clrAck
  repeat' (first
    | with_reducible assumption
    | exact ‹Low _ _›.of_le (by decide)
    | with_reducible apply hpFollowAll_kept
    | with_reducible apply aoRelease_kept
    | with_reducible apply set_kept
    | split)

theorem execDclrNAssert_kept {lb : Nat} {may : Part → Prop} {s0 s : State} (h : Kept lb may s0 s) (hn : Low lb 0x150000 := by exact ‹Low _ _›.up rfl) (h_timers : may .timers := by assumption) (h_aout : may .aout := by assumption) (h_hp : may .hp := by assumption) :
    ∃ out, execDclrNAssert s = .next out ∧ Kept lb may s0 out := by
  refine ⟨_, rfl, ?_⟩
  repeat' (first
    | with_reducible assumption
    | with_reducible intro v
    | exact ‹Low _ _›.of_le (by decide)
    | with_reducible apply dclrAssert_kept
)

theorem execDclrNRelease_kept {lb : Nat} {may : Part → Prop} {s0 s : State} (h : Kept lb may s0 s) (hn : Low lb 0x150000 := by exact ‹Low _ _›.up rfl) (h_timers : may .timers := by assumption) (h_aout : may .aout := by assumption) (h_hp : may .hp := by assumption) :
    ∃ out, execDclrNRelease s = .next out ∧ Kept lb may s0 out := by
  refine ⟨_, rfl, ?_⟩
  repeat' (first
    | with_reducible assumption
    | with_reducible intro v
    | exact ‹Low _ _›.of_le (by decide)
    | with_reducible apply dclrRelease_kept
)

theorem execJackInsert_kept {lb : Nat} {may : Part → Prop} {s0 s : State} (n : Fin 2) (h : Kept lb may s0 s) (hn : Low lb 0x160000 := by exact ‹Low _ _›.up rfl) (h_timers : may .timers := by assumption) (h_hp : may .hp := by assumption) :
    ∃ out, execJackInsert n s = .next out ∧ Kept lb may s0 out := by
  refine ⟨_, rfl, ?_⟩
  repeat' (first
    | with_reducible assumption
    | with_reducible intro v
    | exact ‹Low _ _›.of_le (by decide)
    | with_reducible apply jackInsert_kept
)

theorem execJackRemove_kept {lb : Nat} {may : Part → Prop} {s0 s : State} (n : Fin 2) (h : Kept lb may s0 s) (hn : Low lb 0x160000 := by exact ‹Low _ _›.up rfl) (h_timers : may .timers := by assumption) (h_hp : may .hp := by assumption) :
    ∃ out, execJackRemove n s = .next out ∧ Kept lb may s0 out := by
  refine ⟨_, rfl, ?_⟩
  repeat' (first
    | with_reducible assumption
    | with_reducible intro v
    | exact ‹Low _ _›.of_le (by decide)
    | with_reducible apply jackRemove_kept
)

theorem execHpStart_kept {lb : Nat} {may : Part → Prop} {s0 s : State} (n : Fin 2) (zL : ℕ) (zR : ℕ) (h : Kept lb may s0 s) (hn : Low lb 0x7000c := by exact ‹Low _ _›.up rfl) (h_timers : may .timers := by assumption) (h_hp : may .hp := by assumption) (h_stew : may .stew := by assumption) :
    ∃ out, execHpStart n zL zR s = .next out ∧ Kept lb may s0 out := by
  refine ⟨_, rfl, ?_⟩
  repeat' (first
    | with_reducible assumption
    | with_reducible intro v
    | exact ‹Low _ _›.of_le (by decide)
    | with_reducible apply hpStart_kept
)

theorem execHpStop_kept {lb : Nat} {may : Part → Prop} {s0 s : State} (n : Fin 2) (h : Kept lb may s0 s) (hn : Low lb 0x160000 := by exact ‹Low _ _›.up rfl) (h_timers : may .timers := by assumption) (h_hp : may .hp := by assumption) :
    ∃ out, execHpStop n s = .next out ∧ Kept lb may s0 out := by
  refine ⟨_, rfl, ?_⟩
  repeat' (first
    | with_reducible assumption
    | with_reducible intro v
    | exact ‹Low _ _›.of_le (by decide)
    | with_reducible apply hpFollow_kept
)

theorem execHpOvercurrent_kept {lb : Nat} {may : Part → Prop} {s0 s : State} (n : Fin 2) (h : Kept lb may s0 s) (hn : Low lb 0x7000c := by exact ‹Low _ _›.up rfl) (h_timers : may .timers := by assumption) (h_hp : may .hp := by assumption) (h_stew : may .stew := by assumption) :
    ∃ out, execHpOvercurrent n s = .next out ∧ Kept lb may s0 out := by
  refine ⟨_, rfl, ?_⟩
  repeat' (first
    | with_reducible assumption
    | with_reducible intro v
    | exact ‹Low _ _›.of_le (by decide)
    | with_reducible apply hpTrip_kept
    | split)

theorem execHpRetest_kept {lb : Nat} {may : Part → Prop} {s0 s : State} (n : Fin 2) (zL : ℕ) (zR : ℕ) (h : Kept lb may s0 s) (hn : Low lb 0x160000 := by exact ‹Low _ _›.up rfl) (h_timers : may .timers := by assumption) (h_hp : may .hp := by assumption) :
    ∃ out, execHpRetest n zL zR s = .next out ∧ Kept lb may s0 out := by
  refine ⟨_, rfl, ?_⟩
  repeat' (first
    | with_reducible assumption
    | with_reducible intro v
    | exact ‹Low _ _›.of_le (by decide)
    | with_reducible apply hpRetest_kept
)

theorem execVolumeStep_kept {lb : Nat} {may : Part → Prop} {s0 s : State} (n : Fin 2) (right : Bool) (h : Kept lb may s0 s) (hn : Low lb 0x160000 := by exact ‹Low _ _›.up rfl) (h_timers : may .timers := by assumption) (h_hp : may .hp := by assumption) :
    ∃ out, execVolumeStep n right s = .next out ∧ Kept lb may s0 out := by
  refine ⟨_, rfl, ?_⟩
  repeat' (first
    | with_reducible assumption
    | with_reducible intro v
    | with_reducible apply hpVolumeStep_kept
)

end Sys2Proof.Laws
end

