-- ==== Sys2Proof/Laws/KeptAin.lean ====
section
/-! SUPPORT. Each operation of Machine/Ain.lean keeps the queue, the time and the invariant. -/

set_option Elab.async false

namespace Sys2Proof.Laws

open Sys2Proof.Machine

theorem setAiCh_kept {lb : Nat} {may : Part → Prop} {s0 s : State} (k : ℕ) (c : AinCh) (h : Kept lb may s0 s) (h_ain : may .ain := by assumption) :
    Kept lb may s0 (State.setAiCh s k c) := by
  unfold State.setAiCh
  repeat' (first
    | with_reducible assumption
    | intro v
    | with_reducible apply Kept.with_ain)

theorem setPh_kept {lb : Nat} {may : Part → Prop} {s0 s : State} (g : ℕ) (p : PhGroup) (h : Kept lb may s0 s) (h_phantom : may .phantom := by assumption) :
    Kept lb may s0 (State.setPh s g p) := by
  unfold State.setPh
  repeat' (first
    | with_reducible assumption
    | intro v
    | with_reducible apply Kept.with_phantom)

theorem aiAdvance_kept {lb : Nat} {may : Part → Prop} {s0 s : State} (k : ℕ) (h : Kept lb may s0 s) (hn : Low lb 0x140104 := by exact ‹Low _ _›.up rfl) (h_ain : may .ain := by assumption) :
    Kept lb may s0 (State.aiAdvance s k) := by
  unfold State.aiAdvance
  repeat' (first
    | with_reducible assumption
    | exact ‹Low _ _›.up1 rfl
    | exact ‹Low _ _›.of_le (by decide)
    | (extract_lets +onlyGivenNames x; clear_value x)
    | with_reducible apply set_kept
    | with_reducible apply setAiCh_kept)

theorem aiFollow_kept {lb : Nat} {may : Part → Prop} {s0 s : State} (k : ℕ) (h : Kept lb may s0 s) (hn : Low lb 0x140104 := by exact ‹Low _ _›.up rfl) (h_ain : may .ain := by assumption) :
    Kept lb may s0 (State.aiFollow s k) := by
  unfold State.aiFollow
  repeat' (first
    | with_reducible assumption
    | exact ‹Low _ _›.of_le (by decide)
    | (extract_lets +onlyGivenNames x; clear_value x)
    | with_reducible apply aiAdvance_kept
    | with_reducible apply setAiCh_kept)

theorem phFollow_kept {lb : Nat} {may : Part → Prop} {s0 s : State} (g : ℕ) (h : Kept lb may s0 s) (hn : Low lb 0x140104 := by exact ‹Low _ _›.up rfl) (h_ain : may .ain := by assumption) (h_phantom : may .phantom := by assumption) :
    Kept lb may s0 (State.phFollow s g) := by
  unfold State.phFollow
  repeat' (first
    | with_reducible assumption
    | exact ‹Low _ _›.of_le (by decide)
    | (extract_lets +onlyGivenNames x; refine (have hx : Kept lb may s0 x := ?_; ?_); rotate_left; clear_value x; rotate_right; subst x)
    | (extract_lets +onlyGivenNames x; clear_value x)
    | with_reducible apply setPh_kept
    | with_reducible apply aiAdvance_kept
    | with_reducible apply setAiCh_kept
    | with_reducible refine Kept.foldl _ _ _ ?_ fun _ _ _ => ?_
    | with_reducible refine Kept.foldl_snd _ _ _ ?_ fun _ _ _ => ?_
    | with_reducible refine Kept.foldl_fst _ _ _ ?_ fun _ _ _ => ?_
    | intro v
    | split)

theorem phDrive_kept {lb : Nat} {may : Part → Prop} {s0 s : State} (g : ℕ) (h : Kept lb may s0 s) (h_phantom : may .phantom := by assumption) :
    Kept lb may s0 (State.phDrive s g) := by
  unfold State.phDrive
  repeat' (first
    | with_reducible assumption
    | (extract_lets +onlyGivenNames x; clear_value x)
    | with_reducible apply setPh_kept
    | split)

theorem phDone_kept {lb : Nat} {may : Part → Prop} {s0 s : State} (g : ℕ) (h : Kept lb may s0 s) (hn : Low lb 0x140004 := by exact ‹Low _ _›.up rfl) (h_ain : may .ain := by assumption) (h_phantom : may .phantom := by assumption) :
    Kept lb may s0 (State.phDone s g) := by
  unfold State.phDone
  repeat' (first
    | with_reducible assumption
    | exact ‹Low _ _›.of_le (by decide)
    | (extract_lets +onlyGivenNames x; refine (have hx : Kept lb may s0 x := ?_; ?_); rotate_left; clear_value x; rotate_right; subst x)
    | with_reducible apply flag_kept
    | with_reducible apply setPh_kept
    | with_reducible apply phFollow_kept
    | with_reducible apply aiAdvance_kept
    | with_reducible refine Kept.foldl _ _ _ ?_ fun _ _ _ => ?_
    | with_reducible refine Kept.foldl_snd _ _ _ ?_ fun _ _ _ => ?_
    | with_reducible refine Kept.foldl_fst _ _ _ ?_ fun _ _ _ => ?_
    | intro v
    | split)

theorem ainAdvanceAll_kept {lb : Nat} {may : Part → Prop} {s0 s : State} (h : Kept lb may s0 s) (hn : Low lb 0x140000 := by exact ‹Low _ _›.up rfl) (h_timers : may .timers := by assumption) (h_ain : may .ain := by assumption) (h_phantom : may .phantom := by assumption) :
    Kept lb may s0 (State.ainAdvanceAll s) := by
  unfold State.ainAdvanceAll
  repeat' (first
    | with_reducible assumption
    | exact ‹Low _ _›.of_le (by decide)
    | (extract_lets +onlyGivenNames x; refine (have hx : Kept lb may s0 x := ?_; ?_); rotate_left; clear_value x; rotate_right; subst x)
    | with_reducible apply stopTimer_kept
    | with_reducible apply set_kept
    | with_reducible apply phDrive_kept
    | with_reducible apply aiAdvance_kept
    | with_reducible refine Kept.foldl _ _ _ ?_ fun _ _ _ => ?_
    | with_reducible refine Kept.foldl_snd _ _ _ ?_ fun _ _ _ => ?_
    | with_reducible refine Kept.foldl_fst _ _ _ ?_ fun _ _ _ => ?_
    | intro v
    | split)

theorem ainFollowAll_kept {lb : Nat} {may : Part → Prop} {s0 s : State} (h : Kept lb may s0 s) (hn : Low lb 0x140104 := by exact ‹Low _ _›.up rfl) (h_ain : may .ain := by assumption) (h_phantom : may .phantom := by assumption) :
    Kept lb may s0 (State.ainFollowAll s) := by
  unfold State.ainFollowAll
  repeat' (first
    | with_reducible assumption
    | exact ‹Low _ _›.of_le (by decide)
    | with_reducible apply aiFollow_kept
    | with_reducible apply phFollow_kept
    | with_reducible refine Kept.foldl _ _ _ ?_ fun _ _ _ => ?_)

theorem aiMeasure_kept {lb : Nat} {may : Part → Prop} {s0 s : State} (k : ℕ) (l : ℤ) (h : Kept lb may s0 s) (hn : Low lb 0x140108 := by exact ‹Low _ _›.up rfl) :
    Kept lb may s0 (State.aiMeasure s k l) := by
  unfold State.aiMeasure
  repeat' (first
    | with_reducible assumption
    | exact ‹Low _ _›.up1 rfl
    | exact ‹Low _ _›.of_le (by decide)
    | (extract_lets +onlyGivenNames x; clear_value x)
    | with_reducible apply setInt_kept
    | intro v
    | split)

theorem aiReport_kept {lb : Nat} {may : Part → Prop} {s0 s : State} (k : ℕ) (ovl : Bool) (h : Kept lb may s0 s) (hn : Low lb 0x140004 := by exact ‹Low _ _›.up rfl) (h_timers : may .timers := by assumption) (h_ain : may .ain := by assumption) :
    Kept lb may s0 (State.aiReport s k ovl) := by
  unfold State.aiReport
  repeat' (first
    | with_reducible assumption
    | exact ‹Low _ _›.up1 rfl
    | exact ‹Low _ _›.of_le (by decide)
    | (extract_lets +onlyGivenNames x; refine (have hx : Kept lb may s0 x := ?_; ?_); rotate_left; clear_value x; rotate_right; subst x)
    | (extract_lets +onlyGivenNames x; clear_value x)
    | with_reducible apply setBitAt_kept
    | with_reducible apply flag_kept
    | with_reducible apply startTimer_kept
    | with_reducible apply count_kept
    | with_reducible apply setAiCh_kept
    | split)

theorem aiClip_kept {lb : Nat} {may : Part → Prop} {s0 s : State} (k : ℕ) (ovl : Bool) (h : Kept lb may s0 s) (hn : Low lb 0x140004 := by exact ‹Low _ _›.up rfl) (h_timers : may .timers := by assumption) (h_ain : may .ain := by assumption) :
    Kept lb may s0 (State.aiClip s k ovl) := by
  unfold State.aiClip
  repeat' (first
    | with_reducible assumption
    | exact ‹Low _ _›.of_le (by decide)
    | (extract_lets +onlyGivenNames x; refine (have hx : Kept lb may s0 x := ?_; ?_); rotate_left; clear_value x; rotate_right; subst x)
    | (extract_lets +onlyGivenNames x; clear_value x)
    | with_reducible apply aiReport_kept
    | with_reducible apply setAiCh_kept
    | split)

theorem aiHoldExpiry_kept {lb : Nat} {may : Part → Prop} {s0 s : State} (k : ℕ) (h : Kept lb may s0 s) (hn : Low lb 0x140010 := by exact ‹Low _ _›.up rfl) (h_timers : may .timers := by assumption) :
    Kept lb may s0 (State.aiHoldExpiry s k) := by
  unfold State.aiHoldExpiry
  repeat' (first
    | with_reducible assumption
    | exact ‹Low _ _›.of_le (by decide)
    | (extract_lets +onlyGivenNames x; subst x)
    | with_reducible apply stopTimer_kept
    | with_reducible apply setBitAt_kept
    | split)

theorem aiLatch_kept {lb : Nat} {may : Part → Prop} {s0 s : State} (k : ℕ) (l : Word) (a3 : Word) (h : Kept lb may s0 s) (hn : Low lb 0x140004 := by exact ‹Low _ _›.up rfl) (h_timers : may .timers := by assumption) (h_ain : may .ain := by assumption) :
    Kept lb may s0 (State.aiLatch s k l a3) := by
  unfold State.aiLatch
  repeat' (first
    | with_reducible assumption
    | exact ‹Low _ _›.up1 rfl
    | exact ‹Low _ _›.of_le (by decide)
    | (extract_lets +onlyGivenNames x; refine (have hx : Kept lb may s0 x := ?_; ?_); rotate_left; clear_value x; rotate_right; subst x)
    | (extract_lets +onlyGivenNames x; clear_value x)
    | with_reducible apply set_kept
    | with_reducible apply setAiCh_kept
    | with_reducible apply aiReport_kept
    | with_reducible apply aiMeasure_kept
    | split)

theorem aiRestartAll_kept {lb : Nat} {may : Part → Prop} {s0 s : State} (zeroMs : ℕ) (h : Kept lb may s0 s) (hn : Low lb 0x140104 := by exact ‹Low _ _›.up rfl) (h_ain : may .ain := by assumption) :
    Kept lb may s0 (State.aiRestartAll s zeroMs) := by
  unfold State.aiRestartAll
  repeat' (first
    | with_reducible assumption
    | exact ‹Low _ _›.of_le (by decide)
    | (extract_lets +onlyGivenNames x; clear_value x)
    | with_reducible apply aiAdvance_kept
    | with_reducible apply setAiCh_kept
    | with_reducible refine Kept.foldl _ _ _ ?_ fun _ _ _ => ?_
    | with_reducible refine Kept.foldl_snd _ _ _ ?_ fun _ _ _ => ?_
    | with_reducible refine Kept.foldl_fst _ _ _ ?_ fun _ _ _ => ?_
    | intro v
    | split)

theorem aiCalibrate_kept {lb : Nat} {may : Part → Prop} {s0 s : State} (mask : ℕ) (atZero : Bool) (h : Kept lb may s0 s) (hn : Low lb 0x140000 := by exact ‹Low _ _›.up rfl) (h_ain : may .ain := by assumption) :
    Kept lb may s0 (State.aiCalibrate s mask atZero) := by
  unfold State.aiCalibrate
  repeat' (first
    | with_reducible assumption
    | exact ‹Low _ _›.of_le (by decide)
    | (extract_lets +onlyGivenNames x; refine (have hx : Kept lb may s0 x := ?_; ?_); rotate_left; clear_value x; rotate_right; subst x)
    | (extract_lets +onlyGivenNames x; clear_value x)
    | with_reducible apply set_kept
    | with_reducible apply aiAdvance_kept
    | with_reducible apply setAiCh_kept
    | with_reducible refine Kept.foldl _ _ _ ?_ fun _ _ _ => ?_
    | with_reducible refine Kept.foldl_snd _ _ _ ?_ fun _ _ _ => ?_
    | with_reducible refine Kept.foldl_fst _ _ _ ?_ fun _ _ _ => ?_
    | intro v
    | split)

theorem aiCalStart_kept {lb : Nat} {may : Part → Prop} {s0 s : State} (mask : ℕ) (h : Kept lb may s0 s) (hn : Low lb 0x140000 := by exact ‹Low _ _›.up rfl) (h_ain : may .ain := by assumption) :
    Kept lb may s0 (State.aiCalStart s mask) := by
  unfold State.aiCalStart
  repeat' (first
    | with_reducible assumption
    | exact ‹Low _ _›.of_le (by decide)
    | (extract_lets +onlyGivenNames x; clear_value x)
    | with_reducible apply flag_kept
    | with_reducible apply aiCalibrate_kept
    | with_reducible refine Kept.foldl _ _ _ ?_ fun _ _ _ => ?_
    | with_reducible refine Kept.foldl_snd _ _ _ ?_ fun _ _ _ => ?_
    | with_reducible refine Kept.foldl_fst _ _ _ ?_ fun _ _ _ => ?_
    | intro v
    | split)

theorem aiCalDone_kept {lb : Nat} {may : Part → Prop} {s0 s : State} (fail : ℕ) (h : Kept lb may s0 s) (hn : Low lb 0x140000 := by exact ‹Low _ _›.up rfl) (h_ain : may .ain := by assumption) :
    Kept lb may s0 (State.aiCalDone s fail) := by
  unfold State.aiCalDone
  repeat' (first
    | with_reducible assumption
    | exact ‹Low _ _›.of_le (by decide)
    | (extract_lets +onlyGivenNames x; refine (have hx : Kept lb may s0 x := ?_; ?_); rotate_left; clear_value x; rotate_right; subst x)
    | (extract_lets +onlyGivenNames x; clear_value x)
    | with_reducible apply setBitAt_kept
    | with_reducible apply setAiCh_kept
    | with_reducible apply aiAdvance_kept
    | with_reducible apply flag_kept
    | with_reducible apply set_kept
    | with_reducible refine Kept.foldl _ _ _ ?_ fun _ _ _ => ?_
    | with_reducible refine Kept.foldl_snd _ _ _ ?_ fun _ _ _ => ?_
    | with_reducible refine Kept.foldl_fst _ _ _ ?_ fun _ _ _ => ?_
    | intro v
    | split)

theorem aiCalAbort_kept {lb : Nat} {may : Part → Prop} {s0 s : State} (h : Kept lb may s0 s) (hn : Low lb 0x140000 := by exact ‹Low _ _›.up rfl) (h_ain : may .ain := by assumption) :
    Kept lb may s0 (State.aiCalAbort s) := by
  unfold State.aiCalAbort
  repeat' (first
    | with_reducible assumption
    | exact ‹Low _ _›.of_le (by decide)
    | (extract_lets +onlyGivenNames x; clear_value x)
    | with_reducible apply setAiCh_kept
    | with_reducible apply set_kept
    | with_reducible refine Kept.foldl _ _ _ ?_ fun _ _ _ => ?_)

theorem vdda5Lost_kept {lb : Nat} {may : Part → Prop} {s0 s : State} (h : Kept lb may s0 s) (hn : Low lb 0x30004 := by exact ‹Low _ _›.up rfl) (h_timers : may .timers := by assumption) (h_ain : may .ain := by assumption) (h_hp : may .hp := by assumption) :
    Kept lb may s0 (State.vdda5Lost s) := by
  unfold State.vdda5Lost
  repeat' (first
    | with_reducible assumption
    | exact ‹Low _ _›.of_le (by decide)
    | (extract_lets +onlyGivenNames x; refine (have hx : Kept lb may s0 x := ?_; ?_); rotate_left; clear_value x; rotate_right; subst x)
    | with_reducible apply flag_kept
    | with_reducible apply setBitAt_kept
    | with_reducible apply set_kept
    | with_reducible apply aiCalAbort_kept
    | with_reducible apply hpSupplyLost_kept
    | with_reducible apply aiAdvance_kept
    | with_reducible refine Kept.foldl _ _ _ ?_ fun _ _ _ => ?_
    | with_reducible refine Kept.foldl_snd _ _ _ ?_ fun _ _ _ => ?_
    | with_reducible refine Kept.foldl_fst _ _ _ ?_ fun _ _ _ => ?_
    | intro v
    | split)

theorem vdda5Back_kept {lb : Nat} {may : Part → Prop} {s0 s : State} (h : Kept lb may s0 s) (hn : Low lb 0x30004 := by exact ‹Low _ _›.up rfl) (h_timers : may .timers := by assumption) (h_ain : may .ain := by assumption) (h_hp : may .hp := by assumption) :
    Kept lb may s0 (State.vdda5Back s) := by
  unfold State.vdda5Back
  repeat' (first
    | with_reducible assumption
    | exact ‹Low _ _›.of_le (by decide)
    | (extract_lets +onlyGivenNames x; refine (have hx : Kept lb may s0 x := ?_; ?_); rotate_left; clear_value x; rotate_right; subst x)
    | (extract_lets +onlyGivenNames x; clear_value x)
    | with_reducible apply flag_kept
    | with_reducible apply setBitAt_kept
    | with_reducible apply set_kept
    | with_reducible apply hpSupplyBack_kept
    | with_reducible apply aiAdvance_kept
    | with_reducible apply aiCalibrate_kept
    | with_reducible refine Kept.foldl _ _ _ ?_ fun _ _ _ => ?_
    | with_reducible refine Kept.foldl_snd _ _ _ ?_ fun _ _ _ => ?_
    | with_reducible refine Kept.foldl_fst _ _ _ ?_ fun _ _ _ => ?_
    | intro v
    | split)

theorem ainPowerUp_kept {lb : Nat} {may : Part → Prop} {s0 s : State} (h : Kept lb may s0 s) (hn : Low lb 0x140000 := by exact ‹Low _ _›.up rfl) (h_timers : may .timers := by assumption) (h_ain : may .ain := by assumption) (h_phantom : may .phantom := by assumption) :
    Kept lb may s0 (State.ainPowerUp s) := by
  unfold State.ainPowerUp
  repeat' (first
    | with_reducible assumption
    | exact ‹Low _ _›.of_le (by decide)
    | (extract_lets +onlyGivenNames x; refine (have hx : Kept lb may s0 x := ?_; ?_); rotate_left; clear_value x; rotate_right; subst x)
    | (extract_lets +onlyGivenNames x; clear_value x)
    | with_reducible apply aiAdvance_kept
    | with_reducible apply setAiCh_kept
    | with_reducible apply phFollow_kept
    | with_reducible apply startTimer_kept
    | with_reducible apply set_kept
    | with_reducible refine Kept.foldl _ _ _ ?_ fun _ _ _ => ?_)

theorem ainPowerOff_kept {lb : Nat} {may : Part → Prop} {s0 s : State} (h : Kept lb may s0 s) (hn : Low lb 0x140000 := by exact ‹Low _ _›.up rfl) (h_timers : may .timers := by assumption) (h_ain : may .ain := by assumption) (h_phantom : may .phantom := by assumption) :
    Kept lb may s0 (State.ainPowerOff s) := by
  unfold State.ainPowerOff
  repeat' (first
    | with_reducible assumption
    | exact ‹Low _ _›.up1 rfl
    | exact ‹Low _ _›.of_le (by decide)
    | (extract_lets +onlyGivenNames x; refine (have hx : Kept lb may s0 x := ?_; ?_); rotate_left; clear_value x; rotate_right; subst x)
    | with_reducible apply set_kept
    | with_reducible apply setAiCh_kept
    | with_reducible apply stopTimer_kept
    | with_reducible apply setPh_kept
    | with_reducible refine Kept.foldl _ _ _ ?_ fun _ _ _ => ?_)

theorem gpioLevel_kept {lb : Nat} {may : Part → Prop} {s0 s : State} (g : ℕ) (high : Bool) (h : Kept lb may s0 s) (hn : Low lb 0x1b0008 := by exact ‹Low _ _›.up rfl) :
    Kept lb may s0 (State.gpioLevel s g high) := by
  unfold State.gpioLevel
  repeat' (first
    | with_reducible assumption
    | exact ‹Low _ _›.of_le (by decide)
    | (extract_lets +onlyGivenNames x; subst x)
    | with_reducible apply setBitAt_kept
    | split)

theorem gpioFollow_kept {lb : Nat} {may : Part → Prop} {s0 s : State} (h : Kept lb may s0 s) (hn : Low lb 0x1b0008 := by exact ‹Low _ _›.up rfl) :
    Kept lb may s0 (State.gpioFollow s) := by
  unfold State.gpioFollow
  repeat' (first
    | with_reducible assumption
    | exact ‹Low _ _›.of_le (by decide)
    | with_reducible apply gpioLevel_kept
    | with_reducible refine Kept.foldl _ _ _ ?_ fun _ _ _ => ?_
    | with_reducible refine Kept.foldl_snd _ _ _ ?_ fun _ _ _ => ?_
    | with_reducible refine Kept.foldl_fst _ _ _ ?_ fun _ _ _ => ?_
    | intro v
    | split)

theorem execClip_kept {lb : Nat} {may : Part → Prop} {s0 s : State} (k : Fin 16) (ovl : Bool) (h : Kept lb may s0 s) (hn : Low lb 0x140004 := by exact ‹Low _ _›.up rfl) (h_timers : may .timers := by assumption) (h_ain : may .ain := by assumption) :
    ∃ out, execClip k ovl s = .next out ∧ Kept lb may s0 out := by
  refine ⟨_, rfl, ?_⟩
  repeat' (first
    | with_reducible assumption
    | with_reducible intro v
    | exact ‹Low _ _›.of_le (by decide)
    | with_reducible apply aiClip_kept
)

theorem execAinLiveHoldExpiry_kept {lb : Nat} {may : Part → Prop} {s0 s : State} (k : Fin 16) (h : Kept lb may s0 s) (hn : Low lb 0x140010 := by exact ‹Low _ _›.up rfl) (h_timers : may .timers := by assumption) :
    ∃ out, execAinLiveHoldExpiry k s = .next out ∧ Kept lb may s0 out := by
  refine ⟨_, rfl, ?_⟩
  repeat' (first
    | with_reducible assumption
    | with_reducible intro v
    | exact ‹Low _ _›.of_le (by decide)
    | with_reducible apply aiHoldExpiry_kept
)

theorem execVdda5Lost_kept {lb : Nat} {may : Part → Prop} {s0 s : State} (h : Kept lb may s0 s) (hn : Low lb 0x30004 := by exact ‹Low _ _›.up rfl) (h_timers : may .timers := by assumption) (h_ain : may .ain := by assumption) (h_hp : may .hp := by assumption) :
    ∃ out, execVdda5Lost s = .next out ∧ Kept lb may s0 out := by
  refine ⟨_, rfl, ?_⟩
  repeat' (first
    | with_reducible assumption
    | with_reducible intro v
    | exact ‹Low _ _›.of_le (by decide)
    | with_reducible apply vdda5Lost_kept
)

theorem execVdda5Restored_kept {lb : Nat} {may : Part → Prop} {s0 s : State} (h : Kept lb may s0 s) (hn : Low lb 0x30004 := by exact ‹Low _ _›.up rfl) (h_timers : may .timers := by assumption) (h_ain : may .ain := by assumption) (h_hp : may .hp := by assumption) :
    ∃ out, execVdda5Restored s = .next out ∧ Kept lb may s0 out := by
  refine ⟨_, rfl, ?_⟩
  repeat' (first
    | with_reducible assumption
    | with_reducible intro v
    | exact ‹Low _ _›.of_le (by decide)
    | with_reducible apply vdda5Back_kept
)

theorem execPhDone_kept {lb : Nat} {may : Part → Prop} {s0 s : State} (g : Fin 8) (h : Kept lb may s0 s) (hn : Low lb 0x140004 := by exact ‹Low _ _›.up rfl) (h_ain : may .ain := by assumption) (h_phantom : may .phantom := by assumption) :
    ∃ out, execPhDone g s = .next out ∧ Kept lb may s0 out := by
  refine ⟨_, rfl, ?_⟩
  repeat' (first
    | with_reducible assumption
    | with_reducible intro v
    | exact ‹Low _ _›.of_le (by decide)
    | with_reducible apply phDone_kept
)

end Sys2Proof.Laws
end

