-- ==== Sys2Proof/Laws/KeptAsrc.lean ====
section
/-! SUPPORT. Each operation of Machine/Asrc.lean keeps the queue, the time and the invariant. -/

set_option Elab.async false

namespace Sys2Proof.Laws

open Sys2Proof.Machine

theorem sapMaskReg_low (n : Nat) (k : Fin 8) : 0x130010 ≤ (sapMaskReg n k).addr := by
  unfold sapMaskReg
  split
  · show 0x130010 ≤ 0x130010 + 0x100 * n + 0x4 * _
    omega
  · show 0x130010 ≤ 0x130020 + 0x100 * n + 0x4 * _
    omega


theorem setSapP_kept {lb : Nat} {may : Part → Prop} {s0 s : State} (n : ℕ) (p : SapPort) (h : Kept lb may s0 s) (h_sap : may .sap := by assumption) :
    Kept lb may s0 (State.setSapP s n p) := by
  unfold State.setSapP
  repeat' (first
    | with_reducible assumption
    | intro v
    | with_reducible apply Kept.with_sap)

theorem setLane_kept {lb : Nat} {may : Part → Prop} {s0 s : State} (q : ℕ) (l : AsrcLane) (h : Kept lb may s0 s) (h_asrc : may .asrc := by assumption) :
    Kept lb may s0 (State.setLane s q l) := by
  unfold State.setLane
  repeat' (first
    | with_reducible assumption
    | intro v
    | with_reducible apply Kept.with_asrc)

theorem startBuilds_kept {lb : Nat} {may : Part → Prop} {s0 s : State} (h : Kept lb may s0 s) (h_asrc : may .asrc := by assumption) :
    Kept lb may s0 (State.startBuilds s) := by
  unfold State.startBuilds
  repeat' (first
    | with_reducible assumption
    | (extract_lets +onlyGivenNames x; subst x)
    | with_reducible apply setLane_kept
    | with_reducible apply Kept.foldl
    | with_reducible apply Kept.foldl_snd
    | with_reducible apply Kept.foldl_fst
    | intro v
    | split)

theorem wantTable_kept {lb : Nat} {may : Part → Prop} {s0 s : State} (q : ℕ) (cls : ℕ) (h : Kept lb may s0 s) (hn : Low lb 0x120004 := by exact ‹Low _ _›.up rfl) (h_asrc : may .asrc := by assumption) :
    Kept lb may s0 (State.wantTable s q cls) := by
  unfold State.wantTable
  repeat' (first
    | with_reducible assumption
    | exact ‹Low _ _›.up1 rfl
    | exact ‹Low _ _›.of_le (by decide)
    | (extract_lets +onlyGivenNames x; subst x)
    | with_reducible apply startBuilds_kept
    | with_reducible apply set_kept
    | with_reducible apply setLane_kept)

theorem laneLock_kept {lb : Nat} {may : Part → Prop} {s0 s : State} (q : ℕ) (ratio : ℕ) (h : Kept lb may s0 s) (hn : Low lb 0x120004 := by exact ‹Low _ _›.up rfl) (h_asrc : may .asrc := by assumption) :
    Kept lb may s0 (State.laneLock s q ratio) := by
  unfold State.laneLock
  repeat' (first
    | with_reducible assumption
    | exact ‹Low _ _›.up1 rfl
    | exact ‹Low _ _›.of_le (by decide)
    | (extract_lets +onlyGivenNames x; refine (have hx : Kept lb may s0 x := ?_; ?_); rotate_left; clear_value x; rotate_right; subst x)
    | (extract_lets +onlyGivenNames x; clear_value x)
    | with_reducible apply set_kept
    | with_reducible apply flag_kept
    | with_reducible apply setLane_kept
    | with_reducible apply wantTable_kept
    | split)

theorem laneStop_kept {lb : Nat} {may : Part → Prop} {s0 s : State} (q : ℕ) (h : Kept lb may s0 s) (hn : Low lb 0x120004 := by exact ‹Low _ _›.up rfl) (h_asrc : may .asrc := by assumption) :
    Kept lb may s0 (State.laneStop s q) := by
  unfold State.laneStop
  repeat' (first
    | with_reducible assumption
    | exact ‹Low _ _›.up1 rfl
    | exact ‹Low _ _›.of_le (by decide)
    | (extract_lets +onlyGivenNames x; clear_value x)
    | with_reducible apply setLane_kept
    | with_reducible apply set_kept)

theorem laneUnlock_kept {lb : Nat} {may : Part → Prop} {s0 s : State} (q : ℕ) (h : Kept lb may s0 s) (hn : Low lb 0x120004 := by exact ‹Low _ _›.up rfl) (h_asrc : may .asrc := by assumption) :
    Kept lb may s0 (State.laneUnlock s q) := by
  unfold State.laneUnlock
  repeat' (first
    | with_reducible assumption
    | exact ‹Low _ _›.up1 rfl
    | exact ‹Low _ _›.of_le (by decide)
    | with_reducible apply flag_kept
    | with_reducible apply setBitAt_kept
    | with_reducible apply laneStop_kept
    | split)

theorem laneTrack_kept {lb : Nat} {may : Part → Prop} {s0 s : State} (q : ℕ) (ratio : ℕ) (h : Kept lb may s0 s) (hn : Low lb 0x120004 := by exact ‹Low _ _›.up rfl) (h_asrc : may .asrc := by assumption) :
    Kept lb may s0 (State.laneTrack s q ratio) := by
  unfold State.laneTrack
  repeat' (first
    | with_reducible assumption
    | exact ‹Low _ _›.up1 rfl
    | exact ‹Low _ _›.of_le (by decide)
    | (extract_lets +onlyGivenNames x; refine (have hx : Kept lb may s0 x := ?_; ?_); rotate_left; clear_value x; rotate_right; subst x)
    | (extract_lets +onlyGivenNames x; clear_value x)
    | with_reducible apply set_kept
    | with_reducible apply laneUnlock_kept
    | split)

theorem laneStep_kept {lb : Nat} {may : Part → Prop} {s0 s : State} (q : ℕ) (ratio : ℕ) (h : Kept lb may s0 s) (hn : Low lb 0x120004 := by exact ‹Low _ _›.up rfl) (h_asrc : may .asrc := by assumption) :
    Kept lb may s0 (State.laneStep s q ratio) := by
  unfold State.laneStep
  repeat' (first
    | with_reducible assumption
    | exact ‹Low _ _›.of_le (by decide)
    | with_reducible apply laneUnlock_kept
    | with_reducible apply laneTrack_kept
    | split)

theorem laneMs_kept {lb : Nat} {may : Part → Prop} {s0 s : State} (q : ℕ) (h : Kept lb may s0 s) (h_asrc : may .asrc := by assumption) :
    Kept lb may s0 (State.laneMs s q) := by
  unfold State.laneMs
  repeat' (first
    | with_reducible assumption
    | (extract_lets +onlyGivenNames x; clear_value x)
    | with_reducible apply setLane_kept
    | split)

theorem laneClassChange_kept {lb : Nat} {may : Part → Prop} {s0 s : State} (q : ℕ) (ratio : ℕ) (h : Kept lb may s0 s) (hn : Low lb 0x120004 := by exact ‹Low _ _›.up rfl) (h_asrc : may .asrc := by assumption) :
    Kept lb may s0 (State.laneClassChange s q ratio) := by
  unfold State.laneClassChange
  repeat' (first
    | with_reducible assumption
    | exact ‹Low _ _›.of_le (by decide)
    | (extract_lets +onlyGivenNames x; refine (have hx : Kept lb may s0 x := ?_; ?_); rotate_left; clear_value x; rotate_right; subst x)
    | (extract_lets +onlyGivenNames x; clear_value x)
    | with_reducible apply laneTrack_kept
    | with_reducible apply wantTable_kept
    | split)

theorem tableBuilt_kept {lb : Nat} {may : Part → Prop} {s0 s : State} (q : ℕ) (h : Kept lb may s0 s) (h_asrc : may .asrc := by assumption) :
    Kept lb may s0 (State.tableBuilt s q) := by
  unfold State.tableBuilt
  repeat' (first
    | with_reducible assumption
    | (extract_lets +onlyGivenNames x; subst x)
    | with_reducible apply startBuilds_kept
    | with_reducible apply setLane_kept
    | split)

theorem laneFlip_kept {lb : Nat} {may : Part → Prop} {s0 s : State} (q : ℕ) (h : Kept lb may s0 s) (hn : Low lb 0x120004 := by exact ‹Low _ _›.up rfl) (h_asrc : may .asrc := by assumption) :
    Kept lb may s0 (State.laneFlip s q) := by
  unfold State.laneFlip
  repeat' (first
    | with_reducible assumption
    | exact ‹Low _ _›.up1 rfl
    | exact ‹Low _ _›.of_le (by decide)
    | (extract_lets +onlyGivenNames x; clear_value x)
    | with_reducible apply set_kept
    | with_reducible apply setLane_kept
    | split)

theorem laneFollow_kept {lb : Nat} {may : Part → Prop} {s0 s : State} (q : ℕ) (h : Kept lb may s0 s) (hn : Low lb 0x120004 := by exact ‹Low _ _›.up rfl) (h_asrc : may .asrc := by assumption) :
    Kept lb may s0 (State.laneFollow s q) := by
  unfold State.laneFollow
  repeat' (first
    | with_reducible assumption
    | exact ‹Low _ _›.of_le (by decide)
    | (extract_lets +onlyGivenNames x; refine (have hx : Kept lb may s0 x := ?_; ?_); rotate_left; clear_value x; rotate_right; subst x)
    | (extract_lets +onlyGivenNames x; clear_value x)
    | with_reducible apply setLane_kept
    | with_reducible apply laneUnlock_kept
    | with_reducible apply laneStop_kept
    | split)

theorem laneInputs_kept {lb : Nat} {may : Part → Prop} {s0 s : State} (n : ℕ) (frame : SapFrame) (h : Kept lb may s0 s) (h_asrc : may .asrc := by assumption) :
    Kept lb may s0 (State.laneInputs s n frame) := by
  unfold State.laneInputs
  repeat' (first
    | with_reducible assumption
    | (extract_lets +onlyGivenNames x; clear_value x)
    | with_reducible apply setLane_kept
    | with_reducible refine Kept.foldl _ _ _ ?_ fun _ _ _ => ?_
    | with_reducible refine Kept.foldl_snd _ _ _ ?_ fun _ _ _ => ?_
    | with_reducible refine Kept.foldl_fst _ _ _ ?_ fun _ _ _ => ?_
    | intro v
    | split)

theorem laneTake_kept {lb : Nat} {may : Part → Prop} {s0 s : State} (q : ℕ) (h : Kept lb may s0 s) (h_asrc : may .asrc := by assumption) :
    Kept lb may s0 (State.laneTake s q) := by
  unfold State.laneTake
  repeat' (first
    | with_reducible assumption
    | (extract_lets +onlyGivenNames x; clear_value x)
    | with_reducible apply setLane_kept
    | split)

theorem lanesRange_kept {lb : Nat} {may : Part → Prop} {s0 s : State} (n : ℕ) (h : Kept lb may s0 s) (hn : Low lb 0x120004 := by exact ‹Low _ _›.up rfl) (h_asrc : may .asrc := by assumption) :
    Kept lb may s0 (State.lanesRange s n) := by
  unfold State.lanesRange
  repeat' (first
    | with_reducible assumption
    | exact ‹Low _ _›.up1 rfl
    | exact ‹Low _ _›.of_le (by decide)
    | (extract_lets +onlyGivenNames x; refine (have hx : Kept lb may s0 x := ?_; ?_); rotate_left; clear_value x; rotate_right; subst x)
    | (extract_lets +onlyGivenNames x; clear_value x)
    | with_reducible apply set_kept
    | with_reducible apply laneUnlock_kept
    | with_reducible refine Kept.foldl _ _ _ ?_ fun _ _ _ => ?_
    | with_reducible refine Kept.foldl_snd _ _ _ ?_ fun _ _ _ => ?_
    | with_reducible refine Kept.foldl_fst _ _ _ ?_ fun _ _ _ => ?_
    | intro v
    | split)

theorem lanesRetune_kept {lb : Nat} {may : Part → Prop} {s0 s : State} (h : Kept lb may s0 s) (hn : Low lb 0x120004 := by exact ‹Low _ _›.up rfl) (h_asrc : may .asrc := by assumption) :
    Kept lb may s0 (State.lanesRetune s) := by
  unfold State.lanesRetune
  repeat' (first
    | with_reducible assumption
    | exact ‹Low _ _›.up1 rfl
    | exact ‹Low _ _›.of_le (by decide)
    | (extract_lets +onlyGivenNames x; refine (have hx : Kept lb may s0 x := ?_; ?_); rotate_left; clear_value x; rotate_right; subst x)
    | with_reducible apply set_kept
    | with_reducible apply lanesRange_kept
    | with_reducible refine Kept.foldl _ _ _ ?_ fun _ _ _ => ?_
    | with_reducible refine Kept.foldl_snd _ _ _ ?_ fun _ _ _ => ?_
    | with_reducible refine Kept.foldl_fst _ _ _ ?_ fun _ _ _ => ?_
    | intro v
    | split)

theorem sapStop_kept {lb : Nat} {may : Part → Prop} {s0 s : State} (n : ℕ) (h : Kept lb may s0 s) (hn : Low lb 0x130030 := by exact ‹Low _ _›.up rfl) (h_sap : may .sap := by assumption) :
    Kept lb may s0 (State.sapStop s n) := by
  unfold State.sapStop
  repeat' (first
    | with_reducible assumption
    | exact ‹Low _ _›.up1 rfl
    | exact ‹Low _ _›.of_le (by decide)
    | (extract_lets +onlyGivenNames x; clear_value x)
    | with_reducible apply set_kept
    | with_reducible apply setSapP_kept)

theorem sapHalt_kept {lb : Nat} {may : Part → Prop} {s0 s : State} (n : ℕ) (h : Kept lb may s0 s) (hn : Low lb 0x130030 := by exact ‹Low _ _›.up rfl) (h_sap : may .sap := by assumption) :
    Kept lb may s0 (State.sapHalt s n) := by
  unfold State.sapHalt
  repeat' (first
    | with_reducible assumption
    | exact ‹Low _ _›.of_le (by decide)
    | (extract_lets +onlyGivenNames x; refine (have hx : Kept lb may s0 x := ?_; ?_); rotate_left; clear_value x; rotate_right; subst x)
    | with_reducible apply sapStop_kept
    | with_reducible apply setSapP_kept)

theorem sapEnd_kept {lb : Nat} {may : Part → Prop} {s0 s : State} (n : ℕ) (h : Kept lb may s0 s) (h_sap : may .sap := by assumption) :
    Kept lb may s0 (State.sapEnd s n) := by
  unfold State.sapEnd
  repeat' (first
    | with_reducible assumption
    | (extract_lets +onlyGivenNames x; clear_value x)
    | with_reducible apply setSapP_kept
    | split)

theorem sapMasks_kept {lb : Nat} {may : Part → Prop} {s0 s : State} (n : ℕ) (h : Kept lb may s0 s) (hn : Low lb 0x130010 := by exact ‹Low _ _›.up rfl) (h_sap : may .sap := by assumption) :
    Kept lb may s0 (State.sapMasks s n) := by
  unfold State.sapMasks
  repeat' (first
    | with_reducible assumption
    | exact ‹Low _ _›.up2 rfl
    | exact ‹Low _ _›.up1 rfl
    | exact ‹Low _ _›.of_le (by decide)
    | exact ‹Low _ _›.of_le (sapMaskReg_low _ _)
    | (extract_lets +onlyGivenNames x; subst x)
    | with_reducible apply setSapP_kept
    | with_reducible apply set_kept
    | with_reducible refine Kept.foldl _ _ _ ?_ fun _ _ _ => ?_)

theorem sapHoldMask_kept {lb : Nat} {may : Part → Prop} {s0 s : State} (n : ℕ) (k : Fin 8) (v : Word) (h : Kept lb may s0 s) (h_sap : may .sap := by assumption) :
    Kept lb may s0 (State.sapHoldMask s n k v) := by
  unfold State.sapHoldMask
  repeat' (first
    | with_reducible assumption
    | with_reducible apply setSapP_kept)

theorem sapFollow_kept {lb : Nat} {may : Part → Prop} {s0 s : State} (n : ℕ) (h : Kept lb may s0 s) (hn : Low lb 0x130030 := by exact ‹Low _ _›.up rfl) (h_sap : may .sap := by assumption) :
    Kept lb may s0 (State.sapFollow s n) := by
  unfold State.sapFollow
  repeat' (first
    | with_reducible assumption
    | exact ‹Low _ _›.up1 rfl
    | exact ‹Low _ _›.of_le (by decide)
    | (extract_lets +onlyGivenNames x; refine (have hx : Kept lb may s0 x := ?_; ?_); rotate_left; clear_value x; rotate_right; subst x)
    | (extract_lets +onlyGivenNames x; clear_value x)
    | with_reducible apply set_kept
    | with_reducible apply sapStop_kept
    | with_reducible apply setSapP_kept
    | split)

theorem sapTick_kept {lb : Nat} {may : Part → Prop} {s0 s : State} (n : ℕ) (h : Kept lb may s0 s) (hn : Low lb 0x130010 := by exact ‹Low _ _›.up rfl) (h_sap : may .sap := by assumption) :
    Kept lb may s0 (State.sapTick s n) := by
  unfold State.sapTick
  repeat' (first
    | with_reducible assumption
    | exact ‹Low _ _›.up1 rfl
    | exact ‹Low _ _›.of_le (by decide)
    | (extract_lets +onlyGivenNames x; refine (have hx : Kept lb may s0 x := ?_; ?_); rotate_left; clear_value x; rotate_right; subst x)
    | (extract_lets +onlyGivenNames x; clear_value x)
    | with_reducible apply sapEnd_kept
    | with_reducible apply set_kept
    | with_reducible apply setSapP_kept
    | with_reducible apply sapMasks_kept
    | split)

theorem sapSlipRx_kept {lb : Nat} {may : Part → Prop} {s0 s : State} (n : ℕ) (h : Kept lb may s0 s) (hn : Low lb 0x130034 := by exact ‹Low _ _›.up rfl) (h_sap : may .sap := by assumption) :
    Kept lb may s0 (State.sapSlipRx s n) := by
  unfold State.sapSlipRx
  repeat' (first
    | with_reducible assumption
    | exact ‹Low _ _›.up1 rfl
    | exact ‹Low _ _›.of_le (by decide)
    | (extract_lets +onlyGivenNames x; subst x)
    | with_reducible apply setSapP_kept
    | with_reducible apply flag_kept
    | with_reducible apply count_kept
    | split)

theorem sapSlipTx_kept {lb : Nat} {may : Part → Prop} {s0 s : State} (n : ℕ) (h : Kept lb may s0 s) (hn : Low lb 0x130034 := by exact ‹Low _ _›.up rfl) (h_sap : may .sap := by assumption) :
    Kept lb may s0 (State.sapSlipTx s n) := by
  unfold State.sapSlipTx
  repeat' (first
    | with_reducible assumption
    | exact ‹Low _ _›.up1 rfl
    | exact ‹Low _ _›.of_le (by decide)
    | (extract_lets +onlyGivenNames x; subst x)
    | with_reducible apply setSapP_kept
    | with_reducible apply flag_kept
    | with_reducible apply count_kept
    | split)

theorem sapRate_kept {lb : Nat} {may : Part → Prop} {s0 s : State} (n : ℕ) (h : Kept lb may s0 s) (hn : Low lb 0x130030 := by exact ‹Low _ _›.up rfl) (h_sap : may .sap := by assumption) :
    Kept lb may s0 (State.sapRate s n) := by
  unfold State.sapRate
  repeat' (first
    | with_reducible assumption
    | exact ‹Low _ _›.up1 rfl
    | exact ‹Low _ _›.of_le (by decide)
    | (extract_lets +onlyGivenNames x; refine (have hx : Kept lb may s0 x := ?_; ?_); rotate_left; clear_value x; rotate_right; subst x)
    | (extract_lets +onlyGivenNames x; clear_value x)
    | with_reducible apply set_kept
    | with_reducible apply setSapP_kept
    | split)

theorem sapBegin_kept {lb : Nat} {may : Part → Prop} {s0 s : State} (n : ℕ) (rate10 : ℕ) (h : Kept lb may s0 s) (hn : Low lb 0x130010 := by exact ‹Low _ _›.up rfl) (h_sap : may .sap := by assumption) :
    Kept lb may s0 (State.sapBegin s n rate10) := by
  unfold State.sapBegin
  repeat' (first
    | with_reducible assumption
    | exact ‹Low _ _›.up1 rfl
    | exact ‹Low _ _›.of_le (by decide)
    | (extract_lets +onlyGivenNames x; clear_value x)
    | with_reducible apply sapMasks_kept
    | with_reducible apply sapRate_kept
    | with_reducible apply set_kept
    | with_reducible apply setSapP_kept)

theorem sapMismatch_kept {lb : Nat} {may : Part → Prop} {s0 s : State} (n : ℕ) (rising : Bool) (h : Kept lb may s0 s) (hn : Low lb 0x130030 := by exact ‹Low _ _›.up rfl) :
    Kept lb may s0 (State.sapMismatch s n rising) := by
  unfold State.sapMismatch
  repeat' (first
    | with_reducible assumption
    | exact ‹Low _ _›.up1 rfl
    | exact ‹Low _ _›.of_le (by decide)
    | (extract_lets +onlyGivenNames x; clear_value x)
    | with_reducible apply flag_kept
    | with_reducible apply set_kept
    | split)

theorem sapStepped_kept {lb : Nat} {may : Part → Prop} {s0 s : State} (n : ℕ) (rate10 : ℕ) (h : Kept lb may s0 s) (hn : Low lb 0x120004 := by exact ‹Low _ _›.up rfl) (h_asrc : may .asrc := by assumption) :
    Kept lb may s0 (State.sapStepped s n rate10) := by
  unfold State.sapStepped
  repeat' (first
    | with_reducible assumption
    | exact ‹Low _ _›.of_le (by decide)
    | with_reducible apply laneUnlock_kept
    | with_reducible refine Kept.foldl _ _ _ ?_ fun _ _ _ => ?_
    | with_reducible refine Kept.foldl_snd _ _ _ ?_ fun _ _ _ => ?_
    | with_reducible refine Kept.foldl_fst _ _ _ ?_ fun _ _ _ => ?_
    | intro v
    | split)

theorem sapFrame_kept {lb : Nat} {may : Part → Prop} {s0 s : State} (n : ℕ) (seen : FrameSeen) (rate10 : ℕ) (wires : List ℕ) (h : Kept lb may s0 s) (hn : Low lb 0x120004 := by exact ‹Low _ _›.up rfl) (h_asrc : may .asrc := by assumption) (h_sap : may .sap := by assumption) :
    Kept lb may s0 (State.sapFrame s n seen rate10 wires) := by
  unfold State.sapFrame
  repeat' (first
    | with_reducible assumption
    | exact ‹Low _ _›.up1 rfl
    | exact ‹Low _ _›.of_le (by decide)
    | (extract_lets +onlyGivenNames x; refine (have hx : Kept lb may s0 x := ?_; ?_); rotate_left; clear_value x; rotate_right; subst x)
    | (extract_lets +onlyGivenNames x; clear_value x)
    | with_reducible apply sapEnd_kept
    | with_reducible apply sapBegin_kept
    | with_reducible apply flagIf_kept
    | with_reducible apply set_kept
    | with_reducible apply sapStepped_kept
    | with_reducible apply setSapP_kept
    | with_reducible apply laneInputs_kept
    | with_reducible apply lanesRange_kept
    | with_reducible apply sapRate_kept
    | with_reducible apply sapSlipRx_kept
    | with_reducible apply sapSlipTx_kept
    | with_reducible apply sapMasks_kept
    | with_reducible apply sapMismatch_kept
    | split)

theorem sapXrun_kept {lb : Nat} {may : Part → Prop} {s0 s : State} (n : ℕ) (tx : Bool) (slot : ℕ) (h : Kept lb may s0 s) (hn : Low lb 0x130034 := by exact ‹Low _ _›.up rfl) (h_sap : may .sap := by assumption) :
    Kept lb may s0 (State.sapXrun s n tx slot) := by
  unfold State.sapXrun
  repeat' (first
    | with_reducible assumption
    | exact ‹Low _ _›.up1 rfl
    | exact ‹Low _ _›.of_le (by decide)
    | (extract_lets +onlyGivenNames x; clear_value x)
    | with_reducible apply flag_kept
    | with_reducible apply setSapP_kept
    | intro v
    | split)

theorem sapLrmis_kept {lb : Nat} {may : Part → Prop} {s0 s : State} (n : ℕ) (h : Kept lb may s0 s) (hn : Low lb 0x130030 := by exact ‹Low _ _›.up rfl) :
    Kept lb may s0 (State.sapLrmis s n) := by
  unfold State.sapLrmis
  repeat' (first
    | with_reducible assumption
    | exact ‹Low _ _›.up1 rfl
    | exact ‹Low _ _›.of_le (by decide)
    | with_reducible apply flag_kept
    | with_reducible apply set_kept
    | split)

theorem sapLost_kept {lb : Nat} {may : Part → Prop} {s0 s : State} (n : ℕ) (h : Kept lb may s0 s) (hn : Low lb 0x120004 := by exact ‹Low _ _›.up rfl) (h_asrc : may .asrc := by assumption) (h_sap : may .sap := by assumption) :
    Kept lb may s0 (State.sapLost s n) := by
  unfold State.sapLost
  repeat' (first
    | with_reducible assumption
    | exact ‹Low _ _›.up1 rfl
    | exact ‹Low _ _›.of_le (by decide)
    | (extract_lets +onlyGivenNames x; refine (have hx : Kept lb may s0 x := ?_; ?_); rotate_left; clear_value x; rotate_right; subst x)
    | (extract_lets +onlyGivenNames x; clear_value x)
    | with_reducible apply laneUnlock_kept
    | with_reducible apply setSapP_kept
    | with_reducible apply flag_kept
    | with_reducible apply set_kept
    | with_reducible refine Kept.foldl _ _ _ ?_ fun _ _ _ => ?_
    | with_reducible refine Kept.foldl_snd _ _ _ ?_ fun _ _ _ => ?_
    | with_reducible refine Kept.foldl_fst _ _ _ ?_ fun _ _ _ => ?_
    | intro v
    | split)

theorem sapTakeFrame_kept {lb : Nat} {may : Part → Prop} {s0 s : State} (n : ℕ) (h : Kept lb may s0 s) (h_sap : may .sap := by assumption) :
    Kept lb may s0 (State.sapTakeFrame s n) := by
  unfold State.sapTakeFrame
  repeat' (first
    | with_reducible assumption
    | (extract_lets +onlyGivenNames x; clear_value x)
    | with_reducible apply setSapP_kept
    | split)

theorem sapBeforeMove_kept {lb : Nat} {may : Part → Prop} {s0 s : State} (n : ℕ) (h : Kept lb may s0 s) (hn : Low lb 0x130034 := by exact ‹Low _ _›.up rfl) (h_sap : may .sap := by assumption) :
    Kept lb may s0 (State.sapBeforeMove s n) := by
  unfold State.sapBeforeMove
  repeat' (first
    | with_reducible assumption
    | exact ‹Low _ _›.of_le (by decide)
    | with_reducible apply sapSlipRx_kept
    | split)

theorem sapPutFrame_kept {lb : Nat} {may : Part → Prop} {s0 s : State} (n : ℕ) (frame : SapFrame) (h : Kept lb may s0 s) (hn : Low lb 0x130034 := by exact ‹Low _ _›.up rfl) (h_sap : may .sap := by assumption) :
    Kept lb may s0 (State.sapPutFrame s n frame) := by
  unfold State.sapPutFrame
  repeat' (first
    | with_reducible assumption
    | exact ‹Low _ _›.of_le (by decide)
    | (extract_lets +onlyGivenNames x; refine (have hx : Kept lb may s0 x := ?_; ?_); rotate_left; clear_value x; rotate_right; subst x)
    | (extract_lets +onlyGivenNames x; clear_value x)
    | with_reducible apply setSapP_kept
    | with_reducible apply sapSlipTx_kept
    | split)

theorem sapMs_kept {lb : Nat} {may : Part → Prop} {s0 s : State} (n : ℕ) (h : Kept lb may s0 s) (h_sap : may .sap := by assumption) :
    Kept lb may s0 (State.sapMs s n) := by
  unfold State.sapMs
  repeat' (first
    | with_reducible assumption
    | (extract_lets +onlyGivenNames x; clear_value x)
    | with_reducible apply setSapP_kept
    | split)

theorem asrcMs_kept {lb : Nat} {may : Part → Prop} {s0 s : State} (h : Kept lb may s0 s) (h_asrc : may .asrc := by assumption) (h_sap : may .sap := by assumption) :
    Kept lb may s0 (State.asrcMs s) := by
  unfold State.asrcMs
  repeat' (first
    | with_reducible assumption
    | with_reducible apply laneMs_kept
    | with_reducible apply sapMs_kept
    | with_reducible refine Kept.foldl _ _ _ ?_ fun _ _ _ => ?_)

theorem asrcFollowAll_kept {lb : Nat} {may : Part → Prop} {s0 s : State} (h : Kept lb may s0 s) (hn : Low lb 0x120004 := by exact ‹Low _ _›.up rfl) (h_asrc : may .asrc := by assumption) (h_sap : may .sap := by assumption) :
    Kept lb may s0 (State.asrcFollowAll s) := by
  unfold State.asrcFollowAll
  repeat' (first
    | with_reducible assumption
    | exact ‹Low _ _›.of_le (by decide)
    | with_reducible apply laneFollow_kept
    | with_reducible apply sapFollow_kept
    | with_reducible apply Kept.foldl
    | intro v)

theorem asrcRateChange_kept {lb : Nat} {may : Part → Prop} {s0 s : State} (h : Kept lb may s0 s) (hn : Low lb 0x120004 := by exact ‹Low _ _›.up rfl) (h_asrc : may .asrc := by assumption) (h_sap : may .sap := by assumption) :
    Kept lb may s0 (State.asrcRateChange s) := by
  unfold State.asrcRateChange
  repeat' (first
    | with_reducible assumption
    | exact ‹Low _ _›.of_le (by decide)
    | with_reducible apply lanesRetune_kept
    | with_reducible apply sapRate_kept
    | with_reducible apply asrcFollowAll_kept
)

theorem lanesUnlockAll_kept {lb : Nat} {may : Part → Prop} {s0 s : State} (h : Kept lb may s0 s) (hn : Low lb 0x120004 := by exact ‹Low _ _›.up rfl) (h_asrc : may .asrc := by assumption) :
    Kept lb may s0 (State.lanesUnlockAll s) := by
  unfold State.lanesUnlockAll
  repeat' (first
    | with_reducible assumption
    | exact ‹Low _ _›.of_le (by decide)
    | with_reducible apply laneUnlock_kept
    | with_reducible apply Kept.foldl
    | intro v)

theorem execLaneLock_kept {lb : Nat} {may : Part → Prop} {s0 s : State} (q : Fin 96) (ratio : BitVec 24) (h : Kept lb may s0 s) (hn : Low lb 0x120004 := by exact ‹Low _ _›.up rfl) (h_asrc : may .asrc := by assumption) :
    ∃ out, execLaneLock q ratio s = .next out ∧ Kept lb may s0 out := by
  refine ⟨_, rfl, ?_⟩
  repeat' (first
    | with_reducible assumption
    | with_reducible intro v
    | exact ‹Low _ _›.of_le (by decide)
    | with_reducible apply laneLock_kept
)

theorem execLaneUnlock_kept {lb : Nat} {may : Part → Prop} {s0 s : State} (seen : LaneRatio) (h : Kept lb may s0 s) (hn : Low lb 0x120004 := by exact ‹Low _ _›.up rfl) (h_asrc : may .asrc := by assumption) :
    ∃ out, execLaneUnlock seen s = .next out ∧ Kept lb may s0 out := by
  refine ⟨_, rfl, ?_⟩
  repeat' (first
    | with_reducible assumption
    | with_reducible intro v
    | exact ‹Low _ _›.of_le (by decide)
    | with_reducible apply laneStep_kept
)

theorem execTableBuild_kept {lb : Nat} {may : Part → Prop} {s0 s : State} (q : Fin 96) (h : Kept lb may s0 s) (h_asrc : may .asrc := by assumption) :
    ∃ out, execTableBuild q s = .next out ∧ Kept lb may s0 out := by
  refine ⟨_, rfl, ?_⟩
  repeat' (first
    | with_reducible assumption
    | with_reducible intro v
    | with_reducible apply tableBuilt_kept
)

theorem execRatioClassChange_kept {lb : Nat} {may : Part → Prop} {s0 s : State} (q : Fin 96) (ratio : BitVec 24) (h : Kept lb may s0 s) (hn : Low lb 0x120004 := by exact ‹Low _ _›.up rfl) (h_asrc : may .asrc := by assumption) :
    ∃ out, execRatioClassChange q ratio s = .next out ∧ Kept lb may s0 out := by
  refine ⟨_, rfl, ?_⟩
  repeat' (first
    | with_reducible assumption
    | with_reducible intro v
    | exact ‹Low _ _›.of_le (by decide)
    | with_reducible apply laneClassChange_kept
)

theorem execFrameSyncEdge_kept {lb : Nat} {may : Part → Prop} {s0 s : State} (n : Fin 2) (seen : FrameSeen) (rate10 : ℕ) (wires : List ℕ) (h : Kept lb may s0 s) (hn : Low lb 0x120004 := by exact ‹Low _ _›.up rfl) (h_asrc : may .asrc := by assumption) (h_sap : may .sap := by assumption) :
    ∃ out, execFrameSyncEdge n seen rate10 wires s = .next out ∧ Kept lb may s0 out := by
  refine ⟨_, rfl, ?_⟩
  repeat' (first
    | with_reducible assumption
    | with_reducible intro v
    | exact ‹Low _ _›.of_le (by decide)
    | with_reducible apply sapFrame_kept
)

theorem execFrameErr_kept {lb : Nat} {may : Part → Prop} {s0 s : State} (n : Fin 2) (seen : FrameSeen) (rate10 : ℕ) (wires : List ℕ) (h : Kept lb may s0 s) (hn : Low lb 0x120004 := by exact ‹Low _ _›.up rfl) (h_asrc : may .asrc := by assumption) (h_sap : may .sap := by assumption) :
    ∃ out, execFrameErr n seen rate10 wires s = .next out ∧ Kept lb may s0 out := by
  refine ⟨_, rfl, ?_⟩
  repeat' (first
    | with_reducible assumption
    | with_reducible intro v
    | exact ‹Low _ _›.of_le (by decide)
    | with_reducible apply sapFrame_kept
    | split)

theorem execXrun_kept {lb : Nat} {may : Part → Prop} {s0 s : State} (seen : XrunSeen) (h : Kept lb may s0 s) (hn : Low lb 0x130034 := by exact ‹Low _ _›.up rfl) (h_sap : may .sap := by assumption) :
    ∃ out, execXrun seen s = .next out ∧ Kept lb may s0 out := by
  refine ⟨_, rfl, ?_⟩
  repeat' (first
    | with_reducible assumption
    | with_reducible intro v
    | exact ‹Low _ _›.of_le (by decide)
    | with_reducible apply sapXrun_kept
)

theorem execLrmis_kept {lb : Nat} {may : Part → Prop} {s0 s : State} (n : Fin 2) (h : Kept lb may s0 s) (hn : Low lb 0x130030 := by exact ‹Low _ _›.up rfl) :
    ∃ out, execLrmis n s = .next out ∧ Kept lb may s0 out := by
  refine ⟨_, rfl, ?_⟩
  repeat' (first
    | with_reducible assumption
    | with_reducible intro v
    | exact ‹Low _ _›.of_le (by decide)
    | with_reducible apply sapLrmis_kept
)

theorem execPortLost_kept {lb : Nat} {may : Part → Prop} {s0 s : State} (n : Fin 2) (h : Kept lb may s0 s) (hn : Low lb 0x120004 := by exact ‹Low _ _›.up rfl) (h_asrc : may .asrc := by assumption) (h_sap : may .sap := by assumption) :
    ∃ out, execPortLost n s = .next out ∧ Kept lb may s0 out := by
  refine ⟨_, rfl, ?_⟩
  repeat' (first
    | with_reducible assumption
    | with_reducible intro v
    | exact ‹Low _ _›.of_le (by decide)
    | with_reducible apply sapLost_kept
)

theorem execSlip_kept {lb : Nat} {may : Part → Prop} {s0 s : State} (n : Fin 2) (tx : Bool) (h : Kept lb may s0 s) (hn : Low lb 0x130034 := by exact ‹Low _ _›.up rfl) (h_sap : may .sap := by assumption) :
    ∃ out, execSlip n tx s = .next out ∧ Kept lb may s0 out := by
  refine ⟨_, rfl, ?_⟩
  repeat' (first
    | with_reducible assumption
    | with_reducible intro v
    | exact ‹Low _ _›.of_le (by decide)
    | with_reducible apply sapSlipTx_kept
    | with_reducible apply sapSlipRx_kept
    | split)

end Sys2Proof.Laws
end

