-- ==== Sys2Proof/Laws/KeptRam.lean ====
section
/-! SUPPORT. Each operation of Machine/Ram.lean keeps the queue, the time and the invariant. -/

set_option Elab.async false

namespace Sys2Proof.Laws

open Sys2Proof.Machine

theorem setRamWord_kept {lb : Nat} {may : Part → Prop} {s0 s : State} (a : ℕ) (v : Word) (h : Kept lb may s0 s) (h_ram : may .ram := by assumption) : Kept lb may s0 (State.setRamWord s a v) := by
  unfold State.setRamWord
  split
  · exact h.with_ram _ (tabWf_putList _ _ _ _)
  · exact h


end Sys2Proof.Laws
end

