-- ==== Sys2Proof/Laws/KeptPsc.lean ====
section
/-! SUPPORT. Each operation of Machine/Psc.lean keeps the queue, the time and the invariant. -/

set_option Elab.async false

namespace Sys2Proof.Laws

open Sys2Proof.Machine

theorem setPscCh_kept {lb : Nat} {may : Part → Prop} {s0 s : State} (k : ℕ) (c : PscCh) (h : Kept lb may s0 s) (h_psc : may .psc := by assumption) :
    Kept lb may s0 (State.setPscCh s k c) := by
  unfold State.setPscCh
  repeat' (first
    | with_reducible assumption
    | intro v
    | with_reducible apply Kept.with_psc)

theorem setPsState_kept {lb : Nat} {may : Part → Prop} {s0 s : State} (k : ℕ) (v : ℕ) (h : Kept lb may s0 s) (hn : Low lb 0x170004 := by exact ‹Low _ _›.up rfl) :
    Kept lb may s0 (State.setPsState s k v) := by
  unfold State.setPsState
  repeat' (first
    | with_reducible assumption
    | exact ‹Low _ _›.up1 rfl
    | exact ‹Low _ _›.of_le (by decide)
    | with_reducible apply set_kept
)

theorem allOffBy_kept {lb : Nat} {may : Part → Prop} {s0 s : State} (k : ℕ) (clock : Bool) (h : Kept lb may s0 s) (hn : Low lb 0x170004 := by exact ‹Low _ _›.up rfl) (h_timers : may .timers := by assumption) (h_psc : may .psc := by assumption) :
    Kept lb may s0 (State.allOffBy s k clock) := by
  unfold State.allOffBy
  repeat' (first
    | with_reducible assumption
    | exact ‹Low _ _›.up1 rfl
    | exact ‹Low _ _›.of_le (by decide)
    | (extract_lets +onlyGivenNames x; clear_value x)
    | with_reducible apply stopTimer_kept
    | with_reducible apply set_kept
    | with_reducible apply setPscCh_kept)

theorem allOff_kept {lb : Nat} {may : Part → Prop} {s0 s : State} (k : ℕ) (h : Kept lb may s0 s) (hn : Low lb 0x170004 := by exact ‹Low _ _›.up rfl) (h_timers : may .timers := by assumption) (h_psc : may .psc := by assumption) :
    Kept lb may s0 (State.allOff s k) := by
  unfold State.allOff
  repeat' (first
    | with_reducible assumption
    | exact ‹Low _ _›.of_le (by decide)
    | with_reducible apply allOffBy_kept
)

theorem pscFaulted_kept {lb : Nat} {may : Part → Prop} {s0 s : State} (k : ℕ) (cause : ℕ) (h : Kept lb may s0 s) (hn : Low lb 0x170004 := by exact ‹Low _ _›.up rfl) (h_timers : may .timers := by assumption) :
    Kept lb may s0 (State.pscFaulted s k cause) := by
  unfold State.pscFaulted
  repeat' (first
    | with_reducible assumption
    | exact ‹Low _ _›.up1 rfl
    | exact ‹Low _ _›.of_le (by decide)
    | with_reducible apply startTimer_kept
    | with_reducible apply flag_kept
    | with_reducible apply set_kept
    | with_reducible apply setPsState_kept
)

theorem pscFault_kept {lb : Nat} {may : Part → Prop} {s0 s : State} (k : ℕ) (cause : ℕ) (h : Kept lb may s0 s) (hn : Low lb 0x170004 := by exact ‹Low _ _›.up rfl) (h_timers : may .timers := by assumption) (h_psc : may .psc := by assumption) :
    Kept lb may s0 (State.pscFault s k cause) := by
  unfold State.pscFault
  repeat' (first
    | with_reducible assumption
    | exact ‹Low _ _›.of_le (by decide)
    | with_reducible apply pscFaulted_kept
    | with_reducible apply allOff_kept
)

theorem pscLatch_kept {lb : Nat} {may : Part → Prop} {s0 s : State} (k : ℕ) (h : Kept lb may s0 s) (hn : Low lb 0x170004 := by exact ‹Low _ _›.up rfl) :
    Kept lb may s0 (State.pscLatch s k) := by
  unfold State.pscLatch
  repeat' (first
    | with_reducible assumption
    | exact ‹Low _ _›.up1 rfl
    | exact ‹Low _ _›.of_le (by decide)
    | with_reducible apply flag_kept
    | with_reducible apply setPsState_kept
)

theorem pscStageFault_kept {lb : Nat} {may : Part → Prop} {s0 s : State} (k : ℕ) (cause : ℕ) (h : Kept lb may s0 s) (hn : Low lb 0x7000c := by exact ‹Low _ _›.up rfl) (h_timers : may .timers := by assumption) (h_psc : may .psc := by assumption) (h_stew : may .stew := by assumption) :
    Kept lb may s0 (State.pscStageFault s k cause) := by
  unfold State.pscStageFault
  repeat' (first
    | with_reducible assumption
    | exact ‹Low _ _›.of_le (by decide)
    | (extract_lets +onlyGivenNames x; refine (have hx : Kept lb may s0 x := ?_; ?_); rotate_left; clear_value x; rotate_right; subst x)
    | with_reducible apply error_kept
    | with_reducible apply pscFault_kept
    | with_reducible apply pscLatch_kept
    | split)

theorem pscBegin_kept {lb : Nat} {may : Part → Prop} {s0 s : State} (k : ℕ) (h : Kept lb may s0 s) (hn : Low lb 0x170004 := by exact ‹Low _ _›.up rfl) (h_timers : may .timers := by assumption) (h_psc : may .psc := by assumption) :
    Kept lb may s0 (State.pscBegin s k) := by
  unfold State.pscBegin
  repeat' (first
    | with_reducible assumption
    | exact ‹Low _ _›.up1 rfl
    | exact ‹Low _ _›.of_le (by decide)
    | (extract_lets +onlyGivenNames x; subst x)
    | with_reducible apply set_kept
    | with_reducible apply startTimer_kept
    | with_reducible apply setPsState_kept
    | with_reducible apply setPscCh_kept
    | split)

theorem pscSwitchOn_kept {lb : Nat} {may : Part → Prop} {s0 s : State} (k : ℕ) (h : Kept lb may s0 s) (h_timers : may .timers := by assumption) (h_psc : may .psc := by assumption) :
    Kept lb may s0 (State.pscSwitchOn s k) := by
  unfold State.pscSwitchOn
  repeat' (first
    | with_reducible assumption
    | (extract_lets +onlyGivenNames x; clear_value x)
    | with_reducible apply stopTimer_kept
    | with_reducible apply setPscCh_kept)

theorem pscProbe_kept {lb : Nat} {may : Part → Prop} {s0 s : State} (k : ℕ) (h : Kept lb may s0 s) (h_timers : may .timers := by assumption) (h_psc : may .psc := by assumption) :
    Kept lb may s0 (State.pscProbe s k) := by
  unfold State.pscProbe
  repeat' (first
    | with_reducible assumption
    | (extract_lets +onlyGivenNames x; clear_value x)
    | with_reducible apply startTimer_kept
    | with_reducible apply setPscCh_kept)

theorem pscPrecharge_kept {lb : Nat} {may : Part → Prop} {s0 s : State} (k : ℕ) (h : Kept lb may s0 s) (h_timers : may .timers := by assumption) (h_psc : may .psc := by assumption) :
    Kept lb may s0 (State.pscPrecharge s k) := by
  unfold State.pscPrecharge
  repeat' (first
    | with_reducible assumption
    | (extract_lets +onlyGivenNames x; clear_value x)
    | with_reducible apply pscSwitchOn_kept
    | with_reducible apply setPscCh_kept
    | with_reducible apply pscProbe_kept
    | split)

theorem pscQuiet_kept {lb : Nat} {may : Part → Prop} {s0 s : State} (k : ℕ) (h : Kept lb may s0 s) (hn : Low lb 0x170004 := by exact ‹Low _ _›.up rfl) (h_psc : may .psc := by assumption) :
    Kept lb may s0 (State.pscQuiet s k) := by
  unfold State.pscQuiet
  repeat' (first
    | with_reducible assumption
    | exact ‹Low _ _›.of_le (by decide)
    | (extract_lets +onlyGivenNames x; clear_value x)
    | with_reducible apply setPsState_kept
    | with_reducible apply setPscCh_kept
    | split)

theorem pscIdle_kept {lb : Nat} {may : Part → Prop} {s0 s : State} (h : Kept lb may s0 s) (hn : Low lb 0x170004 := by exact ‹Low _ _›.up rfl) (h_psc : may .psc := by assumption) :
    Kept lb may s0 (State.pscIdle s) := by
  unfold State.pscIdle
  repeat' (first
    | with_reducible assumption
    | exact ‹Low _ _›.of_le (by decide)
    | with_reducible apply pscQuiet_kept
    | with_reducible refine Kept.foldl _ _ _ ?_ fun _ _ _ => ?_)

theorem pscUnidle_kept {lb : Nat} {may : Part → Prop} {s0 s : State} (h : Kept lb may s0 s) (hn : Low lb 0x170004 := by exact ‹Low _ _›.up rfl) (h_psc : may .psc := by assumption) :
    Kept lb may s0 (State.pscUnidle s) := by
  unfold State.pscUnidle
  repeat' (first
    | with_reducible assumption
    | exact ‹Low _ _›.of_le (by decide)
    | with_reducible apply pscQuiet_kept
    | with_reducible refine Kept.foldl _ _ _ ?_ fun _ _ _ => ?_)

theorem pscStart_kept {lb : Nat} {may : Part → Prop} {s0 s : State} (k : ℕ) (line : Bool) (h : Kept lb may s0 s) (hn : Low lb 0x170004 := by exact ‹Low _ _›.up rfl) (h_timers : may .timers := by assumption) (h_psc : may .psc := by assumption) :
    Kept lb may s0 (State.pscStart s k line) := by
  unfold State.pscStart
  repeat' (first
    | with_reducible assumption
    | exact ‹Low _ _›.up1 rfl
    | exact ‹Low _ _›.of_le (by decide)
    | (extract_lets +onlyGivenNames x; refine (have hx : Kept lb may s0 x := ?_; ?_); rotate_left; clear_value x; rotate_right; subst x)
    | (extract_lets +onlyGivenNames x; clear_value x)
    | with_reducible apply set_kept
    | with_reducible apply pscSwitchOn_kept
    | with_reducible apply stopTimer_kept
    | with_reducible apply startTimer_kept
    | with_reducible apply setPscCh_kept
    | with_reducible apply pscPrecharge_kept
    | with_reducible apply pscQuiet_kept
    | with_reducible apply flag_kept
    | with_reducible apply setPsState_kept
    | with_reducible apply pscBegin_kept
    | split)

theorem pscStopBegin_kept {lb : Nat} {may : Part → Prop} {s0 s : State} (k : ℕ) (cause : ℕ) (h : Kept lb may s0 s) (hn : Low lb 0x170004 := by exact ‹Low _ _›.up rfl) (h_timers : may .timers := by assumption) (h_psc : may .psc := by assumption) :
    Kept lb may s0 (State.pscStopBegin s k cause) := by
  unfold State.pscStopBegin
  repeat' (first
    | with_reducible assumption
    | exact ‹Low _ _›.up1 rfl
    | exact ‹Low _ _›.of_le (by decide)
    | (extract_lets +onlyGivenNames x; subst x)
    | with_reducible apply set_kept
    | with_reducible apply setPsState_kept
    | with_reducible apply setPscCh_kept
    | with_reducible apply flag_kept
    | with_reducible apply allOff_kept
    | with_reducible apply pscFault_kept
    | split)

theorem pscStopEnd_kept {lb : Nat} {may : Part → Prop} {s0 s : State} (k : ℕ) (h : Kept lb may s0 s) (hn : Low lb 0x170004 := by exact ‹Low _ _›.up rfl) (h_timers : may .timers := by assumption) (h_psc : may .psc := by assumption) :
    Kept lb may s0 (State.pscStopEnd s k) := by
  unfold State.pscStopEnd
  repeat' (first
    | with_reducible assumption
    | exact ‹Low _ _›.up1 rfl
    | exact ‹Low _ _›.of_le (by decide)
    | (extract_lets +onlyGivenNames x; subst x)
    | with_reducible apply flag_kept
    | with_reducible apply pscFault_kept
    | with_reducible apply setPsState_kept
    | with_reducible apply allOff_kept
    | split)

theorem pscStop_kept {lb : Nat} {may : Part → Prop} {s0 s : State} (k : ℕ) (h : Kept lb may s0 s) (hn : Low lb 0x170004 := by exact ‹Low _ _›.up rfl) (h_timers : may .timers := by assumption) (h_psc : may .psc := by assumption) :
    Kept lb may s0 (State.pscStop s k) := by
  unfold State.pscStop
  repeat' (first
    | with_reducible assumption
    | exact ‹Low _ _›.of_le (by decide)
    | (extract_lets +onlyGivenNames x; clear_value x)
    | with_reducible apply setPscCh_kept
    | with_reducible apply pscStopEnd_kept
    | with_reducible apply pscStopBegin_kept
    | split)

theorem pscPark_kept {lb : Nat} {may : Part → Prop} {s0 s : State} (h : Kept lb may s0 s) (hn : Low lb 0x170004 := by exact ‹Low _ _›.up rfl) (h_timers : may .timers := by assumption) (h_psc : may .psc := by assumption) :
    Kept lb may s0 (State.pscPark s) := by
  unfold State.pscPark
  repeat' (first
    | with_reducible assumption
    | exact ‹Low _ _›.of_le (by decide)
    | with_reducible apply pscStop_kept
    | with_reducible apply Kept.foldl
    | intro v)

theorem pscClockError_kept {lb : Nat} {may : Part → Prop} {s0 s : State} (k : ℕ) (h : Kept lb may s0 s) (hn : Low lb 0x7000c := by exact ‹Low _ _›.up rfl) (h_timers : may .timers := by assumption) (h_psc : may .psc := by assumption) (h_stew : may .stew := by assumption) :
    Kept lb may s0 (State.pscClockError s k) := by
  unfold State.pscClockError
  repeat' (first
    | with_reducible assumption
    | exact ‹Low _ _›.up1 rfl
    | exact ‹Low _ _›.of_le (by decide)
    | (extract_lets +onlyGivenNames x; refine (have hx : Kept lb may s0 x := ?_; ?_); rotate_left; clear_value x; rotate_right; subst x)
    | (extract_lets +onlyGivenNames x; clear_value x)
    | with_reducible apply allOffBy_kept
    | with_reducible apply flag_kept
    | with_reducible apply stopTimer_kept
    | with_reducible apply setPscCh_kept
    | with_reducible apply error_kept
    | with_reducible apply pscFaulted_kept
    | with_reducible apply setPsState_kept
    | split)

theorem pscFamilyPark_kept {lb : Nat} {may : Part → Prop} {s0 s : State} (h : Kept lb may s0 s) (hn : Low lb 0x170004 := by exact ‹Low _ _›.up rfl) (h_timers : may .timers := by assumption) (h_psc : may .psc := by assumption) :
    Kept lb may s0 (State.pscFamilyPark s) := by
  unfold State.pscFamilyPark
  repeat' (first
    | with_reducible assumption
    | exact ‹Low _ _›.of_le (by decide)
    | (extract_lets +onlyGivenNames x; clear_value x)
    | with_reducible apply pscFault_kept
    | with_reducible apply stopTimer_kept
    | with_reducible apply setPscCh_kept
    | with_reducible apply allOff_kept
    | with_reducible refine Kept.foldl _ _ _ ?_ fun _ _ _ => ?_
    | with_reducible refine Kept.foldl_snd _ _ _ ?_ fun _ _ _ => ?_
    | with_reducible refine Kept.foldl_fst _ _ _ ?_ fun _ _ _ => ?_
    | intro v
    | split)

theorem pscPowerOff_kept {lb : Nat} {may : Part → Prop} {s0 s : State} (h : Kept lb may s0 s) (hn : Low lb 0x170004 := by exact ‹Low _ _›.up rfl) (h_timers : may .timers := by assumption) (h_psc : may .psc := by assumption) :
    Kept lb may s0 (State.pscPowerOff s) := by
  unfold State.pscPowerOff
  repeat' (first
    | with_reducible assumption
    | exact ‹Low _ _›.of_le (by decide)
    | with_reducible apply setPscCh_kept
    | with_reducible apply allOff_kept
    | with_reducible apply setPsState_kept
    | with_reducible apply Kept.foldl
    | with_reducible apply Kept.foldl_snd
    | with_reducible apply Kept.foldl_fst
    | intro v
    | split)

theorem pscUnlatch_kept {lb : Nat} {may : Part → Prop} {s0 s : State} (k : ℕ) (h : Kept lb may s0 s) (hn : Low lb 0x170004 := by exact ‹Low _ _›.up rfl) (h_timers : may .timers := by assumption) (h_psc : may .psc := by assumption) :
    Kept lb may s0 (State.pscUnlatch s k) := by
  unfold State.pscUnlatch
  repeat' (first
    | with_reducible assumption
    | exact ‹Low _ _›.of_le (by decide)
    | (extract_lets +onlyGivenNames x; subst x)
    | with_reducible apply setPsState_kept
    | with_reducible apply pscBegin_kept
    | split)

theorem pscRestart_kept {lb : Nat} {may : Part → Prop} {s0 s : State} (k : ℕ) (go : State → State) (hgo : ∀  u, Kept lb may s0 u → Kept lb may s0 (go  u)) (h : Kept lb may s0 s) (hn : Low lb 0x170004 := by exact ‹Low _ _›.up rfl) (h_psc : may .psc := by assumption) :
    Kept lb may s0 (State.pscRestart s k go) := by
  unfold State.pscRestart
  repeat' (first
    | with_reducible assumption
    | exact ‹Low _ _›.up1 rfl
    | exact ‹Low _ _›.of_le (by decide)
    | (extract_lets +onlyGivenNames x; refine (have hx : Kept lb may s0 x := ?_; ?_); rotate_left; clear_value x; rotate_right; subst x)
    | (extract_lets +onlyGivenNames x; clear_value x)
    | with_reducible apply set_kept
    | with_reducible apply setPscCh_kept
    | with_reducible apply setPsState_kept
    | with_reducible apply hgo
    | split)

theorem pscShowRetries_kept {lb : Nat} {may : Part → Prop} {s0 s : State} (h : Kept lb may s0 s) (hn : Low lb 0x170004 := by exact ‹Low _ _›.up rfl) :
    Kept lb may s0 (State.pscShowRetries s) := by
  unfold State.pscShowRetries
  repeat' (first
    | with_reducible assumption
    | exact ‹Low _ _›.up1 rfl
    | exact ‹Low _ _›.of_le (by decide)
    | with_reducible apply set_kept
    | with_reducible apply Kept.foldl
    | with_reducible apply Kept.foldl_snd
    | with_reducible apply Kept.foldl_fst
    | intro v)

theorem pscFaultRestart_kept {lb : Nat} {may : Part → Prop} {s0 s : State} (k : ℕ) (h : Kept lb may s0 s) (hn : Low lb 0x170004 := by exact ‹Low _ _›.up rfl) (h_timers : may .timers := by assumption) (h_psc : may .psc := by assumption) :
    Kept lb may s0 (State.pscFaultRestart s k) := by
  unfold State.pscFaultRestart
  repeat' (first
    | with_reducible assumption
    | exact ‹Low _ _›.of_le (by decide)
    | (extract_lets +onlyGivenNames x; clear_value x)
    | with_reducible apply pscRestart_kept
    | with_reducible apply stopTimer_kept
    | with_reducible apply pscPrecharge_kept
    | intro v
    | split)

theorem pscTickStart_kept {lb : Nat} {may : Part → Prop} {s0 s : State} (k : ℕ) (h : Kept lb may s0 s) (h_psc : may .psc := by assumption) :
    Kept lb may s0 (State.pscTickStart s k) := by
  unfold State.pscTickStart
  repeat' (first
    | with_reducible assumption
    | (extract_lets +onlyGivenNames x; clear_value x)
    | with_reducible apply setPscCh_kept)

theorem pscTake_kept {lb : Nat} {may : Part → Prop} {s0 s : State} (k : ℕ) (a2 : Word) (h : Kept lb may s0 s) (h_psc : may .psc := by assumption) :
    Kept lb may s0 (State.pscTake s k a2) := by
  unfold State.pscTake
  repeat' (first
    | with_reducible assumption
    | (extract_lets +onlyGivenNames x; clear_value x)
    | with_reducible apply setPscCh_kept)

theorem pscLoop_kept {lb : Nat} {may : Part → Prop} {s0 s : State} (k : ℕ) (v : Word) (i : Word) (h : Kept lb may s0 s) (hn : Low lb 0x170008 := by exact ‹Low _ _›.up rfl) (h_psc : may .psc := by assumption) :
    Kept lb may s0 (State.pscLoop s k v i) := by
  unfold State.pscLoop
  repeat' (first
    | with_reducible assumption
    | exact ‹Low _ _›.up1 rfl
    | exact ‹Low _ _›.of_le (by decide)
    | (extract_lets +onlyGivenNames x; refine (have hx : Kept lb may s0 x := ?_; ?_); rotate_left; clear_value x; rotate_right; subst x)
    | (extract_lets +onlyGivenNames x; clear_value x)
    | with_reducible apply setPscCh_kept
    | with_reducible apply flagIf_kept)

theorem showFc_kept {lb : Nat} {may : Part → Prop} {s0 s : State} (k : ℕ) (h : Kept lb may s0 s) (hn : Low lb 0x170068 := by exact ‹Low _ _›.up rfl) :
    Kept lb may s0 (State.showFc s k) := by
  unfold State.showFc
  repeat' (first
    | with_reducible assumption
    | exact ‹Low _ _›.up2 rfl
    | exact ‹Low _ _›.up1 rfl
    | exact ‹Low _ _›.of_le (by decide)
    | (extract_lets +onlyGivenNames x; subst x; beta_reduce)
    | with_reducible apply set_kept
    | intro v
    | split)

theorem fcPredict_kept {lb : Nat} {may : Part → Prop} {s0 s : State} (k : ℕ) (h : Kept lb may s0 s) (hn : Low lb 0x170068 := by exact ‹Low _ _›.up rfl) (h_free : may .free := by assumption) (h_psc : may .psc := by assumption) :
    Kept lb may s0 (State.fcPredict s k) := by
  unfold State.fcPredict
  repeat' (first
    | with_reducible assumption
    | exact ‹Low _ _›.of_le (by decide)
    | (extract_lets +onlyGivenNames x; refine (have hx : Kept lb may s0 x := ?_; ?_); rotate_left; clear_value x; rotate_right; subst x)
    | (extract_lets +onlyGivenNames x; subst x)
    | with_reducible apply showFc_kept
    | with_reducible apply setPscCh_kept
    | intro v
    | split
    | with_reducible apply Kept.with_free)

theorem fcEstimateStep_kept {lb : Nat} {may : Part → Prop} {s0 s : State} (k : ℕ) (half : Bool) (h : Kept lb may s0 s) (hn : Low lb 0x7000c := by exact ‹Low _ _›.up rfl) (h_free : may .free := by assumption) (h_timers : may .timers := by assumption) (h_psc : may .psc := by assumption) (h_stew : may .stew := by assumption) :
    Kept lb may s0 (State.fcEstimateStep s k half) := by
  unfold State.fcEstimateStep
  repeat' (first
    | with_reducible assumption
    | exact ‹Low _ _›.up1 rfl
    | exact ‹Low _ _›.of_le (by decide)
    | (extract_lets +onlyGivenNames x; refine (have hx : Kept lb may s0 x := ?_; ?_); rotate_left; clear_value x; rotate_right; subst x)
    | (extract_lets +onlyGivenNames x; clear_value x)
    | with_reducible apply setPscCh_kept
    | with_reducible apply showFc_kept
    | with_reducible apply flagIf_kept
    | with_reducible apply set_kept
    | with_reducible apply pscStageFault_kept
    | with_reducible apply flag_kept
    | with_reducible refine Kept.foldl _ _ _ ?_ fun _ _ _ => ?_
    | with_reducible refine Kept.foldl_snd _ _ _ ?_ fun _ _ _ => ?_
    | with_reducible refine Kept.foldl_fst _ _ _ ?_ fun _ _ _ => ?_
    | intro v
    | split
    | with_reducible apply Kept.with_free)

theorem fcMiss_kept {lb : Nat} {may : Part → Prop} {s0 s : State} (k : ℕ) (h : Kept lb may s0 s) (hn : Low lb 0x170004 := by exact ‹Low _ _›.up rfl) (h_psc : may .psc := by assumption) :
    Kept lb may s0 (State.fcMiss s k) := by
  unfold State.fcMiss
  repeat' (first
    | with_reducible assumption
    | exact ‹Low _ _›.up1 rfl
    | exact ‹Low _ _›.of_le (by decide)
    | (extract_lets +onlyGivenNames x; clear_value x)
    | with_reducible apply flagIf_kept
    | with_reducible apply setPscCh_kept)

theorem pscAdvance_kept {lb : Nat} {may : Part → Prop} {s0 s : State} (k : ℕ) (h : Kept lb may s0 s) (hn : Low lb 0x170068 := by exact ‹Low _ _›.up rfl) (h_free : may .free := by assumption) (h_psc : may .psc := by assumption) :
    Kept lb may s0 (State.pscAdvance s k) := by
  unfold State.pscAdvance
  repeat' (first
    | with_reducible assumption
    | exact ‹Low _ _›.of_le (by decide)
    | (extract_lets +onlyGivenNames x; refine (have hx : Kept lb may s0 x := ?_; ?_); rotate_left; clear_value x; rotate_right; subst x)
    | (extract_lets +onlyGivenNames x; clear_value x)
    | with_reducible apply setPscCh_kept
    | with_reducible apply fcPredict_kept)

theorem execChannelStop_kept {lb : Nat} {may : Part → Prop} {s0 s : State} (k : Fin 8) (h : Kept lb may s0 s) (hn : Low lb 0x170004 := by exact ‹Low _ _›.up rfl) (h_timers : may .timers := by assumption) (h_psc : may .psc := by assumption) :
    ∃ out, execChannelStop k s = .next out ∧ Kept lb may s0 out := by
  refine ⟨_, rfl, ?_⟩
  repeat' (first
    | with_reducible assumption
    | with_reducible intro v
    | exact ‹Low _ _›.of_le (by decide)
    | with_reducible apply pscStop_kept
)

theorem pscGiveUp_kept {lb : Nat} {may : Part → Prop} {s0 s : State} (k : ℕ) (cause : ℕ) (h : Kept lb may s0 s) (hn : Low lb 0x7000c := by exact ‹Low _ _›.up rfl) (h_timers : may .timers := by assumption) (h_psc : may .psc := by assumption) (h_stew : may .stew := by assumption) :
    Kept lb may s0 (State.pscGiveUp s k cause) := by
  unfold State.pscGiveUp
  repeat' (first
    | with_reducible assumption
    | exact ‹Low _ _›.of_le (by decide)
    | (extract_lets +onlyGivenNames x; clear_value x)
    | with_reducible apply pscStageFault_kept
    | with_reducible apply setPscCh_kept)

theorem execRdyTimeout_kept {lb : Nat} {may : Part → Prop} {s0 s : State} (k : Fin 8) (h : Kept lb may s0 s) (hn : Low lb 0x7000c := by exact ‹Low _ _›.up rfl) (h_timers : may .timers := by assumption) (h_psc : may .psc := by assumption) (h_stew : may .stew := by assumption) :
    ∃ out, execRdyTimeout k s = .next out ∧ Kept lb may s0 out := by
  refine ⟨_, rfl, ?_⟩
  repeat' (first
    | with_reducible assumption
    | with_reducible intro v
    | exact ‹Low _ _›.of_le (by decide)
    | with_reducible apply pscGiveUp_kept
    | split)

theorem execPrechgTimeout_kept {lb : Nat} {may : Part → Prop} {s0 s : State} (k : Fin 8) (h : Kept lb may s0 s) (hn : Low lb 0x7000c := by exact ‹Low _ _›.up rfl) (h_timers : may .timers := by assumption) (h_psc : may .psc := by assumption) (h_stew : may .stew := by assumption) :
    ∃ out, execPrechgTimeout k s = .next out ∧ Kept lb may s0 out := by
  refine ⟨_, rfl, ?_⟩
  repeat' (first
    | with_reducible assumption
    | with_reducible intro v
    | exact ‹Low _ _›.of_le (by decide)
    | with_reducible apply pscGiveUp_kept
    | split)

theorem execFaultRestart_kept {lb : Nat} {may : Part → Prop} {s0 s : State} (k : Fin 8) (h : Kept lb may s0 s) (hn : Low lb 0x170004 := by exact ‹Low _ _›.up rfl) (h_timers : may .timers := by assumption) (h_psc : may .psc := by assumption) :
    ∃ out, execFaultRestart k s = .next out ∧ Kept lb may s0 out := by
  refine ⟨_, rfl, ?_⟩
  repeat' (first
    | with_reducible assumption
    | with_reducible intro v
    | exact ‹Low _ _›.of_le (by decide)
    | with_reducible apply pscFaultRestart_kept
)

theorem execFcEstimate_kept {lb : Nat} {may : Part → Prop} {s0 s : State} (k : Fin 8) (half : Bool) (h : Kept lb may s0 s) (hn : Low lb 0x7000c := by exact ‹Low _ _›.up rfl) (h_free : may .free := by assumption) (h_timers : may .timers := by assumption) (h_psc : may .psc := by assumption) (h_stew : may .stew := by assumption) :
    ∃ out, execFcEstimate k half s = .next out ∧ Kept lb may s0 out := by
  refine ⟨_, rfl, ?_⟩
  repeat' (first
    | with_reducible assumption
    | with_reducible intro v
    | exact ‹Low _ _›.of_le (by decide)
    | with_reducible apply fcEstimateStep_kept
)

end Sys2Proof.Laws
end

