-- ==== Sys2Proof/Laws/KeptProt.lean ====
section
/-! SUPPORT. Each operation of Machine/Prot.lean keeps the queue, the time and the invariant. -/

set_option Elab.async false

namespace Sys2Proof.Laws

open Sys2Proof.Machine

theorem pscTripOff_kept {lb : Nat} {may : Part → Prop} {s0 s : State} (k : ℕ) (h : Kept lb may s0 s) (hn : Low lb 0x7000c := by exact ‹Low _ _›.up rfl) (h_timers : may .timers := by assumption) (h_psc : may .psc := by assumption) (h_stew : may .stew := by assumption) :
    Kept lb may s0 (State.pscTripOff s k) := by
  unfold State.pscTripOff
  repeat' (first
    | with_reducible assumption
    | exact ‹Low _ _›.up1 rfl
    | exact ‹Low _ _›.of_le (by decide)
    | (extract_lets +onlyGivenNames x; refine (have hx : Kept lb may s0 x := ?_; ?_); rotate_left; clear_value x; rotate_right; subst x)
    | (extract_lets +onlyGivenNames x; clear_value x)
    | with_reducible apply flag_kept
    | with_reducible apply error_kept
    | with_reducible apply set_kept
    | with_reducible apply setPsState_kept
    | with_reducible apply allOff_kept
    | with_reducible apply pscFault_kept
    | with_reducible apply pscLatch_kept
    | with_reducible apply setPscCh_kept
    | split)

theorem dcAbort_kept {lb : Nat} {may : Part → Prop} {s0 s : State} (k : ℕ) (restart : Bool) (h : Kept lb may s0 s) (hn : Low lb 0x170004 := by exact ‹Low _ _›.up rfl) (h_timers : may .timers := by assumption) (h_psc : may .psc := by assumption) :
    Kept lb may s0 (State.dcAbort s k restart) := by
  unfold State.dcAbort
  repeat' (first
    | with_reducible assumption
    | exact ‹Low _ _›.up1 rfl
    | exact ‹Low _ _›.of_le (by decide)
    | (extract_lets +onlyGivenNames x; subst x)
    | with_reducible apply stopTimer_kept
    | with_reducible apply flag_kept
    | with_reducible apply set_kept
    | with_reducible apply allOff_kept
    | with_reducible apply setPscCh_kept
    | with_reducible apply pscLatch_kept
    | with_reducible apply setPsState_kept
    | split)

theorem limitingOver_kept {lb : Nat} {may : Part → Prop} {s0 s : State} (k : ℕ) (h : Kept lb may s0 s) (hn : Low lb 0x170004 := by exact ‹Low _ _›.up rfl) (h_psc : may .psc := by assumption) :
    Kept lb may s0 (State.limitingOver s k) := by
  unfold State.limitingOver
  repeat' (first
    | with_reducible assumption
    | exact ‹Low _ _›.of_le (by decide)
    | (extract_lets +onlyGivenNames x; clear_value x)
    | with_reducible apply pscQuiet_kept
    | with_reducible apply setPsState_kept
    | with_reducible apply setPscCh_kept)

theorem limitingEnd_kept {lb : Nat} {may : Part → Prop} {s0 s : State} (k : ℕ) (h : Kept lb may s0 s) (hn : Low lb 0x170004 := by exact ‹Low _ _›.up rfl) (h_psc : may .psc := by assumption) :
    Kept lb may s0 (State.limitingEnd s k) := by
  unfold State.limitingEnd
  repeat' (first
    | with_reducible assumption
    | exact ‹Low _ _›.of_le (by decide)
    | with_reducible apply limitingOver_kept
    | split)

theorem tripped_kept {lb : Nat} {may : Part → Prop} {s0 s : State} (k : ℕ) (v : Word) (h : Kept lb may s0 s) (hn : Low lb 0x7000c := by exact ‹Low _ _›.up rfl) (h_timers : may .timers := by assumption) (h_psc : may .psc := by assumption) (h_stew : may .stew := by assumption) :
    Kept lb may s0 (State.tripped s k v) := by
  unfold State.tripped
  repeat' (first
    | with_reducible assumption
    | exact ‹Low _ _›.up1 rfl
    | exact ‹Low _ _›.of_le (by decide)
    | (extract_lets +onlyGivenNames x; refine (have hx : Kept lb may s0 x := ?_; ?_); rotate_left; clear_value x; rotate_right; subst x)
    | (extract_lets +onlyGivenNames x; clear_value x)
    | with_reducible apply limitingEnd_kept
    | with_reducible apply flag_kept
    | with_reducible apply setPsState_kept
    | with_reducible apply setPscCh_kept
    | with_reducible apply pscTripOff_kept
    | split)

theorem ilimTrip_kept {lb : Nat} {may : Part → Prop} {s0 s : State} (k : ℕ) (uv : ℕ) (v : Word) (h : Kept lb may s0 s) (hn : Low lb 0x7000c := by exact ‹Low _ _›.up rfl) (h_timers : may .timers := by assumption) (h_psc : may .psc := by assumption) (h_stew : may .stew := by assumption) :
    Kept lb may s0 (State.ilimTrip s k uv v) := by
  unfold State.ilimTrip
  repeat' (first
    | with_reducible assumption
    | exact ‹Low _ _›.of_le (by decide)
    | with_reducible apply dcAbort_kept
    | with_reducible apply tripped_kept
    | split)

theorem rdyLow_kept {lb : Nat} {may : Part → Prop} {s0 s : State} (k : ℕ) (h : Kept lb may s0 s) (hn : Low lb 0x7000c := by exact ‹Low _ _›.up rfl) (h_timers : may .timers := by assumption) (h_psc : may .psc := by assumption) (h_stew : may .stew := by assumption) :
    Kept lb may s0 (State.rdyLow s k) := by
  unfold State.rdyLow
  repeat' (first
    | with_reducible assumption
    | exact ‹Low _ _›.up1 rfl
    | exact ‹Low _ _›.of_le (by decide)
    | (extract_lets +onlyGivenNames x; subst x)
    | with_reducible apply pscTripOff_kept
    | with_reducible apply set_kept
    | with_reducible apply pscStageFault_kept
    | split)

theorem dcFinish_kept {lb : Nat} {may : Part → Prop} {s0 s : State} (k : ℕ) (restart : Bool) (res : ℕ × ℕ) (h : Kept lb may s0 s) (hn : Low lb 0x170004 := by exact ‹Low _ _›.up rfl) (h_timers : may .timers := by assumption) (h_psc : may .psc := by assumption) :
    Kept lb may s0 (State.dcFinish s k restart res) := by
  unfold State.dcFinish
  repeat' (first
    | with_reducible assumption
    | exact ‹Low _ _›.up1 rfl
    | exact ‹Low _ _›.of_le (by decide)
    | (extract_lets +onlyGivenNames x; refine (have hx : Kept lb may s0 x := ?_; ?_); rotate_left; clear_value x; rotate_right; subst x)
    | (extract_lets +onlyGivenNames x; clear_value x)
    | with_reducible apply flagIf_kept
    | with_reducible apply stopTimer_kept
    | with_reducible apply flag_kept
    | with_reducible apply set_kept
    | with_reducible apply allOff_kept
    | with_reducible apply setPscCh_kept
    | with_reducible apply setPsState_kept
    | with_reducible apply pscRestart_kept
    | with_reducible apply pscSwitchOn_kept
    | with_reducible apply pscLatch_kept
    | intro v
    | split)

theorem dcBegin_kept {lb : Nat} {may : Part → Prop} {s0 s : State} (k : ℕ) (restart : Bool) (h : Kept lb may s0 s) (h_timers : may .timers := by assumption) (h_psc : may .psc := by assumption) :
    Kept lb may s0 (State.dcBegin s k restart) := by
  unfold State.dcBegin
  repeat' (first
    | with_reducible assumption
    | (extract_lets +onlyGivenNames x; clear_value x)
    | with_reducible apply startTimer_kept
    | with_reducible apply setPscCh_kept)

theorem dcRaise_kept {lb : Nat} {may : Part → Prop} {s0 s : State} (k : ℕ) (restart : Bool) (h : Kept lb may s0 s) (h_timers : may .timers := by assumption) (h_psc : may .psc := by assumption) :
    Kept lb may s0 (State.dcRaise s k restart) := by
  unfold State.dcRaise
  repeat' (first
    | with_reducible assumption
    | (extract_lets +onlyGivenNames x; clear_value x)
    | with_reducible apply stopTimer_kept
    | with_reducible apply startTimer_kept
    | with_reducible apply setPscCh_kept)

theorem dcRise_kept {lb : Nat} {may : Part → Prop} {s0 s : State} (k : ℕ) (i : Word) (h : Kept lb may s0 s) (h_psc : may .psc := by assumption) :
    Kept lb may s0 (State.dcRise s k i) := by
  unfold State.dcRise
  repeat' (first
    | with_reducible assumption
    | (extract_lets +onlyGivenNames x; clear_value x)
    | with_reducible apply setPscCh_kept
    | split)

theorem dcLower_kept {lb : Nat} {may : Part → Prop} {s0 s : State} (k : ℕ) (h : Kept lb may s0 s) (h_psc : may .psc := by assumption) :
    Kept lb may s0 (State.dcLower s k) := by
  unfold State.dcLower
  repeat' (first
    | with_reducible assumption
    | (extract_lets +onlyGivenNames x; clear_value x)
    | with_reducible apply setPscCh_kept
    | split)

theorem dcLoadTest_kept {lb : Nat} {may : Part → Prop} {s0 s : State} (k : ℕ) (seen : StageSeen) (ua : ℕ) (h : Kept lb may s0 s) (hn : Low lb 0x170004 := by exact ‹Low _ _›.up rfl) (h_timers : may .timers := by assumption) (h_psc : may .psc := by assumption) :
    Kept lb may s0 (State.dcLoadTest s k seen ua) := by
  unfold State.dcLoadTest
  repeat' (first
    | with_reducible assumption
    | exact ‹Low _ _›.up1 rfl
    | exact ‹Low _ _›.of_le (by decide)
    | (extract_lets +onlyGivenNames x; refine (have hx : Kept lb may s0 x := ?_; ?_); rotate_left; clear_value x; rotate_right; subst x)
    | (extract_lets +onlyGivenNames x; subst x; beta_reduce)
    | with_reducible apply setPscCh_kept
    | with_reducible apply set_kept
    | with_reducible apply allOff_kept
    | with_reducible apply dcBegin_kept
    | with_reducible apply startTimer_kept
    | with_reducible apply stopTimer_kept
    | with_reducible apply dcRaise_kept
    | with_reducible apply pscProbe_kept
    | with_reducible apply dcFinish_kept
    | with_reducible apply dcLower_kept
    | intro v
    | split)

theorem dcTestRun_kept {lb : Nat} {may : Part → Prop} {s0 s : State} (k : ℕ) (h : Kept lb may s0 s) (hn : Low lb 0x170004 := by exact ‹Low _ _›.up rfl) (h_timers : may .timers := by assumption) (h_psc : may .psc := by assumption) :
    Kept lb may s0 (State.dcTestRun s k) := by
  unfold State.dcTestRun
  repeat' (first
    | with_reducible assumption
    | exact ‹Low _ _›.up1 rfl
    | exact ‹Low _ _›.of_le (by decide)
    | with_reducible apply dcBegin_kept
    | with_reducible apply set_kept
    | split)

theorem showTvc_kept {lb : Nat} {may : Part → Prop} {s0 s : State} (k : ℕ) (h : Kept lb may s0 s) (hn : Low lb 0x170140 := by exact ‹Low _ _›.up rfl) :
    Kept lb may s0 (State.showTvc s k) := by
  unfold State.showTvc
  repeat' (first
    | with_reducible assumption
    | exact ‹Low _ _›.up1 rfl
    | exact ‹Low _ _›.of_le (by decide)
    | with_reducible apply setInt_kept
)

theorem pilotBegin_kept {lb : Nat} {may : Part → Prop} {s0 s : State} (k : ℕ) (h : Kept lb may s0 s) (h_timers : may .timers := by assumption) (h_psc : may .psc := by assumption) :
    Kept lb may s0 (State.pilotBegin s k) := by
  unfold State.pilotBegin
  repeat' (first
    | with_reducible assumption
    | (extract_lets +onlyGivenNames x; clear_value x)
    | with_reducible apply startTimer_kept
    | with_reducible apply setPscCh_kept)

theorem pilotMs_kept {lb : Nat} {may : Part → Prop} {s0 s : State} (k : ℕ) (h : Kept lb may s0 s) (h_timers : may .timers := by assumption) (h_psc : may .psc := by assumption) :
    Kept lb may s0 (State.pilotMs s k) := by
  unfold State.pilotMs
  repeat' (first
    | with_reducible assumption
    | (extract_lets +onlyGivenNames x; clear_value x)
    | with_reducible apply pilotBegin_kept
    | with_reducible apply setPscCh_kept
    | with_reducible apply stopTimer_kept
    | split)

theorem pilotEnd_kept {lb : Nat} {may : Part → Prop} {s0 s : State} (k : ℕ) (mag : ℕ) (phase : BitVec 16) (re : ℕ) (h : Kept lb may s0 s) (hn : Low lb 0x170114 := by exact ‹Low _ _›.up rfl) (h_timers : may .timers := by assumption) (h_psc : may .psc := by assumption) :
    Kept lb may s0 (State.pilotEnd s k mag phase re) := by
  unfold State.pilotEnd
  repeat' (first
    | with_reducible assumption
    | exact ‹Low _ _›.up1 rfl
    | exact ‹Low _ _›.of_le (by decide)
    | (extract_lets +onlyGivenNames x; refine (have hx : Kept lb may s0 x := ?_; ?_); rotate_left; clear_value x; rotate_right; subst x)
    | (extract_lets +onlyGivenNames x; clear_value x)
    | with_reducible apply pilotBegin_kept
    | with_reducible apply flag_kept
    | with_reducible apply set_kept
    | with_reducible apply showTvc_kept
    | with_reducible apply setPscCh_kept
    | split)

theorem showGain_kept {lb : Nat} {may : Part → Prop} {s0 s : State} (k : ℕ) (h : Kept lb may s0 s) (hn : Low lb 0x170140 := by exact ‹Low _ _›.up rfl) :
    Kept lb may s0 (State.showGain s k) := by
  unfold State.showGain
  repeat' (first
    | with_reducible assumption
    | exact ‹Low _ _›.up1 rfl
    | exact ‹Low _ _›.of_le (by decide)
    | (extract_lets +onlyGivenNames x; subst x)
    | with_reducible apply set_kept)

theorem thermalStop_kept {lb : Nat} {may : Part → Prop} {s0 s : State} (k : ℕ) (h : Kept lb may s0 s) (hn : Low lb 0x170004 := by exact ‹Low _ _›.up rfl) (h_timers : may .timers := by assumption) (h_psc : may .psc := by assumption) :
    Kept lb may s0 (State.thermalStop s k) := by
  unfold State.thermalStop
  repeat' (first
    | with_reducible assumption
    | exact ‹Low _ _›.up1 rfl
    | exact ‹Low _ _›.of_le (by decide)
    | (extract_lets +onlyGivenNames x; subst x)
    | with_reducible apply pscStopBegin_kept
    | with_reducible apply flag_kept
    | split)

theorem showPeak_kept {lb : Nat} {may : Part → Prop} {s0 s : State} (k : ℕ) (h : Kept lb may s0 s) (hn : Low lb 0x170144 := by exact ‹Low _ _›.up rfl) :
    Kept lb may s0 (State.showPeak s k) := by
  unfold State.showPeak
  repeat' (first
    | with_reducible assumption
    | exact ‹Low _ _›.up1 rfl
    | exact ‹Low _ _›.of_le (by decide)
    | with_reducible apply set_kept
)

theorem coilUpdate_kept {lb : Nat} {may : Part → Prop} {s0 s : State} (k : ℕ) (irms : ℕ) (h : Kept lb may s0 s) (hn : Low lb 0x170004 := by exact ‹Low _ _›.up rfl) (h_timers : may .timers := by assumption) (h_psc : may .psc := by assumption) :
    Kept lb may s0 (State.coilUpdate s k irms) := by
  unfold State.coilUpdate
  repeat' (first
    | with_reducible assumption
    | exact ‹Low _ _›.up1 rfl
    | exact ‹Low _ _›.of_le (by decide)
    | (extract_lets +onlyGivenNames x; refine (have hx : Kept lb may s0 x := ?_; ?_); rotate_left; clear_value x; rotate_right; subst x)
    | (extract_lets +onlyGivenNames x; clear_value x)
    | with_reducible apply setPscCh_kept
    | with_reducible apply showPeak_kept
    | with_reducible apply showGain_kept
    | with_reducible apply flagIf_kept
    | with_reducible apply showTvc_kept
    | with_reducible apply thermalStop_kept
    | intro v
    | split)

theorem excursion_kept {lb : Nat} {may : Part → Prop} {s0 s : State} (k : ℕ) (v : Word) (h : Kept lb may s0 s) (hn : Low lb 0x17011c := by exact ‹Low _ _›.up rfl) (h_free : may .free := by assumption) (h_psc : may .psc := by assumption) :
    Kept lb may s0 (State.excursion s k v) := by
  unfold State.excursion
  repeat' (first
    | with_reducible assumption
    | exact ‹Low _ _›.up1 rfl
    | exact ‹Low _ _›.of_le (by decide)
    | (extract_lets +onlyGivenNames x; refine (have hx : Kept lb may s0 x := ?_; ?_); rotate_left; clear_value x; rotate_right; subst x)
    | (extract_lets +onlyGivenNames x; clear_value x)
    | with_reducible apply drawn_kept
    | with_reducible apply showPeak_kept
    | with_reducible apply setPscCh_kept
    | with_reducible apply showGain_kept
    | with_reducible apply flagIf_kept
    | split)

theorem loopSample_kept {lb : Nat} {may : Part → Prop} {s0 s : State} (k : ℕ) (v : Word) (i : Word) (h : Kept lb may s0 s) (hn : Low lb 0x170008 := by exact ‹Low _ _›.up rfl) (h_free : may .free := by assumption) (h_psc : may .psc := by assumption) :
    Kept lb may s0 (State.loopSample s k v i) := by
  unfold State.loopSample
  repeat' (first
    | with_reducible assumption
    | exact ‹Low _ _›.of_le (by decide)
    | (extract_lets +onlyGivenNames x; refine (have hx : Kept lb may s0 x := ?_; ?_); rotate_left; clear_value x; rotate_right; subst x)
    | (extract_lets +onlyGivenNames x; clear_value x)
    | with_reducible apply setPscCh_kept
    | with_reducible apply dcRise_kept
    | with_reducible apply excursion_kept
    | with_reducible apply pscLoop_kept
    | with_reducible apply pscAdvance_kept
    | split)

theorem pscMs_kept {lb : Nat} {may : Part → Prop} {s0 s : State} (h : Kept lb may s0 s) (hn : Low lb 0x170004 := by exact ‹Low _ _›.up rfl) (h_timers : may .timers := by assumption) (h_psc : may .psc := by assumption) :
    Kept lb may s0 (State.pscMs s) := by
  unfold State.pscMs
  repeat' (first
    | with_reducible assumption
    | exact ‹Low _ _›.of_le (by decide)
    | with_reducible apply pscShowRetries_kept
    | with_reducible apply dcLower_kept
    | with_reducible apply pilotMs_kept
    | with_reducible apply pscQuiet_kept
    | with_reducible refine Kept.foldl _ _ _ ?_ fun _ _ _ => ?_)

theorem cabRead_kept {lb : Nat} {may : Part → Prop} {s0 s : State} (rec : Option (List Byte)) (h : Kept lb may s0 s) (hn : Low lb 0x17011c := by exact ‹Low _ _›.up rfl) :
    Kept lb may s0 (State.cabRead s rec) := by
  unfold State.cabRead
  repeat' (first
    | with_reducible assumption
    | exact ‹Low _ _›.up2 rfl
    | exact ‹Low _ _›.up1 rfl
    | exact ‹Low _ _›.of_le (by decide)
    | with_reducible apply setNat_kept
    | with_reducible apply flag_kept
    | with_reducible apply Kept.foldl
    | with_reducible apply Kept.foldl_snd
    | with_reducible apply Kept.foldl_fst
    | intro v
    | split)

theorem execPscRdyLow_kept {lb : Nat} {may : Part → Prop} {s0 s : State} (k : Fin 8) (h : Kept lb may s0 s) (hn : Low lb 0x7000c := by exact ‹Low _ _›.up rfl) (h_timers : may .timers := by assumption) (h_psc : may .psc := by assumption) (h_stew : may .stew := by assumption) :
    ∃ out, execPscRdyLow k s = .next out ∧ Kept lb may s0 out := by
  refine ⟨_, rfl, ?_⟩
  repeat' (first
    | with_reducible assumption
    | with_reducible intro v
    | exact ‹Low _ _›.of_le (by decide)
    | with_reducible apply rdyLow_kept
)

theorem execLoopSample_kept {lb : Nat} {may : Part → Prop} {s0 s : State} (k : Fin 8) (v : Word) (i : Word) (h : Kept lb may s0 s) (hn : Low lb 0x170008 := by exact ‹Low _ _›.up rfl) (h_free : may .free := by assumption) (h_psc : may .psc := by assumption) :
    ∃ out, execLoopSample k v i s = .next out ∧ Kept lb may s0 out := by
  refine ⟨_, rfl, ?_⟩
  repeat' (first
    | with_reducible assumption
    | with_reducible intro v
    | exact ‹Low _ _›.of_le (by decide)
    | with_reducible apply loopSample_kept
)

theorem execIlimTrip_kept {lb : Nat} {may : Part → Prop} {s0 s : State} (k : Fin 8) (uv : ℕ) (v : Word) (h : Kept lb may s0 s) (hn : Low lb 0x7000c := by exact ‹Low _ _›.up rfl) (h_timers : may .timers := by assumption) (h_psc : may .psc := by assumption) (h_stew : may .stew := by assumption) :
    ∃ out, execIlimTrip k uv v s = .next out ∧ Kept lb may s0 out := by
  refine ⟨_, rfl, ?_⟩
  repeat' (first
    | with_reducible assumption
    | with_reducible intro v
    | exact ‹Low _ _›.of_le (by decide)
    | with_reducible apply ilimTrip_kept
)

theorem execLimitingEnd_kept {lb : Nat} {may : Part → Prop} {s0 s : State} (k : Fin 8) (h : Kept lb may s0 s) (hn : Low lb 0x170004 := by exact ‹Low _ _›.up rfl) (h_psc : may .psc := by assumption) :
    ∃ out, execLimitingEnd k s = .next out ∧ Kept lb may s0 out := by
  refine ⟨_, rfl, ?_⟩
  repeat' (first
    | with_reducible assumption
    | with_reducible intro v
    | exact ‹Low _ _›.of_le (by decide)
    | with_reducible apply limitingEnd_kept
)

theorem execDcLoadTest_kept {lb : Nat} {may : Part → Prop} {s0 s : State} (k : Fin 8) (seen : StageSeen) (ua : ℕ) (h : Kept lb may s0 s) (hn : Low lb 0x170004 := by exact ‹Low _ _›.up rfl) (h_timers : may .timers := by assumption) (h_psc : may .psc := by assumption) :
    ∃ out, execDcLoadTest k seen ua s = .next out ∧ Kept lb may s0 out := by
  refine ⟨_, rfl, ?_⟩
  repeat' (first
    | with_reducible assumption
    | with_reducible intro v
    | exact ‹Low _ _›.of_le (by decide)
    | with_reducible apply dcLoadTest_kept
)

theorem execPilotWindowEnd_kept {lb : Nat} {may : Part → Prop} {s0 s : State} (k : Fin 8) (mag : ℕ) (phase : BitVec 16) (re : ℕ) (h : Kept lb may s0 s) (hn : Low lb 0x170114 := by exact ‹Low _ _›.up rfl) (h_timers : may .timers := by assumption) (h_psc : may .psc := by assumption) :
    ∃ out, execPilotWindowEnd k mag phase re s = .next out ∧ Kept lb may s0 out := by
  refine ⟨_, rfl, ?_⟩
  repeat' (first
    | with_reducible assumption
    | with_reducible intro v
    | exact ‹Low _ _›.of_le (by decide)
    | with_reducible apply pilotEnd_kept
)

theorem execCoilTempUpdate_kept {lb : Nat} {may : Part → Prop} {s0 s : State} (k : Fin 8) (irms : ℕ) (h : Kept lb may s0 s) (hn : Low lb 0x170004 := by exact ‹Low _ _›.up rfl) (h_timers : may .timers := by assumption) (h_psc : may .psc := by assumption) :
    ∃ out, execCoilTempUpdate k irms s = .next out ∧ Kept lb may s0 out := by
  refine ⟨_, rfl, ?_⟩
  repeat' (first
    | with_reducible assumption
    | with_reducible intro v
    | exact ‹Low _ _›.of_le (by decide)
    | with_reducible apply coilUpdate_kept
    | split)

end Sys2Proof.Laws
end

