-- ==== Sys2Proof/Laws/KeptService.lean ====
section
/-! SUPPORT. Each operation of Machine/Service.lean keeps the queue, the time and the invariant. -/

set_option Elab.async false

namespace Sys2Proof.Laws

open Sys2Proof.Machine

theorem setMbx_kept {lb : Nat} {may : Part → Prop} {s0 s : State} (m : MbxSt) (h : Kept lb may s0 s) (h_mbx : may .mbx := by assumption) :
    Kept lb may s0 (State.setMbx s m) := by
  unfold State.setMbx
  repeat' (first
    | with_reducible assumption
    | with_reducible apply Kept.with_mbx)

theorem enqueue_kept {lb : Nat} {may : Part → Prop} {s0 s : State} (snd : Sender) (frame : List Byte) (bad : optParam (Option ℕ) none) (h : Kept lb may s0 s) (h_mbx : may .mbx := by assumption) :
    Kept lb may s0 (State.enqueue s snd frame bad) := by
  unfold State.enqueue
  repeat' (first
    | with_reducible assumption
    | (extract_lets +onlyGivenNames x; clear_value x)
    | with_reducible apply setMbx_kept)

theorem complete_kept {lb : Nat} {may : Part → Prop} {s0 s : State} (port : MbxPort) (code : ℕ) (status : ℕ) (payload : List Byte) (h : Kept lb may s0 s) (hn : Low lb 0xa4 := by exact ‹Low _ _›.up rfl) (h_irq : may .irq := by assumption) (h_mbx : may .mbx := by assumption) :
    Kept lb may s0 (State.complete s port code status payload) := by
  unfold State.complete
  repeat' (first
    | with_reducible assumption
    | exact ‹Low _ _›.of_le (by decide)
    | (extract_lets +onlyGivenNames x; subst x)
    | with_reducible apply set_kept
    | with_reducible apply setMbx_kept
    | with_reducible apply pulse_kept)

theorem followParking_kept {lb : Nat} {may : Part → Prop} {s0 s : State} (h : Kept lb may s0 s) (hn : Low lb 0x15010c := by exact ‹Low _ _›.up rfl) (h_timers : may .timers := by assumption) (h_aout : may .aout := by assumption) (h_hp : may .hp := by assumption) (h_psc : may .psc := by assumption) :
    Kept lb may s0 (State.followParking s) := by
  unfold State.followParking
  repeat' (first
    | with_reducible assumption
    | exact ‹Low _ _›.of_le (by decide)
    | with_reducible apply pscPark_kept
    | with_reducible apply hpFollowAll_kept
    | with_reducible apply aoRetargetAll_kept
)

theorem safeParkBasin_kept {lb : Nat} {may : Part → Prop} {s0 s : State} (drop : Bool) (b : ℕ) (h : Kept lb may s0 s) (hn : Low lb 0x100004 := by exact ‹Low _ _›.up rfl) (h_fab : may .fab := by assumption) :
    Kept lb may s0 (State.safeParkBasin drop s b) := by
  unfold State.safeParkBasin
  repeat' (first
    | with_reducible assumption
    | exact ‹Low _ _›.up1 rfl
    | exact ‹Low _ _›.of_le (by decide)
    | (extract_lets +onlyGivenNames x; refine (have hx : Kept lb may s0 x := ?_; ?_); rotate_left; clear_value x; rotate_right; subst x)
    | (extract_lets +onlyGivenNames x; clear_value x)
    | with_reducible apply setBasin_kept
    | with_reducible apply set_kept
    | with_reducible apply setBasinState_kept
    | split)

theorem safePark_kept {lb : Nat} {may : Part → Prop} {s0 s : State} (drop : Bool) (h : Kept lb may s0 s) (hn : Low lb 0x100004 := by exact ‹Low _ _›.up rfl) (h_fab : may .fab := by assumption) :
    Kept lb may s0 (State.safePark s drop) := by
  unfold State.safePark
  repeat' (first
    | with_reducible assumption
    | exact ‹Low _ _›.of_le (by decide)
    | with_reducible apply safeParkBasin_kept
    | with_reducible refine Kept.foldl _ _ _ ?_ fun _ _ _ => ?_)

theorem safeUnpark_kept {lb : Nat} {may : Part → Prop} {s0 s : State} (h : Kept lb may s0 s) (hn : Low lb 0x100004 := by exact ‹Low _ _›.up rfl) :
    Kept lb may s0 (State.safeUnpark s) := by
  unfold State.safeUnpark
  repeat' (first
    | with_reducible assumption
    | exact ‹Low _ _›.of_le (by decide)
    | with_reducible apply setBasinState_kept
    | with_reducible refine Kept.foldl _ _ _ ?_ fun _ _ _ => ?_
    | with_reducible refine Kept.foldl_snd _ _ _ ?_ fun _ _ _ => ?_
    | with_reducible refine Kept.foldl_fst _ _ _ ?_ fun _ _ _ => ?_
    | intro v
    | split)

theorem setSvc_kept {lb : Nat} {may : Part → Prop} {s0 s : State} (v : ℕ) (h : Kept lb may s0 s) (hn : Low lb 0xa0 := by exact ‹Low _ _›.up rfl) :
    Kept lb may s0 (State.setSvc s v) := by
  unfold State.setSvc
  repeat' (first
    | with_reducible assumption
    | exact ‹Low _ _›.of_le (by decide)
    | with_reducible apply set_kept
)

theorem enterSafe_kept {lb : Nat} {may : Part → Prop} {s0 s : State} (cause : ℕ) (h : Kept lb may s0 s) (hn : Low lb 0xa0 := by exact ‹Low _ _›.up rfl) (h_timers : may .timers := by assumption) (h_fab : may .fab := by assumption) (h_irq : may .irq := by assumption) (h_aout : may .aout := by assumption) (h_hp : may .hp := by assumption) (h_psc : may .psc := by assumption) (h_mbx : may .mbx := by assumption) :
    Kept lb may s0 (State.enterSafe s cause) := by
  unfold State.enterSafe
  repeat' (first
    | with_reducible assumption
    | exact ‹Low _ _›.of_le (by decide)
    | (extract_lets +onlyGivenNames x; refine (have hx : Kept lb may s0 x := ?_; ?_); rotate_left; clear_value x; rotate_right; subst x)
    | (extract_lets +onlyGivenNames x; clear_value x)
    | with_reducible apply set_kept
    | with_reducible apply safePark_kept
    | with_reducible apply setMbx_kept
    | with_reducible apply pulse_kept
    | with_reducible apply followParking_kept
    | with_reducible apply setSvc_kept
    | with_reducible apply count_kept
    | with_reducible apply complete_kept
    | split)

theorem classified_kept {lb : Nat} {may : Part → Prop} {s0 s : State} (cls : ℕ) (unit : ℕ) (outcome : ℕ) (tick : TickNo) (status : Word) (meas : Word) (h : Kept lb may s0 s) (hn : Low lb 0xa0 := by exact ‹Low _ _›.up rfl) (h_timers : may .timers := by assumption) (h_fab : may .fab := by assumption) (h_irq : may .irq := by assumption) (h_aout : may .aout := by assumption) (h_hp : may .hp := by assumption) (h_psc : may .psc := by assumption) (h_stew : may .stew := by assumption) (h_mbx : may .mbx := by assumption) :
    Kept lb may s0 (State.classified s cls unit outcome tick status meas) := by
  unfold State.classified
  repeat' (first
    | with_reducible assumption
    | exact ‹Low _ _›.of_le (by decide)
    | (extract_lets +onlyGivenNames x; subst x)
    | with_reducible apply setWord_kept
    | with_reducible apply set_kept
    | with_reducible apply errorRecord_kept
    | with_reducible apply flag_kept
    | with_reducible apply setBitAt_kept
    | with_reducible apply enterSafe_kept
    | split)

theorem errorNow_kept {lb : Nat} {may : Part → Prop} {s0 s : State} (cls : ℕ) (unit : ℕ) (meas : Word) (h : Kept lb may s0 s) (hn : Low lb 0xa0 := by exact ‹Low _ _›.up rfl) (h_timers : may .timers := by assumption) (h_fab : may .fab := by assumption) (h_irq : may .irq := by assumption) (h_aout : may .aout := by assumption) (h_hp : may .hp := by assumption) (h_psc : may .psc := by assumption) (h_stew : may .stew := by assumption) (h_mbx : may .mbx := by assumption) :
    Kept lb may s0 (State.errorNow s cls unit meas) := by
  unfold State.errorNow
  repeat' (first
    | with_reducible assumption
    | exact ‹Low _ _›.of_le (by decide)
    | with_reducible apply classified_kept
    | with_reducible apply errorSeen_kept
)

theorem liveWeir_kept {lb : Nat} {may : Part → Prop} {s0 s : State} (h : Kept lb may s0 s) (hn : Low lb 0xa0 := by exact ‹Low _ _›.up rfl) (h_timers : may .timers := by assumption) (h_aout : may .aout := by assumption) (h_hp : may .hp := by assumption) (h_psc : may .psc := by assumption) (h_mbx : may .mbx := by assumption) :
    Kept lb may s0 (State.liveWeir s) := by
  unfold State.liveWeir
  repeat' (first
    | with_reducible assumption
    | exact ‹Low _ _›.of_le (by decide)
    | (extract_lets +onlyGivenNames x; clear_value x)
    | with_reducible apply followParking_kept
    | with_reducible apply safeUnpark_kept
    | with_reducible apply setSvc_kept
    | with_reducible apply setMbx_kept
    | split)

theorem liveSettle_kept {lb : Nat} {may : Part → Prop} {s0 s : State} (h : Kept lb may s0 s) (hn : Low lb 0xa4 := by exact ‹Low _ _›.up rfl) (h_irq : may .irq := by assumption) (h_mbx : may .mbx := by assumption) :
    Kept lb may s0 (State.liveSettle s) := by
  unfold State.liveSettle
  repeat' (first
    | with_reducible assumption
    | exact ‹Low _ _›.of_le (by decide)
    | (extract_lets +onlyGivenNames x; subst x)
    | with_reducible apply complete_kept
    | with_reducible apply setMbx_kept
    | split)

theorem imageApplied_kept {lb : Nat} {may : Part → Prop} {s0 s : State} (autolive : Bool) (h : Kept lb may s0 s) (hn : Low lb 0xa0 := by exact ‹Low _ _›.up rfl) (h_timers : may .timers := by assumption) (h_irq : may .irq := by assumption) (h_aout : may .aout := by assumption) (h_hp : may .hp := by assumption) (h_psc : may .psc := by assumption) (h_mbx : may .mbx := by assumption) :
    Kept lb may s0 (State.imageApplied s autolive) := by
  unfold State.imageApplied
  repeat' (first
    | with_reducible assumption
    | exact ‹Low _ _›.of_le (by decide)
    | (extract_lets +onlyGivenNames x; subst x)
    | with_reducible apply setMbx_kept
    | with_reducible apply setSvc_kept
    | with_reducible apply pulse_kept
    | with_reducible apply followParking_kept
    | with_reducible apply count_kept
    | split)

theorem enterBare_kept {lb : Nat} {may : Part → Prop} {s0 s : State} (h : Kept lb may s0 s) (hn : Low lb 0xa0 := by exact ‹Low _ _›.up rfl) (h_timers : may .timers := by assumption) (h_aout : may .aout := by assumption) (h_hp : may .hp := by assumption) (h_psc : may .psc := by assumption) :
    Kept lb may s0 (State.enterBare s) := by
  unfold State.enterBare
  repeat' (first
    | with_reducible assumption
    | exact ‹Low _ _›.of_le (by decide)
    | with_reducible apply followParking_kept
    | with_reducible apply setSvc_kept
)

theorem convCalPart_kept {lb : Nat} {may : Part → Prop} {s0 s : State} (aout : Bool) (h : Kept lb may s0 s) (hn : Low lb 0xa4 := by exact ‹Low _ _›.up rfl) (h_irq : may .irq := by assumption) (h_mbx : may .mbx := by assumption) :
    Kept lb may s0 (State.convCalPart s aout) := by
  unfold State.convCalPart
  repeat' (first
    | with_reducible assumption
    | exact ‹Low _ _›.of_le (by decide)
    | (extract_lets +onlyGivenNames x; subst x)
    | with_reducible apply setMbx_kept
    | with_reducible apply complete_kept
    | split)

theorem execCalDone_kept {lb : Nat} {may : Part → Prop} {s0 s : State} (aout : Bool) (fail : BitVec 16) (h : Kept lb may s0 s) (hn : Low lb 0xa4 := by exact ‹Low _ _›.up rfl) (h_irq : may .irq := by assumption) (h_ain : may .ain := by assumption) (h_aout : may .aout := by assumption) (h_mbx : may .mbx := by assumption) :
    ∃ out, execCalDone aout fail s = .next out ∧ Kept lb may s0 out := by
  refine ⟨_, rfl, ?_⟩
  repeat' (first
    | with_reducible assumption
    | with_reducible intro v
    | exact ‹Low _ _›.of_le (by decide)
    | with_reducible apply convCalPart_kept
    | with_reducible apply aoCalDone_kept
    | with_reducible apply aiCalDone_kept
    | split)

end Sys2Proof.Laws
end

