-- ==== Sys2Proof/Laws/KeptClocks.lean ====
section
/-! SUPPORT. Each operation of Machine/Clocks.lean keeps the queue, the time and the invariant. -/

set_option Elab.async false

namespace Sys2Proof.Laws

open Sys2Proof.Machine

theorem setClk_kept {lb : Nat} {may : Part → Prop} {s0 s : State} (c : ClkSt) (h : Kept lb may s0 s) (h_clk : may .clk := by assumption) :
    Kept lb may s0 (State.setClk s c) := by
  unfold State.setClk
  repeat' (first
    | with_reducible assumption
    | with_reducible apply Kept.with_clk)

theorem setPll_kept {lb : Nat} {may : Part → Prop} {s0 s : State} (p : ℕ) (q : PllSt) (h : Kept lb may s0 s) (h_clk : may .clk := by assumption) :
    Kept lb may s0 (State.setPll s p q) := by
  unfold State.setPll
  repeat' (first
    | with_reducible assumption
    | (extract_lets +onlyGivenNames x; subst x)
    | with_reducible apply setClk_kept)

theorem writeShadow_kept {lb : Nat} {may : Part → Prop} {s0 s : State} (p : ℕ) (d : PllSetting) (h : Kept lb may s0 s) (hn : Low lb 0x10104 := by exact ‹Low _ _›.up rfl) :
    Kept lb may s0 (State.writeShadow s p d) := by
  unfold State.writeShadow
  repeat' (first
    | with_reducible assumption
    | exact ‹Low _ _›.up1 rfl
    | exact ‹Low _ _›.of_le (by decide)
    | with_reducible apply set_kept
)

theorem showCache_kept {lb : Nat} {may : Part → Prop} {s0 s : State} (p : ℕ) (h : Kept lb may s0 s) (hn : Low lb 0x10118 := by exact ‹Low _ _›.up rfl) :
    Kept lb may s0 (State.showCache s p) := by
  unfold State.showCache
  repeat' (first
    | with_reducible assumption
    | exact ‹Low _ _›.up1 rfl
    | exact ‹Low _ _›.of_le (by decide)
    | with_reducible apply set_kept)

theorem bypass_kept {lb : Nat} {may : Part → Prop} {s0 s : State} (p : ℕ) (on : Bool) (h : Kept lb may s0 s) (hn : Low lb 0x10114 := by exact ‹Low _ _›.up rfl) :
    Kept lb may s0 (State.bypass s p on) := by
  unfold State.bypass
  repeat' (first
    | with_reducible assumption
    | exact ‹Low _ _›.up1 rfl
    | exact ‹Low _ _›.of_le (by decide)
    | (extract_lets +onlyGivenNames x; refine (have hx : Kept lb may s0 x := ?_; ?_); rotate_left; clear_value x; rotate_right; subst x)
    | (extract_lets +onlyGivenNames x; clear_value x)
    | with_reducible apply set_kept
    | split)

theorem pllLoad_kept {lb : Nat} {may : Part → Prop} {s0 s : State} (p : ℕ) (d : PllSetting) (h : Kept lb may s0 s) (hn : Low lb 0x10000 := by exact ‹Low _ _›.up rfl) (h_clk : may .clk := by assumption) :
    Kept lb may s0 (State.pllLoad s p d) := by
  unfold State.pllLoad
  repeat' (first
    | with_reducible assumption
    | exact ‹Low _ _›.up1 rfl
    | exact ‹Low _ _›.of_le (by decide)
    | (extract_lets +onlyGivenNames x; refine (have hx : Kept lb may s0 x := ?_; ?_); rotate_left; clear_value x; rotate_right; subst x)
    | (extract_lets +onlyGivenNames x; clear_value x)
    | with_reducible apply setClk_kept
    | with_reducible apply bypass_kept
    | with_reducible apply set_kept
    | with_reducible apply setBitAt_kept
    | with_reducible apply setPll_kept
    | intro v
    | split)

theorem pllStart_kept {lb : Nat} {may : Part → Prop} {s0 s : State} (p : ℕ) (h : Kept lb may s0 s) (hn : Low lb 0x10114 := by exact ‹Low _ _›.up rfl) (h_clk : may .clk := by assumption) :
    Kept lb may s0 (State.pllStart s p) := by
  unfold State.pllStart
  repeat' (first
    | with_reducible assumption
    | exact ‹Low _ _›.of_le (by decide)
    | (extract_lets +onlyGivenNames x; subst x)
    | with_reducible apply bypass_kept
    | with_reducible apply setPll_kept)

theorem pllLock_kept {lb : Nat} {may : Part → Prop} {s0 s : State} (p : ℕ) (found : BandFound) (h : Kept lb may s0 s) (hn : Low lb 0x10000 := by exact ‹Low _ _›.up rfl) (h_tick : may .tick := by assumption) (h_clk : may .clk := by assumption) :
    Kept lb may s0 (State.pllLock s p found) := by
  unfold State.pllLock
  repeat' (first
    | with_reducible assumption
    | exact ‹Low _ _›.up1 rfl
    | exact ‹Low _ _›.of_le (by decide)
    | (extract_lets +onlyGivenNames x; refine (have hx : Kept lb may s0 x := ?_; ?_); rotate_left; clear_value x; rotate_right; subst x)
    | (extract_lets +onlyGivenNames x; clear_value x)
    | with_reducible apply set_kept
    | with_reducible apply setPll_kept
    | with_reducible apply setClk_kept
    | with_reducible apply showCache_kept
    | with_reducible apply bypass_kept
    | with_reducible apply setBitAt_kept
    | intro v
    | split
    | with_reducible apply Kept.with_tick)

theorem pllLose_kept {lb : Nat} {may : Part → Prop} {s0 s : State} (p : ℕ) (h : Kept lb may s0 s) (hn : Low lb 0x10000 := by exact ‹Low _ _›.up rfl) (h_clk : may .clk := by assumption) :
    Kept lb may s0 (State.pllLose s p) := by
  unfold State.pllLose
  repeat' (first
    | with_reducible assumption
    | exact ‹Low _ _›.of_le (by decide)
    | (extract_lets +onlyGivenNames x; refine (have hx : Kept lb may s0 x := ?_; ?_); rotate_left; clear_value x; rotate_right; subst x)
    | (extract_lets +onlyGivenNames x; clear_value x)
    | with_reducible apply setClk_kept
    | with_reducible apply bypass_kept
    | with_reducible apply setPll_kept
    | with_reducible apply setBitAt_kept
    | with_reducible apply flag_kept
    | split)

theorem cacheFlush_kept {lb : Nat} {may : Part → Prop} {s0 s : State} (p : ℕ) (h : Kept lb may s0 s) (hn : Low lb 0x10118 := by exact ‹Low _ _›.up rfl) (h_clk : may .clk := by assumption) :
    Kept lb may s0 (State.cacheFlush s p) := by
  unfold State.cacheFlush
  repeat' (first
    | with_reducible assumption
    | exact ‹Low _ _›.of_le (by decide)
    | (extract_lets +onlyGivenNames x; subst x)
    | with_reducible apply showCache_kept
    | with_reducible apply setPll_kept)

theorem commitPllA_kept {lb : Nat} {may : Part → Prop} {s0 s : State} (h : Kept lb may s0 s) (hn : Low lb 0x10004 := by exact ‹Low _ _›.up rfl) (h_clk : may .clk := by assumption) :
    Kept lb may s0 (State.commitPllA s) := by
  unfold State.commitPllA
  repeat' (first
    | with_reducible assumption
    | exact ‹Low _ _›.of_le (by decide)
    | (extract_lets +onlyGivenNames x; refine (have hx : Kept lb may s0 x := ?_; ?_); rotate_left; clear_value x; rotate_right; subst x)
    | (extract_lets +onlyGivenNames x; clear_value x)
    | with_reducible apply setClk_kept
    | with_reducible apply flag_kept
    | with_reducible apply setPll_kept
    | split)

theorem decisionDue_kept {lb : Nat} {may : Part → Prop} {s0 s : State} (afterLoss : Bool) (h : Kept lb may s0 s) (h_clk : may .clk := by assumption) :
    Kept lb may s0 (State.decisionDue s afterLoss) := by
  unfold State.decisionDue
  repeat' (first
    | with_reducible assumption
    | (extract_lets +onlyGivenNames x; subst x)
    | with_reducible apply setClk_kept)

theorem refEnter_kept {lb : Nat} {may : Part → Prop} {s0 s : State} (st : ℕ) (c : ℕ) (h : Kept lb may s0 s) (hn : Low lb 0x10004 := by exact ‹Low _ _›.up rfl) :
    Kept lb may s0 (State.refEnter s st c) := by
  unfold State.refEnter
  repeat' (first
    | with_reducible assumption
    | exact ‹Low _ _›.of_le (by decide)
    | with_reducible apply flag_kept
    | with_reducible apply set_kept
)

theorem dropSource_kept {lb : Nat} {may : Part → Prop} {s0 s : State} (c : ℕ) (h : Kept lb may s0 s) (hn : Low lb 0x10208 := by exact ‹Low _ _›.up rfl) (h_timers : may .timers := by assumption) :
    Kept lb may s0 (State.dropSource s c) := by
  unfold State.dropSource
  repeat' (first
    | with_reducible assumption
    | exact ‹Low _ _›.of_le (by decide)
    | with_reducible apply stopTimer_kept
    | with_reducible apply setBitAt_kept
)

theorem sourceGood_kept {lb : Nat} {may : Part → Prop} {s0 s : State} (c : ℕ) (rate : ℕ) (h : Kept lb may s0 s) (hn : Low lb 0x10208 := by exact ‹Low _ _›.up rfl) (h_timers : may .timers := by assumption) (h_clk : may .clk := by assumption) :
    Kept lb may s0 (State.sourceGood s c rate) := by
  unfold State.sourceGood
  repeat' (first
    | with_reducible assumption
    | exact ‹Low _ _›.of_le (by decide)
    | (extract_lets +onlyGivenNames x; refine (have hx : Kept lb may s0 x := ?_; ?_); rotate_left; clear_value x; rotate_right; subst x)
    | with_reducible apply startTimer_kept
    | with_reducible apply setBitAt_kept
    | with_reducible apply decisionDue_kept
    | with_reducible apply dropSource_kept
    | split)

theorem sourceQualified_kept {lb : Nat} {may : Part → Prop} {s0 s : State} (c : ℕ) (n : ℕ) (bad : ℕ) (adv : ℕ) (h : Kept lb may s0 s) (hn : Low lb 0x10004 := by exact ‹Low _ _›.up rfl) (h_timers : may .timers := by assumption) (h_clk : may .clk := by assumption) :
    Kept lb may s0 (State.sourceQualified s c n bad adv) := by
  unfold State.sourceQualified
  repeat' (first
    | with_reducible assumption
    | exact ‹Low _ _›.of_le (by decide)
    | (extract_lets +onlyGivenNames x; refine (have hx : Kept lb may s0 x := ?_; ?_); rotate_left; clear_value x; rotate_right; subst x)
    | (extract_lets +onlyGivenNames x; clear_value x)
    | with_reducible apply set_kept
    | with_reducible apply setClk_kept
    | with_reducible apply flagIf_kept
    | with_reducible apply dropSource_kept
    | with_reducible apply sourceGood_kept
    | intro v
    | split)

theorem sourceLoss_kept {lb : Nat} {may : Part → Prop} {s0 s : State} (trim : Word) (h : Kept lb may s0 s) (hn : Low lb 0x10004 := by exact ‹Low _ _›.up rfl) (h_timers : may .timers := by assumption) (h_clk : may .clk := by assumption) :
    Kept lb may s0 (State.sourceLoss s trim) := by
  unfold State.sourceLoss
  repeat' (first
    | with_reducible assumption
    | exact ‹Low _ _›.of_le (by decide)
    | (extract_lets +onlyGivenNames x; clear_value x)
    | with_reducible apply dropSource_kept
    | with_reducible apply setClk_kept
    | with_reducible apply decisionDue_kept
    | with_reducible apply startTimer_kept
    | with_reducible apply refEnter_kept
    | with_reducible apply set_kept
    | split)

theorem acquireTrim_kept {lb : Nat} {may : Part → Prop} {s0 s : State} (h : Kept lb may s0 s) (hn : Low lb 0x1020c := by exact ‹Low _ _›.up rfl) (h_free : may .free := by assumption) :
    Kept lb may s0 (State.acquireTrim s) := by
  unfold State.acquireTrim
  repeat' (first
    | with_reducible assumption
    | exact ‹Low _ _›.of_le (by decide)
    | (extract_lets +onlyGivenNames x; clear_value x)
    | with_reducible apply setInt_kept
    | with_reducible apply drawn_kept)

theorem acquire_kept {lb : Nat} {may : Part → Prop} {s0 s : State} (c : ℕ) (h : Kept lb may s0 s) (hn : Low lb 0x10004 := by exact ‹Low _ _›.up rfl) (h_free : may .free := by assumption) (h_timers : may .timers := by assumption) (h_clk : may .clk := by assumption) :
    Kept lb may s0 (State.acquire s c) := by
  unfold State.acquire
  repeat' (first
    | with_reducible assumption
    | exact ‹Low _ _›.of_le (by decide)
    | (extract_lets +onlyGivenNames x; refine (have hx : Kept lb may s0 x := ?_; ?_); rotate_left; clear_value x; rotate_right; subst x)
    | (extract_lets +onlyGivenNames x; clear_value x)
    | with_reducible apply setClk_kept
    | with_reducible apply stopTimer_kept
    | with_reducible apply refEnter_kept
    | with_reducible apply acquireTrim_kept)

theorem goFree_kept {lb : Nat} {may : Part → Prop} {s0 s : State} (h : Kept lb may s0 s) (hn : Low lb 0x10004 := by exact ‹Low _ _›.up rfl) (h_timers : may .timers := by assumption) :
    Kept lb may s0 (State.goFree s) := by
  unfold State.goFree
  repeat' (first
    | with_reducible assumption
    | exact ‹Low _ _›.of_le (by decide)
    | with_reducible apply stopTimer_kept
    | with_reducible apply refEnter_kept
)

theorem refLock_kept {lb : Nat} {may : Part → Prop} {s0 s : State} (trim : Word) (h : Kept lb may s0 s) (hn : Low lb 0x10208 := by exact ‹Low _ _›.up rfl) :
    Kept lb may s0 (State.refLock s trim) := by
  unfold State.refLock
  repeat' (first
    | with_reducible assumption
    | exact ‹Low _ _›.of_le (by decide)
    | with_reducible apply set_kept
    | split)

theorem hopBegin_kept {lb : Nat} {may : Part → Prop} {s0 s : State} (c : ℕ) (rate : ℕ) (h : Kept lb may s0 s) (hn : Low lb 0x10208 := by exact ‹Low _ _›.up rfl) (h_timers : may .timers := by assumption) (h_clk : may .clk := by assumption) :
    Kept lb may s0 (State.hopBegin s c rate) := by
  unfold State.hopBegin
  repeat' (first
    | with_reducible assumption
    | exact ‹Low _ _›.of_le (by decide)
    | (extract_lets +onlyGivenNames x; clear_value x)
    | with_reducible apply startTimer_kept
    | with_reducible apply setClk_kept
    | with_reducible apply set_kept)

theorem followBegin_kept {lb : Nat} {may : Part → Prop} {s0 s : State} (c : ℕ) (rate : ℕ) (h : Kept lb may s0 s) (h_timers : may .timers := by assumption) (h_clk : may .clk := by assumption) :
    Kept lb may s0 (State.followBegin s c rate) := by
  unfold State.followBegin
  repeat' (first
    | with_reducible assumption
    | (extract_lets +onlyGivenNames x; subst x)
    | with_reducible apply startTimer_kept
    | with_reducible apply setClk_kept)

theorem moveTo_kept {lb : Nat} {may : Part → Prop} {s0 s : State} (c : ℕ) (cancel : State → State) (hcancel : ∀  u, Kept lb may s0 u → Kept lb may s0 (cancel  u)) (h : Kept lb may s0 s) (hn : Low lb 0x10004 := by exact ‹Low _ _›.up rfl) (h_free : may .free := by assumption) (h_timers : may .timers := by assumption) (h_clk : may .clk := by assumption) :
    Kept lb may s0 (State.moveTo s c cancel) := by
  unfold State.moveTo
  repeat' (first
    | with_reducible assumption
    | exact ‹Low _ _›.of_le (by decide)
    | (extract_lets +onlyGivenNames x; refine (have hx : Kept lb may s0 x := ?_; ?_); rotate_left; clear_value x; rotate_right; subst x)
    | (extract_lets +onlyGivenNames x; clear_value x)
    | with_reducible apply goFree_kept
    | with_reducible apply hopBegin_kept
    | with_reducible apply acquire_kept
    | with_reducible apply followBegin_kept
    | with_reducible apply hcancel
    | split)

theorem requalify_kept {lb : Nat} {may : Part → Prop} {s0 s : State} (h : Kept lb may s0 s) (hn : Low lb 0x10004 := by exact ‹Low _ _›.up rfl) (h_timers : may .timers := by assumption) (h_clk : may .clk := by assumption) :
    Kept lb may s0 (State.requalify s) := by
  unfold State.requalify
  repeat' (first
    | with_reducible assumption
    | exact ‹Low _ _›.of_le (by decide)
    | with_reducible apply sourceLoss_kept
    | with_reducible apply dropSource_kept
    | with_reducible refine Kept.foldl _ _ _ ?_ fun _ _ _ => ?_
    | with_reducible refine Kept.foldl_snd _ _ _ ?_ fun _ _ _ => ?_
    | with_reducible refine Kept.foldl_fst _ _ _ ?_ fun _ _ _ => ?_
    | intro v
    | split)

theorem decideSource_kept {lb : Nat} {may : Part → Prop} {s0 s : State} (cancel : State → State) (hcancel : ∀  u, Kept lb may s0 u → Kept lb may s0 (cancel  u)) (h : Kept lb may s0 s) (hn : Low lb 0x10004 := by exact ‹Low _ _›.up rfl) (h_free : may .free := by assumption) (h_timers : may .timers := by assumption) (h_clk : may .clk := by assumption) :
    Kept lb may s0 (State.decideSource s cancel) := by
  unfold State.decideSource
  repeat' (first
    | with_reducible assumption
    | exact ‹Low _ _›.of_le (by decide)
    | (extract_lets +onlyGivenNames x; subst x)
    | with_reducible apply setClk_kept
    | with_reducible apply moveTo_kept
    | with_reducible apply startTimer_kept
    | with_reducible apply refEnter_kept
    | with_reducible apply hcancel
    | intro v
    | split)

theorem holdLimit_kept {lb : Nat} {may : Part → Prop} {s0 s : State} (cancel : State → State) (hcancel : ∀  u, Kept lb may s0 u → Kept lb may s0 (cancel  u)) (h : Kept lb may s0 s) (hn : Low lb 0x10004 := by exact ‹Low _ _›.up rfl) (h_free : may .free := by assumption) (h_timers : may .timers := by assumption) (h_clk : may .clk := by assumption) :
    Kept lb may s0 (State.holdLimit s cancel) := by
  unfold State.holdLimit
  repeat' (first
    | with_reducible assumption
    | exact ‹Low _ _›.of_le (by decide)
    | (extract_lets +onlyGivenNames x; subst x)
    | with_reducible apply moveTo_kept
    | with_reducible apply flag_kept
    | with_reducible apply hcancel
    | split)

theorem revert_kept {lb : Nat} {may : Part → Prop} {s0 s : State} (c : ℕ) (cancel : State → State) (hcancel : ∀  u, Kept lb may s0 u → Kept lb may s0 (cancel  u)) (h : Kept lb may s0 s) (hn : Low lb 0x10004 := by exact ‹Low _ _›.up rfl) (h_free : may .free := by assumption) (h_timers : may .timers := by assumption) (h_clk : may .clk := by assumption) :
    Kept lb may s0 (State.revert s c cancel) := by
  unfold State.revert
  repeat' (first
    | with_reducible assumption
    | exact ‹Low _ _›.of_le (by decide)
    | (extract_lets +onlyGivenNames x; clear_value x)
    | with_reducible apply decideSource_kept
    | with_reducible apply decisionDue_kept
    | with_reducible apply hcancel
    | split)

theorem clkMs_kept {lb : Nat} {may : Part → Prop} {s0 s : State} (h : Kept lb may s0 s) (hn : Low lb 0x1020c := by exact ‹Low _ _›.up rfl) (h_free : may .free := by assumption) (h_clk : may .clk := by assumption) :
    Kept lb may s0 (State.clkMs s) := by
  unfold State.clkMs
  repeat' (first
    | with_reducible assumption
    | exact ‹Low _ _›.of_le (by decide)
    | (extract_lets +onlyGivenNames x; refine (have hx : Kept lb may s0 x := ?_; ?_); rotate_left; clear_value x; rotate_right; subst x)
    | (extract_lets +onlyGivenNames x; clear_value x)
    | with_reducible apply setClk_kept
    | with_reducible apply setInt_kept
    | with_reducible apply acquireTrim_kept
    | split)

theorem refRestart_kept {lb : Nat} {may : Part → Prop} {s0 s : State} (h : Kept lb may s0 s) (hn : Low lb 0x10004 := by exact ‹Low _ _›.up rfl) (h_clk : may .clk := by assumption) :
    Kept lb may s0 (State.refRestart s) := by
  unfold State.refRestart
  repeat' (first
    | with_reducible assumption
    | exact ‹Low _ _›.of_le (by decide)
    | with_reducible apply decisionDue_kept
    | with_reducible apply setBitAt_kept
    | with_reducible apply set_kept
    | with_reducible apply refEnter_kept
    | split)

theorem pllBegin_kept {lb : Nat} {may : Part → Prop} {s0 s : State} (p : ℕ) (h : Kept lb may s0 s) (hn : Low lb 0x10000 := by exact ‹Low _ _›.up rfl) (h_clk : may .clk := by assumption) :
    Kept lb may s0 (State.pllBegin s p) := by
  unfold State.pllBegin
  repeat' (first
    | with_reducible assumption
    | exact ‹Low _ _›.of_le (by decide)
    | with_reducible apply pllLoad_kept
    | split)

theorem pllOff_kept {lb : Nat} {may : Part → Prop} {s0 s : State} (p : ℕ) (h : Kept lb may s0 s) (hn : Low lb 0x10000 := by exact ‹Low _ _›.up rfl) (h_clk : may .clk := by assumption) :
    Kept lb may s0 (State.pllOff s p) := by
  unfold State.pllOff
  repeat' (first
    | with_reducible assumption
    | exact ‹Low _ _›.up1 rfl
    | exact ‹Low _ _›.of_le (by decide)
    | with_reducible apply showCache_kept
    | with_reducible apply set_kept
    | with_reducible apply setBitAt_kept
    | with_reducible apply setPll_kept
)

theorem pllOn_kept {lb : Nat} {may : Part → Prop} {s0 s : State} (p : ℕ) (h : Kept lb may s0 s) (hn : Low lb 0x10000 := by exact ‹Low _ _›.up rfl) (h_clk : may .clk := by assumption) :
    Kept lb may s0 (State.pllOn s p) := by
  unfold State.pllOn
  repeat' (first
    | with_reducible assumption
    | exact ‹Low _ _›.up1 rfl
    | exact ‹Low _ _›.of_le (by decide)
    | (extract_lets +onlyGivenNames x; subst x)
    | with_reducible apply set_kept
    | with_reducible apply pllBegin_kept
    | split)

theorem execRefGood_kept {lb : Nat} {may : Part → Prop} {s0 s : State} (h : Kept lb may s0 s) (hn : Low lb 0x10000 := by exact ‹Low _ _›.up rfl) (h_clk : may .clk := by assumption) :
    ∃ out, execRefGood s = .next out ∧ Kept lb may s0 out := by
  refine ⟨_, rfl, ?_⟩
  repeat' (first
    | with_reducible assumption
    | exact ‹Low _ _›.of_le (by decide)
    | with_reducible apply pllBegin_kept
    | with_reducible apply refRestart_kept
    | with_reducible apply set_kept
    | with_reducible apply Kept.foldl
    | with_reducible apply Kept.foldl_snd
    | with_reducible apply Kept.foldl_fst
    | intro v
    | split)

theorem execPllLock_kept {lb : Nat} {may : Part → Prop} {s0 s : State} (p : Fin 4) (seen : PhaseRun) (found : BandFound) (outer : Option Word) (h : Kept lb may s0 s) (hn : Low lb 0x10000 := by exact ‹Low _ _›.up rfl) (h_tick : may .tick := by assumption) (h_clk : may .clk := by assumption) :
    ∃ out, execPllLock p seen found outer s = .next out ∧ Kept lb may s0 out := by
  refine ⟨_, rfl, ?_⟩
  repeat' (first
    | with_reducible assumption
    | with_reducible intro v
    | exact ‹Low _ _›.of_le (by decide)
    | with_reducible apply refLock_kept
    | with_reducible apply pllLock_kept
    | split)

theorem execCacheFlush_kept {lb : Nat} {may : Part → Prop} {s0 s : State} (p : Fin 4) (h : Kept lb may s0 s) (hn : Low lb 0x10118 := by exact ‹Low _ _›.up rfl) (h_clk : may .clk := by assumption) (h_bus : may .bus := by assumption) :
    ∃ out, execCacheFlush p s = .next out ∧ Kept lb may s0 out := by
  refine ⟨_, rfl, ?_⟩
  repeat' (first
    | with_reducible assumption
    | with_reducible intro v
    | exact ‹Low _ _›.of_le (by decide)
    | with_reducible apply byRow_kept
    | with_reducible apply onBus_kept
    | with_reducible apply cacheFlush_kept
)

theorem execSourceQualified_kept {lb : Nat} {may : Part → Prop} {s0 s : State} (c : Fin 4) (n : ℕ) (bad : ℕ) (adv : ℕ) (h : Kept lb may s0 s) (hn : Low lb 0x10004 := by exact ‹Low _ _›.up rfl) (h_timers : may .timers := by assumption) (h_clk : may .clk := by assumption) :
    ∃ out, execSourceQualified c n bad adv s = .next out ∧ Kept lb may s0 out := by
  refine ⟨_, rfl, ?_⟩
  repeat' (first
    | with_reducible assumption
    | with_reducible intro v
    | exact ‹Low _ _›.of_le (by decide)
    | with_reducible apply sourceQualified_kept
)

theorem execSourceLoss_kept {lb : Nat} {may : Part → Prop} {s0 s : State} (e : SourceLossSeen) (h : Kept lb may s0 s) (hn : Low lb 0x10004 := by exact ‹Low _ _›.up rfl) (h_timers : may .timers := by assumption) (h_clk : may .clk := by assumption) :
    ∃ out, execSourceLoss e s = .next out ∧ Kept lb may s0 out := by
  refine ⟨_, rfl, ?_⟩
  repeat' (first
    | with_reducible assumption
    | with_reducible intro v
    | exact ‹Low _ _›.of_le (by decide)
    | with_reducible apply sourceLoss_kept
    | split)

theorem execWclkGlitch_kept {lb : Nat} {may : Part → Prop} {s0 s : State} (e : BadPeriodSeen) (h : Kept lb may s0 s) (hn : Low lb 0x10004 := by exact ‹Low _ _›.up rfl) (h_timers : may .timers := by assumption) (h_clk : may .clk := by assumption) :
    ∃ out, execWclkGlitch e s = .next out ∧ Kept lb may s0 out := by
  refine ⟨_, rfl, ?_⟩
  repeat' (first
    | with_reducible assumption
    | with_reducible intro v
    | exact ‹Low _ _›.of_le (by decide)
    | (extract_lets +onlyGivenNames x; refine (have hx : Kept lb may s0 x := ?_; ?_); rotate_left; clear_value x; rotate_right; subst x)
    | with_reducible apply flag_kept
    | with_reducible apply count_kept
    | with_reducible apply sourceLoss_kept
    | with_reducible apply dropSource_kept
    | split)

end Sys2Proof.Laws
end

