-- ==== Sys2Proof/Laws/KeptSlots.lean ====
section
/-! SUPPORT. Each operation of Machine/Slots.lean keeps the queue, the time and the invariant. -/

set_option Elab.async false

namespace Sys2Proof.Laws

open Sys2Proof.Machine

theorem setCisWord_kept {lb : Nat} {may : Part → Prop} {s0 s : State} (w : ℕ) (v : DWord) (h : Kept lb may s0 s) (h_fab : may .fab := by assumption) : Kept lb may s0 (State.setCisWord s w v) :=
  h.with_cis _ (tabWf_put _ _ _ _)


theorem serveFront_kept {lb : Nat} {may : Part → Prop} {s0 s : State} (b : ℕ) (j : ℕ) (h : Kept lb may s0 s) (h_fab : may .fab := by assumption) :
    Kept lb may s0 (State.serveFront s b j) := by
  unfold State.serveFront
  repeat' (first
    | with_reducible assumption
    | (extract_lets +onlyGivenNames x; subst x)
    | with_reducible apply setCisWord_kept
    | with_reducible apply setBasin_kept
    | split)

theorem serveUntil_kept {lb : Nat} {may : Part → Prop} {s0 s : State} (b j cyc n : ℕ) (h : Kept lb may s0 s) (h_fab : may .fab := by assumption) : Kept lb may s0 (State.serveUntil s b j cyc n) := by
  induction n generalizing s with
  | zero => exact h
  | succ n ih =>
    unfold State.serveUntil
    split
    · split
      · exact ih (serveFront_kept _ _ h)
      · exact h
    · exact h


theorem runWord_kept {lb : Nat} {may : Part → Prop} {s0 s : State} (b j : ℕ) (f : Slot → JetCtx → JetCtx) (h : Kept lb may s0 s) (h_free : may .free := by assumption) (h_fab : may .fab := by assumption) : Kept lb may s0 (State.runWord s b j f) := by
  unfold State.runWord
  extract_lets +onlyGivenNames sl cyc s1
  have h1 : Kept lb may s0 s1 := serveUntil_kept _ _ _ _ h
  clear_value s1
  extract_lets
  exact Kept.with_free _ (setBasin_kept _ _ h1)


theorem slotRow_kept {lb : Nat} {may : Part → Prop} {s0 s : State} (b : ℕ) (j : ℕ) (ops : ℕ → Bool) (f : Slot → JetCtx → JetCtx) (h : Kept lb may s0 s) (h_free : may .free := by assumption) (h_fab : may .fab := by assumption) :
    Kept lb may s0 (State.slotRow s b j ops f) := by
  unfold State.slotRow
  repeat' (first
    | with_reducible assumption
    | with_reducible apply runWord_kept
    | split)

theorem runBasin_kept {lb : Nat} {may : Part → Prop} {s0 s : State} (b n : ℕ) (h : Kept lb may s0 s) (h_free : may .free := by assumption) (h_fab : may .fab := by assumption) : Kept lb may s0 (State.runBasin s b n) := by
  induction n generalizing s with
  | zero => exact h
  | succ n ih =>
    unfold State.runBasin
    split
    · exact ih (runWord_kept _ _ _ h)
    · exact h


theorem execNop_kept {lb : Nat} {may : Part → Prop} {s0 s : State} (b : Fin 10) (j : Fin 4) (h : Kept lb may s0 s) (h_free : may .free := by assumption) (h_fab : may .fab := by assumption) :
    ∃ out, execNop b j s = .next out ∧ Kept lb may s0 out := by
  refine ⟨_, rfl, ?_⟩
  repeat' (first
    | with_reducible assumption
    | with_reducible intro v
    | with_reducible apply slotRow_kept)

theorem execTickend_kept {lb : Nat} {may : Part → Prop} {s0 s : State} (b : Fin 10) (j : Fin 4) (h : Kept lb may s0 s) (h_free : may .free := by assumption) (h_fab : may .fab := by assumption) :
    ∃ out, execTickend b j s = .next out ∧ Kept lb may s0 out := by
  refine ⟨_, rfl, ?_⟩
  repeat' (first
    | with_reducible assumption
    | with_reducible intro v
    | with_reducible apply slotRow_kept)

theorem execSkip_kept {lb : Nat} {may : Part → Prop} {s0 s : State} (b : Fin 10) (j : Fin 4) (h : Kept lb may s0 s) (h_free : may .free := by assumption) (h_fab : may .fab := by assumption) :
    ∃ out, execSkip b j s = .next out ∧ Kept lb may s0 out := by
  refine ⟨_, rfl, ?_⟩
  repeat' (first
    | with_reducible assumption
    | with_reducible intro v
    | with_reducible apply slotRow_kept
)

theorem execMac_kept {lb : Nat} {may : Part → Prop} {s0 s : State} (b : Fin 10) (j : Fin 4) (h : Kept lb may s0 s) (h_free : may .free := by assumption) (h_fab : may .fab := by assumption) :
    ∃ out, execMac b j s = .next out ∧ Kept lb may s0 out := by
  refine ⟨_, rfl, ?_⟩
  repeat' (first
    | with_reducible assumption
    | with_reducible intro v
    | with_reducible apply slotRow_kept
)

theorem execMsu_kept {lb : Nat} {may : Part → Prop} {s0 s : State} (b : Fin 10) (j : Fin 4) (h : Kept lb may s0 s) (h_free : may .free := by assumption) (h_fab : may .fab := by assumption) :
    ∃ out, execMsu b j s = .next out ∧ Kept lb may s0 out := by
  refine ⟨_, rfl, ?_⟩
  repeat' (first
    | with_reducible assumption
    | with_reducible intro v
    | with_reducible apply slotRow_kept
)

theorem execMul_kept {lb : Nat} {may : Part → Prop} {s0 s : State} (b : Fin 10) (j : Fin 4) (h : Kept lb may s0 s) (h_free : may .free := by assumption) (h_fab : may .fab := by assumption) :
    ∃ out, execMul b j s = .next out ∧ Kept lb may s0 out := by
  refine ⟨_, rfl, ?_⟩
  repeat' (first
    | with_reducible assumption
    | with_reducible intro v
    | with_reducible apply slotRow_kept
)

theorem execAdd_kept {lb : Nat} {may : Part → Prop} {s0 s : State} (b : Fin 10) (j : Fin 4) (h : Kept lb may s0 s) (h_free : may .free := by assumption) (h_fab : may .fab := by assumption) :
    ∃ out, execAdd b j s = .next out ∧ Kept lb may s0 out := by
  refine ⟨_, rfl, ?_⟩
  repeat' (first
    | with_reducible assumption
    | with_reducible intro v
    | with_reducible apply slotRow_kept
)

theorem execSub_kept {lb : Nat} {may : Part → Prop} {s0 s : State} (b : Fin 10) (j : Fin 4) (h : Kept lb may s0 s) (h_free : may .free := by assumption) (h_fab : may .fab := by assumption) :
    ∃ out, execSub b j s = .next out ∧ Kept lb may s0 out := by
  refine ⟨_, rfl, ?_⟩
  repeat' (first
    | with_reducible assumption
    | with_reducible intro v
    | with_reducible apply slotRow_kept
)

theorem execAbs_kept {lb : Nat} {may : Part → Prop} {s0 s : State} (b : Fin 10) (j : Fin 4) (h : Kept lb may s0 s) (h_free : may .free := by assumption) (h_fab : may .fab := by assumption) :
    ∃ out, execAbs b j s = .next out ∧ Kept lb may s0 out := by
  refine ⟨_, rfl, ?_⟩
  repeat' (first
    | with_reducible assumption
    | with_reducible intro v
    | with_reducible apply slotRow_kept
)

theorem execMin_kept {lb : Nat} {may : Part → Prop} {s0 s : State} (b : Fin 10) (j : Fin 4) (h : Kept lb may s0 s) (h_free : may .free := by assumption) (h_fab : may .fab := by assumption) :
    ∃ out, execMin b j s = .next out ∧ Kept lb may s0 out := by
  refine ⟨_, rfl, ?_⟩
  repeat' (first
    | with_reducible assumption
    | with_reducible intro v
    | with_reducible apply slotRow_kept
)

theorem execMax_kept {lb : Nat} {may : Part → Prop} {s0 s : State} (b : Fin 10) (j : Fin 4) (h : Kept lb may s0 s) (h_free : may .free := by assumption) (h_fab : may .fab := by assumption) :
    ∃ out, execMax b j s = .next out ∧ Kept lb may s0 out := by
  refine ⟨_, rfl, ?_⟩
  repeat' (first
    | with_reducible assumption
    | with_reducible intro v
    | with_reducible apply slotRow_kept
)

theorem execShl_kept {lb : Nat} {may : Part → Prop} {s0 s : State} (b : Fin 10) (j : Fin 4) (h : Kept lb may s0 s) (h_free : may .free := by assumption) (h_fab : may .fab := by assumption) :
    ∃ out, execShl b j s = .next out ∧ Kept lb may s0 out := by
  refine ⟨_, rfl, ?_⟩
  repeat' (first
    | with_reducible assumption
    | with_reducible intro v
    | with_reducible apply slotRow_kept
)

theorem execShr_kept {lb : Nat} {may : Part → Prop} {s0 s : State} (b : Fin 10) (j : Fin 4) (h : Kept lb may s0 s) (h_free : may .free := by assumption) (h_fab : may .fab := by assumption) :
    ∃ out, execShr b j s = .next out ∧ Kept lb may s0 out := by
  refine ⟨_, rfl, ?_⟩
  repeat' (first
    | with_reducible assumption
    | with_reducible intro v
    | with_reducible apply slotRow_kept
)

theorem execSat_kept {lb : Nat} {may : Part → Prop} {s0 s : State} (b : Fin 10) (j : Fin 4) (h : Kept lb may s0 s) (h_free : may .free := by assumption) (h_fab : may .fab := by assumption) :
    ∃ out, execSat b j s = .next out ∧ Kept lb may s0 out := by
  refine ⟨_, rfl, ?_⟩
  repeat' (first
    | with_reducible assumption
    | with_reducible intro v
    | with_reducible apply slotRow_kept
)

theorem execBq_kept {lb : Nat} {may : Part → Prop} {s0 s : State} (b : Fin 10) (j : Fin 4) (h : Kept lb may s0 s) (h_free : may .free := by assumption) (h_fab : may .fab := by assumption) :
    ∃ out, execBq b j s = .next out ∧ Kept lb may s0 out := by
  refine ⟨_, rfl, ?_⟩
  repeat' (first
    | with_reducible assumption
    | with_reducible intro v
    | with_reducible apply slotRow_kept
)

theorem execFirt_kept {lb : Nat} {may : Part → Prop} {s0 s : State} (b : Fin 10) (j : Fin 4) (h : Kept lb may s0 s) (h_free : may .free := by assumption) (h_fab : may .fab := by assumption) :
    ∃ out, execFirt b j s = .next out ∧ Kept lb may s0 out := by
  refine ⟨_, rfl, ?_⟩
  repeat' (first
    | with_reducible assumption
    | with_reducible intro v
    | with_reducible apply slotRow_kept
)

theorem execRamp_kept {lb : Nat} {may : Part → Prop} {s0 s : State} (b : Fin 10) (j : Fin 4) (h : Kept lb may s0 s) (h_free : may .free := by assumption) (h_fab : may .fab := by assumption) :
    ∃ out, execRamp b j s = .next out ∧ Kept lb may s0 out := by
  refine ⟨_, rfl, ?_⟩
  repeat' (first
    | with_reducible assumption
    | with_reducible intro v
    | with_reducible apply slotRow_kept
)

theorem execLog2_kept {lb : Nat} {may : Part → Prop} {s0 s : State} (b : Fin 10) (j : Fin 4) (h : Kept lb may s0 s) (h_free : may .free := by assumption) (h_fab : may .fab := by assumption) :
    ∃ out, execLog2 b j s = .next out ∧ Kept lb may s0 out := by
  refine ⟨_, rfl, ?_⟩
  repeat' (first
    | with_reducible assumption
    | with_reducible intro v
    | with_reducible apply slotRow_kept
)

theorem execExp2_kept {lb : Nat} {may : Part → Prop} {s0 s : State} (b : Fin 10) (j : Fin 4) (h : Kept lb may s0 s) (h_free : may .free := by assumption) (h_fab : may .fab := by assumption) :
    ∃ out, execExp2 b j s = .next out ∧ Kept lb may s0 out := by
  refine ⟨_, rfl, ?_⟩
  repeat' (first
    | with_reducible assumption
    | with_reducible intro v
    | with_reducible apply slotRow_kept
)

theorem execPeak_kept {lb : Nat} {may : Part → Prop} {s0 s : State} (b : Fin 10) (j : Fin 4) (h : Kept lb may s0 s) (h_free : may .free := by assumption) (h_fab : may .fab := by assumption) :
    ∃ out, execPeak b j s = .next out ∧ Kept lb may s0 out := by
  refine ⟨_, rfl, ?_⟩
  repeat' (first
    | with_reducible assumption
    | with_reducible intro v
    | with_reducible apply slotRow_kept
)

theorem execRmsacc_kept {lb : Nat} {may : Part → Prop} {s0 s : State} (b : Fin 10) (j : Fin 4) (h : Kept lb may s0 s) (h_free : may .free := by assumption) (h_fab : may .fab := by assumption) :
    ∃ out, execRmsacc b j s = .next out ∧ Kept lb may s0 out := by
  refine ⟨_, rfl, ?_⟩
  repeat' (first
    | with_reducible assumption
    | with_reducible intro v
    | with_reducible apply slotRow_kept
)

theorem execDlw_kept {lb : Nat} {may : Part → Prop} {s0 s : State} (b : Fin 10) (j : Fin 4) (h : Kept lb may s0 s) (h_free : may .free := by assumption) (h_fab : may .fab := by assumption) :
    ∃ out, execDlw b j s = .next out ∧ Kept lb may s0 out := by
  refine ⟨_, rfl, ?_⟩
  repeat' (first
    | with_reducible assumption
    | with_reducible intro v
    | with_reducible apply slotRow_kept
)

theorem execDlr_kept {lb : Nat} {may : Part → Prop} {s0 s : State} (b : Fin 10) (j : Fin 4) (h : Kept lb may s0 s) (h_free : may .free := by assumption) (h_fab : may .fab := by assumption) :
    ∃ out, execDlr b j s = .next out ∧ Kept lb may s0 out := by
  refine ⟨_, rfl, ?_⟩
  repeat' (first
    | with_reducible assumption
    | with_reducible intro v
    | with_reducible apply slotRow_kept
)

theorem execTbl_kept {lb : Nat} {may : Part → Prop} {s0 s : State} (b : Fin 10) (j : Fin 4) (h : Kept lb may s0 s) (h_free : may .free := by assumption) (h_fab : may .fab := by assumption) :
    ∃ out, execTbl b j s = .next out ∧ Kept lb may s0 out := by
  refine ⟨_, rfl, ?_⟩
  repeat' (first
    | with_reducible assumption
    | with_reducible intro v
    | with_reducible apply slotRow_kept
)

theorem execRin_kept {lb : Nat} {may : Part → Prop} {s0 s : State} (b : Fin 10) (j : Fin 4) (h : Kept lb may s0 s) (h_free : may .free := by assumption) (h_fab : may .fab := by assumption) :
    ∃ out, execRin b j s = .next out ∧ Kept lb may s0 out := by
  refine ⟨_, rfl, ?_⟩
  repeat' (first
    | with_reducible assumption
    | with_reducible intro v
    | with_reducible apply slotRow_kept
)

theorem execRout_kept {lb : Nat} {may : Part → Prop} {s0 s : State} (b : Fin 10) (j : Fin 4) (h : Kept lb may s0 s) (h_free : may .free := by assumption) (h_fab : may .fab := by assumption) :
    ∃ out, execRout b j s = .next out ∧ Kept lb may s0 out := by
  refine ⟨_, rfl, ?_⟩
  repeat' (first
    | with_reducible assumption
    | with_reducible intro v
    | with_reducible apply slotRow_kept
)

theorem execMeter_kept {lb : Nat} {may : Part → Prop} {s0 s : State} (b : Fin 10) (j : Fin 4) (h : Kept lb may s0 s) (h_free : may .free := by assumption) (h_fab : may .fab := by assumption) :
    ∃ out, execMeter b j s = .next out ∧ Kept lb may s0 out := by
  refine ⟨_, rfl, ?_⟩
  repeat' (first
    | with_reducible assumption
    | with_reducible intro v
    | with_reducible apply slotRow_kept
)

end Sys2Proof.Laws
end

