-- ==== Sys2Proof/Laws/KeptFabric.lean ====
section
/-! SUPPORT. Each operation of Machine/Fabric.lean keeps the queue, the time and the invariant. -/

set_option Elab.async false

namespace Sys2Proof.Laws

open Sys2Proof.Machine

theorem setChan_kept {lb : Nat} {may : Part → Prop} {s0 s : State} (a1 : ℕ) (c : HandOver) (h : Kept lb may s0 s) (h_fab : may .fab := by assumption) :
    Kept lb may s0 (State.setChan s a1 c) := by
  unfold State.setChan
  repeat' (first
    | with_reducible assumption
    | (extract_lets +onlyGivenNames x; subst x)
    | with_reducible apply setFab_kept
    | intro v
    | (fail_if_no_progress beta_reduce)
    | rfl)

theorem setShelf_kept {lb : Nat} {may : Part → Prop} {s0 s : State} (L : ℕ) (a2 : Shelf) (h : Kept lb may s0 s) (h_fab : may .fab := by assumption) :
    Kept lb may s0 (State.setShelf s L a2) := by
  unfold State.setShelf
  repeat' (first
    | with_reducible assumption
    | (extract_lets +onlyGivenNames x; subst x)
    | with_reducible apply setFab_kept
    | intro v
    | (fail_if_no_progress beta_reduce)
    | rfl)

theorem parkFit_kept {lb : Nat} {may : Part → Prop} {s0 s : State} (b : ℕ) (a2 : BasinImage) (rate : ℕ) (h : Kept lb may s0 s) (hn : Low lb 0x100004 := by exact ‹Low _ _›.up rfl) :
    Kept lb may s0 (State.parkFit s b a2 rate) := by
  unfold State.parkFit
  repeat' (first
    | with_reducible assumption
    | exact ‹Low _ _›.up1 rfl
    | exact ‹Low _ _›.of_le (by decide)
    | with_reducible apply flag_kept
    | with_reducible apply set_kept
    | with_reducible apply setBasinState_kept)

theorem showReserves_kept {lb : Nat} {may : Part → Prop} {s0 s : State} (h : Kept lb may s0 s) (hn : Low lb 0x10f008 := by exact ‹Low _ _›.up rfl) :
    Kept lb may s0 (State.showReserves s) := by
  unfold State.showReserves
  repeat' (first
    | with_reducible assumption
    | exact ‹Low _ _›.of_le (by decide)
    | with_reducible apply set_kept
)

theorem applyReserves_kept {lb : Nat} {may : Part → Prop} {s0 s : State} (h : Kept lb may s0 s) (hn : Low lb 0x100004 := by exact ‹Low _ _›.up rfl) :
    Kept lb may s0 (State.applyReserves s) := by
  unfold State.applyReserves
  repeat' (first
    | with_reducible assumption
    | exact ‹Low _ _›.of_le (by decide)
    | (extract_lets +onlyGivenNames x; refine (have hx : Kept lb may s0 x := ?_; ?_); rotate_left; clear_value x; rotate_right; subst x)
    | (extract_lets +onlyGivenNames x; subst x; beta_reduce)
    | with_reducible apply set_kept
    | with_reducible apply setBasinState_kept
    | with_reducible apply showReserves_kept
    | with_reducible refine Kept.foldl _ _ _ ?_ fun _ _ _ => ?_
    | with_reducible refine Kept.foldl_snd _ _ _ ?_ fun _ _ _ => ?_
    | with_reducible refine Kept.foldl_fst _ _ _ ?_ fun _ _ _ => ?_
    | intro v
    | split)

theorem emptyBasin_kept {lb : Nat} {may : Part → Prop} {s0 s : State} (b : ℕ) (h : Kept lb may s0 s) (hn : Low lb 0x100000 := by exact ‹Low _ _›.up rfl) (h_fab : may .fab := by assumption) :
    Kept lb may s0 (State.emptyBasin s b) := by
  unfold State.emptyBasin
  repeat' (first
    | with_reducible assumption
    | exact ‹Low _ _›.up2 rfl
    | exact ‹Low _ _›.up1 rfl
    | exact ‹Low _ _›.of_le (by decide)
    | (extract_lets +onlyGivenNames x; refine (have hx : Kept lb may s0 x := ?_; ?_); rotate_left; clear_value x; rotate_right; subst x)
    | with_reducible apply setBasin_kept
    | with_reducible apply setWord_kept
    | with_reducible apply set_kept
    | with_reducible apply setBasinState_kept
    | with_reducible refine Kept.foldl _ _ _ ?_ fun _ _ _ => ?_)

theorem freeBasin_kept {lb : Nat} {may : Part → Prop} {s0 s : State} (b : ℕ) (h : Kept lb may s0 s) (hn : Low lb 0x100000 := by exact ‹Low _ _›.up rfl) (h_fab : may .fab := by assumption) :
    Kept lb may s0 (State.freeBasin s b) := by
  unfold State.freeBasin
  repeat' (first
    | with_reducible assumption
    | exact ‹Low _ _›.of_le (by decide)
    | (extract_lets +onlyGivenNames x; refine (have hx : Kept lb may s0 x := ?_; ?_); rotate_left; clear_value x; rotate_right; subst x)
    | with_reducible apply emptyBasin_kept
    | with_reducible apply showReserves_kept
    | with_reducible apply setBasinState_kept
    | split)

theorem freeTested_kept {lb : Nat} {may : Part → Prop} {s0 s : State} (b : ℕ) (h : Kept lb may s0 s) (hn : Low lb 0x100000 := by exact ‹Low _ _›.up rfl) (h_fab : may .fab := by assumption) :
    Kept lb may s0 (State.freeTested s b) := by
  unfold State.freeTested
  repeat' (first
    | with_reducible assumption
    | exact ‹Low _ _›.of_le (by decide)
    | (extract_lets +onlyGivenNames x; refine (have hx : Kept lb may s0 x := ?_; ?_); rotate_left; clear_value x; rotate_right; subst x)
    | with_reducible apply emptyBasin_kept
    | with_reducible apply showReserves_kept
    | with_reducible apply setBasinState_kept
    | split)

theorem retireBasin_kept {lb : Nat} {may : Part → Prop} {s0 s : State} (b : ℕ) (h : Kept lb may s0 s) (hn : Low lb 0x100000 := by exact ‹Low _ _›.up rfl) (h_fab : may .fab := by assumption) :
    Kept lb may s0 (State.retireBasin s b) := by
  unfold State.retireBasin
  repeat' (first
    | with_reducible assumption
    | exact ‹Low _ _›.of_le (by decide)
    | (extract_lets +onlyGivenNames x; refine (have hx : Kept lb may s0 x := ?_; ?_); rotate_left; clear_value x; rotate_right; subst x)
    | with_reducible apply setBasinState_kept
    | with_reducible apply emptyBasin_kept
    | with_reducible apply showReserves_kept
    | split)

theorem loadBasin_kept {lb : Nat} {may : Part → Prop} {s0 s : State} (b : ℕ) (L : ℕ) (a3 : BasinImage) (h : Kept lb may s0 s) (hn : Low lb 0x100004 := by exact ‹Low _ _›.up rfl) (h_fab : may .fab := by assumption) :
    Kept lb may s0 (State.loadBasin s b L a3) := by
  unfold State.loadBasin
  repeat' (first
    | with_reducible assumption
    | exact ‹Low _ _›.up2 rfl
    | exact ‹Low _ _›.up1 rfl
    | exact ‹Low _ _›.of_le (by decide)
    | (extract_lets +onlyGivenNames x; subst x)
    | with_reducible apply setBasin_kept
    | with_reducible apply setWord_kept
    | with_reducible apply setNat_kept
    | with_reducible apply set_kept
    | with_reducible apply setBasinState_kept
    | with_reducible apply parkFit_kept
    | with_reducible apply Kept.foldl
    | with_reducible apply Kept.foldl_snd
    | with_reducible apply Kept.foldl_fst
    | intro v
    | split)

theorem zeroRegion_kept {lb : Nat} {may : Part → Prop} {s0 s : State} (r : CisRegion) (h : Kept lb may s0 s) (h_fab : may .fab := by assumption) : Kept lb may s0 (State.zeroRegion s r) :=
  h.with_cis _ (tabWf_filter _ _ _)



theorem setPageDone_kept {lb : Nat} {may : Part → Prop} {s0 s : State} (b : ℕ) (t : ℕ) (pageB : Bool) (on : Bool) (h : Kept lb may s0 s) (hn : Low lb 0x100030 := by exact ‹Low _ _›.up rfl) :
    Kept lb may s0 (State.setPageDone s b t pageB on) := by
  unfold State.setPageDone
  repeat' (first
    | with_reducible assumption
    | exact ‹Low _ _›.up1 rfl
    | exact ‹Low _ _›.of_le (by decide)
    | with_reducible apply setBitAt_kept
    | split)

theorem clearPage_kept {lb : Nat} {may : Part → Prop} {s0 s : State} (b : ℕ) (a : ℕ) (h : Kept lb may s0 s) (hn : Low lb 0x100030 := by exact ‹Low _ _›.up rfl) :
    Kept lb may s0 (State.clearPage s b a) := by
  unfold State.clearPage
  repeat' (first
    | with_reducible assumption
    | exact ‹Low _ _›.of_le (by decide)
    | with_reducible apply setPageDone_kept
    | intro v
    | split)

theorem poolWrite_kept {lb : Nat} {may : Part → Prop} {s0 s : State} (b : ℕ) (a : ℕ) (v : Word) (h : Kept lb may s0 s) (hn : Low lb 0x100030 := by exact ‹Low _ _›.up rfl) (h_fab : may .fab := by assumption) :
    Kept lb may s0 (State.poolWrite s b a v) := by
  unfold State.poolWrite
  repeat' (first
    | with_reducible assumption
    | exact ‹Low _ _›.of_le (by decide)
    | (extract_lets +onlyGivenNames x; subst x)
    | with_reducible apply setBasin_kept
    | with_reducible apply clearPage_kept
    | intro v
    | split)

theorem ownWritten_kept {lb : Nat} {may : Part → Prop} {s0 s : State} (base : ℕ) (len : ℕ) (h : Kept lb may s0 s) (h_fab : may .fab := by assumption) :
    Kept lb may s0 (State.ownWritten s base len) := by
  unfold State.ownWritten
  repeat' (first
    | with_reducible assumption
    | (extract_lets +onlyGivenNames x; subst x)
    | with_reducible apply setFab_kept
    | intro v
    | (fail_if_no_progress beta_reduce)
    | rfl)

theorem putShelf_kept {lb : Nat} {may : Part → Prop} {s0 s : State} (L : ℕ) (a2 : Shelf) (h : Kept lb may s0 s) (h_fab : may .fab := by assumption) :
    Kept lb may s0 (State.putShelf s L a2) := by
  unfold State.putShelf
  repeat' (first
    | with_reducible assumption
    | with_reducible apply ownWritten_kept
    | with_reducible apply setShelf_kept
)

theorem poolWriteShelf_kept {lb : Nat} {may : Part → Prop} {s0 s : State} (L : ℕ) (b : ℕ) (a : ℕ) (v : Word) (h : Kept lb may s0 s) (hn : Low lb 0x100030 := by exact ‹Low _ _›.up rfl) (h_fab : may .fab := by assumption) :
    Kept lb may s0 (State.poolWriteShelf s L b a v) := by
  unfold State.poolWriteShelf
  repeat' (first
    | with_reducible assumption
    | exact ‹Low _ _›.of_le (by decide)
    | (extract_lets +onlyGivenNames x; refine (have hx : Kept lb may s0 x := ?_; ?_); rotate_left; clear_value x; rotate_right; subst x)
    | (extract_lets +onlyGivenNames x; clear_value x)
    | with_reducible apply putShelf_kept
    | with_reducible apply poolWrite_kept
    | with_reducible refine Kept.foldl _ _ _ ?_ fun _ _ _ => ?_
    | with_reducible refine Kept.foldl_snd _ _ _ ?_ fun _ _ _ => ?_
    | with_reducible refine Kept.foldl_fst _ _ _ ?_ fun _ _ _ => ?_
    | intro v
    | split)

theorem unhandle_kept {lb : Nat} {may : Part → Prop} {s0 s : State} (b : ℕ) (h : Kept lb may s0 s) (hn : Low lb 0x100004 := by exact ‹Low _ _›.up rfl) :
    Kept lb may s0 (State.unhandle s b) := by
  unfold State.unhandle
  repeat' (first
    | with_reducible assumption
    | exact ‹Low _ _›.up1 rfl
    | exact ‹Low _ _›.of_le (by decide)
    | with_reducible apply set_kept
)

theorem unmapBasin_kept {lb : Nat} {may : Part → Prop} {s0 s : State} (b : ℕ) (h : Kept lb may s0 s) (hn : Low lb 0x100004 := by exact ‹Low _ _›.up rfl) :
    Kept lb may s0 (State.unmapBasin s b) := by
  unfold State.unmapBasin
  repeat' (first
    | with_reducible assumption
    | exact ‹Low _ _›.of_le (by decide)
    | (extract_lets +onlyGivenNames x; subst x)
    | with_reducible apply unhandle_kept
    | with_reducible apply setBasinState_kept
    | split)

theorem mapBasin_kept {lb : Nat} {may : Part → Prop} {s0 s : State} (L : ℕ) (b : ℕ) (h : Kept lb may s0 s) (hn : Low lb 0x100004 := by exact ‹Low _ _›.up rfl) (h_fab : may .fab := by assumption) :
    Kept lb may s0 (State.mapBasin s L b) := by
  unfold State.mapBasin
  repeat' (first
    | with_reducible assumption
    | exact ‹Low _ _›.up1 rfl
    | exact ‹Low _ _›.of_le (by decide)
    | (extract_lets +onlyGivenNames x; subst x)
    | with_reducible apply set_kept
    | with_reducible apply setBasin_kept
    | with_reducible apply setBasinState_kept
    | split)

theorem putState_kept {lb : Nat} {may : Part → Prop} {s0 s : State} (b : ℕ) (off : ℕ) (ws : List Word) (h : Kept lb may s0 s) (h_fab : may .fab := by assumption) :
    Kept lb may s0 (State.putState s b off ws) := by
  unfold State.putState
  repeat' (first
    | with_reducible assumption
    | (extract_lets +onlyGivenNames x; subst x)
    | with_reducible apply setBasin_kept)

theorem prime_kept {lb : Nat} {may : Part → Prop} {s0 s : State} (a1 : ℕ) (new : ℕ) (old : Option (List Word)) (h : Kept lb may s0 s) (hn : Low lb 0x10f00c := by exact ‹Low _ _›.up rfl) (h_fab : may .fab := by assumption) :
    Kept lb may s0 (State.prime s a1 new old) := by
  unfold State.prime
  repeat' (first
    | with_reducible assumption
    | exact ‹Low _ _›.of_le (by decide)
    | (extract_lets +onlyGivenNames x; subst x)
    | with_reducible apply putState_kept
    | with_reducible apply flag_kept
    | with_reducible apply Kept.foldl
    | with_reducible apply Kept.foldl_snd
    | with_reducible apply Kept.foldl_fst
    | intro v
    | split)

theorem chanIdle_kept {lb : Nat} {may : Part → Prop} {s0 s : State} (a1 : ℕ) (h : Kept lb may s0 s) (hn : Low lb 0x10f204 := by exact ‹Low _ _›.up rfl) (h_fab : may .fab := by assumption) :
    Kept lb may s0 (State.chanIdle s a1) := by
  unfold State.chanIdle
  repeat' (first
    | with_reducible assumption
    | exact ‹Low _ _›.up1 rfl
    | exact ‹Low _ _›.of_le (by decide)
    | with_reducible apply setChan_kept
    | with_reducible apply set_kept
)

theorem leaveBasin_kept {lb : Nat} {may : Part → Prop} {s0 s : State} (b : ℕ) (faulted : Bool) (h : Kept lb may s0 s) (hn : Low lb 0x100000 := by exact ‹Low _ _›.up rfl) (h_fab : may .fab := by assumption) :
    Kept lb may s0 (State.leaveBasin s b faulted) := by
  unfold State.leaveBasin
  repeat' (first
    | with_reducible assumption
    | exact ‹Low _ _›.of_le (by decide)
    | (extract_lets +onlyGivenNames x; clear_value x)
    | with_reducible apply unhandle_kept
    | with_reducible apply setBasinState_kept
    | with_reducible apply setBasin_kept
    | with_reducible apply freeBasin_kept
    | split)

theorem handOverDone_kept {lb : Nat} {may : Part → Prop} {s0 s : State} (a1 : ℕ) (h : Kept lb may s0 s) (hn : Low lb 0x7000c := by exact ‹Low _ _›.up rfl) (h_fab : may .fab := by assumption) (h_stew : may .stew := by assumption) :
    Kept lb may s0 (State.handOverDone s a1) := by
  unfold State.handOverDone
  repeat' (first
    | with_reducible assumption
    | exact ‹Low _ _›.of_le (by decide)
    | (extract_lets +onlyGivenNames x; subst x)
    | with_reducible apply leaveBasin_kept
    | with_reducible apply error_kept
    | with_reducible apply flag_kept
    | with_reducible apply chanIdle_kept
    | split)

theorem fadeEnd_kept {lb : Nat} {may : Part → Prop} {s0 s : State} (a1 : ℕ) (h : Kept lb may s0 s) (hn : Low lb 0x7000c := by exact ‹Low _ _›.up rfl) (h_fab : may .fab := by assumption) (h_stew : may .stew := by assumption) :
    Kept lb may s0 (State.fadeEnd s a1) := by
  unfold State.fadeEnd
  repeat' (first
    | with_reducible assumption
    | exact ‹Low _ _›.of_le (by decide)
    | with_reducible apply handOverDone_kept
    | split)

theorem holdMoves_kept {lb : Nat} {may : Part → Prop} {s0 s : State} (old : ℕ) (new : ℕ) (h : Kept lb may s0 s) (hn : Low lb 0x100000 := by exact ‹Low _ _›.up rfl) :
    Kept lb may s0 (State.holdMoves s old new) := by
  unfold State.holdMoves
  repeat' (first
    | with_reducible assumption
    | exact ‹Low _ _›.up1 rfl
    | exact ‹Low _ _›.of_le (by decide)
    | with_reducible apply set_kept
    | split)

theorem handOverSwitch_kept {lb : Nat} {may : Part → Prop} {s0 s : State} (a1 : ℕ) (h : Kept lb may s0 s) (hn : Low lb 0x100000 := by exact ‹Low _ _›.up rfl) (h_fab : may .fab := by assumption) :
    Kept lb may s0 (State.handOverSwitch s a1) := by
  unfold State.handOverSwitch
  repeat' (first
    | with_reducible assumption
    | exact ‹Low _ _›.up1 rfl
    | exact ‹Low _ _›.of_le (by decide)
    | (extract_lets +onlyGivenNames x; refine (have hx : Kept lb may s0 x := ?_; ?_); rotate_left; clear_value x; rotate_right; subst x)
    | (extract_lets +onlyGivenNames x; clear_value x)
    | with_reducible apply holdMoves_kept
    | with_reducible apply setChan_kept
    | with_reducible apply mapBasin_kept
    | with_reducible apply unhandle_kept
    | with_reducible apply setBasinState_kept
    | with_reducible apply setBasin_kept
    | with_reducible apply set_kept
    | split)

theorem handOverPrime_kept {lb : Nat} {may : Part → Prop} {s0 s : State} (a1 : ℕ) (h : Kept lb may s0 s) (hn : Low lb 0x10f00c := by exact ‹Low _ _›.up rfl) (h_fab : may .fab := by assumption) :
    Kept lb may s0 (State.handOverPrime s a1) := by
  unfold State.handOverPrime
  repeat' (first
    | with_reducible assumption
    | exact ‹Low _ _›.of_le (by decide)
    | (extract_lets +onlyGivenNames x; clear_value x)
    | with_reducible apply prime_kept
    | with_reducible apply setChan_kept
    | intro v
    | split)

theorem withdrawMap_kept {lb : Nat} {may : Part → Prop} {s0 s : State} (L : ℕ) (b : ℕ) (h : Kept lb may s0 s) (hn : Low lb 0x5c := by exact ‹Low _ _›.up rfl) (h_tick : may .tick := by assumption) :
    Kept lb may s0 (State.withdrawMap s L b) := by
  unfold State.withdrawMap
  repeat' (first
    | with_reducible assumption
    | exact ‹Low _ _›.of_le (by decide)
    | (extract_lets +onlyGivenNames x; subst x)
    | with_reducible apply set_kept
    | intro v
    | split
    | with_reducible apply Kept.with_tick)

theorem handOverCancel_kept {lb : Nat} {may : Part → Prop} {s0 s : State} (a1 : ℕ) (newFaulted : Bool) (h : Kept lb may s0 s) (hn : Low lb 0x5c := by exact ‹Low _ _›.up rfl) (h_tick : may .tick := by assumption) (h_fab : may .fab := by assumption) (h_stew : may .stew := by assumption) :
    Kept lb may s0 (State.handOverCancel s a1 newFaulted) := by
  unfold State.handOverCancel
  repeat' (first
    | with_reducible assumption
    | exact ‹Low _ _›.of_le (by decide)
    | (extract_lets +onlyGivenNames x; subst x)
    | with_reducible apply leaveBasin_kept
    | with_reducible apply withdrawMap_kept
    | with_reducible apply flag_kept
    | with_reducible apply chanIdle_kept
    | with_reducible apply error_kept
    | split)

theorem relocFail_kept {lb : Nat} {may : Part → Prop} {s0 s : State} (L : ℕ) (b : ℕ) (target : ℕ) (noshelf : Bool) (h : Kept lb may s0 s) (hn : Low lb 0xa0 := by exact ‹Low _ _›.up rfl) (h_timers : may .timers := by assumption) (h_fab : may .fab := by assumption) (h_irq : may .irq := by assumption) (h_aout : may .aout := by assumption) (h_hp : may .hp := by assumption) (h_psc : may .psc := by assumption) (h_stew : may .stew := by assumption) (h_mbx : may .mbx := by assumption) :
    Kept lb may s0 (State.relocFail s L b target noshelf) := by
  unfold State.relocFail
  repeat' (first
    | with_reducible assumption
    | exact ‹Low _ _›.of_le (by decide)
    | with_reducible apply enterSafe_kept
    | with_reducible apply errorNow_kept
    | with_reducible apply set_kept
)

theorem relocNext_kept {lb : Nat} {may : Part → Prop} {s0 s : State} (h : Kept lb may s0 s) (h_fab : may .fab := by assumption) :
    Kept lb may s0 (State.relocNext s) := by
  unfold State.relocNext
  repeat' (first
    | with_reducible assumption
    | (extract_lets +onlyGivenNames x; subst x)
    | with_reducible apply setFab_kept
    | intro v
    | split
    | (fail_if_no_progress beta_reduce)
    | rfl)

theorem bistEnd_kept {lb : Nat} {may : Part → Prop} {s0 s : State} (b : ℕ) (h : Kept lb may s0 s) (hn : Low lb 0x70004 := by exact ‹Low _ _›.up rfl) (h_fab : may .fab := by assumption) (h_stew : may .stew := by assumption) :
    Kept lb may s0 (State.bistEnd s b) := by
  unfold State.bistEnd
  repeat' (first
    | with_reducible assumption
    | exact ‹Low _ _›.of_le (by decide)
    | (extract_lets +onlyGivenNames x; clear_value x)
    | with_reducible apply showTests_kept
    | with_reducible apply errorDone_kept
    | with_reducible apply setBasin_kept
    | split)

theorem relocate_kept {lb : Nat} {may : Part → Prop} {s0 s : State} (L : ℕ) (b : ℕ) (h : Kept lb may s0 s) (hn : Low lb 0xa0 := by exact ‹Low _ _›.up rfl) (h_timers : may .timers := by assumption) (h_fab : may .fab := by assumption) (h_irq : may .irq := by assumption) (h_aout : may .aout := by assumption) (h_hp : may .hp := by assumption) (h_psc : may .psc := by assumption) (h_stew : may .stew := by assumption) (h_mbx : may .mbx := by assumption) :
    Kept lb may s0 (State.relocate s L b) := by
  unfold State.relocate
  repeat' (first
    | with_reducible assumption
    | exact ‹Low _ _›.of_le (by decide)
    | (extract_lets +onlyGivenNames x; refine (have hx : Kept lb may s0 x := ?_; ?_); rotate_left; clear_value x; rotate_right; subst x)
    | (extract_lets +onlyGivenNames x; subst x)
    | with_reducible apply relocFail_kept
    | with_reducible apply showReserves_kept
    | with_reducible apply setBasinState_kept
    | with_reducible apply bistEnd_kept
    | with_reducible apply relocNext_kept
    | with_reducible apply setFab_kept
    | split
    | (fail_if_no_progress beta_reduce)
    | rfl)

theorem dropTick_kept {lb : Nat} {may : Part → Prop} {s0 s : State} (b : ℕ) (h : Kept lb may s0 s) (h_fab : may .fab := by assumption) :
    Kept lb may s0 (State.dropTick s b) := by
  unfold State.dropTick
  repeat' (first
    | with_reducible assumption
    | (extract_lets +onlyGivenNames x; clear_value x)
    | with_reducible apply setBasin_kept)

theorem dropPartner_kept {lb : Nat} {may : Part → Prop} {s0 s : State} (b : ℕ) (h : Kept lb may s0 s) (h_fab : may .fab := by assumption) :
    Kept lb may s0 (State.dropPartner s b) := by
  unfold State.dropPartner
  repeat' (first
    | with_reducible assumption
    | with_reducible apply dropTick_kept
    | intro v
    | split)

theorem basinFault_kept {lb : Nat} {may : Part → Prop} {s0 s : State} (b : ℕ) (cause : ℕ) (h : Kept lb may s0 s) (hn : Low lb 0x5c := by exact ‹Low _ _›.up rfl) (h_timers : may .timers := by assumption) (h_tick : may .tick := by assumption) (h_fab : may .fab := by assumption) (h_irq : may .irq := by assumption) (h_aout : may .aout := by assumption) (h_hp : may .hp := by assumption) (h_psc : may .psc := by assumption) (h_stew : may .stew := by assumption) (h_mbx : may .mbx := by assumption) :
    Kept lb may s0 (State.basinFault s b cause) := by
  unfold State.basinFault
  repeat' (first
    | with_reducible assumption
    | exact ‹Low _ _›.up1 rfl
    | exact ‹Low _ _›.of_le (by decide)
    | (extract_lets +onlyGivenNames x; refine (have hx : Kept lb may s0 x := ?_; ?_); rotate_left; clear_value x; rotate_right; subst x)
    | (extract_lets +onlyGivenNames x; clear_value x)
    | with_reducible apply setBasin_kept
    | with_reducible apply set_kept
    | with_reducible apply flag_kept
    | with_reducible apply dropTick_kept
    | with_reducible apply setChan_kept
    | with_reducible apply setBasinState_kept
    | with_reducible apply error_kept
    | with_reducible apply chanIdle_kept
    | with_reducible apply unhandle_kept
    | with_reducible apply handOverCancel_kept
    | with_reducible apply dropPartner_kept
    | with_reducible apply relocate_kept
    | intro v
    | split)

theorem carryBasin_kept {lb : Nat} {may : Part → Prop} {s0 s : State} (source : ℕ) (target : ℕ) (h : Kept lb may s0 s) (hn : Low lb 0x100000 := by exact ‹Low _ _›.up rfl) :
    Kept lb may s0 (State.carryBasin s source target) := by
  unfold State.carryBasin
  repeat' (first
    | with_reducible assumption
    | exact ‹Low _ _›.up1 rfl
    | exact ‹Low _ _›.of_le (by decide)
    | with_reducible apply setWord_kept
)

theorem restoreState_kept {lb : Nat} {may : Part → Prop} {s0 s : State} (t : ℕ) (L : ℕ) (src : Basin) (h : Kept lb may s0 s) (hn : Low lb 0xa0 := by exact ‹Low _ _›.up rfl) (h_timers : may .timers := by assumption) (h_fab : may .fab := by assumption) (h_irq : may .irq := by assumption) (h_aout : may .aout := by assumption) (h_hp : may .hp := by assumption) (h_psc : may .psc := by assumption) (h_stew : may .stew := by assumption) (h_mbx : may .mbx := by assumption) :
    Kept lb may s0 (State.restoreState s t L src) := by
  unfold State.restoreState
  repeat' (first
    | with_reducible assumption
    | exact ‹Low _ _›.of_le (by decide)
    | (extract_lets +onlyGivenNames x; clear_value x)
    | with_reducible apply putState_kept
    | with_reducible apply errorNow_kept
    | split)

theorem reloadDone_kept {lb : Nat} {may : Part → Prop} {s0 s : State} (t : ℕ) (h : Kept lb may s0 s) (hn : Low lb 0xa0 := by exact ‹Low _ _›.up rfl) (h_timers : may .timers := by assumption) (h_fab : may .fab := by assumption) (h_irq : may .irq := by assumption) (h_aout : may .aout := by assumption) (h_hp : may .hp := by assumption) (h_psc : may .psc := by assumption) (h_stew : may .stew := by assumption) (h_mbx : may .mbx := by assumption) :
    Kept lb may s0 (State.reloadDone s t) := by
  unfold State.reloadDone
  repeat' (first
    | with_reducible assumption
    | exact ‹Low _ _›.of_le (by decide)
    | (extract_lets +onlyGivenNames x; refine (have hx : Kept lb may s0 x := ?_; ?_); rotate_left; clear_value x; rotate_right; subst x)
    | (extract_lets +onlyGivenNames x; subst x)
    | with_reducible apply loadBasin_kept
    | with_reducible apply setBasin_kept
    | with_reducible apply setFab_kept
    | with_reducible apply relocNext_kept
    | with_reducible apply relocFail_kept
    | with_reducible apply restoreState_kept
    | intro v
    | split
    | (fail_if_no_progress beta_reduce)
    | rfl)

theorem relocSwitch_kept {lb : Nat} {may : Part → Prop} {s0 s : State} (r : Reloc) (h : Kept lb may s0 s) (hn : Low lb 0x100000 := by exact ‹Low _ _›.up rfl) (h_fab : may .fab := by assumption) (h_mbx : may .mbx := by assumption) :
    Kept lb may s0 (State.relocSwitch s r) := by
  unfold State.relocSwitch
  repeat' (first
    | with_reducible assumption
    | exact ‹Low _ _›.up1 rfl
    | exact ‹Low _ _›.of_le (by decide)
    | (extract_lets +onlyGivenNames x; refine (have hx : Kept lb may s0 x := ?_; ?_); rotate_left; clear_value x; rotate_right; subst x)
    | (extract_lets +onlyGivenNames x; subst x)
    | with_reducible apply set_kept
    | with_reducible apply mapBasin_kept
    | with_reducible apply unhandle_kept
    | with_reducible apply carryBasin_kept
    | with_reducible apply setMbx_kept
    | with_reducible apply setFab_kept
    | with_reducible refine Kept.foldl _ _ _ ?_ fun _ _ _ => ?_
    | with_reducible refine Kept.foldl_snd _ _ _ ?_ fun _ _ _ => ?_
    | with_reducible refine Kept.foldl_fst _ _ _ ?_ fun _ _ _ => ?_
    | intro v
    | split
    | (fail_if_no_progress beta_reduce)
    | rfl)

theorem relocWeir_kept {lb : Nat} {may : Part → Prop} {s0 s : State} (h : Kept lb may s0 s) (hn : Low lb 0x100000 := by exact ‹Low _ _›.up rfl) (h_fab : may .fab := by assumption) (h_mbx : may .mbx := by assumption) :
    Kept lb may s0 (State.relocWeir s) := by
  unfold State.relocWeir
  repeat' (first
    | with_reducible assumption
    | exact ‹Low _ _›.of_le (by decide)
    | (extract_lets +onlyGivenNames x; subst x)
    | with_reducible apply setFab_kept
    | with_reducible apply relocSwitch_kept
    | with_reducible apply Kept.foldl
    | with_reducible apply Kept.foldl_snd
    | with_reducible apply Kept.foldl_fst
    | intro v
    | (fail_if_no_progress beta_reduce)
    | rfl)

theorem shelfLost_kept {lb : Nat} {may : Part → Prop} {s0 s : State} (L : ℕ) (h : Kept lb may s0 s) (hn : Low lb 0xa0 := by exact ‹Low _ _›.up rfl) (h_timers : may .timers := by assumption) (h_fab : may .fab := by assumption) (h_irq : may .irq := by assumption) (h_aout : may .aout := by assumption) (h_hp : may .hp := by assumption) (h_psc : may .psc := by assumption) (h_stew : may .stew := by assumption) (h_mbx : may .mbx := by assumption) :
    Kept lb may s0 (State.shelfLost s L) := by
  unfold State.shelfLost
  repeat' (first
    | with_reducible assumption
    | exact ‹Low _ _›.up1 rfl
    | exact ‹Low _ _›.of_le (by decide)
    | (extract_lets +onlyGivenNames x; refine (have hx : Kept lb may s0 x := ?_; ?_); rotate_left; clear_value x; rotate_right; subst x)
    | (extract_lets +onlyGivenNames x; subst x)
    | with_reducible apply setShelf_kept
    | with_reducible apply set_kept
    | with_reducible apply setFab_kept
    | with_reducible apply relocNext_kept
    | with_reducible apply relocFail_kept
    | with_reducible apply freeTested_kept
    | intro v
    | split
    | (fail_if_no_progress beta_reduce)
    | rfl)

theorem cisError_kept {lb : Nat} {may : Part → Prop} {s0 s : State} (w : ℕ) (h : Kept lb may s0 s) (hn : Low lb 0x7000c := by exact ‹Low _ _›.up rfl) (h_fab : may .fab := by assumption) (h_stew : may .stew := by assumption) :
    Kept lb may s0 (State.cisError s w) := by
  unfold State.cisError
  repeat' (first
    | with_reducible assumption
    | exact ‹Low _ _›.of_le (by decide)
    | (extract_lets +onlyGivenNames x; subst x)
    | with_reducible apply error_kept
    | with_reducible apply setFab_kept
    | (fail_if_no_progress beta_reduce)
    | rfl)

theorem cisCorrected_kept {lb : Nat} {may : Part → Prop} {s0 s : State} (w : ℕ) (h : Kept lb may s0 s) (hn : Low lb 0x7000c := by exact ‹Low _ _›.up rfl) (h_fab : may .fab := by assumption) (h_stew : may .stew := by assumption) :
    Kept lb may s0 (State.cisCorrected s w) := by
  unfold State.cisCorrected
  repeat' (first
    | with_reducible assumption
    | exact ‹Low _ _›.of_le (by decide)
    | (extract_lets +onlyGivenNames x; subst x)
    | with_reducible apply flag_kept
    | with_reducible apply count_kept
    | with_reducible apply setFab_kept
    | with_reducible apply cisError_kept
    | intro v
    | split
    | (fail_if_no_progress beta_reduce)
    | rfl)

theorem cisUncorrectable_kept {lb : Nat} {may : Part → Prop} {s0 s : State} (w : ℕ) (h : Kept lb may s0 s) (hn : Low lb 0xa0 := by exact ‹Low _ _›.up rfl) (h_timers : may .timers := by assumption) (h_fab : may .fab := by assumption) (h_irq : may .irq := by assumption) (h_aout : may .aout := by assumption) (h_hp : may .hp := by assumption) (h_psc : may .psc := by assumption) (h_stew : may .stew := by assumption) (h_mbx : may .mbx := by assumption) :
    Kept lb may s0 (State.cisUncorrectable s w) := by
  unfold State.cisUncorrectable
  repeat' (first
    | with_reducible assumption
    | exact ‹Low _ _›.of_le (by decide)
    | (extract_lets +onlyGivenNames x; refine (have hx : Kept lb may s0 x := ?_; ?_); rotate_left; clear_value x; rotate_right; subst x)
    | (extract_lets +onlyGivenNames x; clear_value x)
    | with_reducible apply set_kept
    | with_reducible apply flag_kept
    | with_reducible apply count_kept
    | with_reducible apply setCisWord_kept
    | with_reducible apply shelfLost_kept
    | with_reducible apply setBasin_kept
    | with_reducible apply cisError_kept
    | split)

theorem cisNext_kept {lb : Nat} {may : Part → Prop} {s0 s : State} (h : Kept lb may s0 s) (hn : Low lb 0x10f100 := by exact ‹Low _ _›.up rfl) :
    Kept lb may s0 (State.cisNext s) := by
  unfold State.cisNext
  repeat' (first
    | with_reducible assumption
    | exact ‹Low _ _›.of_le (by decide)
    | with_reducible apply set_kept
    | split)

theorem cisRead_kept {lb : Nat} {may : Part → Prop} {s0 s : State} (h : Kept lb may s0 s) (hn : Low lb 0x60004 := by exact ‹Low _ _›.up rfl) (h_free : may .free := by assumption) :
    Kept lb may s0 (State.cisRead s).2 := by
  unfold State.cisRead
  repeat' (first
    | with_reducible assumption
    | exact ‹Low _ _›.of_le (by decide)
    | (extract_lets +onlyGivenNames x; clear_value x)
    | with_reducible apply cisNext_kept
    | with_reducible apply flag_kept
    | with_reducible apply drawn_kept
    | intro v
    | split)

theorem cisStore_kept {lb : Nat} {may : Part → Prop} {s0 s : State} (v : Word) (h : Kept lb may s0 s) (hn : Low lb 0x10f100 := by exact ‹Low _ _›.up rfl) (h_fab : may .fab := by assumption) :
    Kept lb may s0 (State.cisStore s v) := by
  unfold State.cisStore
  repeat' (first
    | with_reducible assumption
    | exact ‹Low _ _›.of_le (by decide)
    | (extract_lets +onlyGivenNames x; refine (have hx : Kept lb may s0 x := ?_; ?_); rotate_left; clear_value x; rotate_right; subst x)
    | (extract_lets +onlyGivenNames x; subst x)
    | with_reducible apply setFab_kept
    | with_reducible apply setCisWord_kept
    | with_reducible apply cisNext_kept
    | intro v
    | split
    | (fail_if_no_progress beta_reduce)
    | rfl)

theorem cisWrite_kept {lb : Nat} {may : Part → Prop} {s0 s : State} (v : Word) (h : Kept lb may s0 s) (hn : Low lb 0x60004 := by exact ‹Low _ _›.up rfl) (h_fab : may .fab := by assumption) :
    Kept lb may s0 (State.cisWrite s v) := by
  unfold State.cisWrite
  repeat' (first
    | with_reducible assumption
    | exact ‹Low _ _›.of_le (by decide)
    | with_reducible apply cisNext_kept
    | with_reducible apply flag_kept
    | with_reducible apply cisStore_kept
    | split)

theorem rawSlot_kept {lb : Nat} {may : Part → Prop} {s0 s : State} (b : ℕ) (i : ℕ) (high : Bool) (v : Word) (h : Kept lb may s0 s) (h_fab : may .fab := by assumption) :
    Kept lb may s0 (State.rawSlot s b i high v) := by
  unfold State.rawSlot
  repeat' (first
    | with_reducible assumption
    | (extract_lets +onlyGivenNames x; subst x)
    | with_reducible apply setBasin_kept)

theorem rawJet_kept {lb : Nat} {may : Part → Prop} {s0 s : State} (b : ℕ) (j : ℕ) (h : Kept lb may s0 s) (h_fab : may .fab := by assumption) :
    Kept lb may s0 (State.rawJet s b j) := by
  unfold State.rawJet
  repeat' (first
    | with_reducible assumption
    | (extract_lets +onlyGivenNames x; clear_value x)
    | with_reducible apply setBasin_kept)

theorem rawWrite_kept {lb : Nat} {may : Part → Prop} {s0 s : State} (a : ℕ) (v : Word) (h : Kept lb may s0 s) (hn : Low lb 0x100004 := by exact ‹Low _ _›.up rfl) (h_fab : may .fab := by assumption) :
    Kept lb may s0 (State.rawWrite s a v) := by
  unfold State.rawWrite
  repeat' (first
    | with_reducible assumption
    | exact ‹Low _ _›.up1 rfl
    | exact ‹Low _ _›.of_le (by decide)
    | (extract_lets +onlyGivenNames x; clear_value x)
    | with_reducible apply rawSlot_kept
    | with_reducible apply set_kept
    | with_reducible apply poolWrite_kept
    | with_reducible apply rawJet_kept
    | split)

theorem rawRead_kept {lb : Nat} {may : Part → Prop} {s0 s : State} (a : ℕ) (h : Kept lb may s0 s) (h_free : may .free := by assumption) :
    Kept lb may s0 (State.rawRead s a).2 := by
  unfold State.rawRead
  repeat' (first
    | with_reducible assumption
    | (extract_lets +onlyGivenNames x; subst x)
    | with_reducible apply drawn_kept
    | intro v
    | split)

theorem rawAccess_kept {lb : Nat} {may : Part → Prop} {s0 s : State} (a : ℕ) (write : Option Word) (h : Kept lb may s0 s) (hn : Low lb 0x100004 := by exact ‹Low _ _›.up rfl) (h_free : may .free := by assumption) (h_fab : may .fab := by assumption) (h_bus : may .bus := by assumption) :
    Kept lb may s0 (State.rawAccess s a write) := by
  unfold State.rawAccess
  repeat' (first
    | with_reducible assumption
    | exact ‹Low _ _›.of_le (by decide)
    | with_reducible apply onBus_kept
    | with_reducible apply rawWrite_kept
    | with_reducible apply rawRead_kept
    | split)

theorem ckptDrained_kept {lb : Nat} {may : Part → Prop} {s0 s : State} (b : ℕ) (h : Kept lb may s0 s) (hn : Low lb 0x100020 := by exact ‹Low _ _›.up rfl) (h_fab : may .fab := by assumption) :
    Kept lb may s0 (State.ckptDrained s b) := by
  unfold State.ckptDrained
  repeat' (first
    | with_reducible assumption
    | exact ‹Low _ _›.up1 rfl
    | exact ‹Low _ _›.of_le (by decide)
    | (extract_lets +onlyGivenNames x; refine (have hx : Kept lb may s0 x := ?_; ?_); rotate_left; clear_value x; rotate_right; subst x)
    | (extract_lets +onlyGivenNames x; clear_value x)
    | with_reducible apply ownWritten_kept
    | with_reducible apply set_kept
    | with_reducible apply setBasin_kept
    | split)

theorem meterCopy_kept {lb : Nat} {may : Part → Prop} {s0 s : State} (b : ℕ) (m : ℕ) (h : Kept lb may s0 s) (hn : Low lb 0x100200 := by exact ‹Low _ _›.up rfl) (h_fab : may .fab := by assumption) :
    Kept lb may s0 (State.meterCopy s b m) := by
  unfold State.meterCopy
  repeat' (first
    | with_reducible assumption
    | exact ‹Low _ _›.up2 rfl
    | exact ‹Low _ _›.of_le (by decide)
    | (extract_lets +onlyGivenNames x; subst x)
    | with_reducible apply set_kept
    | with_reducible apply setBasin_kept
    | intro v
    | split)

theorem execCheckpointDrainDone_kept {lb : Nat} {may : Part → Prop} {s0 s : State} (b : Fin 10) (h : Kept lb may s0 s) (hn : Low lb 0x100020 := by exact ‹Low _ _›.up rfl) (h_fab : may .fab := by assumption) :
    ∃ out, execCheckpointDrainDone b s = .next out ∧ Kept lb may s0 out := by
  refine ⟨_, rfl, ?_⟩
  repeat' (first
    | with_reducible assumption
    | with_reducible intro v
    | exact ‹Low _ _›.of_le (by decide)
    | with_reducible apply ckptDrained_kept
)

theorem execFadeEnd_kept {lb : Nat} {may : Part → Prop} {s0 s : State} (a0 : Fin 4) (h : Kept lb may s0 s) (hn : Low lb 0x7000c := by exact ‹Low _ _›.up rfl) (h_fab : may .fab := by assumption) (h_stew : may .stew := by assumption) :
    ∃ out, execFadeEnd a0 s = .next out ∧ Kept lb may s0 out := by
  refine ⟨_, rfl, ?_⟩
  repeat' (first
    | with_reducible assumption
    | with_reducible intro v
    | exact ‹Low _ _›.of_le (by decide)
    | with_reducible apply fadeEnd_kept
)

theorem execMeterWindowEnd_kept {lb : Nat} {may : Part → Prop} {s0 s : State} (b : Fin 10) (m : Fin 32) (h : Kept lb may s0 s) (hn : Low lb 0x100200 := by exact ‹Low _ _›.up rfl) (h_fab : may .fab := by assumption) :
    ∃ out, execMeterWindowEnd b m s = .next out ∧ Kept lb may s0 out := by
  refine ⟨_, rfl, ?_⟩
  repeat' (first
    | with_reducible assumption
    | with_reducible intro v
    | exact ‹Low _ _›.of_le (by decide)
    | with_reducible apply meterCopy_kept
)

theorem raiseVfab_kept {lb : Nat} {may : Part → Prop} {s0 s : State} (h : Kept lb may s0 s) (hn : Low lb 0x70024 := by exact ‹Low _ _›.up rfl) (h_stew : may .stew := by assumption) :
    Kept lb may s0 (State.raiseVfab s) := by
  unfold State.raiseVfab
  repeat' (first
    | with_reducible assumption
    | exact ‹Low _ _›.of_le (by decide)
    | (extract_lets +onlyGivenNames x; clear_value x)
    | with_reducible apply set_kept
    | with_reducible apply Kept.with_stew)

theorem execBasinFault_kept {lb : Nat} {may : Part → Prop} {s0 s : State} (b : Fin 10) (canary : Bool) (h : Kept lb may s0 s) (hn : Low lb 0x5c := by exact ‹Low _ _›.up rfl) (h_timers : may .timers := by assumption) (h_tick : may .tick := by assumption) (h_fab : may .fab := by assumption) (h_irq : may .irq := by assumption) (h_aout : may .aout := by assumption) (h_hp : may .hp := by assumption) (h_psc : may .psc := by assumption) (h_stew : may .stew := by assumption) (h_mbx : may .mbx := by assumption) :
    ∃ out, execBasinFault b canary s = .next out ∧ Kept lb may s0 out := by
  refine ⟨_, rfl, ?_⟩
  repeat' (first
    | with_reducible assumption
    | with_reducible intro v
    | exact ‹Low _ _›.of_le (by decide)
    | with_reducible apply raiseVfab_kept
    | with_reducible apply basinFault_kept
    | split)

theorem execShelfReloadDone_kept {lb : Nat} {may : Part → Prop} {s0 s : State} (t : Fin 10) (h : Kept lb may s0 s) (hn : Low lb 0xa0 := by exact ‹Low _ _›.up rfl) (h_timers : may .timers := by assumption) (h_fab : may .fab := by assumption) (h_irq : may .irq := by assumption) (h_aout : may .aout := by assumption) (h_hp : may .hp := by assumption) (h_psc : may .psc := by assumption) (h_stew : may .stew := by assumption) (h_mbx : may .mbx := by assumption) :
    ∃ out, execShelfReloadDone t s = .next out ∧ Kept lb may s0 out := by
  refine ⟨_, rfl, ?_⟩
  repeat' (first
    | with_reducible assumption
    | with_reducible intro v
    | exact ‹Low _ _›.of_le (by decide)
    | with_reducible apply reloadDone_kept
)

theorem execCisternCorrectedError_kept {lb : Nat} {may : Part → Prop} {s0 s : State} (w : BitVec 22) (h : Kept lb may s0 s) (hn : Low lb 0x7000c := by exact ‹Low _ _›.up rfl) (h_fab : may .fab := by assumption) (h_stew : may .stew := by assumption) :
    ∃ out, execCisternCorrectedError w s = .next out ∧ Kept lb may s0 out := by
  refine ⟨_, rfl, ?_⟩
  repeat' (first
    | with_reducible assumption
    | with_reducible intro v
    | exact ‹Low _ _›.of_le (by decide)
    | with_reducible apply cisCorrected_kept
)

theorem execCisternUncorrectableError_kept {lb : Nat} {may : Part → Prop} {s0 s : State} (w : BitVec 22) (h : Kept lb may s0 s) (hn : Low lb 0xa0 := by exact ‹Low _ _›.up rfl) (h_timers : may .timers := by assumption) (h_fab : may .fab := by assumption) (h_irq : may .irq := by assumption) (h_aout : may .aout := by assumption) (h_hp : may .hp := by assumption) (h_psc : may .psc := by assumption) (h_stew : may .stew := by assumption) (h_mbx : may .mbx := by assumption) :
    ∃ out, execCisternUncorrectableError w s = .next out ∧ Kept lb may s0 out := by
  refine ⟨_, rfl, ?_⟩
  repeat' (first
    | with_reducible assumption
    | with_reducible intro v
    | exact ‹Low _ _›.of_le (by decide)
    | with_reducible apply cisUncorrectable_kept
)

theorem execScrub_kept {lb : Nat} {may : Part → Prop} {s0 s : State} (found : Fin 3) (h : Kept lb may s0 s) (hn : Low lb 0xa0 := by exact ‹Low _ _›.up rfl) (h_timers : may .timers := by assumption) (h_fab : may .fab := by assumption) (h_irq : may .irq := by assumption) (h_aout : may .aout := by assumption) (h_hp : may .hp := by assumption) (h_psc : may .psc := by assumption) (h_stew : may .stew := by assumption) (h_mbx : may .mbx := by assumption) :
    ∃ out, execScrub found s = .next out ∧ Kept lb may s0 out := by
  refine ⟨_, rfl, ?_⟩
  repeat' (first
    | with_reducible assumption
    | with_reducible intro v
    | exact ‹Low _ _›.of_le (by decide)
    | (extract_lets +onlyGivenNames x; subst x)
    | with_reducible apply setFab_kept
    | with_reducible apply cisCorrected_kept
    | with_reducible apply cisUncorrectable_kept
    | split
    | (fail_if_no_progress beta_reduce)
    | rfl)

end Sys2Proof.Laws
end

