-- ==== Sys2Proof/Laws/KeptStaging.lean ====
section
/-! SUPPORT. Each operation of Machine/Staging.lean keeps the queue, the time and the invariant. -/

set_option Elab.async false

namespace Sys2Proof.Laws

open Sys2Proof.Machine

theorem readDone_kept {lb : Nat} {may : Part → Prop} {s0 : State} (r : Word × State) (h : Kept lb may s0 r.2) (h_bus : may .bus := by assumption) : Kept lb may s0 (State.readDone r) :=
  h.with_bus _

theorem setTick_kept {lb : Nat} {may : Part → Prop} {s0 s : State} (t : TickSt) (h : Kept lb may s0 s) (h_tick : may .tick := by assumption) :
    Kept lb may s0 (State.setTick s t) := by
  unfold State.setTick
  repeat' (first
    | with_reducible assumption
    | with_reducible apply Kept.with_tick)

theorem setStaged_kept {lb : Nat} {may : Part → Prop} {s0 s : State} (m : Tab Staged) (h : Kept lb may s0 s) (hn : Low lb 0x5c := by exact ‹Low _ _›.up rfl) (h_tick : may .tick := by assumption) :
    Kept lb may s0 (State.setStaged s m) := by
  unfold State.setStaged
  repeat' (first
    | with_reducible assumption
    | exact ‹Low _ _›.of_le (by decide)
    | (extract_lets +onlyGivenNames x; subst x)
    | with_reducible apply set_kept
    | with_reducible apply setTick_kept)

theorem tcCheck_kept {lb : Nat} {may : Part → Prop} {s0 s : State} (a : ℕ) (v : Word) (h : Kept lb may s0 s) (hn : Low lb 0x10f004 := by exact ‹Low _ _›.up rfl) :
    KeptOpt lb may s0 (State.tcCheck s a v) := by
  unfold State.tcCheck
  repeat' (first
    | with_reducible assumption
    | exact ‹Low _ _›.of_le (by decide)
    | with_reducible apply flag_kept
    | with_reducible apply flagIf_kept
    | exact KeptOpt.none
    | with_reducible apply KeptOpt.some
    | split)

theorem enterStaging_kept {lb : Nat} {may : Part → Prop} {s0 s : State} (stew : Bool) (a : ℕ) (mask : Word) (v : Word) (h : Kept lb may s0 s) (hn : Low lb 0x5c := by exact ‹Low _ _›.up rfl) (h_tick : may .tick := by assumption) :
    Kept lb may s0 (State.enterStaging s stew a mask v) := by
  unfold State.enterStaging
  repeat' (first
    | with_reducible assumption
    | exact ‹Low _ _›.of_le (by decide)
    | (extract_lets +onlyGivenNames x; subst x)
    | with_reducible apply setStaged_kept
    | intro v
    | split)

theorem stageNow_kept {lb : Nat} {may : Part → Prop} {s0 s : State} (stew : Bool) (a : ℕ) (v : Word) (h : Kept lb may s0 s) (hn : Low lb 0x5c := by exact ‹Low _ _›.up rfl) (h_tick : may .tick := by assumption) (h_bus : may .bus := by assumption) :
    Kept lb may s0 (State.stageNow s stew a v) := by
  unfold State.stageNow
  repeat' (first
    | with_reducible assumption
    | exact ‹Low _ _›.of_le (by decide)
    | with_reducible apply tcCheck_kept
    | with_reducible apply onBus_kept
    | with_reducible apply enterStaging_kept
    | with_reducible refine KeptOpt.of (by assumption) ?_
    | split)

theorem tcWrite_kept {lb : Nat} {may : Part → Prop} {s0 s : State} (who : Requester) (a : ℕ) (v : Word) (cyc : ℕ) (h : Kept lb may s0 s) (hn : Low lb 0x5c := by exact ‹Low _ _›.up rfl) (h_tick : may .tick := by assumption) (h_bus : may .bus := by assumption) :
    Kept lb may s0 (State.tcWrite s who a v cyc) := by
  unfold State.tcWrite
  repeat' (first
    | with_reducible assumption
    | exact ‹Low _ _›.of_le (by decide)
    | (extract_lets +onlyGivenNames x; clear_value x)
    | with_reducible apply onBus_kept
    | with_reducible apply setTick_kept
    | with_reducible apply stageNow_kept
    | split)

theorem reopenStaging_kept {lb : Nat} {may : Part → Prop} {s0 s : State} (act : ℕ → Word → State → State) (hact : ∀ x0 x1 u, Kept lb may s0 u → Kept lb may s0 (act x0 x1 u)) (h : Kept lb may s0 s) (hn : Low lb 0x5c := by exact ‹Low _ _›.up rfl) (h_tick : may .tick := by assumption) (h_bus : may .bus := by assumption) :
    Kept lb may s0 (State.reopenStaging s act) := by
  unfold State.reopenStaging
  repeat' (first
    | with_reducible assumption
    | exact ‹Low _ _›.of_le (by decide)
    | (extract_lets +onlyGivenNames x; subst x)
    | with_reducible apply stageNow_kept
    | with_reducible apply setTick_kept
    | with_reducible apply hact
    | with_reducible apply Kept.foldl
    | with_reducible apply Kept.foldl_snd
    | with_reducible apply Kept.foldl_fst
    | intro v)

theorem applyStored_kept {lb : Nat} {may : Part → Prop} {s0 s : State} (d : Dom) (h : Kept lb may s0 s) (hn : Low lb 0x0 := by exact ‹Low _ _›.up rfl) (h_tick : may .tick := by assumption) :
    Kept lb may s0 (State.applyStored s d) := by
  unfold State.applyStored
  repeat' (first
    | with_reducible assumption
    | exact ‹Low _ _›.up2 rfl
    | exact ‹Low _ _›.up1 rfl
    | exact ‹Low _ _›.of_le (by decide)
    | exact ‹Low _ _›.of_le (Nat.zero_le _)
    | (extract_lets +onlyGivenNames x; subst x; beta_reduce)
    | with_reducible apply setWord_kept
    | with_reducible apply setTick_kept
    | with_reducible apply Kept.foldl
    | with_reducible apply Kept.foldl_snd
    | with_reducible apply Kept.foldl_fst
    | intro v
    | split)

theorem commitErr_kept {lb : Nat} {may : Part → Prop} {s0 s : State} (cause : ℕ) (h : Kept lb may s0 s) (hn : Low lb 0x5c := by exact ‹Low _ _›.up rfl) :
    Kept lb may s0 (State.commitErr s cause) := by
  unfold State.commitErr
  repeat' (first
    | with_reducible assumption
    | exact ‹Low _ _›.of_le (by decide)
    | with_reducible apply set_kept
    | with_reducible apply flag_kept
)

theorem showCommit_kept {lb : Nat} {may : Part → Prop} {s0 s : State} (h : Kept lb may s0 s) (hn : Low lb 0x5c := by exact ‹Low _ _›.up rfl) :
    Kept lb may s0 (State.showCommit s) := by
  unfold State.showCommit
  repeat' (first
    | with_reducible assumption
    | exact ‹Low _ _›.of_le (by decide)
    | with_reducible apply set_kept
)

theorem cancelArmed_kept {lb : Nat} {may : Part → Prop} {s0 s : State} (h : Kept lb may s0 s) (hn : Low lb 0x5c := by exact ‹Low _ _›.up rfl) (h_tick : may .tick := by assumption) :
    Kept lb may s0 (State.cancelArmed s) := by
  unfold State.cancelArmed
  repeat' (first
    | with_reducible assumption
    | exact ‹Low _ _›.of_le (by decide)
    | (extract_lets +onlyGivenNames x; subst x)
    | with_reducible apply showCommit_kept
    | with_reducible apply commitErr_kept
    | with_reducible apply setTick_kept
    | split)

theorem commitGo_kept {lb : Nat} {may : Part → Prop} {s0 s : State} (cyc : ℕ) (h : Kept lb may s0 s) (hn : Low lb 0x5c := by exact ‹Low _ _›.up rfl) (h_tick : may .tick := by assumption) :
    Kept lb may s0 (State.commitGo s cyc) := by
  unfold State.commitGo
  repeat' (first
    | with_reducible assumption
    | exact ‹Low _ _›.of_le (by decide)
    | (extract_lets +onlyGivenNames x; subst x)
    | with_reducible apply commitErr_kept
    | with_reducible apply showCommit_kept
    | with_reducible apply setTick_kept
    | split)

theorem arm_kept {lb : Nat} {may : Part → Prop} {s0 s : State} (t : TickNo) (cyc : ℕ) (h : Kept lb may s0 s) (hn : Low lb 0x5c := by exact ‹Low _ _›.up rfl) (h_tick : may .tick := by assumption) :
    Kept lb may s0 (State.arm s t cyc) := by
  unfold State.arm
  repeat' (first
    | with_reducible assumption
    | exact ‹Low _ _›.of_le (by decide)
    | (extract_lets +onlyGivenNames x; subst x)
    | with_reducible apply showCommit_kept
    | with_reducible apply setTick_kept
    | with_reducible apply commitErr_kept
    | split)

theorem armWrite_kept {lb : Nat} {may : Part → Prop} {s0 s : State} (lo : Word) (cyc : ℕ) (h : Kept lb may s0 s) (hn : Low lb 0x54 := by exact ‹Low _ _›.up rfl) (h_tick : may .tick := by assumption) :
    Kept lb may s0 (State.armWrite s lo cyc) := by
  unfold State.armWrite
  repeat' (first
    | with_reducible assumption
    | exact ‹Low _ _›.of_le (by decide)
    | (extract_lets +onlyGivenNames x; subst x)
    | with_reducible apply arm_kept
    | with_reducible apply setWord_kept
    | split)

theorem commitWrite_kept {lb : Nat} {may : Part → Prop} {s0 s : State} (v : Word) (cyc : ℕ) (h : Kept lb may s0 s) (hn : Low lb 0x5c := by exact ‹Low _ _›.up rfl) (h_tick : may .tick := by assumption) :
    Kept lb may s0 (State.commitWrite s v cyc) := by
  unfold State.commitWrite
  repeat' (first
    | with_reducible assumption
    | exact ‹Low _ _›.of_le (by decide)
    | (extract_lets +onlyGivenNames x; subst x)
    | with_reducible apply cancelArmed_kept
    | with_reducible apply commitGo_kept
    | split)

theorem readTickLo_kept {lb : Nat} {may : Part → Prop} {s0 s : State} (cyc : ℕ) (h : Kept lb may s0 s) (hn : Low lb 0x44 := by exact ‹Low _ _›.up rfl) :
    Kept lb may s0 (State.readTickLo s cyc).2 := by
  unfold State.readTickLo
  repeat' (first
    | with_reducible assumption
    | exact ‹Low _ _›.of_le (by decide)
    | (extract_lets +onlyGivenNames x; subst x)
    | with_reducible apply setNat_kept)

theorem readLastLo_kept {lb : Nat} {may : Part → Prop} {s0 s : State} (h : Kept lb may s0 s) (hn : Low lb 0x64 := by exact ‹Low _ _›.up rfl) :
    Kept lb may s0 (State.readLastLo s).2 := by
  unfold State.readLastLo
  repeat' (first
    | with_reducible assumption
    | exact ‹Low _ _›.of_le (by decide)
    | (extract_lets +onlyGivenNames x; subst x)
    | with_reducible apply setNat_kept)

theorem execTcStage_kept {lb : Nat} {may : Part → Prop} {s0 s : State} (who : Requester) (a : BitVec 24) (v : Word) (cyc : ℕ) (h : Kept lb may s0 s) (hn : Low lb 0x5c := by exact ‹Low _ _›.up rfl) (h_tick : may .tick := by assumption) (h_bus : may .bus := by assumption) :
    ∃ out, execTcStage who a v cyc s = .next out ∧ Kept lb may s0 out := by
  refine ⟨_, rfl, ?_⟩
  repeat' (first
    | with_reducible assumption
    | with_reducible intro v
    | exact ‹Low _ _›.of_le (by decide)
    | with_reducible apply tcWrite_kept
    | split)

theorem execDevCommitGo_kept {lb : Nat} {may : Part → Prop} {s0 s : State} (cyc : ℕ) (h : Kept lb may s0 s) (hn : Low lb 0x5c := by exact ‹Low _ _›.up rfl) (h_tick : may .tick := by assumption) (h_bus : may .bus := by assumption) :
    ∃ out, execDevCommitGo cyc s = .next out ∧ Kept lb may s0 out := by
  refine ⟨_, rfl, ?_⟩
  repeat' (first
    | with_reducible assumption
    | with_reducible intro v
    | exact ‹Low _ _›.of_le (by decide)
    | with_reducible apply byRow_kept
    | with_reducible apply onBus_kept
    | with_reducible apply commitWrite_kept
)

theorem execDevCommitCancel_kept {lb : Nat} {may : Part → Prop} {s0 s : State} (go : Bool) (cyc : ℕ) (h : Kept lb may s0 s) (hn : Low lb 0x5c := by exact ‹Low _ _›.up rfl) (h_tick : may .tick := by assumption) (h_bus : may .bus := by assumption) :
    ∃ out, execDevCommitCancel go cyc s = .next out ∧ Kept lb may s0 out := by
  refine ⟨_, rfl, ?_⟩
  repeat' (first
    | with_reducible assumption
    | with_reducible intro v
    | exact ‹Low _ _›.of_le (by decide)
    | with_reducible apply byRow_kept
    | with_reducible apply onBus_kept
    | with_reducible apply commitWrite_kept)

theorem execDevCommitAtLoWrite_kept {lb : Nat} {may : Part → Prop} {s0 s : State} (v : Word) (cyc : ℕ) (h : Kept lb may s0 s) (hn : Low lb 0x54 := by exact ‹Low _ _›.up rfl) (h_tick : may .tick := by assumption) (h_bus : may .bus := by assumption) :
    ∃ out, execDevCommitAtLoWrite v cyc s = .next out ∧ Kept lb may s0 out := by
  refine ⟨_, rfl, ?_⟩
  repeat' (first
    | with_reducible assumption
    | with_reducible intro v
    | exact ‹Low _ _›.of_le (by decide)
    | with_reducible apply byRow_kept
    | with_reducible apply onBus_kept
    | with_reducible apply armWrite_kept
)

theorem execDevTickLoRead_kept {lb : Nat} {may : Part → Prop} {s0 s : State} (cyc : ℕ) (h : Kept lb may s0 s) (hn : Low lb 0x44 := by exact ‹Low _ _›.up rfl) (h_bus : may .bus := by assumption) :
    ∃ out, execDevTickLoRead cyc s = .next out ∧ Kept lb may s0 out := by
  refine ⟨_, rfl, ?_⟩
  repeat' (first
    | with_reducible assumption
    | with_reducible intro v
    | exact ‹Low _ _›.of_le (by decide)
    | with_reducible apply byRow_kept
    | with_reducible apply readTickLo_kept
    | with_reducible apply readDone_kept
)

theorem execDevCommitLastLoRead_kept {lb : Nat} {may : Part → Prop} {s0 s : State} (h : Kept lb may s0 s) (hn : Low lb 0x64 := by exact ‹Low _ _›.up rfl) (h_bus : may .bus := by assumption) :
    ∃ out, execDevCommitLastLoRead s = .next out ∧ Kept lb may s0 out := by
  refine ⟨_, rfl, ?_⟩
  repeat' (first
    | with_reducible assumption
    | with_reducible intro v
    | exact ‹Low _ _›.of_le (by decide)
    | with_reducible apply byRow_kept
    | with_reducible apply readLastLo_kept
    | with_reducible apply readDone_kept
)

end Sys2Proof.Laws
end

