-- ==== Sys2Proof/Laws/KeptXing.lean ====
section
/-! SUPPORT. Each operation of Machine/Xing.lean keeps the queue, the time and the invariant. -/

set_option Elab.async false

namespace Sys2Proof.Laws

open Sys2Proof.Machine

theorem setXing_kept {lb : Nat} {may : Part → Prop} {s0 s : State} (n : ℕ) (a2 : XingSt) (h : Kept lb may s0 s) (hn : Low lb 0x20200 := by exact ‹Low _ _›.up rfl) (h_xing : may .xing := by assumption) :
    Kept lb may s0 (State.setXing s n a2) := by
  unfold State.setXing
  repeat' (first
    | with_reducible assumption
    | exact ‹Low _ _›.up1 rfl
    | exact ‹Low _ _›.of_le (by decide)
    | with_reducible apply set_kept
    | intro v
    | with_reducible apply Kept.with_xing)

theorem endAll_kept {lb : Nat} {may : Part → Prop} {s0 s : State} (xs : List Access) (h : Kept lb may s0 s) (h_bus : may .bus := by assumption) :
    Kept lb may s0 (State.endAll s xs) := by
  unfold State.endAll
  repeat' (first
    | with_reducible assumption
    | (extract_lets +onlyGivenNames x; clear_value x)
    | with_reducible apply Kept.with_bus)

theorem xingReset_kept {lb : Nat} {may : Part → Prop} {s0 s : State} (n : ℕ) (h : Kept lb may s0 s) (hn : Low lb 0x20200 := by exact ‹Low _ _›.up rfl) (h_bus : may .bus := by assumption) (h_xing : may .xing := by assumption) :
    Kept lb may s0 (State.xingReset s n) := by
  unfold State.xingReset
  repeat' (first
    | with_reducible assumption
    | exact ‹Low _ _›.up1 rfl
    | exact ‹Low _ _›.of_le (by decide)
    | (extract_lets +onlyGivenNames x; clear_value x)
    | with_reducible apply endAll_kept
    | with_reducible apply setXing_kept
    | with_reducible apply set_kept
    | with_reducible apply count_kept)

theorem xingResetDom_kept {lb : Nat} {may : Part → Prop} {s0 s : State} (d : Dom) (h : Kept lb may s0 s) (hn : Low lb 0x20200 := by exact ‹Low _ _›.up rfl) (h_bus : may .bus := by assumption) (h_xing : may .xing := by assumption) :
    Kept lb may s0 (State.xingResetDom s d) := by
  unfold State.xingResetDom
  repeat' (first
    | with_reducible assumption
    | exact ‹Low _ _›.of_le (by decide)
    | with_reducible apply xingReset_kept
    | with_reducible refine Kept.foldl _ _ _ ?_ fun _ _ _ => ?_
    | with_reducible refine Kept.foldl_snd _ _ _ ?_ fun _ _ _ => ?_
    | with_reducible refine Kept.foldl_fst _ _ _ ?_ fun _ _ _ => ?_
    | intro v
    | split)

theorem xingLog_kept {lb : Nat} {may : Part → Prop} {s0 s : State} (n : ℕ) (dropped : ℕ) (wake : Bool) (h : Kept lb may s0 s) (hn : Low lb 0x20000 := by exact ‹Low _ _›.up rfl) :
    Kept lb may s0 (State.xingLog s n dropped wake) := by
  unfold State.xingLog
  repeat' (first
    | with_reducible assumption
    | exact ‹Low _ _›.up1 rfl
    | exact ‹Low _ _›.of_le (by decide)
    | with_reducible apply flag_kept
    | with_reducible apply count_kept
    | with_reducible apply set_kept
)

theorem setPwr_kept {lb : Nat} {may : Part → Prop} {s0 s : State} (a1 : PwrSt) (h : Kept lb may s0 s) (h_pwr : may .pwr := by assumption) :
    Kept lb may s0 (State.setPwr s a1) := by
  unfold State.setPwr
  repeat' (first
    | with_reducible assumption
    | with_reducible apply Kept.with_pwr)

theorem ungate_kept {lb : Nat} {may : Part → Prop} {s0 s : State} (d : Dom) (h : Kept lb may s0 s) (h_pwr : may .pwr := by assumption) :
    Kept lb may s0 (State.ungate s d) := by
  unfold State.ungate
  repeat' (first
    | with_reducible assumption
    | (extract_lets +onlyGivenNames x; subst x)
    | with_reducible apply setPwr_kept
    | split)

theorem xingPulse_kept {lb : Nat} {may : Part → Prop} {s0 s : State} (n : ℕ) (src : ℕ) (more : ℕ) (h : Kept lb may s0 s) (hn : Low lb 0x20000 := by exact ‹Low _ _›.up rfl) (h_irq : may .irq := by assumption) :
    Kept lb may s0 (State.xingPulse s n src more) := by
  unfold State.xingPulse
  repeat' (first
    | with_reducible assumption
    | exact ‹Low _ _›.up1 rfl
    | exact ‹Low _ _›.of_le (by decide)
    | (extract_lets +onlyGivenNames x; subst x)
    | with_reducible apply pulse_kept
    | with_reducible apply flag_kept
    | split)

theorem pulseAt_kept {lb : Nat} {may : Part → Prop} {s0 s : State} (n : ℕ) (src : ℕ) (more : ℕ) (h : Kept lb may s0 s) (hn : Low lb 0x20000 := by exact ‹Low _ _›.up rfl) (h_irq : may .irq := by assumption) :
    Kept lb may s0 (State.pulseAt s n src more) := by
  unfold State.pulseAt
  repeat' (first
    | with_reducible assumption
    | exact ‹Low _ _›.up1 rfl
    | exact ‹Low _ _›.of_le (by decide)
    | with_reducible apply count_kept
    | with_reducible apply xingPulse_kept
    | split)

theorem execPulseDelivery_kept {lb : Nat} {may : Part → Prop} {s0 s : State} (n : Fin 28) (src : Fin 256) (more : ℕ) (h : Kept lb may s0 s) (hn : Low lb 0x20000 := by exact ‹Low _ _›.up rfl) (h_irq : may .irq := by assumption) :
    ∃ out, execPulseDelivery n src more s = .next out ∧ Kept lb may s0 out := by
  refine ⟨_, rfl, ?_⟩
  repeat' (first
    | with_reducible assumption
    | with_reducible intro v
    | exact ‹Low _ _›.of_le (by decide)
    | with_reducible apply pulseAt_kept
)

end Sys2Proof.Laws
end

