-- ==== Sys2Proof/Laws/KeptLsn.lean ====
section
/-! SUPPORT. Each operation of Machine/Lsn.lean keeps the queue, the time and the invariant. -/

set_option Elab.async false

namespace Sys2Proof.Laws

open Sys2Proof.Machine

theorem setLsn_kept {lb : Nat} {may : Part → Prop} {s0 s : State} (l : LsnSt) (h : Kept lb may s0 s) (h_lsn : may .lsn := by assumption) :
    Kept lb may s0 (State.setLsn s l) := by
  unfold State.setLsn
  repeat' (first
    | with_reducible assumption
    | with_reducible apply Kept.with_lsn)

theorem showStage_kept {lb : Nat} {may : Part → Prop} {s0 s : State} (h : Kept lb may s0 s) (hn : Low lb 0x190004 := by exact ‹Low _ _›.up rfl) :
    Kept lb may s0 (State.showStage s) := by
  unfold State.showStage
  repeat' (first
    | with_reducible assumption
    | exact ‹Low _ _›.of_le (by decide)
    | with_reducible apply set_kept)

theorem lsnPower_kept {lb : Nat} {may : Part → Prop} {s0 s : State} (h : Kept lb may s0 s) (hn : Low lb 0x0 := by exact ‹Low _ _›.up rfl) (h_tick : may .tick := by assumption) (h_bus : may .bus := by assumption) (h_xing : may .xing := by assumption) :
    Kept lb may s0 (State.lsnPower s) := by
  unfold State.lsnPower
  repeat' (first
    | with_reducible assumption
    | exact ‹Low _ _›.of_le (by decide)
    | exact ‹Low _ _›.of_le (Nat.zero_le _)
    | (extract_lets +onlyGivenNames x; clear_value x)
    | with_reducible apply applyStored_kept
    | with_reducible apply setDom_kept
    | with_reducible apply xingResetDom_kept
    | split)

theorem lsnClock_kept {lb : Nat} {may : Part → Prop} {s0 s : State} (h : Kept lb may s0 s) (hn : Low lb 0x190004 := by exact ‹Low _ _›.up rfl) :
    Kept lb may s0 (State.lsnClock s) := by
  unfold State.lsnClock
  repeat' (first
    | with_reducible assumption
    | exact ‹Low _ _›.of_le (by decide)
    | with_reducible apply set_kept
)

theorem putFrames_kept {lb : Nat} {may : Part → Prop} {s0 s : State} (n : ℕ) (h : Kept lb may s0 s) (h_lsn : may .lsn := by assumption) :
    Kept lb may s0 (State.putFrames s n) := by
  unfold State.putFrames
  repeat' (first
    | with_reducible assumption
    | (extract_lets +onlyGivenNames x; clear_value x)
    | with_reducible apply setLsn_kept)

theorem featureMs_kept {lb : Nat} {may : Part → Prop} {s0 s : State} (h : Kept lb may s0 s) (h_lsn : may .lsn := by assumption) :
    Kept lb may s0 (State.featureMs s) := by
  unfold State.featureMs
  repeat' (first
    | with_reducible assumption
    | (extract_lets +onlyGivenNames x; clear_value x)
    | with_reducible apply setLsn_kept
    | with_reducible apply putFrames_kept
    | split)

theorem putTemplate_kept {lb : Nat} {may : Part → Prop} {s0 s : State} (t : ℕ) (bs : List Byte) (h : Kept lb may s0 s) (hn : Low lb 0x190030 := by exact ‹Low _ _›.up rfl) (h_lsn : may .lsn := by assumption) :
    Kept lb may s0 (State.putTemplate s t bs) := by
  unfold State.putTemplate
  repeat' (first
    | with_reducible assumption
    | exact ‹Low _ _›.up1 rfl
    | exact ‹Low _ _›.of_le (by decide)
    | (extract_lets +onlyGivenNames x; subst x)
    | with_reducible apply set_kept
    | with_reducible apply setLsn_kept)

theorem storeTemplate_kept {lb : Nat} {may : Part → Prop} {s0 s : State} (t : ℕ) (bs : List Byte) (h : Kept lb may s0 s) (hn : Low lb 0x190030 := by exact ‹Low _ _›.up rfl) (h_lsn : may .lsn := by assumption) :
    Kept lb may s0 (State.storeTemplate s t bs) := by
  unfold State.storeTemplate
  repeat' (first
    | with_reducible assumption
    | exact ‹Low _ _›.of_le (by decide)
    | (extract_lets +onlyGivenNames x; subst x)
    | with_reducible apply setLsn_kept
    | with_reducible apply putTemplate_kept
    | intro v
    | split)

theorem stagesEnd_kept {lb : Nat} {may : Part → Prop} {s0 s : State} (h : Kept lb may s0 s) (hn : Low lb 0x0 := by exact ‹Low _ _›.up rfl) (h_timers : may .timers := by assumption) (h_tick : may .tick := by assumption) (h_bus : may .bus := by assumption) (h_lsn : may .lsn := by assumption) (h_xing : may .xing := by assumption) :
    Kept lb may s0 (State.stagesEnd s) := by
  unfold State.stagesEnd
  repeat' (first
    | with_reducible assumption
    | exact ‹Low _ _›.of_le (by decide)
    | (extract_lets +onlyGivenNames x; subst x)
    | with_reducible apply stopTimer_kept
    | with_reducible apply setLsn_kept
    | with_reducible apply putTemplate_kept
    | with_reducible apply showStage_kept
    | with_reducible apply lsnPower_kept
    | with_reducible apply Kept.foldl
    | with_reducible apply Kept.foldl_snd
    | with_reducible apply Kept.foldl_fst
    | intro v)

theorem matchNow_kept {lb : Nat} {may : Part → Prop} {s0 s : State} (m : MatchInfo) (h : Kept lb may s0 s) (hn : Low lb 0x0 := by exact ‹Low _ _›.up rfl) (h_timers : may .timers := by assumption) (h_tick : may .tick := by assumption) (h_bus : may .bus := by assumption) (h_lsn : may .lsn := by assumption) (h_xing : may .xing := by assumption) :
    Kept lb may s0 (State.matchNow s m) := by
  unfold State.matchNow
  repeat' (first
    | with_reducible assumption
    | exact ‹Low _ _›.of_le (by decide)
    | (extract_lets +onlyGivenNames x; subst x)
    | with_reducible apply flag_kept
    | with_reducible apply set_kept
    | with_reducible apply stagesEnd_kept
    | with_reducible apply startTimer_kept
    | with_reducible apply setLsn_kept)

theorem matchPassed_kept {lb : Nat} {may : Part → Prop} {s0 s : State} (t : Option ℕ) (score : Option ℕ) (h : Kept lb may s0 s) (hn : Low lb 0x0 := by exact ‹Low _ _›.up rfl) (h_free : may .free := by assumption) (h_timers : may .timers := by assumption) (h_tick : may .tick := by assumption) (h_bus : may .bus := by assumption) (h_lsn : may .lsn := by assumption) (h_xing : may .xing := by assumption) :
    Kept lb may s0 (State.matchPassed s t score) := by
  unfold State.matchPassed
  repeat' (first
    | with_reducible assumption
    | exact ‹Low _ _›.of_le (by decide)
    | (extract_lets +onlyGivenNames x; subst x; beta_reduce)
    | with_reducible apply matchNow_kept
    | intro v
    | with_reducible apply Kept.with_free)

theorem startW3_kept {lb : Nat} {may : Part → Prop} {s0 s : State} (t : Option ℕ) (score : Option ℕ) (h : Kept lb may s0 s) (hn : Low lb 0x0 := by exact ‹Low _ _›.up rfl) (h_free : may .free := by assumption) (h_timers : may .timers := by assumption) (h_tick : may .tick := by assumption) (h_bus : may .bus := by assumption) (h_lsn : may .lsn := by assumption) (h_xing : may .xing := by assumption) :
    Kept lb may s0 (State.startW3 s t score) := by
  unfold State.startW3
  repeat' (first
    | with_reducible assumption
    | exact ‹Low _ _›.of_le (by decide)
    | exact ‹Low _ _›.of_le (Nat.zero_le _)
    | (extract_lets +onlyGivenNames x; clear_value x)
    | with_reducible apply showStage_kept
    | with_reducible apply lsnPower_kept
    | with_reducible apply flag_kept
    | with_reducible apply startTimer_kept
    | with_reducible apply stopTimer_kept
    | with_reducible apply setLsn_kept
    | with_reducible apply matchPassed_kept
    | split)

theorem w1Frame_kept {lb : Nat} {may : Part → Prop} {s0 s : State} (h : Kept lb may s0 s) (h_lsn : may .lsn := by assumption) :
    Kept lb may s0 (State.w1Frame s) := by
  unfold State.w1Frame
  repeat' (first
    | with_reducible assumption
    | (extract_lets +onlyGivenNames x; clear_value x)
    | with_reducible apply setLsn_kept)

theorem w1Tick_kept {lb : Nat} {may : Part → Prop} {s0 s : State} (h : Kept lb may s0 s) (h_lsn : may .lsn := by assumption) :
    Kept lb may s0 (State.w1Tick s) := by
  unfold State.w1Tick
  repeat' (first
    | with_reducible assumption
    | (extract_lets +onlyGivenNames x; clear_value x)
    | with_reducible apply setLsn_kept
    | with_reducible apply w1Frame_kept
    | split)

theorem w1Fire_kept {lb : Nat} {may : Part → Prop} {s0 s : State} (h : Kept lb may s0 s) (hn : Low lb 0x0 := by exact ‹Low _ _›.up rfl) (h_free : may .free := by assumption) (h_timers : may .timers := by assumption) (h_tick : may .tick := by assumption) (h_bus : may .bus := by assumption) (h_lsn : may .lsn := by assumption) (h_xing : may .xing := by assumption) :
    Kept lb may s0 (State.w1Fire s) := by
  unfold State.w1Fire
  repeat' (first
    | with_reducible assumption
    | exact ‹Low _ _›.of_le (by decide)
    | exact ‹Low _ _›.of_le (Nat.zero_le _)
    | (extract_lets +onlyGivenNames x; clear_value x)
    | with_reducible apply putFrames_kept
    | with_reducible apply showStage_kept
    | with_reducible apply lsnPower_kept
    | with_reducible apply flag_kept
    | with_reducible apply startTimer_kept
    | with_reducible apply setLsn_kept
    | with_reducible apply startW3_kept
    | split)

theorem w2Fire_kept {lb : Nat} {may : Part → Prop} {s0 s : State} (t : ℕ) (path : List (ℕ × ℕ)) (h : Kept lb may s0 s) (hn : Low lb 0x0 := by exact ‹Low _ _›.up rfl) (h_free : may .free := by assumption) (h_timers : may .timers := by assumption) (h_tick : may .tick := by assumption) (h_bus : may .bus := by assumption) (h_lsn : may .lsn := by assumption) (h_xing : may .xing := by assumption) :
    Kept lb may s0 (State.w2Fire s t path) := by
  unfold State.w2Fire
  repeat' (first
    | with_reducible assumption
    | exact ‹Low _ _›.of_le (by decide)
    | exact ‹Low _ _›.of_le (Nat.zero_le _)
    | (extract_lets +onlyGivenNames x; clear_value x)
    | with_reducible apply startW3_kept
    | split)

theorem w2Timeout_kept {lb : Nat} {may : Part → Prop} {s0 s : State} (h : Kept lb may s0 s) (hn : Low lb 0x0 := by exact ‹Low _ _›.up rfl) (h_timers : may .timers := by assumption) (h_tick : may .tick := by assumption) (h_bus : may .bus := by assumption) (h_lsn : may .lsn := by assumption) (h_xing : may .xing := by assumption) :
    Kept lb may s0 (State.w2Timeout s) := by
  unfold State.w2Timeout
  repeat' (first
    | with_reducible assumption
    | exact ‹Low _ _›.of_le (by decide)
    | with_reducible apply stagesEnd_kept
    | split)

theorem w3End_kept {lb : Nat} {may : Part → Prop} {s0 s : State} (h : Kept lb may s0 s) (hn : Low lb 0x0 := by exact ‹Low _ _›.up rfl) (h_timers : may .timers := by assumption) (h_tick : may .tick := by assumption) (h_bus : may .bus := by assumption) (h_lsn : may .lsn := by assumption) (h_xing : may .xing := by assumption) :
    Kept lb may s0 (State.w3End s) := by
  unfold State.w3End
  repeat' (first
    | with_reducible assumption
    | exact ‹Low _ _›.of_le (by decide)
    | with_reducible apply flag_kept
    | with_reducible apply stagesEnd_kept
    | split)

theorem stagesAbandon_kept {lb : Nat} {may : Part → Prop} {s0 s : State} (h : Kept lb may s0 s) (hn : Low lb 0x0 := by exact ‹Low _ _›.up rfl) (h_timers : may .timers := by assumption) (h_tick : may .tick := by assumption) (h_bus : may .bus := by assumption) (h_lsn : may .lsn := by assumption) (h_xing : may .xing := by assumption) :
    Kept lb may s0 (State.stagesAbandon s) := by
  unfold State.stagesAbandon
  repeat' (first
    | with_reducible assumption
    | exact ‹Low _ _›.of_le (by decide)
    | (extract_lets +onlyGivenNames x; subst x)
    | with_reducible apply flagIf_kept
    | with_reducible apply stagesEnd_kept)

theorem releaseRing_kept {lb : Nat} {may : Part → Prop} {s0 s : State} (h : Kept lb may s0 s) (hn : Low lb 0x190004 := by exact ‹Low _ _›.up rfl) (h_timers : may .timers := by assumption) (h_lsn : may .lsn := by assumption) :
    Kept lb may s0 (State.releaseRing s) := by
  unfold State.releaseRing
  repeat' (first
    | with_reducible assumption
    | exact ‹Low _ _›.of_le (by decide)
    | (extract_lets +onlyGivenNames x; subst x)
    | with_reducible apply set_kept
    | with_reducible apply stopTimer_kept
    | with_reducible apply setLsn_kept)

theorem autoRelease_kept {lb : Nat} {may : Part → Prop} {s0 s : State} (h : Kept lb may s0 s) (hn : Low lb 0x190004 := by exact ‹Low _ _›.up rfl) (h_timers : may .timers := by assumption) (h_lsn : may .lsn := by assumption) :
    Kept lb may s0 (State.autoRelease s) := by
  unfold State.autoRelease
  repeat' (first
    | with_reducible assumption
    | exact ‹Low _ _›.of_le (by decide)
    | (extract_lets +onlyGivenNames x; subst x)
    | with_reducible apply releaseRing_kept
    | split)

theorem preRead_kept {lb : Nat} {may : Part → Prop} {s0 s : State} (h : Kept lb may s0 s) (h_free : may .free := by assumption) (h_lsn : may .lsn := by assumption) :
    Kept lb may s0 (State.preRead s).2 := by
  unfold State.preRead
  repeat' (first
    | with_reducible assumption
    | (extract_lets +onlyGivenNames x; subst x)
    | with_reducible apply setLsn_kept
    | with_reducible apply drawn_kept
    | split)

theorem preCtl_kept {lb : Nat} {may : Part → Prop} {s0 s : State} (v : Word) (h : Kept lb may s0 s) (hn : Low lb 0x190004 := by exact ‹Low _ _›.up rfl) (h_timers : may .timers := by assumption) (h_lsn : may .lsn := by assumption) :
    Kept lb may s0 (State.preCtl s v) := by
  unfold State.preCtl
  repeat' (first
    | with_reducible assumption
    | exact ‹Low _ _›.of_le (by decide)
    | (extract_lets +onlyGivenNames x; subst x)
    | with_reducible apply setLsn_kept
    | with_reducible apply releaseRing_kept
    | split)

theorem setBeam_kept {lb : Nat} {may : Part → Prop} {s0 s : State} (b : ℕ) (a2 : Beam) (h : Kept lb may s0 s) (h_lsn : may .lsn := by assumption) :
    Kept lb may s0 (State.setBeam s b a2) := by
  unfold State.setBeam
  repeat' (first
    | with_reducible assumption
    | (extract_lets +onlyGivenNames x; subst x)
    | with_reducible apply setLsn_kept)

theorem lsnCfgErr_kept {lb : Nat} {may : Part → Prop} {s0 s : State} (h : Kept lb may s0 s) (hn : Low lb 0x190004 := by exact ‹Low _ _›.up rfl) :
    Kept lb may s0 (State.lsnCfgErr s) := by
  unfold State.lsnCfgErr
  repeat' (first
    | with_reducible assumption
    | exact ‹Low _ _›.of_le (by decide)
    | with_reducible apply set_kept
)

theorem beamTake_kept {lb : Nat} {may : Part → Prop} {s0 s : State} (ext : Tab Word) (b : ℕ) (h : Kept lb may s0 s) (h_lsn : may .lsn := by assumption) :
    Kept lb may s0 (State.beamTake ext s b) := by
  unfold State.beamTake
  repeat' (first
    | with_reducible assumption
    | (extract_lets +onlyGivenNames x; clear_value x)
    | with_reducible apply setBeam_kept
    | split)

theorem beamTick_kept {lb : Nat} {may : Part → Prop} {s0 s : State} (b : ℕ) (h : Kept lb may s0 s) (h_lsn : may .lsn := by assumption) :
    Kept lb may s0 (State.beamTick s b) := by
  unfold State.beamTick
  repeat' (first
    | with_reducible assumption
    | (extract_lets +onlyGivenNames x; clear_value x)
    | with_reducible apply setBeam_kept
    | split)

theorem checkVoid_kept {lb : Nat} {may : Part → Prop} {s0 s : State} (h : Kept lb may s0 s) (hn : Low lb 0x190008 := by exact ‹Low _ _›.up rfl) (h_lsn : may .lsn := by assumption) :
    Kept lb may s0 (State.checkVoid s) := by
  unfold State.checkVoid
  repeat' (first
    | with_reducible assumption
    | exact ‹Low _ _›.of_le (by decide)
    | (extract_lets +onlyGivenNames x; subst x)
    | with_reducible apply flag_kept
    | with_reducible apply set_kept
    | with_reducible apply setLsn_kept
    | split)

theorem beamFollow_kept {lb : Nat} {may : Part → Prop} {s0 s : State} (b : ℕ) (h : Kept lb may s0 s) (hn : Low lb 0x190008 := by exact ‹Low _ _›.up rfl) (h_lsn : may .lsn := by assumption) :
    Kept lb may s0 (State.beamFollow s b) := by
  unfold State.beamFollow
  repeat' (first
    | with_reducible assumption
    | exact ‹Low _ _›.of_le (by decide)
    | (extract_lets +onlyGivenNames x; subst x)
    | with_reducible apply setBeam_kept
    | with_reducible apply checkVoid_kept
    | split)

theorem checkOpen_kept {lb : Nat} {may : Part → Prop} {s0 s : State} (h : Kept lb may s0 s) (hn : Low lb 0x190404 := by exact ‹Low _ _›.up rfl) (h_lsn : may .lsn := by assumption) :
    Kept lb may s0 (State.checkOpen s) := by
  unfold State.checkOpen
  repeat' (first
    | with_reducible assumption
    | exact ‹Low _ _›.up1 rfl
    | exact ‹Low _ _›.of_le (by decide)
    | (extract_lets +onlyGivenNames x; subst x)
    | with_reducible apply set_kept
    | with_reducible apply setWord_kept
    | with_reducible apply setLsn_kept
    | with_reducible apply Kept.foldl
    | with_reducible apply Kept.foldl_snd
    | with_reducible apply Kept.foldl_fst
    | intro v
    | split)

theorem checkTick_kept {lb : Nat} {may : Part → Prop} {s0 s : State} (v : Word) (h : Kept lb may s0 s) (hn : Low lb 0x190008 := by exact ‹Low _ _›.up rfl) (h_lsn : may .lsn := by assumption) :
    Kept lb may s0 (State.checkTick s v) := by
  unfold State.checkTick
  repeat' (first
    | with_reducible assumption
    | exact ‹Low _ _›.of_le (by decide)
    | (extract_lets +onlyGivenNames x; subst x)
    | with_reducible apply checkVoid_kept
    | with_reducible apply set_kept
    | with_reducible apply setLsn_kept
    | split)

theorem checkDone_kept {lb : Nat} {may : Part → Prop} {s0 s : State} (levels : List (BitVec 16)) (h : Kept lb may s0 s) (hn : Low lb 0x190008 := by exact ‹Low _ _›.up rfl) (h_lsn : may .lsn := by assumption) :
    Kept lb may s0 (State.checkDone s levels) := by
  unfold State.checkDone
  repeat' (first
    | with_reducible assumption
    | exact ‹Low _ _›.up1 rfl
    | exact ‹Low _ _›.of_le (by decide)
    | (extract_lets +onlyGivenNames x; subst x)
    | with_reducible apply set_kept
    | with_reducible apply flag_kept
    | with_reducible apply setLsn_kept
    | with_reducible apply Kept.foldl
    | with_reducible apply Kept.foldl_snd
    | with_reducible apply Kept.foldl_fst
    | intro v
    | split)

theorem lsnFollowAll_kept {lb : Nat} {may : Part → Prop} {s0 s : State} (h : Kept lb may s0 s) (hn : Low lb 0x0 := by exact ‹Low _ _›.up rfl) (h_timers : may .timers := by assumption) (h_tick : may .tick := by assumption) (h_bus : may .bus := by assumption) (h_lsn : may .lsn := by assumption) (h_xing : may .xing := by assumption) :
    Kept lb may s0 (State.lsnFollowAll s) := by
  unfold State.lsnFollowAll
  repeat' (first
    | with_reducible assumption
    | exact ‹Low _ _›.of_le (by decide)
    | (extract_lets +onlyGivenNames x; subst x)
    | with_reducible apply lsnCfgErr_kept
    | with_reducible apply lsnClock_kept
    | with_reducible apply lsnPower_kept
    | with_reducible apply stagesEnd_kept
    | with_reducible apply w3End_kept
    | with_reducible apply showStage_kept
    | with_reducible apply checkOpen_kept
    | with_reducible apply beamFollow_kept
    | with_reducible apply Kept.foldl
    | with_reducible apply Kept.foldl_snd
    | with_reducible apply Kept.foldl_fst
    | intro v
    | split)

theorem execW2Timeout_kept {lb : Nat} {may : Part → Prop} {s0 s : State} (h : Kept lb may s0 s) (hn : Low lb 0x0 := by exact ‹Low _ _›.up rfl) (h_timers : may .timers := by assumption) (h_tick : may .tick := by assumption) (h_bus : may .bus := by assumption) (h_lsn : may .lsn := by assumption) (h_xing : may .xing := by assumption) :
    ∃ out, execW2Timeout s = .next out ∧ Kept lb may s0 out := by
  refine ⟨_, rfl, ?_⟩
  repeat' (first
    | with_reducible assumption
    | with_reducible intro v
    | exact ‹Low _ _›.of_le (by decide)
    | with_reducible apply w2Timeout_kept
)

theorem execW3End_kept {lb : Nat} {may : Part → Prop} {s0 s : State} (h : Kept lb may s0 s) (hn : Low lb 0x0 := by exact ‹Low _ _›.up rfl) (h_timers : may .timers := by assumption) (h_tick : may .tick := by assumption) (h_bus : may .bus := by assumption) (h_lsn : may .lsn := by assumption) (h_xing : may .xing := by assumption) :
    ∃ out, execW3End s = .next out ∧ Kept lb may s0 out := by
  refine ⟨_, rfl, ?_⟩
  repeat' (first
    | with_reducible assumption
    | with_reducible intro v
    | exact ‹Low _ _›.of_le (by decide)
    | with_reducible apply w3End_kept
)

theorem execAutorel_kept {lb : Nat} {may : Part → Prop} {s0 s : State} (h : Kept lb may s0 s) (hn : Low lb 0x190004 := by exact ‹Low _ _›.up rfl) (h_timers : may .timers := by assumption) (h_lsn : may .lsn := by assumption) :
    ∃ out, execAutorel s = .next out ∧ Kept lb may s0 out := by
  refine ⟨_, rfl, ?_⟩
  repeat' (first
    | with_reducible assumption
    | with_reducible intro v
    | exact ‹Low _ _›.of_le (by decide)
    | with_reducible apply autoRelease_kept
)

theorem execPreRollRelease_kept {lb : Nat} {may : Part → Prop} {s0 s : State} (h : Kept lb may s0 s) (hn : Low lb 0x190004 := by exact ‹Low _ _›.up rfl) (h_timers : may .timers := by assumption) (h_bus : may .bus := by assumption) (h_lsn : may .lsn := by assumption) :
    ∃ out, execPreRollRelease s = .next out ∧ Kept lb may s0 out := by
  refine ⟨_, rfl, ?_⟩
  repeat' (first
    | with_reducible assumption
    | with_reducible intro v
    | exact ‹Low _ _›.of_le (by decide)
    | with_reducible apply byRow_kept
    | with_reducible apply onBus_kept
    | with_reducible apply preCtl_kept
)

theorem execRewind_kept {lb : Nat} {may : Part → Prop} {s0 s : State} (h : Kept lb may s0 s) (hn : Low lb 0x190004 := by exact ‹Low _ _›.up rfl) (h_timers : may .timers := by assumption) (h_bus : may .bus := by assumption) (h_lsn : may .lsn := by assumption) :
    ∃ out, execRewind s = .next out ∧ Kept lb may s0 out := by
  refine ⟨_, rfl, ?_⟩
  repeat' (first
    | with_reducible assumption
    | with_reducible intro v
    | exact ‹Low _ _›.of_le (by decide)
    | with_reducible apply byRow_kept
    | with_reducible apply onBus_kept
    | with_reducible apply preCtl_kept
)

theorem execLsnPreDataRead_kept {lb : Nat} {may : Part → Prop} {s0 s : State} (h : Kept lb may s0 s) (h_free : may .free := by assumption) (h_bus : may .bus := by assumption) (h_lsn : may .lsn := by assumption) :
    ∃ out, execLsnPreDataRead s = .next out ∧ Kept lb may s0 out := by
  refine ⟨_, rfl, ?_⟩
  repeat' (first
    | with_reducible assumption
    | with_reducible intro v
    | with_reducible apply byRow_kept
    | with_reducible apply preRead_kept
    | with_reducible apply readDone_kept
)

theorem execChkDone_kept {lb : Nat} {may : Part → Prop} {s0 s : State} (levels : List (BitVec 16)) (h : Kept lb may s0 s) (hn : Low lb 0x190008 := by exact ‹Low _ _›.up rfl) (h_lsn : may .lsn := by assumption) :
    ∃ out, execChkDone levels s = .next out ∧ Kept lb may s0 out := by
  refine ⟨_, rfl, ?_⟩
  repeat' (first
    | with_reducible assumption
    | with_reducible intro v
    | exact ‹Low _ _›.of_le (by decide)
    | with_reducible apply checkDone_kept
)

end Sys2Proof.Laws
end

