-- ==== Sys2Proof/Laws/KeptIrq.lean ====
section
/-! SUPPORT. Each operation of Machine/Irq.lean keeps the queue, the time and the invariant. -/

set_option Elab.async false

namespace Sys2Proof.Laws

open Sys2Proof.Machine

theorem setIrq_kept {lb : Nat} {may : Part → Prop} {s0 s : State} (q : IrqSt) (h : Kept lb may s0 s) (h_irq : may .irq := by assumption) :
    Kept lb may s0 (State.setIrq s q) := by
  unfold State.setIrq
  repeat' (first
    | with_reducible assumption
    | with_reducible apply Kept.with_irq)

theorem followLevels_kept {lb : Nat} {may : Part → Prop} {s0 s : State} (h : Kept lb may s0 s) (h_irq : may .irq := by assumption) :
    Kept lb may s0 (State.followLevels s) := by
  unfold State.followLevels
  repeat' (first
    | with_reducible assumption
    | with_reducible apply followLevel_kept
    | with_reducible apply Kept.foldl
    | intro v)

theorem dropWake_kept {lb : Nat} {may : Part → Prop} {s0 s : State} (t : ℕ) (h : Kept lb may s0 s) (hn : Low lb 0x40008 := by exact ‹Low _ _›.up rfl) (h_irq : may .irq := by assumption) :
    Kept lb may s0 (State.dropWake s t) := by
  unfold State.dropWake
  repeat' (first
    | with_reducible assumption
    | exact ‹Low _ _›.of_le (by decide)
    | (extract_lets +onlyGivenNames x; subst x)
    | with_reducible apply set_kept
    | with_reducible apply setIrq_kept
    | split)

theorem takeSource_kept {lb : Nat} {may : Part → Prop} {s0 s : State} (n : ℕ) (t : ℕ) (h : Kept lb may s0 s) (hn : Low lb 0x40008 := by exact ‹Low _ _›.up rfl) (h_irq : may .irq := by assumption) :
    Kept lb may s0 (State.takeSource s n t).2 := by
  unfold State.takeSource
  repeat' (first
    | with_reducible assumption
    | exact ‹Low _ _›.up1 rfl
    | exact ‹Low _ _›.of_le (by decide)
    | (extract_lets +onlyGivenNames x; subst x)
    | with_reducible apply setWord_kept
    | with_reducible apply setGate_kept
    | with_reducible apply dropWake_kept
    | split)

theorem claim_kept {lb : Nat} {may : Part → Prop} {s0 s : State} (t : ℕ) (h : Kept lb may s0 s) (hn : Low lb 0x40008 := by exact ‹Low _ _›.up rfl) (h_irq : may .irq := by assumption) :
    Kept lb may s0 (State.claim s t).2 := by
  unfold State.claim
  repeat' (first
    | with_reducible assumption
    | exact ‹Low _ _›.of_le (by decide)
    | (extract_lets +onlyGivenNames x; subst x)
    | with_reducible apply followLevels_kept
    | with_reducible apply takeSource_kept
    | split)

theorem completeSource_kept {lb : Nat} {may : Part → Prop} {s0 s : State} (n : ℕ) (t : ℕ) (h : Kept lb may s0 s) (hn : Low lb 0x40004 := by exact ‹Low _ _›.up rfl) (h_irq : may .irq := by assumption) :
    Kept lb may s0 (State.completeSource s n t) := by
  unfold State.completeSource
  repeat' (first
    | with_reducible assumption
    | exact ‹Low _ _›.of_le (by decide)
    | (extract_lets +onlyGivenNames x; subst x)
    | with_reducible apply setGate_kept
    | with_reducible apply flag_kept
    | split)

theorem raiseWakes_kept {lb : Nat} {may : Part → Prop} {s0 s : State} (h : Kept lb may s0 s) (hn : Low lb 0x40008 := by exact ‹Low _ _›.up rfl) (h_irq : may .irq := by assumption) :
    Kept lb may s0 (State.raiseWakes s) := by
  unfold State.raiseWakes
  repeat' (first
    | with_reducible assumption
    | exact ‹Low _ _›.of_le (by decide)
    | (extract_lets +onlyGivenNames x; subst x)
    | with_reducible apply dropWake_kept
    | with_reducible apply set_kept
    | with_reducible apply setIrq_kept
    | intro v
    | split)

theorem evaluateIrq_kept {lb : Nat} {may : Part → Prop} {s0 s : State} (h : Kept lb may s0 s) (hn : Low lb 0x40008 := by exact ‹Low _ _›.up rfl) (h_irq : may .irq := by assumption) :
    Kept lb may s0 (State.evaluateIrq s) := by
  unfold State.evaluateIrq
  repeat' (first
    | with_reducible assumption
    | exact ‹Low _ _›.of_le (by decide)
    | (extract_lets +onlyGivenNames x; subst x)
    | with_reducible apply raiseWakes_kept
    | with_reducible apply followLevels_kept
    | with_reducible apply setIrq_kept
    | split)

theorem irqPowerUp_kept {lb : Nat} {may : Part → Prop} {s0 s : State} (h : Kept lb may s0 s) (hn : Low lb 0x40008 := by exact ‹Low _ _›.up rfl) (h_irq : may .irq := by assumption) :
    Kept lb may s0 (State.irqPowerUp s) := by
  unfold State.irqPowerUp
  repeat' (first
    | with_reducible assumption
    | exact ‹Low _ _›.of_le (by decide)
    | with_reducible apply set_kept
    | with_reducible apply setIrq_kept
)

theorem execIcClaim_kept {lb : Nat} {may : Part → Prop} {s0 s : State} (t : Fin 4) (h : Kept lb may s0 s) (hn : Low lb 0x40008 := by exact ‹Low _ _›.up rfl) (h_bus : may .bus := by assumption) (h_irq : may .irq := by assumption) :
    ∃ out, execIcClaim t s = .next out ∧ Kept lb may s0 out := by
  refine ⟨_, rfl, ?_⟩
  repeat' (first
    | with_reducible assumption
    | with_reducible intro v
    | exact ‹Low _ _›.of_le (by decide)
    | with_reducible apply byRow_kept
    | with_reducible apply onBus_kept
    | with_reducible apply claim_kept
)

theorem execIcComplete_kept {lb : Nat} {may : Part → Prop} {s0 s : State} (t : Fin 4) (n : Fin 256) (h : Kept lb may s0 s) (hn : Low lb 0x40004 := by exact ‹Low _ _›.up rfl) (h_bus : may .bus := by assumption) (h_irq : may .irq := by assumption) :
    ∃ out, execIcComplete t n s = .next out ∧ Kept lb may s0 out := by
  refine ⟨_, rfl, ?_⟩
  repeat' (first
    | with_reducible assumption
    | with_reducible intro v
    | exact ‹Low _ _›.of_le (by decide)
    | with_reducible apply byRow_kept
    | with_reducible apply onBus_kept
    | with_reducible apply completeSource_kept
)

theorem execIcSwsetWrite_kept {lb : Nat} {may : Part → Prop} {s0 s : State} (n : Fin 64) (h : Kept lb may s0 s) (h_bus : may .bus := by assumption) (h_irq : may .irq := by assumption) :
    ∃ out, execIcSwsetWrite n s = .next out ∧ Kept lb may s0 out := by
  refine ⟨_, rfl, ?_⟩
  repeat' (first
    | with_reducible assumption
    | with_reducible intro v
    | with_reducible apply byRow_kept
    | with_reducible apply onBus_kept
    | with_reducible apply pulse_kept
)

theorem execSourceEvent_kept {lb : Nat} {may : Part → Prop} {s0 s : State} (n : Fin 256) (merged : Bool) (h : Kept lb may s0 s) (h_irq : may .irq := by assumption) :
    ∃ out, execSourceEvent n merged s = .next out ∧ Kept lb may s0 out := by
  refine ⟨_, rfl, ?_⟩
  repeat' (first
    | with_reducible assumption
    | with_reducible intro v
    | with_reducible apply pulse_kept
    | with_reducible apply followLevel_kept
    | split)

theorem execEligibilityEvaluation_kept {lb : Nat} {may : Part → Prop} {s0 s : State} (h : Kept lb may s0 s) (hn : Low lb 0x40008 := by exact ‹Low _ _›.up rfl) (h_irq : may .irq := by assumption) :
    ∃ out, execEligibilityEvaluation s = .next out ∧ Kept lb may s0 out := by
  refine ⟨_, rfl, ?_⟩
  repeat' (first
    | with_reducible assumption
    | with_reducible intro v
    | exact ‹Low _ _›.of_le (by decide)
    | with_reducible apply evaluateIrq_kept
)

end Sys2Proof.Laws
end

