-- ==== Sys2Proof/Laws/KeptChain.lean ====
section
/-! SUPPORT. Each operation of Machine/Chain.lean keeps the queue, the time and the invariant. -/

set_option Elab.async false

namespace Sys2Proof.Laws

open Sys2Proof.Machine

theorem setChain_kept {lb : Nat} {may : Part → Prop} {s0 s : State} (c : ChainSt) (h : Kept lb may s0 s) (h_chain : may .chain := by assumption) :
    Kept lb may s0 (State.setChain s c) := by
  unfold State.setChain
  repeat' (first
    | with_reducible assumption
    | with_reducible apply Kept.with_chain)

theorem setPort_kept {lb : Nat} {may : Part → Prop} {s0 s : State} (p : ℕ) (a2 : ChainPort) (h : Kept lb may s0 s) (h_chain : may .chain := by assumption) :
    Kept lb may s0 (State.setPort s p a2) := by
  unfold State.setPort
  repeat' (first
    | with_reducible assumption
    | (extract_lets +onlyGivenNames x; subst x)
    | with_reducible apply setChain_kept)

theorem setPortState_kept {lb : Nat} {may : Part → Prop} {s0 s : State} (p : ℕ) (v : ℕ) (h : Kept lb may s0 s) (hn : Low lb 0x1a0104 := by exact ‹Low _ _›.up rfl) :
    Kept lb may s0 (State.setPortState s p v) := by
  unfold State.setPortState
  repeat' (first
    | with_reducible assumption
    | exact ‹Low _ _›.up1 rfl
    | exact ‹Low _ _›.of_le (by decide)
    | with_reducible apply set_kept
)

theorem showSlots_kept {lb : Nat} {may : Part → Prop} {s0 s : State} (h : Kept lb may s0 s) (hn : Low lb 0x1a041c := by exact ‹Low _ _›.up rfl) :
    Kept lb may s0 (State.showSlots s) := by
  unfold State.showSlots
  repeat' (first
    | with_reducible assumption
    | exact ‹Low _ _›.of_le (by decide)
    | with_reducible apply set_kept)

theorem setNodeRate_kept {lb : Nat} {may : Part → Prop} {s0 s : State} (code : ℕ) (h : Kept lb may s0 s) (hn : Low lb 0x1a0004 := by exact ‹Low _ _›.up rfl) :
    Kept lb may s0 (State.setNodeRate s code) := by
  unfold State.setNodeRate
  repeat' (first
    | with_reducible assumption
    | exact ‹Low _ _›.of_le (by decide)
    | with_reducible apply showSlots_kept
    | with_reducible apply flag_kept
    | with_reducible apply set_kept
    | split)

theorem showTopo_kept {lb : Nat} {may : Part → Prop} {s0 s : State} (h : Kept lb may s0 s) (hn : Low lb 0x1a0004 := by exact ‹Low _ _›.up rfl) :
    Kept lb may s0 (State.showTopo s) := by
  unfold State.showTopo
  repeat' (first
    | with_reducible assumption
    | exact ‹Low _ _›.of_le (by decide)
    | (extract_lets +onlyGivenNames x; subst x; beta_reduce)
    | with_reducible apply flag_kept
    | with_reducible apply set_kept
    | intro v
    | split)

theorem loadLinkRate_kept {lb : Nat} {may : Part → Prop} {s0 s : State} (code : ℕ) (h : Kept lb may s0 s) (hn : Low lb 0x10000 := by exact ‹Low _ _›.up rfl) (h_clk : may .clk := by assumption) (h_chain : may .chain := by assumption) :
    Kept lb may s0 (State.loadLinkRate s code) := by
  unfold State.loadLinkRate
  repeat' (first
    | with_reducible assumption
    | exact ‹Low _ _›.of_le (by decide)
    | (extract_lets +onlyGivenNames x; subst x)
    | with_reducible apply setChain_kept
    | with_reducible apply pllLoad_kept
    | with_reducible apply writeShadow_kept)

theorem searchFrom_kept {lb : Nat} {may : Part → Prop} {s0 s : State} (p : ℕ) (top : ℕ) (h : Kept lb may s0 s) (hn : Low lb 0x10000 := by exact ‹Low _ _›.up rfl) (h_timers : may .timers := by assumption) (h_clk : may .clk := by assumption) (h_chain : may .chain := by assumption) :
    Kept lb may s0 (State.searchFrom s p top) := by
  unfold State.searchFrom
  repeat' (first
    | with_reducible assumption
    | exact ‹Low _ _›.of_le (by decide)
    | (extract_lets +onlyGivenNames x; subst x)
    | with_reducible apply setNodeRate_kept
    | with_reducible apply setChain_kept
    | with_reducible apply startTimer_kept
    | with_reducible apply loadLinkRate_kept
    | split)

theorem enterSearch_kept {lb : Nat} {may : Part → Prop} {s0 s : State} (p : ℕ) (top : ℕ) (h : Kept lb may s0 s) (hn : Low lb 0x10000 := by exact ‹Low _ _›.up rfl) (h_timers : may .timers := by assumption) (h_clk : may .clk := by assumption) (h_chain : may .chain := by assumption) :
    Kept lb may s0 (State.enterSearch s p top) := by
  unfold State.enterSearch
  repeat' (first
    | with_reducible assumption
    | exact ‹Low _ _›.up1 rfl
    | exact ‹Low _ _›.of_le (by decide)
    | (extract_lets +onlyGivenNames x; subst x)
    | with_reducible apply showTopo_kept
    | with_reducible apply startTimer_kept
    | with_reducible apply searchFrom_kept
    | with_reducible apply set_kept
    | with_reducible apply setPortState_kept
    | with_reducible apply setPort_kept)

theorem portOff_kept {lb : Nat} {may : Part → Prop} {s0 s : State} (p : ℕ) (h : Kept lb may s0 s) (hn : Low lb 0x1a0004 := by exact ‹Low _ _›.up rfl) (h_timers : may .timers := by assumption) (h_chain : may .chain := by assumption) :
    Kept lb may s0 (State.portOff s p) := by
  unfold State.portOff
  repeat' (first
    | with_reducible assumption
    | exact ‹Low _ _›.up1 rfl
    | exact ‹Low _ _›.of_le (by decide)
    | with_reducible apply showTopo_kept
    | with_reducible apply stopTimer_kept
    | with_reducible apply set_kept
    | with_reducible apply setPortState_kept
    | with_reducible apply setPort_kept
)

theorem portBegin_kept {lb : Nat} {may : Part → Prop} {s0 s : State} (p : ℕ) (h : Kept lb may s0 s) (hn : Low lb 0x10000 := by exact ‹Low _ _›.up rfl) (h_timers : may .timers := by assumption) (h_clk : may .clk := by assumption) (h_chain : may .chain := by assumption) :
    Kept lb may s0 (State.portBegin s p) := by
  unfold State.portBegin
  repeat' (first
    | with_reducible assumption
    | exact ‹Low _ _›.of_le (by decide)
    | (extract_lets +onlyGivenNames x; subst x)
    | with_reducible apply showTopo_kept
    | with_reducible apply setPortState_kept
    | with_reducible apply setPort_kept
    | with_reducible apply enterSearch_kept
    | split)

theorem portFollow_kept {lb : Nat} {may : Part → Prop} {s0 s : State} (p : ℕ) (h : Kept lb may s0 s) (hn : Low lb 0x10000 := by exact ‹Low _ _›.up rfl) (h_timers : may .timers := by assumption) (h_clk : may .clk := by assumption) (h_chain : may .chain := by assumption) :
    Kept lb may s0 (State.portFollow s p) := by
  unfold State.portFollow
  repeat' (first
    | with_reducible assumption
    | exact ‹Low _ _›.of_le (by decide)
    | with_reducible apply portBegin_kept
    | with_reducible apply portOff_kept
    | split)

theorem rateSearch_kept {lb : Nat} {may : Part → Prop} {s0 s : State} (h : Kept lb may s0 s) (hn : Low lb 0x10000 := by exact ‹Low _ _›.up rfl) (h_timers : may .timers := by assumption) (h_clk : may .clk := by assumption) (h_chain : may .chain := by assumption) :
    Kept lb may s0 (State.rateSearch s) := by
  unfold State.rateSearch
  repeat' (first
    | with_reducible assumption
    | exact ‹Low _ _›.of_le (by decide)
    | (extract_lets +onlyGivenNames x; subst x)
    | with_reducible apply startTimer_kept
    | with_reducible apply loadLinkRate_kept
    | split)

theorem chainQuiet_kept {lb : Nat} {may : Part → Prop} {s0 s : State} (h : Kept lb may s0 s) (hn : Low lb 0x1a0004 := by exact ‹Low _ _›.up rfl) (h_timers : may .timers := by assumption) (h_chain : may .chain := by assumption) :
    Kept lb may s0 (State.chainQuiet s) := by
  unfold State.chainQuiet
  repeat' (first
    | with_reducible assumption
    | exact ‹Low _ _›.up1 rfl
    | exact ‹Low _ _›.of_le (by decide)
    | with_reducible apply showTopo_kept
    | with_reducible apply startTimer_kept
    | with_reducible apply flag_kept
    | with_reducible apply setPortState_kept
    | with_reducible apply setPort_kept
    | with_reducible apply Kept.foldl
    | with_reducible apply Kept.foldl_snd
    | with_reducible apply Kept.foldl_fst
    | intro v
    | split)

theorem receiveLoss_kept {lb : Nat} {may : Part → Prop} {s0 s : State} (p : ℕ) (h : Kept lb may s0 s) (hn : Low lb 0x1a0004 := by exact ‹Low _ _›.up rfl) (h_timers : may .timers := by assumption) (h_chain : may .chain := by assumption) :
    Kept lb may s0 (State.receiveLoss s p) := by
  unfold State.receiveLoss
  repeat' (first
    | with_reducible assumption
    | exact ‹Low _ _›.up1 rfl
    | exact ‹Low _ _›.of_le (by decide)
    | (extract_lets +onlyGivenNames x; subst x)
    | with_reducible apply flag_kept
    | with_reducible apply stopTimer_kept
    | with_reducible apply setPort_kept
    | with_reducible apply showTopo_kept
    | with_reducible apply setPortState_kept
    | split)

theorem parcelsMissing_kept {lb : Nat} {may : Part → Prop} {s0 s : State} (p : ℕ) (n : ℕ) (h : Kept lb may s0 s) (hn : Low lb 0x1a0004 := by exact ‹Low _ _›.up rfl) (h_timers : may .timers := by assumption) (h_chain : may .chain := by assumption) :
    Kept lb may s0 (State.parcelsMissing s p n) := by
  unfold State.parcelsMissing
  repeat' (first
    | with_reducible assumption
    | exact ‹Low _ _›.up1 rfl
    | exact ‹Low _ _›.of_le (by decide)
    | (extract_lets +onlyGivenNames x; refine (have hx : Kept lb may s0 x := ?_; ?_); rotate_left; clear_value x; rotate_right; subst x)
    | (extract_lets +onlyGivenNames x; clear_value x)
    | with_reducible apply count_kept
    | with_reducible apply setPort_kept
    | with_reducible apply receiveLoss_kept
    | split)

theorem modHeld_kept {lb : Nat} {may : Part → Prop} {s0 s : State} (p : ℕ) (h : Kept lb may s0 s) (hn : Low lb 0x10000 := by exact ‹Low _ _›.up rfl) (h_timers : may .timers := by assumption) (h_clk : may .clk := by assumption) (h_chain : may .chain := by assumption) :
    Kept lb may s0 (State.modHeld s p) := by
  unfold State.modHeld
  repeat' (first
    | with_reducible assumption
    | exact ‹Low _ _›.of_le (by decide)
    | (extract_lets +onlyGivenNames x; refine (have hx : Kept lb may s0 x := ?_; ?_); rotate_left; clear_value x; rotate_right; subst x)
    | (extract_lets +onlyGivenNames x; clear_value x)
    | with_reducible apply stopTimer_kept
    | with_reducible apply showTopo_kept
    | with_reducible apply setPortState_kept
    | with_reducible apply setPort_kept
    | with_reducible apply enterSearch_kept
    | split)

theorem modAbs_kept {lb : Nat} {may : Part → Prop} {s0 s : State} (p : ℕ) (high : Bool) (h : Kept lb may s0 s) (hn : Low lb 0x10000 := by exact ‹Low _ _›.up rfl) (h_timers : may .timers := by assumption) (h_clk : may .clk := by assumption) (h_chain : may .chain := by assumption) :
    Kept lb may s0 (State.modAbs s p high) := by
  unfold State.modAbs
  repeat' (first
    | with_reducible assumption
    | exact ‹Low _ _›.up1 rfl
    | exact ‹Low _ _›.of_le (by decide)
    | (extract_lets +onlyGivenNames x; refine (have hx : Kept lb may s0 x := ?_; ?_); rotate_left; clear_value x; rotate_right; subst x)
    | with_reducible apply modHeld_kept
    | with_reducible apply startTimer_kept
    | with_reducible apply flag_kept
    | with_reducible apply set_kept
    | with_reducible apply receiveLoss_kept
    | split)

theorem losChange_kept {lb : Nat} {may : Part → Prop} {s0 s : State} (p : ℕ) (high : Bool) (h : Kept lb may s0 s) (hn : Low lb 0x1a0004 := by exact ‹Low _ _›.up rfl) (h_timers : may .timers := by assumption) (h_chain : may .chain := by assumption) :
    Kept lb may s0 (State.losChange s p high) := by
  unfold State.losChange
  repeat' (first
    | with_reducible assumption
    | exact ‹Low _ _›.up1 rfl
    | exact ‹Low _ _›.of_le (by decide)
    | (extract_lets +onlyGivenNames x; subst x)
    | with_reducible apply flag_kept
    | with_reducible apply set_kept
    | with_reducible apply receiveLoss_kept
    | split)

theorem txFault_kept {lb : Nat} {may : Part → Prop} {s0 s : State} (p : ℕ) (high : Bool) (h : Kept lb may s0 s) (hn : Low lb 0x10000 := by exact ‹Low _ _›.up rfl) (h_timers : may .timers := by assumption) (h_clk : may .clk := by assumption) (h_chain : may .chain := by assumption) :
    Kept lb may s0 (State.txFault s p high) := by
  unfold State.txFault
  repeat' (first
    | with_reducible assumption
    | exact ‹Low _ _›.up1 rfl
    | exact ‹Low _ _›.of_le (by decide)
    | (extract_lets +onlyGivenNames x; subst x)
    | with_reducible apply set_kept
    | with_reducible apply flag_kept
    | with_reducible apply enterSearch_kept
    | with_reducible apply startTimer_kept
    | with_reducible apply setPort_kept
    | with_reducible apply receiveLoss_kept
    | with_reducible apply showTopo_kept
    | with_reducible apply stopTimer_kept
    | with_reducible apply setPortState_kept
    | split)

theorem noLock_kept {lb : Nat} {may : Part → Prop} {s0 s : State} (p : ℕ) (h : Kept lb may s0 s) (hn : Low lb 0x1a0108 := by exact ‹Low _ _›.up rfl) (h_timers : may .timers := by assumption) :
    Kept lb may s0 (State.noLock s p) := by
  unfold State.noLock
  repeat' (first
    | with_reducible assumption
    | exact ‹Low _ _›.up1 rfl
    | exact ‹Low _ _›.of_le (by decide)
    | with_reducible apply stopTimer_kept
    | with_reducible apply flag_kept
    | split)

theorem pcsLock_kept {lb : Nat} {may : Part → Prop} {s0 s : State} (p : ℕ) (h : Kept lb may s0 s) (hn : Low lb 0x1a0004 := by exact ‹Low _ _›.up rfl) (h_timers : may .timers := by assumption) (h_chain : may .chain := by assumption) :
    Kept lb may s0 (State.pcsLock s p) := by
  unfold State.pcsLock
  repeat' (first
    | with_reducible assumption
    | exact ‹Low _ _›.up1 rfl
    | exact ‹Low _ _›.of_le (by decide)
    | (extract_lets +onlyGivenNames x; subst x)
    | with_reducible apply showTopo_kept
    | with_reducible apply stopTimer_kept
    | with_reducible apply setPortState_kept
    | with_reducible apply setPort_kept
    | with_reducible apply set_kept
    | with_reducible apply setNodeRate_kept
    | split)

theorem chainRestart_kept {lb : Nat} {may : Part → Prop} {s0 s : State} (p : ℕ) (h : Kept lb may s0 s) (hn : Low lb 0x10000 := by exact ‹Low _ _›.up rfl) (h_timers : may .timers := by assumption) (h_clk : may .clk := by assumption) (h_chain : may .chain := by assumption) :
    Kept lb may s0 (State.chainRestart s p) := by
  unfold State.chainRestart
  repeat' (first
    | with_reducible assumption
    | exact ‹Low _ _›.of_le (by decide)
    | (extract_lets +onlyGivenNames x; subst x)
    | with_reducible apply portBegin_kept
    | with_reducible apply stopTimer_kept
    | with_reducible apply setPort_kept
    | split)

theorem helloSend_kept {lb : Nat} {may : Part → Prop} {s0 s : State} (p : ℕ) (h : Kept lb may s0 s) (h_chain : may .chain := by assumption) :
    Kept lb may s0 (State.helloSend s p) := by
  unfold State.helloSend
  repeat' (first
    | with_reducible assumption
    | (extract_lets +onlyGivenNames x; subst x)
    | with_reducible apply setPort_kept
    | split)

theorem portUp_kept {lb : Nat} {may : Part → Prop} {s0 s : State} (p : ℕ) (h : Kept lb may s0 s) (hn : Low lb 0x1a0004 := by exact ‹Low _ _›.up rfl) (h_chain : may .chain := by assumption) :
    Kept lb may s0 (State.portUp s p) := by
  unfold State.portUp
  repeat' (first
    | with_reducible assumption
    | exact ‹Low _ _›.up1 rfl
    | exact ‹Low _ _›.of_le (by decide)
    | (extract_lets +onlyGivenNames x; subst x)
    | with_reducible apply setPort_kept
    | with_reducible apply set_kept
    | with_reducible apply flag_kept
    | with_reducible apply setPortState_kept
    | with_reducible apply showTopo_kept
    | split)

theorem settle_kept {lb : Nat} {may : Part → Prop} {s0 s : State} (p : ℕ) (h : Kept lb may s0 s) (hn : Low lb 0x10000 := by exact ‹Low _ _›.up rfl) (h_timers : may .timers := by assumption) (h_clk : may .clk := by assumption) (h_chain : may .chain := by assumption) :
    Kept lb may s0 (State.settle s p) := by
  unfold State.settle
  repeat' (first
    | with_reducible assumption
    | exact ‹Low _ _›.up1 rfl
    | exact ‹Low _ _›.of_le (by decide)
    | (extract_lets +onlyGivenNames x; subst x; beta_reduce)
    | with_reducible apply flag_kept
    | with_reducible apply setPortState_kept
    | with_reducible apply setPort_kept
    | with_reducible apply enterSearch_kept
    | with_reducible apply set_kept
    | with_reducible apply startTimer_kept
    | with_reducible apply portUp_kept
    | intro v
    | split)

theorem helloReceive_kept {lb : Nat} {may : Part → Prop} {s0 s : State} (p : ℕ) (bs : List Byte) (h : Kept lb may s0 s) (hn : Low lb 0x10000 := by exact ‹Low _ _›.up rfl) (h_timers : may .timers := by assumption) (h_clk : may .clk := by assumption) (h_chain : may .chain := by assumption) :
    Kept lb may s0 (State.helloReceive s p bs) := by
  unfold State.helloReceive
  repeat' (first
    | with_reducible assumption
    | exact ‹Low _ _›.up1 rfl
    | exact ‹Low _ _›.of_le (by decide)
    | (extract_lets +onlyGivenNames x; subst x)
    | with_reducible apply setNat_kept
    | with_reducible apply set_kept
    | with_reducible apply setPort_kept
    | with_reducible apply showTopo_kept
    | with_reducible apply settle_kept
    | split)

theorem resettle_kept {lb : Nat} {may : Part → Prop} {s0 s : State} (h : Kept lb may s0 s) (hn : Low lb 0x10000 := by exact ‹Low _ _›.up rfl) (h_timers : may .timers := by assumption) (h_clk : may .clk := by assumption) (h_chain : may .chain := by assumption) :
    Kept lb may s0 (State.resettle s) := by
  unfold State.resettle
  repeat' (first
    | with_reducible assumption
    | exact ‹Low _ _›.of_le (by decide)
    | with_reducible apply showTopo_kept
    | with_reducible apply settle_kept
    | with_reducible apply Kept.foldl
    | with_reducible apply Kept.foldl_snd
    | with_reducible apply Kept.foldl_fst
    | intro v
    | split)

theorem linkTest_kept {lb : Nat} {may : Part → Prop} {s0 s : State} (p : ℕ) (ask : Bool) (h : Kept lb may s0 s) (hn : Low lb 0x1a0004 := by exact ‹Low _ _›.up rfl) (h_timers : may .timers := by assumption) (h_chain : may .chain := by assumption) :
    Kept lb may s0 (State.linkTest s p ask) := by
  unfold State.linkTest
  repeat' (first
    | with_reducible assumption
    | exact ‹Low _ _›.up1 rfl
    | exact ‹Low _ _›.of_le (by decide)
    | (extract_lets +onlyGivenNames x; subst x)
    | with_reducible apply showTopo_kept
    | with_reducible apply startTimer_kept
    | with_reducible apply setPortState_kept
    | with_reducible apply setPort_kept
    | with_reducible apply flag_kept
    | split)

theorem lowerCeiling_kept {lb : Nat} {may : Part → Prop} {s0 s : State} (p : ℕ) (h : Kept lb may s0 s) (hn : Low lb 0x1a0008 := by exact ‹Low _ _›.up rfl) (h_chain : may .chain := by assumption) :
    Kept lb may s0 (State.lowerCeiling s p) := by
  unfold State.lowerCeiling
  repeat' (first
    | with_reducible assumption
    | exact ‹Low _ _›.of_le (by decide)
    | (extract_lets +onlyGivenNames x; subst x)
    | with_reducible apply flag_kept
    | with_reducible apply setPort_kept
    | split)

theorem testDone_kept {lb : Nat} {may : Part → Prop} {s0 s : State} (p : ℕ) (errors : Bool) (h : Kept lb may s0 s) (hn : Low lb 0x1a0004 := by exact ‹Low _ _›.up rfl) (h_timers : may .timers := by assumption) (h_chain : may .chain := by assumption) :
    Kept lb may s0 (State.testDone s p errors) := by
  unfold State.testDone
  repeat' (first
    | with_reducible assumption
    | exact ‹Low _ _›.up1 rfl
    | exact ‹Low _ _›.of_le (by decide)
    | (extract_lets +onlyGivenNames x; subst x; beta_reduce)
    | with_reducible apply flag_kept
    | with_reducible apply stopTimer_kept
    | with_reducible apply setPortState_kept
    | with_reducible apply setPort_kept
    | with_reducible apply showTopo_kept
    | with_reducible apply lowerCeiling_kept
    | intro v
    | split)

theorem excludedNow_kept {lb : Nat} {may : Part → Prop} {s0 s : State} (p : ℕ) (h : Kept lb may s0 s) (hn : Low lb 0x1a0004 := by exact ‹Low _ _›.up rfl) :
    Kept lb may s0 (State.excludedNow s p) := by
  unfold State.excludedNow
  repeat' (first
    | with_reducible assumption
    | exact ‹Low _ _›.up1 rfl
    | exact ‹Low _ _›.of_le (by decide)
    | with_reducible apply showTopo_kept
    | with_reducible apply flag_kept
    | with_reducible apply setPortState_kept
    | with_reducible apply Kept.foldl
    | with_reducible apply Kept.foldl_snd
    | with_reducible apply Kept.foldl_fst
    | intro v
    | split)

theorem excludePeer_kept {lb : Nat} {may : Part → Prop} {s0 s : State} (p : ℕ) (h : Kept lb may s0 s) (hn : Low lb 0x1a0004 := by exact ‹Low _ _›.up rfl) :
    Kept lb may s0 (State.excludePeer s p) := by
  unfold State.excludePeer
  repeat' (first
    | with_reducible assumption
    | exact ‹Low _ _›.up1 rfl
    | exact ‹Low _ _›.of_le (by decide)
    | with_reducible apply showTopo_kept
    | with_reducible apply flag_kept
    | with_reducible apply setPortState_kept
)

theorem execModAbsChange_kept {lb : Nat} {may : Part → Prop} {s0 s : State} (p : Fin 2) (high : Bool) (h : Kept lb may s0 s) (hn : Low lb 0x10000 := by exact ‹Low _ _›.up rfl) (h_timers : may .timers := by assumption) (h_clk : may .clk := by assumption) (h_chain : may .chain := by assumption) :
    ∃ out, execModAbsChange p high s = .next out ∧ Kept lb may s0 out := by
  refine ⟨_, rfl, ?_⟩
  repeat' (first
    | with_reducible assumption
    | with_reducible intro v
    | exact ‹Low _ _›.of_le (by decide)
    | with_reducible apply modAbs_kept
)

theorem execTxFault_kept {lb : Nat} {may : Part → Prop} {s0 s : State} (p : Fin 2) (high : Bool) (h : Kept lb may s0 s) (hn : Low lb 0x10000 := by exact ‹Low _ _›.up rfl) (h_timers : may .timers := by assumption) (h_clk : may .clk := by assumption) (h_chain : may .chain := by assumption) :
    ∃ out, execTxFault p high s = .next out ∧ Kept lb may s0 out := by
  refine ⟨_, rfl, ?_⟩
  repeat' (first
    | with_reducible assumption
    | with_reducible intro v
    | exact ‹Low _ _›.of_le (by decide)
    | with_reducible apply txFault_kept
)

theorem execRateSearch_kept {lb : Nat} {may : Part → Prop} {s0 s : State} (h : Kept lb may s0 s) (hn : Low lb 0x10000 := by exact ‹Low _ _›.up rfl) (h_timers : may .timers := by assumption) (h_clk : may .clk := by assumption) (h_chain : may .chain := by assumption) :
    ∃ out, execRateSearch s = .next out ∧ Kept lb may s0 out := by
  refine ⟨_, rfl, ?_⟩
  repeat' (first
    | with_reducible assumption
    | with_reducible intro v
    | exact ‹Low _ _›.of_le (by decide)
    | with_reducible apply rateSearch_kept
)

theorem execNolock_kept {lb : Nat} {may : Part → Prop} {s0 s : State} (p : Fin 2) (h : Kept lb may s0 s) (hn : Low lb 0x1a0108 := by exact ‹Low _ _›.up rfl) (h_timers : may .timers := by assumption) :
    ∃ out, execNolock p s = .next out ∧ Kept lb may s0 out := by
  refine ⟨_, rfl, ?_⟩
  repeat' (first
    | with_reducible assumption
    | with_reducible intro v
    | exact ‹Low _ _›.of_le (by decide)
    | with_reducible apply noLock_kept
)

theorem execPcsLock_kept {lb : Nat} {may : Part → Prop} {s0 s : State} (p : Fin 2) (h : Kept lb may s0 s) (hn : Low lb 0x1a0004 := by exact ‹Low _ _›.up rfl) (h_timers : may .timers := by assumption) (h_chain : may .chain := by assumption) :
    ∃ out, execPcsLock p s = .next out ∧ Kept lb may s0 out := by
  refine ⟨_, rfl, ?_⟩
  repeat' (first
    | with_reducible assumption
    | with_reducible intro v
    | exact ‹Low _ _›.of_le (by decide)
    | with_reducible apply pcsLock_kept
)

theorem execHelloSend_kept {lb : Nat} {may : Part → Prop} {s0 s : State} (p : Fin 2) (h : Kept lb may s0 s) (h_chain : may .chain := by assumption) :
    ∃ out, execHelloSend p s = .next out ∧ Kept lb may s0 out := by
  refine ⟨_, rfl, ?_⟩
  repeat' (first
    | with_reducible assumption
    | with_reducible intro v
    | with_reducible apply helloSend_kept
)

theorem execHelloBlock_kept {lb : Nat} {may : Part → Prop} {s0 s : State} (p : Fin 2) (block : List Byte) (h : Kept lb may s0 s) (hn : Low lb 0x10000 := by exact ‹Low _ _›.up rfl) (h_timers : may .timers := by assumption) (h_clk : may .clk := by assumption) (h_chain : may .chain := by assumption) :
    ∃ out, execHelloBlock p block s = .next out ∧ Kept lb may s0 out := by
  refine ⟨_, rfl, ?_⟩
  repeat' (first
    | with_reducible assumption
    | with_reducible intro v
    | exact ‹Low _ _›.of_le (by decide)
    | with_reducible apply helloReceive_kept
)

theorem execExcludeReceived_kept {lb : Nat} {may : Part → Prop} {s0 s : State} (p : Fin 2) (h : Kept lb may s0 s) (hn : Low lb 0x1a0004 := by exact ‹Low _ _›.up rfl) :
    ∃ out, execExcludeReceived p s = .next out ∧ Kept lb may s0 out := by
  refine ⟨_, rfl, ?_⟩
  repeat' (first
    | with_reducible assumption
    | with_reducible intro v
    | exact ‹Low _ _›.of_le (by decide)
    | with_reducible apply excludedNow_kept
)

theorem execReceiveLoss_kept {lb : Nat} {may : Part → Prop} {s0 s : State} (seen : LossSeen) (h : Kept lb may s0 s) (hn : Low lb 0x1a0004 := by exact ‹Low _ _›.up rfl) (h_timers : may .timers := by assumption) (h_chain : may .chain := by assumption) :
    ∃ out, execReceiveLoss seen s = .next out ∧ Kept lb may s0 out := by
  refine ⟨_, rfl, ?_⟩
  repeat' (first
    | with_reducible assumption
    | with_reducible intro v
    | exact ‹Low _ _›.of_le (by decide)
    | with_reducible apply receiveLoss_kept
    | with_reducible apply parcelsMissing_kept
    | split)

theorem execLinkTest_kept {lb : Nat} {may : Part → Prop} {s0 s : State} (p : Fin 2) (h : Kept lb may s0 s) (hn : Low lb 0x1a0004 := by exact ‹Low _ _›.up rfl) (h_timers : may .timers := by assumption) (h_chain : may .chain := by assumption) :
    ∃ out, execLinkTest p s = .next out ∧ Kept lb may s0 out := by
  refine ⟨_, rfl, ?_⟩
  repeat' (first
    | with_reducible assumption
    | with_reducible intro v
    | exact ‹Low _ _›.of_le (by decide)
    | with_reducible apply linkTest_kept
)

end Sys2Proof.Laws
end

