-- ==== Sys2Proof/Laws/KeptStreams.lean ====
section
/-! SUPPORT. Each operation of Machine/Streams.lean keeps the queue, the time and the invariant. -/

set_option Elab.async false

namespace Sys2Proof.Laws

open Sys2Proof.Machine

theorem sendMsg_kept {lb : Nat} {may : Part → Prop} {s0 s : State} (ctype : ℕ) (dst : ℕ) (data : List Byte) (h : Kept lb may s0 s) (h_chain : may .chain := by assumption) :
    Kept lb may s0 (State.sendMsg s ctype dst data) := by
  unfold State.sendMsg
  repeat' (first
    | with_reducible assumption
    | (extract_lets +onlyGivenNames x; subst x)
    | with_reducible apply setChain_kept
    | with_reducible apply setPort_kept
    | with_reducible apply Kept.foldl
    | with_reducible apply Kept.foldl_snd
    | with_reducible apply Kept.foldl_fst
    | intro v
    | split)

theorem takeMsg_kept {lb : Nat} {may : Part → Prop} {s0 s : State} (src : ℕ) (mseq : ℕ) (h : Kept lb may s0 s) (h_chain : may .chain := by assumption) :
    Kept lb may s0 (State.takeMsg s src mseq).2 := by
  unfold State.takeMsg
  repeat' (first
    | with_reducible assumption
    | (extract_lets +onlyGivenNames x; subst x)
    | with_reducible apply setChain_kept
    | split)

theorem setBundle_kept {lb : Nat} {may : Part → Prop} {s0 s : State} (b : ℕ) (a2 : Bundle) (h : Kept lb may s0 s) (h_chain : may .chain := by assumption) :
    Kept lb may s0 (State.setBundle s b a2) := by
  unfold State.setBundle
  repeat' (first
    | with_reducible assumption
    | (extract_lets +onlyGivenNames x; subst x)
    | with_reducible apply setChain_kept)

theorem setSlot_kept {lb : Nat} {may : Part → Prop} {s0 s : State} (slot : ℕ) (stream1 : ℕ) (h : Kept lb may s0 s) (hn : Low lb 0x1a041c := by exact ‹Low _ _›.up rfl) (h_chain : may .chain := by assumption) :
    Kept lb may s0 (State.setSlot s slot stream1) := by
  unfold State.setSlot
  repeat' (first
    | with_reducible assumption
    | exact ‹Low _ _›.of_le (by decide)
    | (extract_lets +onlyGivenNames x; subst x)
    | with_reducible apply showSlots_kept
    | with_reducible apply setChain_kept)

theorem grantLocal_kept {lb : Nat} {may : Part → Prop} {s0 s : State} (stream : ℕ) (slot : ℕ) (h : Kept lb may s0 s) (hn : Low lb 0x1a0420 := by exact ‹Low _ _›.up rfl) (h_timers : may .timers := by assumption) (h_chain : may .chain := by assumption) :
    Kept lb may s0 (State.grantLocal s stream slot) := by
  unfold State.grantLocal
  repeat' (first
    | with_reducible assumption
    | exact ‹Low _ _›.up1 rfl
    | exact ‹Low _ _›.of_le (by decide)
    | (extract_lets +onlyGivenNames x; subst x)
    | with_reducible apply flag_kept
    | with_reducible apply set_kept
    | with_reducible apply setBundle_kept
    | with_reducible apply stopTimer_kept
    | intro v
    | split)

theorem sendGrant_kept {lb : Nat} {may : Part → Prop} {s0 s : State} (stream : ℕ) (slot : ℕ) (h : Kept lb may s0 s) (hn : Low lb 0x1a0420 := by exact ‹Low _ _›.up rfl) (h_timers : may .timers := by assumption) (h_chain : may .chain := by assumption) :
    Kept lb may s0 (State.sendGrant s stream slot) := by
  unfold State.sendGrant
  repeat' (first
    | with_reducible assumption
    | exact ‹Low _ _›.of_le (by decide)
    | with_reducible apply grantLocal_kept
    | with_reducible apply sendMsg_kept
    | split)

theorem grantLowest_kept {lb : Nat} {may : Part → Prop} {s0 s : State} (stream : ℕ) (h : Kept lb may s0 s) (hn : Low lb 0x1a041c := by exact ‹Low _ _›.up rfl) (h_timers : may .timers := by assumption) (h_chain : may .chain := by assumption) :
    Kept lb may s0 (State.grantLowest s stream) := by
  unfold State.grantLowest
  repeat' (first
    | with_reducible assumption
    | exact ‹Low _ _›.of_le (by decide)
    | with_reducible apply sendGrant_kept
    | with_reducible apply setSlot_kept
    | intro v
    | split)

theorem grantStream_kept {lb : Nat} {may : Part → Prop} {s0 s : State} (stream : ℕ) (hint : ℕ) (h : Kept lb may s0 s) (hn : Low lb 0x1a041c := by exact ‹Low _ _›.up rfl) (h_timers : may .timers := by assumption) (h_chain : may .chain := by assumption) :
    Kept lb may s0 (State.grantStream s stream hint) := by
  unfold State.grantStream
  repeat' (first
    | with_reducible assumption
    | exact ‹Low _ _›.of_le (by decide)
    | (extract_lets +onlyGivenNames x; subst x)
    | with_reducible apply sendGrant_kept
    | with_reducible apply setSlot_kept
    | with_reducible apply grantLowest_kept
    | intro v
    | split)

theorem freeStream_kept {lb : Nat} {may : Part → Prop} {s0 s : State} (stream : ℕ) (h : Kept lb may s0 s) (hn : Low lb 0x1a041c := by exact ‹Low _ _›.up rfl) (h_chain : may .chain := by assumption) :
    Kept lb may s0 (State.freeStream s stream) := by
  unfold State.freeStream
  repeat' (first
    | with_reducible assumption
    | exact ‹Low _ _›.of_le (by decide)
    | with_reducible apply setSlot_kept
    | split)

theorem trimSlots_kept {lb : Nat} {may : Part → Prop} {s0 s : State} (h : Kept lb may s0 s) (hn : Low lb 0x1a041c := by exact ‹Low _ _›.up rfl) (h_timers : may .timers := by assumption) (h_chain : may .chain := by assumption) :
    Kept lb may s0 (State.trimSlots s) := by
  unfold State.trimSlots
  repeat' (first
    | with_reducible assumption
    | exact ‹Low _ _›.of_le (by decide)
    | (extract_lets +onlyGivenNames x; subst x)
    | with_reducible apply setChain_kept
    | with_reducible apply showSlots_kept
    | with_reducible apply grantLowest_kept
    | with_reducible apply Kept.foldl
    | intro v)

theorem announce_kept {lb : Nat} {may : Part → Prop} {s0 s : State} (stream : ℕ) (hint : ℕ) (release : Bool) (h : Kept lb may s0 s) (hn : Low lb 0x1a041c := by exact ‹Low _ _›.up rfl) (h_timers : may .timers := by assumption) (h_chain : may .chain := by assumption) :
    Kept lb may s0 (State.announce s stream hint release) := by
  unfold State.announce
  repeat' (first
    | with_reducible assumption
    | exact ‹Low _ _›.of_le (by decide)
    | with_reducible apply freeStream_kept
    | with_reducible apply grantStream_kept
    | with_reducible apply sendMsg_kept
    | split)

theorem releaseBundle_kept {lb : Nat} {may : Part → Prop} {s0 s : State} (b : ℕ) (h : Kept lb may s0 s) (hn : Low lb 0x1a041c := by exact ‹Low _ _›.up rfl) (h_timers : may .timers := by assumption) (h_chain : may .chain := by assumption) :
    Kept lb may s0 (State.releaseBundle s b) := by
  unfold State.releaseBundle
  repeat' (first
    | with_reducible assumption
    | exact ‹Low _ _›.up1 rfl
    | exact ‹Low _ _›.of_le (by decide)
    | (extract_lets +onlyGivenNames x; subst x)
    | with_reducible apply announce_kept
    | with_reducible apply set_kept
    | with_reducible apply setBundle_kept
    | split)

theorem bundleFollow_kept {lb : Nat} {may : Part → Prop} {s0 s : State} (b : ℕ) (h : Kept lb may s0 s) (hn : Low lb 0x1a041c := by exact ‹Low _ _›.up rfl) (h_timers : may .timers := by assumption) (h_chain : may .chain := by assumption) :
    Kept lb may s0 (State.bundleFollow s b) := by
  unfold State.bundleFollow
  repeat' (first
    | with_reducible assumption
    | exact ‹Low _ _›.of_le (by decide)
    | (extract_lets +onlyGivenNames x; subst x)
    | with_reducible apply releaseBundle_kept
    | split)

theorem announceRepeat_kept {lb : Nat} {may : Part → Prop} {s0 s : State} (b : ℕ) (h : Kept lb may s0 s) (hn : Low lb 0x1a041c := by exact ‹Low _ _›.up rfl) (h_timers : may .timers := by assumption) (h_chain : may .chain := by assumption) :
    Kept lb may s0 (State.announceRepeat s b) := by
  unfold State.announceRepeat
  repeat' (first
    | with_reducible assumption
    | exact ‹Low _ _›.of_le (by decide)
    | with_reducible apply announce_kept
    | with_reducible apply startTimer_kept
    | split)

theorem setSub_kept {lb : Nat} {may : Part → Prop} {s0 s : State} (i : ℕ) (a2 : Subscription) (h : Kept lb may s0 s) (h_chain : may .chain := by assumption) :
    Kept lb may s0 (State.setSub s i a2) := by
  unfold State.setSub
  repeat' (first
    | with_reducible assumption
    | (extract_lets +onlyGivenNames x; subst x)
    | with_reducible apply setChain_kept)

theorem subFollow_kept {lb : Nat} {may : Part → Prop} {s0 s : State} (i : ℕ) (h : Kept lb may s0 s) (hn : Low lb 0x1a0480 := by exact ‹Low _ _›.up rfl) (h_chain : may .chain := by assumption) :
    Kept lb may s0 (State.subFollow s i) := by
  unfold State.subFollow
  repeat' (first
    | with_reducible assumption
    | exact ‹Low _ _›.up1 rfl
    | exact ‹Low _ _›.of_le (by decide)
    | (extract_lets +onlyGivenNames x; subst x)
    | with_reducible apply set_kept
    | with_reducible apply setSub_kept
    | split)

theorem presentSub_kept {lb : Nat} {may : Part → Prop} {s0 s : State} (n : ℕ) (i : ℕ) (h : Kept lb may s0 s) (hn : Low lb 0x1a0420 := by exact ‹Low _ _›.up rfl) (h_chain : may .chain := by assumption) :
    Kept lb may s0 (State.presentSub s n i) := by
  unfold State.presentSub
  repeat' (first
    | with_reducible assumption
    | exact ‹Low _ _›.up1 rfl
    | exact ‹Low _ _›.of_le (by decide)
    | (extract_lets +onlyGivenNames x; refine (have hx : Kept lb may s0 x := ?_; ?_); rotate_left; clear_value x; rotate_right; subst x)
    | (extract_lets +onlyGivenNames x; subst x)
    | with_reducible apply setSub_kept
    | with_reducible apply set_kept
    | with_reducible apply flagIf_kept
    | with_reducible apply flag_kept
    | with_reducible apply count_kept
    | intro v
    | split)

theorem showCap_kept {lb : Nat} {may : Part → Prop} {s0 s : State} (h : Kept lb may s0 s) (hn : Low lb 0x1a0418 := by exact ‹Low _ _›.up rfl) (h_chain : may .chain := by assumption) :
    Kept lb may s0 (State.showCap s) := by
  unfold State.showCap
  repeat' (first
    | with_reducible assumption
    | exact ‹Low _ _›.of_le (by decide)
    | (extract_lets +onlyGivenNames x; clear_value x)
    | with_reducible apply flagIf_kept
    | with_reducible apply setChain_kept
    | split)

theorem setPofs_kept {lb : Nat} {may : Part → Prop} {s0 s : State} (p : ℕ) (h : Kept lb may s0 s) (hn : Low lb 0x1a040c := by exact ‹Low _ _›.up rfl) (h_chain : may .chain := by assumption) :
    Kept lb may s0 (State.setPofs s p) := by
  unfold State.setPofs
  repeat' (first
    | with_reducible assumption
    | exact ‹Low _ _›.of_le (by decide)
    | with_reducible apply showCap_kept
    | with_reducible apply set_kept
)

theorem applyPofs_kept {lb : Nat} {may : Part → Prop} {s0 s : State} (n : ℕ) (h : Kept lb may s0 s) (hn : Low lb 0x1a040c := by exact ‹Low _ _›.up rfl) (h_chain : may .chain := by assumption) :
    Kept lb may s0 (State.applyPofs s n) := by
  unfold State.applyPofs
  repeat' (first
    | with_reducible assumption
    | exact ‹Low _ _›.of_le (by decide)
    | (extract_lets +onlyGivenNames x; subst x)
    | with_reducible apply flag_kept
    | with_reducible apply setPofs_kept
    | with_reducible apply setChain_kept
    | split)

theorem presentStreams_kept {lb : Nat} {may : Part → Prop} {s0 s : State} (n : ℕ) (h : Kept lb may s0 s) (hn : Low lb 0x1a040c := by exact ‹Low _ _›.up rfl) (h_chain : may .chain := by assumption) :
    Kept lb may s0 (State.presentStreams s n) := by
  unfold State.presentStreams
  repeat' (first
    | with_reducible assumption
    | exact ‹Low _ _›.of_le (by decide)
    | with_reducible apply presentSub_kept
    | with_reducible apply applyPofs_kept
    | with_reducible apply Kept.foldl
    | with_reducible apply Kept.foldl_snd
    | with_reducible apply Kept.foldl_fst
    | intro v
    | split)

theorem formBundles_kept {lb : Nat} {may : Part → Prop} {s0 s : State} (n : ℕ) (mask : ℕ → ℕ) (h : Kept lb may s0 s) (h_tick : may .tick := by assumption) (h_chain : may .chain := by assumption) :
    Kept lb may s0 (State.formBundles s n mask) := by
  unfold State.formBundles
  repeat' (first
    | with_reducible assumption
    | (extract_lets +onlyGivenNames x; subst x)
    | with_reducible apply setBundle_kept
    | with_reducible apply setSub_kept
    | with_reducible apply Kept.foldl
    | with_reducible apply Kept.foldl_snd
    | with_reducible apply Kept.foldl_fst
    | intro v
    | split)

theorem setMaster_kept {lb : Nat} {may : Part → Prop} {s0 s : State} (id : ℕ) (q : ℕ) (h : Kept lb may s0 s) (hn : Low lb 0x1a0408 := by exact ‹Low _ _›.up rfl) (h_timers : may .timers := by assumption) (h_chain : may .chain := by assumption) :
    Kept lb may s0 (State.setMaster s id q) := by
  unfold State.setMaster
  repeat' (first
    | with_reducible assumption
    | exact ‹Low _ _›.of_le (by decide)
    | (extract_lets +onlyGivenNames x; subst x)
    | with_reducible apply set_kept
    | with_reducible apply announce_kept
    | with_reducible apply flag_kept
    | with_reducible apply Kept.foldl
    | with_reducible apply Kept.foldl_snd
    | with_reducible apply Kept.foldl_fst
    | intro v
    | split)

theorem becomeMaster_kept {lb : Nat} {may : Part → Prop} {s0 s : State} (h : Kept lb may s0 s) (hn : Low lb 0x1a0004 := by exact ‹Low _ _›.up rfl) (h_timers : may .timers := by assumption) (h_chain : may .chain := by assumption) :
    Kept lb may s0 (State.becomeMaster s) := by
  unfold State.becomeMaster
  repeat' (first
    | with_reducible assumption
    | exact ‹Low _ _›.of_le (by decide)
    | (extract_lets +onlyGivenNames x; subst x)
    | with_reducible apply stopTimer_kept
    | with_reducible apply setChain_kept
    | with_reducible apply set_kept
    | with_reducible apply flagIf_kept
    | with_reducible apply showTopo_kept
    | with_reducible apply showSlots_kept
    | with_reducible apply setMaster_kept)

theorem followMaster_kept {lb : Nat} {may : Part → Prop} {s0 s : State} (id : ℕ) (q : ℕ) (h : Kept lb may s0 s) (hn : Low lb 0x1a0004 := by exact ‹Low _ _›.up rfl) (h_timers : may .timers := by assumption) (h_chain : may .chain := by assumption) :
    Kept lb may s0 (State.followMaster s id q) := by
  unfold State.followMaster
  repeat' (first
    | with_reducible assumption
    | exact ‹Low _ _›.of_le (by decide)
    | (extract_lets +onlyGivenNames x; subst x)
    | with_reducible apply set_kept
    | with_reducible apply setChain_kept
    | with_reducible apply showSlots_kept
    | with_reducible apply setMaster_kept
    | with_reducible apply flagIf_kept)

theorem hearMaster_kept {lb : Nat} {may : Part → Prop} {s0 s : State} (id : ℕ) (hold : Bool) (h : Kept lb may s0 s) (h_chain : may .chain := by assumption) :
    Kept lb may s0 (State.hearMaster s id hold) := by
  unfold State.hearMaster
  repeat' (first
    | with_reducible assumption
    | (extract_lets +onlyGivenNames x; clear_value x)
    | with_reducible apply setChain_kept
    | split)

theorem watchBetter_kept {lb : Nat} {may : Part → Prop} {s0 s : State} (h : Kept lb may s0 s) (h_timers : may .timers := by assumption) :
    Kept lb may s0 (State.watchBetter s) := by
  unfold State.watchBetter
  repeat' (first
    | with_reducible assumption
    | with_reducible apply startTimer_kept
    | with_reducible apply stopTimer_kept
    | split)

theorem electionStart_kept {lb : Nat} {may : Part → Prop} {s0 s : State} (h : Kept lb may s0 s) (hn : Low lb 0x1a0004 := by exact ‹Low _ _›.up rfl) (h_timers : may .timers := by assumption) (h_chain : may .chain := by assumption) :
    Kept lb may s0 (State.electionStart s) := by
  unfold State.electionStart
  repeat' (first
    | with_reducible assumption
    | exact ‹Low _ _›.of_le (by decide)
    | with_reducible apply becomeMaster_kept
    | intro v
    | split)

theorem betterMaster_kept {lb : Nat} {may : Part → Prop} {s0 s : State} (p : ℕ) (id : ℕ) (q : ℕ) (hops : ℕ) (h : Kept lb may s0 s) (hn : Low lb 0x1a0004 := by exact ‹Low _ _›.up rfl) (h_timers : may .timers := by assumption) (h_chain : may .chain := by assumption) :
    Kept lb may s0 (State.betterMaster s p id q hops) := by
  unfold State.betterMaster
  repeat' (first
    | with_reducible assumption
    | exact ‹Low _ _›.of_le (by decide)
    | with_reducible apply set_kept
    | with_reducible apply hearMaster_kept
    | with_reducible apply followMaster_kept
    | split)

theorem challenge_kept {lb : Nat} {may : Part → Prop} {s0 s : State} (h : Kept lb may s0 s) (hn : Low lb 0x10004 := by exact ‹Low _ _›.up rfl) (h_free : may .free := by assumption) (h_timers : may .timers := by assumption) (h_clk : may .clk := by assumption) (h_chain : may .chain := by assumption) :
    Kept lb may s0 (State.challenge s) := by
  unfold State.challenge
  repeat' (first
    | with_reducible assumption
    | exact ‹Low _ _›.of_le (by decide)
    | (extract_lets +onlyGivenNames x; subst x)
    | with_reducible apply becomeMaster_kept
    | with_reducible apply goFree_kept
    | with_reducible apply acquire_kept
    | intro v
    | split)

theorem orphan_kept {lb : Nat} {may : Part → Prop} {s0 s : State} (h : Kept lb may s0 s) (hn : Low lb 0x1a0004 := by exact ‹Low _ _›.up rfl) (h_timers : may .timers := by assumption) (h_chain : may .chain := by assumption) :
    Kept lb may s0 (State.orphan s) := by
  unfold State.orphan
  repeat' (first
    | with_reducible assumption
    | exact ‹Low _ _›.of_le (by decide)
    | (extract_lets +onlyGivenNames x; refine (have hx : Kept lb may s0 x := ?_; ?_); rotate_left; clear_value x; rotate_right; subst x)
    | (extract_lets +onlyGivenNames x; clear_value x)
    | with_reducible apply stopTimer_kept
    | with_reducible apply flag_kept
    | with_reducible apply set_kept
    | with_reducible apply setPort_kept
    | with_reducible apply electionStart_kept
    | with_reducible refine Kept.foldl _ _ _ ?_ fun _ _ _ => ?_
    | with_reducible refine Kept.foldl_snd _ _ _ ?_ fun _ _ _ => ?_
    | with_reducible refine Kept.foldl_fst _ _ _ ?_ fun _ _ _ => ?_
    | intro v
    | split)

theorem tickReload_kept {lb : Nat} {may : Part → Prop} {s0 s : State} (n : TickNo) (h : Kept lb may s0 s) (hn : Low lb 0x1a0418 := by exact ‹Low _ _›.up rfl) (h_tick : may .tick := by assumption) (h_chain : may .chain := by assumption) :
    Kept lb may s0 (State.tickReload s n) := by
  unfold State.tickReload
  repeat' (first
    | with_reducible assumption
    | exact ‹Low _ _›.of_le (by decide)
    | (extract_lets +onlyGivenNames x; clear_value x)
    | with_reducible apply flag_kept
    | with_reducible apply setChain_kept
    | with_reducible apply setTick_kept
    | split)

theorem sendPofs_kept {lb : Nat} {may : Part → Prop} {s0 s : State} (p : ℕ) (h : Kept lb may s0 s) (h_chain : may .chain := by assumption) :
    Kept lb may s0 (State.sendPofs s p) := by
  unfold State.sendPofs
  repeat' (first
    | with_reducible assumption
    | (extract_lets +onlyGivenNames x; subst x)
    | with_reducible apply sendMsg_kept
    | with_reducible apply setChain_kept)

theorem measureLoop_kept {lb : Nat} {may : Part → Prop} {s0 s : State} (d : ℤ) (h : Kept lb may s0 s) (hn : Low lb 0x1a040c := by exact ‹Low _ _›.up rfl) (h_chain : may .chain := by assumption) :
    Kept lb may s0 (State.measureLoop s d) := by
  unfold State.measureLoop
  repeat' (first
    | with_reducible assumption
    | exact ‹Low _ _›.of_le (by decide)
    | (extract_lets +onlyGivenNames x; subst x)
    | with_reducible apply setChain_kept
    | with_reducible apply set_kept
    | with_reducible apply setNat_kept
    | with_reducible apply sendPofs_kept
    | with_reducible apply flagIf_kept
    | split)

theorem pofsSet_kept {lb : Nat} {may : Part → Prop} {s0 s : State} (h : Kept lb may s0 s) (hn : Low lb 0x1a040c := by exact ‹Low _ _›.up rfl) (h_chain : may .chain := by assumption) :
    Kept lb may s0 (State.pofsSet s) := by
  unfold State.pofsSet
  repeat' (first
    | with_reducible assumption
    | exact ‹Low _ _›.of_le (by decide)
    | with_reducible apply setPofs_kept
    | split)

theorem pofsFollow_kept {lb : Nat} {may : Part → Prop} {s0 s : State} (h : Kept lb may s0 s) (h_chain : may .chain := by assumption) :
    Kept lb may s0 (State.pofsFollow s) := by
  unfold State.pofsFollow
  repeat' (first
    | with_reducible assumption
    | (extract_lets +onlyGivenNames x; subst x)
    | with_reducible apply setChain_kept
    | with_reducible apply sendPofs_kept
    | split)

theorem grantTest_kept {lb : Nat} {may : Part → Prop} {s0 s : State} (h : Kept lb may s0 s) (hn : Low lb 0x1a0004 := by exact ‹Low _ _›.up rfl) (h_timers : may .timers := by assumption) (h_chain : may .chain := by assumption) :
    Kept lb may s0 (State.grantTest s) := by
  unfold State.grantTest
  repeat' (first
    | with_reducible assumption
    | exact ‹Low _ _›.of_le (by decide)
    | (extract_lets +onlyGivenNames x; subst x)
    | with_reducible apply stopTimer_kept
    | with_reducible apply setChain_kept
    | with_reducible apply startTimer_kept
    | with_reducible apply linkTest_kept
    | with_reducible apply sendMsg_kept
    | split)

theorem testReq_kept {lb : Nat} {may : Part → Prop} {s0 s : State} (n : ℕ) (p : ℕ) (h : Kept lb may s0 s) (hn : Low lb 0x1a0004 := by exact ‹Low _ _›.up rfl) (h_timers : may .timers := by assumption) (h_chain : may .chain := by assumption) :
    Kept lb may s0 (State.testReq s n p) := by
  unfold State.testReq
  repeat' (first
    | with_reducible assumption
    | exact ‹Low _ _›.of_le (by decide)
    | (extract_lets +onlyGivenNames x; subst x)
    | with_reducible apply grantTest_kept
    | with_reducible apply setChain_kept
    | split)

theorem askTest_kept {lb : Nat} {may : Part → Prop} {s0 s : State} (p : ℕ) (h : Kept lb may s0 s) (hn : Low lb 0x1a0004 := by exact ‹Low _ _›.up rfl) (h_timers : may .timers := by assumption) (h_chain : may .chain := by assumption) :
    Kept lb may s0 (State.askTest s p) := by
  unfold State.askTest
  repeat' (first
    | with_reducible assumption
    | exact ‹Low _ _›.of_le (by decide)
    | with_reducible apply testReq_kept
    | with_reducible apply sendMsg_kept
    | split)

theorem degrade_kept {lb : Nat} {may : Part → Prop} {s0 s : State} (p : ℕ) (h : Kept lb may s0 s) (hn : Low lb 0x7000c := by exact ‹Low _ _›.up rfl) (h_timers : may .timers := by assumption) (h_stew : may .stew := by assumption) (h_chain : may .chain := by assumption) :
    Kept lb may s0 (State.degrade s p) := by
  unfold State.degrade
  repeat' (first
    | with_reducible assumption
    | exact ‹Low _ _›.up1 rfl
    | exact ‹Low _ _›.of_le (by decide)
    | (extract_lets +onlyGivenNames x; subst x)
    | with_reducible apply error_kept
    | with_reducible apply flag_kept
    | with_reducible apply askTest_kept
    | with_reducible apply setChain_kept
    | split)

theorem linkTested_kept {lb : Nat} {may : Part → Prop} {s0 s : State} (p : ℕ) (errors : Bool) (h : Kept lb may s0 s) (hn : Low lb 0x1a0004 := by exact ‹Low _ _›.up rfl) (h_timers : may .timers := by assumption) (h_chain : may .chain := by assumption) :
    Kept lb may s0 (State.linkTested s p errors) := by
  unfold State.linkTested
  repeat' (first
    | with_reducible assumption
    | exact ‹Low _ _›.of_le (by decide)
    | (extract_lets +onlyGivenNames x; subst x)
    | with_reducible apply testDone_kept
    | with_reducible apply askTest_kept
    | with_reducible apply setChain_kept
    | split)

theorem setQueue_kept {lb : Nat} {may : Part → Prop} {s0 s : State} (q : ℕ) (a2 : HostQueue) (h : Kept lb may s0 s) (h_chain : may .chain := by assumption) :
    Kept lb may s0 (State.setQueue s q a2) := by
  unfold State.setQueue
  repeat' (first
    | with_reducible assumption
    | (extract_lets +onlyGivenNames x; subst x)
    | with_reducible apply setChain_kept)

theorem showQueue_kept {lb : Nat} {may : Part → Prop} {s0 s : State} (q : ℕ) (h : Kept lb may s0 s) (hn : Low lb 0x1a050c := by exact ‹Low _ _›.up rfl) :
    Kept lb may s0 (State.showQueue s q) := by
  unfold State.showQueue
  repeat' (first
    | with_reducible assumption
    | exact ‹Low _ _›.up1 rfl
    | exact ‹Low _ _›.of_le (by decide)
    | with_reducible apply set_kept
    | split)

theorem queueReceive_kept {lb : Nat} {may : Part → Prop} {s0 s : State} (q : ℕ) (src : ℕ) (f : List Byte) (h : Kept lb may s0 s) (hn : Low lb 0x1a050c := by exact ‹Low _ _›.up rfl) (h_chain : may .chain := by assumption) :
    Kept lb may s0 (State.queueReceive s q src f) := by
  unfold State.queueReceive
  repeat' (first
    | with_reducible assumption
    | exact ‹Low _ _›.up1 rfl
    | exact ‹Low _ _›.of_le (by decide)
    | (extract_lets +onlyGivenNames x; subst x)
    | with_reducible apply count_kept
    | with_reducible apply showQueue_kept
    | with_reducible apply setQueue_kept
    | split)

theorem queueWrite_kept {lb : Nat} {may : Part → Prop} {s0 s : State} (q : ℕ) (v : Word) (h : Kept lb may s0 s) (h_chain : may .chain := by assumption) :
    Kept lb may s0 (State.queueWrite s q v) := by
  unfold State.queueWrite
  repeat' (first
    | with_reducible assumption
    | (extract_lets +onlyGivenNames x; subst x)
    | with_reducible apply setQueue_kept)

theorem queueGo_kept {lb : Nat} {may : Part → Prop} {s0 s : State} (q : ℕ) (len : ℕ) (h : Kept lb may s0 s) (hn : Low lb 0x1a0504 := by exact ‹Low _ _›.up rfl) (h_chain : may .chain := by assumption) :
    Kept lb may s0 (State.queueGo s q len) := by
  unfold State.queueGo
  repeat' (first
    | with_reducible assumption
    | exact ‹Low _ _›.up1 rfl
    | exact ‹Low _ _›.of_le (by decide)
    | (extract_lets +onlyGivenNames x; subst x)
    | with_reducible apply flag_kept
    | with_reducible apply setQueue_kept
    | split)

theorem queueRead_kept {lb : Nat} {may : Part → Prop} {s0 s : State} (q : ℕ) (h : Kept lb may s0 s) (hn : Low lb 0x1a050c := by exact ‹Low _ _›.up rfl) (h_chain : may .chain := by assumption) :
    Kept lb may s0 (State.queueRead s q).2 := by
  unfold State.queueRead
  repeat' (first
    | with_reducible assumption
    | exact ‹Low _ _›.of_le (by decide)
    | (extract_lets +onlyGivenNames x; subst x)
    | with_reducible apply showQueue_kept
    | with_reducible apply setQueue_kept
    | split)

theorem messageToHost_kept {lb : Nat} {may : Part → Prop} {s0 s : State} (ctype : ℕ) (src : ℕ) (frame : List Byte) (h : Kept lb may s0 s) (hn : Low lb 0x1a050c := by exact ‹Low _ _›.up rfl) (h_chain : may .chain := by assumption) :
    Kept lb may s0 (State.messageToHost s ctype src frame) := by
  unfold State.messageToHost
  repeat' (first
    | with_reducible assumption
    | exact ‹Low _ _›.of_le (by decide)
    | with_reducible apply queueReceive_kept
)

theorem queueFeed_kept {lb : Nat} {may : Part → Prop} {s0 s : State} (h : Kept lb may s0 s) (h_chain : may .chain := by assumption) :
    Kept lb may s0 (State.queueFeed s) := by
  unfold State.queueFeed
  repeat' (first
    | with_reducible assumption
    | (extract_lets +onlyGivenNames x; subst x)
    | with_reducible apply setQueue_kept
    | with_reducible apply setChain_kept
    | with_reducible apply setPort_kept
    | with_reducible apply sendMsg_kept
    | with_reducible apply Kept.foldl
    | with_reducible apply Kept.foldl_snd
    | with_reducible apply Kept.foldl_fst
    | intro v
    | split)

theorem sendReport_kept {lb : Nat} {may : Part → Prop} {s0 s : State} (h : Kept lb may s0 s) (h_chain : may .chain := by assumption) :
    Kept lb may s0 (State.sendReport s) := by
  unfold State.sendReport
  repeat' (first
    | with_reducible assumption
    | (extract_lets +onlyGivenNames x; subst x)
    | with_reducible apply setChain_kept
    | with_reducible apply sendMsg_kept
    | split)

theorem message_kept {lb : Nat} {may : Part → Prop} {s0 s : State} (ctype : ℕ) (src : ℕ) (d : List Byte) (h : Kept lb may s0 s) (hn : Low lb 0x1a0004 := by exact ‹Low _ _›.up rfl) (h_timers : may .timers := by assumption) (h_mbx : may .mbx := by assumption) (h_chain : may .chain := by assumption) :
    Kept lb may s0 (State.message s ctype src d) := by
  unfold State.message
  repeat' (first
    | with_reducible assumption
    | exact ‹Low _ _›.of_le (by decide)
    | (extract_lets +onlyGivenNames x; clear_value x)
    | with_reducible apply enqueue_kept
    | with_reducible apply messageToHost_kept
    | with_reducible apply freeStream_kept
    | with_reducible apply grantStream_kept
    | with_reducible apply grantLocal_kept
    | with_reducible apply setChain_kept
    | with_reducible apply testReq_kept
    | with_reducible apply linkTest_kept
    | intro v
    | split)

theorem arrive_kept {lb : Nat} {may : Part → Prop} {s0 s : State} (ctype : ℕ) (src : ℕ) (dst : ℕ) (mseq : ℕ) (d : List Byte) (h : Kept lb may s0 s) (hn : Low lb 0x1a0004 := by exact ‹Low _ _›.up rfl) (h_timers : may .timers := by assumption) (h_mbx : may .mbx := by assumption) (h_chain : may .chain := by assumption) :
    Kept lb may s0 (State.arrive s ctype src dst mseq d) := by
  unfold State.arrive
  repeat' (first
    | with_reducible assumption
    | exact ‹Low _ _›.of_le (by decide)
    | with_reducible apply takeMsg_kept
    | with_reducible apply message_kept
    | split)

theorem dupId_kept {lb : Nat} {may : Part → Prop} {s0 s : State} (h : Kept lb may s0 s) (hn : Low lb 0x1a0418 := by exact ‹Low _ _›.up rfl) (h_chain : may .chain := by assumption) :
    Kept lb may s0 (State.dupId s) := by
  unfold State.dupId
  repeat' (first
    | with_reducible assumption
    | exact ‹Low _ _›.of_le (by decide)
    | (extract_lets +onlyGivenNames x; subst x)
    | with_reducible apply flag_kept
    | with_reducible apply setChain_kept
    | split)

theorem chainFollowAll_kept {lb : Nat} {may : Part → Prop} {s0 s : State} (h : Kept lb may s0 s) (hn : Low lb 0x10000 := by exact ‹Low _ _›.up rfl) (h_timers : may .timers := by assumption) (h_clk : may .clk := by assumption) (h_chain : may .chain := by assumption) :
    Kept lb may s0 (State.chainFollowAll s) := by
  unfold State.chainFollowAll
  repeat' (first
    | with_reducible assumption
    | exact ‹Low _ _›.of_le (by decide)
    | (extract_lets +onlyGivenNames x; refine (have hx : Kept lb may s0 x := ?_; ?_); rotate_left; clear_value x; rotate_right; subst x)
    | with_reducible apply subFollow_kept
    | with_reducible apply bundleFollow_kept
    | with_reducible apply portFollow_kept
    | with_reducible apply showCap_kept
    | with_reducible apply watchBetter_kept
    | with_reducible apply resettle_kept
    | with_reducible apply pofsFollow_kept
    | with_reducible apply trimSlots_kept
    | with_reducible apply showSlots_kept
    | with_reducible refine Kept.foldl _ _ _ ?_ fun _ _ _ => ?_
    | with_reducible refine Kept.foldl_snd _ _ _ ?_ fun _ _ _ => ?_
    | with_reducible refine Kept.foldl_fst _ _ _ ?_ fun _ _ _ => ?_
    | intro v
    | split)

theorem execTestDone_kept {lb : Nat} {may : Part → Prop} {s0 s : State} (p : Fin 2) (errors : Bool) (h : Kept lb may s0 s) (hn : Low lb 0x1a0004 := by exact ‹Low _ _›.up rfl) (h_timers : may .timers := by assumption) (h_chain : may .chain := by assumption) :
    ∃ out, execTestDone p errors s = .next out ∧ Kept lb may s0 out := by
  refine ⟨_, rfl, ?_⟩
  repeat' (first
    | with_reducible assumption
    | with_reducible intro v
    | exact ‹Low _ _›.of_le (by decide)
    | with_reducible apply linkTested_kept
)

theorem execAnnounce_kept {lb : Nat} {may : Part → Prop} {s0 s : State} (src : BitVec 16) (mseq : BitVec 16) (stream : BitVec 16) (hint : BitVec 16) (release : Bool) (h : Kept lb may s0 s) (hn : Low lb 0x1a0004 := by exact ‹Low _ _›.up rfl) (h_timers : may .timers := by assumption) (h_mbx : may .mbx := by assumption) (h_chain : may .chain := by assumption) :
    ∃ out, execAnnounce src mseq stream hint release s = .next out ∧ Kept lb may s0 out := by
  refine ⟨_, rfl, ?_⟩
  repeat' (first
    | with_reducible assumption
    | with_reducible intro v
    | exact ‹Low _ _›.of_le (by decide)
    | with_reducible apply arrive_kept
)

theorem execGrant_kept {lb : Nat} {may : Part → Prop} {s0 s : State} (src : BitVec 16) (dst : BitVec 16) (mseq : BitVec 16) (stream : BitVec 16) (slot : BitVec 16) (h : Kept lb may s0 s) (hn : Low lb 0x1a0004 := by exact ‹Low _ _›.up rfl) (h_timers : may .timers := by assumption) (h_mbx : may .mbx := by assumption) (h_chain : may .chain := by assumption) :
    ∃ out, execGrant src dst mseq stream slot s = .next out ∧ Kept lb may s0 out := by
  refine ⟨_, rfl, ?_⟩
  repeat' (first
    | with_reducible assumption
    | with_reducible intro v
    | exact ‹Low _ _›.of_le (by decide)
    | with_reducible apply arrive_kept
)

theorem execAnnounceRepeat_kept {lb : Nat} {may : Part → Prop} {s0 s : State} (b : Fin 12) (h : Kept lb may s0 s) (hn : Low lb 0x1a041c := by exact ‹Low _ _›.up rfl) (h_timers : may .timers := by assumption) (h_chain : may .chain := by assumption) :
    ∃ out, execAnnounceRepeat b s = .next out ∧ Kept lb may s0 out := by
  refine ⟨_, rfl, ?_⟩
  repeat' (first
    | with_reducible assumption
    | with_reducible intro v
    | exact ‹Low _ _›.of_le (by decide)
    | with_reducible apply announceRepeat_kept
)

theorem execReport_kept {lb : Nat} {may : Part → Prop} {s0 s : State} (msg : Option (BitVec 16 × BitVec 16 × BitVec 16 × BitVec 16 × BitVec 8)) (h : Kept lb may s0 s) (hn : Low lb 0x1a0004 := by exact ‹Low _ _›.up rfl) (h_timers : may .timers := by assumption) (h_mbx : may .mbx := by assumption) (h_chain : may .chain := by assumption) :
    ∃ out, execReport msg s = .next out ∧ Kept lb may s0 out := by
  refine ⟨_, rfl, ?_⟩
  repeat' (first
    | with_reducible assumption
    | with_reducible intro v
    | exact ‹Low _ _›.of_le (by decide)
    | with_reducible apply arrive_kept
    | with_reducible apply sendReport_kept
    | split)

theorem execTestReq_kept {lb : Nat} {may : Part → Prop} {s0 s : State} (src : BitVec 16) (mseq : BitVec 16) (p : Fin 2) (h : Kept lb may s0 s) (hn : Low lb 0x1a0004 := by exact ‹Low _ _›.up rfl) (h_timers : may .timers := by assumption) (h_mbx : may .mbx := by assumption) (h_chain : may .chain := by assumption) :
    ∃ out, execTestReq src mseq p s = .next out ∧ Kept lb may s0 out := by
  refine ⟨_, rfl, ?_⟩
  repeat' (first
    | with_reducible assumption
    | with_reducible intro v
    | exact ‹Low _ _›.of_le (by decide)
    | with_reducible apply arrive_kept
)

theorem execTestGrant_kept {lb : Nat} {may : Part → Prop} {s0 s : State} (src : BitVec 16) (mseq : BitVec 16) (node : BitVec 16) (p : Fin 2) (h : Kept lb may s0 s) (hn : Low lb 0x1a0004 := by exact ‹Low _ _›.up rfl) (h_timers : may .timers := by assumption) (h_mbx : may .mbx := by assumption) (h_chain : may .chain := by assumption) :
    ∃ out, execTestGrant src mseq node p s = .next out ∧ Kept lb may s0 out := by
  refine ⟨_, rfl, ?_⟩
  repeat' (first
    | with_reducible assumption
    | with_reducible intro v
    | exact ‹Low _ _›.of_le (by decide)
    | with_reducible apply arrive_kept
)

theorem execTestGrantTimeout_kept {lb : Nat} {may : Part → Prop} {s0 s : State} (h : Kept lb may s0 s) (hn : Low lb 0x1a0004 := by exact ‹Low _ _›.up rfl) (h_timers : may .timers := by assumption) (h_chain : may .chain := by assumption) :
    ∃ out, execTestGrantTimeout s = .next out ∧ Kept lb may s0 out := by
  refine ⟨_, rfl, ?_⟩
  repeat' (first
    | with_reducible assumption
    | with_reducible intro v
    | exact ‹Low _ _›.of_le (by decide)
    | with_reducible apply grantTest_kept
    | split)

theorem execPofs_kept {lb : Nat} {may : Part → Prop} {s0 s : State} (src : BitVec 16) (mseq : BitVec 16) (p : BitVec 16) (t : BitVec 48) (h : Kept lb may s0 s) (hn : Low lb 0x1a0004 := by exact ‹Low _ _›.up rfl) (h_timers : may .timers := by assumption) (h_mbx : may .mbx := by assumption) (h_chain : may .chain := by assumption) :
    ∃ out, execPofs src mseq p t s = .next out ∧ Kept lb may s0 out := by
  refine ⟨_, rfl, ?_⟩
  repeat' (first
    | with_reducible assumption
    | with_reducible intro v
    | exact ‹Low _ _›.of_le (by decide)
    | with_reducible apply arrive_kept
)

theorem execMrsp_kept {lb : Nat} {may : Part → Prop} {s0 s : State} (src : BitVec 16) (mseq : BitVec 16) (frame : List Byte) (h : Kept lb may s0 s) (hn : Low lb 0x1a0004 := by exact ‹Low _ _›.up rfl) (h_timers : may .timers := by assumption) (h_mbx : may .mbx := by assumption) (h_chain : may .chain := by assumption) :
    ∃ out, execMrsp src mseq frame s = .next out ∧ Kept lb may s0 out := by
  refine ⟨_, rfl, ?_⟩
  repeat' (first
    | with_reducible assumption
    | with_reducible intro v
    | exact ‹Low _ _›.of_le (by decide)
    | with_reducible apply arrive_kept
)

theorem execElectionStart_kept {lb : Nat} {may : Part → Prop} {s0 s : State} (h : Kept lb may s0 s) (hn : Low lb 0x1a0004 := by exact ‹Low _ _›.up rfl) (h_timers : may .timers := by assumption) (h_chain : may .chain := by assumption) :
    ∃ out, execElectionStart s = .next out ∧ Kept lb may s0 out := by
  refine ⟨_, rfl, ?_⟩
  repeat' (first
    | with_reducible assumption
    | with_reducible intro v
    | exact ‹Low _ _›.of_le (by decide)
    | with_reducible apply electionStart_kept
)

theorem execBetterMasterSeen_kept {lb : Nat} {may : Part → Prop} {s0 s : State} (p : Fin 2) (id : BitVec 10) (hops : BitVec 10) (q : BitVec 8) (h : Kept lb may s0 s) (hn : Low lb 0x1a0004 := by exact ‹Low _ _›.up rfl) (h_timers : may .timers := by assumption) (h_chain : may .chain := by assumption) :
    ∃ out, execBetterMasterSeen p id hops q s = .next out ∧ Kept lb may s0 out := by
  refine ⟨_, rfl, ?_⟩
  repeat' (first
    | with_reducible assumption
    | with_reducible intro v
    | exact ‹Low _ _›.of_le (by decide)
    | with_reducible apply betterMaster_kept
)

theorem execChallenge_kept {lb : Nat} {may : Part → Prop} {s0 s : State} (h : Kept lb may s0 s) (hn : Low lb 0x10004 := by exact ‹Low _ _›.up rfl) (h_free : may .free := by assumption) (h_timers : may .timers := by assumption) (h_clk : may .clk := by assumption) (h_chain : may .chain := by assumption) :
    ∃ out, execChallenge s = .next out ∧ Kept lb may s0 out := by
  refine ⟨_, rfl, ?_⟩
  repeat' (first
    | with_reducible assumption
    | with_reducible intro v
    | exact ‹Low _ _›.of_le (by decide)
    | with_reducible apply challenge_kept
)

theorem execOrphan_kept {lb : Nat} {may : Part → Prop} {s0 s : State} (h : Kept lb may s0 s) (hn : Low lb 0x1a0004 := by exact ‹Low _ _›.up rfl) (h_timers : may .timers := by assumption) (h_chain : may .chain := by assumption) :
    ∃ out, execOrphan s = .next out ∧ Kept lb may s0 out := by
  refine ⟨_, rfl, ?_⟩
  repeat' (first
    | with_reducible assumption
    | with_reducible intro v
    | exact ‹Low _ _›.of_le (by decide)
    | with_reducible apply orphan_kept
)

theorem execTickCountReload_kept {lb : Nat} {may : Part → Prop} {s0 s : State} (n : TickNo) (h : Kept lb may s0 s) (hn : Low lb 0x1a0418 := by exact ‹Low _ _›.up rfl) (h_tick : may .tick := by assumption) (h_chain : may .chain := by assumption) :
    ∃ out, execTickCountReload n s = .next out ∧ Kept lb may s0 out := by
  refine ⟨_, rfl, ?_⟩
  repeat' (first
    | with_reducible assumption
    | with_reducible intro v
    | exact ‹Low _ _›.of_le (by decide)
    | with_reducible apply tickReload_kept
)

theorem execPofsSet_kept {lb : Nat} {may : Part → Prop} {s0 s : State} (h : Kept lb may s0 s) (hn : Low lb 0x1a040c := by exact ‹Low _ _›.up rfl) (h_chain : may .chain := by assumption) :
    ∃ out, execPofsSet s = .next out ∧ Kept lb may s0 out := by
  refine ⟨_, rfl, ?_⟩
  repeat' (first
    | with_reducible assumption
    | with_reducible intro v
    | exact ‹Low _ _›.of_le (by decide)
    | with_reducible apply pofsSet_kept
)

theorem execDupId_kept {lb : Nat} {may : Part → Prop} {s0 s : State} (h : Kept lb may s0 s) (hn : Low lb 0x1a0418 := by exact ‹Low _ _›.up rfl) (h_chain : may .chain := by assumption) :
    ∃ out, execDupId s = .next out ∧ Kept lb may s0 out := by
  refine ⟨_, rfl, ?_⟩
  repeat' (first
    | with_reducible assumption
    | with_reducible intro v
    | exact ‹Low _ _›.of_le (by decide)
    | with_reducible apply dupId_kept
)

theorem execQueueFrameReceived_kept {lb : Nat} {may : Part → Prop} {s0 s : State} (q : Fin 2) (src : BitVec 16) (num : BitVec 16) (frame : List Byte) (h : Kept lb may s0 s) (hn : Low lb 0x1a050c := by exact ‹Low _ _›.up rfl) (h_chain : may .chain := by assumption) :
    ∃ out, execQueueFrameReceived q src num frame s = .next out ∧ Kept lb may s0 out := by
  refine ⟨_, rfl, ?_⟩
  repeat' (first
    | with_reducible assumption
    | with_reducible intro v
    | exact ‹Low _ _›.of_le (by decide)
    | (extract_lets +onlyGivenNames x; subst x)
    | with_reducible apply takeMsg_kept
    | with_reducible apply queueReceive_kept
    | with_reducible apply setChain_kept
    | split)

end Sys2Proof.Laws
end

