-- ==== Sys2Proof/Laws/KeptClockEvents.lean ====
section
/-! SUPPORT. Each operation of Machine/ClockEvents.lean keeps the queue, the time and the invariant. -/

set_option Elab.async false

namespace Sys2Proof.Laws

open Sys2Proof.Machine

theorem forcedFit_kept {lb : Nat} {may : Part → Prop} {s0 s : State} (rate : ℕ) (h : Kept lb may s0 s) (hn : Low lb 0xa0 := by exact ‹Low _ _›.up rfl) (h_timers : may .timers := by assumption) (h_fab : may .fab := by assumption) (h_irq : may .irq := by assumption) (h_aout : may .aout := by assumption) (h_hp : may .hp := by assumption) (h_psc : may .psc := by assumption) (h_mbx : may .mbx := by assumption) :
    Kept lb may s0 (State.forcedFit s rate) := by
  unfold State.forcedFit
  repeat' (first
    | with_reducible assumption
    | exact ‹Low _ _›.of_le (by decide)
    | (extract_lets +onlyGivenNames x; subst x)
    | with_reducible apply parkFit_kept
    | with_reducible apply enterSafe_kept
    | with_reducible apply Kept.foldl
    | with_reducible apply Kept.foldl_snd
    | with_reducible apply Kept.foldl_fst
    | intro v
    | split)

theorem forcedRills_kept {lb : Nat} {may : Part → Prop} {s0 s : State} (rate : ℕ) (h : Kept lb may s0 s) (hn : Low lb 0xa0 := by exact ‹Low _ _›.up rfl) (h_timers : may .timers := by assumption) (h_fab : may .fab := by assumption) (h_irq : may .irq := by assumption) (h_aout : may .aout := by assumption) (h_hp : may .hp := by assumption) (h_psc : may .psc := by assumption) (h_mbx : may .mbx := by assumption) :
    Kept lb may s0 (State.forcedRills s rate) := by
  unfold State.forcedRills
  repeat' (first
    | with_reducible assumption
    | exact ‹Low _ _›.of_le (by decide)
    | with_reducible apply enterSafe_kept
    | with_reducible apply flag_kept
    | intro v
    | split)

theorem rateSteps_kept {lb : Nat} {may : Part → Prop} {s0 s : State} (h : Kept lb may s0 s) (hn : Low lb 0x0 := by exact ‹Low _ _›.up rfl) (h_timers : may .timers := by assumption) (h_tick : may .tick := by assumption) (h_clk : may .clk := by assumption) (h_bus : may .bus := by assumption) (h_ain : may .ain := by assumption) (h_aout : may .aout := by assumption) (h_hp : may .hp := by assumption) (h_asrc : may .asrc := by assumption) (h_sap : may .sap := by assumption) (h_chain : may .chain := by assumption) (h_lsn : may .lsn := by assumption) (h_xing : may .xing := by assumption) :
    Kept lb may s0 (State.rateSteps s) := by
  unfold State.rateSteps
  repeat' (first
    | with_reducible assumption
    | exact ‹Low _ _›.of_le (by decide)
    | exact ‹Low _ _›.of_le (Nat.zero_le _)
    | with_reducible apply lsnFollowAll_kept
    | with_reducible apply chainFollowAll_kept
    | with_reducible apply asrcRateChange_kept
    | with_reducible apply hpRateChange_kept
    | with_reducible apply aoRateChange_kept
    | with_reducible apply aiRestartAll_kept
)

theorem forceRate_kept {lb : Nat} {may : Part → Prop} {s0 s : State} (rate : ℕ) (h : Kept lb may s0 s) (hn : Low lb 0x0 := by exact ‹Low _ _›.up rfl) (h_timers : may .timers := by assumption) (h_tick : may .tick := by assumption) (h_clk : may .clk := by assumption) (h_fab : may .fab := by assumption) (h_bus : may .bus := by assumption) (h_irq : may .irq := by assumption) (h_ain : may .ain := by assumption) (h_aout : may .aout := by assumption) (h_hp : may .hp := by assumption) (h_psc : may .psc := by assumption) (h_asrc : may .asrc := by assumption) (h_sap : may .sap := by assumption) (h_mbx : may .mbx := by assumption) (h_chain : may .chain := by assumption) (h_lsn : may .lsn := by assumption) (h_xing : may .xing := by assumption) :
    Kept lb may s0 (State.forceRate s rate) := by
  unfold State.forceRate
  repeat' (first
    | with_reducible assumption
    | exact ‹Low _ _›.of_le (by decide)
    | with_reducible apply rateSteps_kept
    | with_reducible apply forcedRills_kept
    | with_reducible apply forcedFit_kept
    | with_reducible apply set_kept
)

theorem rateFollow_kept {lb : Nat} {may : Part → Prop} {s0 s : State} (h : Kept lb may s0 s) (hn : Low lb 0x0 := by exact ‹Low _ _›.up rfl) (h_timers : may .timers := by assumption) (h_tick : may .tick := by assumption) (h_clk : may .clk := by assumption) (h_fab : may .fab := by assumption) (h_bus : may .bus := by assumption) (h_irq : may .irq := by assumption) (h_ain : may .ain := by assumption) (h_aout : may .aout := by assumption) (h_hp : may .hp := by assumption) (h_psc : may .psc := by assumption) (h_asrc : may .asrc := by assumption) (h_sap : may .sap := by assumption) (h_mbx : may .mbx := by assumption) (h_chain : may .chain := by assumption) (h_lsn : may .lsn := by assumption) (h_xing : may .xing := by assumption) :
    Kept lb may s0 (State.rateFollow s) := by
  unfold State.rateFollow
  repeat' (first
    | with_reducible assumption
    | exact ‹Low _ _›.of_le (by decide)
    | (extract_lets +onlyGivenNames x; subst x)
    | with_reducible apply forceRate_kept
    | with_reducible apply startTimer_kept
    | with_reducible apply setClk_kept
    | with_reducible apply stopTimer_kept
    | split)

theorem startRatio_kept {lb : Nat} {may : Part → Prop} {s0 s : State} (h : Kept lb may s0 s) (hn : Low lb 0x20200 := by exact ‹Low _ _›.up rfl) :
    Kept lb may s0 (State.startRatio s) := by
  unfold State.startRatio
  repeat' (first
    | with_reducible assumption
    | exact ‹Low _ _›.up1 rfl
    | exact ‹Low _ _›.of_le (by decide)
    | with_reducible apply set_kept
    | with_reducible refine Kept.foldl _ _ _ ?_ fun _ _ _ => ?_
    | with_reducible refine Kept.foldl_snd _ _ _ ?_ fun _ _ _ => ?_
    | with_reducible refine Kept.foldl_fst _ _ _ ?_ fun _ _ _ => ?_
    | intro v
    | split)

theorem hopHalt_kept {lb : Nat} {may : Part → Prop} {s0 s : State} (a1 : HopSt) (h : Kept lb may s0 s) (hn : Low lb 0x10000 := by exact ‹Low _ _›.up rfl) (h_timers : may .timers := by assumption) (h_clk : may .clk := by assumption) (h_asrc : may .asrc := by assumption) (h_sap : may .sap := by assumption) (h_chain : may .chain := by assumption) :
    Kept lb may s0 (State.hopHalt s a1) := by
  unfold State.hopHalt
  repeat' (first
    | with_reducible assumption
    | exact ‹Low _ _›.up1 rfl
    | exact ‹Low _ _›.of_le (by decide)
    | (extract_lets +onlyGivenNames x; refine (have hx : Kept lb may s0 x := ?_; ?_); rotate_left; clear_value x; rotate_right; subst x)
    | (extract_lets +onlyGivenNames x; clear_value x)
    | with_reducible apply lanesUnlockAll_kept
    | with_reducible apply sapStop_kept
    | with_reducible apply setClk_kept
    | with_reducible apply set_kept
    | with_reducible apply writeShadow_kept
    | with_reducible apply pllLoad_kept
    | with_reducible apply chainFollowAll_kept
    | with_reducible apply lsnClock_kept
    | with_reducible refine Kept.foldl _ _ _ ?_ fun _ _ _ => ?_
    | with_reducible refine Kept.foldl_snd _ _ _ ?_ fun _ _ _ => ?_
    | with_reducible refine Kept.foldl_fst _ _ _ ?_ fun _ _ _ => ?_
    | intro v
    | split)

theorem hopStop_kept {lb : Nat} {may : Part → Prop} {s0 s : State} (a1 : HopSt) (h : Kept lb may s0 s) (hn : Low lb 0x10000 := by exact ‹Low _ _›.up rfl) (h_timers : may .timers := by assumption) (h_clk : may .clk := by assumption) (h_psc : may .psc := by assumption) (h_asrc : may .asrc := by assumption) (h_sap : may .sap := by assumption) (h_chain : may .chain := by assumption) :
    Kept lb may s0 (State.hopStop s a1) := by
  unfold State.hopStop
  repeat' (first
    | with_reducible assumption
    | exact ‹Low _ _›.of_le (by decide)
    | (extract_lets +onlyGivenNames x; refine (have hx : Kept lb may s0 x := ?_; ?_); rotate_left; clear_value x; rotate_right; subst x)
    | (extract_lets +onlyGivenNames x; clear_value x)
    | with_reducible apply pscFamilyPark_kept
    | with_reducible apply setClk_kept
    | with_reducible apply hopHalt_kept
    | split)

theorem tickEnd_kept {lb : Nat} {may : Part → Prop} {s0 s : State} (h : Kept lb may s0 s) (hn : Low lb 0x10000 := by exact ‹Low _ _›.up rfl) (h_timers : may .timers := by assumption) (h_clk : may .clk := by assumption) (h_fab : may .fab := by assumption) (h_asrc : may .asrc := by assumption) (h_sap : may .sap := by assumption) (h_chain : may .chain := by assumption) :
    Kept lb may s0 (State.tickEnd s) := by
  unfold State.tickEnd
  repeat' (first
    | with_reducible assumption
    | exact ‹Low _ _›.of_le (by decide)
    | (extract_lets +onlyGivenNames x; refine (have hx : Kept lb may s0 x := ?_; ?_); rotate_left; clear_value x; rotate_right; subst x)
    | (extract_lets +onlyGivenNames x; clear_value x)
    | with_reducible apply safePark_kept
    | with_reducible apply setClk_kept
    | with_reducible apply hopHalt_kept
    | split)

theorem hopStart_kept {lb : Nat} {may : Part → Prop} {s0 s : State} (a1 : HopSt) (us : ℕ) (h : Kept lb may s0 s) (hn : Low lb 0x0 := by exact ‹Low _ _›.up rfl) (h_timers : may .timers := by assumption) (h_tick : may .tick := by assumption) (h_clk : may .clk := by assumption) (h_fab : may .fab := by assumption) (h_bus : may .bus := by assumption) (h_irq : may .irq := by assumption) (h_ain : may .ain := by assumption) (h_aout : may .aout := by assumption) (h_hp : may .hp := by assumption) (h_psc : may .psc := by assumption) (h_asrc : may .asrc := by assumption) (h_sap : may .sap := by assumption) (h_mbx : may .mbx := by assumption) (h_chain : may .chain := by assumption) (h_lsn : may .lsn := by assumption) (h_xing : may .xing := by assumption) :
    Kept lb may s0 (State.hopStart s a1 us) := by
  unfold State.hopStart
  repeat' (first
    | with_reducible assumption
    | exact ‹Low _ _›.up1 rfl
    | exact ‹Low _ _›.of_le (by decide)
    | exact ‹Low _ _›.of_le (Nat.zero_le _)
    | (extract_lets +onlyGivenNames x; refine (have hx : Kept lb may s0 x := ?_; ?_); rotate_left; clear_value x; rotate_right; subst x)
    | (extract_lets +onlyGivenNames x; clear_value x)
    | with_reducible apply set_kept
    | with_reducible apply setClk_kept
    | with_reducible apply forcedRills_kept
    | with_reducible apply forcedFit_kept
    | with_reducible apply startTimer_kept
    | with_reducible apply rateSteps_kept
    | with_reducible apply startRatio_kept
    | split)

theorem hopEnd_kept {lb : Nat} {may : Part → Prop} {s0 s : State} (a1 : HopSt) (h : Kept lb may s0 s) (hn : Low lb 0x10004 := by exact ‹Low _ _›.up rfl) (h_free : may .free := by assumption) (h_timers : may .timers := by assumption) (h_clk : may .clk := by assumption) (h_psc : may .psc := by assumption) :
    Kept lb may s0 (State.hopEnd s a1) := by
  unfold State.hopEnd
  repeat' (first
    | with_reducible assumption
    | exact ‹Low _ _›.of_le (by decide)
    | (extract_lets +onlyGivenNames x; subst x)
    | with_reducible apply flag_kept
    | with_reducible apply stopTimer_kept
    | with_reducible apply setClk_kept
    | with_reducible apply refEnter_kept
    | with_reducible apply set_kept
    | with_reducible apply decisionDue_kept
    | with_reducible apply startTimer_kept
    | with_reducible apply acquire_kept
    | with_reducible apply pscPark_kept
    | split)

theorem familyChange_kept {lb : Nat} {may : Part → Prop} {s0 s : State} (us : ℕ) (h : Kept lb may s0 s) (hn : Low lb 0x0 := by exact ‹Low _ _›.up rfl) (h_free : may .free := by assumption) (h_timers : may .timers := by assumption) (h_tick : may .tick := by assumption) (h_clk : may .clk := by assumption) (h_fab : may .fab := by assumption) (h_bus : may .bus := by assumption) (h_irq : may .irq := by assumption) (h_ain : may .ain := by assumption) (h_aout : may .aout := by assumption) (h_hp : may .hp := by assumption) (h_psc : may .psc := by assumption) (h_asrc : may .asrc := by assumption) (h_sap : may .sap := by assumption) (h_mbx : may .mbx := by assumption) (h_chain : may .chain := by assumption) (h_lsn : may .lsn := by assumption) (h_xing : may .xing := by assumption) :
    Kept lb may s0 (State.familyChange s us) := by
  unfold State.familyChange
  repeat' (first
    | with_reducible assumption
    | exact ‹Low _ _›.of_le (by decide)
    | exact ‹Low _ _›.of_le (Nat.zero_le _)
    | with_reducible apply hopStop_kept
    | with_reducible apply hopHalt_kept
    | with_reducible apply hopStart_kept
    | with_reducible apply hopEnd_kept
    | split)

theorem hopAbandon_kept {lb : Nat} {may : Part → Prop} {s0 s : State} (h : Kept lb may s0 s) (h_timers : may .timers := by assumption) (h_clk : may .clk := by assumption) :
    Kept lb may s0 (State.hopAbandon s) := by
  unfold State.hopAbandon
  repeat' (first
    | with_reducible assumption
    | (extract_lets +onlyGivenNames x; refine (have hx : Kept lb may s0 x := ?_; ?_); rotate_left; clear_value x; rotate_right; subst x)
    | (extract_lets +onlyGivenNames x; clear_value x)
    | with_reducible apply setPll_kept
    | with_reducible apply stopTimer_kept
    | with_reducible apply setClk_kept)

theorem pscClockErrorAll_kept {lb : Nat} {may : Part → Prop} {s0 s : State} (h : Kept lb may s0 s) (hn : Low lb 0x7000c := by exact ‹Low _ _›.up rfl) (h_timers : may .timers := by assumption) (h_psc : may .psc := by assumption) (h_stew : may .stew := by assumption) :
    Kept lb may s0 (State.pscClockErrorAll s) := by
  unfold State.pscClockErrorAll
  repeat' (first
    | with_reducible assumption
    | exact ‹Low _ _›.of_le (by decide)
    | with_reducible apply pscClockError_kept
    | with_reducible apply Kept.foldl
    | intro v)

theorem pllLost_kept {lb : Nat} {may : Part → Prop} {s0 s : State} (p : ℕ) (h : Kept lb may s0 s) (hn : Low lb 0xa0 := by exact ‹Low _ _›.up rfl) (h_timers : may .timers := by assumption) (h_clk : may .clk := by assumption) (h_fab : may .fab := by assumption) (h_irq : may .irq := by assumption) (h_aout : may .aout := by assumption) (h_hp : may .hp := by assumption) (h_psc : may .psc := by assumption) (h_stew : may .stew := by assumption) (h_mbx : may .mbx := by assumption) (h_chain : may .chain := by assumption) :
    Kept lb may s0 (State.pllLost s p) := by
  unfold State.pllLost
  repeat' (first
    | with_reducible assumption
    | exact ‹Low _ _›.of_le (by decide)
    | (extract_lets +onlyGivenNames x; subst x)
    | with_reducible apply error_kept
    | with_reducible apply pllLose_kept
    | with_reducible apply chainFollowAll_kept
    | with_reducible apply enterSafe_kept
    | with_reducible apply pscClockErrorAll_kept
    | with_reducible apply chainQuiet_kept
    | split)

theorem refLost_kept {lb : Nat} {may : Part → Prop} {s0 s : State} (h : Kept lb may s0 s) (hn : Low lb 0xa0 := by exact ‹Low _ _›.up rfl) (h_timers : may .timers := by assumption) (h_clk : may .clk := by assumption) (h_fab : may .fab := by assumption) (h_irq : may .irq := by assumption) (h_aout : may .aout := by assumption) (h_hp : may .hp := by assumption) (h_psc : may .psc := by assumption) (h_stew : may .stew := by assumption) (h_mbx : may .mbx := by assumption) (h_chain : may .chain := by assumption) :
    Kept lb may s0 (State.refLost s) := by
  unfold State.refLost
  repeat' (first
    | with_reducible assumption
    | exact ‹Low _ _›.of_le (by decide)
    | (extract_lets +onlyGivenNames x; subst x)
    | with_reducible apply set_kept
    | with_reducible apply pllLose_kept
    | with_reducible apply setPll_kept
    | with_reducible apply hopAbandon_kept
    | with_reducible apply setClk_kept
    | with_reducible apply chainQuiet_kept
    | with_reducible apply pscClockErrorAll_kept
    | with_reducible apply enterSafe_kept
    | with_reducible apply errorNow_kept
    | with_reducible apply Kept.foldl
    | with_reducible apply Kept.foldl_snd
    | with_reducible apply Kept.foldl_fst
    | intro v
    | split)

theorem pllUpdate_kept {lb : Nat} {may : Part → Prop} {s0 s : State} (p : ℕ) (h : Kept lb may s0 s) (hn : Low lb 0x10000 := by exact ‹Low _ _›.up rfl) (h_timers : may .timers := by assumption) (h_clk : may .clk := by assumption) (h_psc : may .psc := by assumption) (h_stew : may .stew := by assumption) (h_chain : may .chain := by assumption) :
    Kept lb may s0 (State.pllUpdate s p) := by
  unfold State.pllUpdate
  repeat' (first
    | with_reducible assumption
    | exact ‹Low _ _›.of_le (by decide)
    | (extract_lets +onlyGivenNames x; subst x)
    | with_reducible apply flag_kept
    | with_reducible apply setClk_kept
    | with_reducible apply pllLoad_kept
    | with_reducible apply pscClockErrorAll_kept
    | with_reducible apply chainQuiet_kept
    | split)

theorem pllUpdWrite_kept {lb : Nat} {may : Part → Prop} {s0 s : State} (mask : ℕ) (h : Kept lb may s0 s) (hn : Low lb 0x10000 := by exact ‹Low _ _›.up rfl) (h_timers : may .timers := by assumption) (h_clk : may .clk := by assumption) (h_psc : may .psc := by assumption) (h_stew : may .stew := by assumption) (h_chain : may .chain := by assumption) :
    Kept lb may s0 (State.pllUpdWrite s mask) := by
  unfold State.pllUpdWrite
  repeat' (first
    | with_reducible assumption
    | exact ‹Low _ _›.of_le (by decide)
    | with_reducible apply pllUpdate_kept
    | with_reducible apply Kept.foldl
    | with_reducible apply Kept.foldl_snd
    | with_reducible apply Kept.foldl_fst
    | intro v
    | split)

theorem execRefLost_kept {lb : Nat} {may : Part → Prop} {s0 s : State} (h : Kept lb may s0 s) (hn : Low lb 0xa0 := by exact ‹Low _ _›.up rfl) (h_timers : may .timers := by assumption) (h_clk : may .clk := by assumption) (h_fab : may .fab := by assumption) (h_irq : may .irq := by assumption) (h_aout : may .aout := by assumption) (h_hp : may .hp := by assumption) (h_psc : may .psc := by assumption) (h_stew : may .stew := by assumption) (h_mbx : may .mbx := by assumption) (h_chain : may .chain := by assumption) :
    ∃ out, execRefLost s = .next out ∧ Kept lb may s0 out := by
  refine ⟨_, rfl, ?_⟩
  repeat' (first
    | with_reducible assumption
    | with_reducible intro v
    | exact ‹Low _ _›.of_le (by decide)
    | with_reducible apply refLost_kept
)

theorem execPllLoss_kept {lb : Nat} {may : Part → Prop} {s0 s : State} (e : PllLossSeen) (h : Kept lb may s0 s) (hn : Low lb 0xa0 := by exact ‹Low _ _›.up rfl) (h_timers : may .timers := by assumption) (h_clk : may .clk := by assumption) (h_fab : may .fab := by assumption) (h_irq : may .irq := by assumption) (h_aout : may .aout := by assumption) (h_hp : may .hp := by assumption) (h_psc : may .psc := by assumption) (h_stew : may .stew := by assumption) (h_mbx : may .mbx := by assumption) (h_chain : may .chain := by assumption) :
    ∃ out, execPllLoss e s = .next out ∧ Kept lb may s0 out := by
  refine ⟨_, rfl, ?_⟩
  repeat' (first
    | with_reducible assumption
    | with_reducible intro v
    | exact ‹Low _ _›.of_le (by decide)
    | with_reducible apply pllLost_kept
    | split)

theorem execClkPllUpdWrite_kept {lb : Nat} {may : Part → Prop} {s0 s : State} (mask : BitVec 4) (h : Kept lb may s0 s) (hn : Low lb 0x10000 := by exact ‹Low _ _›.up rfl) (h_timers : may .timers := by assumption) (h_clk : may .clk := by assumption) (h_bus : may .bus := by assumption) (h_psc : may .psc := by assumption) (h_stew : may .stew := by assumption) (h_chain : may .chain := by assumption) :
    ∃ out, execClkPllUpdWrite mask s = .next out ∧ Kept lb may s0 out := by
  refine ⟨_, rfl, ?_⟩
  repeat' (first
    | with_reducible assumption
    | with_reducible intro v
    | exact ‹Low _ _›.of_le (by decide)
    | with_reducible apply byRow_kept
    | with_reducible apply onBus_kept
    | with_reducible apply pllUpdWrite_kept
)

theorem execReferenceDecision_kept {lb : Nat} {may : Part → Prop} {s0 s : State} (h : Kept lb may s0 s) (hn : Low lb 0x5c := by exact ‹Low _ _›.up rfl) (h_free : may .free := by assumption) (h_timers : may .timers := by assumption) (h_tick : may .tick := by assumption) (h_clk : may .clk := by assumption) :
    ∃ out, execReferenceDecision s = .next out ∧ Kept lb may s0 out := by
  refine ⟨_, rfl, ?_⟩
  repeat' (first
    | with_reducible assumption
    | with_reducible intro v
    | exact ‹Low _ _›.of_le (by decide)
    | with_reducible apply decideSource_kept
    | with_reducible apply cancelArmed_kept
)

theorem execHoldLimitExpiry_kept {lb : Nat} {may : Part → Prop} {s0 s : State} (h : Kept lb may s0 s) (hn : Low lb 0x5c := by exact ‹Low _ _›.up rfl) (h_free : may .free := by assumption) (h_timers : may .timers := by assumption) (h_tick : may .tick := by assumption) (h_clk : may .clk := by assumption) :
    ∃ out, execHoldLimitExpiry s = .next out ∧ Kept lb may s0 out := by
  refine ⟨_, rfl, ?_⟩
  repeat' (first
    | with_reducible assumption
    | with_reducible intro v
    | exact ‹Low _ _›.of_le (by decide)
    | with_reducible apply holdLimit_kept
    | with_reducible apply cancelArmed_kept
)

theorem execRevert_kept {lb : Nat} {may : Part → Prop} {s0 s : State} (c : Fin 4) (h : Kept lb may s0 s) (hn : Low lb 0x5c := by exact ‹Low _ _›.up rfl) (h_free : may .free := by assumption) (h_timers : may .timers := by assumption) (h_tick : may .tick := by assumption) (h_clk : may .clk := by assumption) :
    ∃ out, execRevert c s = .next out ∧ Kept lb may s0 out := by
  refine ⟨_, rfl, ?_⟩
  repeat' (first
    | with_reducible assumption
    | with_reducible intro v
    | exact ‹Low _ _›.of_le (by decide)
    | with_reducible apply revert_kept
    | with_reducible apply cancelArmed_kept
)

theorem execRateFollow_kept {lb : Nat} {may : Part → Prop} {s0 s : State} (h : Kept lb may s0 s) (hn : Low lb 0x0 := by exact ‹Low _ _›.up rfl) (h_timers : may .timers := by assumption) (h_tick : may .tick := by assumption) (h_clk : may .clk := by assumption) (h_fab : may .fab := by assumption) (h_bus : may .bus := by assumption) (h_irq : may .irq := by assumption) (h_ain : may .ain := by assumption) (h_aout : may .aout := by assumption) (h_hp : may .hp := by assumption) (h_psc : may .psc := by assumption) (h_asrc : may .asrc := by assumption) (h_sap : may .sap := by assumption) (h_mbx : may .mbx := by assumption) (h_chain : may .chain := by assumption) (h_lsn : may .lsn := by assumption) (h_xing : may .xing := by assumption) :
    ∃ out, execRateFollow s = .next out ∧ Kept lb may s0 out := by
  refine ⟨_, rfl, ?_⟩
  repeat' (first
    | with_reducible assumption
    | with_reducible intro v
    | exact ‹Low _ _›.of_le (by decide)
    | with_reducible apply rateFollow_kept
)

theorem execFamilyChange_kept {lb : Nat} {may : Part → Prop} {s0 s : State} (us : BitVec 16) (h : Kept lb may s0 s) (hn : Low lb 0x0 := by exact ‹Low _ _›.up rfl) (h_free : may .free := by assumption) (h_timers : may .timers := by assumption) (h_tick : may .tick := by assumption) (h_clk : may .clk := by assumption) (h_fab : may .fab := by assumption) (h_bus : may .bus := by assumption) (h_irq : may .irq := by assumption) (h_ain : may .ain := by assumption) (h_aout : may .aout := by assumption) (h_hp : may .hp := by assumption) (h_psc : may .psc := by assumption) (h_asrc : may .asrc := by assumption) (h_sap : may .sap := by assumption) (h_mbx : may .mbx := by assumption) (h_chain : may .chain := by assumption) (h_lsn : may .lsn := by assumption) (h_xing : may .xing := by assumption) :
    ∃ out, execFamilyChange us s = .next out ∧ Kept lb may s0 out := by
  refine ⟨_, rfl, ?_⟩
  repeat' (first
    | with_reducible assumption
    | with_reducible intro v
    | exact ‹Low _ _›.of_le (by decide)
    | with_reducible apply familyChange_kept
)

end Sys2Proof.Laws
end

