-- ==== Sys2Proof/Laws/KeptGauge.lean ====
section
/-! SUPPORT. Each operation of Machine/Gauge.lean keeps the queue, the time and the invariant. -/

set_option Elab.async false

namespace Sys2Proof.Laws

open Sys2Proof.Machine

theorem setGauge_kept {lb : Nat} {may : Part → Prop} {s0 s : State} (g : GaugeSt) (h : Kept lb may s0 s) (h_gauge : may .gauge := by assumption) :
    Kept lb may s0 (State.setGauge s g) := by
  unfold State.setGauge
  repeat' (first
    | with_reducible assumption
    | with_reducible apply Kept.with_gauge)

theorem setGconv_kept {lb : Nat} {may : Part → Prop} {s0 s : State} (c : ℕ) (a2 : GaugeConv) (h : Kept lb may s0 s) (h_gauge : may .gauge := by assumption) :
    Kept lb may s0 (State.setGconv s c a2) := by
  unfold State.setGconv
  repeat' (first
    | with_reducible assumption
    | (extract_lets +onlyGivenNames x; subst x)
    | with_reducible apply setGauge_kept)

theorem gaugeShow_kept {lb : Nat} {may : Part → Prop} {s0 s : State} (h : Kept lb may s0 s) (hn : Low lb 0x170004 := by exact ‹Low _ _›.up rfl) (h_timers : may .timers := by assumption) (h_psc : may .psc := by assumption) :
    Kept lb may s0 (State.gaugeShow s) := by
  unfold State.gaugeShow
  repeat' (first
    | with_reducible assumption
    | exact ‹Low _ _›.up2 rfl
    | exact ‹Low _ _›.up1 rfl
    | exact ‹Low _ _›.of_le (by decide)
    | (extract_lets +onlyGivenNames x; subst x)
    | with_reducible apply set_kept
    | with_reducible apply pscPark_kept)

theorem gaugeCalBegin_kept {lb : Nat} {may : Part → Prop} {s0 s : State} (c : ℕ) (h : Kept lb may s0 s) (h_timers : may .timers := by assumption) (h_gauge : may .gauge := by assumption) :
    Kept lb may s0 (State.gaugeCalBegin s c) := by
  unfold State.gaugeCalBegin
  repeat' (first
    | with_reducible assumption
    | (extract_lets +onlyGivenNames x; subst x)
    | with_reducible apply startTimer_kept
    | with_reducible apply setGauge_kept)

theorem gaugeCalStart_kept {lb : Nat} {may : Part → Prop} {s0 s : State} (h : Kept lb may s0 s) (hn : Low lb 0x170004 := by exact ‹Low _ _›.up rfl) (h_timers : may .timers := by assumption) (h_psc : may .psc := by assumption) (h_gauge : may .gauge := by assumption) :
    Kept lb may s0 (State.gaugeCalStart s) := by
  unfold State.gaugeCalStart
  repeat' (first
    | with_reducible assumption
    | exact ‹Low _ _›.of_le (by decide)
    | (extract_lets +onlyGivenNames x; subst x)
    | with_reducible apply gaugeCalBegin_kept
    | with_reducible apply gaugeShow_kept
    | with_reducible apply Kept.foldl
    | with_reducible apply Kept.foldl_snd
    | with_reducible apply Kept.foldl_fst
    | intro v
    | split)

theorem gaugeCalibrate_kept {lb : Nat} {may : Part → Prop} {s0 s : State} (m : ℕ) (h : Kept lb may s0 s) (hn : Low lb 0x170004 := by exact ‹Low _ _›.up rfl) (h_timers : may .timers := by assumption) (h_psc : may .psc := by assumption) (h_gauge : may .gauge := by assumption) :
    Kept lb may s0 (State.gaugeCalibrate s m) := by
  unfold State.gaugeCalibrate
  repeat' (first
    | with_reducible assumption
    | exact ‹Low _ _›.of_le (by decide)
    | (extract_lets +onlyGivenNames x; subst x)
    | with_reducible apply gaugeCalStart_kept
    | with_reducible apply setGauge_kept)

theorem gaugeRefChange_kept {lb : Nat} {may : Part → Prop} {s0 s : State} (h : Kept lb may s0 s) (hn : Low lb 0x170004 := by exact ‹Low _ _›.up rfl) (h_timers : may .timers := by assumption) (h_psc : may .psc := by assumption) (h_gauge : may .gauge := by assumption) :
    Kept lb may s0 (State.gaugeRefChange s) := by
  unfold State.gaugeRefChange
  repeat' (first
    | with_reducible assumption
    | exact ‹Low _ _›.of_le (by decide)
    | (extract_lets +onlyGivenNames x; subst x)
    | with_reducible apply gaugeShow_kept
    | with_reducible apply setGauge_kept
    | with_reducible apply set_kept)

theorem gaugeCalCommand_kept {lb : Nat} {may : Part → Prop} {s0 s : State} (c : ℕ) (h : Kept lb may s0 s) (hn : Low lb 0xa4 := by exact ‹Low _ _›.up rfl) (h_irq : may .irq := by assumption) (h_mbx : may .mbx := by assumption) :
    Kept lb may s0 (State.gaugeCalCommand s c) := by
  unfold State.gaugeCalCommand
  repeat' (first
    | with_reducible assumption
    | exact ‹Low _ _›.of_le (by decide)
    | (extract_lets +onlyGivenNames x; subst x)
    | with_reducible apply complete_kept
    | with_reducible apply setMbx_kept
    | split)

theorem setHold_kept {lb : Nat} {may : Part → Prop} {s0 s : State} (i : ℕ) (l : List GaugeResult) (h : Kept lb may s0 s) (h_gauge : may .gauge := by assumption) :
    Kept lb may s0 (State.setHold s i l) := by
  unfold State.setHold
  repeat' (first
    | with_reducible assumption
    | (extract_lets +onlyGivenNames x; subst x)
    | with_reducible apply setGauge_kept
    | split)

theorem injTrigger_kept {lb : Nat} {may : Part → Prop} {s0 s : State} (c : ℕ) (volts : List ℤ) (h : Kept lb may s0 s) (hn : Low lb 0x180008 := by exact ‹Low _ _›.up rfl) (h_gauge : may .gauge := by assumption) :
    Kept lb may s0 (State.injTrigger s c volts) := by
  unfold State.injTrigger
  repeat' (first
    | with_reducible assumption
    | exact ‹Low _ _›.up1 rfl
    | exact ‹Low _ _›.of_le (by decide)
    | (extract_lets +onlyGivenNames x; clear_value x)
    | with_reducible apply flag_kept
    | with_reducible apply count_kept
    | with_reducible apply setGconv_kept
    | split)

theorem regTrigger_kept {lb : Nat} {may : Part → Prop} {s0 s : State} (c : ℕ) (volts : List ℤ) (h : Kept lb may s0 s) (hn : Low lb 0x180008 := by exact ‹Low _ _›.up rfl) (h_gauge : may .gauge := by assumption) :
    Kept lb may s0 (State.regTrigger s c volts) := by
  unfold State.regTrigger
  repeat' (first
    | with_reducible assumption
    | exact ‹Low _ _›.up1 rfl
    | exact ‹Low _ _›.of_le (by decide)
    | (extract_lets +onlyGivenNames x; clear_value x)
    | with_reducible apply flag_kept
    | with_reducible apply count_kept
    | with_reducible apply setGconv_kept
    | split)

theorem takeVolts_kept {lb : Nat} {may : Part → Prop} {s0 s : State} (n : ℕ) (volts : List ℤ) (h : Kept lb may s0 s) (h_free : may .free := by assumption) :
    Kept lb may s0 (State.takeVolts s n volts).2 := by
  unfold State.takeVolts
  repeat' (first
    | with_reducible assumption
    | (extract_lets +onlyGivenNames x; clear_value x)
    | intro v
    | with_reducible apply Kept.with_free)

theorem runEntry_kept {lb : Nat} {may : Part → Prop} {s0 s : State} (a1 : ℕ) (c : ℕ) (inj : Bool) (r : GaugeRun) (h : Kept lb may s0 s) (h_free : may .free := by assumption) (h_gauge : may .gauge := by assumption) :
    Kept lb may s0 (State.runEntry s a1 c inj r) := by
  unfold State.runEntry
  repeat' (first
    | with_reducible assumption
    | (extract_lets +onlyGivenNames x; clear_value x)
    | with_reducible apply takeVolts_kept
    | with_reducible apply setGconv_kept
    | with_reducible apply setHold_kept
    | split)

theorem gaugeConvert_kept {lb : Nat} {may : Part → Prop} {s0 s : State} (a1 : ℕ) (h : Kept lb may s0 s) (h_free : may .free := by assumption) (h_gauge : may .gauge := by assumption) :
    Kept lb may s0 (State.gaugeConvert s a1) := by
  unfold State.gaugeConvert
  repeat' (first
    | with_reducible assumption
    | with_reducible apply runEntry_kept
    | split)

theorem bufMark_kept {lb : Nat} {may : Part → Prop} {s0 s : State} (n : ℕ) (h : Kept lb may s0 s) (hn : Low lb 0x180008 := by exact ‹Low _ _›.up rfl) :
    Kept lb may s0 (State.bufMark s n) := by
  unfold State.bufMark
  repeat' (first
    | with_reducible assumption
    | exact ‹Low _ _›.of_le (by decide)
    | (extract_lets +onlyGivenNames x; subst x)
    | with_reducible apply setBitAt_kept
    | with_reducible apply flagIf_kept)

theorem bufStore_kept {lb : Nat} {may : Part → Prop} {s0 s : State} (n : ℕ) (v : Word) (h : Kept lb may s0 s) (hn : Low lb 0x180008 := by exact ‹Low _ _›.up rfl) (h_ram : may .ram := by assumption) :
    Kept lb may s0 (State.bufStore s n v) := by
  unfold State.bufStore
  repeat' (first
    | with_reducible assumption
    | exact ‹Low _ _›.up1 rfl
    | exact ‹Low _ _›.of_le (by decide)
    | (extract_lets +onlyGivenNames x; subst x)
    | with_reducible apply flag_kept
    | with_reducible apply count_kept
    | with_reducible apply bufMark_kept
    | with_reducible apply set_kept
    | with_reducible apply setRamWord_kept
    | split)

theorem bufMarkAll_kept {lb : Nat} {may : Part → Prop} {s0 s : State} (h : Kept lb may s0 s) (hn : Low lb 0x180008 := by exact ‹Low _ _›.up rfl) :
    Kept lb may s0 (State.bufMarkAll s) := by
  unfold State.bufMarkAll
  repeat' (first
    | with_reducible assumption
    | exact ‹Low _ _›.of_le (by decide)
    | with_reducible apply bufMark_kept
    | with_reducible apply Kept.foldl
    | intro v)

theorem showPvdd_kept {lb : Nat} {may : Part → Prop} {s0 s : State} (k : ℕ) (code : ℕ) (h : Kept lb may s0 s) (hn : Low lb 0x17006c := by exact ‹Low _ _›.up rfl) :
    Kept lb may s0 (State.showPvdd s k code) := by
  unfold State.showPvdd
  repeat' (first
    | with_reducible assumption
    | exact ‹Low _ _›.up1 rfl
    | exact ‹Low _ _›.of_le (by decide)
    | (extract_lets +onlyGivenNames x; subst x)
    | with_reducible apply set_kept)

theorem estimatorTakes_kept {lb : Nat} {may : Part → Prop} {s0 s : State} (r : GaugeResult) (h : Kept lb may s0 s) (hn : Low lb 0x17006c := by exact ‹Low _ _›.up rfl) (h_psc : may .psc := by assumption) (h_gauge : may .gauge := by assumption) :
    Kept lb may s0 (State.estimatorTakes s r) := by
  unfold State.estimatorTakes
  repeat' (first
    | with_reducible assumption
    | exact ‹Low _ _›.of_le (by decide)
    | (extract_lets +onlyGivenNames x; refine (have hx : Kept lb may s0 x := ?_; ?_); rotate_left; clear_value x; rotate_right; subst x)
    | (extract_lets +onlyGivenNames x; clear_value x)
    | with_reducible apply setGauge_kept
    | with_reducible apply showPvdd_kept
    | with_reducible apply setPscCh_kept
    | intro v
    | split)

theorem deliverResult_kept {lb : Nat} {may : Part → Prop} {s0 s : State} (r : GaugeResult) (h : Kept lb may s0 s) (hn : Low lb 0x20200 := by exact ‹Low _ _›.up rfl) (h_psc : may .psc := by assumption) (h_gauge : may .gauge := by assumption) (h_ram : may .ram := by assumption) (h_pwr : may .pwr := by assumption) (h_xing : may .xing := by assumption) :
    Kept lb may s0 (State.deliverResult s r) := by
  unfold State.deliverResult
  repeat' (first
    | with_reducible assumption
    | exact ‹Low _ _›.up1 rfl
    | exact ‹Low _ _›.of_le (by decide)
    | (extract_lets +onlyGivenNames x; clear_value x)
    | with_reducible apply bufStore_kept
    | with_reducible apply estimatorTakes_kept
    | with_reducible apply ungate_kept
    | with_reducible apply setXing_kept
    | with_reducible apply set_kept
    | split)

theorem collect_kept {lb : Nat} {may : Part → Prop} {s0 s : State} (h : Kept lb may s0 s) (hn : Low lb 0x20200 := by exact ‹Low _ _›.up rfl) (h_psc : may .psc := by assumption) (h_gauge : may .gauge := by assumption) (h_ram : may .ram := by assumption) (h_pwr : may .pwr := by assumption) (h_xing : may .xing := by assumption) :
    Kept lb may s0 (State.collect s) := by
  unfold State.collect
  repeat' (first
    | with_reducible assumption
    | exact ‹Low _ _›.of_le (by decide)
    | with_reducible apply deliverResult_kept
    | with_reducible apply setHold_kept
    | intro v
    | split)

theorem eventConversion_kept {lb : Nat} {may : Part → Prop} {s0 s : State} (k : ℕ) (sense : Option (Bool × FcNode)) (v : ℤ) (ownBusy : Bool) (otherBusy : Bool) (h : Kept lb may s0 s) (hn : Low lb 0x170004 := by exact ‹Low _ _›.up rfl) (h_psc : may .psc := by assumption) (h_gauge : may .gauge := by assumption) :
    Kept lb may s0 (State.eventConversion s k sense v ownBusy otherBusy) := by
  unfold State.eventConversion
  repeat' (first
    | with_reducible assumption
    | exact ‹Low _ _›.of_le (by decide)
    | (extract_lets +onlyGivenNames x; clear_value x)
    | with_reducible apply setHold_kept
    | with_reducible apply fcMiss_kept
    | split)

theorem fcTaken_kept {lb : Nat} {may : Part → Prop} {s0 s : State} (k : ℕ) (i : ℕ) (h : Kept lb may s0 s) (h_psc : may .psc := by assumption) :
    Kept lb may s0 (State.fcTaken s k i) := by
  unfold State.fcTaken
  repeat' (first
    | with_reducible assumption
    | (extract_lets +onlyGivenNames x; clear_value x)
    | with_reducible apply setPscCh_kept
    | intro v
    | split)

theorem fcEvent_kept {lb : Nat} {may : Part → Prop} {s0 s : State} (k : ℕ) (half : Bool) (second : Bool) (uv : ℕ) (ownBusy : Bool) (otherBusy : Bool) (h : Kept lb may s0 s) (hn : Low lb 0x170004 := by exact ‹Low _ _›.up rfl) (h_psc : may .psc := by assumption) (h_gauge : may .gauge := by assumption) :
    Kept lb may s0 (State.fcEvent s k half second uv ownBusy otherBusy) := by
  unfold State.fcEvent
  repeat' (first
    | with_reducible assumption
    | exact ‹Low _ _›.of_le (by decide)
    | (extract_lets +onlyGivenNames x; clear_value x)
    | with_reducible apply fcTaken_kept
    | with_reducible apply eventConversion_kept
    | with_reducible apply fcMiss_kept
    | split)

theorem pvddEvent_kept {lb : Nat} {may : Part → Prop} {s0 s : State} (k : ℕ) (uv : ℕ) (ownBusy : Bool) (otherBusy : Bool) (h : Kept lb may s0 s) (hn : Low lb 0x170004 := by exact ‹Low _ _›.up rfl) (h_psc : may .psc := by assumption) (h_gauge : may .gauge := by assumption) :
    Kept lb may s0 (State.pvddEvent s k uv ownBusy otherBusy) := by
  unfold State.pvddEvent
  repeat' (first
    | with_reducible assumption
    | exact ‹Low _ _›.of_le (by decide)
    | with_reducible apply eventConversion_kept
    | with_reducible apply fcTaken_kept
    | split)

theorem execEventConversion_kept {lb : Nat} {may : Part → Prop} {s0 s : State} (k : Fin 8) (sense : Sense) (uv : ℕ) (ownBusy : Bool) (otherBusy : Bool) (h : Kept lb may s0 s) (hn : Low lb 0x170004 := by exact ‹Low _ _›.up rfl) (h_psc : may .psc := by assumption) (h_gauge : may .gauge := by assumption) :
    ∃ out, execEventConversion k sense uv ownBusy otherBusy s = .next out ∧ Kept lb may s0 out := by
  refine ⟨_, rfl, ?_⟩
  repeat' (first
    | with_reducible assumption
    | with_reducible intro v
    | exact ‹Low _ _›.of_le (by decide)
    | with_reducible apply fcEvent_kept
    | with_reducible apply pvddEvent_kept
    | split)

theorem execChannelStart_kept {lb : Nat} {may : Part → Prop} {s0 s : State} (k : Fin 8) (line : Bool) (uv : ℕ) (h : Kept lb may s0 s) (hn : Low lb 0x170004 := by exact ‹Low _ _›.up rfl) (h_timers : may .timers := by assumption) (h_psc : may .psc := by assumption) (h_gauge : may .gauge := by assumption) :
    ∃ out, execChannelStart k line uv s = .next out ∧ Kept lb may s0 out := by
  refine ⟨_, rfl, ?_⟩
  repeat' (first
    | with_reducible assumption
    | with_reducible intro v
    | exact ‹Low _ _›.of_le (by decide)
    | with_reducible apply pscStart_kept
    | with_reducible apply eventConversion_kept
    | split)

theorem execInjectedTrigger_kept {lb : Nat} {may : Part → Prop} {s0 s : State} (c : Fin 2) (k : Fin 8) (volts : List ℤ) (h : Kept lb may s0 s) (hn : Low lb 0x180008 := by exact ‹Low _ _›.up rfl) (h_gauge : may .gauge := by assumption) :
    ∃ out, execInjectedTrigger c k volts s = .next out ∧ Kept lb may s0 out := by
  refine ⟨_, rfl, ?_⟩
  repeat' (first
    | with_reducible assumption
    | with_reducible intro v
    | exact ‹Low _ _›.of_le (by decide)
    | with_reducible apply injTrigger_kept
    | split)

theorem execGaugeSwTrigger_kept {lb : Nat} {may : Part → Prop} {s0 s : State} (c : Fin 2) (volts : List ℤ) (h : Kept lb may s0 s) (hn : Low lb 0x180008 := by exact ‹Low _ _›.up rfl) (h_bus : may .bus := by assumption) (h_gauge : may .gauge := by assumption) :
    ∃ out, execGaugeSwTrigger c volts s = .next out ∧ Kept lb may s0 out := by
  refine ⟨_, rfl, ?_⟩
  repeat' (first
    | with_reducible assumption
    | with_reducible intro v
    | exact ‹Low _ _›.of_le (by decide)
    | with_reducible apply byRow_kept
    | with_reducible apply onBus_kept
    | with_reducible apply injTrigger_kept
)

theorem execRegularTrigger_kept {lb : Nat} {may : Part → Prop} {s0 s : State} (c : Fin 2) (volts : List ℤ) (h : Kept lb may s0 s) (hn : Low lb 0x180008 := by exact ‹Low _ _›.up rfl) (h_gauge : may .gauge := by assumption) :
    ∃ out, execRegularTrigger c volts s = .next out ∧ Kept lb may s0 out := by
  refine ⟨_, rfl, ?_⟩
  repeat' (first
    | with_reducible assumption
    | with_reducible intro v
    | exact ‹Low _ _›.of_le (by decide)
    | with_reducible apply regTrigger_kept
    | split)

theorem gaugeTimerAt_kept {lb : Nat} {may : Part → Prop} {s0 s : State} (c : ℕ) (reg : List ℤ) (inj : List ℤ) (h : Kept lb may s0 s) (hn : Low lb 0x180008 := by exact ‹Low _ _›.up rfl) (h_gauge : may .gauge := by assumption) :
    Kept lb may s0 (State.gaugeTimerAt s c reg inj) := by
  unfold State.gaugeTimerAt
  repeat' (first
    | with_reducible assumption
    | exact ‹Low _ _›.of_le (by decide)
    | (extract_lets +onlyGivenNames x; refine (have hx : Kept lb may s0 x := ?_; ?_); rotate_left; clear_value x; rotate_right; subst x)
    | with_reducible apply injTrigger_kept
    | with_reducible apply regTrigger_kept
    | split)

theorem gaugeMs_kept {lb : Nat} {may : Part → Prop} {s0 s : State} (h : Kept lb may s0 s) (h_gauge : may .gauge := by assumption) :
    Kept lb may s0 (State.gaugeMs s) := by
  unfold State.gaugeMs
  repeat' (first
    | with_reducible assumption
    | (extract_lets +onlyGivenNames x; clear_value x)
    | with_reducible apply setGauge_kept
    | split)

theorem execGaugeTimer_kept {lb : Nat} {may : Part → Prop} {s0 s : State} (regA : List ℤ) (injA : List ℤ) (regB : List ℤ) (injB : List ℤ) (h : Kept lb may s0 s) (hn : Low lb 0x180008 := by exact ‹Low _ _›.up rfl) (h_gauge : may .gauge := by assumption) :
    ∃ out, execGaugeTimer regA injA regB injB s = .next out ∧ Kept lb may s0 out := by
  refine ⟨_, rfl, ?_⟩
  repeat' (first
    | with_reducible assumption
    | with_reducible intro v
    | exact ‹Low _ _›.of_le (by decide)
    | (extract_lets +onlyGivenNames x; clear_value x)
    | with_reducible apply gaugeTimerAt_kept
    | with_reducible apply setGauge_kept
    | split)

theorem gxPair_kept {lb : Nat} {may : Part → Prop} {s0 s : State} (a : ℤ) (b : ℤ) (h : Kept lb may s0 s) (hn : Low lb 0x7000c := by exact ‹Low _ _›.up rfl) (h_free : may .free := by assumption) (h_stew : may .stew := by assumption) (h_gauge : may .gauge := by assumption) :
    Kept lb may s0 (State.gxPair s a b) := by
  unfold State.gxPair
  repeat' (first
    | with_reducible assumption
    | exact ‹Low _ _›.of_le (by decide)
    | (extract_lets +onlyGivenNames x; refine (have hx : Kept lb may s0 x := ?_; ?_); rotate_left; clear_value x; rotate_right; subst x)
    | (extract_lets +onlyGivenNames x; clear_value x)
    | with_reducible apply setInt_kept
    | with_reducible apply drawn_kept
    | with_reducible apply set_kept
    | with_reducible apply error_kept
    | with_reducible apply flag_kept
    | with_reducible apply count_kept
    | with_reducible apply setGauge_kept
    | split)

theorem execStewardConversion_kept {lb : Nat} {may : Part → Prop} {s0 s : State} (ntc : List ℤ) (gx : Option (ℤ × ℤ)) (h : Kept lb may s0 s) (hn : Low lb 0x7000c := by exact ‹Low _ _›.up rfl) (h_free : may .free := by assumption) (h_timers : may .timers := by assumption) (h_psc : may .psc := by assumption) (h_stew : may .stew := by assumption) (h_gauge : may .gauge := by assumption) :
    ∃ out, execStewardConversion ntc gx s = .next out ∧ Kept lb may s0 out := by
  refine ⟨_, rfl, ?_⟩
  repeat' (first
    | with_reducible assumption
    | exact ‹Low _ _›.of_le (by decide)
    | (extract_lets +onlyGivenNames x; clear_value x)
    | with_reducible apply thermalStop_kept
    | with_reducible apply setPscCh_kept
    | with_reducible apply startTimer_kept
    | with_reducible apply gxPair_kept
    | with_reducible refine Kept.foldl _ _ _ ?_ fun _ _ _ => ?_
    | with_reducible refine Kept.foldl_snd _ _ _ ?_ fun _ _ _ => ?_
    | with_reducible refine Kept.foldl_fst _ _ _ ?_ fun _ _ _ => ?_
    | intro v
    | split)

theorem execResultDelivery_kept {lb : Nat} {may : Part → Prop} {s0 s : State} (h : Kept lb may s0 s) (hn : Low lb 0x20200 := by exact ‹Low _ _›.up rfl) (h_free : may .free := by assumption) (h_psc : may .psc := by assumption) (h_gauge : may .gauge := by assumption) (h_ram : may .ram := by assumption) (h_pwr : may .pwr := by assumption) (h_xing : may .xing := by assumption) :
    ∃ out, execResultDelivery s = .next out ∧ Kept lb may s0 out := by
  refine ⟨_, rfl, ?_⟩
  repeat' (first
    | with_reducible assumption
    | exact ‹Low _ _›.of_le (by decide)
    | with_reducible apply collect_kept
    | with_reducible apply gaugeConvert_kept
    | with_reducible apply Kept.foldl
    | with_reducible apply Kept.foldl_snd
    | with_reducible apply Kept.foldl_fst
    | intro v)

theorem execGaugeBufRdWrite_kept {lb : Nat} {may : Part → Prop} {s0 s : State} (n : Fin 8) (rd : BitVec 16) (h : Kept lb may s0 s) (hn : Low lb 0x180008 := by exact ‹Low _ _›.up rfl) (h_bus : may .bus := by assumption) :
    ∃ out, execGaugeBufRdWrite n rd s = .next out ∧ Kept lb may s0 out := by
  refine ⟨_, rfl, ?_⟩
  repeat' (first
    | with_reducible assumption
    | with_reducible intro v
    | exact ‹Low _ _›.up1 rfl
    | exact ‹Low _ _›.of_le (by decide)
    | with_reducible apply byRow_kept
    | with_reducible apply onBus_kept
    | with_reducible apply bufMark_kept
    | with_reducible apply set_kept)

theorem execGaugeCalA_kept {lb : Nat} {may : Part → Prop} {s0 s : State} (h : Kept lb may s0 s) (hn : Low lb 0x170004 := by exact ‹Low _ _›.up rfl) (h_timers : may .timers := by assumption) (h_bus : may .bus := by assumption) (h_psc : may .psc := by assumption) (h_gauge : may .gauge := by assumption) :
    ∃ out, execGaugeCalA s = .next out ∧ Kept lb may s0 out := by
  refine ⟨_, rfl, ?_⟩
  repeat' (first
    | with_reducible assumption
    | with_reducible intro v
    | exact ‹Low _ _›.of_le (by decide)
    | with_reducible apply byRow_kept
    | with_reducible apply onBus_kept
    | with_reducible apply gaugeCalibrate_kept
)

theorem execGaugeCalB_kept {lb : Nat} {may : Part → Prop} {s0 s : State} (h : Kept lb may s0 s) (hn : Low lb 0x170004 := by exact ‹Low _ _›.up rfl) (h_timers : may .timers := by assumption) (h_bus : may .bus := by assumption) (h_psc : may .psc := by assumption) (h_gauge : may .gauge := by assumption) :
    ∃ out, execGaugeCalB s = .next out ∧ Kept lb may s0 out := by
  refine ⟨_, rfl, ?_⟩
  repeat' (first
    | with_reducible assumption
    | with_reducible intro v
    | exact ‹Low _ _›.of_le (by decide)
    | with_reducible apply byRow_kept
    | with_reducible apply onBus_kept
    | with_reducible apply gaugeCalibrate_kept
)

theorem execGaugeRefWrite_kept {lb : Nat} {may : Part → Prop} {s0 s : State} (ref : Fin 4) (h : Kept lb may s0 s) (hn : Low lb 0x170004 := by exact ‹Low _ _›.up rfl) (h_timers : may .timers := by assumption) (h_bus : may .bus := by assumption) (h_psc : may .psc := by assumption) (h_gauge : may .gauge := by assumption) :
    ∃ out, execGaugeRefWrite ref s = .next out ∧ Kept lb may s0 out := by
  refine ⟨_, rfl, ?_⟩
  repeat' (first
    | with_reducible assumption
    | with_reducible intro v
    | exact ‹Low _ _›.of_le (by decide)
    | with_reducible apply byRow_kept
    | with_reducible apply onBus_kept
    | with_reducible apply flag_kept
    | with_reducible apply gaugeRefChange_kept
    | with_reducible apply set_kept
    | split)

theorem execRefrdy_kept {lb : Nat} {may : Part → Prop} {s0 s : State} (h : Kept lb may s0 s) (hn : Low lb 0x170004 := by exact ‹Low _ _›.up rfl) (h_timers : may .timers := by assumption) (h_psc : may .psc := by assumption) (h_gauge : may .gauge := by assumption) :
    ∃ out, execRefrdy s = .next out ∧ Kept lb may s0 out := by
  refine ⟨_, rfl, ?_⟩
  repeat' (first
    | with_reducible assumption
    | with_reducible intro v
    | exact ‹Low _ _›.of_le (by decide)
    | (extract_lets +onlyGivenNames x; subst x)
    | with_reducible apply set_kept
    | with_reducible apply gaugeCalibrate_kept
    | with_reducible apply setGauge_kept
    | with_reducible apply gaugeCalStart_kept
    | split)

theorem execGaugeCalDone_kept {lb : Nat} {may : Part → Prop} {s0 s : State} (c : Fin 2) (shorted : ℤ) (refchk : ℕ) (h : Kept lb may s0 s) (hn : Low lb 0xa4 := by exact ‹Low _ _›.up rfl) (h_free : may .free := by assumption) (h_timers : may .timers := by assumption) (h_irq : may .irq := by assumption) (h_psc : may .psc := by assumption) (h_mbx : may .mbx := by assumption) (h_gauge : may .gauge := by assumption) :
    ∃ out, execGaugeCalDone c shorted refchk s = .next out ∧ Kept lb may s0 out := by
  refine ⟨_, rfl, ?_⟩
  repeat' (first
    | with_reducible assumption
    | with_reducible intro v
    | exact ‹Low _ _›.of_le (by decide)
    | (extract_lets +onlyGivenNames x; refine (have hx : Kept lb may s0 x := ?_; ?_); rotate_left; clear_value x; rotate_right; subst x)
    | (extract_lets +onlyGivenNames x; clear_value x)
    | with_reducible apply setInt_kept
    | with_reducible apply drawn_kept
    | with_reducible apply stopTimer_kept
    | with_reducible apply setGauge_kept
    | with_reducible apply gaugeCalStart_kept
    | with_reducible apply gaugeCalCommand_kept
    | with_reducible apply flagIf_kept
    | split)

end Sys2Proof.Laws
end

