-- ==== Sys2Proof/Laws/KeptFlash.lean ====
section
/-! SUPPORT. Each operation of Machine/Flash.lean keeps the queue, the time and the invariant. -/

set_option Elab.async false

namespace Sys2Proof.Laws

open Sys2Proof.Machine

theorem flashProgramTab_wf (m : Tab Byte) (a : Nat) (bs : List Byte) (h : tabWf erased m = true) :
    tabWf erased (flashProgramTab m a bs) = true := by
  induction bs generalizing m a with
  | nil => exact h
  | cons b bs ih => exact ih _ _ (tabWf_put _ _ _ _ h)

theorem flashErase_kept {lb : Nat} {may : Part → Prop} {s0 s : State} (a n : ℕ) (h : Kept lb may s0 s) (h_flash : may .flash := by assumption) : Kept lb may s0 (State.flashErase s a n) :=
  h.with_flash _ (tabWf_filter _ _ _)


theorem flashProgram_kept {lb : Nat} {may : Part → Prop} {s0 s : State} (a : ℕ) (bs : List Byte) (h : Kept lb may s0 s) (h_flash : may .flash := by assumption) : Kept lb may s0 (State.flashProgram s a bs) :=
  h.with_flash _ (flashProgramTab_wf _ _ _)


theorem newSector_kept {lb : Nat} {may : Part → Prop} {s0 s : State} (i : ℕ) (sseq : ℕ) (h : Kept lb may s0 s) (h_flash : may .flash := by assumption) :
    Kept lb may s0 (State.newSector s i sseq) := by
  unfold State.newSector
  repeat' (first
    | with_reducible assumption
    | (extract_lets +onlyGivenNames x; subst x)
    | with_reducible apply flashProgram_kept
    | with_reducible apply flashErase_kept)

theorem copyRecs_kept {lb : Nat} {may : Part → Prop} {s0 s : State} (i : ℕ) (ks : List ℕ) (rs : List (List Byte)) (h : Kept lb may s0 s) (h_flash : may .flash := by assumption) :
    Kept lb may s0 (State.copyRecs s i ks rs) := by
  unfold State.copyRecs
  repeat' (first
    | with_reducible assumption
    | with_reducible apply flashProgram_kept
    | with_reducible apply Kept.foldl
    | with_reducible apply Kept.foldl_snd
    | with_reducible apply Kept.foldl_fst
    | intro v)

theorem ledgerStop_kept {lb : Nat} {may : Part → Prop} {s0 s : State} (h : Kept lb may s0 s) (hn : Low lb 0x70008 := by exact ‹Low _ _›.up rfl) (h_stew : may .stew := by assumption) :
    Kept lb may s0 (State.ledgerStop s) := by
  unfold State.ledgerStop
  repeat' (first
    | with_reducible assumption
    | exact ‹Low _ _›.of_le (by decide)
    | (extract_lets +onlyGivenNames x; subst x)
    | with_reducible apply set_kept
    | with_reducible apply flag_kept
    | with_reducible apply Kept.with_stew)

theorem ledgerPlace_kept {lb : Nat} {may : Part → Prop} {s0 s : State} (h : Kept lb may s0 s) (h_flash : may .flash := by assumption) :
    Kept lb may s0 (State.ledgerPlace s).2 := by
  unfold State.ledgerPlace
  repeat' (first
    | with_reducible assumption
    | (extract_lets +onlyGivenNames x; subst x)
    | with_reducible apply newSector_kept
    | with_reducible apply copyRecs_kept
    | intro v
    | split)

theorem showLedger_kept {lb : Nat} {may : Part → Prop} {s0 s : State} (h : Kept lb may s0 s) (hn : Low lb 0x700c0 := by exact ‹Low _ _›.up rfl) :
    Kept lb may s0 (State.showLedger s) := by
  unfold State.showLedger
  repeat' (first
    | with_reducible assumption
    | exact ‹Low _ _›.of_le (by decide)
    | (extract_lets +onlyGivenNames x; subst x)
    | with_reducible apply set_kept)

theorem ledgerWrite_kept {lb : Nat} {may : Part → Prop} {s0 s : State} (ok : Bool) (h : Kept lb may s0 s) (hn : Low lb 0x70008 := by exact ‹Low _ _›.up rfl) (h_stew : may .stew := by assumption) (h_flash : may .flash := by assumption) : Kept lb may s0 (State.ledgerWrite s ok) := by
  unfold State.ledgerWrite
  split
  · exact h
  · split
    · exact h
    · have k := ledgerPlace_kept h
      generalize s.ledgerPlace = p at k ⊢
      obtain ⟨_ | ⟨i, n⟩, s'⟩ := p
      · exact ledgerStop_kept k
      · dsimp -zeta only
        split
        · exact showLedger_kept (set_kept _ _ (Kept.with_stew _ (flashProgram_kept _ _ k)))
        · extract_lets a _ b
          have hb : Kept lb may s0 b := Kept.with_stew _ (count_kept _ _ (flashProgram_kept _ _ k))
          split
          · exact ledgerStop_kept hb
          · exact hb


theorem execLedgerWrite_kept {lb : Nat} {may : Part → Prop} {s0 s : State} (ok : Bool) (h : Kept lb may s0 s) (hn : Low lb 0x70008 := by exact ‹Low _ _›.up rfl) (h_stew : may .stew := by assumption) (h_flash : may .flash := by assumption) :
    ∃ out, execLedgerWrite ok s = .next out ∧ Kept lb may s0 out := by
  refine ⟨_, rfl, ?_⟩
  repeat' (first
    | with_reducible assumption
    | with_reducible intro v
    | exact ‹Low _ _›.of_le (by decide)
    | with_reducible apply ledgerWrite_kept
    | split)

end Sys2Proof.Laws
end

