-- ==== Sys2Proof/Laws/KeptSecurity.lean ====
section
/-! SUPPORT. Each operation of Machine/Security.lean keeps the queue, the time and the invariant. -/

set_option Elab.async false

namespace Sys2Proof.Laws

open Sys2Proof.Machine

theorem setSec_kept {lb : Nat} {may : Part → Prop} {s0 s : State} (a1 : SecSt) (h : Kept lb may s0 s) (h_sec : may .sec := by assumption) :
    Kept lb may s0 (State.setSec s a1) := by
  unfold State.setSec
  repeat' (first
    | with_reducible assumption
    | with_reducible apply Kept.with_sec)

theorem showPres_kept {lb : Nat} {may : Part → Prop} {s0 s : State} (h : Kept lb may s0 s) (hn : Low lb 0x60000 := by exact ‹Low _ _›.up rfl) :
    Kept lb may s0 (State.showPres s) := by
  unfold State.showPres
  repeat' (first
    | with_reducible assumption
    | exact ‹Low _ _›.of_le (by decide)
    | with_reducible apply set_kept
)

theorem presPress_kept {lb : Nat} {may : Part → Prop} {s0 s : State} (h : Kept lb may s0 s) (hn : Low lb 0x60000 := by exact ‹Low _ _›.up rfl) (h_timers : may .timers := by assumption) (h_sec : may .sec := by assumption) :
    Kept lb may s0 (State.presPress s) := by
  unfold State.presPress
  repeat' (first
    | with_reducible assumption
    | exact ‹Low _ _›.of_le (by decide)
    | (extract_lets +onlyGivenNames x; subst x)
    | with_reducible apply showPres_kept
    | with_reducible apply flag_kept
    | with_reducible apply startTimer_kept
    | with_reducible apply setSec_kept
    | split)

theorem presRelease_kept {lb : Nat} {may : Part → Prop} {s0 s : State} (h : Kept lb may s0 s) (hn : Low lb 0x60000 := by exact ‹Low _ _›.up rfl) (h_timers : may .timers := by assumption) :
    Kept lb may s0 (State.presRelease s) := by
  unfold State.presRelease
  repeat' (first
    | with_reducible assumption
    | exact ‹Low _ _›.of_le (by decide)
    | with_reducible apply showPres_kept
    | with_reducible apply set_kept
    | with_reducible apply stopTimer_kept
)

theorem presWindowEnd_kept {lb : Nat} {may : Part → Prop} {s0 s : State} (h : Kept lb may s0 s) (hn : Low lb 0x60000 := by exact ‹Low _ _›.up rfl) (h_timers : may .timers := by assumption) :
    Kept lb may s0 (State.presWindowEnd s) := by
  unfold State.presWindowEnd
  repeat' (first
    | with_reducible assumption
    | exact ‹Low _ _›.of_le (by decide)
    | with_reducible apply showPres_kept
    | with_reducible apply stopTimer_kept
    | split)

theorem jumper_kept {lb : Nat} {may : Part → Prop} {s0 s : State} (h : Kept lb may s0 s) (hn : Low lb 0x60000 := by exact ‹Low _ _›.up rfl) :
    Kept lb may s0 (State.jumper s) := by
  unfold State.jumper
  repeat' (first
    | with_reducible assumption
    | exact ‹Low _ _›.of_le (by decide)
    | with_reducible apply showPres_kept
    | with_reducible apply flag_kept
    | with_reducible apply set_kept
    | split)

theorem showLock_kept {lb : Nat} {may : Part → Prop} {s0 s : State} (h : Kept lb may s0 s) (hn : Low lb 0x60000 := by exact ‹Low _ _›.up rfl) :
    Kept lb may s0 (State.showLock s) := by
  unfold State.showLock
  repeat' (first
    | with_reducible assumption
    | exact ‹Low _ _›.of_le (by decide)
    | with_reducible apply set_kept
)

theorem endSession_kept {lb : Nat} {may : Part → Prop} {s0 s : State} (h : Kept lb may s0 s) (hn : Low lb 0x60000 := by exact ‹Low _ _›.up rfl) :
    Kept lb may s0 (State.endSession s) := by
  unfold State.endSession
  repeat' (first
    | with_reducible assumption
    | exact ‹Low _ _›.of_le (by decide)
    | with_reducible apply showLock_kept
    | with_reducible apply set_kept
)

theorem writeLock_kept {lb : Nat} {may : Part → Prop} {s0 s : State} (locked : Bool) (h : Kept lb may s0 s) (hn : Low lb 0x60000 := by exact ‹Low _ _›.up rfl) (h_stew : may .stew := by assumption) (h_sec : may .sec := by assumption) :
    Kept lb may s0 (State.writeLock s locked) := by
  unfold State.writeLock
  repeat' (first
    | with_reducible assumption
    | exact ‹Low _ _›.of_le (by decide)
    | (extract_lets +onlyGivenNames x; subst x)
    | with_reducible apply showLock_kept
    | with_reducible apply note_kept
    | with_reducible apply setSec_kept)

theorem dropNonce_kept {lb : Nat} {may : Part → Prop} {s0 s : State} (h : Kept lb may s0 s) (h_timers : may .timers := by assumption) (h_sec : may .sec := by assumption) :
    Kept lb may s0 (State.dropNonce s) := by
  unfold State.dropNonce
  repeat' (first
    | with_reducible assumption
    | (extract_lets +onlyGivenNames x; subst x)
    | with_reducible apply stopTimer_kept
    | with_reducible apply setSec_kept)

theorem drawNonce_kept {lb : Nat} {may : Part → Prop} {s0 s : State} (h : Kept lb may s0 s) (h_free : may .free := by assumption) (h_timers : may .timers := by assumption) (h_sec : may .sec := by assumption) :
    Kept lb may s0 (State.drawNonce s).2 := by
  unfold State.drawNonce
  repeat' (first
    | with_reducible assumption
    | (extract_lets +onlyGivenNames x; subst x)
    | with_reducible apply startTimer_kept
    | with_reducible apply setSec_kept
    | intro v
    | with_reducible apply Kept.with_free)

theorem unlockResponse_kept {lb : Nat} {may : Part → Prop} {s0 s : State} (mac : List Byte) (h : Kept lb may s0 s) (hn : Low lb 0x60000 := by exact ‹Low _ _›.up rfl) (h_timers : may .timers := by assumption) (h_sec : may .sec := by assumption) :
    Kept lb may s0 (State.unlockResponse s mac).2 := by
  unfold State.unlockResponse
  repeat' (first
    | with_reducible assumption
    | exact ‹Low _ _›.of_le (by decide)
    | (extract_lets +onlyGivenNames x; subst x)
    | with_reducible apply dropNonce_kept
    | with_reducible apply showLock_kept
    | with_reducible apply flag_kept
    | with_reducible apply set_kept
    | with_reducible apply startTimer_kept
    | split)

theorem nonceExpiry_kept {lb : Nat} {may : Part → Prop} {s0 s : State} (h : Kept lb may s0 s) (h_timers : may .timers := by assumption) (h_sec : may .sec := by assumption) :
    Kept lb may s0 (State.nonceExpiry s) := by
  unfold State.nonceExpiry
  repeat' (first
    | with_reducible assumption
    | with_reducible apply dropNonce_kept
    | split)

theorem lockoutEnd_kept {lb : Nat} {may : Part → Prop} {s0 s : State} (h : Kept lb may s0 s) (hn : Low lb 0x60000 := by exact ‹Low _ _›.up rfl) (h_timers : may .timers := by assumption) :
    Kept lb may s0 (State.lockoutEnd s) := by
  unfold State.lockoutEnd
  repeat' (first
    | with_reducible assumption
    | exact ‹Low _ _›.of_le (by decide)
    | with_reducible apply set_kept
    | with_reducible apply stopTimer_kept
    | split)

theorem sealLevel_kept {lb : Nat} {may : Part → Prop} {s0 s : State} (high : Bool) (h : Kept lb may s0 s) (hn : Low lb 0x60000 := by exact ‹Low _ _›.up rfl) (h_stew : may .stew := by assumption) :
    Kept lb may s0 (State.sealLevel s high) := by
  unfold State.sealLevel
  repeat' (first
    | with_reducible assumption
    | exact ‹Low _ _›.of_le (by decide)
    | (extract_lets +onlyGivenNames x; subst x)
    | with_reducible apply set_kept
    | with_reducible apply note_kept
    | with_reducible apply flag_kept
    | with_reducible apply endSession_kept
    | split)

theorem sealClear_kept {lb : Nat} {may : Part → Prop} {s0 s : State} (h : Kept lb may s0 s) (hn : Low lb 0x60000 := by exact ‹Low _ _›.up rfl) (h_stew : may .stew := by assumption) :
    Kept lb may s0 (State.sealClear s) := by
  unfold State.sealClear
  repeat' (first
    | with_reducible assumption
    | exact ‹Low _ _›.of_le (by decide)
    | with_reducible apply note_kept
    | with_reducible apply set_kept
    | with_reducible apply flag_kept
    | split)

theorem secCtl_kept {lb : Nat} {may : Part → Prop} {s0 s : State} (v : Word) (h : Kept lb may s0 s) (hn : Low lb 0x60000 := by exact ‹Low _ _›.up rfl) (h_stew : may .stew := by assumption) :
    Kept lb may s0 (State.secCtl s v) := by
  unfold State.secCtl
  repeat' (first
    | with_reducible assumption
    | exact ‹Low _ _›.of_le (by decide)
    | (extract_lets +onlyGivenNames x; subst x)
    | with_reducible apply endSession_kept
    | with_reducible apply sealClear_kept
    | split)

theorem clearFdata_kept {lb : Nat} {may : Part → Prop} {s0 s : State} (h : Kept lb may s0 s) (hn : Low lb 0x60020 := by exact ‹Low _ _›.up rfl) :
    Kept lb may s0 (State.clearFdata s) := by
  unfold State.clearFdata
  repeat' (first
    | with_reducible assumption
    | exact ‹Low _ _›.up1 rfl
    | exact ‹Low _ _›.of_le (by decide)
    | with_reducible apply setWord_kept
    | with_reducible apply Kept.foldl
    | with_reducible apply Kept.foldl_snd
    | with_reducible apply Kept.foldl_fst
    | intro v)

theorem fprogWrite_kept {lb : Nat} {may : Part → Prop} {s0 s : State} (v : Word) (h : Kept lb may s0 s) (hn : Low lb 0x60004 := by exact ‹Low _ _›.up rfl) (h_sec : may .sec := by assumption) :
    Kept lb may s0 (State.fprogWrite s v) := by
  unfold State.fprogWrite
  repeat' (first
    | with_reducible assumption
    | exact ‹Low _ _›.of_le (by decide)
    | (extract_lets +onlyGivenNames x; subst x)
    | with_reducible apply set_kept
    | with_reducible apply setSec_kept
    | with_reducible apply flag_kept
    | split)

theorem setHash_kept {lb : Nat} {may : Part → Prop} {s0 s : State} (n : ℕ) (d : List Byte) (h : Kept lb may s0 s) (hn : Low lb 0x60000 := by exact ‹Low _ _›.up rfl) :
    Kept lb may s0 (State.setHash s n d) := by
  unfold State.setHash
  repeat' (first
    | with_reducible assumption
    | exact ‹Low _ _›.up2 rfl
    | exact ‹Low _ _›.of_le (by decide)
    | (extract_lets +onlyGivenNames x; subst x)
    | with_reducible apply setNat_kept
    | with_reducible apply setBitAt_kept
    | with_reducible apply Kept.foldl
    | with_reducible apply Kept.foldl_snd
    | with_reducible apply Kept.foldl_fst
    | intro v)

theorem spoiled_kept {lb : Nat} {may : Part → Prop} {s0 s : State} (h : Kept lb may s0 s) (h_free : may .free := by assumption) :
    Kept lb may s0 (State.spoiled s).2 := by
  unfold State.spoiled
  repeat' (first
    | with_reducible assumption
    | intro v
    | with_reducible apply Kept.with_free)

theorem blow_kept {lb : Nat} {may : Part → Prop} {s0 s : State} (t : ℕ) (d : List Byte) (h : Kept lb may s0 s) (hn : Low lb 0x60000 := by exact ‹Low _ _›.up rfl) (h_stew : may .stew := by assumption) (h_sec : may .sec := by assumption) :
    Kept lb may s0 (State.blow s t d) := by
  unfold State.blow
  repeat' (first
    | with_reducible assumption
    | exact ‹Low _ _›.of_le (by decide)
    | (extract_lets +onlyGivenNames x; subst x)
    | with_reducible apply setHash_kept
    | with_reducible apply setBitAt_kept
    | with_reducible apply set_kept
    | with_reducible apply setSec_kept
    | with_reducible apply writeLock_kept
    | split)

theorem fprogDone_kept {lb : Nat} {may : Part → Prop} {s0 s : State} (ok : Bool) (h : Kept lb may s0 s) (hn : Low lb 0x60000 := by exact ‹Low _ _›.up rfl) (h_free : may .free := by assumption) (h_stew : may .stew := by assumption) (h_sec : may .sec := by assumption) :
    Kept lb may s0 (State.fprogDone s ok) := by
  unfold State.fprogDone
  repeat' (first
    | with_reducible assumption
    | exact ‹Low _ _›.of_le (by decide)
    | (extract_lets +onlyGivenNames x; subst x)
    | with_reducible apply blow_kept
    | with_reducible apply spoiled_kept
    | with_reducible apply set_kept
    | with_reducible apply setSec_kept
    | with_reducible apply clearFdata_kept
    | with_reducible apply flag_kept
    | split)

theorem execPresenceWindowEnd_kept {lb : Nat} {may : Part → Prop} {s0 s : State} (h : Kept lb may s0 s) (hn : Low lb 0x60000 := by exact ‹Low _ _›.up rfl) (h_timers : may .timers := by assumption) :
    ∃ out, execPresenceWindowEnd s = .next out ∧ Kept lb may s0 out := by
  refine ⟨_, rfl, ?_⟩
  repeat' (first
    | with_reducible assumption
    | with_reducible intro v
    | exact ‹Low _ _›.of_le (by decide)
    | with_reducible apply presWindowEnd_kept
)

theorem execJumper_kept {lb : Nat} {may : Part → Prop} {s0 s : State} (h : Kept lb may s0 s) (hn : Low lb 0x60000 := by exact ‹Low _ _›.up rfl) :
    ∃ out, execJumper s = .next out ∧ Kept lb may s0 out := by
  refine ⟨_, rfl, ?_⟩
  repeat' (first
    | with_reducible assumption
    | with_reducible intro v
    | exact ‹Low _ _›.of_le (by decide)
    | with_reducible apply jumper_kept
)

theorem execPresenceRelease_kept {lb : Nat} {may : Part → Prop} {s0 s : State} (h : Kept lb may s0 s) (hn : Low lb 0x60000 := by exact ‹Low _ _›.up rfl) (h_timers : may .timers := by assumption) :
    ∃ out, execPresenceRelease s = .next out ∧ Kept lb may s0 out := by
  refine ⟨_, rfl, ?_⟩
  repeat' (first
    | with_reducible assumption
    | with_reducible intro v
    | exact ‹Low _ _›.of_le (by decide)
    | with_reducible apply presRelease_kept
)

theorem execSealBreak_kept {lb : Nat} {may : Part → Prop} {s0 s : State} (high : Bool) (h : Kept lb may s0 s) (hn : Low lb 0x60000 := by exact ‹Low _ _›.up rfl) (h_stew : may .stew := by assumption) :
    ∃ out, execSealBreak high s = .next out ∧ Kept lb may s0 out := by
  refine ⟨_, rfl, ?_⟩
  repeat' (first
    | with_reducible assumption
    | with_reducible intro v
    | exact ‹Low _ _›.of_le (by decide)
    | with_reducible apply sealLevel_kept
)

theorem execSealClr_kept {lb : Nat} {may : Part → Prop} {s0 s : State} (h : Kept lb may s0 s) (hn : Low lb 0x60000 := by exact ‹Low _ _›.up rfl) (h_bus : may .bus := by assumption) (h_stew : may .stew := by assumption) :
    ∃ out, execSealClr s = .next out ∧ Kept lb may s0 out := by
  refine ⟨_, rfl, ?_⟩
  repeat' (first
    | with_reducible assumption
    | with_reducible intro v
    | exact ‹Low _ _›.of_le (by decide)
    | with_reducible apply byRow_kept
    | with_reducible apply onBus_kept
    | with_reducible apply secCtl_kept
)

theorem execRelock_kept {lb : Nat} {may : Part → Prop} {s0 s : State} (h : Kept lb may s0 s) (hn : Low lb 0x60000 := by exact ‹Low _ _›.up rfl) (h_bus : may .bus := by assumption) (h_stew : may .stew := by assumption) :
    ∃ out, execRelock s = .next out ∧ Kept lb may s0 out := by
  refine ⟨_, rfl, ?_⟩
  repeat' (first
    | with_reducible assumption
    | with_reducible intro v
    | exact ‹Low _ _›.of_le (by decide)
    | with_reducible apply byRow_kept
    | with_reducible apply onBus_kept
    | with_reducible apply secCtl_kept
)

theorem execNonceExpiry_kept {lb : Nat} {may : Part → Prop} {s0 s : State} (h : Kept lb may s0 s) (h_timers : may .timers := by assumption) (h_sec : may .sec := by assumption) :
    ∃ out, execNonceExpiry s = .next out ∧ Kept lb may s0 out := by
  refine ⟨_, rfl, ?_⟩
  repeat' (first
    | with_reducible assumption
    | with_reducible intro v
    | with_reducible apply nonceExpiry_kept
)

theorem execLockoutEnd_kept {lb : Nat} {may : Part → Prop} {s0 s : State} (h : Kept lb may s0 s) (hn : Low lb 0x60000 := by exact ‹Low _ _›.up rfl) (h_timers : may .timers := by assumption) :
    ∃ out, execLockoutEnd s = .next out ∧ Kept lb may s0 out := by
  refine ⟨_, rfl, ?_⟩
  repeat' (first
    | with_reducible assumption
    | with_reducible intro v
    | exact ‹Low _ _›.of_le (by decide)
    | with_reducible apply lockoutEnd_kept
)

theorem execSecFprogGo_kept {lb : Nat} {may : Part → Prop} {s0 s : State} (v : Word) (h : Kept lb may s0 s) (hn : Low lb 0x60004 := by exact ‹Low _ _›.up rfl) (h_bus : may .bus := by assumption) (h_sec : may .sec := by assumption) :
    ∃ out, execSecFprogGo v s = .next out ∧ Kept lb may s0 out := by
  refine ⟨_, rfl, ?_⟩
  repeat' (first
    | with_reducible assumption
    | with_reducible intro v
    | exact ‹Low _ _›.of_le (by decide)
    | with_reducible apply byRow_kept
    | with_reducible apply onBus_kept
    | with_reducible apply fprogWrite_kept
)

theorem execFprogDone_kept {lb : Nat} {may : Part → Prop} {s0 s : State} (ok : Bool) (h : Kept lb may s0 s) (hn : Low lb 0x60000 := by exact ‹Low _ _›.up rfl) (h_free : may .free := by assumption) (h_stew : may .stew := by assumption) (h_sec : may .sec := by assumption) :
    ∃ out, execFprogDone ok s = .next out ∧ Kept lb may s0 out := by
  refine ⟨_, rfl, ?_⟩
  repeat' (first
    | with_reducible assumption
    | with_reducible intro v
    | exact ‹Low _ _›.of_le (by decide)
    | with_reducible apply fprogDone_kept
)

end Sys2Proof.Laws
end

