-- ==== Sys2Proof/Laws/KeptWeir.lean ====
section
/-! SUPPORT. Each operation of Machine/Weir.lean keeps the queue, the time and the invariant. -/

set_option Elab.async false

namespace Sys2Proof.Laws

open Sys2Proof.Machine

theorem freezeBasin_kept {lb : Nat} {may : Part → Prop} {s0 s : State} (b : ℕ) (h : Kept lb may s0 s) (hn : Low lb 0x100030 := by exact ‹Low _ _›.up rfl) (h_fab : may .fab := by assumption) :
    Kept lb may s0 (State.freezeBasin s b) := by
  unfold State.freezeBasin
  repeat' (first
    | with_reducible assumption
    | exact ‹Low _ _›.of_le (by decide)
    | (extract_lets +onlyGivenNames x; subst x)
    | with_reducible apply serveUntil_kept
    | with_reducible apply setBasin_kept
    | with_reducible apply clearPage_kept
    | with_reducible apply Kept.foldl
    | with_reducible apply Kept.foldl_snd
    | with_reducible apply Kept.foldl_fst
    | intro v
    | split)

theorem closeMeters_kept {lb : Nat} {may : Part → Prop} {s0 s : State} (b : ℕ) (h : Kept lb may s0 s) (h_fab : may .fab := by assumption) :
    Kept lb may s0 (State.closeMeters s b) := by
  unfold State.closeMeters
  repeat' (first
    | with_reducible assumption
    | (extract_lets +onlyGivenNames x; clear_value x)
    | with_reducible apply setBasin_kept)

theorem finishBasin_kept {lb : Nat} {may : Part → Prop} {s0 s : State} (b : ℕ) (h : Kept lb may s0 s) (hn : Low lb 0x5c := by exact ‹Low _ _›.up rfl) (h_free : may .free := by assumption) (h_timers : may .timers := by assumption) (h_tick : may .tick := by assumption) (h_fab : may .fab := by assumption) (h_irq : may .irq := by assumption) (h_aout : may .aout := by assumption) (h_hp : may .hp := by assumption) (h_psc : may .psc := by assumption) (h_stew : may .stew := by assumption) (h_mbx : may .mbx := by assumption) :
    Kept lb may s0 (State.finishBasin s b) := by
  unfold State.finishBasin
  repeat' (first
    | with_reducible assumption
    | exact ‹Low _ _›.of_le (by decide)
    | (extract_lets +onlyGivenNames x; subst x)
    | with_reducible apply runBasin_kept
    | with_reducible apply basinFault_kept
    | intro v
    | split)

theorem weirLeft_kept {lb : Nat} {may : Part → Prop} {s0 s : State} (h : Kept lb may s0 s) (hn : Low lb 0x7000c := by exact ‹Low _ _›.up rfl) (h_fab : may .fab := by assumption) (h_stew : may .stew := by assumption) :
    Kept lb may s0 (State.weirLeft s) := by
  unfold State.weirLeft
  repeat' (first
    | with_reducible assumption
    | exact ‹Low _ _›.of_le (by decide)
    | (extract_lets +onlyGivenNames x; subst x)
    | with_reducible apply ckptDrained_kept
    | with_reducible apply meterCopy_kept
    | with_reducible apply fadeEnd_kept
    | with_reducible apply Kept.foldl
    | with_reducible apply Kept.foldl_snd
    | with_reducible apply Kept.foldl_fst
    | intro v)

theorem applyEntry_kept {lb : Nat} {may : Part → Prop} {s0 s : State} (a : ℕ) (e : Staged) (h : Kept lb may s0 s) (hn : Low lb 0x0 := by exact ‹Low _ _›.up rfl) (h_tick : may .tick := by assumption) :
    Kept lb may s0 (State.applyEntry s a e) := by
  unfold State.applyEntry
  repeat' (first
    | with_reducible assumption
    | exact ‹Low _ _›.up2 rfl
    | exact ‹Low _ _›.up1 rfl
    | exact ‹Low _ _›.of_le (by decide)
    | exact ‹Low _ _›.of_le (Nat.zero_le _)
    | (extract_lets +onlyGivenNames x; clear_value x)
    | with_reducible apply setWord_kept
    | with_reducible apply setTick_kept
    | intro v
    | split)

theorem planEntry_kept {lb : Nat} {may : Part → Prop} {s0 s : State} (a : ℕ) (e : Staged) (h : Kept lb may s0 s) (hn : Low lb 0x70008 := by exact ‹Low _ _›.up rfl) (h_stew : may .stew := by assumption) :
    Kept lb may s0 (State.planEntry s a e) := by
  unfold State.planEntry
  repeat' (first
    | with_reducible assumption
    | exact ‹Low _ _›.of_le (by decide)
    | with_reducible apply flag_kept
    | with_reducible apply note_kept
    | split)

theorem clampPolicies_kept {lb : Nat} {may : Part → Prop} {s0 s : State} (therm : Word) (h : Kept lb may s0 s) (hn : Low lb 0x0 := by exact ‹Low _ _›.up rfl) :
    Kept lb may s0 (State.clampPolicies s therm) := by
  unfold State.clampPolicies
  repeat' (first
    | with_reducible assumption
    | exact ‹Low _ _›.up2 rfl
    | exact ‹Low _ _›.up1 rfl
    | exact ‹Low _ _›.of_le (by decide)
    | exact ‹Low _ _›.of_le (Nat.zero_le _)
    | (extract_lets +onlyGivenNames x; subst x)
    | with_reducible apply set_kept
    | with_reducible apply setWord_kept
    | with_reducible apply Kept.foldl
    | with_reducible apply Kept.foldl_snd
    | with_reducible apply Kept.foldl_fst
    | intro v
    | split)

theorem applyMap_kept {lb : Nat} {may : Part → Prop} {s0 s : State} (L : ℕ) (v : Word) (h : Kept lb may s0 s) (hn : Low lb 0x5c := by exact ‹Low _ _›.up rfl) (h_tick : may .tick := by assumption) (h_fab : may .fab := by assumption) (h_stew : may .stew := by assumption) :
    Kept lb may s0 (State.applyMap s L v) := by
  unfold State.applyMap
  repeat' (first
    | with_reducible assumption
    | exact ‹Low _ _›.up1 rfl
    | exact ‹Low _ _›.of_le (by decide)
    | (extract_lets +onlyGivenNames x; subst x)
    | with_reducible apply flag_kept
    | with_reducible apply setWord_kept
    | with_reducible apply handOverSwitch_kept
    | with_reducible apply handOverCancel_kept
    | with_reducible apply mapBasin_kept
    | split)

theorem applyMaps_kept {lb : Nat} {may : Part → Prop} {s0 s : State} (entries : Tab Staged) (h : Kept lb may s0 s) (hn : Low lb 0x5c := by exact ‹Low _ _›.up rfl) (h_tick : may .tick := by assumption) (h_fab : may .fab := by assumption) (h_stew : may .stew := by assumption) :
    Kept lb may s0 (State.applyMaps s entries) := by
  unfold State.applyMaps
  repeat' (first
    | with_reducible assumption
    | exact ‹Low _ _›.of_le (by decide)
    | (extract_lets +onlyGivenNames x; refine (have hx : Kept lb may s0 x := ?_; ?_); rotate_left; clear_value x; rotate_right; subst x)
    | (extract_lets +onlyGivenNames x; clear_value x)
    | with_reducible apply unmapBasin_kept
    | with_reducible apply applyMap_kept
    | with_reducible refine Kept.foldl _ _ _ ?_ fun _ _ _ => ?_
    | with_reducible refine Kept.foldl_snd _ _ _ ?_ fun _ _ _ => ?_
    | with_reducible refine Kept.foldl_fst _ _ _ ?_ fun _ _ _ => ?_
    | intro v
    | split)

theorem holdFollow_kept {lb : Nat} {may : Part → Prop} {s0 s : State} (b : ℕ) (h : Kept lb may s0 s) (hn : Low lb 0x100004 := by exact ‹Low _ _›.up rfl) :
    Kept lb may s0 (State.holdFollow s b) := by
  unfold State.holdFollow
  repeat' (first
    | with_reducible assumption
    | exact ‹Low _ _›.of_le (by decide)
    | (extract_lets +onlyGivenNames x; clear_value x)
    | with_reducible apply setBasinState_kept
    | intro v
    | split)

theorem followAll_kept {lb : Nat} {may : Part → Prop} {s0 s : State} (h : Kept lb may s0 s) (hn : Low lb 0x0 := by exact ‹Low _ _›.up rfl) (h_timers : may .timers := by assumption) (h_tick : may .tick := by assumption) (h_clk : may .clk := by assumption) (h_bus : may .bus := by assumption) (h_ain : may .ain := by assumption) (h_phantom : may .phantom := by assumption) (h_aout : may .aout := by assumption) (h_hp : may .hp := by assumption) (h_psc : may .psc := by assumption) (h_asrc : may .asrc := by assumption) (h_sap : may .sap := by assumption) (h_chain : may .chain := by assumption) (h_lsn : may .lsn := by assumption) (h_xing : may .xing := by assumption) :
    Kept lb may s0 (State.followAll s) := by
  unfold State.followAll
  repeat' (first
    | with_reducible assumption
    | exact ‹Low _ _›.of_le (by decide)
    | exact ‹Low _ _›.of_le (Nat.zero_le _)
    | (extract_lets +onlyGivenNames x; refine (have hx : Kept lb may s0 x := ?_; ?_); rotate_left; clear_value x; rotate_right; subst x)
    | with_reducible apply holdFollow_kept
    | with_reducible apply gpioFollow_kept
    | with_reducible apply bufMarkAll_kept
    | with_reducible apply pscPark_kept
    | with_reducible apply chainFollowAll_kept
    | with_reducible apply lsnFollowAll_kept
    | with_reducible apply asrcFollowAll_kept
    | with_reducible apply ainFollowAll_kept
    | with_reducible apply hpFollowAll_kept
    | with_reducible apply aoRetargetAll_kept
    | with_reducible refine Kept.foldl _ _ _ ?_ fun _ _ _ => ?_
    | with_reducible refine Kept.foldl_snd _ _ _ ?_ fun _ _ _ => ?_
    | with_reducible refine Kept.foldl_fst _ _ _ ?_ fun _ _ _ => ?_
    | intro v
    | split)

theorem applyStaged_kept {lb : Nat} {may : Part → Prop} {s0 s : State} (h : Kept lb may s0 s) (hn : Low lb 0x0 := by exact ‹Low _ _›.up rfl) (h_timers : may .timers := by assumption) (h_tick : may .tick := by assumption) (h_clk : may .clk := by assumption) (h_fab : may .fab := by assumption) (h_bus : may .bus := by assumption) (h_ain : may .ain := by assumption) (h_phantom : may .phantom := by assumption) (h_aout : may .aout := by assumption) (h_hp : may .hp := by assumption) (h_psc : may .psc := by assumption) (h_asrc : may .asrc := by assumption) (h_sap : may .sap := by assumption) (h_stew : may .stew := by assumption) (h_chain : may .chain := by assumption) (h_lsn : may .lsn := by assumption) (h_xing : may .xing := by assumption) :
    Kept lb may s0 (State.applyStaged s) := by
  unfold State.applyStaged
  repeat' (first
    | with_reducible assumption
    | exact ‹Low _ _›.of_le (by decide)
    | exact ‹Low _ _›.of_le (Nat.zero_le _)
    | (extract_lets +onlyGivenNames x; refine (have hx : Kept lb may s0 x := ?_; ?_); rotate_left; clear_value x; rotate_right; subst x)
    | (extract_lets +onlyGivenNames x; clear_value x)
    | with_reducible apply applyEntry_kept
    | with_reducible apply clampPolicies_kept
    | with_reducible apply applyMaps_kept
    | with_reducible apply planEntry_kept
    | with_reducible apply applyReserves_kept
    | with_reducible apply decisionDue_kept
    | with_reducible apply followAll_kept
    | with_reducible apply requalify_kept
    | with_reducible apply setStaged_kept
    | with_reducible refine Kept.foldl _ _ _ ?_ fun _ _ _ => ?_
    | with_reducible refine Kept.foldl_snd _ _ _ ?_ fun _ _ _ => ?_
    | with_reducible refine Kept.foldl_fst _ _ _ ?_ fun _ _ _ => ?_
    | intro v
    | split)

theorem commit_kept {lb : Nat} {may : Part → Prop} {s0 s : State} (h : Kept lb may s0 s) (hn : Low lb 0x0 := by exact ‹Low _ _›.up rfl) (h_free : may .free := by assumption) (h_timers : may .timers := by assumption) (h_tick : may .tick := by assumption) (h_clk : may .clk := by assumption) (h_fab : may .fab := by assumption) (h_bus : may .bus := by assumption) (h_ain : may .ain := by assumption) (h_phantom : may .phantom := by assumption) (h_aout : may .aout := by assumption) (h_hp : may .hp := by assumption) (h_psc : may .psc := by assumption) (h_asrc : may .asrc := by assumption) (h_sap : may .sap := by assumption) (h_stew : may .stew := by assumption) (h_chain : may .chain := by assumption) (h_lsn : may .lsn := by assumption) (h_xing : may .xing := by assumption) :
    Kept lb may s0 (State.commit s) := by
  unfold State.commit
  repeat' (first
    | with_reducible assumption
    | exact ‹Low _ _›.of_le (by decide)
    | exact ‹Low _ _›.of_le (Nat.zero_le _)
    | (extract_lets +onlyGivenNames x; refine (have hx : Kept lb may s0 x := ?_; ?_); rotate_left; clear_value x; rotate_right; subst x)
    | (extract_lets +onlyGivenNames x; clear_value x)
    | with_reducible apply commitErr_kept
    | with_reducible apply commitPllA_kept
    | with_reducible apply applyStaged_kept
    | with_reducible apply flag_kept
    | with_reducible apply setTick_kept
    | with_reducible apply decideSource_kept
    | with_reducible apply cancelArmed_kept
    | intro v
    | split)

theorem deliver_kept {lb : Nat} {may : Part → Prop} {s0 s : State} (m : Tab Word) (h : Kept lb may s0 s) (hn : Low lb 0x130034 := by exact ‹Low _ _›.up rfl) (h_fab : may .fab := by assumption) (h_aout : may .aout := by assumption) (h_hp : may .hp := by assumption) (h_psc : may .psc := by assumption) (h_sap : may .sap := by assumption) :
    Kept lb may s0 (State.deliver s m) := by
  unfold State.deliver
  repeat' (first
    | with_reducible assumption
    | exact ‹Low _ _›.of_le (by decide)
    | (extract_lets +onlyGivenNames x; refine (have hx : Kept lb may s0 x := ?_; ?_); rotate_left; clear_value x; rotate_right; subst x)
    | (extract_lets +onlyGivenNames x; subst x)
    | with_reducible apply setAoCh_kept
    | with_reducible apply setHpAmp_kept
    | with_reducible apply pscTake_kept
    | with_reducible apply sapPutFrame_kept
    | with_reducible apply sapTakeFrame_kept
    | with_reducible apply setFab_kept
    | with_reducible refine Kept.foldl _ _ _ ?_ fun _ _ _ => ?_
    | with_reducible refine Kept.foldl_snd _ _ _ ?_ fun _ _ _ => ?_
    | with_reducible refine Kept.foldl_fst _ _ _ ?_ fun _ _ _ => ?_
    | intro v
    | split
    | (fail_if_no_progress beta_reduce)
    | rfl)

theorem checkWeir_kept {lb : Nat} {may : Part → Prop} {s0 s : State} (h : Kept lb may s0 s) (hn : Low lb 0x190008 := by exact ‹Low _ _›.up rfl) (h_lsn : may .lsn := by assumption) :
    Kept lb may s0 (State.checkWeir s) := by
  unfold State.checkWeir
  repeat' (first
    | with_reducible assumption
    | exact ‹Low _ _›.of_le (by decide)
    | with_reducible apply checkTick_kept
    | split)

theorem move_kept {lb : Nat} {may : Part → Prop} {s0 s : State} (ext : Tab Word) (rate : ℕ) (h : Kept lb may s0 s) (hn : Low lb 0x130034 := by exact ‹Low _ _›.up rfl) (h_free : may .free := by assumption) (h_timers : may .timers := by assumption) (h_tick : may .tick := by assumption) (h_fab : may .fab := by assumption) (h_ain : may .ain := by assumption) (h_aout : may .aout := by assumption) (h_hp : may .hp := by assumption) (h_psc : may .psc := by assumption) (h_asrc : may .asrc := by assumption) (h_sap : may .sap := by assumption) (h_chain : may .chain := by assumption) (h_lsn : may .lsn := by assumption) :
    Kept lb may s0 (State.move s ext rate).1 := by
  unfold State.move
  repeat' (first
    | with_reducible assumption
    | exact ‹Low _ _›.of_le (by decide)
    | (extract_lets +onlyGivenNames x; refine (have hx : Kept lb may s0 x := ?_; ?_); rotate_left; clear_value x; rotate_right; subst x)
    | (extract_lets +onlyGivenNames x; clear_value x)
    | with_reducible apply sapBeforeMove_kept
    | with_reducible apply presentStreams_kept
    | with_reducible apply laneTake_kept
    | with_reducible apply beamTake_kept
    | with_reducible apply formBundles_kept
    | with_reducible apply deliver_kept
    | with_reducible apply aiLatch_kept
    | with_reducible apply aoTick_kept
    | with_reducible apply hpTick_kept
    | with_reducible apply beamTick_kept
    | with_reducible apply checkWeir_kept
    | with_reducible refine Kept.foldl _ _ _ ?_ fun _ _ _ => ?_
    | with_reducible refine Kept.foldl_snd _ _ _ ?_ fun _ _ _ => ?_
    | with_reducible refine Kept.foldl_fst _ _ _ ?_ fun _ _ _ => ?_
    | intro v
    | split
    | with_reducible apply Kept.with_free)

theorem capture_kept {lb : Nat} {may : Part → Prop} {s0 s : State} (b : ℕ) (h : Kept lb may s0 s) (h_fab : may .fab := by assumption) :
    Kept lb may s0 (State.capture s b) := by
  unfold State.capture
  repeat' (first
    | with_reducible assumption
    | (extract_lets +onlyGivenNames x; subst x)
    | with_reducible apply setBasin_kept)

theorem replayBasin_kept {lb : Nat} {may : Part → Prop} {s0 s : State} (n : TickNo) (b : ℕ) (h : Kept lb may s0 s) (h_fab : may .fab := by assumption) :
    Kept lb may s0 (State.replayBasin s n b) := by
  unfold State.replayBasin
  repeat' (first
    | with_reducible assumption
    | (extract_lets +onlyGivenNames x; clear_value x)
    | with_reducible apply setBasin_kept
    | split)

theorem replayWeir_kept {lb : Nat} {may : Part → Prop} {s0 s : State} (h : Kept lb may s0 s) (h_fab : may .fab := by assumption) :
    Kept lb may s0 (State.replayWeir s) := by
  unfold State.replayWeir
  repeat' (first
    | with_reducible assumption
    | with_reducible apply ownWritten_kept
    | with_reducible apply replayBasin_kept
    | with_reducible refine Kept.foldl _ _ _ ?_ fun _ _ _ => ?_
    | with_reducible refine Kept.foldl_snd _ _ _ ?_ fun _ _ _ => ?_
    | with_reducible refine Kept.foldl_fst _ _ _ ?_ fun _ _ _ => ?_
    | intro v
    | split)

theorem fadeTick_kept {lb : Nat} {may : Part → Prop} {s0 s : State} (a1 : ℕ) (h : Kept lb may s0 s) (hn : Low lb 0x10f204 := by exact ‹Low _ _›.up rfl) :
    Kept lb may s0 (State.fadeTick s a1) := by
  unfold State.fadeTick
  repeat' (first
    | with_reducible assumption
    | exact ‹Low _ _›.up1 rfl
    | exact ‹Low _ _›.of_le (by decide)
    | with_reducible apply set_kept
    | split)

theorem fadeNone_kept {lb : Nat} {may : Part → Prop} {s0 s : State} (a1 : ℕ) (h : Kept lb may s0 s) (hn : Low lb 0x7000c := by exact ‹Low _ _›.up rfl) (h_fab : may .fab := by assumption) (h_stew : may .stew := by assumption) :
    Kept lb may s0 (State.fadeNone s a1) := by
  unfold State.fadeNone
  repeat' (first
    | with_reducible assumption
    | exact ‹Low _ _›.of_le (by decide)
    | with_reducible apply fadeEnd_kept
    | split)

theorem countTick_kept {lb : Nat} {may : Part → Prop} {s0 s : State} (h : Kept lb may s0 s) (hn : Low lb 0x5c := by exact ‹Low _ _›.up rfl) (h_tick : may .tick := by assumption) :
    Kept lb may s0 (State.countTick s) := by
  unfold State.countTick
  repeat' (first
    | with_reducible assumption
    | exact ‹Low _ _›.of_le (by decide)
    | (extract_lets +onlyGivenNames x; subst x)
    | with_reducible apply setTick_kept
    | with_reducible apply cancelArmed_kept
    | with_reducible apply showCommit_kept
    | split)

theorem fixPages_kept {lb : Nat} {may : Part → Prop} {s0 s : State} (b : ℕ) (h : Kept lb may s0 s) (hn : Low lb 0x100038 := by exact ‹Low _ _›.up rfl) (h_fab : may .fab := by assumption) :
    Kept lb may s0 (State.fixPages s b) := by
  unfold State.fixPages
  repeat' (first
    | with_reducible assumption
    | exact ‹Low _ _›.up1 rfl
    | exact ‹Low _ _›.of_le (by decide)
    | (extract_lets +onlyGivenNames x; subst x)
    | with_reducible apply setNat_kept
    | with_reducible apply setBasin_kept)

theorem present_kept {lb : Nat} {may : Part → Prop} {s0 s : State} (m : Tab Word) (L : ℕ) (h : Kept lb may s0 s) (h_fab : may .fab := by assumption) :
    Kept lb may s0 (State.present s m L) := by
  unfold State.present
  repeat' (first
    | with_reducible assumption
    | (extract_lets +onlyGivenNames x; subst x; beta_reduce)
    | with_reducible apply setBasin_kept
    | intro v
    | split)

theorem restartJets_kept {lb : Nat} {may : Part → Prop} {s0 s : State} (b : ℕ) (h : Kept lb may s0 s) (h_fab : may .fab := by assumption) :
    Kept lb may s0 (State.restartJets s b) := by
  unfold State.restartJets
  repeat' (first
    | with_reducible assumption
    | (extract_lets +onlyGivenNames x; clear_value x)
    | with_reducible apply setBasin_kept)

theorem weir_kept {lb : Nat} {may : Part → Prop} {s0 s : State} (ext : Tab Word) (act : ℕ → Word → State → State) (hact : ∀ x0 x1 u, Kept lb may s0 u → Kept lb may s0 (act x0 x1 u)) (h : Kept lb may s0 s) (hn : Low lb 0x0 := by exact ‹Low _ _›.up rfl) (h_free : may .free := by assumption) (h_timers : may .timers := by assumption) (h_tick : may .tick := by assumption) (h_clk : may .clk := by assumption) (h_fab : may .fab := by assumption) (h_bus : may .bus := by assumption) (h_irq : may .irq := by assumption) (h_ain : may .ain := by assumption) (h_phantom : may .phantom := by assumption) (h_aout : may .aout := by assumption) (h_hp : may .hp := by assumption) (h_psc : may .psc := by assumption) (h_asrc : may .asrc := by assumption) (h_sap : may .sap := by assumption) (h_stew : may .stew := by assumption) (h_mbx : may .mbx := by assumption) (h_chain : may .chain := by assumption) (h_lsn : may .lsn := by assumption) (h_xing : may .xing := by assumption) :
    Kept lb may s0 (State.weir s ext act) := by
  unfold State.weir
  repeat' (first
    | with_reducible assumption
    | exact ‹Low _ _›.of_le (by decide)
    | exact ‹Low _ _›.of_le (Nat.zero_le _)
    | (extract_lets +onlyGivenNames x; refine (have hx : Kept lb may s0 x := ?_; ?_); rotate_left; clear_value x; rotate_right; subst x)
    | (extract_lets +onlyGivenNames x; refine (have hx : Kept lb may s0 x.1 := ?_; ?_); rotate_left; clear_value x; rotate_right; subst x)
    | (extract_lets +onlyGivenNames x; clear_value x)
    | with_reducible apply finishBasin_kept
    | with_reducible apply sapTick_kept
    | with_reducible apply weirLeft_kept
    | with_reducible apply freezeBasin_kept
    | with_reducible apply closeMeters_kept
    | with_reducible apply fadeTick_kept
    | with_reducible apply pscTickStart_kept
    | with_reducible apply commit_kept
    | with_reducible apply liveWeir_kept
    | with_reducible apply relocWeir_kept
    | with_reducible apply move_kept
    | with_reducible apply capture_kept
    | with_reducible apply replayWeir_kept
    | with_reducible apply handOverPrime_kept
    | with_reducible apply fadeNone_kept
    | with_reducible apply reopenStaging_kept
    | with_reducible apply countTick_kept
    | with_reducible apply fixPages_kept
    | with_reducible apply present_kept
    | with_reducible apply restartJets_kept
    | with_reducible apply laneFlip_kept
    | with_reducible apply tickEnd_kept
    | with_reducible apply rateSteps_kept
    | with_reducible apply hact
    | with_reducible refine Kept.foldl _ _ _ ?_ fun _ _ _ => ?_
    | with_reducible refine Kept.foldl_snd _ _ _ ?_ fun _ _ _ => ?_
    | with_reducible refine Kept.foldl_fst _ _ _ ?_ fun _ _ _ => ?_
    | intro v
    | split)

end Sys2Proof.Laws
end

