-- ==== Sys2Proof/Laws/KeptPower.lean ====
section
/-! SUPPORT. Each operation of Machine/Power.lean keeps the queue, the time and the invariant. -/

set_option Elab.async false

namespace Sys2Proof.Laws

open Sys2Proof.Machine

theorem blockOff_kept {lb : Nat} {may : Part → Prop} {s0 s : State} (d : Dom) (h : Kept lb may s0 s) (hn : Low lb 0x100020 := by exact ‹Low _ _›.up rfl) (h_timers : may .timers := by assumption) (h_fab : may .fab := by assumption) (h_ain : may .ain := by assumption) (h_phantom : may .phantom := by assumption) (h_aout : may .aout := by assumption) (h_hp : may .hp := by assumption) (h_psc : may .psc := by assumption) (h_asrc : may .asrc := by assumption) (h_sap : may .sap := by assumption) (h_chain : may .chain := by assumption) (h_pwr : may .pwr := by assumption) :
    Kept lb may s0 (State.blockOff s d) := by
  unfold State.blockOff
  repeat' (first
    | with_reducible assumption
    | exact ‹Low _ _›.of_le (by decide)
    | (extract_lets +onlyGivenNames x; refine (have hx : Kept lb may s0 x := ?_; ?_); rotate_left; clear_value x; rotate_right; subst x)
    | (extract_lets +onlyGivenNames x; clear_value x)
    | with_reducible apply sapHalt_kept
    | with_reducible apply lanesUnlockAll_kept
    | with_reducible apply ckptDrained_kept
    | with_reducible apply setBasin_kept
    | with_reducible apply portOff_kept
    | with_reducible apply ainPowerOff_kept
    | with_reducible apply hpPowerOff_kept
    | with_reducible apply aoPowerOff_kept
    | with_reducible apply setPwr_kept
    | with_reducible apply pscPowerOff_kept
    | with_reducible refine Kept.foldl _ _ _ ?_ fun _ _ _ => ?_
    | with_reducible refine Kept.foldl_snd _ _ _ ?_ fun _ _ _ => ?_
    | with_reducible refine Kept.foldl_fst _ _ _ ?_ fun _ _ _ => ?_
    | intro v
    | split)

theorem domainOff_kept {lb : Nat} {may : Part → Prop} {s0 s : State} (d : Dom) (h : Kept lb may s0 s) (hn : Low lb 0x10000 := by exact ‹Low _ _›.up rfl) (h_timers : may .timers := by assumption) (h_clk : may .clk := by assumption) (h_fab : may .fab := by assumption) (h_bus : may .bus := by assumption) (h_ain : may .ain := by assumption) (h_phantom : may .phantom := by assumption) (h_aout : may .aout := by assumption) (h_hp : may .hp := by assumption) (h_psc : may .psc := by assumption) (h_asrc : may .asrc := by assumption) (h_sap : may .sap := by assumption) (h_chain : may .chain := by assumption) (h_pwr : may .pwr := by assumption) (h_xing : may .xing := by assumption) :
    Kept lb may s0 (State.domainOff s d) := by
  unfold State.domainOff
  repeat' (first
    | with_reducible assumption
    | exact ‹Low _ _›.of_le (by decide)
    | (extract_lets +onlyGivenNames x; refine (have hx : Kept lb may s0 x := ?_; ?_); rotate_left; clear_value x; rotate_right; subst x)
    | with_reducible apply xingResetDom_kept
    | with_reducible apply setDom_kept
    | with_reducible apply blockOff_kept
    | with_reducible apply pllOff_kept
    | split)

theorem domainOn_kept {lb : Nat} {may : Part → Prop} {s0 s : State} (d : Dom) (h : Kept lb may s0 s) (hn : Low lb 0x0 := by exact ‹Low _ _›.up rfl) (h_timers : may .timers := by assumption) (h_tick : may .tick := by assumption) (h_clk : may .clk := by assumption) (h_ain : may .ain := by assumption) (h_phantom : may .phantom := by assumption) (h_aout : may .aout := by assumption) (h_hp : may .hp := by assumption) :
    Kept lb may s0 (State.domainOn s d) := by
  unfold State.domainOn
  repeat' (first
    | with_reducible assumption
    | exact ‹Low _ _›.of_le (by decide)
    | exact ‹Low _ _›.of_le (Nat.zero_le _)
    | (extract_lets +onlyGivenNames x; refine (have hx : Kept lb may s0 x := ?_; ?_); rotate_left; clear_value x; rotate_right; subst x)
    | with_reducible apply applyStored_kept
    | with_reducible apply setDom_kept
    | with_reducible apply ainPowerUp_kept
    | with_reducible apply pllOn_kept
    | with_reducible apply setPll_kept
    | with_reducible apply hpPowerUp_kept
    | with_reducible apply aoPowerUp_kept
    | split)

theorem modeReached_kept {lb : Nat} {may : Part → Prop} {s0 s : State} (m : ℕ) (h : Kept lb may s0 s) (hn : Low lb 0x30004 := by exact ‹Low _ _›.up rfl) (h_timers : may .timers := by assumption) (h_pwr : may .pwr := by assumption) :
    Kept lb may s0 (State.modeReached s m) := by
  unfold State.modeReached
  repeat' (first
    | with_reducible assumption
    | exact ‹Low _ _›.of_le (by decide)
    | (extract_lets +onlyGivenNames x; subst x)
    | with_reducible apply flag_kept
    | with_reducible apply set_kept
    | with_reducible apply setPwr_kept
    | with_reducible apply startTimer_kept
    | with_reducible apply stopTimer_kept
    | with_reducible apply lsnClock_kept
    | split)

theorem runReached_kept {lb : Nat} {may : Part → Prop} {s0 s : State} (h : Kept lb may s0 s) (hn : Low lb 0x0 := by exact ‹Low _ _›.up rfl) (h_timers : may .timers := by assumption) (h_tick : may .tick := by assumption) (h_clk : may .clk := by assumption) (h_bus : may .bus := by assumption) (h_ain : may .ain := by assumption) (h_phantom : may .phantom := by assumption) (h_aout : may .aout := by assumption) (h_hp : may .hp := by assumption) (h_psc : may .psc := by assumption) (h_asrc : may .asrc := by assumption) (h_sap : may .sap := by assumption) (h_chain : may .chain := by assumption) (h_lsn : may .lsn := by assumption) (h_pwr : may .pwr := by assumption) (h_xing : may .xing := by assumption) :
    Kept lb may s0 (State.runReached s) := by
  unfold State.runReached
  repeat' (first
    | with_reducible assumption
    | exact ‹Low _ _›.of_le (by decide)
    | with_reducible apply followAll_kept
    | with_reducible apply pscUnidle_kept
    | with_reducible apply modeReached_kept
)

theorem skimDue_kept {lb : Nat} {may : Part → Prop} {s0 s : State} (h : Kept lb may s0 s) (hn : Low lb 0x70004 := by exact ‹Low _ _›.up rfl) :
    Kept lb may s0 (State.skimDue s) := by
  unfold State.skimDue
  repeat' (first
    | with_reducible assumption
    | exact ‹Low _ _›.of_le (by decide)
    | with_reducible apply set_kept
    | split)

theorem skimBegin_kept {lb : Nat} {may : Part → Prop} {s0 s : State} (h : Kept lb may s0 s) (hn : Low lb 0x70004 := by exact ‹Low _ _›.up rfl) (h_timers : may .timers := by assumption) :
    Kept lb may s0 (State.skimBegin s) := by
  unfold State.skimBegin
  repeat' (first
    | with_reducible assumption
    | exact ‹Low _ _›.of_le (by decide)
    | with_reducible apply startTimer_kept
    | with_reducible apply set_kept
)

theorem skimStop_kept {lb : Nat} {may : Part → Prop} {s0 s : State} (st : ℕ) (h : Kept lb may s0 s) (hn : Low lb 0x20200 := by exact ‹Low _ _›.up rfl) (h_timers : may .timers := by assumption) (h_bus : may .bus := by assumption) (h_stew : may .stew := by assumption) (h_xing : may .xing := by assumption) :
    Kept lb may s0 (State.skimStop s st) := by
  unfold State.skimStop
  repeat' (first
    | with_reducible assumption
    | exact ‹Low _ _›.of_le (by decide)
    | (extract_lets +onlyGivenNames x; refine (have hx : Kept lb may s0 x := ?_; ?_); rotate_left; clear_value x; rotate_right; subst x)
    | (extract_lets +onlyGivenNames x; clear_value x)
    | with_reducible apply stopTimer_kept
    | with_reducible apply set_kept
    | with_reducible apply xingResetDom_kept
    | with_reducible apply setDom_kept
    | split
    | with_reducible apply Kept.with_stew)

theorem skimStandby_kept {lb : Nat} {may : Part → Prop} {s0 s : State} (h : Kept lb may s0 s) (hn : Low lb 0x30004 := by exact ‹Low _ _›.up rfl) (h_timers : may .timers := by assumption) (h_stew : may .stew := by assumption) :
    Kept lb may s0 (State.skimStandby s) := by
  unfold State.skimStandby
  repeat' (first
    | with_reducible assumption
    | exact ‹Low _ _›.of_le (by decide)
    | (extract_lets +onlyGivenNames x; clear_value x)
    | with_reducible apply skimBegin_kept
    | with_reducible apply setDom_kept
    | split
    | with_reducible apply Kept.with_stew)

theorem skimAbandon_kept {lb : Nat} {may : Part → Prop} {s0 s : State} (h : Kept lb may s0 s) (hn : Low lb 0x20200 := by exact ‹Low _ _›.up rfl) (h_timers : may .timers := by assumption) (h_bus : may .bus := by assumption) (h_stew : may .stew := by assumption) (h_xing : may .xing := by assumption) :
    Kept lb may s0 (State.skimAbandon s) := by
  unfold State.skimAbandon
  repeat' (first
    | with_reducible assumption
    | exact ‹Low _ _›.of_le (by decide)
    | with_reducible apply skimStop_kept
    | split)

theorem skimMs_kept {lb : Nat} {may : Part → Prop} {s0 s : State} (h : Kept lb may s0 s) (hn : Low lb 0x20200 := by exact ‹Low _ _›.up rfl) (h_timers : may .timers := by assumption) (h_bus : may .bus := by assumption) (h_stew : may .stew := by assumption) (h_xing : may .xing := by assumption) :
    Kept lb may s0 (State.skimMs s) := by
  unfold State.skimMs
  repeat' (first
    | with_reducible assumption
    | exact ‹Low _ _›.of_le (by decide)
    | (extract_lets +onlyGivenNames x; refine (have hx : Kept lb may s0 x := ?_; ?_); rotate_left; clear_value x; rotate_right; subst x)
    | with_reducible apply skimDue_kept
    | with_reducible apply skimBegin_kept
    | with_reducible apply skimStop_kept
    | split)

theorem reloadHandle_kept {lb : Nat} {may : Part → Prop} {s0 s : State} (L : ℕ) (h : Kept lb may s0 s) (hn : Low lb 0x0 := by exact ‹Low _ _›.up rfl) (h_timers : may .timers := by assumption) (h_fab : may .fab := by assumption) (h_irq : may .irq := by assumption) (h_aout : may .aout := by assumption) (h_hp : may .hp := by assumption) (h_psc : may .psc := by assumption) (h_stew : may .stew := by assumption) (h_mbx : may .mbx := by assumption) :
    Kept lb may s0 (State.reloadHandle s L) := by
  unfold State.reloadHandle
  repeat' (first
    | with_reducible assumption
    | exact ‹Low _ _›.up2 rfl
    | exact ‹Low _ _›.up1 rfl
    | exact ‹Low _ _›.of_le (by decide)
    | exact ‹Low _ _›.of_le (Nat.zero_le _)
    | (extract_lets +onlyGivenNames x; refine (have hx : Kept lb may s0 x := ?_; ?_); rotate_left; clear_value x; rotate_right; subst x)
    | (extract_lets +onlyGivenNames x; clear_value x)
    | with_reducible apply relocFail_kept
    | with_reducible apply setBasinState_kept
    | with_reducible apply loadBasin_kept
    | with_reducible apply setWord_kept
    | with_reducible apply setBasin_kept
    | with_reducible apply putState_kept
    | with_reducible apply mapBasin_kept
    | with_reducible refine Kept.foldl _ _ _ ?_ fun _ _ _ => ?_
    | with_reducible refine Kept.foldl_snd _ _ _ ?_ fun _ _ _ => ?_
    | with_reducible refine Kept.foldl_fst _ _ _ ?_ fun _ _ _ => ?_
    | intro v
    | split)

theorem handOverLost_kept {lb : Nat} {may : Part → Prop} {s0 s : State} (a1 : ℕ) (h : Kept lb may s0 s) (hn : Low lb 0x5c := by exact ‹Low _ _›.up rfl) (h_tick : may .tick := by assumption) (h_fab : may .fab := by assumption) (h_stew : may .stew := by assumption) :
    Kept lb may s0 (State.handOverLost s a1) := by
  unfold State.handOverLost
  repeat' (first
    | with_reducible assumption
    | exact ‹Low _ _›.of_le (by decide)
    | with_reducible apply handOverDone_kept
    | with_reducible apply flag_kept
    | with_reducible apply chanIdle_kept
    | with_reducible apply handOverCancel_kept
    | split)

theorem reloadHandles_kept {lb : Nat} {may : Part → Prop} {s0 s : State} (h : Kept lb may s0 s) (hn : Low lb 0x0 := by exact ‹Low _ _›.up rfl) (h_timers : may .timers := by assumption) (h_tick : may .tick := by assumption) (h_fab : may .fab := by assumption) (h_irq : may .irq := by assumption) (h_aout : may .aout := by assumption) (h_hp : may .hp := by assumption) (h_psc : may .psc := by assumption) (h_stew : may .stew := by assumption) (h_mbx : may .mbx := by assumption) :
    Kept lb may s0 (State.reloadHandles s) := by
  unfold State.reloadHandles
  repeat' (first
    | with_reducible assumption
    | exact ‹Low _ _›.of_le (by decide)
    | exact ‹Low _ _›.of_le (Nat.zero_le _)
    | (extract_lets +onlyGivenNames x; refine (have hx : Kept lb may s0 x := ?_; ?_); rotate_left; clear_value x; rotate_right; subst x)
    | with_reducible apply handOverLost_kept
    | with_reducible apply freeBasin_kept
    | with_reducible apply reloadHandle_kept
    | with_reducible refine Kept.foldl _ _ _ ?_ fun _ _ _ => ?_
    | with_reducible refine Kept.foldl_snd _ _ _ ?_ fun _ _ _ => ?_
    | with_reducible refine Kept.foldl_fst _ _ _ ?_ fun _ _ _ => ?_
    | intro v
    | split)

theorem returnDomains_kept {lb : Nat} {may : Part → Prop} {s0 s : State} (h : Kept lb may s0 s) (hn : Low lb 0x0 := by exact ‹Low _ _›.up rfl) (h_timers : may .timers := by assumption) (h_tick : may .tick := by assumption) (h_clk : may .clk := by assumption) (h_bus : may .bus := by assumption) (h_ain : may .ain := by assumption) (h_phantom : may .phantom := by assumption) (h_aout : may .aout := by assumption) (h_hp : may .hp := by assumption) (h_xing : may .xing := by assumption) :
    Kept lb may s0 (State.returnDomains s) := by
  unfold State.returnDomains
  repeat' (first
    | with_reducible assumption
    | exact ‹Low _ _›.of_le (by decide)
    | exact ‹Low _ _›.of_le (Nat.zero_le _)
    | with_reducible apply lsnClock_kept
    | with_reducible apply lsnPower_kept
    | with_reducible apply domainOn_kept
    | with_reducible apply Kept.foldl
    | intro v)

theorem standbyReturn_kept {lb : Nat} {may : Part → Prop} {s0 s : State} (h : Kept lb may s0 s) (hn : Low lb 0x0 := by exact ‹Low _ _›.up rfl) (h_timers : may .timers := by assumption) (h_tick : may .tick := by assumption) (h_clk : may .clk := by assumption) (h_fab : may .fab := by assumption) (h_bus : may .bus := by assumption) (h_irq : may .irq := by assumption) (h_ain : may .ain := by assumption) (h_phantom : may .phantom := by assumption) (h_aout : may .aout := by assumption) (h_hp : may .hp := by assumption) (h_psc : may .psc := by assumption) (h_asrc : may .asrc := by assumption) (h_sap : may .sap := by assumption) (h_stew : may .stew := by assumption) (h_mbx : may .mbx := by assumption) (h_chain : may .chain := by assumption) (h_lsn : may .lsn := by assumption) (h_pwr : may .pwr := by assumption) (h_xing : may .xing := by assumption) :
    Kept lb may s0 (State.standbyReturn s) := by
  unfold State.standbyReturn
  repeat' (first
    | with_reducible assumption
    | exact ‹Low _ _›.of_le (by decide)
    | exact ‹Low _ _›.of_le (Nat.zero_le _)
    | (extract_lets +onlyGivenNames x; refine (have hx : Kept lb may s0 x := ?_; ?_); rotate_left; clear_value x; rotate_right; subst x)
    | (extract_lets +onlyGivenNames x; clear_value x)
    | with_reducible apply set_kept
    | with_reducible apply setPwr_kept
    | with_reducible apply startTimer_kept
    | with_reducible apply returnDomains_kept
    | with_reducible apply skimAbandon_kept
    | with_reducible apply chainFollowAll_kept
    | with_reducible apply asrcFollowAll_kept
    | with_reducible apply reloadHandles_kept
    | with_reducible apply stopTimer_kept
    | with_reducible apply runReached_kept
    | with_reducible apply followAll_kept
    | with_reducible apply modeReached_kept
    | split)

theorem abandonEntry_kept {lb : Nat} {may : Part → Prop} {s0 s : State} (h : Kept lb may s0 s) (hn : Low lb 0x0 := by exact ‹Low _ _›.up rfl) (h_timers : may .timers := by assumption) (h_tick : may .tick := by assumption) (h_clk : may .clk := by assumption) (h_bus : may .bus := by assumption) (h_ain : may .ain := by assumption) (h_phantom : may .phantom := by assumption) (h_aout : may .aout := by assumption) (h_hp : may .hp := by assumption) (h_psc : may .psc := by assumption) (h_asrc : may .asrc := by assumption) (h_sap : may .sap := by assumption) (h_chain : may .chain := by assumption) (h_lsn : may .lsn := by assumption) (h_pwr : may .pwr := by assumption) (h_xing : may .xing := by assumption) :
    Kept lb may s0 (State.abandonEntry s) := by
  unfold State.abandonEntry
  repeat' (first
    | with_reducible assumption
    | exact ‹Low _ _›.of_le (by decide)
    | exact ‹Low _ _›.of_le (Nat.zero_le _)
    | (extract_lets +onlyGivenNames x; refine (have hx : Kept lb may s0 x := ?_; ?_); rotate_left; clear_value x; rotate_right; subst x)
    | (extract_lets +onlyGivenNames x; clear_value x)
    | with_reducible apply stopTimer_kept
    | with_reducible apply setPwr_kept
    | with_reducible apply pllBegin_kept
    | with_reducible apply domainOn_kept
    | with_reducible apply set_kept
    | with_reducible apply runReached_kept
    | split)

theorem startReturn_kept {lb : Nat} {may : Part → Prop} {s0 s : State} (h : Kept lb may s0 s) (hn : Low lb 0x0 := by exact ‹Low _ _›.up rfl) (h_timers : may .timers := by assumption) (h_tick : may .tick := by assumption) (h_clk : may .clk := by assumption) (h_bus : may .bus := by assumption) (h_ain : may .ain := by assumption) (h_phantom : may .phantom := by assumption) (h_aout : may .aout := by assumption) (h_hp : may .hp := by assumption) (h_psc : may .psc := by assumption) (h_asrc : may .asrc := by assumption) (h_sap : may .sap := by assumption) (h_chain : may .chain := by assumption) (h_lsn : may .lsn := by assumption) (h_pwr : may .pwr := by assumption) (h_xing : may .xing := by assumption) :
    Kept lb may s0 (State.startReturn s) := by
  unfold State.startReturn
  repeat' (first
    | with_reducible assumption
    | exact ‹Low _ _›.of_le (by decide)
    | exact ‹Low _ _›.of_le (Nat.zero_le _)
    | (extract_lets +onlyGivenNames x; subst x)
    | with_reducible apply abandonEntry_kept
    | with_reducible apply runReached_kept
    | with_reducible apply set_kept
    | with_reducible apply setPwr_kept
    | split)

theorem wakeBy_kept {lb : Nat} {may : Part → Prop} {s0 s : State} (code : ℕ) (h : Kept lb may s0 s) (hn : Low lb 0x0 := by exact ‹Low _ _›.up rfl) (h_timers : may .timers := by assumption) (h_tick : may .tick := by assumption) (h_clk : may .clk := by assumption) (h_bus : may .bus := by assumption) (h_ain : may .ain := by assumption) (h_phantom : may .phantom := by assumption) (h_aout : may .aout := by assumption) (h_hp : may .hp := by assumption) (h_psc : may .psc := by assumption) (h_asrc : may .asrc := by assumption) (h_sap : may .sap := by assumption) (h_chain : may .chain := by assumption) (h_lsn : may .lsn := by assumption) (h_pwr : may .pwr := by assumption) (h_xing : may .xing := by assumption) :
    Kept lb may s0 (State.wakeBy s code) := by
  unfold State.wakeBy
  repeat' (first
    | with_reducible assumption
    | exact ‹Low _ _›.of_le (by decide)
    | exact ‹Low _ _›.of_le (Nat.zero_le _)
    | with_reducible apply startReturn_kept
    | with_reducible apply flag_kept
    | with_reducible apply set_kept
)

theorem wake_kept {lb : Nat} {may : Part → Prop} {s0 s : State} (code : ℕ) (h : Kept lb may s0 s) (hn : Low lb 0x0 := by exact ‹Low _ _›.up rfl) (h_timers : may .timers := by assumption) (h_tick : may .tick := by assumption) (h_clk : may .clk := by assumption) (h_bus : may .bus := by assumption) (h_ain : may .ain := by assumption) (h_phantom : may .phantom := by assumption) (h_aout : may .aout := by assumption) (h_hp : may .hp := by assumption) (h_psc : may .psc := by assumption) (h_asrc : may .asrc := by assumption) (h_sap : may .sap := by assumption) (h_chain : may .chain := by assumption) (h_lsn : may .lsn := by assumption) (h_pwr : may .pwr := by assumption) (h_xing : may .xing := by assumption) :
    Kept lb may s0 (State.wake s code) := by
  unfold State.wake
  repeat' (first
    | with_reducible assumption
    | exact ‹Low _ _›.of_le (by decide)
    | exact ‹Low _ _›.of_le (Nat.zero_le _)
    | with_reducible apply wakeBy_kept
    | split)

theorem modeRequest_kept {lb : Nat} {may : Part → Prop} {s0 s : State} (m : ℕ) (h : Kept lb may s0 s) (hn : Low lb 0x0 := by exact ‹Low _ _›.up rfl) (h_timers : may .timers := by assumption) (h_tick : may .tick := by assumption) (h_clk : may .clk := by assumption) (h_bus : may .bus := by assumption) (h_ain : may .ain := by assumption) (h_phantom : may .phantom := by assumption) (h_aout : may .aout := by assumption) (h_hp : may .hp := by assumption) (h_psc : may .psc := by assumption) (h_asrc : may .asrc := by assumption) (h_sap : may .sap := by assumption) (h_chain : may .chain := by assumption) (h_lsn : may .lsn := by assumption) (h_pwr : may .pwr := by assumption) (h_xing : may .xing := by assumption) :
    Kept lb may s0 (State.modeRequest s m) := by
  unfold State.modeRequest
  repeat' (first
    | with_reducible assumption
    | exact ‹Low _ _›.of_le (by decide)
    | exact ‹Low _ _›.of_le (Nat.zero_le _)
    | (extract_lets +onlyGivenNames x; clear_value x)
    | with_reducible apply flag_kept
    | with_reducible apply wakeBy_kept
    | with_reducible apply wake_kept
    | with_reducible apply set_kept
    | with_reducible apply setPwr_kept
    | split)

theorem pwrmCtl_kept {lb : Nat} {may : Part → Prop} {s0 s : State} (v : Word) (h : Kept lb may s0 s) (hn : Low lb 0x0 := by exact ‹Low _ _›.up rfl) (h_timers : may .timers := by assumption) (h_tick : may .tick := by assumption) (h_clk : may .clk := by assumption) (h_bus : may .bus := by assumption) (h_ain : may .ain := by assumption) (h_phantom : may .phantom := by assumption) (h_aout : may .aout := by assumption) (h_hp : may .hp := by assumption) (h_psc : may .psc := by assumption) (h_asrc : may .asrc := by assumption) (h_sap : may .sap := by assumption) (h_chain : may .chain := by assumption) (h_lsn : may .lsn := by assumption) (h_pwr : may .pwr := by assumption) (h_xing : may .xing := by assumption) :
    Kept lb may s0 (State.pwrmCtl s v) := by
  unfold State.pwrmCtl
  repeat' (first
    | with_reducible assumption
    | exact ‹Low _ _›.of_le (by decide)
    | exact ‹Low _ _›.of_le (Nat.zero_le _)
    | with_reducible apply modeRequest_kept
    | split)

theorem sysOff_kept {lb : Nat} {may : Part → Prop} {s0 s : State} (h : Kept lb may s0 s) (hn : Low lb 0x0 := by exact ‹Low _ _›.up rfl) (h_timers : may .timers := by assumption) (h_tick : may .tick := by assumption) (h_clk : may .clk := by assumption) (h_fab : may .fab := by assumption) (h_bus : may .bus := by assumption) (h_irq : may .irq := by assumption) (h_ain : may .ain := by assumption) (h_phantom : may .phantom := by assumption) (h_aout : may .aout := by assumption) (h_hp : may .hp := by assumption) (h_psc : may .psc := by assumption) (h_asrc : may .asrc := by assumption) (h_sap : may .sap := by assumption) (h_stew : may .stew := by assumption) (h_mbx : may .mbx := by assumption) (h_host : may .host := by assumption) (h_chain : may .chain := by assumption) (h_lsn : may .lsn := by assumption) (h_gauge : may .gauge := by assumption) (h_ram : may .ram := by assumption) (h_sec : may .sec := by assumption) (h_xing : may .xing := by assumption) : Kept lb may s0 (State.sysOff s) := by
  unfold State.sysOff
  extract_lets t
  have ht : Kept lb may s0 t := endSession_kept (dropNonce_kept h)
  refine Kept.foldl _ _ _ ⟨ht.pending, ht.now, fun i =>
    let j := ht.inv i
    ⟨tabWf_filter _ _ _ j.regs, rfl, j.flash, rfl, Nat.zero_le _, Nat.zero_le _⟩, fun a ha => ?_, fun p hp => ?_⟩
    fun _ _ hu => setWord_kept hu _ _ (Low.of_le hn (Nat.zero_le _))
  · exact absurd (Nat.lt_of_lt_of_le ha hn) (Nat.not_lt_zero a)
  · cases p
    case free => exact ht.part .free hp
    case flash => exact ht.part .flash hp
    case sec => exact ht.part .sec hp
    case pwr => exact ht.part .pwr hp
    all_goals exact absurd (by assumption) hp

theorem sleep_kept {lb : Nat} {may : Part → Prop} {s0 s : State} (m : ℕ) (h : Kept lb may s0 s) (hn : Low lb 0x0 := by exact ‹Low _ _›.up rfl) (h_timers : may .timers := by assumption) (h_tick : may .tick := by assumption) (h_clk : may .clk := by assumption) (h_fab : may .fab := by assumption) (h_bus : may .bus := by assumption) (h_irq : may .irq := by assumption) (h_ain : may .ain := by assumption) (h_phantom : may .phantom := by assumption) (h_aout : may .aout := by assumption) (h_hp : may .hp := by assumption) (h_psc : may .psc := by assumption) (h_asrc : may .asrc := by assumption) (h_sap : may .sap := by assumption) (h_stew : may .stew := by assumption) (h_mbx : may .mbx := by assumption) (h_host : may .host := by assumption) (h_chain : may .chain := by assumption) (h_lsn : may .lsn := by assumption) (h_gauge : may .gauge := by assumption) (h_ram : may .ram := by assumption) (h_sec : may .sec := by assumption) (h_pwr : may .pwr := by assumption) (h_xing : may .xing := by assumption) :
    Kept lb may s0 (State.sleep s m) := by
  unfold State.sleep
  repeat' (first
    | with_reducible assumption
    | exact ‹Low _ _›.of_le (by decide)
    | exact ‹Low _ _›.of_le (Nat.zero_le _)
    | (extract_lets +onlyGivenNames x; refine (have hx : Kept lb may s0 x := ?_; ?_); rotate_left; clear_value x; rotate_right; subst x)
    | (extract_lets +onlyGivenNames x; clear_value x)
    | with_reducible apply domainOff_kept
    | with_reducible apply sysOff_kept
    | with_reducible apply setPwr_kept
    | with_reducible apply set_kept
    | with_reducible apply showStage_kept
    | with_reducible apply lsnPower_kept
    | with_reducible apply modeReached_kept)

theorem entryStep_kept {lb : Nat} {may : Part → Prop} {s0 s : State} (h : Kept lb may s0 s) (hn : Low lb 0x0 := by exact ‹Low _ _›.up rfl) (h_timers : may .timers := by assumption) (h_tick : may .tick := by assumption) (h_clk : may .clk := by assumption) (h_fab : may .fab := by assumption) (h_bus : may .bus := by assumption) (h_irq : may .irq := by assumption) (h_ain : may .ain := by assumption) (h_phantom : may .phantom := by assumption) (h_aout : may .aout := by assumption) (h_hp : may .hp := by assumption) (h_psc : may .psc := by assumption) (h_asrc : may .asrc := by assumption) (h_sap : may .sap := by assumption) (h_stew : may .stew := by assumption) (h_mbx : may .mbx := by assumption) (h_host : may .host := by assumption) (h_chain : may .chain := by assumption) (h_lsn : may .lsn := by assumption) (h_gauge : may .gauge := by assumption) (h_ram : may .ram := by assumption) (h_sec : may .sec := by assumption) (h_pwr : may .pwr := by assumption) (h_xing : may .xing := by assumption) :
    Kept lb may s0 (State.entryStep s) := by
  unfold State.entryStep
  repeat' (first
    | with_reducible assumption
    | exact ‹Low _ _›.of_le (by decide)
    | exact ‹Low _ _›.of_le (Nat.zero_le _)
    | (extract_lets +onlyGivenNames x; refine (have hx : Kept lb may s0 x := ?_; ?_); rotate_left; clear_value x; rotate_right; subst x)
    | (extract_lets +onlyGivenNames x; subst x; beta_reduce)
    | with_reducible apply setPwr_kept
    | with_reducible apply startTimer_kept
    | with_reducible apply followParking_kept
    | with_reducible apply pscIdle_kept
    | with_reducible apply set_kept
    | with_reducible apply stopTimer_kept
    | with_reducible apply modeReached_kept
    | with_reducible apply hpFollowAll_kept
    | with_reducible apply pscPark_kept
    | with_reducible apply aoTakeClear_kept
    | with_reducible apply domainOff_kept
    | with_reducible apply lsnPower_kept
    | with_reducible apply stagesAbandon_kept
    | with_reducible apply releaseBundle_kept
    | with_reducible apply note_kept
    | with_reducible apply skimStandby_kept
    | with_reducible apply sleep_kept
    | with_reducible refine Kept.foldl _ _ _ ?_ fun _ _ _ => ?_
    | with_reducible refine Kept.foldl_snd _ _ _ ?_ fun _ _ _ => ?_
    | with_reducible refine Kept.foldl_fst _ _ _ ?_ fun _ _ _ => ?_
    | intro v
    | split)

theorem clockGate_kept {lb : Nat} {may : Part → Prop} {s0 s : State} (h : Kept lb may s0 s) (h_pwr : may .pwr := by assumption) :
    Kept lb may s0 (State.clockGate s) := by
  unfold State.clockGate
  repeat' (first
    | with_reducible assumption
    | (extract_lets +onlyGivenNames x; subst x)
    | with_reducible apply setPwr_kept)

theorem ungateEnded_kept {lb : Nat} {may : Part → Prop} {s0 s : State} (h : Kept lb may s0 s) (h_pwr : may .pwr := by assumption) :
    Kept lb may s0 (State.ungateEnded s) := by
  unfold State.ungateEnded
  repeat' (first
    | with_reducible assumption
    | (extract_lets +onlyGivenNames x; clear_value x)
    | with_reducible apply setPwr_kept
    | with_reducible refine Kept.foldl _ _ _ ?_ fun _ _ _ => ?_
    | with_reducible refine Kept.foldl_snd _ _ _ ?_ fun _ _ _ => ?_
    | with_reducible refine Kept.foldl_fst _ _ _ ?_ fun _ _ _ => ?_
    | intro v
    | split)

theorem resetRegs_kept {lb : Nat} {may : Part → Prop} {s0 s : State} (d : Dom) (h : Kept lb may s0 s) (hn : Low lb 0x0 := by exact ‹Low _ _›.up rfl) :
    Kept lb may s0 (State.resetRegs s d) := by
  unfold State.resetRegs
  repeat' (first
    | with_reducible assumption
    | exact ‹Low _ _›.up2 rfl
    | exact ‹Low _ _›.up1 rfl
    | exact ‹Low _ _›.of_le (by decide)
    | exact ‹Low _ _›.of_le (Nat.zero_le _)
    | (extract_lets +onlyGivenNames x; clear_value x)
    | with_reducible apply setWord_kept
    | with_reducible refine Kept.foldl _ _ _ ?_ fun _ _ _ => ?_
    | with_reducible refine Kept.foldl_snd _ _ _ ?_ fun _ _ _ => ?_
    | with_reducible refine Kept.foldl_fst _ _ _ ?_ fun _ _ _ => ?_
    | intro v
    | split)

theorem resetChain_kept {lb : Nat} {may : Part → Prop} {s0 s : State} (h : Kept lb may s0 s) (hn : Low lb 0x1a0004 := by exact ‹Low _ _›.up rfl) (h_chain : may .chain := by assumption) :
    Kept lb may s0 (State.resetChain s) := by
  unfold State.resetChain
  repeat' (first
    | with_reducible assumption
    | exact ‹Low _ _›.of_le (by decide)
    | (extract_lets +onlyGivenNames x; subst x)
    | with_reducible apply set_kept
    | with_reducible apply setWord_kept
    | with_reducible apply setChain_kept)

theorem domainReset_kept {lb : Nat} {may : Part → Prop} {s0 s : State} (d : Dom) (h : Kept lb may s0 s) (hn : Low lb 0x0 := by exact ‹Low _ _›.up rfl) (h_timers : may .timers := by assumption) (h_tick : may .tick := by assumption) (h_clk : may .clk := by assumption) (h_fab : may .fab := by assumption) (h_bus : may .bus := by assumption) (h_ain : may .ain := by assumption) (h_phantom : may .phantom := by assumption) (h_aout : may .aout := by assumption) (h_hp : may .hp := by assumption) (h_psc : may .psc := by assumption) (h_asrc : may .asrc := by assumption) (h_sap : may .sap := by assumption) (h_chain : may .chain := by assumption) (h_lsn : may .lsn := by assumption) (h_pwr : may .pwr := by assumption) (h_xing : may .xing := by assumption) :
    Kept lb may s0 (State.domainReset s d) := by
  unfold State.domainReset
  repeat' (first
    | with_reducible assumption
    | exact ‹Low _ _›.up1 rfl
    | exact ‹Low _ _›.of_le (by decide)
    | exact ‹Low _ _›.of_le (Nat.zero_le _)
    | (extract_lets +onlyGivenNames x; refine (have hx : Kept lb may s0 x := ?_; ?_); rotate_left; clear_value x; rotate_right; subst x)
    | (extract_lets +onlyGivenNames x; clear_value x)
    | with_reducible apply allOff_kept
    | with_reducible apply resetRegs_kept
    | with_reducible apply xingResetDom_kept
    | with_reducible apply blockOff_kept
    | with_reducible apply setWord_kept
    | with_reducible apply resetChain_kept
    | with_reducible apply ainPowerUp_kept
    | with_reducible apply pllLoad_kept
    | with_reducible apply stagesEnd_kept
    | with_reducible apply startTimer_kept
    | with_reducible apply setPwr_kept
    | with_reducible apply hpPowerUp_kept
    | with_reducible apply aoPowerUp_kept
    | with_reducible apply followAll_kept
    | with_reducible refine Kept.foldl _ _ _ ?_ fun _ _ _ => ?_
    | with_reducible refine Kept.foldl_snd _ _ _ ?_ fun _ _ _ => ?_
    | with_reducible refine Kept.foldl_fst _ _ _ ?_ fun _ _ _ => ?_
    | intro v
    | split)

theorem hpMs_kept {lb : Nat} {may : Part → Prop} {s0 s : State} (h : Kept lb may s0 s) (hn : Low lb 0x160000 := by exact ‹Low _ _›.up rfl) (h_timers : may .timers := by assumption) (h_hp : may .hp := by assumption) :
    Kept lb may s0 (State.hpMs s) := by
  unfold State.hpMs
  repeat' (first
    | with_reducible assumption
    | exact ‹Low _ _›.of_le (by decide)
    | (extract_lets +onlyGivenNames x; subst x; beta_reduce)
    | with_reducible apply hpSettle_kept
    | with_reducible apply hpShowTrips_kept
    | intro v
    | split)

theorem aoResetMs_kept {lb : Nat} {may : Part → Prop} {s0 s : State} (h : Kept lb may s0 s) (hn : Low lb 0x0 := by exact ‹Low _ _›.up rfl) (h_timers : may .timers := by assumption) (h_tick : may .tick := by assumption) (h_clk : may .clk := by assumption) (h_fab : may .fab := by assumption) (h_bus : may .bus := by assumption) (h_ain : may .ain := by assumption) (h_phantom : may .phantom := by assumption) (h_aout : may .aout := by assumption) (h_hp : may .hp := by assumption) (h_psc : may .psc := by assumption) (h_asrc : may .asrc := by assumption) (h_sap : may .sap := by assumption) (h_chain : may .chain := by assumption) (h_lsn : may .lsn := by assumption) (h_pwr : may .pwr := by assumption) (h_xing : may .xing := by assumption) :
    Kept lb may s0 (State.aoResetMs s) := by
  unfold State.aoResetMs
  repeat' (first
    | with_reducible assumption
    | exact ‹Low _ _›.of_le (by decide)
    | exact ‹Low _ _›.of_le (Nat.zero_le _)
    | (extract_lets +onlyGivenNames x; refine (have hx : Kept lb may s0 x := ?_; ?_); rotate_left; clear_value x; rotate_right; subst x)
    | (extract_lets +onlyGivenNames x; clear_value x)
    | with_reducible apply aoTakeClear_kept
    | with_reducible apply domainReset_kept
    | with_reducible apply stopTimer_kept
    | with_reducible apply setPwr_kept
    | split)

theorem aoResetBegin_kept {lb : Nat} {may : Part → Prop} {s0 s : State} (h : Kept lb may s0 s) (hn : Low lb 0x0 := by exact ‹Low _ _›.up rfl) (h_timers : may .timers := by assumption) (h_tick : may .tick := by assumption) (h_clk : may .clk := by assumption) (h_fab : may .fab := by assumption) (h_bus : may .bus := by assumption) (h_ain : may .ain := by assumption) (h_phantom : may .phantom := by assumption) (h_aout : may .aout := by assumption) (h_hp : may .hp := by assumption) (h_psc : may .psc := by assumption) (h_asrc : may .asrc := by assumption) (h_sap : may .sap := by assumption) (h_chain : may .chain := by assumption) (h_lsn : may .lsn := by assumption) (h_pwr : may .pwr := by assumption) (h_xing : may .xing := by assumption) :
    Kept lb may s0 (State.aoResetBegin s) := by
  unfold State.aoResetBegin
  repeat' (first
    | with_reducible assumption
    | exact ‹Low _ _›.of_le (by decide)
    | exact ‹Low _ _›.of_le (Nat.zero_le _)
    | (extract_lets +onlyGivenNames x; clear_value x)
    | with_reducible apply aoResetMs_kept
    | with_reducible apply hpFollowAll_kept
    | with_reducible apply aoRetargetAll_kept
    | with_reducible apply startTimer_kept
    | with_reducible apply setPwr_kept
    | split)

theorem pwrmRst_kept {lb : Nat} {may : Part → Prop} {s0 s : State} (v : Word) (h : Kept lb may s0 s) (hn : Low lb 0x0 := by exact ‹Low _ _›.up rfl) (h_timers : may .timers := by assumption) (h_tick : may .tick := by assumption) (h_clk : may .clk := by assumption) (h_fab : may .fab := by assumption) (h_bus : may .bus := by assumption) (h_ain : may .ain := by assumption) (h_phantom : may .phantom := by assumption) (h_aout : may .aout := by assumption) (h_hp : may .hp := by assumption) (h_psc : may .psc := by assumption) (h_asrc : may .asrc := by assumption) (h_sap : may .sap := by assumption) (h_chain : may .chain := by assumption) (h_lsn : may .lsn := by assumption) (h_pwr : may .pwr := by assumption) (h_xing : may .xing := by assumption) :
    Kept lb may s0 (State.pwrmRst s v) := by
  unfold State.pwrmRst
  repeat' (first
    | with_reducible assumption
    | exact ‹Low _ _›.of_le (by decide)
    | exact ‹Low _ _›.of_le (Nat.zero_le _)
    | with_reducible apply aoResetBegin_kept
    | with_reducible apply domainReset_kept
    | with_reducible refine Kept.foldl _ _ _ ?_ fun _ _ _ => ?_
    | with_reducible refine Kept.foldl_snd _ _ _ ?_ fun _ _ _ => ?_
    | with_reducible refine Kept.foldl_fst _ _ _ ?_ fun _ _ _ => ?_
    | intro v
    | split)

theorem wakeOnMatch_kept {lb : Nat} {may : Part → Prop} {s0 after : State} (before : State) (h : Kept lb may s0 after) (hn : Low lb 0x0 := by exact ‹Low _ _›.up rfl) (h_timers : may .timers := by assumption) (h_tick : may .tick := by assumption) (h_clk : may .clk := by assumption) (h_bus : may .bus := by assumption) (h_ain : may .ain := by assumption) (h_phantom : may .phantom := by assumption) (h_aout : may .aout := by assumption) (h_hp : may .hp := by assumption) (h_psc : may .psc := by assumption) (h_asrc : may .asrc := by assumption) (h_sap : may .sap := by assumption) (h_chain : may .chain := by assumption) (h_lsn : may .lsn := by assumption) (h_pwr : may .pwr := by assumption) (h_xing : may .xing := by assumption) : Kept lb may s0 (State.wakeOnMatch before after) := by
  unfold State.wakeOnMatch
  split
  · exact h
  · exact wake_kept _ h


theorem aonTimerEnd_kept {lb : Nat} {may : Part → Prop} {s0 s : State} (h : Kept lb may s0 s) (hn : Low lb 0x0 := by exact ‹Low _ _›.up rfl) (h_timers : may .timers := by assumption) (h_tick : may .tick := by assumption) (h_clk : may .clk := by assumption) (h_bus : may .bus := by assumption) (h_ain : may .ain := by assumption) (h_phantom : may .phantom := by assumption) (h_aout : may .aout := by assumption) (h_hp : may .hp := by assumption) (h_psc : may .psc := by assumption) (h_asrc : may .asrc := by assumption) (h_sap : may .sap := by assumption) (h_chain : may .chain := by assumption) (h_lsn : may .lsn := by assumption) (h_pwr : may .pwr := by assumption) (h_xing : may .xing := by assumption) :
    Kept lb may s0 (State.aonTimerEnd s) := by
  unfold State.aonTimerEnd
  repeat' (first
    | with_reducible assumption
    | exact ‹Low _ _›.of_le (by decide)
    | exact ‹Low _ _›.of_le (Nat.zero_le _)
    | with_reducible apply wake_kept
    | with_reducible apply stopTimer_kept
    | split)

theorem chainWake_kept {lb : Nat} {may : Part → Prop} {s0 s : State} (h : Kept lb may s0 s) (hn : Low lb 0x0 := by exact ‹Low _ _›.up rfl) (h_timers : may .timers := by assumption) (h_tick : may .tick := by assumption) (h_clk : may .clk := by assumption) (h_bus : may .bus := by assumption) (h_ain : may .ain := by assumption) (h_phantom : may .phantom := by assumption) (h_aout : may .aout := by assumption) (h_hp : may .hp := by assumption) (h_psc : may .psc := by assumption) (h_asrc : may .asrc := by assumption) (h_sap : may .sap := by assumption) (h_chain : may .chain := by assumption) (h_lsn : may .lsn := by assumption) (h_pwr : may .pwr := by assumption) (h_xing : may .xing := by assumption) :
    Kept lb may s0 (State.chainWake s) := by
  unfold State.chainWake
  repeat' (first
    | with_reducible assumption
    | exact ‹Low _ _›.of_le (by decide)
    | exact ‹Low _ _›.of_le (Nat.zero_le _)
    | (extract_lets +onlyGivenNames x; subst x)
    | with_reducible apply wake_kept
    | with_reducible apply setChain_kept
    | split)

theorem losWake_kept {lb : Nat} {may : Part → Prop} {s0 s : State} (p : ℕ) (h : Kept lb may s0 s) (hn : Low lb 0x0 := by exact ‹Low _ _›.up rfl) (h_timers : may .timers := by assumption) (h_tick : may .tick := by assumption) (h_clk : may .clk := by assumption) (h_bus : may .bus := by assumption) (h_ain : may .ain := by assumption) (h_phantom : may .phantom := by assumption) (h_aout : may .aout := by assumption) (h_hp : may .hp := by assumption) (h_psc : may .psc := by assumption) (h_asrc : may .asrc := by assumption) (h_sap : may .sap := by assumption) (h_chain : may .chain := by assumption) (h_lsn : may .lsn := by assumption) (h_pwr : may .pwr := by assumption) (h_xing : may .xing := by assumption) :
    Kept lb may s0 (State.losWake s p) := by
  unfold State.losWake
  repeat' (first
    | with_reducible assumption
    | exact ‹Low _ _›.of_le (by decide)
    | exact ‹Low _ _›.of_le (Nat.zero_le _)
    | with_reducible apply wake_kept
    | split)

theorem execModeRequest_kept {lb : Nat} {may : Part → Prop} {s0 s : State} (m : Fin 8) (h : Kept lb may s0 s) (hn : Low lb 0x0 := by exact ‹Low _ _›.up rfl) (h_timers : may .timers := by assumption) (h_tick : may .tick := by assumption) (h_clk : may .clk := by assumption) (h_bus : may .bus := by assumption) (h_ain : may .ain := by assumption) (h_phantom : may .phantom := by assumption) (h_aout : may .aout := by assumption) (h_hp : may .hp := by assumption) (h_psc : may .psc := by assumption) (h_asrc : may .asrc := by assumption) (h_sap : may .sap := by assumption) (h_chain : may .chain := by assumption) (h_lsn : may .lsn := by assumption) (h_pwr : may .pwr := by assumption) (h_xing : may .xing := by assumption) :
    ∃ out, execModeRequest m s = .next out ∧ Kept lb may s0 out := by
  refine ⟨_, rfl, ?_⟩
  repeat' (first
    | with_reducible assumption
    | with_reducible intro v
    | exact ‹Low _ _›.of_le (by decide)
    | exact ‹Low _ _›.of_le (Nat.zero_le _)
    | with_reducible apply byRow_kept
    | with_reducible apply onBus_kept
    | with_reducible apply modeRequest_kept
)

theorem execModeEntry_kept {lb : Nat} {may : Part → Prop} {s0 s : State} (h : Kept lb may s0 s) (hn : Low lb 0x0 := by exact ‹Low _ _›.up rfl) (h_timers : may .timers := by assumption) (h_tick : may .tick := by assumption) (h_clk : may .clk := by assumption) (h_fab : may .fab := by assumption) (h_bus : may .bus := by assumption) (h_irq : may .irq := by assumption) (h_ain : may .ain := by assumption) (h_phantom : may .phantom := by assumption) (h_aout : may .aout := by assumption) (h_hp : may .hp := by assumption) (h_psc : may .psc := by assumption) (h_asrc : may .asrc := by assumption) (h_sap : may .sap := by assumption) (h_stew : may .stew := by assumption) (h_mbx : may .mbx := by assumption) (h_host : may .host := by assumption) (h_chain : may .chain := by assumption) (h_lsn : may .lsn := by assumption) (h_gauge : may .gauge := by assumption) (h_ram : may .ram := by assumption) (h_sec : may .sec := by assumption) (h_pwr : may .pwr := by assumption) (h_xing : may .xing := by assumption) :
    ∃ out, execModeEntry s = .next out ∧ Kept lb may s0 out := by
  refine ⟨_, rfl, ?_⟩
  repeat' (first
    | with_reducible assumption
    | with_reducible intro v
    | exact ‹Low _ _›.of_le (by decide)
    | exact ‹Low _ _›.of_le (Nat.zero_le _)
    | with_reducible apply entryStep_kept
)

theorem execClockGate_kept {lb : Nat} {may : Part → Prop} {s0 s : State} (h : Kept lb may s0 s) (h_pwr : may .pwr := by assumption) :
    ∃ out, execClockGate s = .next out ∧ Kept lb may s0 out := by
  refine ⟨_, rfl, ?_⟩
  repeat' (first
    | with_reducible assumption
    | with_reducible intro v
    | with_reducible apply clockGate_kept
)

theorem execWake_kept {lb : Nat} {may : Part → Prop} {s0 s : State} (code : Fin 16) (h : Kept lb may s0 s) (hn : Low lb 0x0 := by exact ‹Low _ _›.up rfl) (h_timers : may .timers := by assumption) (h_tick : may .tick := by assumption) (h_clk : may .clk := by assumption) (h_bus : may .bus := by assumption) (h_ain : may .ain := by assumption) (h_phantom : may .phantom := by assumption) (h_aout : may .aout := by assumption) (h_hp : may .hp := by assumption) (h_psc : may .psc := by assumption) (h_asrc : may .asrc := by assumption) (h_sap : may .sap := by assumption) (h_chain : may .chain := by assumption) (h_lsn : may .lsn := by assumption) (h_pwr : may .pwr := by assumption) (h_xing : may .xing := by assumption) :
    ∃ out, execWake code s = .next out ∧ Kept lb may s0 out := by
  refine ⟨_, rfl, ?_⟩
  repeat' (first
    | with_reducible assumption
    | with_reducible intro v
    | exact ‹Low _ _›.of_le (by decide)
    | exact ‹Low _ _›.of_le (Nat.zero_le _)
    | with_reducible apply wake_kept
)

theorem execWakeN_kept {lb : Nat} {may : Part → Prop} {s0 s : State} (h : Kept lb may s0 s) (hn : Low lb 0x0 := by exact ‹Low _ _›.up rfl) (h_timers : may .timers := by assumption) (h_tick : may .tick := by assumption) (h_clk : may .clk := by assumption) (h_bus : may .bus := by assumption) (h_ain : may .ain := by assumption) (h_phantom : may .phantom := by assumption) (h_aout : may .aout := by assumption) (h_hp : may .hp := by assumption) (h_psc : may .psc := by assumption) (h_asrc : may .asrc := by assumption) (h_sap : may .sap := by assumption) (h_chain : may .chain := by assumption) (h_lsn : may .lsn := by assumption) (h_pwr : may .pwr := by assumption) (h_xing : may .xing := by assumption) :
    ∃ out, execWakeN s = .next out ∧ Kept lb may s0 out := by
  refine ⟨_, rfl, ?_⟩
  repeat' (first
    | with_reducible assumption
    | with_reducible intro v
    | exact ‹Low _ _›.of_le (by decide)
    | exact ‹Low _ _›.of_le (Nat.zero_le _)
    | with_reducible apply wake_kept
)

theorem execAonTimer_kept {lb : Nat} {may : Part → Prop} {s0 s : State} (h : Kept lb may s0 s) (hn : Low lb 0x0 := by exact ‹Low _ _›.up rfl) (h_timers : may .timers := by assumption) (h_tick : may .tick := by assumption) (h_clk : may .clk := by assumption) (h_bus : may .bus := by assumption) (h_ain : may .ain := by assumption) (h_phantom : may .phantom := by assumption) (h_aout : may .aout := by assumption) (h_hp : may .hp := by assumption) (h_psc : may .psc := by assumption) (h_asrc : may .asrc := by assumption) (h_sap : may .sap := by assumption) (h_chain : may .chain := by assumption) (h_lsn : may .lsn := by assumption) (h_pwr : may .pwr := by assumption) (h_xing : may .xing := by assumption) :
    ∃ out, execAonTimer s = .next out ∧ Kept lb may s0 out := by
  refine ⟨_, rfl, ?_⟩
  repeat' (first
    | with_reducible assumption
    | with_reducible intro v
    | exact ‹Low _ _›.of_le (by decide)
    | exact ‹Low _ _›.of_le (Nat.zero_le _)
    | with_reducible apply aonTimerEnd_kept
)

theorem execChainWakePattern_kept {lb : Nat} {may : Part → Prop} {s0 s : State} (h : Kept lb may s0 s) (hn : Low lb 0x0 := by exact ‹Low _ _›.up rfl) (h_timers : may .timers := by assumption) (h_tick : may .tick := by assumption) (h_clk : may .clk := by assumption) (h_bus : may .bus := by assumption) (h_ain : may .ain := by assumption) (h_phantom : may .phantom := by assumption) (h_aout : may .aout := by assumption) (h_hp : may .hp := by assumption) (h_psc : may .psc := by assumption) (h_asrc : may .asrc := by assumption) (h_sap : may .sap := by assumption) (h_chain : may .chain := by assumption) (h_lsn : may .lsn := by assumption) (h_pwr : may .pwr := by assumption) (h_xing : may .xing := by assumption) :
    ∃ out, execChainWakePattern s = .next out ∧ Kept lb may s0 out := by
  refine ⟨_, rfl, ?_⟩
  repeat' (first
    | with_reducible assumption
    | with_reducible intro v
    | exact ‹Low _ _›.of_le (by decide)
    | exact ‹Low _ _›.of_le (Nat.zero_le _)
    | with_reducible apply chainWake_kept
)

theorem execPresencePress_kept {lb : Nat} {may : Part → Prop} {s0 s : State} (h : Kept lb may s0 s) (hn : Low lb 0x0 := by exact ‹Low _ _›.up rfl) (h_timers : may .timers := by assumption) (h_tick : may .tick := by assumption) (h_clk : may .clk := by assumption) (h_bus : may .bus := by assumption) (h_ain : may .ain := by assumption) (h_phantom : may .phantom := by assumption) (h_aout : may .aout := by assumption) (h_hp : may .hp := by assumption) (h_psc : may .psc := by assumption) (h_asrc : may .asrc := by assumption) (h_sap : may .sap := by assumption) (h_chain : may .chain := by assumption) (h_lsn : may .lsn := by assumption) (h_sec : may .sec := by assumption) (h_pwr : may .pwr := by assumption) (h_xing : may .xing := by assumption) :
    ∃ out, execPresencePress s = .next out ∧ Kept lb may s0 out := by
  refine ⟨_, rfl, ?_⟩
  repeat' (first
    | with_reducible assumption
    | with_reducible intro v
    | exact ‹Low _ _›.of_le (by decide)
    | exact ‹Low _ _›.of_le (Nat.zero_le _)
    | with_reducible apply wake_kept
    | with_reducible apply presPress_kept
)

theorem execLosChange_kept {lb : Nat} {may : Part → Prop} {s0 s : State} (p : Fin 2) (high : Bool) (h : Kept lb may s0 s) (hn : Low lb 0x0 := by exact ‹Low _ _›.up rfl) (h_timers : may .timers := by assumption) (h_tick : may .tick := by assumption) (h_clk : may .clk := by assumption) (h_bus : may .bus := by assumption) (h_ain : may .ain := by assumption) (h_phantom : may .phantom := by assumption) (h_aout : may .aout := by assumption) (h_hp : may .hp := by assumption) (h_psc : may .psc := by assumption) (h_asrc : may .asrc := by assumption) (h_sap : may .sap := by assumption) (h_chain : may .chain := by assumption) (h_lsn : may .lsn := by assumption) (h_pwr : may .pwr := by assumption) (h_xing : may .xing := by assumption) :
    ∃ out, execLosChange p high s = .next out ∧ Kept lb may s0 out := by
  refine ⟨_, rfl, ?_⟩
  repeat' (first
    | with_reducible assumption
    | with_reducible intro v
    | exact ‹Low _ _›.of_le (by decide)
    | exact ‹Low _ _›.of_le (Nat.zero_le _)
    | with_reducible apply losWake_kept
    | with_reducible apply losChange_kept
)

theorem execW1Fire_kept {lb : Nat} {may : Part → Prop} {s0 s : State} (h : Kept lb may s0 s) (hn : Low lb 0x0 := by exact ‹Low _ _›.up rfl) (h_free : may .free := by assumption) (h_timers : may .timers := by assumption) (h_tick : may .tick := by assumption) (h_clk : may .clk := by assumption) (h_bus : may .bus := by assumption) (h_ain : may .ain := by assumption) (h_phantom : may .phantom := by assumption) (h_aout : may .aout := by assumption) (h_hp : may .hp := by assumption) (h_psc : may .psc := by assumption) (h_asrc : may .asrc := by assumption) (h_sap : may .sap := by assumption) (h_chain : may .chain := by assumption) (h_lsn : may .lsn := by assumption) (h_pwr : may .pwr := by assumption) (h_xing : may .xing := by assumption) :
    ∃ out, execW1Fire s = .next out ∧ Kept lb may s0 out := by
  refine ⟨_, rfl, ?_⟩
  repeat' (first
    | with_reducible assumption
    | with_reducible intro v
    | exact ‹Low _ _›.of_le (by decide)
    | exact ‹Low _ _›.of_le (Nat.zero_le _)
    | with_reducible apply wakeOnMatch_kept
    | with_reducible apply w1Fire_kept
)

theorem execW2Fire_kept {lb : Nat} {may : Part → Prop} {s0 s : State} (t : Fin 4) (path : List (ℕ × ℕ)) (h : Kept lb may s0 s) (hn : Low lb 0x0 := by exact ‹Low _ _›.up rfl) (h_free : may .free := by assumption) (h_timers : may .timers := by assumption) (h_tick : may .tick := by assumption) (h_clk : may .clk := by assumption) (h_bus : may .bus := by assumption) (h_ain : may .ain := by assumption) (h_phantom : may .phantom := by assumption) (h_aout : may .aout := by assumption) (h_hp : may .hp := by assumption) (h_psc : may .psc := by assumption) (h_asrc : may .asrc := by assumption) (h_sap : may .sap := by assumption) (h_chain : may .chain := by assumption) (h_lsn : may .lsn := by assumption) (h_pwr : may .pwr := by assumption) (h_xing : may .xing := by assumption) :
    ∃ out, execW2Fire t path s = .next out ∧ Kept lb may s0 out := by
  refine ⟨_, rfl, ?_⟩
  repeat' (first
    | with_reducible assumption
    | with_reducible intro v
    | exact ‹Low _ _›.of_le (by decide)
    | exact ‹Low _ _›.of_le (Nat.zero_le _)
    | with_reducible apply wakeOnMatch_kept
    | with_reducible apply w2Fire_kept
)

theorem execLsnMatch_kept {lb : Nat} {may : Part → Prop} {s0 s : State} (t : Fin 4) (variant : BitVec 8) (dur : BitVec 8) (index : BitVec 8) (path : List (ℕ × ℕ)) (pstart : BitVec 16) (pred : BitVec 16) (ring : List Byte) (h : Kept lb may s0 s) (hn : Low lb 0x0 := by exact ‹Low _ _›.up rfl) (h_timers : may .timers := by assumption) (h_tick : may .tick := by assumption) (h_clk : may .clk := by assumption) (h_bus : may .bus := by assumption) (h_ain : may .ain := by assumption) (h_phantom : may .phantom := by assumption) (h_aout : may .aout := by assumption) (h_hp : may .hp := by assumption) (h_psc : may .psc := by assumption) (h_asrc : may .asrc := by assumption) (h_sap : may .sap := by assumption) (h_chain : may .chain := by assumption) (h_lsn : may .lsn := by assumption) (h_pwr : may .pwr := by assumption) (h_xing : may .xing := by assumption) :
    ∃ out, execLsnMatch t variant dur index path pstart pred ring s = .next out ∧ Kept lb may s0 out := by
  refine ⟨_, rfl, ?_⟩
  repeat' (first
    | with_reducible assumption
    | with_reducible intro v
    | exact ‹Low _ _›.of_le (by decide)
    | exact ‹Low _ _›.of_le (Nat.zero_le _)
    | with_reducible apply wakeOnMatch_kept
    | with_reducible apply matchNow_kept
    | split)

theorem execStandbyReturn_kept {lb : Nat} {may : Part → Prop} {s0 s : State} (h : Kept lb may s0 s) (hn : Low lb 0x0 := by exact ‹Low _ _›.up rfl) (h_timers : may .timers := by assumption) (h_tick : may .tick := by assumption) (h_clk : may .clk := by assumption) (h_fab : may .fab := by assumption) (h_bus : may .bus := by assumption) (h_irq : may .irq := by assumption) (h_ain : may .ain := by assumption) (h_phantom : may .phantom := by assumption) (h_aout : may .aout := by assumption) (h_hp : may .hp := by assumption) (h_psc : may .psc := by assumption) (h_asrc : may .asrc := by assumption) (h_sap : may .sap := by assumption) (h_stew : may .stew := by assumption) (h_mbx : may .mbx := by assumption) (h_chain : may .chain := by assumption) (h_lsn : may .lsn := by assumption) (h_pwr : may .pwr := by assumption) (h_xing : may .xing := by assumption) :
    ∃ out, execStandbyReturn s = .next out ∧ Kept lb may s0 out := by
  refine ⟨_, rfl, ?_⟩
  repeat' (first
    | with_reducible assumption
    | with_reducible intro v
    | exact ‹Low _ _›.of_le (by decide)
    | exact ‹Low _ _›.of_le (Nat.zero_le _)
    | with_reducible apply standbyReturn_kept
)

theorem execPwrmRstWrite_kept {lb : Nat} {may : Part → Prop} {s0 s : State} (doms : BitVec 8) (h : Kept lb may s0 s) (hn : Low lb 0x0 := by exact ‹Low _ _›.up rfl) (h_timers : may .timers := by assumption) (h_tick : may .tick := by assumption) (h_clk : may .clk := by assumption) (h_fab : may .fab := by assumption) (h_bus : may .bus := by assumption) (h_ain : may .ain := by assumption) (h_phantom : may .phantom := by assumption) (h_aout : may .aout := by assumption) (h_hp : may .hp := by assumption) (h_psc : may .psc := by assumption) (h_asrc : may .asrc := by assumption) (h_sap : may .sap := by assumption) (h_chain : may .chain := by assumption) (h_lsn : may .lsn := by assumption) (h_pwr : may .pwr := by assumption) (h_xing : may .xing := by assumption) :
    ∃ out, execPwrmRstWrite doms s = .next out ∧ Kept lb may s0 out := by
  refine ⟨_, rfl, ?_⟩
  repeat' (first
    | with_reducible assumption
    | with_reducible intro v
    | exact ‹Low _ _›.of_le (by decide)
    | exact ‹Low _ _›.of_le (Nat.zero_le _)
    | with_reducible apply byRow_kept
    | with_reducible apply onBus_kept
    | with_reducible apply pwrmRst_kept
)

theorem execGpioEdge_kept {lb : Nat} {may : Part → Prop} {s0 s : State} (g : Fin 8) (high : Bool) (h : Kept lb may s0 s) (hn : Low lb 0x1b0008 := by exact ‹Low _ _›.up rfl) :
    ∃ out, execGpioEdge g high s = .next out ∧ Kept lb may s0 out := by
  refine ⟨_, rfl, ?_⟩
  repeat' (first
    | with_reducible assumption
    | with_reducible intro v
    | exact ‹Low _ _›.of_le (by decide)
    | with_reducible apply gpioLevel_kept
)

end Sys2Proof.Laws
end

