-- ==== Sys2Proof/Laws/KeptSteward.lean ====
section
/-! SUPPORT. Each operation of Machine/Steward.lean keeps the queue, the time and the invariant. -/

set_option Elab.async false

namespace Sys2Proof.Laws

open Sys2Proof.Machine

theorem spareFld_low (bank : ℕ) : 0x10f140 ≤ (spareFld bank).addr := by
  unfold spareFld
  split <;> exact Nat.le_add_right_of_le (by decide)

theorem setStew_kept {lb : Nat} {may : Part → Prop} {s0 s : State} (a1 : StewSt) (h : Kept lb may s0 s) (h_stew : may .stew := by assumption) :
    Kept lb may s0 (State.setStew s a1) := by
  unfold State.setStew
  repeat' (first
    | with_reducible assumption
    | with_reducible apply Kept.with_stew)

theorem putErr_kept {lb : Nat} {may : Part → Prop} {s0 s : State} (a1 : StewErr) (h : Kept lb may s0 s) (hn : Low lb 0x70004 := by exact ‹Low _ _›.up rfl) (h_stew : may .stew := by assumption) :
    Kept lb may s0 (State.putErr s a1) := by
  unfold State.putErr
  repeat' (first
    | with_reducible assumption
    | exact ‹Low _ _›.of_le (by decide)
    | (extract_lets +onlyGivenNames x; subst x)
    | with_reducible apply showTests_kept
    | with_reducible apply setStew_kept)

theorem classify_kept {lb : Nat} {may : Part → Prop} {s0 s : State} (e : StewErr) (unit : ℕ) (outcome : ℕ) (meas : Word) (h : Kept lb may s0 s) (hn : Low lb 0xa0 := by exact ‹Low _ _›.up rfl) (h_timers : may .timers := by assumption) (h_fab : may .fab := by assumption) (h_irq : may .irq := by assumption) (h_aout : may .aout := by assumption) (h_hp : may .hp := by assumption) (h_psc : may .psc := by assumption) (h_stew : may .stew := by assumption) (h_mbx : may .mbx := by assumption) :
    Kept lb may s0 (State.classify s e unit outcome meas) := by
  unfold State.classify
  repeat' (first
    | with_reducible assumption
    | exact ‹Low _ _›.of_le (by decide)
    | with_reducible apply showTests_kept
    | with_reducible apply flag_kept
    | with_reducible apply classified_kept
    | with_reducible apply errorDone_kept
)

theorem mapSpare_kept {lb : Nat} {may : Part → Prop} {s0 s : State} (row : ℕ) (h : Kept lb may s0 s) (hn : Low lb 0x10f004 := by exact ‹Low _ _›.up rfl) (h_fab : may .fab := by assumption) (h_stew : may .stew := by assumption) :
    Kept lb may s0 (State.mapSpare s row) := by
  unfold State.mapSpare
  repeat' (first
    | with_reducible assumption
    | exact ‹Low _ _›.up2 rfl
    | exact ‹Low _ _›.up1 rfl
    | exact ‹Low _ _›.of_le (by decide)
    | exact ‹Low _ _›.of_le (Nat.le_trans (by decide) (spareFld_low _))
    | (extract_lets +onlyGivenNames x; subst x)
    | with_reducible apply note_kept
    | with_reducible apply flagIf_kept
    | with_reducible apply set_kept
    | with_reducible apply setFab_kept
    | split
    | (fail_if_no_progress beta_reduce)
    | rfl)

theorem cisternDone_kept {lb : Nat} {may : Part → Prop} {s0 s : State} (e : StewErr) (bits : Word) (h : Kept lb may s0 s) (hn : Low lb 0xa0 := by exact ‹Low _ _›.up rfl) (h_timers : may .timers := by assumption) (h_fab : may .fab := by assumption) (h_irq : may .irq := by assumption) (h_aout : may .aout := by assumption) (h_hp : may .hp := by assumption) (h_psc : may .psc := by assumption) (h_stew : may .stew := by assumption) (h_mbx : may .mbx := by assumption) :
    Kept lb may s0 (State.cisternDone s e bits) := by
  unfold State.cisternDone
  repeat' (first
    | with_reducible assumption
    | exact ‹Low _ _›.of_le (by decide)
    | (extract_lets +onlyGivenNames x; subst x)
    | with_reducible apply classify_kept
    | with_reducible apply setFab_kept
    | with_reducible apply mapSpare_kept
    | with_reducible apply showTests_kept
    | with_reducible apply setStew_kept
    | intro v
    | split
    | (fail_if_no_progress beta_reduce)
    | rfl)

theorem retireNow_kept {lb : Nat} {may : Part → Prop} {s0 s : State} (b : ℕ) (h : Kept lb may s0 s) (hn : Low lb 0x70008 := by exact ‹Low _ _›.up rfl) (h_fab : may .fab := by assumption) (h_stew : may .stew := by assumption) :
    Kept lb may s0 (State.retireNow s b) := by
  unfold State.retireNow
  repeat' (first
    | with_reducible assumption
    | exact ‹Low _ _›.of_le (by decide)
    | with_reducible apply flag_kept
    | with_reducible apply note_kept
    | with_reducible apply retireBasin_kept
)

theorem basinDone_kept {lb : Nat} {may : Part → Prop} {s0 s : State} (e : StewErr) (map : Word) (h : Kept lb may s0 s) (hn : Low lb 0xa0 := by exact ‹Low _ _›.up rfl) (h_timers : may .timers := by assumption) (h_fab : may .fab := by assumption) (h_irq : may .irq := by assumption) (h_aout : may .aout := by assumption) (h_hp : may .hp := by assumption) (h_psc : may .psc := by assumption) (h_stew : may .stew := by assumption) (h_mbx : may .mbx := by assumption) :
    Kept lb may s0 (State.basinDone s e map) := by
  unfold State.basinDone
  repeat' (first
    | with_reducible assumption
    | exact ‹Low _ _›.of_le (by decide)
    | (extract_lets +onlyGivenNames x; clear_value x)
    | with_reducible apply classify_kept
    | with_reducible apply freeTested_kept
    | with_reducible apply setBasin_kept
    | with_reducible apply retireNow_kept
    | split)

theorem gaugeTest_kept {lb : Nat} {may : Part → Prop} {s0 s : State} (c : ℕ) (h : Kept lb may s0 s) (hn : Low lb 0x170004 := by exact ‹Low _ _›.up rfl) (h_timers : may .timers := by assumption) (h_psc : may .psc := by assumption) (h_gauge : may .gauge := by assumption) :
    Kept lb may s0 (State.gaugeTest s c) := by
  unfold State.gaugeTest
  repeat' (first
    | with_reducible assumption
    | exact ‹Low _ _›.of_le (by decide)
    | (extract_lets +onlyGivenNames x; subst x)
    | with_reducible apply gaugeCalibrate_kept
    | with_reducible apply setGconv_kept)

theorem gaugeTested_kept {lb : Nat} {may : Part → Prop} {s0 s : State} (c : ℕ) (flagged : Bool) (h : Kept lb may s0 s) (hn : Low lb 0x170004 := by exact ‹Low _ _›.up rfl) (h_timers : may .timers := by assumption) (h_psc : may .psc := by assumption) (h_gauge : may .gauge := by assumption) :
    Kept lb may s0 (State.gaugeTested s c flagged) := by
  unfold State.gaugeTested
  repeat' (first
    | with_reducible assumption
    | exact ‹Low _ _›.of_le (by decide)
    | (extract_lets +onlyGivenNames x; subst x)
    | with_reducible apply setGconv_kept
    | with_reducible apply gaugeShow_kept
    | with_reducible apply flagIf_kept)

theorem gaugeDone_kept {lb : Nat} {may : Part → Prop} {s0 s : State} (e : StewErr) (meas : Word) (differs : Bool) (h : Kept lb may s0 s) (hn : Low lb 0xa0 := by exact ‹Low _ _›.up rfl) (h_timers : may .timers := by assumption) (h_fab : may .fab := by assumption) (h_irq : may .irq := by assumption) (h_aout : may .aout := by assumption) (h_hp : may .hp := by assumption) (h_psc : may .psc := by assumption) (h_stew : may .stew := by assumption) (h_mbx : may .mbx := by assumption) (h_gauge : may .gauge := by assumption) :
    Kept lb may s0 (State.gaugeDone s e meas differs) := by
  unfold State.gaugeDone
  repeat' (first
    | with_reducible assumption
    | exact ‹Low _ _›.of_le (by decide)
    | (extract_lets +onlyGivenNames x; refine (have hx : Kept lb may s0 x := ?_; ?_); rotate_left; clear_value x; rotate_right; subst x)
    | (extract_lets +onlyGivenNames x; clear_value x)
    | with_reducible apply gaugeTested_kept
    | with_reducible apply classify_kept
    | with_reducible apply gaugeTest_kept
    | with_reducible apply putErr_kept
    | with_reducible apply remember_kept
    | with_reducible apply flag_kept
    | with_reducible apply setStew_kept
    | split)

theorem relockAttempt_kept {lb : Nat} {may : Part → Prop} {s0 s : State} (p : ℕ) (h : Kept lb may s0 s) (hn : Low lb 0x10114 := by exact ‹Low _ _›.up rfl) (h_clk : may .clk := by assumption) (h_stew : may .stew := by assumption) :
    Kept lb may s0 (State.relockAttempt s p) := by
  unfold State.relockAttempt
  repeat' (first
    | with_reducible assumption
    | exact ‹Low _ _›.of_le (by decide)
    | with_reducible apply pllStart_kept
    | with_reducible apply putErr_kept
    | split)

theorem pllDead_kept {lb : Nat} {may : Part → Prop} {s0 s : State} (p : ℕ) (h : Kept lb may s0 s) (hn : Low lb 0xa0 := by exact ‹Low _ _›.up rfl) (h_timers : may .timers := by assumption) (h_clk : may .clk := by assumption) (h_fab : may .fab := by assumption) (h_irq : may .irq := by assumption) (h_aout : may .aout := by assumption) (h_hp : may .hp := by assumption) (h_psc : may .psc := by assumption) (h_stew : may .stew := by assumption) (h_mbx : may .mbx := by assumption) :
    Kept lb may s0 (State.pllDead s p) := by
  unfold State.pllDead
  repeat' (first
    | with_reducible assumption
    | exact ‹Low _ _›.of_le (by decide)
    | (extract_lets +onlyGivenNames x; subst x)
    | with_reducible apply setPll_kept
    | with_reducible apply classify_kept
    | with_reducible apply pscLatch_kept
    | with_reducible apply Kept.foldl
    | with_reducible apply Kept.foldl_snd
    | with_reducible apply Kept.foldl_fst
    | intro v
    | split)

theorem pllTested_kept {lb : Nat} {may : Part → Prop} {s0 s : State} (e : StewErr) (h : Kept lb may s0 s) (hn : Low lb 0xa0 := by exact ‹Low _ _›.up rfl) (h_timers : may .timers := by assumption) (h_clk : may .clk := by assumption) (h_fab : may .fab := by assumption) (h_irq : may .irq := by assumption) (h_aout : may .aout := by assumption) (h_hp : may .hp := by assumption) (h_psc : may .psc := by assumption) (h_stew : may .stew := by assumption) (h_mbx : may .mbx := by assumption) :
    Kept lb may s0 (State.pllTested s e) := by
  unfold State.pllTested
  repeat' (first
    | with_reducible assumption
    | exact ‹Low _ _›.of_le (by decide)
    | with_reducible apply classify_kept
    | with_reducible apply pllDead_kept
    | split)

theorem stageTested_kept {lb : Nat} {may : Part → Prop} {s0 s : State} (e : StewErr) (h : Kept lb may s0 s) (hn : Low lb 0xa0 := by exact ‹Low _ _›.up rfl) (h_timers : may .timers := by assumption) (h_fab : may .fab := by assumption) (h_irq : may .irq := by assumption) (h_aout : may .aout := by assumption) (h_hp : may .hp := by assumption) (h_psc : may .psc := by assumption) (h_stew : may .stew := by assumption) (h_mbx : may .mbx := by assumption) :
    Kept lb may s0 (State.stageTested s e) := by
  unfold State.stageTested
  repeat' (first
    | with_reducible assumption
    | exact ‹Low _ _›.of_le (by decide)
    | (extract_lets +onlyGivenNames x; subst x)
    | with_reducible apply classify_kept
    | split)

theorem unitTested_kept {lb : Nat} {may : Part → Prop} {s0 s : State} (e : StewErr) (latched : Bool) (waits : Bool) (meas : Word) (h : Kept lb may s0 s) (hn : Low lb 0xa0 := by exact ‹Low _ _›.up rfl) (h_timers : may .timers := by assumption) (h_fab : may .fab := by assumption) (h_irq : may .irq := by assumption) (h_aout : may .aout := by assumption) (h_hp : may .hp := by assumption) (h_psc : may .psc := by assumption) (h_stew : may .stew := by assumption) (h_mbx : may .mbx := by assumption) :
    Kept lb may s0 (State.unitTested s e latched waits meas) := by
  unfold State.unitTested
  repeat' (first
    | with_reducible assumption
    | exact ‹Low _ _›.of_le (by decide)
    | with_reducible apply classify_kept
    | split)

theorem retestPassed_kept {lb : Nat} {may : Part → Prop} {s0 s : State} (e : StewErr) (h : Kept lb may s0 s) (hn : Low lb 0x10000 := by exact ‹Low _ _›.up rfl) (h_timers : may .timers := by assumption) (h_clk : may .clk := by assumption) (h_hp : may .hp := by assumption) (h_psc : may .psc := by assumption) (h_chain : may .chain := by assumption) :
    Kept lb may s0 (State.retestPassed s e) := by
  unfold State.retestPassed
  repeat' (first
    | with_reducible assumption
    | exact ‹Low _ _›.of_le (by decide)
    | with_reducible apply chainRestart_kept
    | with_reducible apply pscUnlatch_kept
    | with_reducible apply hpUnlatch_kept
    | split)

theorem retested_kept {lb : Nat} {may : Part → Prop} {s0 s : State} (e : StewErr) (pass : Bool) (meas : Word) (h : Kept lb may s0 s) (hn : Low lb 0xa0 := by exact ‹Low _ _›.up rfl) (h_timers : may .timers := by assumption) (h_clk : may .clk := by assumption) (h_fab : may .fab := by assumption) (h_irq : may .irq := by assumption) (h_aout : may .aout := by assumption) (h_hp : may .hp := by assumption) (h_psc : may .psc := by assumption) (h_stew : may .stew := by assumption) (h_mbx : may .mbx := by assumption) (h_chain : may .chain := by assumption) :
    Kept lb may s0 (State.retested s e pass meas) := by
  unfold State.retested
  repeat' (first
    | with_reducible assumption
    | exact ‹Low _ _›.of_le (by decide)
    | with_reducible apply retestPassed_kept
    | with_reducible apply classify_kept
    | split)

theorem testEnd_kept {lb : Nat} {may : Part → Prop} {s0 s : State} (cls : ℕ) (unit : ℕ) (pass : Bool) (meas : Word) (differs : Bool) (h : Kept lb may s0 s) (hn : Low lb 0xa0 := by exact ‹Low _ _›.up rfl) (h_timers : may .timers := by assumption) (h_clk : may .clk := by assumption) (h_fab : may .fab := by assumption) (h_irq : may .irq := by assumption) (h_aout : may .aout := by assumption) (h_hp : may .hp := by assumption) (h_psc : may .psc := by assumption) (h_stew : may .stew := by assumption) (h_mbx : may .mbx := by assumption) (h_chain : may .chain := by assumption) (h_gauge : may .gauge := by assumption) :
    Kept lb may s0 (State.testEnd s cls unit pass meas differs) := by
  unfold State.testEnd
  repeat' (first
    | with_reducible assumption
    | exact ‹Low _ _›.of_le (by decide)
    | with_reducible apply cisternDone_kept
    | with_reducible apply basinDone_kept
    | with_reducible apply gaugeDone_kept
    | with_reducible apply pllTested_kept
    | with_reducible apply retested_kept
    | with_reducible apply classify_kept
    | with_reducible apply unitTested_kept
    | with_reducible apply stageTested_kept
    | split)

theorem targetedTest_kept {lb : Nat} {may : Part → Prop} {s0 s : State} (cls : ℕ) (unit : ℕ) (first : ℕ) (h : Kept lb may s0 s) (hn : Low lb 0x70004 := by exact ‹Low _ _›.up rfl) (h_timers : may .timers := by assumption) (h_fab : may .fab := by assumption) (h_psc : may .psc := by assumption) (h_stew : may .stew := by assumption) (h_gauge : may .gauge := by assumption) :
    Kept lb may s0 (State.targetedTest s cls unit first) := by
  unfold State.targetedTest
  repeat' (first
    | with_reducible assumption
    | exact ‹Low _ _›.of_le (by decide)
    | (extract_lets +onlyGivenNames x; clear_value x)
    | with_reducible apply putErr_kept
    | with_reducible apply setBasin_kept
    | with_reducible apply gaugeTest_kept
    | split)

theorem retest_kept {lb : Nat} {may : Part → Prop} {s0 s : State} (cls : ℕ) (unit : ℕ) (h : Kept lb may s0 s) (hn : Low lb 0x70004 := by exact ‹Low _ _›.up rfl) (h_timers : may .timers := by assumption) (h_clk : may .clk := by assumption) (h_fab : may .fab := by assumption) (h_psc : may .psc := by assumption) (h_stew : may .stew := by assumption) (h_gauge : may .gauge := by assumption) :
    Kept lb may s0 (State.retest s cls unit) := by
  unfold State.retest
  repeat' (first
    | with_reducible assumption
    | exact ‹Low _ _›.of_le (by decide)
    | (extract_lets +onlyGivenNames x; subst x; beta_reduce)
    | with_reducible apply showTests_kept
    | with_reducible apply setStew_kept
    | with_reducible apply setBasin_kept
    | with_reducible apply gaugeTest_kept
    | with_reducible apply setPll_kept
    | intro v
    | split)

theorem stewCtl_kept {lb : Nat} {may : Part → Prop} {s0 s : State} (v : Word) (h : Kept lb may s0 s) (hn : Low lb 0x70000 := by exact ‹Low _ _›.up rfl) (h_timers : may .timers := by assumption) (h_clk : may .clk := by assumption) (h_fab : may .fab := by assumption) (h_psc : may .psc := by assumption) (h_stew : may .stew := by assumption) (h_gauge : may .gauge := by assumption) :
    Kept lb may s0 (State.stewCtl s v) := by
  unfold State.stewCtl
  repeat' (first
    | with_reducible assumption
    | exact ‹Low _ _›.of_le (by decide)
    | (extract_lets +onlyGivenNames x; refine (have hx : Kept lb may s0 x := ?_; ?_); rotate_left; clear_value x; rotate_right; subst x)
    | with_reducible apply set_kept
    | with_reducible apply skimDue_kept
    | with_reducible apply retest_kept
    | split)

theorem thermStandby_kept {lb : Nat} {may : Part → Prop} {s0 s : State} (h : Kept lb may s0 s) (h_pwr : may .pwr := by assumption) :
    Kept lb may s0 (State.thermStandby s) := by
  unfold State.thermStandby
  repeat' (first
    | with_reducible assumption
    | (extract_lets +onlyGivenNames x; subst x)
    | with_reducible apply setPwr_kept
    | split)

theorem temperature_kept {lb : Nat} {may : Part → Prop} {s0 s : State} (ts : List (BitVec 16)) (h : Kept lb may s0 s) (hn : Low lb 0xa0 := by exact ‹Low _ _›.up rfl) (h_timers : may .timers := by assumption) (h_fab : may .fab := by assumption) (h_irq : may .irq := by assumption) (h_aout : may .aout := by assumption) (h_hp : may .hp := by assumption) (h_psc : may .psc := by assumption) (h_stew : may .stew := by assumption) (h_mbx : may .mbx := by assumption) (h_pwr : may .pwr := by assumption) :
    Kept lb may s0 (State.temperature s ts) := by
  unfold State.temperature
  repeat' (first
    | with_reducible assumption
    | exact ‹Low _ _›.of_le (by decide)
    | (extract_lets +onlyGivenNames x; subst x; beta_reduce)
    | with_reducible apply set_kept
    | with_reducible apply setInt_kept
    | with_reducible apply setStew_kept
    | with_reducible apply flag_kept
    | with_reducible apply enterSafe_kept
    | with_reducible apply errorNow_kept
    | with_reducible apply thermStandby_kept
    | intro v
    | split)

theorem heartbeatMiss_kept {lb : Nat} {may : Part → Prop} {s0 s : State} (i : ℕ) (h : Kept lb may s0 s) (hn : Low lb 0xa0 := by exact ‹Low _ _›.up rfl) (h_timers : may .timers := by assumption) (h_fab : may .fab := by assumption) (h_irq : may .irq := by assumption) (h_aout : may .aout := by assumption) (h_hp : may .hp := by assumption) (h_psc : may .psc := by assumption) (h_stew : may .stew := by assumption) (h_mbx : may .mbx := by assumption) :
    Kept lb may s0 (State.heartbeatMiss s i) := by
  unfold State.heartbeatMiss
  repeat' (first
    | with_reducible assumption
    | exact ‹Low _ _›.of_le (by decide)
    | (extract_lets +onlyGivenNames x; clear_value x)
    | with_reducible apply remember_kept
    | with_reducible apply setBitAt_kept
    | with_reducible apply setStew_kept
    | with_reducible apply startTimer_kept
    | with_reducible apply flag_kept
    | with_reducible apply errorNow_kept
    | split)

theorem coreMs_kept {lb : Nat} {may : Part → Prop} {s0 s : State} (h : Kept lb may s0 s) (hn : Low lb 0x70004 := by exact ‹Low _ _›.up rfl) (h_timers : may .timers := by assumption) :
    Kept lb may s0 (State.coreMs s) := by
  unfold State.coreMs
  repeat' (first
    | with_reducible assumption
    | exact ‹Low _ _›.of_le (by decide)
    | with_reducible apply set_kept
    | with_reducible apply stopTimer_kept
    | split)

theorem sweep_kept {lb : Nat} {may : Part → Prop} {s0 s : State} (slack : List (BitVec 8)) (b : ℕ) (h : Kept lb may s0 s) (hn : Low lb 0x70080 := by exact ‹Low _ _›.up rfl) :
    Kept lb may s0 (State.sweep s slack b) := by
  unfold State.sweep
  repeat' (first
    | with_reducible assumption
    | exact ‹Low _ _›.up1 rfl
    | exact ‹Low _ _›.of_le (by decide)
    | (extract_lets +onlyGivenNames x; subst x; beta_reduce)
    | with_reducible apply set_kept
    | intro v
    | split)

theorem planVfab_kept {lb : Nat} {may : Part → Prop} {s0 s : State} (h : Kept lb may s0 s) (hn : Low lb 0x70024 := by exact ‹Low _ _›.up rfl) (h_stew : may .stew := by assumption) :
    Kept lb may s0 (State.planVfab s) := by
  unfold State.planVfab
  repeat' (first
    | with_reducible assumption
    | exact ‹Low _ _›.of_le (by decide)
    | (extract_lets +onlyGivenNames x; subst x)
    | with_reducible apply setStew_kept
    | with_reducible apply set_kept)

theorem stewStage_kept {lb : Nat} {may : Part → Prop} {s0 s : State} (f : Fld) (v : ℕ) (h : Kept lb may s0 s) (hn : Low lb 0x5c := by exact ‹Low _ _›.up rfl) (h_tick : may .tick := by assumption) :
    Kept lb may s0 (State.stewStage s f v) := by
  unfold State.stewStage
  repeat' (first
    | with_reducible assumption
    | exact ‹Low _ _›.of_le (by decide)
    | with_reducible apply enterStaging_kept
    | split)

theorem planDead_kept {lb : Nat} {may : Part → Prop} {s0 s : State} (f : Fld) (delay : ℕ) (h : Kept lb may s0 s) (hn : Low lb 0x5c := by exact ‹Low _ _›.up rfl) (h_tick : may .tick := by assumption) :
    Kept lb may s0 (State.planDead s f delay) := by
  unfold State.planDead
  repeat' (first
    | with_reducible assumption
    | exact ‹Low _ _›.of_le (by decide)
    | (extract_lets +onlyGivenNames x; subst x)
    | with_reducible apply stewStage_kept
    | split)

theorem planPsc_kept {lb : Nat} {may : Part → Prop} {s0 s : State} (k : ℕ) (a2 : PscFigures) (h : Kept lb may s0 s) (hn : Low lb 0x5c := by exact ‹Low _ _›.up rfl) (h_tick : may .tick := by assumption) (h_stew : may .stew := by assumption) :
    Kept lb may s0 (State.planPsc s k a2) := by
  unfold State.planPsc
  repeat' (first
    | with_reducible assumption
    | exact ‹Low _ _›.of_le (by decide)
    | (extract_lets +onlyGivenNames x; subst x)
    | with_reducible apply note_kept
    | with_reducible apply planDead_kept
    | with_reducible apply stewStage_kept
    | split)

theorem planGauge_kept {lb : Nat} {may : Part → Prop} {s0 s : State} (h : Kept lb may s0 s) (hn : Low lb 0x170004 := by exact ‹Low _ _›.up rfl) (h_timers : may .timers := by assumption) (h_psc : may .psc := by assumption) (h_stew : may .stew := by assumption) (h_gauge : may .gauge := by assumption) :
    Kept lb may s0 (State.planGauge s) := by
  unfold State.planGauge
  repeat' (first
    | with_reducible assumption
    | exact ‹Low _ _›.of_le (by decide)
    | (extract_lets +onlyGivenNames x; subst x)
    | with_reducible apply setStew_kept
    | with_reducible apply gaugeCalibrate_kept
    | split)

theorem planInputs_kept {lb : Nat} {may : Part → Prop} {s0 s : State} (h : Kept lb may s0 s) (hn : Low lb 0x70008 := by exact ‹Low _ _›.up rfl) :
    Kept lb may s0 (State.planInputs s) := by
  unfold State.planInputs
  repeat' (first
    | with_reducible assumption
    | exact ‹Low _ _›.up2 rfl
    | exact ‹Low _ _›.up1 rfl
    | exact ‹Low _ _›.of_le (by decide)
    | with_reducible apply flagIf_kept)

theorem recordMargin_kept {lb : Nat} {may : Part → Prop} {s0 s : State} (h : Kept lb may s0 s) (hn : Low lb 0x70008 := by exact ‹Low _ _›.up rfl) (h_stew : may .stew := by assumption) :
    Kept lb may s0 (State.recordMargin s) := by
  unfold State.recordMargin
  repeat' (first
    | with_reducible assumption
    | exact ‹Low _ _›.of_le (by decide)
    | (extract_lets +onlyGivenNames x; subst x)
    | with_reducible apply set_kept
    | with_reducible apply note_kept
    | with_reducible apply flagIf_kept)

theorem skimPass_kept {lb : Nat} {may : Part → Prop} {s0 s : State} (am : List (BitVec 16)) (slack : List (BitVec 8)) (figures : List (Option PscFigures)) (h : Kept lb may s0 s) (hn : Low lb 0x5c := by exact ‹Low _ _›.up rfl) (h_timers : may .timers := by assumption) (h_tick : may .tick := by assumption) (h_bus : may .bus := by assumption) (h_psc : may .psc := by assumption) (h_stew : may .stew := by assumption) (h_gauge : may .gauge := by assumption) (h_xing : may .xing := by assumption) :
    Kept lb may s0 (State.skimPass s am slack figures) := by
  unfold State.skimPass
  repeat' (first
    | with_reducible assumption
    | exact ‹Low _ _›.up1 rfl
    | exact ‹Low _ _›.of_le (by decide)
    | (extract_lets +onlyGivenNames x; refine (have hx : Kept lb may s0 x := ?_; ?_); rotate_left; clear_value x; rotate_right; subst x)
    | (extract_lets +onlyGivenNames x; clear_value x)
    | with_reducible apply set_kept
    | with_reducible apply sweep_kept
    | with_reducible apply planVfab_kept
    | with_reducible apply recordMargin_kept
    | with_reducible apply planPsc_kept
    | with_reducible apply planInputs_kept
    | with_reducible apply planGauge_kept
    | with_reducible apply flag_kept
    | with_reducible apply skimStop_kept
    | with_reducible apply setStew_kept
    | with_reducible refine Kept.foldl _ _ _ ?_ fun _ _ _ => ?_
    | with_reducible refine Kept.foldl_snd _ _ _ ?_ fun _ _ _ => ?_
    | with_reducible refine Kept.foldl_fst _ _ _ ?_ fun _ _ _ => ?_
    | intro v
    | split)

theorem watchMargin_kept {lb : Nat} {may : Part → Prop} {s0 s : State} (h : Kept lb may s0 s) (h_timers : may .timers := by assumption) :
    Kept lb may s0 (State.watchMargin s) := by
  unfold State.watchMargin
  repeat' (first
    | with_reducible assumption
    | with_reducible apply startTimer_kept
    | with_reducible apply stopTimer_kept
    | split)

theorem marginCommit_kept {lb : Nat} {may : Part → Prop} {s0 s : State} (cyc : ℕ) (h : Kept lb may s0 s) (hn : Low lb 0x5c := by exact ‹Low _ _›.up rfl) (h_timers : may .timers := by assumption) (h_tick : may .tick := by assumption) :
    Kept lb may s0 (State.marginCommit s cyc) := by
  unfold State.marginCommit
  repeat' (first
    | with_reducible assumption
    | exact ‹Low _ _›.of_le (by decide)
    | with_reducible apply commitGo_kept
    | with_reducible apply stopTimer_kept
    | split)

theorem vfabMs_kept {lb : Nat} {may : Part → Prop} {s0 s : State} (h : Kept lb may s0 s) (hn : Low lb 0x70008 := by exact ‹Low _ _›.up rfl) (h_timers : may .timers := by assumption) (h_stew : may .stew := by assumption) :
    Kept lb may s0 (State.vfabMs s) := by
  unfold State.vfabMs
  repeat' (first
    | with_reducible assumption
    | exact ‹Low _ _›.of_le (by decide)
    | (extract_lets +onlyGivenNames x; refine (have hx : Kept lb may s0 x := ?_; ?_); rotate_left; clear_value x; rotate_right; subst x)
    | (extract_lets +onlyGivenNames x; clear_value x)
    | with_reducible apply set_kept
    | with_reducible apply stopTimer_kept
    | with_reducible apply setStew_kept
    | with_reducible apply note_kept
    | with_reducible apply flag_kept
    | split)

theorem vfabWrite_kept {lb : Nat} {may : Part → Prop} {s0 s : State} (vout : Option (BitVec 8)) (status : BitVec 16) (mv : ℕ) (h : Kept lb may s0 s) (hn : Low lb 0xa0 := by exact ‹Low _ _›.up rfl) (h_timers : may .timers := by assumption) (h_fab : may .fab := by assumption) (h_irq : may .irq := by assumption) (h_aout : may .aout := by assumption) (h_hp : may .hp := by assumption) (h_psc : may .psc := by assumption) (h_stew : may .stew := by assumption) (h_mbx : may .mbx := by assumption) :
    Kept lb may s0 (State.vfabWrite s vout status mv) := by
  unfold State.vfabWrite
  repeat' (first
    | with_reducible assumption
    | exact ‹Low _ _›.of_le (by decide)
    | (extract_lets +onlyGivenNames x; refine (have hx : Kept lb may s0 x := ?_; ?_); rotate_left; clear_value x; rotate_right; subst x)
    | (extract_lets +onlyGivenNames x; clear_value x)
    | with_reducible apply setStew_kept
    | with_reducible apply set_kept
    | with_reducible apply startTimer_kept
    | with_reducible apply flag_kept
    | with_reducible apply errorNow_kept
    | with_reducible apply stopTimer_kept
    | split)

theorem execTargetedTest_kept {lb : Nat} {may : Part → Prop} {s0 s : State} (cls : Fin 16) (unit : BitVec 8) (first : Fin 2) (h : Kept lb may s0 s) (hn : Low lb 0x70004 := by exact ‹Low _ _›.up rfl) (h_timers : may .timers := by assumption) (h_fab : may .fab := by assumption) (h_psc : may .psc := by assumption) (h_stew : may .stew := by assumption) (h_gauge : may .gauge := by assumption) :
    ∃ out, execTargetedTest cls unit first s = .next out ∧ Kept lb may s0 out := by
  refine ⟨_, rfl, ?_⟩
  repeat' (first
    | with_reducible assumption
    | with_reducible intro v
    | exact ‹Low _ _›.of_le (by decide)
    | with_reducible apply targetedTest_kept
    | split)

theorem execTestClassification_kept {lb : Nat} {may : Part → Prop} {s0 s : State} (cls : Fin 16) (unit : BitVec 8) (pass : Bool) (meas : Word) (differs : Bool) (h : Kept lb may s0 s) (hn : Low lb 0xa0 := by exact ‹Low _ _›.up rfl) (h_timers : may .timers := by assumption) (h_clk : may .clk := by assumption) (h_fab : may .fab := by assumption) (h_irq : may .irq := by assumption) (h_aout : may .aout := by assumption) (h_hp : may .hp := by assumption) (h_psc : may .psc := by assumption) (h_stew : may .stew := by assumption) (h_mbx : may .mbx := by assumption) (h_chain : may .chain := by assumption) (h_gauge : may .gauge := by assumption) :
    ∃ out, execTestClassification cls unit pass meas differs s = .next out ∧ Kept lb may s0 out := by
  refine ⟨_, rfl, ?_⟩
  repeat' (first
    | with_reducible assumption
    | with_reducible intro v
    | exact ‹Low _ _›.of_le (by decide)
    | with_reducible apply testEnd_kept
    | split)

theorem execRelockAttempt_kept {lb : Nat} {may : Part → Prop} {s0 s : State} (p : Fin 4) (h : Kept lb may s0 s) (hn : Low lb 0x10114 := by exact ‹Low _ _›.up rfl) (h_clk : may .clk := by assumption) (h_stew : may .stew := by assumption) :
    ∃ out, execRelockAttempt p s = .next out ∧ Kept lb may s0 out := by
  refine ⟨_, rfl, ?_⟩
  repeat' (first
    | with_reducible assumption
    | with_reducible intro v
    | exact ‹Low _ _›.of_le (by decide)
    | with_reducible apply relockAttempt_kept
)

theorem execDieTemperatureSample_kept {lb : Nat} {may : Part → Prop} {s0 s : State} (ts : List (BitVec 16)) (h : Kept lb may s0 s) (hn : Low lb 0xa0 := by exact ‹Low _ _›.up rfl) (h_timers : may .timers := by assumption) (h_fab : may .fab := by assumption) (h_irq : may .irq := by assumption) (h_aout : may .aout := by assumption) (h_hp : may .hp := by assumption) (h_psc : may .psc := by assumption) (h_stew : may .stew := by assumption) (h_mbx : may .mbx := by assumption) (h_pwr : may .pwr := by assumption) :
    ∃ out, execDieTemperatureSample ts s = .next out ∧ Kept lb may s0 out := by
  refine ⟨_, rfl, ?_⟩
  repeat' (first
    | with_reducible assumption
    | with_reducible intro v
    | exact ‹Low _ _›.of_le (by decide)
    | with_reducible apply temperature_kept
    | split)

theorem execHeartbeatMiss_kept {lb : Nat} {may : Part → Prop} {s0 s : State} (core : Fin 2) (h : Kept lb may s0 s) (hn : Low lb 0xa0 := by exact ‹Low _ _›.up rfl) (h_timers : may .timers := by assumption) (h_fab : may .fab := by assumption) (h_irq : may .irq := by assumption) (h_aout : may .aout := by assumption) (h_hp : may .hp := by assumption) (h_psc : may .psc := by assumption) (h_stew : may .stew := by assumption) (h_mbx : may .mbx := by assumption) :
    ∃ out, execHeartbeatMiss core s = .next out ∧ Kept lb may s0 out := by
  refine ⟨_, rfl, ?_⟩
  repeat' (first
    | with_reducible assumption
    | with_reducible intro v
    | exact ‹Low _ _›.of_le (by decide)
    | with_reducible apply heartbeatMiss_kept
    | split)

theorem execHoursTimer_kept {lb : Nat} {may : Part → Prop} {s0 s : State} (h : Kept lb may s0 s) (h_stew : may .stew := by assumption) :
    ∃ out, execHoursTimer s = .next out ∧ Kept lb may s0 out := by
  refine ⟨_, rfl, ?_⟩
  repeat' (first
    | with_reducible assumption
    | with_reducible intro v
    | (extract_lets +onlyGivenNames x; subst x)
    | with_reducible apply note_kept
    | with_reducible apply setStew_kept
    | split)

theorem execSkimPass_kept {lb : Nat} {may : Part → Prop} {s0 s : State} (am : List (BitVec 16)) (slack : List (BitVec 8)) (figures : List (Option (List (BitVec 16) × BitVec 16 × BitVec 16))) (h : Kept lb may s0 s) (hn : Low lb 0x5c := by exact ‹Low _ _›.up rfl) (h_timers : may .timers := by assumption) (h_tick : may .tick := by assumption) (h_bus : may .bus := by assumption) (h_psc : may .psc := by assumption) (h_stew : may .stew := by assumption) (h_gauge : may .gauge := by assumption) (h_xing : may .xing := by assumption) :
    ∃ out, execSkimPass am slack figures s = .next out ∧ Kept lb may s0 out := by
  refine ⟨_, rfl, ?_⟩
  repeat' (first
    | with_reducible assumption
    | with_reducible intro v
    | exact ‹Low _ _›.of_le (by decide)
    | with_reducible apply skimPass_kept
    | split)

theorem execSkim_kept {lb : Nat} {may : Part → Prop} {s0 s : State} (h : Kept lb may s0 s) (hn : Low lb 0x70000 := by exact ‹Low _ _›.up rfl) (h_timers : may .timers := by assumption) (h_clk : may .clk := by assumption) (h_fab : may .fab := by assumption) (h_bus : may .bus := by assumption) (h_psc : may .psc := by assumption) (h_stew : may .stew := by assumption) (h_gauge : may .gauge := by assumption) :
    ∃ out, execSkim s = .next out ∧ Kept lb may s0 out := by
  refine ⟨_, rfl, ?_⟩
  repeat' (first
    | with_reducible assumption
    | with_reducible intro v
    | exact ‹Low _ _›.of_le (by decide)
    | with_reducible apply byRow_kept
    | with_reducible apply onBus_kept
    | with_reducible apply stewCtl_kept
)

theorem execRetest_kept {lb : Nat} {may : Part → Prop} {s0 s : State} (cls : Fin 16) (unit : BitVec 8) (h : Kept lb may s0 s) (hn : Low lb 0x70000 := by exact ‹Low _ _›.up rfl) (h_timers : may .timers := by assumption) (h_clk : may .clk := by assumption) (h_fab : may .fab := by assumption) (h_bus : may .bus := by assumption) (h_psc : may .psc := by assumption) (h_stew : may .stew := by assumption) (h_gauge : may .gauge := by assumption) :
    ∃ out, execRetest cls unit s = .next out ∧ Kept lb may s0 out := by
  refine ⟨_, rfl, ?_⟩
  repeat' (first
    | with_reducible assumption
    | with_reducible intro v
    | exact ‹Low _ _›.of_le (by decide)
    | with_reducible apply byRow_kept
    | with_reducible apply onBus_kept
    | with_reducible apply stewCtl_kept
)

theorem execMarginCommit_kept {lb : Nat} {may : Part → Prop} {s0 s : State} (cyc : ℕ) (h : Kept lb may s0 s) (hn : Low lb 0x5c := by exact ‹Low _ _›.up rfl) (h_timers : may .timers := by assumption) (h_tick : may .tick := by assumption) :
    ∃ out, execMarginCommit cyc s = .next out ∧ Kept lb may s0 out := by
  refine ⟨_, rfl, ?_⟩
  repeat' (first
    | with_reducible assumption
    | with_reducible intro v
    | exact ‹Low _ _›.of_le (by decide)
    | with_reducible apply marginCommit_kept
)

end Sys2Proof.Laws
end

