-- ==== Sys2Proof/Laws/KeptTwc.lean ====
section
/-! SUPPORT. Each operation of Machine/Twc.lean keeps the queue, the time and the invariant. -/

set_option Elab.async false

namespace Sys2Proof.Laws

open Sys2Proof.Machine

theorem setHost_kept {lb : Nat} {may : Part → Prop} {s0 s : State} (x : HostSt) (h : Kept lb may s0 s) (hp : x.posted = s.host.posted) (ht : x.mbxTx = s.host.mbxTx)
    (h_host : may .host := by assumption) : Kept lb may s0 (State.setHost s x) := h.with_host x hp ht

/-- The host port's state replaced by one within the bounds of R340 and R344. -/
theorem setHost_kept_of_le {lb : Nat} {may : Part → Prop} {s0 s : State} (x : HostSt) (h : Kept lb may s0 s) (hp : x.posted.length ≤ 64 ∨ x.posted.length ≤ s.host.posted.length)
    (ht : x.mbxTx.length ≤ 4096 ∨ x.mbxTx.length ≤ s.host.mbxTx.length) (h_host : may .host := by assumption) : Kept lb may s0 (State.setHost s x) :=
  h.with_host_le x hp ht

theorem twcRecord_kept {lb : Nat} {may : Part → Prop} {s0 s : State} (err : ℕ) (byte : ℕ) (bit : ℕ) (addr : ℕ) (h : Kept lb may s0 s) (hn : Low lb 0x50084 := by exact ‹Low _ _›.up rfl) :
    Kept lb may s0 (State.twcRecord s err byte bit addr) := by
  unfold State.twcRecord
  repeat' (first
    | with_reducible assumption
    | exact ‹Low _ _›.of_le (by decide)
    | with_reducible apply setWord_kept
)

theorem twcFail_kept {lb : Nat} {may : Part → Prop} {s0 s : State} (w : TwcWho) (h : Kept lb may s0 s) (hn : Low lb 0xa0 := by exact ‹Low _ _›.up rfl) (h_timers : may .timers := by assumption) (h_fab : may .fab := by assumption) (h_irq : may .irq := by assumption) (h_aout : may .aout := by assumption) (h_hp : may .hp := by assumption) (h_psc : may .psc := by assumption) (h_stew : may .stew := by assumption) (h_mbx : may .mbx := by assumption) (h_host : may .host := by assumption) :
    Kept lb may s0 (State.twcFail s w) := by
  unfold State.twcFail
  repeat' (first
    | with_reducible assumption
    | exact ‹Low _ _›.of_le (by decide)
    | (extract_lets +onlyGivenNames x; subst x)
    | with_reducible apply pulse_kept
    | with_reducible apply count_kept
    | with_reducible apply setHost_kept
    | with_reducible apply complete_kept
    | with_reducible apply setMbx_kept
    | with_reducible apply vfabWrite_kept
    | split
    | (fail_if_no_progress beta_reduce)
    | rfl)

theorem twcDone_kept {lb : Nat} {may : Part → Prop} {s0 s : State} (w : TwcWho) (data : List Byte) (h : Kept lb may s0 s) (hn : Low lb 0xa4 := by exact ‹Low _ _›.up rfl) (h_irq : may .irq := by assumption) (h_mbx : may .mbx := by assumption) (h_host : may .host := by assumption) :
    Kept lb may s0 (State.twcDone s w data) := by
  unfold State.twcDone
  repeat' (first
    | with_reducible assumption
    | exact ‹Low _ _›.of_le (by decide)
    | (extract_lets +onlyGivenNames x; subst x)
    | with_reducible apply setHost_kept
    | with_reducible apply complete_kept
    | with_reducible apply setMbx_kept
    | split
    | (fail_if_no_progress beta_reduce)
    | rfl)

theorem twcTry_kept {lb : Nat} {may : Part → Prop} {s0 s : State} (w : TwcWho) (n : ℕ) (fin : TwcEnd) (h : Kept lb may s0 s) (hn : Low lb 0xa0 := by exact ‹Low _ _›.up rfl) (h_timers : may .timers := by assumption) (h_fab : may .fab := by assumption) (h_irq : may .irq := by assumption) (h_aout : may .aout := by assumption) (h_hp : may .hp := by assumption) (h_psc : may .psc := by assumption) (h_stew : may .stew := by assumption) (h_mbx : may .mbx := by assumption) (h_host : may .host := by assumption) :
    Kept lb may s0 (State.twcTry s w n fin) := by
  unfold State.twcTry
  repeat' (first
    | with_reducible assumption
    | exact ‹Low _ _›.of_le (by decide)
    | (extract_lets +onlyGivenNames x; subst x)
    | with_reducible apply twcDone_kept
    | with_reducible apply twcRecord_kept
    | with_reducible apply count_kept
    | with_reducible apply startTimer_kept
    | with_reducible apply setHost_kept
    | with_reducible apply twcFail_kept
    | split
    | (fail_if_no_progress beta_reduce)
    | rfl)

theorem twcTransfer_kept {lb : Nat} {may : Part → Prop} {s0 s : State} (fin : TwcEnd) (h : Kept lb may s0 s) (hn : Low lb 0xa0 := by exact ‹Low _ _›.up rfl) (h_timers : may .timers := by assumption) (h_fab : may .fab := by assumption) (h_irq : may .irq := by assumption) (h_aout : may .aout := by assumption) (h_hp : may .hp := by assumption) (h_psc : may .psc := by assumption) (h_stew : may .stew := by assumption) (h_mbx : may .mbx := by assumption) (h_host : may .host := by assumption) :
    Kept lb may s0 (State.twcTransfer s fin) := by
  unfold State.twcTransfer
  repeat' (first
    | with_reducible assumption
    | exact ‹Low _ _›.of_le (by decide)
    | (extract_lets +onlyGivenNames x; subst x)
    | with_reducible apply twcTry_kept
    | with_reducible apply setHost_kept
    | split
    | (fail_if_no_progress beta_reduce)
    | rfl)

theorem twcRetry_kept {lb : Nat} {may : Part → Prop} {s0 s : State} (fin : TwcEnd) (h : Kept lb may s0 s) (hn : Low lb 0xa0 := by exact ‹Low _ _›.up rfl) (h_timers : may .timers := by assumption) (h_fab : may .fab := by assumption) (h_irq : may .irq := by assumption) (h_aout : may .aout := by assumption) (h_hp : may .hp := by assumption) (h_psc : may .psc := by assumption) (h_stew : may .stew := by assumption) (h_mbx : may .mbx := by assumption) (h_host : may .host := by assumption) :
    Kept lb may s0 (State.twcRetry s fin) := by
  unfold State.twcRetry
  repeat' (first
    | with_reducible assumption
    | exact ‹Low _ _›.of_le (by decide)
    | with_reducible apply twcTry_kept
    | with_reducible apply stopTimer_kept
    | split)

theorem twcStretched_kept {lb : Nat} {may : Part → Prop} {s0 s : State} (byte : ℕ) (h : Kept lb may s0 s) (hn : Low lb 0xa0 := by exact ‹Low _ _›.up rfl) (h_timers : may .timers := by assumption) (h_fab : may .fab := by assumption) (h_irq : may .irq := by assumption) (h_aout : may .aout := by assumption) (h_hp : may .hp := by assumption) (h_psc : may .psc := by assumption) (h_stew : may .stew := by assumption) (h_mbx : may .mbx := by assumption) (h_host : may .host := by assumption) :
    Kept lb may s0 (State.twcStretched s byte) := by
  unfold State.twcStretched
  repeat' (first
    | with_reducible assumption
    | exact ‹Low _ _›.of_le (by decide)
    | (extract_lets +onlyGivenNames x; subst x)
    | with_reducible apply twcFail_kept
    | with_reducible apply twcRecord_kept
    | with_reducible apply stopTimer_kept
    | with_reducible apply setHost_kept
    | split
    | (fail_if_no_progress beta_reduce)
    | rfl)

theorem twcStuck_kept {lb : Nat} {may : Part → Prop} {s0 s : State} (h : Kept lb may s0 s) (hn : Low lb 0x50084 := by exact ‹Low _ _›.up rfl) :
    Kept lb may s0 (State.twcStuck s) := by
  unfold State.twcStuck
  repeat' (first
    | with_reducible assumption
    | exact ‹Low _ _›.of_le (by decide)
    | with_reducible apply set_kept
)

theorem execTwcTransfer_kept {lb : Nat} {may : Part → Prop} {s0 s : State} (fin : TwcEnd) (h : Kept lb may s0 s) (hn : Low lb 0xa0 := by exact ‹Low _ _›.up rfl) (h_timers : may .timers := by assumption) (h_fab : may .fab := by assumption) (h_irq : may .irq := by assumption) (h_aout : may .aout := by assumption) (h_hp : may .hp := by assumption) (h_psc : may .psc := by assumption) (h_stew : may .stew := by assumption) (h_mbx : may .mbx := by assumption) (h_host : may .host := by assumption) :
    ∃ out, execTwcTransfer fin s = .next out ∧ Kept lb may s0 out := by
  refine ⟨_, rfl, ?_⟩
  repeat' (first
    | with_reducible assumption
    | with_reducible intro v
    | exact ‹Low _ _›.of_le (by decide)
    | with_reducible apply twcTransfer_kept
    | split)

theorem execTwcRetry_kept {lb : Nat} {may : Part → Prop} {s0 s : State} (fin : TwcEnd) (h : Kept lb may s0 s) (hn : Low lb 0xa0 := by exact ‹Low _ _›.up rfl) (h_timers : may .timers := by assumption) (h_fab : may .fab := by assumption) (h_irq : may .irq := by assumption) (h_aout : may .aout := by assumption) (h_hp : may .hp := by assumption) (h_psc : may .psc := by assumption) (h_stew : may .stew := by assumption) (h_mbx : may .mbx := by assumption) (h_host : may .host := by assumption) :
    ∃ out, execTwcRetry fin s = .next out ∧ Kept lb may s0 out := by
  refine ⟨_, rfl, ?_⟩
  repeat' (first
    | with_reducible assumption
    | with_reducible intro v
    | exact ‹Low _ _›.of_le (by decide)
    | with_reducible apply twcRetry_kept
    | split)

theorem execStretchTo_kept {lb : Nat} {may : Part → Prop} {s0 s : State} (seen : StretchSeen) (h : Kept lb may s0 s) (hn : Low lb 0xa0 := by exact ‹Low _ _›.up rfl) (h_timers : may .timers := by assumption) (h_fab : may .fab := by assumption) (h_irq : may .irq := by assumption) (h_aout : may .aout := by assumption) (h_hp : may .hp := by assumption) (h_psc : may .psc := by assumption) (h_stew : may .stew := by assumption) (h_mbx : may .mbx := by assumption) (h_host : may .host := by assumption) :
    ∃ out, execStretchTo seen s = .next out ∧ Kept lb may s0 out := by
  refine ⟨_, rfl, ?_⟩
  repeat' (first
    | with_reducible assumption
    | with_reducible intro v
    | exact ‹Low _ _›.of_le (by decide)
    | with_reducible apply twcStretched_kept
    | split)

theorem execBusStuck_kept {lb : Nat} {may : Part → Prop} {s0 s : State} (h : Kept lb may s0 s) (hn : Low lb 0x50084 := by exact ‹Low _ _›.up rfl) :
    ∃ out, execBusStuck s = .next out ∧ Kept lb may s0 out := by
  refine ⟨_, rfl, ?_⟩
  repeat' (first
    | with_reducible assumption
    | with_reducible intro v
    | exact ‹Low _ _›.of_le (by decide)
    | with_reducible apply twcStuck_kept
    | split)

theorem execVddFabWrite_kept {lb : Nat} {may : Part → Prop} {s0 s : State} (vout : Option (BitVec 8)) (status : BitVec 16) (mv : BitVec 10) (h : Kept lb may s0 s) (hn : Low lb 0xa0 := by exact ‹Low _ _›.up rfl) (h_timers : may .timers := by assumption) (h_fab : may .fab := by assumption) (h_irq : may .irq := by assumption) (h_aout : may .aout := by assumption) (h_hp : may .hp := by assumption) (h_psc : may .psc := by assumption) (h_stew : may .stew := by assumption) (h_mbx : may .mbx := by assumption) (h_host : may .host := by assumption) :
    ∃ out, execVddFabWrite vout status mv s = .next out ∧ Kept lb may s0 out := by
  refine ⟨_, rfl, ?_⟩
  repeat' (first
    | with_reducible assumption
    | with_reducible intro v
    | exact ‹Low _ _›.of_le (by decide)
    | with_reducible apply twcFail_kept
    | with_reducible apply twcRecord_kept
    | with_reducible apply vfabWrite_kept
    | split)

theorem execCabEepromRead_kept {lb : Nat} {may : Part → Prop} {s0 s : State} (rec : Option (List Byte)) (h : Kept lb may s0 s) (hn : Low lb 0xa0 := by exact ‹Low _ _›.up rfl) (h_timers : may .timers := by assumption) (h_fab : may .fab := by assumption) (h_irq : may .irq := by assumption) (h_aout : may .aout := by assumption) (h_hp : may .hp := by assumption) (h_psc : may .psc := by assumption) (h_stew : may .stew := by assumption) (h_mbx : may .mbx := by assumption) :
    ∃ out, execCabEepromRead rec s = .next out ∧ Kept lb may s0 out := by
  refine ⟨_, rfl, ?_⟩
  repeat' (first
    | with_reducible assumption
    | with_reducible intro v
    | exact ‹Low _ _›.of_le (by decide)
    | (extract_lets +onlyGivenNames x; subst x)
    | with_reducible apply cabRead_kept
    | with_reducible apply pulse_kept
    | with_reducible apply count_kept
    | with_reducible apply twcRecord_kept
    | with_reducible apply errorNow_kept
    | split)

end Sys2Proof.Laws
end

