-- ==== Sys2Proof/Laws/KeptBus.lean ====
section
/-! SUPPORT. Each operation of Machine/Bus.lean keeps the queue, the time and the invariant. -/

set_option Elab.async false

namespace Sys2Proof.Laws

open Sys2Proof.Machine

theorem KeptOpt.ite {lb : Nat} {may : Part → Prop} {s0 : State} {c : Prop} [Decidable c] {a b : Option State} (ha : KeptOpt lb may s0 a) (hb : KeptOpt lb may s0 b) :
    KeptOpt lb may s0 (if c then a else b) := by split <;> assumption

/-- A read that is its own operation keeps. -/
def KeptRead (lb : Nat) (may : Part → Prop) (s0 : State) (o : Option (Word × State)) : Prop := ∀ x, o = some x → Kept lb may s0 x.2

theorem KeptRead.some {lb : Nat} {may : Part → Prop} {s0 : State} {x : Word × State} (h : Kept lb may s0 x.2) : KeptRead lb may s0 (.some x) := fun _ e => Option.some.inj e ▸ h
theorem KeptRead.ite {lb : Nat} {may : Part → Prop} {s0 : State} {c : Prop} [Decidable c] {a b : Option (Word × State)} (ha : KeptRead lb may s0 a) (hb : KeptRead lb may s0 b) :
    KeptRead lb may s0 (if c then a else b) := by split <;> assumption

theorem mbxDiscard_kept {lb : Nat} {may : Part → Prop} {s0 s : State} (h : Kept lb may s0 s) (hn : Low lb 0x5001c := by exact ‹Low _ _›.up rfl) (h_host : may .host := by assumption) :
    Kept lb may s0 (State.mbxDiscard s) := by
  unfold State.mbxDiscard
  repeat' (first
    | with_reducible assumption
    | exact ‹Low _ _›.of_le (by decide)
    | (extract_lets +onlyGivenNames x; subst x)
    | with_reducible apply set_kept
    | with_reducible apply setHost_kept
    | (fail_if_no_progress beta_reduce)
    | rfl)

theorem mbxGo_kept {lb : Nat} {may : Part → Prop} {s0 s : State} (len cyc : ℕ) (h : Kept lb may s0 s) (hn : Low lb 0x5001c := by exact ‹Low _ _›.up rfl) (h_mbx : may .mbx := by assumption) (h_host : may .host := by assumption) : Kept lb may s0 (State.mbxGo s len cyc) := by
  unfold State.mbxGo
  split
  · exact flag_kept _ h
  · exact set_kept _ _ (setHost_kept_of_le _ (setMbx_kept _ (mbxDiscard_kept h)) (.inr le_rfl) (.inl (Nat.zero_le _)))


theorem mbxCtl_kept {lb : Nat} {may : Part → Prop} {s0 s : State} (v : Word) (cyc : ℕ) (h : Kept lb may s0 s) (hn : Low lb 0x5001c := by exact ‹Low _ _›.up rfl) (h_mbx : may .mbx := by assumption) (h_host : may .host := by assumption) :
    Kept lb may s0 (State.mbxCtl s v cyc) := by
  unfold State.mbxCtl
  repeat' (first
    | with_reducible assumption
    | exact ‹Low _ _›.of_le (by decide)
    | (extract_lets +onlyGivenNames x; subst x)
    | with_reducible apply mbxDiscard_kept
    | with_reducible apply mbxGo_kept
    | split)

theorem mbxRead_kept {lb : Nat} {may : Part → Prop} {s0 s : State} (h : Kept lb may s0 s) (h_host : may .host := by assumption) :
    Kept lb may s0 (State.mbxRead s).2 := by
  unfold State.mbxRead
  repeat' (first
    | with_reducible assumption
    | (extract_lets +onlyGivenNames x; subst x)
    | with_reducible apply setHost_kept
    | (fail_if_no_progress beta_reduce)
    | rfl)

theorem twtCfgWrite_kept {lb : Nat} {may : Part → Prop} {s0 s : State} (r : RegRow) (v : Word) (h : Kept lb may s0 s) (hn : Low lb 0x50040 := by exact ‹Low _ _›.up rfl) :
    Kept lb may s0 (State.twtCfgWrite s r v) := by
  unfold State.twtCfgWrite
  repeat' (first
    | with_reducible assumption
    | exact ‹Low _ _›.up2 rfl
    | exact ‹Low _ _›.up1 rfl
    | exact ‹Low _ _›.of_le (by decide)
    | (extract_lets +onlyGivenNames x; subst x)
    | with_reducible apply flag_kept
    | with_reducible apply setWord_kept
    | split)

theorem ownWrite_kept {lb : Nat} {may : Part → Prop} {s0 s : State} (r : RegRow) (a : ℕ) (v : Word) (cyc : ℕ) (h : Kept lb may s0 s) (hn : Low lb 0x0 := by exact ‹Low _ _›.up rfl) (h_timers : may .timers := by assumption) (h_tick : may .tick := by assumption) (h_clk : may .clk := by assumption) (h_fab : may .fab := by assumption) (h_bus : may .bus := by assumption) (h_irq : may .irq := by assumption) (h_ain : may .ain := by assumption) (h_phantom : may .phantom := by assumption) (h_aout : may .aout := by assumption) (h_hp : may .hp := by assumption) (h_psc : may .psc := by assumption) (h_asrc : may .asrc := by assumption) (h_sap : may .sap := by assumption) (h_stew : may .stew := by assumption) (h_mbx : may .mbx := by assumption) (h_host : may .host := by assumption) (h_chain : may .chain := by assumption) (h_lsn : may .lsn := by assumption) (h_gauge : may .gauge := by assumption) (h_sec : may .sec := by assumption) (h_pwr : may .pwr := by assumption) (h_xing : may .xing := by assumption) :
    KeptOpt lb may s0 (State.ownWrite s r a v cyc) := by
  unfold State.ownWrite
  refine .ite (.some (commitWrite_kept _ _ h)) (.ite (.some (armWrite_kept _ _ h)) (.ite (.some (pllUpdWrite_kept _ h))
    (.ite (.some (cisWrite_kept _ h)) (.ite (.some (preCtl_kept _ h))
    (.ite (.some (setHost_kept_of_le _ h (.inr le_rfl) (.inl (List.length_take_le _ _)))) (.ite (.some (mbxCtl_kept _ _ h))
    (.ite (.some (twtCfgWrite_kept _ _ h)) (.ite (.some (flag_kept _ h)) (.ite (.some (pulse_kept _ _ h))
    (.ite (.some (stewCtl_kept _ h)) (.ite (.some (pwrmCtl_kept _ h)) (.ite (.some (pwrmRst_kept _ h))
    (.ite (.some (secCtl_kept _ h)) (.ite (.some (fprogWrite_kept _ h)) ?_))))))))))))))
  generalize hit (Reg.SEC_FDATA.word) 8 a = o1
  generalize hit Reg.IC_COMPLETE.word 4 a = o2
  generalize hit Reg.GAUGE_BUF_RD.word 8 a = o3
  generalize List.find? _ _ = o4
  generalize hit Reg.FAB_B_TMARK.word 10 a = o5
  generalize hit Reg.CHAIN_Q_TX.word 2 a = o6
  generalize hoChan a = o7
  cases o1 with
  | some _ => exact .some (setWord_kept h _ _ (Low.of_le hn (Nat.zero_le _)))
  | none =>
  cases o2 with
  | some _ => exact .some (completeSource_kept _ _ h)
  | none =>
  cases o3 with
  | some _ => exact .some (bufMark_kept _ (set_kept _ _ h))
  | none =>
  cases o4 with
  | some _ => exact .some (setSapP_kept _ _ h)
  | none =>
  cases o5 with
  | some _ => exact .some (iteInduction (fun _ => setPageDone_kept _ _ _ _ h) fun _ => h)
  | none =>
  cases o6 with
  | some _ => exact .some (queueWrite_kept _ _ h)
  | none =>
  cases o7 with
  | some _ => exact .ite .none (.some h)
  | none => exact .none


theorem gaugeCtlWrite_kept {lb : Nat} {may : Part → Prop} {s0 s : State} (v : Word) (h : Kept lb may s0 s) (hn : Low lb 0x170004 := by exact ‹Low _ _›.up rfl) (h_timers : may .timers := by assumption) (h_psc : may .psc := by assumption) (h_gauge : may .gauge := by assumption) :
    Kept lb may s0 (State.gaugeCtlWrite s v) := by
  unfold State.gaugeCtlWrite
  repeat' (first
    | with_reducible assumption
    | exact ‹Low _ _›.of_le (by decide)
    | (extract_lets +onlyGivenNames x; subst x)
    | with_reducible apply set_kept
    | with_reducible apply gaugeShow_kept
    | with_reducible apply flag_kept
    | with_reducible apply gaugeRefChange_kept
    | with_reducible apply gaugeCalibrate_kept
    | split)

theorem writeDone_kept {lb : Nat} {may : Part → Prop} {s0 s : State} (a : ℕ) (v : Word) (h : Kept lb may s0 s) (hn : Low lb 0x5c := by exact ‹Low _ _›.up rfl) (h_timers : may .timers := by assumption) (h_tick : may .tick := by assumption) (h_clk : may .clk := by assumption) (h_fab : may .fab := by assumption) (h_ain : may .ain := by assumption) (h_aout : may .aout := by assumption) (h_hp : may .hp := by assumption) (h_psc : may .psc := by assumption) (h_stew : may .stew := by assumption) (h_chain : may .chain := by assumption) (h_gauge : may .gauge := by assumption) :
    Kept lb may s0 (State.writeDone s a v) := by
  unfold State.writeDone
  repeat' (first
    | with_reducible assumption
    | exact ‹Low _ _›.of_le (by decide)
    | (extract_lets +onlyGivenNames x; refine (have hx : Kept lb may s0 x := ?_; ?_); rotate_left; clear_value x; rotate_right; subst x)
    | with_reducible apply aiCalStart_kept
    | with_reducible apply aoCalStart_kept
    | with_reducible apply hpFollowAll_kept
    | with_reducible apply clrAck_kept
    | with_reducible apply bufMarkAll_kept
    | with_reducible apply gpioFollow_kept
    | with_reducible apply bypass_kept
    | with_reducible apply pscClockErrorAll_kept
    | with_reducible apply cacheFlush_kept
    | with_reducible apply handOverCancel_kept
    | with_reducible apply hpUnlatch_kept
    | with_reducible apply pscUnlatch_kept
    | with_reducible apply dcTestRun_kept
    | with_reducible apply chainRestart_kept
    | with_reducible apply queueGo_kept
    | with_reducible apply injTrigger_kept
    | split)

theorem writePart_kept {lb : Nat} {may : Part → Prop} {s0 s : State} (r : RegRow) (a : ℕ) (v : Word) (cyc : ℕ) (h : Kept lb may s0 s) (hn : Low lb 0x0 := by exact ‹Low _ _›.up rfl) (h_timers : may .timers := by assumption) (h_tick : may .tick := by assumption) (h_clk : may .clk := by assumption) (h_fab : may .fab := by assumption) (h_bus : may .bus := by assumption) (h_irq : may .irq := by assumption) (h_ain : may .ain := by assumption) (h_phantom : may .phantom := by assumption) (h_aout : may .aout := by assumption) (h_hp : may .hp := by assumption) (h_psc : may .psc := by assumption) (h_asrc : may .asrc := by assumption) (h_sap : may .sap := by assumption) (h_stew : may .stew := by assumption) (h_mbx : may .mbx := by assumption) (h_host : may .host := by assumption) (h_chain : may .chain := by assumption) (h_lsn : may .lsn := by assumption) (h_gauge : may .gauge := by assumption) (h_sec : may .sec := by assumption) (h_pwr : may .pwr := by assumption) (h_xing : may .xing := by assumption) :
    Kept lb may s0 (State.writePart s r a v cyc) := by
  unfold State.writePart
  repeat' (first
    | with_reducible assumption
    | exact ‹Low _ _›.up2 rfl
    | exact ‹Low _ _›.up1 rfl
    | exact ‹Low _ _›.of_le (by decide)
    | exact ‹Low _ _›.of_le (Nat.zero_le _)
    | with_reducible apply ownWrite_kept
    | with_reducible apply gaugeCtlWrite_kept
    | with_reducible apply writeDone_kept
    | with_reducible apply setWord_kept
    | with_reducible refine KeptOpt.of (by assumption) ?_
    | split)

theorem writeReg_kept {lb : Nat} {may : Part → Prop} {s0 s : State} (r : RegRow) (who : Requester) (a : ℕ) (v : Word) (cyc : ℕ) (h : Kept lb may s0 s) (hn : Low lb 0x0 := by exact ‹Low _ _›.up rfl) (h_timers : may .timers := by assumption) (h_tick : may .tick := by assumption) (h_clk : may .clk := by assumption) (h_fab : may .fab := by assumption) (h_bus : may .bus := by assumption) (h_irq : may .irq := by assumption) (h_ain : may .ain := by assumption) (h_phantom : may .phantom := by assumption) (h_aout : may .aout := by assumption) (h_hp : may .hp := by assumption) (h_psc : may .psc := by assumption) (h_asrc : may .asrc := by assumption) (h_sap : may .sap := by assumption) (h_stew : may .stew := by assumption) (h_mbx : may .mbx := by assumption) (h_host : may .host := by assumption) (h_chain : may .chain := by assumption) (h_lsn : may .lsn := by assumption) (h_gauge : may .gauge := by assumption) (h_sec : may .sec := by assumption) (h_pwr : may .pwr := by assumption) (h_xing : may .xing := by assumption) :
    Kept lb may s0 (State.writeReg s r who a v cyc) := by
  unfold State.writeReg
  repeat' (first
    | with_reducible assumption
    | exact ‹Low _ _›.of_le (by decide)
    | exact ‹Low _ _›.of_le (Nat.zero_le _)
    | (extract_lets +onlyGivenNames x; refine (have hx : Kept lb may s0 x := ?_; ?_); rotate_left; clear_value x; rotate_right; subst x)
    | with_reducible apply onBus_kept
    | with_reducible apply tcWrite_kept
    | with_reducible apply writePart_kept
    | split)

theorem keptWrite_kept {lb : Nat} {may : Part → Prop} {s0 s : State} (a : ℕ) (v : Word) (h : Kept lb may s0 s) (hn : Low lb 0x0 := by exact ‹Low _ _›.up rfl) (h_timers : may .timers := by assumption) (h_tick : may .tick := by assumption) (h_clk : may .clk := by assumption) (h_fab : may .fab := by assumption) (h_bus : may .bus := by assumption) (h_irq : may .irq := by assumption) (h_ain : may .ain := by assumption) (h_phantom : may .phantom := by assumption) (h_aout : may .aout := by assumption) (h_hp : may .hp := by assumption) (h_psc : may .psc := by assumption) (h_asrc : may .asrc := by assumption) (h_sap : may .sap := by assumption) (h_stew : may .stew := by assumption) (h_mbx : may .mbx := by assumption) (h_host : may .host := by assumption) (h_chain : may .chain := by assumption) (h_lsn : may .lsn := by assumption) (h_gauge : may .gauge := by assumption) (h_sec : may .sec := by assumption) (h_pwr : may .pwr := by assumption) (h_xing : may .xing := by assumption) :
    Kept lb may s0 (keptWrite a v s) := by
  unfold keptWrite
  repeat' (first
    | with_reducible assumption
    | exact ‹Low _ _›.of_le (by decide)
    | exact ‹Low _ _›.of_le (Nat.zero_le _)
    | with_reducible apply writePart_kept
    | split)

theorem execWeir_kept {lb : Nat} {may : Part → Prop} {s0 s : State} (samples : List (BitVec 12 × Word)) (h : Kept lb may s0 s) (hn : Low lb 0x0 := by exact ‹Low _ _›.up rfl) (h_free : may .free := by assumption) (h_timers : may .timers := by assumption) (h_tick : may .tick := by assumption) (h_clk : may .clk := by assumption) (h_fab : may .fab := by assumption) (h_bus : may .bus := by assumption) (h_irq : may .irq := by assumption) (h_ain : may .ain := by assumption) (h_phantom : may .phantom := by assumption) (h_aout : may .aout := by assumption) (h_hp : may .hp := by assumption) (h_psc : may .psc := by assumption) (h_asrc : may .asrc := by assumption) (h_sap : may .sap := by assumption) (h_stew : may .stew := by assumption) (h_mbx : may .mbx := by assumption) (h_host : may .host := by assumption) (h_chain : may .chain := by assumption) (h_lsn : may .lsn := by assumption) (h_gauge : may .gauge := by assumption) (h_sec : may .sec := by assumption) (h_pwr : may .pwr := by assumption) (h_xing : may .xing := by assumption) :
    ∃ out, execWeir samples s = .next out ∧ Kept lb may s0 out := by
  refine ⟨_, rfl, ?_⟩
  repeat' (first
    | with_reducible assumption
    | exact ‹Low _ _›.of_le (by decide)
    | exact ‹Low _ _›.of_le (Nat.zero_le _)
    | with_reducible apply weir_kept
    | with_reducible apply keptWrite_kept
    | with_reducible refine Kept.foldl _ _ _ ?_ fun _ _ _ => ?_
    | with_reducible refine Kept.foldl_snd _ _ _ ?_ fun _ _ _ => ?_
    | with_reducible refine Kept.foldl_fst _ _ _ ?_ fun _ _ _ => ?_
    | intro v
    | split)

theorem ownRead_kept {lb : Nat} {may : Part → Prop} {s0 s : State} (a cyc : ℕ) (h : Kept lb may s0 s) (hn : Low lb 0x44 := by exact ‹Low _ _›.up rfl) (h_free : may .free := by assumption) (h_irq : may .irq := by assumption) (h_host : may .host := by assumption) (h_chain : may .chain := by assumption) (h_lsn : may .lsn := by assumption) : KeptRead lb may s0 (State.ownRead s a cyc) := by
  unfold State.ownRead
  refine .ite (.some (readTickLo_kept _ h)) (.ite (.some (readLastLo_kept h)) (.ite (.some h) (.ite (.some (cisRead_kept h))
    (.ite (.some h) (.ite (.some h) (.ite (.some (preRead_kept h)) (.ite (.some (mbxRead_kept h)) ?_)))))))
  generalize hit Reg.IC_CLAIM.word 4 a = o1
  generalize hit Reg.IC_RUN.word 4 a = o2
  generalize hit Reg.IC_PEND.word 8 a = o3
  generalize hit Reg.IC_ACT.word 8 a = o4
  generalize hit Reg.CHAIN_Q_RX.word 2 a = o5
  cases o1 with
  | some t => exact .some (claim_kept _ h)
  | none =>
  cases o2 with
  | some t => exact .some h
  | none =>
  cases o3 with
  | some t => exact .some h
  | none =>
  cases o4 with
  | some t => exact .some h
  | none =>
  cases o5 with
  | some t => exact .some (queueRead_kept _ h)
  | none => exact fun _ e => nomatch e

theorem readReg_kept {lb : Nat} {may : Part → Prop} {s0 s : State} (r : RegRow) (a cyc : ℕ) (h : Kept lb may s0 s) (hn : Low lb 0x44 := by exact ‹Low _ _›.up rfl) (h_free : may .free := by assumption) (h_bus : may .bus := by assumption) (h_irq : may .irq := by assumption) (h_host : may .host := by assumption) (h_chain : may .chain := by assumption) (h_lsn : may .lsn := by assumption) : Kept lb may s0 (State.readReg s r a cyc) := by
  unfold State.readReg
  have k := ownRead_kept a cyc h
  generalize s.ownRead a cyc = o at k ⊢
  cases o with
  | some x => exact iteInduction (fun _ => Kept.with_bus _ h) (fun _ => readDone_kept _ (k x rfl))
  | none => exact iteInduction (fun _ => Kept.with_bus _ h) (fun _ => Kept.with_bus _ h)


end Sys2Proof.Laws
end

