-- ==== Sys2Proof/Laws/KeptArbiter.lean ====
section
/-! SUPPORT. Each operation of Machine/Arbiter.lean keeps the queue, the time and the invariant. -/

set_option Elab.async false

namespace Sys2Proof.Laws

open Sys2Proof.Machine

theorem hspCount_kept {lb : Nat} {may : Part → Prop} {s0 s : State} (f : ℕ) (h : Kept lb may s0 s) (hn : Low lb 0x50004 := by exact ‹Low _ _›.up rfl) (h_host : may .host := by assumption) :
    Kept lb may s0 (State.hspCount s f) := by
  unfold State.hspCount
  repeat' (first
    | with_reducible assumption
    | exact ‹Low _ _›.of_le (by decide)
    | (extract_lets +onlyGivenNames x; subst x)
    | with_reducible apply count_kept
    | with_reducible apply setHost_kept
    | split
    | (fail_if_no_progress beta_reduce)
    | rfl)

theorem hspRefused_kept {lb : Nat} {may : Part → Prop} {s0 s : State} (f : ℕ) (op : ℕ) (a : ℕ) (h : Kept lb may s0 s) (hn : Low lb 0x50004 := by exact ‹Low _ _›.up rfl) (h_host : may .host := by assumption) :
    Kept lb may s0 (State.hspRefused s f op a) := by
  unfold State.hspRefused
  repeat' (first
    | with_reducible assumption
    | exact ‹Low _ _›.of_le (by decide)
    | (extract_lets +onlyGivenNames x; subst x)
    | with_reducible apply set_kept
    | with_reducible apply setHost_kept
    | with_reducible apply flag_kept
    | with_reducible apply hspCount_kept
    | split
    | (fail_if_no_progress beta_reduce)
    | rfl)

theorem hspAnswer_kept {lb : Nat} {may : Part → Prop} {s0 s : State} (status : Word) (crc : Bool) (data : List Word) (h : Kept lb may s0 s) (h_host : may .host := by assumption) :
    Kept lb may s0 (State.hspAnswer s status crc data) := by
  unfold State.hspAnswer
  repeat' (first
    | with_reducible assumption
    | (extract_lets +onlyGivenNames x; subst x)
    | with_reducible apply setHost_kept
    | split
    | (fail_if_no_progress beta_reduce)
    | rfl)

theorem hspFetched_kept {lb : Nat} {may : Part → Prop} {s0 s : State} (f : ℕ) (v : Word) (h : Kept lb may s0 s) (h_host : may .host := by assumption) :
    Kept lb may s0 (State.hspFetched s f v) := by
  unfold State.hspFetched
  repeat' (first
    | with_reducible assumption
    | (extract_lets +onlyGivenNames x; refine (have hx : Kept lb may s0 x := ?_; ?_); rotate_left; clear_value x; rotate_right; subst x)
    | (extract_lets +onlyGivenNames x; subst x)
    | with_reducible apply setHost_kept
    | with_reducible apply hspAnswer_kept
    | split
    | (fail_if_no_progress beta_reduce)
    | rfl)

theorem got_kept {lb : Nat} {may : Part → Prop} {s0 s : State} (a1 : Access) (h : Kept lb may s0 s) (hn : Low lb 0x50004 := by exact ‹Low _ _›.up rfl) (h_mbx : may .mbx := by assumption) (h_host : may .host := by assumption) :
    Kept lb may s0 (State.got s a1) := by
  unfold State.got
  repeat' (first
    | with_reducible assumption
    | exact ‹Low _ _›.of_le (by decide)
    | (extract_lets +onlyGivenNames x; clear_value x)
    | with_reducible apply hspRefused_kept
    | with_reducible apply setMbx_kept
    | with_reducible apply hspFetched_kept
    | split)

theorem cisBusy_kept {lb : Nat} {may : Part → Prop} {s0 s : State} (a1 : Access) (b : Bool) (h : Kept lb may s0 s) (hn : Low lb 0x10f108 := by exact ‹Low _ _›.up rfl) :
    Kept lb may s0 (State.cisBusy s a1 b) := by
  unfold State.cisBusy
  repeat' (first
    | with_reducible assumption
    | exact ‹Low _ _›.of_le (by decide)
    | with_reducible apply set_kept
    | split)

theorem turnAway_kept {lb : Nat} {may : Part → Prop} {s0 s : State} (a1 : Access) (e : BusEnd) (h : Kept lb may s0 s) (hn : Low lb 0x50004 := by exact ‹Low _ _›.up rfl) (h_bus : may .bus := by assumption) (h_mbx : may .mbx := by assumption) (h_host : may .host := by assumption) :
    Kept lb may s0 (State.turnAway s a1 e) := by
  unfold State.turnAway
  repeat' (first
    | with_reducible assumption
    | exact ‹Low _ _›.of_le (by decide)
    | with_reducible apply got_kept
    | with_reducible apply onBus_kept
    | with_reducible apply cisBusy_kept
)

theorem perform_kept {lb : Nat} {may : Part → Prop} {s0 s : State} (a1 : Access) (h : Kept lb may s0 s) (hn : Low lb 0x0 := by exact ‹Low _ _›.up rfl) (h_free : may .free := by assumption) (h_timers : may .timers := by assumption) (h_tick : may .tick := by assumption) (h_clk : may .clk := by assumption) (h_fab : may .fab := by assumption) (h_bus : may .bus := by assumption) (h_irq : may .irq := by assumption) (h_ain : may .ain := by assumption) (h_phantom : may .phantom := by assumption) (h_aout : may .aout := by assumption) (h_hp : may .hp := by assumption) (h_psc : may .psc := by assumption) (h_asrc : may .asrc := by assumption) (h_sap : may .sap := by assumption) (h_stew : may .stew := by assumption) (h_mbx : may .mbx := by assumption) (h_host : may .host := by assumption) (h_chain : may .chain := by assumption) (h_lsn : may .lsn := by assumption) (h_gauge : may .gauge := by assumption) (h_sec : may .sec := by assumption) (h_pwr : may .pwr := by assumption) (h_xing : may .xing := by assumption) :
    Kept lb may s0 (State.perform s a1) := by
  unfold State.perform
  repeat' (first
    | with_reducible assumption
    | exact ‹Low _ _›.of_le (by decide)
    | exact ‹Low _ _›.of_le (Nat.zero_le _)
    | with_reducible apply rawAccess_kept
    | with_reducible apply readReg_kept
    | with_reducible apply writeReg_kept
    | with_reducible apply onBus_kept
    | with_reducible apply writePart_kept
    | with_reducible apply writeDone_kept
    | split)

theorem waitAt_kept {lb : Nat} {may : Part → Prop} {s0 s : State} (n : ℕ) (a2 : Access) (h : Kept lb may s0 s) (hn : Low lb 0x20200 := by exact ‹Low _ _›.up rfl) (h_bus : may .bus := by assumption) (h_xing : may .xing := by assumption) :
    Kept lb may s0 (State.waitAt s n a2) := by
  unfold State.waitAt
  repeat' (first
    | with_reducible assumption
    | exact ‹Low _ _›.up1 rfl
    | exact ‹Low _ _›.of_le (by decide)
    | (extract_lets +onlyGivenNames x; refine (have hx : Kept lb may s0 x := ?_; ?_); rotate_left; clear_value x; rotate_right; subst x)
    | (extract_lets +onlyGivenNames x; clear_value x)
    | with_reducible apply setXing_kept
    | with_reducible apply set_kept
    | with_reducible apply onBus_kept
    | with_reducible apply cisBusy_kept
    | split)

theorem stageFirst_kept {lb : Nat} {may : Part → Prop} {s0 s : State} (a1 : Access) (h : Kept lb may s0 s) (hn : Low lb 0x5c := by exact ‹Low _ _›.up rfl) (h_tick : may .tick := by assumption) (h_bus : may .bus := by assumption) :
    Kept lb may s0 (State.stageFirst s a1).1 := by
  unfold State.stageFirst
  repeat' (first
    | with_reducible assumption
    | exact ‹Low _ _›.of_le (by decide)
    | with_reducible apply tcWrite_kept
    | split)

theorem cross_kept {lb : Nat} {may : Part → Prop} {s0 s : State} (a1 : Access) (h : Kept lb may s0 s) (hn : Low lb 0x0 := by exact ‹Low _ _›.up rfl) (h_free : may .free := by assumption) (h_timers : may .timers := by assumption) (h_tick : may .tick := by assumption) (h_clk : may .clk := by assumption) (h_fab : may .fab := by assumption) (h_bus : may .bus := by assumption) (h_irq : may .irq := by assumption) (h_ain : may .ain := by assumption) (h_phantom : may .phantom := by assumption) (h_aout : may .aout := by assumption) (h_hp : may .hp := by assumption) (h_psc : may .psc := by assumption) (h_asrc : may .asrc := by assumption) (h_sap : may .sap := by assumption) (h_stew : may .stew := by assumption) (h_mbx : may .mbx := by assumption) (h_host : may .host := by assumption) (h_chain : may .chain := by assumption) (h_lsn : may .lsn := by assumption) (h_gauge : may .gauge := by assumption) (h_sec : may .sec := by assumption) (h_pwr : may .pwr := by assumption) (h_xing : may .xing := by assumption) :
    Kept lb may s0 (State.cross s a1) := by
  unfold State.cross
  repeat' (first
    | with_reducible assumption
    | exact ‹Low _ _›.of_le (by decide)
    | exact ‹Low _ _›.of_le (Nat.zero_le _)
    | with_reducible apply perform_kept
    | with_reducible apply cisBusy_kept
    | with_reducible apply ungate_kept
    | with_reducible apply waitAt_kept
    | with_reducible apply stageFirst_kept
    | split)

theorem grant_kept {lb : Nat} {may : Part → Prop} {s0 s : State} (a1 : Access) (h : Kept lb may s0 s) (hn : Low lb 0x0 := by exact ‹Low _ _›.up rfl) (h_free : may .free := by assumption) (h_timers : may .timers := by assumption) (h_tick : may .tick := by assumption) (h_clk : may .clk := by assumption) (h_fab : may .fab := by assumption) (h_bus : may .bus := by assumption) (h_irq : may .irq := by assumption) (h_ain : may .ain := by assumption) (h_phantom : may .phantom := by assumption) (h_aout : may .aout := by assumption) (h_hp : may .hp := by assumption) (h_psc : may .psc := by assumption) (h_asrc : may .asrc := by assumption) (h_sap : may .sap := by assumption) (h_stew : may .stew := by assumption) (h_mbx : may .mbx := by assumption) (h_host : may .host := by assumption) (h_chain : may .chain := by assumption) (h_lsn : may .lsn := by assumption) (h_gauge : may .gauge := by assumption) (h_sec : may .sec := by assumption) (h_pwr : may .pwr := by assumption) (h_xing : may .xing := by assumption) :
    Kept lb may s0 (State.grant s a1) := by
  unfold State.grant
  repeat' (first
    | with_reducible assumption
    | exact ‹Low _ _›.of_le (by decide)
    | exact ‹Low _ _›.of_le (Nat.zero_le _)
    | with_reducible apply onBus_kept
    | with_reducible apply flag_kept
    | with_reducible apply cross_kept
    | with_reducible apply perform_kept
    | split)

theorem grantTo_kept {lb : Nat} {may : Part → Prop} {s0 s : State} (a1 : Access) (h : Kept lb may s0 s) (hn : Low lb 0x0 := by exact ‹Low _ _›.up rfl) (h_free : may .free := by assumption) (h_timers : may .timers := by assumption) (h_tick : may .tick := by assumption) (h_clk : may .clk := by assumption) (h_fab : may .fab := by assumption) (h_bus : may .bus := by assumption) (h_irq : may .irq := by assumption) (h_ain : may .ain := by assumption) (h_phantom : may .phantom := by assumption) (h_aout : may .aout := by assumption) (h_hp : may .hp := by assumption) (h_psc : may .psc := by assumption) (h_asrc : may .asrc := by assumption) (h_sap : may .sap := by assumption) (h_stew : may .stew := by assumption) (h_mbx : may .mbx := by assumption) (h_host : may .host := by assumption) (h_chain : may .chain := by assumption) (h_lsn : may .lsn := by assumption) (h_gauge : may .gauge := by assumption) (h_sec : may .sec := by assumption) (h_pwr : may .pwr := by assumption) (h_xing : may .xing := by assumption) :
    Kept lb may s0 (State.grantTo s a1) := by
  unfold State.grantTo
  repeat' (first
    | with_reducible assumption
    | exact ‹Low _ _›.of_le (by decide)
    | exact ‹Low _ _›.of_le (Nat.zero_le _)
    | (extract_lets +onlyGivenNames x; refine (have hx : Kept lb may s0 x := ?_; ?_); rotate_left; clear_value x; rotate_right; subst x)
    | with_reducible apply grant_kept
    | with_reducible apply got_kept
    | split)

theorem drainXing_kept {lb : Nat} {may : Part → Prop} {s0 s : State} (n : ℕ) (h : Kept lb may s0 s) (hn : Low lb 0x0 := by exact ‹Low _ _›.up rfl) (h_free : may .free := by assumption) (h_timers : may .timers := by assumption) (h_tick : may .tick := by assumption) (h_clk : may .clk := by assumption) (h_fab : may .fab := by assumption) (h_bus : may .bus := by assumption) (h_irq : may .irq := by assumption) (h_ain : may .ain := by assumption) (h_phantom : may .phantom := by assumption) (h_aout : may .aout := by assumption) (h_hp : may .hp := by assumption) (h_psc : may .psc := by assumption) (h_asrc : may .asrc := by assumption) (h_sap : may .sap := by assumption) (h_stew : may .stew := by assumption) (h_mbx : may .mbx := by assumption) (h_host : may .host := by assumption) (h_chain : may .chain := by assumption) (h_lsn : may .lsn := by assumption) (h_gauge : may .gauge := by assumption) (h_ram : may .ram := by assumption) (h_sec : may .sec := by assumption) (h_pwr : may .pwr := by assumption) (h_xing : may .xing := by assumption) :
    Kept lb may s0 (State.drainXing s n) := by
  unfold State.drainXing
  repeat' (first
    | with_reducible assumption
    | exact ‹Low _ _›.up1 rfl
    | exact ‹Low _ _›.of_le (by decide)
    | exact ‹Low _ _›.of_le (Nat.zero_le _)
    | (extract_lets +onlyGivenNames x; refine (have hx : Kept lb may s0 x := ?_; ?_); rotate_left; clear_value x; rotate_right; subst x)
    | (extract_lets +onlyGivenNames x; clear_value x)
    | with_reducible apply set_kept
    | with_reducible apply setXing_kept
    | with_reducible apply cross_kept
    | with_reducible apply got_kept
    | with_reducible apply deliverResult_kept
    | with_reducible refine Kept.foldl _ _ _ ?_ fun _ _ _ => ?_
    | with_reducible refine Kept.foldl_snd _ _ _ ?_ fun _ _ _ => ?_
    | with_reducible refine Kept.foldl_fst _ _ _ ?_ fun _ _ _ => ?_
    | intro v
    | split)

theorem postedWrite_kept {lb : Nat} {may : Part → Prop} {s0 s : State} (cyc : ℕ) (h : Kept lb may s0 s) (hn : Low lb 0x0 := by exact ‹Low _ _›.up rfl) (h_free : may .free := by assumption) (h_timers : may .timers := by assumption) (h_tick : may .tick := by assumption) (h_clk : may .clk := by assumption) (h_fab : may .fab := by assumption) (h_bus : may .bus := by assumption) (h_irq : may .irq := by assumption) (h_ain : may .ain := by assumption) (h_phantom : may .phantom := by assumption) (h_aout : may .aout := by assumption) (h_hp : may .hp := by assumption) (h_psc : may .psc := by assumption) (h_asrc : may .asrc := by assumption) (h_sap : may .sap := by assumption) (h_stew : may .stew := by assumption) (h_mbx : may .mbx := by assumption) (h_host : may .host := by assumption) (h_chain : may .chain := by assumption) (h_lsn : may .lsn := by assumption) (h_gauge : may .gauge := by assumption) (h_ram : may .ram := by assumption) (h_sec : may .sec := by assumption) (h_pwr : may .pwr := by assumption) (h_xing : may .xing := by assumption) : Kept lb may s0 (State.postedWrite s cyc) := by
  unfold State.postedWrite
  split
  · exact h
  · rename_i p rest heq
    extract_lets _ t
    have ht : Kept lb may s0 t := setHost_kept_of_le _ h (.inr (by rw [heq]; exact Nat.le_succ _)) (.inr le_rfl)
    clear_value t
    exact iteInduction (fun _ => setRamWord_kept _ _ ht) fun _ => grantTo_kept _ ht

theorem fetchWord_kept {lb : Nat} {may : Part → Prop} {s0 s : State} (a1 : HspFetch) (h : Kept lb may s0 s) (hn : Low lb 0x0 := by exact ‹Low _ _›.up rfl) (h_free : may .free := by assumption) (h_timers : may .timers := by assumption) (h_tick : may .tick := by assumption) (h_clk : may .clk := by assumption) (h_fab : may .fab := by assumption) (h_bus : may .bus := by assumption) (h_irq : may .irq := by assumption) (h_ain : may .ain := by assumption) (h_phantom : may .phantom := by assumption) (h_aout : may .aout := by assumption) (h_hp : may .hp := by assumption) (h_psc : may .psc := by assumption) (h_asrc : may .asrc := by assumption) (h_sap : may .sap := by assumption) (h_stew : may .stew := by assumption) (h_mbx : may .mbx := by assumption) (h_host : may .host := by assumption) (h_chain : may .chain := by assumption) (h_lsn : may .lsn := by assumption) (h_gauge : may .gauge := by assumption) (h_sec : may .sec := by assumption) (h_pwr : may .pwr := by assumption) (h_xing : may .xing := by assumption) :
    Kept lb may s0 (State.fetchWord s a1) := by
  unfold State.fetchWord
  repeat' (first
    | with_reducible assumption
    | exact ‹Low _ _›.of_le (by decide)
    | exact ‹Low _ _›.of_le (Nat.zero_le _)
    | (extract_lets +onlyGivenNames x; clear_value x)
    | with_reducible apply hspFetched_kept
    | with_reducible apply grantTo_kept
    | split)

theorem turnOf_kept {lb : Nat} {may : Part → Prop} {s0 s : State} (w : Requester) (h : Kept lb may s0 s) (hn : Low lb 0x0 := by exact ‹Low _ _›.up rfl) (h_free : may .free := by assumption) (h_timers : may .timers := by assumption) (h_tick : may .tick := by assumption) (h_clk : may .clk := by assumption) (h_fab : may .fab := by assumption) (h_bus : may .bus := by assumption) (h_irq : may .irq := by assumption) (h_ain : may .ain := by assumption) (h_phantom : may .phantom := by assumption) (h_aout : may .aout := by assumption) (h_hp : may .hp := by assumption) (h_psc : may .psc := by assumption) (h_asrc : may .asrc := by assumption) (h_sap : may .sap := by assumption) (h_stew : may .stew := by assumption) (h_mbx : may .mbx := by assumption) (h_host : may .host := by assumption) (h_chain : may .chain := by assumption) (h_lsn : may .lsn := by assumption) (h_gauge : may .gauge := by assumption) (h_ram : may .ram := by assumption) (h_sec : may .sec := by assumption) (h_pwr : may .pwr := by assumption) (h_xing : may .xing := by assumption) :
    Kept lb may s0 (State.turnOf s w) := by
  unfold State.turnOf
  repeat' (first
    | with_reducible assumption
    | exact ‹Low _ _›.of_le (by decide)
    | exact ‹Low _ _›.of_le (Nat.zero_le _)
    | (extract_lets +onlyGivenNames x; refine (have hx : Kept lb may s0 x := ?_; ?_); rotate_left; clear_value x; rotate_right; subst x)
    | (extract_lets +onlyGivenNames x; clear_value x)
    | with_reducible apply grantTo_kept
    | with_reducible apply fetchWord_kept
    | with_reducible apply postedWrite_kept
    | intro v
    | split
    | with_reducible apply Kept.with_bus)

theorem arbRun_kept {lb : Nat} {may : Part → Prop} {s0 s : State} (n : ℕ) (h : Kept lb may s0 s) (hn : Low lb 0x0 := by exact ‹Low _ _›.up rfl) (h_free : may .free := by assumption) (h_timers : may .timers := by assumption) (h_tick : may .tick := by assumption) (h_clk : may .clk := by assumption) (h_fab : may .fab := by assumption) (h_bus : may .bus := by assumption) (h_irq : may .irq := by assumption) (h_ain : may .ain := by assumption) (h_phantom : may .phantom := by assumption) (h_aout : may .aout := by assumption) (h_hp : may .hp := by assumption) (h_psc : may .psc := by assumption) (h_asrc : may .asrc := by assumption) (h_sap : may .sap := by assumption) (h_stew : may .stew := by assumption) (h_mbx : may .mbx := by assumption) (h_host : may .host := by assumption) (h_chain : may .chain := by assumption) (h_lsn : may .lsn := by assumption) (h_gauge : may .gauge := by assumption) (h_ram : may .ram := by assumption) (h_sec : may .sec := by assumption) (h_pwr : may .pwr := by assumption) (h_xing : may .xing := by assumption) :
    Kept lb may s0 (State.arbRun n s) := by
  induction n generalizing s with
  | zero => exact h
  | succ n ih =>
    unfold State.arbRun
    extract_lets w
    split
    · exact ih (turnOf_kept _ h)
    · exact h

theorem arbiter_kept {lb : Nat} {may : Part → Prop} {s0 s : State} (h : Kept lb may s0 s) (hn : Low lb 0x0 := by exact ‹Low _ _›.up rfl) (h_free : may .free := by assumption) (h_timers : may .timers := by assumption) (h_tick : may .tick := by assumption) (h_clk : may .clk := by assumption) (h_fab : may .fab := by assumption) (h_bus : may .bus := by assumption) (h_irq : may .irq := by assumption) (h_ain : may .ain := by assumption) (h_phantom : may .phantom := by assumption) (h_aout : may .aout := by assumption) (h_hp : may .hp := by assumption) (h_psc : may .psc := by assumption) (h_asrc : may .asrc := by assumption) (h_sap : may .sap := by assumption) (h_stew : may .stew := by assumption) (h_mbx : may .mbx := by assumption) (h_host : may .host := by assumption) (h_chain : may .chain := by assumption) (h_lsn : may .lsn := by assumption) (h_gauge : may .gauge := by assumption) (h_ram : may .ram := by assumption) (h_sec : may .sec := by assumption) (h_pwr : may .pwr := by assumption) (h_xing : may .xing := by assumption) :
    Kept lb may s0 (State.arbiter s) := by
  unfold State.arbiter
  repeat' (first
    | with_reducible assumption
    | exact ‹Low _ _›.of_le (by decide)
    | exact ‹Low _ _›.of_le (Nat.zero_le _)
    | (extract_lets +onlyGivenNames x; refine (have hx : Kept lb may s0 x := ?_; ?_); rotate_left; clear_value x; rotate_right; subst x)
    | (extract_lets +onlyGivenNames x; clear_value x)
    | with_reducible apply turnAway_kept
    | with_reducible apply arbRun_kept
    | with_reducible refine Kept.foldl _ _ _ ?_ fun _ _ _ => ?_
    | with_reducible refine Kept.foldl_snd _ _ _ ?_ fun _ _ _ => ?_
    | with_reducible refine Kept.foldl_fst _ _ _ ?_ fun _ _ _ => ?_
    | intro v
    | with_reducible apply Kept.with_bus)

theorem access_kept {lb : Nat} {may : Part → Prop} {s0 s : State} (a1 : Access) (h : Kept lb may s0 s) (hn : Low lb 0x0 := by exact ‹Low _ _›.up rfl) (h_free : may .free := by assumption) (h_timers : may .timers := by assumption) (h_tick : may .tick := by assumption) (h_clk : may .clk := by assumption) (h_fab : may .fab := by assumption) (h_bus : may .bus := by assumption) (h_irq : may .irq := by assumption) (h_ain : may .ain := by assumption) (h_phantom : may .phantom := by assumption) (h_aout : may .aout := by assumption) (h_hp : may .hp := by assumption) (h_psc : may .psc := by assumption) (h_asrc : may .asrc := by assumption) (h_sap : may .sap := by assumption) (h_stew : may .stew := by assumption) (h_mbx : may .mbx := by assumption) (h_host : may .host := by assumption) (h_chain : may .chain := by assumption) (h_lsn : may .lsn := by assumption) (h_gauge : may .gauge := by assumption) (h_sec : may .sec := by assumption) (h_pwr : may .pwr := by assumption) (h_xing : may .xing := by assumption) :
    Kept lb may s0 (State.access s a1) := by
  unfold State.access
  repeat' (first
    | with_reducible assumption
    | exact ‹Low _ _›.of_le (by decide)
    | exact ‹Low _ _›.of_le (Nat.zero_le _)
    | (extract_lets +onlyGivenNames x; clear_value x)
    | with_reducible apply onBus_kept
    | with_reducible apply grantTo_kept
    | intro v
    | split
    | with_reducible apply Kept.with_bus)

theorem xingTimeout_kept {lb : Nat} {may : Part → Prop} {s0 s : State} (n : ℕ) (waiting : ℕ) (wake : Bool) (h : Kept lb may s0 s) (hn : Low lb 0x20000 := by exact ‹Low _ _›.up rfl) (h_bus : may .bus := by assumption) (h_mbx : may .mbx := by assumption) (h_host : may .host := by assumption) (h_xing : may .xing := by assumption) :
    Kept lb may s0 (State.xingTimeout s n waiting wake) := by
  unfold State.xingTimeout
  repeat' (first
    | with_reducible assumption
    | exact ‹Low _ _›.up1 rfl
    | exact ‹Low _ _›.of_le (by decide)
    | (extract_lets +onlyGivenNames x; refine (have hx : Kept lb may s0 x := ?_; ?_); rotate_left; clear_value x; rotate_right; subst x)
    | (extract_lets +onlyGivenNames x; clear_value x)
    | with_reducible apply set_kept
    | with_reducible apply xingLog_kept
    | with_reducible apply turnAway_kept
    | with_reducible apply setXing_kept
    | with_reducible refine Kept.foldl _ _ _ ?_ fun _ _ _ => ?_)

theorem xingHeldTimeout_kept {lb : Nat} {may : Part → Prop} {s0 s : State} (n : ℕ) (wake : Bool) (h : Kept lb may s0 s) (hn : Low lb 0x20000 := by exact ‹Low _ _›.up rfl) (h_bus : may .bus := by assumption) (h_mbx : may .mbx := by assumption) (h_host : may .host := by assumption) (h_xing : may .xing := by assumption) :
    Kept lb may s0 (State.xingHeldTimeout s n wake) := by
  unfold State.xingHeldTimeout
  repeat' (first
    | with_reducible assumption
    | exact ‹Low _ _›.of_le (by decide)
    | (extract_lets +onlyGivenNames x; clear_value x)
    | with_reducible apply turnAway_kept
    | with_reducible apply setXing_kept
    | with_reducible apply xingLog_kept
    | split)

theorem xingExpire_kept {lb : Nat} {may : Part → Prop} {s0 s : State} (n : ℕ) (waiting : ℕ) (wake : Bool) (h : Kept lb may s0 s) (hn : Low lb 0x20000 := by exact ‹Low _ _›.up rfl) (h_bus : may .bus := by assumption) (h_mbx : may .mbx := by assumption) (h_host : may .host := by assumption) (h_xing : may .xing := by assumption) :
    Kept lb may s0 (State.xingExpire s n waiting wake) := by
  unfold State.xingExpire
  repeat' (first
    | with_reducible assumption
    | exact ‹Low _ _›.of_le (by decide)
    | (extract_lets +onlyGivenNames x; clear_value x)
    | with_reducible apply xingHeldTimeout_kept
    | with_reducible apply xingTimeout_kept
    | split)

theorem resync_kept {lb : Nat} {may : Part → Prop} {s0 s : State} (n : ℕ) (h : Kept lb may s0 s) (hn : Low lb 0x0 := by exact ‹Low _ _›.up rfl) (h_free : may .free := by assumption) (h_timers : may .timers := by assumption) (h_tick : may .tick := by assumption) (h_clk : may .clk := by assumption) (h_fab : may .fab := by assumption) (h_bus : may .bus := by assumption) (h_irq : may .irq := by assumption) (h_ain : may .ain := by assumption) (h_phantom : may .phantom := by assumption) (h_aout : may .aout := by assumption) (h_hp : may .hp := by assumption) (h_psc : may .psc := by assumption) (h_asrc : may .asrc := by assumption) (h_sap : may .sap := by assumption) (h_stew : may .stew := by assumption) (h_mbx : may .mbx := by assumption) (h_host : may .host := by assumption) (h_chain : may .chain := by assumption) (h_lsn : may .lsn := by assumption) (h_gauge : may .gauge := by assumption) (h_ram : may .ram := by assumption) (h_sec : may .sec := by assumption) (h_pwr : may .pwr := by assumption) (h_xing : may .xing := by assumption) :
    Kept lb may s0 (State.resync s n) := by
  unfold State.resync
  repeat' (first
    | with_reducible assumption
    | exact ‹Low _ _›.up1 rfl
    | exact ‹Low _ _›.of_le (by decide)
    | exact ‹Low _ _›.of_le (Nat.zero_le _)
    | with_reducible apply drainXing_kept
    | with_reducible apply set_kept
    | split)

theorem xingMs_kept {lb : Nat} {may : Part → Prop} {s0 s : State} (n : ℕ) (h : Kept lb may s0 s) (hn : Low lb 0x0 := by exact ‹Low _ _›.up rfl) (h_free : may .free := by assumption) (h_timers : may .timers := by assumption) (h_tick : may .tick := by assumption) (h_clk : may .clk := by assumption) (h_fab : may .fab := by assumption) (h_bus : may .bus := by assumption) (h_irq : may .irq := by assumption) (h_ain : may .ain := by assumption) (h_phantom : may .phantom := by assumption) (h_aout : may .aout := by assumption) (h_hp : may .hp := by assumption) (h_psc : may .psc := by assumption) (h_asrc : may .asrc := by assumption) (h_sap : may .sap := by assumption) (h_stew : may .stew := by assumption) (h_mbx : may .mbx := by assumption) (h_host : may .host := by assumption) (h_chain : may .chain := by assumption) (h_lsn : may .lsn := by assumption) (h_gauge : may .gauge := by assumption) (h_ram : may .ram := by assumption) (h_sec : may .sec := by assumption) (h_pwr : may .pwr := by assumption) (h_xing : may .xing := by assumption) :
    Kept lb may s0 (State.xingMs s n) := by
  unfold State.xingMs
  repeat' (first
    | with_reducible assumption
    | exact ‹Low _ _›.of_le (by decide)
    | exact ‹Low _ _›.of_le (Nat.zero_le _)
    | with_reducible apply drainXing_kept
    | with_reducible apply resync_kept
    | with_reducible apply xingExpire_kept
    | split)

theorem execXingTimeout_kept {lb : Nat} {may : Part → Prop} {s0 s : State} (n : Fin 28) (waiting : ℕ) (wake : Bool) (h : Kept lb may s0 s) (hn : Low lb 0x0 := by exact ‹Low _ _›.up rfl) (h_free : may .free := by assumption) (h_timers : may .timers := by assumption) (h_tick : may .tick := by assumption) (h_clk : may .clk := by assumption) (h_fab : may .fab := by assumption) (h_bus : may .bus := by assumption) (h_irq : may .irq := by assumption) (h_ain : may .ain := by assumption) (h_phantom : may .phantom := by assumption) (h_aout : may .aout := by assumption) (h_hp : may .hp := by assumption) (h_psc : may .psc := by assumption) (h_asrc : may .asrc := by assumption) (h_sap : may .sap := by assumption) (h_stew : may .stew := by assumption) (h_mbx : may .mbx := by assumption) (h_host : may .host := by assumption) (h_chain : may .chain := by assumption) (h_lsn : may .lsn := by assumption) (h_gauge : may .gauge := by assumption) (h_ram : may .ram := by assumption) (h_sec : may .sec := by assumption) (h_pwr : may .pwr := by assumption) (h_xing : may .xing := by assumption) :
    ∃ out, execXingTimeout n waiting wake s = .next out ∧ Kept lb may s0 out := by
  refine ⟨_, rfl, ?_⟩
  repeat' (first
    | with_reducible assumption
    | with_reducible intro v
    | exact ‹Low _ _›.of_le (by decide)
    | exact ‹Low _ _›.of_le (Nat.zero_le _)
    | with_reducible apply arbiter_kept
    | with_reducible apply xingExpire_kept
)

theorem execPointerResync_kept {lb : Nat} {may : Part → Prop} {s0 s : State} (n : Fin 28) (h : Kept lb may s0 s) (hn : Low lb 0x0 := by exact ‹Low _ _›.up rfl) (h_free : may .free := by assumption) (h_timers : may .timers := by assumption) (h_tick : may .tick := by assumption) (h_clk : may .clk := by assumption) (h_fab : may .fab := by assumption) (h_bus : may .bus := by assumption) (h_irq : may .irq := by assumption) (h_ain : may .ain := by assumption) (h_phantom : may .phantom := by assumption) (h_aout : may .aout := by assumption) (h_hp : may .hp := by assumption) (h_psc : may .psc := by assumption) (h_asrc : may .asrc := by assumption) (h_sap : may .sap := by assumption) (h_stew : may .stew := by assumption) (h_mbx : may .mbx := by assumption) (h_host : may .host := by assumption) (h_chain : may .chain := by assumption) (h_lsn : may .lsn := by assumption) (h_gauge : may .gauge := by assumption) (h_ram : may .ram := by assumption) (h_sec : may .sec := by assumption) (h_pwr : may .pwr := by assumption) (h_xing : may .xing := by assumption) :
    ∃ out, execPointerResync n s = .next out ∧ Kept lb may s0 out := by
  refine ⟨_, rfl, ?_⟩
  repeat' (first
    | with_reducible assumption
    | with_reducible intro v
    | exact ‹Low _ _›.of_le (by decide)
    | exact ‹Low _ _›.of_le (Nat.zero_le _)
    | with_reducible apply arbiter_kept
    | with_reducible apply resync_kept
)

theorem execCisternTurn_kept {lb : Nat} {may : Part → Prop} {s0 s : State} (f : Fin 16) (j : Fin 4) (h : Kept lb may s0 s) (hn : Low lb 0x0 := by exact ‹Low _ _›.up rfl) (h_free : may .free := by assumption) (h_timers : may .timers := by assumption) (h_tick : may .tick := by assumption) (h_clk : may .clk := by assumption) (h_fab : may .fab := by assumption) (h_bus : may .bus := by assumption) (h_irq : may .irq := by assumption) (h_ain : may .ain := by assumption) (h_phantom : may .phantom := by assumption) (h_aout : may .aout := by assumption) (h_hp : may .hp := by assumption) (h_psc : may .psc := by assumption) (h_asrc : may .asrc := by assumption) (h_sap : may .sap := by assumption) (h_stew : may .stew := by assumption) (h_mbx : may .mbx := by assumption) (h_host : may .host := by assumption) (h_chain : may .chain := by assumption) (h_lsn : may .lsn := by assumption) (h_gauge : may .gauge := by assumption) (h_ram : may .ram := by assumption) (h_sec : may .sec := by assumption) (h_pwr : may .pwr := by assumption) (h_xing : may .xing := by assumption) :
    ∃ out, execCisternTurn f j s = .next out ∧ Kept lb may s0 out := by
  refine ⟨_, rfl, ?_⟩
  repeat' (first
    | with_reducible assumption
    | with_reducible intro v
    | exact ‹Low _ _›.of_le (by decide)
    | exact ‹Low _ _›.of_le (Nat.zero_le _)
    | with_reducible apply serveFront_kept
    | with_reducible apply arbiter_kept
    | with_reducible apply drainXing_kept
    | split)

theorem execFabCisDataRead_kept {lb : Nat} {may : Part → Prop} {s0 s : State} (h : Kept lb may s0 s) (hn : Low lb 0x0 := by exact ‹Low _ _›.up rfl) (h_free : may .free := by assumption) (h_timers : may .timers := by assumption) (h_tick : may .tick := by assumption) (h_clk : may .clk := by assumption) (h_fab : may .fab := by assumption) (h_bus : may .bus := by assumption) (h_irq : may .irq := by assumption) (h_ain : may .ain := by assumption) (h_phantom : may .phantom := by assumption) (h_aout : may .aout := by assumption) (h_hp : may .hp := by assumption) (h_psc : may .psc := by assumption) (h_asrc : may .asrc := by assumption) (h_sap : may .sap := by assumption) (h_stew : may .stew := by assumption) (h_mbx : may .mbx := by assumption) (h_host : may .host := by assumption) (h_chain : may .chain := by assumption) (h_lsn : may .lsn := by assumption) (h_gauge : may .gauge := by assumption) (h_sec : may .sec := by assumption) (h_pwr : may .pwr := by assumption) (h_xing : may .xing := by assumption) :
    ∃ out, execFabCisDataRead s = .next out ∧ Kept lb may s0 out := by
  refine ⟨_, rfl, ?_⟩
  repeat' (first
    | with_reducible assumption
    | with_reducible intro v
    | exact ‹Low _ _›.of_le (by decide)
    | exact ‹Low _ _›.of_le (Nat.zero_le _)
    | with_reducible apply access_kept
)

theorem execFabCisDataWrite_kept {lb : Nat} {may : Part → Prop} {s0 s : State} (v : Word) (h : Kept lb may s0 s) (hn : Low lb 0x0 := by exact ‹Low _ _›.up rfl) (h_free : may .free := by assumption) (h_timers : may .timers := by assumption) (h_tick : may .tick := by assumption) (h_clk : may .clk := by assumption) (h_fab : may .fab := by assumption) (h_bus : may .bus := by assumption) (h_irq : may .irq := by assumption) (h_ain : may .ain := by assumption) (h_phantom : may .phantom := by assumption) (h_aout : may .aout := by assumption) (h_hp : may .hp := by assumption) (h_psc : may .psc := by assumption) (h_asrc : may .asrc := by assumption) (h_sap : may .sap := by assumption) (h_stew : may .stew := by assumption) (h_mbx : may .mbx := by assumption) (h_host : may .host := by assumption) (h_chain : may .chain := by assumption) (h_lsn : may .lsn := by assumption) (h_gauge : may .gauge := by assumption) (h_sec : may .sec := by assumption) (h_pwr : may .pwr := by assumption) (h_xing : may .xing := by assumption) :
    ∃ out, execFabCisDataWrite v s = .next out ∧ Kept lb may s0 out := by
  refine ⟨_, rfl, ?_⟩
  repeat' (first
    | with_reducible assumption
    | with_reducible intro v
    | exact ‹Low _ _›.of_le (by decide)
    | exact ‹Low _ _›.of_le (Nat.zero_le _)
    | with_reducible apply access_kept
)

theorem execRawWindowAccess_kept {lb : Nat} {may : Part → Prop} {s0 s : State} (a : BitVec 24) (write : Option Word) (h : Kept lb may s0 s) (hn : Low lb 0x0 := by exact ‹Low _ _›.up rfl) (h_free : may .free := by assumption) (h_timers : may .timers := by assumption) (h_tick : may .tick := by assumption) (h_clk : may .clk := by assumption) (h_fab : may .fab := by assumption) (h_bus : may .bus := by assumption) (h_irq : may .irq := by assumption) (h_ain : may .ain := by assumption) (h_phantom : may .phantom := by assumption) (h_aout : may .aout := by assumption) (h_hp : may .hp := by assumption) (h_psc : may .psc := by assumption) (h_asrc : may .asrc := by assumption) (h_sap : may .sap := by assumption) (h_stew : may .stew := by assumption) (h_mbx : may .mbx := by assumption) (h_host : may .host := by assumption) (h_chain : may .chain := by assumption) (h_lsn : may .lsn := by assumption) (h_gauge : may .gauge := by assumption) (h_sec : may .sec := by assumption) (h_pwr : may .pwr := by assumption) (h_xing : may .xing := by assumption) :
    ∃ out, execRawWindowAccess a write s = .next out ∧ Kept lb may s0 out := by
  refine ⟨_, rfl, ?_⟩
  repeat' (first
    | with_reducible assumption
    | with_reducible intro v
    | exact ‹Low _ _›.of_le (by decide)
    | exact ‹Low _ _›.of_le (Nat.zero_le _)
    | with_reducible apply access_kept
    | split)

theorem execFabHoCancel_kept {lb : Nat} {may : Part → Prop} {s0 s : State} (a0 : Fin 4) (h : Kept lb may s0 s) (hn : Low lb 0x0 := by exact ‹Low _ _›.up rfl) (h_free : may .free := by assumption) (h_timers : may .timers := by assumption) (h_tick : may .tick := by assumption) (h_clk : may .clk := by assumption) (h_fab : may .fab := by assumption) (h_bus : may .bus := by assumption) (h_irq : may .irq := by assumption) (h_ain : may .ain := by assumption) (h_phantom : may .phantom := by assumption) (h_aout : may .aout := by assumption) (h_hp : may .hp := by assumption) (h_psc : may .psc := by assumption) (h_asrc : may .asrc := by assumption) (h_sap : may .sap := by assumption) (h_stew : may .stew := by assumption) (h_mbx : may .mbx := by assumption) (h_host : may .host := by assumption) (h_chain : may .chain := by assumption) (h_lsn : may .lsn := by assumption) (h_gauge : may .gauge := by assumption) (h_sec : may .sec := by assumption) (h_pwr : may .pwr := by assumption) (h_xing : may .xing := by assumption) :
    ∃ out, execFabHoCancel a0 s = .next out ∧ Kept lb may s0 out := by
  refine ⟨_, rfl, ?_⟩
  repeat' (first
    | with_reducible assumption
    | with_reducible intro v
    | exact ‹Low _ _›.of_le (by decide)
    | exact ‹Low _ _›.of_le (Nat.zero_le _)
    | with_reducible apply access_kept
)

theorem execFabBbTmarkWrite_kept {lb : Nat} {may : Part → Prop} {s0 s : State} (b : Fin 10) (t : Fin 32) (pageB : Bool) (h : Kept lb may s0 s) (hn : Low lb 0x0 := by exact ‹Low _ _›.up rfl) (h_free : may .free := by assumption) (h_timers : may .timers := by assumption) (h_tick : may .tick := by assumption) (h_clk : may .clk := by assumption) (h_fab : may .fab := by assumption) (h_bus : may .bus := by assumption) (h_irq : may .irq := by assumption) (h_ain : may .ain := by assumption) (h_phantom : may .phantom := by assumption) (h_aout : may .aout := by assumption) (h_hp : may .hp := by assumption) (h_psc : may .psc := by assumption) (h_asrc : may .asrc := by assumption) (h_sap : may .sap := by assumption) (h_stew : may .stew := by assumption) (h_mbx : may .mbx := by assumption) (h_host : may .host := by assumption) (h_chain : may .chain := by assumption) (h_lsn : may .lsn := by assumption) (h_gauge : may .gauge := by assumption) (h_sec : may .sec := by assumption) (h_pwr : may .pwr := by assumption) (h_xing : may .xing := by assumption) :
    ∃ out, execFabBbTmarkWrite b t pageB s = .next out ∧ Kept lb may s0 out := by
  refine ⟨_, rfl, ?_⟩
  repeat' (first
    | with_reducible assumption
    | with_reducible intro v
    | exact ‹Low _ _›.of_le (by decide)
    | exact ‹Low _ _›.of_le (Nat.zero_le _)
    | with_reducible apply access_kept
)

theorem execAinCalctlWrite_kept {lb : Nat} {may : Part → Prop} {s0 s : State} (mask : BitVec 16) (h : Kept lb may s0 s) (hn : Low lb 0x0 := by exact ‹Low _ _›.up rfl) (h_free : may .free := by assumption) (h_timers : may .timers := by assumption) (h_tick : may .tick := by assumption) (h_clk : may .clk := by assumption) (h_fab : may .fab := by assumption) (h_bus : may .bus := by assumption) (h_irq : may .irq := by assumption) (h_ain : may .ain := by assumption) (h_phantom : may .phantom := by assumption) (h_aout : may .aout := by assumption) (h_hp : may .hp := by assumption) (h_psc : may .psc := by assumption) (h_asrc : may .asrc := by assumption) (h_sap : may .sap := by assumption) (h_stew : may .stew := by assumption) (h_mbx : may .mbx := by assumption) (h_host : may .host := by assumption) (h_chain : may .chain := by assumption) (h_lsn : may .lsn := by assumption) (h_gauge : may .gauge := by assumption) (h_sec : may .sec := by assumption) (h_pwr : may .pwr := by assumption) (h_xing : may .xing := by assumption) :
    ∃ out, execAinCalctlWrite mask s = .next out ∧ Kept lb may s0 out := by
  refine ⟨_, rfl, ?_⟩
  repeat' (first
    | with_reducible assumption
    | with_reducible intro v
    | exact ‹Low _ _›.of_le (by decide)
    | exact ‹Low _ _›.of_le (Nat.zero_le _)
    | with_reducible apply access_kept
)

theorem execAoutCalctlWrite_kept {lb : Nat} {may : Part → Prop} {s0 s : State} (mask : BitVec 16) (h : Kept lb may s0 s) (hn : Low lb 0x0 := by exact ‹Low _ _›.up rfl) (h_free : may .free := by assumption) (h_timers : may .timers := by assumption) (h_tick : may .tick := by assumption) (h_clk : may .clk := by assumption) (h_fab : may .fab := by assumption) (h_bus : may .bus := by assumption) (h_irq : may .irq := by assumption) (h_ain : may .ain := by assumption) (h_phantom : may .phantom := by assumption) (h_aout : may .aout := by assumption) (h_hp : may .hp := by assumption) (h_psc : may .psc := by assumption) (h_asrc : may .asrc := by assumption) (h_sap : may .sap := by assumption) (h_stew : may .stew := by assumption) (h_mbx : may .mbx := by assumption) (h_host : may .host := by assumption) (h_chain : may .chain := by assumption) (h_lsn : may .lsn := by assumption) (h_gauge : may .gauge := by assumption) (h_sec : may .sec := by assumption) (h_pwr : may .pwr := by assumption) (h_xing : may .xing := by assumption) :
    ∃ out, execAoutCalctlWrite mask s = .next out ∧ Kept lb may s0 out := by
  refine ⟨_, rfl, ?_⟩
  repeat' (first
    | with_reducible assumption
    | with_reducible intro v
    | exact ‹Low _ _›.of_le (by decide)
    | exact ‹Low _ _›.of_le (Nat.zero_le _)
    | with_reducible apply access_kept
)

theorem execClrack_kept {lb : Nat} {may : Part → Prop} {s0 s : State} (h : Kept lb may s0 s) (hn : Low lb 0x0 := by exact ‹Low _ _›.up rfl) (h_free : may .free := by assumption) (h_timers : may .timers := by assumption) (h_tick : may .tick := by assumption) (h_clk : may .clk := by assumption) (h_fab : may .fab := by assumption) (h_bus : may .bus := by assumption) (h_irq : may .irq := by assumption) (h_ain : may .ain := by assumption) (h_phantom : may .phantom := by assumption) (h_aout : may .aout := by assumption) (h_hp : may .hp := by assumption) (h_psc : may .psc := by assumption) (h_asrc : may .asrc := by assumption) (h_sap : may .sap := by assumption) (h_stew : may .stew := by assumption) (h_mbx : may .mbx := by assumption) (h_host : may .host := by assumption) (h_chain : may .chain := by assumption) (h_lsn : may .lsn := by assumption) (h_gauge : may .gauge := by assumption) (h_sec : may .sec := by assumption) (h_pwr : may .pwr := by assumption) (h_xing : may .xing := by assumption) :
    ∃ out, execClrack s = .next out ∧ Kept lb may s0 out := by
  refine ⟨_, rfl, ?_⟩
  repeat' (first
    | with_reducible assumption
    | with_reducible intro v
    | exact ‹Low _ _›.of_le (by decide)
    | exact ‹Low _ _›.of_le (Nat.zero_le _)
    | with_reducible apply access_kept
)

theorem execHpUnlatch_kept {lb : Nat} {may : Part → Prop} {s0 s : State} (n : Fin 2) (h : Kept lb may s0 s) (hn : Low lb 0x0 := by exact ‹Low _ _›.up rfl) (h_free : may .free := by assumption) (h_timers : may .timers := by assumption) (h_tick : may .tick := by assumption) (h_clk : may .clk := by assumption) (h_fab : may .fab := by assumption) (h_bus : may .bus := by assumption) (h_irq : may .irq := by assumption) (h_ain : may .ain := by assumption) (h_phantom : may .phantom := by assumption) (h_aout : may .aout := by assumption) (h_hp : may .hp := by assumption) (h_psc : may .psc := by assumption) (h_asrc : may .asrc := by assumption) (h_sap : may .sap := by assumption) (h_stew : may .stew := by assumption) (h_mbx : may .mbx := by assumption) (h_host : may .host := by assumption) (h_chain : may .chain := by assumption) (h_lsn : may .lsn := by assumption) (h_gauge : may .gauge := by assumption) (h_sec : may .sec := by assumption) (h_pwr : may .pwr := by assumption) (h_xing : may .xing := by assumption) :
    ∃ out, execHpUnlatch n s = .next out ∧ Kept lb may s0 out := by
  refine ⟨_, rfl, ?_⟩
  repeat' (first
    | with_reducible assumption
    | with_reducible intro v
    | exact ‹Low _ _›.of_le (by decide)
    | exact ‹Low _ _›.of_le (Nat.zero_le _)
    | with_reducible apply access_kept
)

theorem execPscUnlatch_kept {lb : Nat} {may : Part → Prop} {s0 s : State} (k : Fin 8) (h : Kept lb may s0 s) (hn : Low lb 0x0 := by exact ‹Low _ _›.up rfl) (h_free : may .free := by assumption) (h_timers : may .timers := by assumption) (h_tick : may .tick := by assumption) (h_clk : may .clk := by assumption) (h_fab : may .fab := by assumption) (h_bus : may .bus := by assumption) (h_irq : may .irq := by assumption) (h_ain : may .ain := by assumption) (h_phantom : may .phantom := by assumption) (h_aout : may .aout := by assumption) (h_hp : may .hp := by assumption) (h_psc : may .psc := by assumption) (h_asrc : may .asrc := by assumption) (h_sap : may .sap := by assumption) (h_stew : may .stew := by assumption) (h_mbx : may .mbx := by assumption) (h_host : may .host := by assumption) (h_chain : may .chain := by assumption) (h_lsn : may .lsn := by assumption) (h_gauge : may .gauge := by assumption) (h_sec : may .sec := by assumption) (h_pwr : may .pwr := by assumption) (h_xing : may .xing := by assumption) :
    ∃ out, execPscUnlatch k s = .next out ∧ Kept lb may s0 out := by
  refine ⟨_, rfl, ?_⟩
  repeat' (first
    | with_reducible assumption
    | with_reducible intro v
    | exact ‹Low _ _›.of_le (by decide)
    | exact ‹Low _ _›.of_le (Nat.zero_le _)
    | with_reducible apply access_kept
)

theorem execPscDctestRun_kept {lb : Nat} {may : Part → Prop} {s0 s : State} (k : Fin 8) (h : Kept lb may s0 s) (hn : Low lb 0x0 := by exact ‹Low _ _›.up rfl) (h_free : may .free := by assumption) (h_timers : may .timers := by assumption) (h_tick : may .tick := by assumption) (h_clk : may .clk := by assumption) (h_fab : may .fab := by assumption) (h_bus : may .bus := by assumption) (h_irq : may .irq := by assumption) (h_ain : may .ain := by assumption) (h_phantom : may .phantom := by assumption) (h_aout : may .aout := by assumption) (h_hp : may .hp := by assumption) (h_psc : may .psc := by assumption) (h_asrc : may .asrc := by assumption) (h_sap : may .sap := by assumption) (h_stew : may .stew := by assumption) (h_mbx : may .mbx := by assumption) (h_host : may .host := by assumption) (h_chain : may .chain := by assumption) (h_lsn : may .lsn := by assumption) (h_gauge : may .gauge := by assumption) (h_sec : may .sec := by assumption) (h_pwr : may .pwr := by assumption) (h_xing : may .xing := by assumption) :
    ∃ out, execPscDctestRun k s = .next out ∧ Kept lb may s0 out := by
  refine ⟨_, rfl, ?_⟩
  repeat' (first
    | with_reducible assumption
    | with_reducible intro v
    | exact ‹Low _ _›.of_le (by decide)
    | exact ‹Low _ _›.of_le (Nat.zero_le _)
    | with_reducible apply access_kept
)

theorem execChainRestart_kept {lb : Nat} {may : Part → Prop} {s0 s : State} (p : Fin 2) (h : Kept lb may s0 s) (hn : Low lb 0x0 := by exact ‹Low _ _›.up rfl) (h_free : may .free := by assumption) (h_timers : may .timers := by assumption) (h_tick : may .tick := by assumption) (h_clk : may .clk := by assumption) (h_fab : may .fab := by assumption) (h_bus : may .bus := by assumption) (h_irq : may .irq := by assumption) (h_ain : may .ain := by assumption) (h_phantom : may .phantom := by assumption) (h_aout : may .aout := by assumption) (h_hp : may .hp := by assumption) (h_psc : may .psc := by assumption) (h_asrc : may .asrc := by assumption) (h_sap : may .sap := by assumption) (h_stew : may .stew := by assumption) (h_mbx : may .mbx := by assumption) (h_host : may .host := by assumption) (h_chain : may .chain := by assumption) (h_lsn : may .lsn := by assumption) (h_gauge : may .gauge := by assumption) (h_sec : may .sec := by assumption) (h_pwr : may .pwr := by assumption) (h_xing : may .xing := by assumption) :
    ∃ out, execChainRestart p s = .next out ∧ Kept lb may s0 out := by
  refine ⟨_, rfl, ?_⟩
  repeat' (first
    | with_reducible assumption
    | with_reducible intro v
    | exact ‹Low _ _›.of_le (by decide)
    | exact ‹Low _ _›.of_le (Nat.zero_le _)
    | with_reducible apply access_kept
)

theorem execQueueTxGo_kept {lb : Nat} {may : Part → Prop} {s0 s : State} (q : Fin 2) (len : BitVec 13) (h : Kept lb may s0 s) (hn : Low lb 0x0 := by exact ‹Low _ _›.up rfl) (h_free : may .free := by assumption) (h_timers : may .timers := by assumption) (h_tick : may .tick := by assumption) (h_clk : may .clk := by assumption) (h_fab : may .fab := by assumption) (h_bus : may .bus := by assumption) (h_irq : may .irq := by assumption) (h_ain : may .ain := by assumption) (h_phantom : may .phantom := by assumption) (h_aout : may .aout := by assumption) (h_hp : may .hp := by assumption) (h_psc : may .psc := by assumption) (h_asrc : may .asrc := by assumption) (h_sap : may .sap := by assumption) (h_stew : may .stew := by assumption) (h_mbx : may .mbx := by assumption) (h_host : may .host := by assumption) (h_chain : may .chain := by assumption) (h_lsn : may .lsn := by assumption) (h_gauge : may .gauge := by assumption) (h_sec : may .sec := by assumption) (h_pwr : may .pwr := by assumption) (h_xing : may .xing := by assumption) :
    ∃ out, execQueueTxGo q len s = .next out ∧ Kept lb may s0 out := by
  refine ⟨_, rfl, ?_⟩
  repeat' (first
    | with_reducible assumption
    | with_reducible intro v
    | exact ‹Low _ _›.of_le (by decide)
    | exact ‹Low _ _›.of_le (Nat.zero_le _)
    | with_reducible apply access_kept
)

theorem execChainQueueRxRead_kept {lb : Nat} {may : Part → Prop} {s0 s : State} (q : Fin 2) (h : Kept lb may s0 s) (hn : Low lb 0x0 := by exact ‹Low _ _›.up rfl) (h_free : may .free := by assumption) (h_timers : may .timers := by assumption) (h_tick : may .tick := by assumption) (h_clk : may .clk := by assumption) (h_fab : may .fab := by assumption) (h_bus : may .bus := by assumption) (h_irq : may .irq := by assumption) (h_ain : may .ain := by assumption) (h_phantom : may .phantom := by assumption) (h_aout : may .aout := by assumption) (h_hp : may .hp := by assumption) (h_psc : may .psc := by assumption) (h_asrc : may .asrc := by assumption) (h_sap : may .sap := by assumption) (h_stew : may .stew := by assumption) (h_mbx : may .mbx := by assumption) (h_host : may .host := by assumption) (h_chain : may .chain := by assumption) (h_lsn : may .lsn := by assumption) (h_gauge : may .gauge := by assumption) (h_sec : may .sec := by assumption) (h_pwr : may .pwr := by assumption) (h_xing : may .xing := by assumption) :
    ∃ out, execChainQueueRxRead q s = .next out ∧ Kept lb may s0 out := by
  refine ⟨_, rfl, ?_⟩
  repeat' (first
    | with_reducible assumption
    | with_reducible intro v
    | exact ‹Low _ _›.of_le (by decide)
    | exact ‹Low _ _›.of_le (Nat.zero_le _)
    | with_reducible apply access_kept
)

theorem execSapMaskWrite_kept {lb : Nat} {may : Part → Prop} {s0 s : State} (n : Fin 2) (tx : Bool) (wire : Fin 4) (value : Word) (h : Kept lb may s0 s) (hn : Low lb 0x0 := by exact ‹Low _ _›.up rfl) (h_free : may .free := by assumption) (h_timers : may .timers := by assumption) (h_tick : may .tick := by assumption) (h_clk : may .clk := by assumption) (h_fab : may .fab := by assumption) (h_bus : may .bus := by assumption) (h_irq : may .irq := by assumption) (h_ain : may .ain := by assumption) (h_phantom : may .phantom := by assumption) (h_aout : may .aout := by assumption) (h_hp : may .hp := by assumption) (h_psc : may .psc := by assumption) (h_asrc : may .asrc := by assumption) (h_sap : may .sap := by assumption) (h_stew : may .stew := by assumption) (h_mbx : may .mbx := by assumption) (h_host : may .host := by assumption) (h_chain : may .chain := by assumption) (h_lsn : may .lsn := by assumption) (h_gauge : may .gauge := by assumption) (h_sec : may .sec := by assumption) (h_pwr : may .pwr := by assumption) (h_xing : may .xing := by assumption) :
    ∃ out, execSapMaskWrite n tx wire value s = .next out ∧ Kept lb may s0 out := by
  refine ⟨_, rfl, ?_⟩
  repeat' (first
    | with_reducible assumption
    | with_reducible intro v
    | exact ‹Low _ _›.of_le (by decide)
    | exact ‹Low _ _›.of_le (Nat.zero_le _)
    | with_reducible apply access_kept)

end Sys2Proof.Laws
end

