-- ==== Sys2Proof/Laws/KeptImage.lean ====
section
/-! SUPPORT. Each operation of Machine/Image.lean keeps the queue, the time and the invariant. -/

set_option Elab.async false

namespace Sys2Proof.Laws

open Sys2Proof.Machine

theorem writeTable_kept {lb : Nat} {may : Part → Prop} {s0 s : State} (L : ℕ) (b : ℕ) (t : ℕ) (pageB : Bool) (ws : List Word) (h : Kept lb may s0 s) (hn : Low lb 0x100030 := by exact ‹Low _ _›.up rfl) (h_fab : may .fab := by assumption) :
    Kept lb may s0 (State.writeTable s L b t pageB ws) := by
  unfold State.writeTable
  repeat' (first
    | with_reducible assumption
    | exact ‹Low _ _›.of_le (by decide)
    | (extract_lets +onlyGivenNames x; refine (have hx : Kept lb may s0 x := ?_; ?_); rotate_left; clear_value x; rotate_right; subst x)
    | (extract_lets +onlyGivenNames x; clear_value x)
    | with_reducible apply poolWriteShelf_kept
    | with_reducible apply putShelf_kept
    | with_reducible apply setPageDone_kept
    | with_reducible refine Kept.foldl _ _ _ ?_ fun _ _ _ => ?_
    | with_reducible refine Kept.foldl_snd _ _ _ ?_ fun _ _ _ => ?_
    | with_reducible refine Kept.foldl_fst _ _ _ ?_ fun _ _ _ => ?_
    | intro v
    | split)

theorem loadAt_kept {lb : Nat} {may : Part → Prop} {s0 s : State} (L : ℕ) (b : ℕ) (rate : ℕ) (a4 : BasinImage) (part : Bool) (h : Kept lb may s0 s) (hn : Low lb 0x4c := by exact ‹Low _ _›.up rfl) (h_fab : may .fab := by assumption) :
    Kept lb may s0 (State.loadAt s L b rate a4 part) := by
  unfold State.loadAt
  repeat' (first
    | with_reducible assumption
    | exact ‹Low _ _›.of_le (by decide)
    | (extract_lets +onlyGivenNames x; refine (have hx : Kept lb may s0 x := ?_; ?_); rotate_left; clear_value x; rotate_right; subst x)
    | (extract_lets +onlyGivenNames x; clear_value x)
    | with_reducible apply putShelf_kept
    | with_reducible apply set_kept
    | with_reducible apply loadBasin_kept)

theorem recordRefusal_kept {lb : Nat} {may : Part → Prop} {s0 s : State} (bs : List Byte) (f : Refused) (h : Kept lb may s0 s) (hn : Low lb 0x80 := by exact ‹Low _ _›.up rfl) :
    Kept lb may s0 (State.recordRefusal s bs f) := by
  unfold State.recordRefusal
  repeat' (first
    | with_reducible assumption
    | exact ‹Low _ _›.of_le (by decide)
    | (extract_lets +onlyGivenNames x; subst x)
    | with_reducible apply setNat_kept
    | with_reducible apply set_kept
    | with_reducible apply flagIf_kept)

theorem tupleNow_kept {lb : Nat} {may : Part → Prop} {s0 s : State} (t : ℕ × Word) (tc : Word) (h : Kept lb may s0 s) (hn : Low lb 0x0 := by exact ‹Low _ _›.up rfl) :
    Kept lb may s0 (State.tupleNow s t tc) := by
  unfold State.tupleNow
  repeat' (first
    | with_reducible assumption
    | exact ‹Low _ _›.up2 rfl
    | exact ‹Low _ _›.up1 rfl
    | exact ‹Low _ _›.of_le (by decide)
    | exact ‹Low _ _›.of_le (Nat.zero_le _)
    | with_reducible apply tcCheck_kept
    | with_reducible apply setWord_kept
    | with_reducible refine KeptOpt.of (by assumption) ?_
    | split)

theorem applyTuple_kept {lb : Nat} {may : Part → Prop} {s0 s : State} (t : ℕ × Word) (h : Kept lb may s0 s) (hn : Low lb 0x0 := by exact ‹Low _ _›.up rfl) (h_timers : may .timers := by assumption) (h_tick : may .tick := by assumption) (h_clk : may .clk := by assumption) (h_fab : may .fab := by assumption) (h_bus : may .bus := by assumption) (h_irq : may .irq := by assumption) (h_ain : may .ain := by assumption) (h_phantom : may .phantom := by assumption) (h_aout : may .aout := by assumption) (h_hp : may .hp := by assumption) (h_psc : may .psc := by assumption) (h_asrc : may .asrc := by assumption) (h_sap : may .sap := by assumption) (h_stew : may .stew := by assumption) (h_mbx : may .mbx := by assumption) (h_host : may .host := by assumption) (h_chain : may .chain := by assumption) (h_lsn : may .lsn := by assumption) (h_gauge : may .gauge := by assumption) (h_sec : may .sec := by assumption) (h_pwr : may .pwr := by assumption) (h_xing : may .xing := by assumption) :
    Kept lb may s0 (State.applyTuple s t) := by
  unfold State.applyTuple
  repeat' (first
    | with_reducible assumption
    | exact ‹Low _ _›.up2 rfl
    | exact ‹Low _ _›.up1 rfl
    | exact ‹Low _ _›.of_le (by decide)
    | exact ‹Low _ _›.of_le (Nat.zero_le _)
    | (extract_lets +onlyGivenNames x; subst x)
    | with_reducible apply tupleNow_kept
    | with_reducible apply setWord_kept
    | with_reducible apply writePart_kept
    | split)

theorem applyRate_kept {lb : Nat} {may : Part → Prop} {s0 s : State} (rate : ℕ) (h : Kept lb may s0 s) (hn : Low lb 0x4c := by exact ‹Low _ _›.up rfl) (h_timers : may .timers := by assumption) (h_tick : may .tick := by assumption) (h_clk : may .clk := by assumption) :
    Kept lb may s0 (State.applyRate s rate) := by
  unfold State.applyRate
  repeat' (first
    | with_reducible assumption
    | exact ‹Low _ _›.of_le (by decide)
    | with_reducible apply set_kept
    | with_reducible apply hopBegin_kept
    | with_reducible apply cancelArmed_kept
    | split)

theorem applyRoutes_kept {lb : Nat} {may : Part → Prop} {s0 s : State} (rate : ℕ) (rs : List (ℕ × Word)) (h : Kept lb may s0 s) (hn : Low lb 0x110000 := by exact ‹Low _ _›.up rfl) :
    Kept lb may s0 (State.applyRoutes s rate rs) := by
  unfold State.applyRoutes
  repeat' (first
    | with_reducible assumption
    | exact ‹Low _ _›.up1 rfl
    | exact ‹Low _ _›.of_le (by decide)
    | (extract_lets +onlyGivenNames x; subst x)
    | with_reducible apply setWord_kept
    | with_reducible apply flag_kept
    | with_reducible apply Kept.foldl
    | with_reducible apply Kept.foldl_snd
    | with_reducible apply Kept.foldl_fst
    | intro v
    | split)

theorem applyFull_kept {lb : Nat} {may : Part → Prop} {s0 s : State} (bs : List Byte) (h : Kept lb may s0 s) (hn : Low lb 0x0 := by exact ‹Low _ _›.up rfl) (h_timers : may .timers := by assumption) (h_tick : may .tick := by assumption) (h_clk : may .clk := by assumption) (h_fab : may .fab := by assumption) (h_bus : may .bus := by assumption) (h_irq : may .irq := by assumption) (h_ain : may .ain := by assumption) (h_phantom : may .phantom := by assumption) (h_aout : may .aout := by assumption) (h_hp : may .hp := by assumption) (h_psc : may .psc := by assumption) (h_asrc : may .asrc := by assumption) (h_sap : may .sap := by assumption) (h_stew : may .stew := by assumption) (h_mbx : may .mbx := by assumption) (h_host : may .host := by assumption) (h_chain : may .chain := by assumption) (h_lsn : may .lsn := by assumption) (h_gauge : may .gauge := by assumption) (h_sec : may .sec := by assumption) (h_pwr : may .pwr := by assumption) (h_xing : may .xing := by assumption) :
    Kept lb may s0 (State.applyFull s bs) := by
  unfold State.applyFull
  repeat' (first
    | with_reducible assumption
    | exact ‹Low _ _›.up1 rfl
    | exact ‹Low _ _›.of_le (by decide)
    | exact ‹Low _ _›.of_le (Nat.zero_le _)
    | (extract_lets +onlyGivenNames x; refine (have hx : Kept lb may s0 x := ?_; ?_); rotate_left; clear_value x; rotate_right; subst x)
    | (extract_lets +onlyGivenNames x; clear_value x)
    | with_reducible apply setStew_kept
    | with_reducible apply applyRoutes_kept
    | with_reducible apply set_kept
    | with_reducible apply applyRate_kept
    | with_reducible apply applyReserves_kept
    | with_reducible apply applyTuple_kept
    | with_reducible apply mapBasin_kept
    | with_reducible apply setNat_kept
    | with_reducible apply loadAt_kept
    | with_reducible apply writeTable_kept
    | with_reducible apply storeTemplate_kept
    | with_reducible apply zeroRegion_kept
    | with_reducible apply decisionDue_kept
    | with_reducible apply setMbx_kept
    | with_reducible apply imageApplied_kept
    | with_reducible apply followAll_kept
    | with_reducible refine Kept.foldl _ _ _ ?_ fun _ _ _ => ?_
    | with_reducible refine Kept.foldl_snd _ _ _ ?_ fun _ _ _ => ?_
    | with_reducible refine Kept.foldl_fst _ _ _ ?_ fun _ _ _ => ?_
    | intro v
    | split)

theorem imageStage_kept {lb : Nat} {may : Part → Prop} {s0 s : State} (cyc : ℕ) (t : ℕ × Word) (h : Kept lb may s0 s) (hn : Low lb 0x5c := by exact ‹Low _ _›.up rfl) (h_tick : may .tick := by assumption) (h_bus : may .bus := by assumption) :
    Kept lb may s0 (State.imageStage s cyc t) := by
  unfold State.imageStage
  repeat' (first
    | with_reducible assumption
    | exact ‹Low _ _›.of_le (by decide)
    | with_reducible apply tcWrite_kept
)

theorem handOverStart_kept {lb : Nat} {may : Part → Prop} {s0 s : State} (cyc : ℕ) (id : ℕ) (a3 : BasinImage) (h : Kept lb may s0 s) (hn : Low lb 0x4c := by exact ‹Low _ _›.up rfl) (h_tick : may .tick := by assumption) (h_fab : may .fab := by assumption) (h_bus : may .bus := by assumption) (h_mbx : may .mbx := by assumption) :
    Kept lb may s0 (State.handOverStart s cyc id a3) := by
  unfold State.handOverStart
  repeat' (first
    | with_reducible assumption
    | exact ‹Low _ _›.up2 rfl
    | exact ‹Low _ _›.up1 rfl
    | exact ‹Low _ _›.of_le (by decide)
    | (extract_lets +onlyGivenNames x; refine (have hx : Kept lb may s0 x := ?_; ?_); rotate_left; clear_value x; rotate_right; subst x)
    | (extract_lets +onlyGivenNames x; clear_value x)
    | with_reducible apply loadAt_kept
    | with_reducible apply set_kept
    | with_reducible apply zeroRegion_kept
    | with_reducible apply setWord_kept
    | with_reducible apply setChan_kept
    | with_reducible apply setMbx_kept
    | with_reducible apply imageStage_kept
    | with_reducible refine Kept.foldl _ _ _ ?_ fun _ _ _ => ?_
    | with_reducible refine Kept.foldl_snd _ _ _ ?_ fun _ _ _ => ?_
    | with_reducible refine Kept.foldl_fst _ _ _ ?_ fun _ _ _ => ?_
    | intro v
    | split)

theorem partialTable_kept {lb : Nat} {may : Part → Prop} {s0 s : State} (cyc : ℕ) (a2 : Section × List Byte) (h : Kept lb may s0 s) (hn : Low lb 0x5c := by exact ‹Low _ _›.up rfl) (h_tick : may .tick := by assumption) (h_fab : may .fab := by assumption) (h_bus : may .bus := by assumption) :
    Kept lb may s0 (State.partialTable s cyc a2) := by
  unfold State.partialTable
  repeat' (first
    | with_reducible assumption
    | exact ‹Low _ _›.of_le (by decide)
    | (extract_lets +onlyGivenNames x; refine (have hx : Kept lb may s0 x := ?_; ?_); rotate_left; clear_value x; rotate_right; subst x)
    | (extract_lets +onlyGivenNames x; clear_value x)
    | with_reducible apply writeTable_kept
    | with_reducible apply imageStage_kept
    | split)

theorem applyPartial_kept {lb : Nat} {may : Part → Prop} {s0 s : State} (cyc : ℕ) (bs : List Byte) (source : ℕ) (h : Kept lb may s0 s) (hn : Low lb 0x4c := by exact ‹Low _ _›.up rfl) (h_tick : may .tick := by assumption) (h_fab : may .fab := by assumption) (h_bus : may .bus := by assumption) (h_mbx : may .mbx := by assumption) (h_lsn : may .lsn := by assumption) :
    Kept lb may s0 (State.applyPartial s cyc bs source) := by
  unfold State.applyPartial
  repeat' (first
    | with_reducible assumption
    | exact ‹Low _ _›.of_le (by decide)
    | (extract_lets +onlyGivenNames x; subst x)
    | with_reducible apply set_kept
    | with_reducible apply imageStage_kept
    | with_reducible apply handOverStart_kept
    | with_reducible apply partialTable_kept
    | with_reducible apply storeTemplate_kept
    | with_reducible apply setNat_kept
    | with_reducible apply commitGo_kept
    | with_reducible apply Kept.foldl
    | with_reducible apply Kept.foldl_snd
    | with_reducible apply Kept.foldl_fst
    | intro v
    | split)

theorem unloadFabric_kept {lb : Nat} {may : Part → Prop} {s0 s : State} (h : Kept lb may s0 s) (hn : Low lb 0x100000 := by exact ‹Low _ _›.up rfl) (h_fab : may .fab := by assumption) :
    Kept lb may s0 (State.unloadFabric s) := by
  unfold State.unloadFabric
  repeat' (first
    | with_reducible assumption
    | exact ‹Low _ _›.up1 rfl
    | exact ‹Low _ _›.of_le (by decide)
    | (extract_lets +onlyGivenNames x; refine (have hx : Kept lb may s0 x := ?_; ?_); rotate_left; clear_value x; rotate_right; subst x)
    | (extract_lets +onlyGivenNames x; subst x)
    | with_reducible apply setWord_kept
    | with_reducible apply chanIdle_kept
    | with_reducible apply freeBasin_kept
    | with_reducible apply setFab_kept
    | with_reducible refine Kept.foldl _ _ _ ?_ fun _ _ _ => ?_
    | with_reducible refine Kept.foldl_snd _ _ _ ?_ fun _ _ _ => ?_
    | with_reducible refine Kept.foldl_fst _ _ _ ?_ fun _ _ _ => ?_
    | intro v
    | split
    | (fail_if_no_progress beta_reduce)
    | rfl)

theorem imageEnd_kept {lb : Nat} {may : Part → Prop} {s0 s : State} (port : MbxPort) (bs : List Byte) (f : Option Refused) (h : Kept lb may s0 s) (hn : Low lb 0x80 := by exact ‹Low _ _›.up rfl) (h_irq : may .irq := by assumption) (h_mbx : may .mbx := by assumption) :
    Kept lb may s0 (State.imageEnd s port bs f) := by
  unfold State.imageEnd
  repeat' (first
    | with_reducible assumption
    | exact ‹Low _ _›.of_le (by decide)
    | (extract_lets +onlyGivenNames x; subst x)
    | with_reducible apply complete_kept
    | with_reducible apply recordRefusal_kept
    | split)

theorem writeHeader_kept {lb : Nat} {may : Part → Prop} {s0 s : State} (a : List Byte) (b : List Byte) (h : Kept lb may s0 s) (h_flash : may .flash := by assumption) :
    Kept lb may s0 (State.writeHeader s a b) := by
  unfold State.writeHeader
  repeat' (first
    | with_reducible assumption
    | with_reducible apply flashProgram_kept
    | with_reducible apply flashErase_kept
)

theorem setDesc_kept {lb : Nat} {may : Part → Prop} {s0 s : State} (b : Bool) (state : ℕ) (h : Kept lb may s0 s) (h_flash : may .flash := by assumption) :
    Kept lb may s0 (State.setDesc s b state) := by
  unfold State.setDesc
  repeat' (first
    | with_reducible assumption
    | with_reducible apply flashProgram_kept
)

theorem flashEnd_kept {lb : Nat} {may : Part → Prop} {s0 s : State} (j : FlashJob) (f : Option Refused) (h : Kept lb may s0 s) (hn : Low lb 0x80 := by exact ‹Low _ _›.up rfl) (h_irq : may .irq := by assumption) (h_mbx : may .mbx := by assumption) :
    Kept lb may s0 (State.flashEnd s j f) := by
  unfold State.flashEnd
  repeat' (first
    | with_reducible assumption
    | exact ‹Low _ _›.of_le (by decide)
    | (extract_lets +onlyGivenNames x; clear_value x)
    | with_reducible apply imageEnd_kept
    | with_reducible apply setMbx_kept)

theorem flashStep_kept {lb : Nat} {may : Part → Prop} {s0 s : State} (h : Kept lb may s0 s) (hn : Low lb 0x80 := by exact ‹Low _ _›.up rfl) (h_fab : may .fab := by assumption) (h_irq : may .irq := by assumption) (h_mbx : may .mbx := by assumption) (h_flash : may .flash := by assumption) :
    Kept lb may s0 (State.flashStep s) := by
  unfold State.flashStep
  repeat' (first
    | with_reducible assumption
    | exact ‹Low _ _›.of_le (by decide)
    | (extract_lets +onlyGivenNames x; subst x; beta_reduce)
    | with_reducible apply setMbx_kept
    | with_reducible apply flashEnd_kept
    | with_reducible apply flashProgram_kept
    | with_reducible apply flashErase_kept
    | with_reducible apply unloadFabric_kept
    | intro v
    | split)

theorem loadSlot_kept {lb : Nat} {may : Part → Prop} {s0 s : State} (b : Bool) (h : Kept lb may s0 s) (hn : Low lb 0x0 := by exact ‹Low _ _›.up rfl) (h_timers : may .timers := by assumption) (h_tick : may .tick := by assumption) (h_clk : may .clk := by assumption) (h_fab : may .fab := by assumption) (h_bus : may .bus := by assumption) (h_irq : may .irq := by assumption) (h_ain : may .ain := by assumption) (h_phantom : may .phantom := by assumption) (h_aout : may .aout := by assumption) (h_hp : may .hp := by assumption) (h_psc : may .psc := by assumption) (h_asrc : may .asrc := by assumption) (h_sap : may .sap := by assumption) (h_stew : may .stew := by assumption) (h_mbx : may .mbx := by assumption) (h_host : may .host := by assumption) (h_chain : may .chain := by assumption) (h_lsn : may .lsn := by assumption) (h_gauge : may .gauge := by assumption) (h_sec : may .sec := by assumption) (h_pwr : may .pwr := by assumption) (h_xing : may .xing := by assumption) :
    Kept lb may s0 (State.loadSlot s b).1 := by
  delta State.loadSlot
  repeat' (first
    | with_reducible assumption
    | exact ‹Low _ _›.of_le (by decide)
    | exact ‹Low _ _›.of_le (Nat.zero_le _)
    | (extract_lets +onlyGivenNames x; subst x)
    | with_reducible apply recordRefusal_kept
    | with_reducible apply set_kept
    | with_reducible apply applyFull_kept
    | split)

theorem setSlotReason_kept {lb : Nat} {may : Part → Prop} {s0 s : State} (b : Bool) (r : ℕ) (h : Kept lb may s0 s) (hn : Low lb 0x90 := by exact ‹Low _ _›.up rfl) :
    Kept lb may s0 (State.setSlotReason s b r) := by
  unfold State.setSlotReason
  repeat' (first
    | with_reducible assumption
    | exact ‹Low _ _›.of_le (by decide)
    | with_reducible apply set_kept
    | split)

theorem trySlots_kept {lb : Nat} {may : Part → Prop} {s0 s : State} (bs : List Bool) (h : Kept lb may s0 s) (hn : Low lb 0x0 := by exact ‹Low _ _›.up rfl) (h_timers : may .timers := by assumption) (h_tick : may .tick := by assumption) (h_clk : may .clk := by assumption) (h_fab : may .fab := by assumption) (h_bus : may .bus := by assumption) (h_irq : may .irq := by assumption) (h_ain : may .ain := by assumption) (h_phantom : may .phantom := by assumption) (h_aout : may .aout := by assumption) (h_hp : may .hp := by assumption) (h_psc : may .psc := by assumption) (h_asrc : may .asrc := by assumption) (h_sap : may .sap := by assumption) (h_stew : may .stew := by assumption) (h_mbx : may .mbx := by assumption) (h_host : may .host := by assumption) (h_chain : may .chain := by assumption) (h_lsn : may .lsn := by assumption) (h_gauge : may .gauge := by assumption) (h_flash : may .flash := by assumption) (h_sec : may .sec := by assumption) (h_pwr : may .pwr := by assumption) (h_xing : may .xing := by assumption) : Kept lb may s0 (State.trySlots bs s) := by
  induction bs generalizing s with
  | nil => exact h
  | cons b bs ih =>
    rw [State.trySlots]
    have k := loadSlot_kept b (s := if s.descState b == dsTRIAL then s.setDesc b dsATTEMPT else s)
      (iteInduction (fun _ => setDesc_kept _ _ h) fun _ => h)
    generalize (if s.descState b == dsTRIAL then s.setDesc b dsATTEMPT else s).loadSlot b = p at k ⊢
    obtain ⟨u, _ | r⟩ := p
    · exact set_kept _ _ (set_kept _ _ k)
    · exact ih (setSlotReason_kept _ _ (setDesc_kept _ _ k))

theorem scanSlots_kept {lb : Nat} {may : Part → Prop} {s0 s : State} (bs : List Bool) (h : Kept lb may s0 s) (hn : Low lb 0x0 := by exact ‹Low _ _›.up rfl) (h_timers : may .timers := by assumption) (h_tick : may .tick := by assumption) (h_clk : may .clk := by assumption) (h_fab : may .fab := by assumption) (h_bus : may .bus := by assumption) (h_irq : may .irq := by assumption) (h_ain : may .ain := by assumption) (h_phantom : may .phantom := by assumption) (h_aout : may .aout := by assumption) (h_hp : may .hp := by assumption) (h_psc : may .psc := by assumption) (h_asrc : may .asrc := by assumption) (h_sap : may .sap := by assumption) (h_stew : may .stew := by assumption) (h_mbx : may .mbx := by assumption) (h_host : may .host := by assumption) (h_chain : may .chain := by assumption) (h_lsn : may .lsn := by assumption) (h_gauge : may .gauge := by assumption) (h_flash : may .flash := by assumption) (h_sec : may .sec := by assumption) (h_pwr : may .pwr := by assumption) (h_xing : may .xing := by assumption) : Kept lb may s0 (State.scanSlots bs s) := by
  induction bs generalizing s with
  | nil => exact h
  | cons b bs ih =>
    rw [State.scanSlots]
    have k := loadSlot_kept b h
    generalize s.loadSlot b = p at k ⊢
    obtain ⟨u, _ | r⟩ := p
    · exact set_kept _ _ (iteInduction (fun _ => writeHeader_kept _ _ k) fun _ => writeHeader_kept _ _ k)
    · exact ih (setSlotReason_kept _ _ k)

theorem bootSlots_kept {lb : Nat} {may : Part → Prop} {s0 s : State} (h : Kept lb may s0 s) (hn : Low lb 0x0 := by exact ‹Low _ _›.up rfl) (h_timers : may .timers := by assumption) (h_tick : may .tick := by assumption) (h_clk : may .clk := by assumption) (h_fab : may .fab := by assumption) (h_bus : may .bus := by assumption) (h_irq : may .irq := by assumption) (h_ain : may .ain := by assumption) (h_phantom : may .phantom := by assumption) (h_aout : may .aout := by assumption) (h_hp : may .hp := by assumption) (h_psc : may .psc := by assumption) (h_asrc : may .asrc := by assumption) (h_sap : may .sap := by assumption) (h_stew : may .stew := by assumption) (h_mbx : may .mbx := by assumption) (h_host : may .host := by assumption) (h_chain : may .chain := by assumption) (h_lsn : may .lsn := by assumption) (h_gauge : may .gauge := by assumption) (h_flash : may .flash := by assumption) (h_sec : may .sec := by assumption) (h_pwr : may .pwr := by assumption) (h_xing : may .xing := by assumption) :
    Kept lb may s0 (State.bootSlots s) := by
  unfold State.bootSlots
  repeat' (first
    | with_reducible assumption
    | exact ‹Low _ _›.of_le (by decide)
    | exact ‹Low _ _›.of_le (Nat.zero_le _)
    | (extract_lets +onlyGivenNames x; refine (have hx : Kept lb may s0 x := ?_; ?_); rotate_left; clear_value x; rotate_right; subst x)
    | with_reducible apply set_kept
    | with_reducible apply scanSlots_kept
    | with_reducible apply setDesc_kept
    | with_reducible apply trySlots_kept
    | with_reducible refine Kept.foldl _ _ _ ?_ fun _ _ _ => ?_
    | with_reducible refine Kept.foldl_snd _ _ _ ?_ fun _ _ _ => ?_
    | with_reducible refine Kept.foldl_fst _ _ _ ?_ fun _ _ _ => ?_
    | intro v
    | split)

theorem confirmSlot_kept {lb : Nat} {may : Part → Prop} {s0 s : State} (h : Kept lb may s0 s) (hn : Low lb 0x8c := by exact ‹Low _ _›.up rfl) (h_flash : may .flash := by assumption) :
    Kept lb may s0 (State.confirmSlot s) := by
  unfold State.confirmSlot
  repeat' (first
    | with_reducible assumption
    | exact ‹Low _ _›.of_le (by decide)
    | (extract_lets +onlyGivenNames x; subst x)
    | with_reducible apply set_kept
    | with_reducible apply setDesc_kept
    | split)

theorem shelfRewrite_kept {lb : Nat} {may : Part → Prop} {s0 s : State} (L : ℕ) (h : Kept lb may s0 s) (hn : Low lb 0x0 := by exact ‹Low _ _›.up rfl) (h_timers : may .timers := by assumption) (h_fab : may .fab := by assumption) (h_irq : may .irq := by assumption) (h_aout : may .aout := by assumption) (h_hp : may .hp := by assumption) (h_psc : may .psc := by assumption) (h_stew : may .stew := by assumption) (h_mbx : may .mbx := by assumption) :
    Kept lb may s0 (State.shelfRewrite s L) := by
  unfold State.shelfRewrite
  repeat' (first
    | with_reducible assumption
    | exact ‹Low _ _›.up1 rfl
    | exact ‹Low _ _›.of_le (by decide)
    | exact ‹Low _ _›.of_le (Nat.zero_le _)
    | (extract_lets +onlyGivenNames x; refine (have hx : Kept lb may s0 x := ?_; ?_); rotate_left; clear_value x; rotate_right; subst x)
    | with_reducible apply putShelf_kept
    | with_reducible apply reloadHandle_kept
    | with_reducible apply relocNext_kept
    | with_reducible apply set_kept
    | split)

theorem execShelfRewrite_kept {lb : Nat} {may : Part → Prop} {s0 s : State} (L : Fin 10) (h : Kept lb may s0 s) (hn : Low lb 0x0 := by exact ‹Low _ _›.up rfl) (h_timers : may .timers := by assumption) (h_fab : may .fab := by assumption) (h_irq : may .irq := by assumption) (h_aout : may .aout := by assumption) (h_hp : may .hp := by assumption) (h_psc : may .psc := by assumption) (h_stew : may .stew := by assumption) (h_mbx : may .mbx := by assumption) :
    ∃ out, execShelfRewrite L s = .next out ∧ Kept lb may s0 out := by
  refine ⟨_, rfl, ?_⟩
  repeat' (first
    | with_reducible assumption
    | with_reducible intro v
    | exact ‹Low _ _›.of_le (by decide)
    | with_reducible apply shelfRewrite_kept
)

theorem execConfirmOnLive_kept {lb : Nat} {may : Part → Prop} {s0 s : State} (h : Kept lb may s0 s) (hn : Low lb 0x8c := by exact ‹Low _ _›.up rfl) (h_flash : may .flash := by assumption) :
    ∃ out, execConfirmOnLive s = .next out ∧ Kept lb may s0 out := by
  refine ⟨_, rfl, ?_⟩
  repeat' (first
    | with_reducible assumption
    | with_reducible intro v
    | exact ‹Low _ _›.of_le (by decide)
    | with_reducible apply confirmSlot_kept
    | split)

theorem execImageBufferTimeout_kept {lb : Nat} {may : Part → Prop} {s0 s : State} (h : Kept lb may s0 s) (h_mbx : may .mbx := by assumption) :
    ∃ out, execImageBufferTimeout s = .next out ∧ Kept lb may s0 out := by
  refine ⟨_, rfl, ?_⟩
  repeat' (first
    | with_reducible assumption
    | with_reducible intro v
    | (extract_lets +onlyGivenNames x; subst x)
    | with_reducible apply setMbx_kept
    | split)

end Sys2Proof.Laws
end

