-- ==== Sys2Proof/Laws/KeptMailbox.lean ====
section
/-! SUPPORT. Each operation of Machine/Mailbox.lean keeps the queue, the time and the invariant. -/

set_option Elab.async false

namespace Sys2Proof.Laws

open Sys2Proof.Machine

/-- A reply keeps with its state and with what it does later. -/
structure KeptReply (lb : Nat) (may : Part → Prop) (s0 : State) (r : Reply) : Prop where
  s : Kept lb may s0 r.s
  later : ∀ u, Kept lb may s0 u → Kept lb may s0 (r.later u)

theorem KeptReply.at_once {lb : Nat} {may : Part → Prop} {s0 s : State} (st : ℕ) (p : List Byte) (h : Kept lb may s0 s) : KeptReply lb may s0 { s := s, status := st, payload := p } :=
  ⟨h, fun _ hu => hu⟩

theorem respond_kept {lb : Nat} {may : Part → Prop} {s0 s : State} (port : MbxPort) (code : ℕ) (status : ℕ) (payload : List Byte) (h : Kept lb may s0 s) (hn : Low lb 0x5001c := by exact ‹Low _ _›.up rfl) (h_mbx : may .mbx := by assumption) (h_host : may .host := by assumption) :
    Kept lb may s0 (State.respond s port code status payload) := by
  unfold State.respond
  repeat' (first
    | with_reducible assumption
    | exact ‹Low _ _›.of_le (by decide)
    | (extract_lets +onlyGivenNames x; subst x)
    | with_reducible apply set_kept
    | with_reducible apply setHost_kept
    | with_reducible apply setMbx_kept
    | split
    | (fail_if_no_progress beta_reduce)
    | rfl)

theorem sendResponses_kept {lb : Nat} {may : Part → Prop} {s0 s : State} (h : Kept lb may s0 s) (h_mbx : may .mbx := by assumption) (h_chain : may .chain := by assumption) :
    Kept lb may s0 (State.sendResponses s) := by
  unfold State.sendResponses
  repeat' (first
    | with_reducible assumption
    | (extract_lets +onlyGivenNames x; subst x)
    | with_reducible apply sendMsg_kept
    | with_reducible apply setMbx_kept
    | with_reducible apply Kept.foldl
    | with_reducible apply Kept.foldl_snd
    | with_reducible apply Kept.foldl_fst
    | intro v)

theorem noteRefused_kept {lb : Nat} {may : Part → Prop} {s0 s : State} (code : ℕ) (st : ℕ) (p : List Byte) (h : Kept lb may s0 s) (hn : Low lb 0x80 := by exact ‹Low _ _›.up rfl) :
    Kept lb may s0 (State.noteRefused s code st p) := by
  unfold State.noteRefused
  repeat' (first
    | with_reducible assumption
    | exact ‹Low _ _›.of_le (by decide)
    | with_reducible apply flag_kept
    | with_reducible apply setNat_kept
    | with_reducible apply set_kept
    | split)

theorem request_kept {lb : Nat} {may : Part → Prop} {s0 s : State} (snd : Sender) (code : ℕ) (lenOk : Bool) (p : List Byte) (body : Sender → List Byte → State → Reply)
    (hbody : ∀ x p u, Kept lb may s0 u → KeptReply lb may s0 (body x p u)) (h : Kept lb may s0 s) (hn : Low lb 0x80 := by exact ‹Low _ _›.up rfl) (h_mbx : may .mbx := by assumption) (h_host : may .host := by assumption) : Kept lb may s0 (State.request s snd code lenOk p body) := by
  unfold State.request
  split
  · exact respond_kept _ _ _ _ (noteRefused_kept _ _ _ h)
  · exact iteInduction (fun _ => (hbody snd p s h).later _ (respond_kept _ _ _ _ (hbody snd p s h).s)) fun _ => (hbody snd p s h).s


theorem bodyGetInfo_kept {lb : Nat} {may : Part → Prop} {s0 s : State} (a0 : Sender) (a1 : List Byte) (h : Kept lb may s0 s) :
    KeptReply lb may s0 (bodyGetInfo a0 a1 s) := by
  unfold bodyGetInfo
  repeat' (first
    | with_reducible assumption
    | (extract_lets +onlyGivenNames x; subst x)
    | with_reducible refine KeptReply.at_once _ _ ?_)

theorem bodyGetState_kept {lb : Nat} {may : Part → Prop} {s0 s : State} (a0 : Sender) (a1 : List Byte) (h : Kept lb may s0 s) :
    KeptReply lb may s0 (bodyGetState a0 a1 s) := by
  unfold bodyGetState
  repeat' (first
    | with_reducible assumption
    | with_reducible refine KeptReply.at_once _ _ ?_)

theorem burst_kept {lb : Nat} {may : Part → Prop} {s0 s : State} (b : Burst) (h : Kept lb may s0 s) (hn : Low lb 0x0 := by exact ‹Low _ _›.up rfl) (h_free : may .free := by assumption) (h_timers : may .timers := by assumption) (h_tick : may .tick := by assumption) (h_clk : may .clk := by assumption) (h_fab : may .fab := by assumption) (h_bus : may .bus := by assumption) (h_irq : may .irq := by assumption) (h_ain : may .ain := by assumption) (h_phantom : may .phantom := by assumption) (h_aout : may .aout := by assumption) (h_hp : may .hp := by assumption) (h_psc : may .psc := by assumption) (h_asrc : may .asrc := by assumption) (h_sap : may .sap := by assumption) (h_stew : may .stew := by assumption) (h_mbx : may .mbx := by assumption) (h_host : may .host := by assumption) (h_chain : may .chain := by assumption) (h_lsn : may .lsn := by assumption) (h_gauge : may .gauge := by assumption) (h_ram : may .ram := by assumption) (h_sec : may .sec := by assumption) (h_pwr : may .pwr := by assumption) (h_xing : may .xing := by assumption) : KeptReply lb may s0 (State.burst s b) := by
  unfold State.burst
  extract_lets _ t
  have ht : Kept lb may s0 t := arbiter_kept (setMbx_kept _ h)
  clear_value t
  split
  · split
    · exact .at_once _ _ (setMbx_kept _ ht)
    · exact ⟨ht, fun _ hu => hu⟩
  · exact .at_once _ _ ht


theorem bodyRegRead_kept {lb : Nat} {may : Part → Prop} {s0 s : State} (snd : Sender) (p : List Byte) (h : Kept lb may s0 s) (hn : Low lb 0x0 := by exact ‹Low _ _›.up rfl) (h_free : may .free := by assumption) (h_timers : may .timers := by assumption) (h_tick : may .tick := by assumption) (h_clk : may .clk := by assumption) (h_fab : may .fab := by assumption) (h_bus : may .bus := by assumption) (h_irq : may .irq := by assumption) (h_ain : may .ain := by assumption) (h_phantom : may .phantom := by assumption) (h_aout : may .aout := by assumption) (h_hp : may .hp := by assumption) (h_psc : may .psc := by assumption) (h_asrc : may .asrc := by assumption) (h_sap : may .sap := by assumption) (h_stew : may .stew := by assumption) (h_mbx : may .mbx := by assumption) (h_host : may .host := by assumption) (h_chain : may .chain := by assumption) (h_lsn : may .lsn := by assumption) (h_gauge : may .gauge := by assumption) (h_ram : may .ram := by assumption) (h_sec : may .sec := by assumption) (h_pwr : may .pwr := by assumption) (h_xing : may .xing := by assumption) : KeptReply lb may s0 (bodyRegRead snd p s) :=
  burst_kept _ h


theorem bodyRegWrite_kept {lb : Nat} {may : Part → Prop} {s0 s : State} (snd : Sender) (p : List Byte) (h : Kept lb may s0 s) (hn : Low lb 0x0 := by exact ‹Low _ _›.up rfl) (h_free : may .free := by assumption) (h_timers : may .timers := by assumption) (h_tick : may .tick := by assumption) (h_clk : may .clk := by assumption) (h_fab : may .fab := by assumption) (h_bus : may .bus := by assumption) (h_irq : may .irq := by assumption) (h_ain : may .ain := by assumption) (h_phantom : may .phantom := by assumption) (h_aout : may .aout := by assumption) (h_hp : may .hp := by assumption) (h_psc : may .psc := by assumption) (h_asrc : may .asrc := by assumption) (h_sap : may .sap := by assumption) (h_stew : may .stew := by assumption) (h_mbx : may .mbx := by assumption) (h_host : may .host := by assumption) (h_chain : may .chain := by assumption) (h_lsn : may .lsn := by assumption) (h_gauge : may .gauge := by assumption) (h_ram : may .ram := by assumption) (h_sec : may .sec := by assumption) (h_pwr : may .pwr := by assumption) (h_xing : may .xing := by assumption) : KeptReply lb may s0 (bodyRegWrite snd p s) :=
  burst_kept _ h


theorem bodyReset_kept {lb : Nat} {may : Part → Prop} {s0 s : State} (a0 : Sender) (a1 : List Byte) (h : Kept lb may s0 s) (h_pwr : may .pwr := by assumption) :
    KeptReply lb may s0 (bodyReset a0 a1 s) := by
  unfold bodyReset
  repeat' (first
    | with_reducible assumption
    | (extract_lets +onlyGivenNames x; subst x)
    | with_reducible apply setPwr_kept
    | with_reducible refine KeptReply.at_once _ _ ?_)

theorem bodyGoLive_kept {lb : Nat} {may : Part → Prop} {s0 s : State} (snd : Sender) (a1 : List Byte) (h : Kept lb may s0 s) (hn : Low lb 0xa4 := by exact ‹Low _ _›.up rfl) (h_irq : may .irq := by assumption) (h_mbx : may .mbx := by assumption) :
    KeptReply lb may s0 (bodyGoLive snd a1 s) := by
  unfold bodyGoLive
  repeat' (first
    | with_reducible assumption
    | exact ‹Low _ _›.of_le (by decide)
    | (extract_lets +onlyGivenNames x; subst x)
    | with_reducible apply complete_kept
    | with_reducible apply setMbx_kept
    | split
    | with_reducible refine KeptReply.at_once _ _ ?_
    | with_reducible refine KeptReply.mk ?_ (fun u hu => ?_))

theorem bodyGoLoaded_kept {lb : Nat} {may : Part → Prop} {s0 s : State} (snd : Sender) (a1 : List Byte) (h : Kept lb may s0 s) (hn : Low lb 0xa0 := by exact ‹Low _ _›.up rfl) (h_timers : may .timers := by assumption) (h_irq : may .irq := by assumption) (h_aout : may .aout := by assumption) (h_hp : may .hp := by assumption) (h_psc : may .psc := by assumption) (h_mbx : may .mbx := by assumption) :
    KeptReply lb may s0 (bodyGoLoaded snd a1 s) := by
  unfold bodyGoLoaded
  repeat' (first
    | with_reducible assumption
    | exact ‹Low _ _›.of_le (by decide)
    | (extract_lets +onlyGivenNames x; clear_value x)
    | with_reducible apply followParking_kept
    | with_reducible apply safeUnpark_kept
    | with_reducible apply setSvc_kept
    | with_reducible apply setMbx_kept
    | with_reducible apply liveSettle_kept
    | with_reducible refine KeptReply.at_once _ _ ?_
    | with_reducible refine KeptReply.mk ?_ (fun u hu => ?_))

theorem bodyUnload_kept {lb : Nat} {may : Part → Prop} {s0 s : State} (a0 : Sender) (a1 : List Byte) (h : Kept lb may s0 s) (hn : Low lb 0x88 := by exact ‹Low _ _›.up rfl) (h_timers : may .timers := by assumption) (h_fab : may .fab := by assumption) (h_aout : may .aout := by assumption) (h_hp : may .hp := by assumption) (h_psc : may .psc := by assumption) (h_mbx : may .mbx := by assumption) :
    KeptReply lb may s0 (bodyUnload a0 a1 s) := by
  unfold bodyUnload
  repeat' (first
    | with_reducible assumption
    | exact ‹Low _ _›.up1 rfl
    | exact ‹Low _ _›.of_le (by decide)
    | (extract_lets +onlyGivenNames x; subst x)
    | with_reducible apply unloadFabric_kept
    | with_reducible apply setMbx_kept
    | with_reducible apply setWord_kept
    | with_reducible apply enterBare_kept
    | with_reducible apply setNat_kept
    | with_reducible refine KeptReply.at_once _ _ ?_
    | with_reducible refine KeptReply.mk ?_ (fun u hu => ?_)
    | with_reducible apply Kept.foldl
    | with_reducible apply Kept.foldl_snd
    | with_reducible apply Kept.foldl_fst
    | intro v)

theorem bodyEnterSafe_kept {lb : Nat} {may : Part → Prop} {s0 s : State} (a0 : Sender) (a1 : List Byte) (h : Kept lb may s0 s) (hn : Low lb 0xa0 := by exact ‹Low _ _›.up rfl) (h_timers : may .timers := by assumption) (h_fab : may .fab := by assumption) (h_irq : may .irq := by assumption) (h_aout : may .aout := by assumption) (h_hp : may .hp := by assumption) (h_psc : may .psc := by assumption) (h_mbx : may .mbx := by assumption) :
    KeptReply lb may s0 (bodyEnterSafe a0 a1 s) := by
  unfold bodyEnterSafe
  repeat' (first
    | with_reducible assumption
    | exact ‹Low _ _›.of_le (by decide)
    | with_reducible apply enterSafe_kept
    | with_reducible refine KeptReply.at_once _ _ ?_)

theorem bodyCommit_kept {lb : Nat} {may : Part → Prop} {s0 s : State} (snd : Sender) (a1 : List Byte) (h : Kept lb may s0 s) (hn : Low lb 0x5c := by exact ‹Low _ _›.up rfl) (h_tick : may .tick := by assumption) :
    KeptReply lb may s0 (bodyCommit snd a1 s) := by
  unfold bodyCommit
  repeat' (first
    | with_reducible assumption
    | exact ‹Low _ _›.of_le (by decide)
    | (extract_lets +onlyGivenNames x; subst x)
    | with_reducible apply commitGo_kept
    | split
    | with_reducible refine KeptReply.at_once _ _ ?_)

theorem bodyCommitAt_kept {lb : Nat} {may : Part → Prop} {s0 s : State} (snd : Sender) (p : List Byte) (h : Kept lb may s0 s) (hn : Low lb 0x54 := by exact ‹Low _ _›.up rfl) (h_tick : may .tick := by assumption) :
    KeptReply lb may s0 (bodyCommitAt snd p s) := by
  unfold bodyCommitAt
  repeat' (first
    | with_reducible assumption
    | exact ‹Low _ _›.of_le (by decide)
    | (extract_lets +onlyGivenNames x; subst x)
    | with_reducible apply armWrite_kept
    | with_reducible apply set_kept
    | split
    | with_reducible refine KeptReply.at_once _ _ ?_)

theorem bodyCommitCancel_kept {lb : Nat} {may : Part → Prop} {s0 s : State} (a0 : Sender) (a1 : List Byte) (h : Kept lb may s0 s) (hn : Low lb 0x5c := by exact ‹Low _ _›.up rfl) (h_tick : may .tick := by assumption) :
    KeptReply lb may s0 (bodyCommitCancel a0 a1 s) := by
  unfold bodyCommitCancel
  repeat' (first
    | with_reducible assumption
    | exact ‹Low _ _›.of_le (by decide)
    | with_reducible apply cancelArmed_kept
    | with_reducible refine KeptReply.at_once _ _ ?_)

theorem stageHold_kept {lb : Nat} {may : Part → Prop} {s0 s : State} (snd : Sender) (L : ℕ) (hold : Bool) (h : Kept lb may s0 s) (hn : Low lb 0x5c := by exact ‹Low _ _›.up rfl) (h_tick : may .tick := by assumption) (h_bus : may .bus := by assumption) :
    KeptReply lb may s0 (State.stageHold s snd L hold) := by
  unfold State.stageHold
  repeat' (first
    | with_reducible assumption
    | exact ‹Low _ _›.of_le (by decide)
    | (extract_lets +onlyGivenNames x; subst x)
    | with_reducible apply tcWrite_kept
    | split
    | with_reducible refine KeptReply.at_once _ _ ?_)

theorem bodyBasinHold_kept {lb : Nat} {may : Part → Prop} {s0 s : State} (snd : Sender) (p : List Byte) (h : Kept lb may s0 s) (hn : Low lb 0x5c := by exact ‹Low _ _›.up rfl) (h_tick : may .tick := by assumption) (h_bus : may .bus := by assumption) :
    KeptReply lb may s0 (bodyBasinHold snd p s) := by
  unfold bodyBasinHold
  repeat' (first
    | with_reducible assumption
    | exact ‹Low _ _›.of_le (by decide)
    | with_reducible apply stageHold_kept)

theorem bodyBasinResume_kept {lb : Nat} {may : Part → Prop} {s0 s : State} (snd : Sender) (p : List Byte) (h : Kept lb may s0 s) (hn : Low lb 0x5c := by exact ‹Low _ _›.up rfl) (h_tick : may .tick := by assumption) (h_bus : may .bus := by assumption) :
    KeptReply lb may s0 (bodyBasinResume snd p s) := by
  unfold bodyBasinResume
  repeat' (first
    | with_reducible assumption
    | exact ‹Low _ _›.of_le (by decide)
    | with_reducible apply stageHold_kept)

theorem bodyPoolWrite_kept {lb : Nat} {may : Part → Prop} {s0 s : State} (a0 : Sender) (p : List Byte) (h : Kept lb may s0 s) (hn : Low lb 0x100030 := by exact ‹Low _ _›.up rfl) (h_fab : may .fab := by assumption) :
    KeptReply lb may s0 (bodyPoolWrite a0 p s) := by
  unfold bodyPoolWrite
  repeat' (first
    | with_reducible assumption
    | exact ‹Low _ _›.of_le (by decide)
    | with_reducible apply poolWriteShelf_kept
    | split
    | with_reducible refine KeptReply.at_once _ _ ?_
    | with_reducible refine KeptReply.mk ?_ (fun u hu => ?_)
    | with_reducible apply Kept.foldl
    | with_reducible apply Kept.foldl_snd
    | with_reducible apply Kept.foldl_fst
    | intro v)

theorem bodyImageOpen_kept {lb : Nat} {may : Part → Prop} {s0 s : State} (snd : Sender) (p : List Byte) (h : Kept lb may s0 s) (h_mbx : may .mbx := by assumption) :
    KeptReply lb may s0 (bodyImageOpen snd p s) := by
  unfold bodyImageOpen
  repeat' (first
    | with_reducible assumption
    | (extract_lets +onlyGivenNames x; subst x)
    | with_reducible apply setMbx_kept
    | with_reducible refine KeptReply.at_once _ _ ?_)

theorem imageAppend_kept {lb : Nat} {may : Part → Prop} {s0 s : State} (bs : List Byte) (h : Kept lb may s0 s) (h_fab : may .fab := by assumption) (h_mbx : may .mbx := by assumption) :
    Kept lb may s0 (State.imageAppend s bs) := by
  unfold State.imageAppend
  repeat' (first
    | with_reducible assumption
    | (extract_lets +onlyGivenNames x; subst x)
    | with_reducible apply setMbx_kept
    | with_reducible apply ownWritten_kept
    | split)

theorem bodyImageData_kept {lb : Nat} {may : Part → Prop} {s0 s : State} (a0 : Sender) (p : List Byte) (h : Kept lb may s0 s) (h_fab : may .fab := by assumption) (h_mbx : may .mbx := by assumption) :
    KeptReply lb may s0 (bodyImageData a0 p s) := by
  unfold bodyImageData
  repeat' (first
    | with_reducible assumption
    | with_reducible apply imageAppend_kept
    | with_reducible refine KeptReply.at_once _ _ ?_)

theorem bodyImageClose_kept {lb : Nat} {may : Part → Prop} {s0 s : State} (bad : Option ℕ) (snd : Sender) (p : List Byte) (h : Kept lb may s0 s) (hn : Low lb 0x4c := by exact ‹Low _ _›.up rfl) (h_tick : may .tick := by assumption) (h_fab : may .fab := by assumption) (h_bus : may .bus := by assumption) (h_irq : may .irq := by assumption) (h_mbx : may .mbx := by assumption) (h_lsn : may .lsn := by assumption) :
    KeptReply lb may s0 (bodyImageClose bad snd p s) := by
  unfold bodyImageClose
  generalize s.mbx.image = im
  cases im with
  | none => exact .at_once _ _ h
  | some b =>
    refine ⟨setMbx_kept _ h, fun u hu => ?_⟩
    dsimp only
    refine iteInduction (fun _ => ?_) fun _ => setMbx_kept _ hu
    split
    · exact imageEnd_kept _ _ _ hu
    · exact imageEnd_kept _ _ _ (applyPartial_kept _ _ _ hu)


theorem bodyImageConfirm_kept {lb : Nat} {may : Part → Prop} {s0 s : State} (a0 : Sender) (a1 : List Byte) (h : Kept lb may s0 s) (hn : Low lb 0x8c := by exact ‹Low _ _›.up rfl) (h_flash : may .flash := by assumption) :
    KeptReply lb may s0 (bodyImageConfirm a0 a1 s) := by
  unfold bodyImageConfirm
  repeat' (first
    | with_reducible assumption
    | exact ‹Low _ _›.of_le (by decide)
    | with_reducible apply confirmSlot_kept
    | with_reducible refine KeptReply.at_once _ _ ?_)

theorem bodyImageAbort_kept {lb : Nat} {may : Part → Prop} {s0 s : State} (a0 : Sender) (a1 : List Byte) (h : Kept lb may s0 s) (h_mbx : may .mbx := by assumption) :
    KeptReply lb may s0 (bodyImageAbort a0 a1 s) := by
  unfold bodyImageAbort
  repeat' (first
    | with_reducible assumption
    | (extract_lets +onlyGivenNames x; subst x)
    | with_reducible apply setMbx_kept
    | with_reducible refine KeptReply.at_once _ _ ?_)

theorem bodyFlashRead_kept {lb : Nat} {may : Part → Prop} {s0 s : State} (a0 : Sender) (p : List Byte) (h : Kept lb may s0 s) :
    KeptReply lb may s0 (bodyFlashRead a0 p s) := by
  unfold bodyFlashRead
  repeat' (first
    | with_reducible assumption
    | with_reducible refine KeptReply.at_once _ _ ?_)

theorem bodyConvCal_kept {lb : Nat} {may : Part → Prop} {s0 s : State} (snd : Sender) (p : List Byte) (h : Kept lb may s0 s) (hn : Low lb 0xa4 := by exact ‹Low _ _›.up rfl) (h_irq : may .irq := by assumption) (h_ain : may .ain := by assumption) (h_aout : may .aout := by assumption) (h_mbx : may .mbx := by assumption) :
    KeptReply lb may s0 (bodyConvCal snd p s) := by
  unfold bodyConvCal
  repeat' (first
    | with_reducible assumption
    | exact ‹Low _ _›.of_le (by decide)
    | (extract_lets +onlyGivenNames x; refine (have hx : Kept lb may s0 x := ?_; ?_); rotate_left; clear_value x; rotate_right; subst x)
    | (extract_lets +onlyGivenNames x; clear_value x)
    | with_reducible apply aiCalStart_kept
    | with_reducible apply aoCalStart_kept
    | with_reducible apply setMbx_kept
    | with_reducible apply complete_kept
    | split
    | with_reducible refine KeptReply.at_once _ _ ?_
    | with_reducible refine KeptReply.mk ?_ (fun u hu => ?_))

theorem bodyGaugeCal_kept {lb : Nat} {may : Part → Prop} {s0 s : State} (snd : Sender) (p : List Byte) (h : Kept lb may s0 s) (hn : Low lb 0x170004 := by exact ‹Low _ _›.up rfl) (h_timers : may .timers := by assumption) (h_psc : may .psc := by assumption) (h_mbx : may .mbx := by assumption) (h_gauge : may .gauge := by assumption) :
    KeptReply lb may s0 (bodyGaugeCal snd p s) := by
  unfold bodyGaugeCal
  repeat' (first
    | with_reducible assumption
    | exact ‹Low _ _›.of_le (by decide)
    | (extract_lets +onlyGivenNames x; subst x)
    | with_reducible apply gaugeCalibrate_kept
    | with_reducible apply setMbx_kept
    | with_reducible refine KeptReply.at_once _ _ ?_)

theorem bodyTwcXfer_kept {lb : Nat} {may : Part → Prop} {s0 s : State} (snd : Sender) (p : List Byte) (h : Kept lb may s0 s) (h_mbx : may .mbx := by assumption) (h_host : may .host := by assumption) :
    KeptReply lb may s0 (bodyTwcXfer snd p s) := by
  unfold bodyTwcXfer
  repeat' (first
    | with_reducible assumption
    | (extract_lets +onlyGivenNames x; subst x)
    | with_reducible apply setHost_kept
    | with_reducible apply setMbx_kept
    | with_reducible refine KeptReply.at_once _ _ ?_
    | with_reducible refine KeptReply.mk ?_ (fun u hu => ?_)
    | (fail_if_no_progress beta_reduce)
    | rfl)

theorem bodyAdopt_kept {lb : Nat} {may : Part → Prop} {s0 s : State} (a0 : Sender) (p : List Byte) (h : Kept lb may s0 s) (hn : Low lb 0x1a0540 := by exact ‹Low _ _›.up rfl) (h_stew : may .stew := by assumption) :
    KeptReply lb may s0 (bodyAdopt a0 p s) := by
  unfold bodyAdopt
  repeat' (first
    | with_reducible assumption
    | exact ‹Low _ _›.of_le (by decide)
    | (extract_lets +onlyGivenNames x; subst x)
    | with_reducible apply set_kept
    | with_reducible apply note_kept
    | with_reducible refine KeptReply.at_once _ _ ?_)

theorem bodyRelease_kept {lb : Nat} {may : Part → Prop} {s0 s : State} (a0 : Sender) (a1 : List Byte) (h : Kept lb may s0 s) (hn : Low lb 0x1a0540 := by exact ‹Low _ _›.up rfl) (h_stew : may .stew := by assumption) :
    KeptReply lb may s0 (bodyRelease a0 a1 s) := by
  unfold bodyRelease
  repeat' (first
    | with_reducible assumption
    | exact ‹Low _ _›.of_le (by decide)
    | (extract_lets +onlyGivenNames x; subst x)
    | with_reducible apply set_kept
    | with_reducible apply note_kept
    | with_reducible refine KeptReply.at_once _ _ ?_)

theorem bodySetIdentity_kept {lb : Nat} {may : Part → Prop} {s0 s : State} (a0 : Sender) (p : List Byte) (h : Kept lb may s0 s) (hn : Low lb 0x10000 := by exact ‹Low _ _›.up rfl) (h_timers : may .timers := by assumption) (h_clk : may .clk := by assumption) (h_stew : may .stew := by assumption) (h_chain : may .chain := by assumption) :
    KeptReply lb may s0 (bodySetIdentity a0 p s) := by
  unfold bodySetIdentity
  repeat' (first
    | with_reducible assumption
    | exact ‹Low _ _›.of_le (by decide)
    | (extract_lets +onlyGivenNames x; subst x)
    | with_reducible apply set_kept
    | with_reducible apply note_kept
    | with_reducible apply setChain_kept
    | with_reducible apply chainRestart_kept
    | split
    | with_reducible refine KeptReply.at_once _ _ ?_)

theorem ledgerKeep_kept {lb : Nat} {may : Part → Prop} {s0 s : State} (h : Kept lb may s0 s) (h_flash : may .flash := by assumption) :
    Kept lb may s0 (State.ledgerKeep s) := by
  unfold State.ledgerKeep
  repeat' (first
    | with_reducible assumption
    | (extract_lets +onlyGivenNames x; subst x; beta_reduce)
    | with_reducible apply flashErase_kept
    | with_reducible apply copyRecs_kept
    | with_reducible apply flashProgram_kept
    | with_reducible apply Kept.foldl
    | with_reducible apply Kept.foldl_snd
    | with_reducible apply Kept.foldl_fst
    | intro v
    | split)

theorem bodyFactoryReset_kept {lb : Nat} {may : Part → Prop} {s0 s : State} (snd : Sender) (a1 : List Byte) (h : Kept lb may s0 s) (hn : Low lb 0x60000 := by exact ‹Low _ _›.up rfl) (h_stew : may .stew := by assumption) (h_flash : may .flash := by assumption) (h_pwr : may .pwr := by assumption) :
    KeptReply lb may s0 (bodyFactoryReset snd a1 s) := by
  unfold bodyFactoryReset
  repeat' (first
    | with_reducible assumption
    | exact ‹Low _ _›.of_le (by decide)
    | (extract_lets +onlyGivenNames x; subst x)
    | with_reducible apply ledgerKeep_kept
    | with_reducible apply endSession_kept
    | with_reducible apply showLedger_kept
    | with_reducible apply set_kept
    | with_reducible apply setPwr_kept
    | with_reducible apply setStew_kept
    | with_reducible refine KeptReply.at_once _ _ ?_)

theorem bodyPolicyPersist_kept {lb : Nat} {may : Part → Prop} {s0 s : State} (a0 : Sender) (a1 : List Byte) (h : Kept lb may s0 s) (h_stew : may .stew := by assumption) :
    KeptReply lb may s0 (bodyPolicyPersist a0 a1 s) := by
  unfold bodyPolicyPersist
  repeat' (first
    | with_reducible assumption
    | with_reducible apply note_kept
    | with_reducible refine KeptReply.at_once _ _ ?_
    | with_reducible refine KeptReply.mk ?_ (fun u hu => ?_)
    | with_reducible apply Kept.foldl
    | with_reducible apply Kept.foldl_snd
    | with_reducible apply Kept.foldl_fst
    | intro v)

theorem bodyUnlockChallenge_kept {lb : Nat} {may : Part → Prop} {s0 s : State} (a0 : Sender) (a1 : List Byte) (h : Kept lb may s0 s) (h_free : may .free := by assumption) (h_timers : may .timers := by assumption) (h_sec : may .sec := by assumption) :
    KeptReply lb may s0 (bodyUnlockChallenge a0 a1 s) := by
  unfold bodyUnlockChallenge
  repeat' (first
    | with_reducible assumption
    | with_reducible apply drawNonce_kept
    | split
    | with_reducible refine KeptReply.at_once _ _ ?_)

theorem bodyUnlockResponse_kept {lb : Nat} {may : Part → Prop} {s0 s : State} (a0 : Sender) (p : List Byte) (h : Kept lb may s0 s) (hn : Low lb 0x60000 := by exact ‹Low _ _›.up rfl) (h_timers : may .timers := by assumption) (h_sec : may .sec := by assumption) :
    KeptReply lb may s0 (bodyUnlockResponse a0 p s) := by
  unfold bodyUnlockResponse
  repeat' (first
    | with_reducible assumption
    | exact ‹Low _ _›.of_le (by decide)
    | with_reducible apply unlockResponse_kept
    | split
    | with_reducible refine KeptReply.at_once _ _ ?_)

theorem bodyLedgerRead_kept {lb : Nat} {may : Part → Prop} {s0 s : State} (a0 : Sender) (p : List Byte) (h : Kept lb may s0 s) :
    KeptReply lb may s0 (bodyLedgerRead a0 p s) := by
  unfold bodyLedgerRead
  repeat' (first
    | with_reducible assumption
    | with_reducible refine KeptReply.at_once _ _ ?_)

theorem mbxBody_kept {lb : Nat} {may : Part → Prop} {s0 s : State} (code : ℕ) (bad : Option ℕ) (snd : Sender) (p : List Byte) (h : Kept lb may s0 s) (hn : Low lb 0x0 := by exact ‹Low _ _›.up rfl) (h_free : may .free := by assumption) (h_timers : may .timers := by assumption) (h_tick : may .tick := by assumption) (h_clk : may .clk := by assumption) (h_fab : may .fab := by assumption) (h_bus : may .bus := by assumption) (h_irq : may .irq := by assumption) (h_ain : may .ain := by assumption) (h_phantom : may .phantom := by assumption) (h_aout : may .aout := by assumption) (h_hp : may .hp := by assumption) (h_psc : may .psc := by assumption) (h_asrc : may .asrc := by assumption) (h_sap : may .sap := by assumption) (h_stew : may .stew := by assumption) (h_mbx : may .mbx := by assumption) (h_host : may .host := by assumption) (h_chain : may .chain := by assumption) (h_lsn : may .lsn := by assumption) (h_gauge : may .gauge := by assumption) (h_ram : may .ram := by assumption) (h_flash : may .flash := by assumption) (h_sec : may .sec := by assumption) (h_pwr : may .pwr := by assumption) (h_xing : may .xing := by assumption) : KeptReply lb may s0 (mbxBody code bad snd p s) := by
  unfold mbxBody
  split
  · exact bodyGetInfo_kept _ _ h
  · exact bodyGetState_kept _ _ h
  · exact bodyRegRead_kept _ _ h
  · exact bodyRegWrite_kept _ _ h
  · exact bodyReset_kept _ _ h
  · exact bodyGoLive_kept _ _ h
  · exact bodyGoLoaded_kept _ _ h
  · exact bodyUnload_kept _ _ h
  · exact bodyEnterSafe_kept _ _ h
  · exact bodyCommit_kept _ _ h
  · exact bodyCommitAt_kept _ _ h
  · exact bodyCommitCancel_kept _ _ h
  · exact bodyBasinHold_kept _ _ h
  · exact bodyBasinResume_kept _ _ h
  · exact bodyPoolWrite_kept _ _ h
  · exact bodyImageOpen_kept _ _ h
  · exact bodyImageData_kept _ _ h
  · exact bodyImageClose_kept _ _ _ h
  · exact bodyImageConfirm_kept _ _ h
  · exact bodyImageAbort_kept _ _ h
  · exact bodyFlashRead_kept _ _ h
  · exact bodyConvCal_kept _ _ h
  · exact bodyGaugeCal_kept _ _ h
  · exact bodyTwcXfer_kept _ _ h
  · exact bodyAdopt_kept _ _ h
  · exact bodyRelease_kept _ _ h
  · exact bodySetIdentity_kept _ _ h
  · exact bodyFactoryReset_kept _ _ h
  · exact bodyPolicyPersist_kept _ _ h
  · exact bodyUnlockChallenge_kept _ _ h
  · exact bodyUnlockResponse_kept _ _ h
  · exact bodyLedgerRead_kept _ _ h


theorem serveFrame_kept {lb : Nat} {may : Part → Prop} {s0 s : State} (q : MbxReq) (h : Kept lb may s0 s) (hn : Low lb 0x0 := by exact ‹Low _ _›.up rfl) (h_free : may .free := by assumption) (h_timers : may .timers := by assumption) (h_tick : may .tick := by assumption) (h_clk : may .clk := by assumption) (h_fab : may .fab := by assumption) (h_bus : may .bus := by assumption) (h_irq : may .irq := by assumption) (h_ain : may .ain := by assumption) (h_phantom : may .phantom := by assumption) (h_aout : may .aout := by assumption) (h_hp : may .hp := by assumption) (h_psc : may .psc := by assumption) (h_asrc : may .asrc := by assumption) (h_sap : may .sap := by assumption) (h_stew : may .stew := by assumption) (h_mbx : may .mbx := by assumption) (h_host : may .host := by assumption) (h_chain : may .chain := by assumption) (h_lsn : may .lsn := by assumption) (h_gauge : may .gauge := by assumption) (h_ram : may .ram := by assumption) (h_flash : may .flash := by assumption) (h_sec : may .sec := by assumption) (h_pwr : may .pwr := by assumption) (h_xing : may .xing := by assumption) : Kept lb may s0 (State.serveFrame s q) :=
  request_kept _ _ _ _ _ (fun _ _ _ => mbxBody_kept _ _ _ _) h


theorem burstEnd_kept {lb : Nat} {may : Part → Prop} {s0 s : State} (h : Kept lb may s0 s) (hn : Low lb 0x5001c := by exact ‹Low _ _›.up rfl) (h_mbx : may .mbx := by assumption) (h_host : may .host := by assumption) :
    Kept lb may s0 (State.burstEnd s) := by
  unfold State.burstEnd
  repeat' (first
    | with_reducible assumption
    | exact ‹Low _ _›.of_le (by decide)
    | (extract_lets +onlyGivenNames x; clear_value x)
    | with_reducible apply respond_kept
    | with_reducible apply setMbx_kept
    | split)

theorem runEngine_kept {lb : Nat} {may : Part → Prop} {s0 s : State} (n : ℕ) (h : Kept lb may s0 s) (hn : Low lb 0x0 := by exact ‹Low _ _›.up rfl) (h_free : may .free := by assumption) (h_timers : may .timers := by assumption) (h_tick : may .tick := by assumption) (h_clk : may .clk := by assumption) (h_fab : may .fab := by assumption) (h_bus : may .bus := by assumption) (h_irq : may .irq := by assumption) (h_ain : may .ain := by assumption) (h_phantom : may .phantom := by assumption) (h_aout : may .aout := by assumption) (h_hp : may .hp := by assumption) (h_psc : may .psc := by assumption) (h_asrc : may .asrc := by assumption) (h_sap : may .sap := by assumption) (h_stew : may .stew := by assumption) (h_mbx : may .mbx := by assumption) (h_host : may .host := by assumption) (h_chain : may .chain := by assumption) (h_lsn : may .lsn := by assumption) (h_gauge : may .gauge := by assumption) (h_ram : may .ram := by assumption) (h_flash : may .flash := by assumption) (h_sec : may .sec := by assumption) (h_pwr : may .pwr := by assumption) (h_xing : may .xing := by assumption) : Kept lb may s0 (State.runEngine n s) := by
  induction n generalizing s with
  | zero => exact h
  | succ n ih =>
    unfold State.runEngine
    split
    · exact h
    · split
      · exact h
      · exact ih (serveFrame_kept _ (setMbx_kept _ h))


theorem engine_kept {lb : Nat} {may : Part → Prop} {s0 s : State} (h : Kept lb may s0 s) (hn : Low lb 0x0 := by exact ‹Low _ _›.up rfl) (h_free : may .free := by assumption) (h_timers : may .timers := by assumption) (h_tick : may .tick := by assumption) (h_clk : may .clk := by assumption) (h_fab : may .fab := by assumption) (h_bus : may .bus := by assumption) (h_irq : may .irq := by assumption) (h_ain : may .ain := by assumption) (h_phantom : may .phantom := by assumption) (h_aout : may .aout := by assumption) (h_hp : may .hp := by assumption) (h_psc : may .psc := by assumption) (h_asrc : may .asrc := by assumption) (h_sap : may .sap := by assumption) (h_stew : may .stew := by assumption) (h_mbx : may .mbx := by assumption) (h_host : may .host := by assumption) (h_chain : may .chain := by assumption) (h_lsn : may .lsn := by assumption) (h_gauge : may .gauge := by assumption) (h_ram : may .ram := by assumption) (h_flash : may .flash := by assumption) (h_sec : may .sec := by assumption) (h_pwr : may .pwr := by assumption) (h_xing : may .xing := by assumption) :
    Kept lb may s0 (State.engine s) := by
  unfold State.engine
  repeat' (first
    | with_reducible assumption
    | exact ‹Low _ _›.of_le (by decide)
    | exact ‹Low _ _›.of_le (Nat.zero_le _)
    | with_reducible apply sendResponses_kept
    | with_reducible apply runEngine_kept
    | with_reducible apply burstEnd_kept
    | with_reducible apply arbiter_kept
    | split)

theorem ask_kept {lb : Nat} {may : Part → Prop} {s0 s : State} (snd : Sender) (code : ℕ) (p : List Byte) (body : Sender → List Byte → State → Reply) (bad : optParam (Option ℕ) none) (hbody : ∀ x p u, Kept lb may s0 u → KeptReply lb may s0 (body x p u)) (h : Kept lb may s0 s) (hn : Low lb 0x0 := by exact ‹Low _ _›.up rfl) (h_free : may .free := by assumption) (h_timers : may .timers := by assumption) (h_tick : may .tick := by assumption) (h_clk : may .clk := by assumption) (h_fab : may .fab := by assumption) (h_bus : may .bus := by assumption) (h_irq : may .irq := by assumption) (h_ain : may .ain := by assumption) (h_phantom : may .phantom := by assumption) (h_aout : may .aout := by assumption) (h_hp : may .hp := by assumption) (h_psc : may .psc := by assumption) (h_asrc : may .asrc := by assumption) (h_sap : may .sap := by assumption) (h_stew : may .stew := by assumption) (h_mbx : may .mbx := by assumption) (h_host : may .host := by assumption) (h_chain : may .chain := by assumption) (h_lsn : may .lsn := by assumption) (h_gauge : may .gauge := by assumption) (h_ram : may .ram := by assumption) (h_flash : may .flash := by assumption) (h_sec : may .sec := by assumption) (h_pwr : may .pwr := by assumption) (h_xing : may .xing := by assumption) :
    Kept lb may s0 (State.ask s snd code p body bad) := by
  unfold State.ask
  repeat' (first
    | with_reducible assumption
    | exact ‹Low _ _›.of_le (by decide)
    | exact ‹Low _ _›.of_le (Nat.zero_le _)
    | with_reducible apply engine_kept
    | with_reducible apply enqueue_kept
    | with_reducible apply request_kept
    | with_reducible apply hbody
    | split)

theorem execGetInfo_kept {lb : Nat} {may : Part → Prop} {s0 s : State} (snd : Sender) (h : Kept lb may s0 s) (hn : Low lb 0x0 := by exact ‹Low _ _›.up rfl) (h_free : may .free := by assumption) (h_timers : may .timers := by assumption) (h_tick : may .tick := by assumption) (h_clk : may .clk := by assumption) (h_fab : may .fab := by assumption) (h_bus : may .bus := by assumption) (h_irq : may .irq := by assumption) (h_ain : may .ain := by assumption) (h_phantom : may .phantom := by assumption) (h_aout : may .aout := by assumption) (h_hp : may .hp := by assumption) (h_psc : may .psc := by assumption) (h_asrc : may .asrc := by assumption) (h_sap : may .sap := by assumption) (h_stew : may .stew := by assumption) (h_mbx : may .mbx := by assumption) (h_host : may .host := by assumption) (h_chain : may .chain := by assumption) (h_lsn : may .lsn := by assumption) (h_gauge : may .gauge := by assumption) (h_ram : may .ram := by assumption) (h_flash : may .flash := by assumption) (h_sec : may .sec := by assumption) (h_pwr : may .pwr := by assumption) (h_xing : may .xing := by assumption) :
    ∃ out, execGetInfo snd s = .next out ∧ Kept lb may s0 out := by
  refine ⟨_, rfl, ?_⟩
  repeat' (first
    | with_reducible assumption
    | with_reducible intro v
    | exact ‹Low _ _›.of_le (by decide)
    | exact ‹Low _ _›.of_le (Nat.zero_le _)
    | with_reducible apply ask_kept
    | with_reducible apply bodyGetInfo_kept)

theorem execGetState_kept {lb : Nat} {may : Part → Prop} {s0 s : State} (snd : Sender) (h : Kept lb may s0 s) (hn : Low lb 0x0 := by exact ‹Low _ _›.up rfl) (h_free : may .free := by assumption) (h_timers : may .timers := by assumption) (h_tick : may .tick := by assumption) (h_clk : may .clk := by assumption) (h_fab : may .fab := by assumption) (h_bus : may .bus := by assumption) (h_irq : may .irq := by assumption) (h_ain : may .ain := by assumption) (h_phantom : may .phantom := by assumption) (h_aout : may .aout := by assumption) (h_hp : may .hp := by assumption) (h_psc : may .psc := by assumption) (h_asrc : may .asrc := by assumption) (h_sap : may .sap := by assumption) (h_stew : may .stew := by assumption) (h_mbx : may .mbx := by assumption) (h_host : may .host := by assumption) (h_chain : may .chain := by assumption) (h_lsn : may .lsn := by assumption) (h_gauge : may .gauge := by assumption) (h_ram : may .ram := by assumption) (h_flash : may .flash := by assumption) (h_sec : may .sec := by assumption) (h_pwr : may .pwr := by assumption) (h_xing : may .xing := by assumption) :
    ∃ out, execGetState snd s = .next out ∧ Kept lb may s0 out := by
  refine ⟨_, rfl, ?_⟩
  repeat' (first
    | with_reducible assumption
    | with_reducible intro v
    | exact ‹Low _ _›.of_le (by decide)
    | exact ‹Low _ _›.of_le (Nat.zero_le _)
    | with_reducible apply ask_kept
    | with_reducible apply bodyGetState_kept)

theorem execRegRead_kept {lb : Nat} {may : Part → Prop} {s0 s : State} (snd : Sender) (a : Word) (n : BitVec 16) (h : Kept lb may s0 s) (hn : Low lb 0x0 := by exact ‹Low _ _›.up rfl) (h_free : may .free := by assumption) (h_timers : may .timers := by assumption) (h_tick : may .tick := by assumption) (h_clk : may .clk := by assumption) (h_fab : may .fab := by assumption) (h_bus : may .bus := by assumption) (h_irq : may .irq := by assumption) (h_ain : may .ain := by assumption) (h_phantom : may .phantom := by assumption) (h_aout : may .aout := by assumption) (h_hp : may .hp := by assumption) (h_psc : may .psc := by assumption) (h_asrc : may .asrc := by assumption) (h_sap : may .sap := by assumption) (h_stew : may .stew := by assumption) (h_mbx : may .mbx := by assumption) (h_host : may .host := by assumption) (h_chain : may .chain := by assumption) (h_lsn : may .lsn := by assumption) (h_gauge : may .gauge := by assumption) (h_ram : may .ram := by assumption) (h_flash : may .flash := by assumption) (h_sec : may .sec := by assumption) (h_pwr : may .pwr := by assumption) (h_xing : may .xing := by assumption) :
    ∃ out, execRegRead snd a n s = .next out ∧ Kept lb may s0 out := by
  refine ⟨_, rfl, ?_⟩
  repeat' (first
    | with_reducible assumption
    | with_reducible intro v
    | exact ‹Low _ _›.of_le (by decide)
    | exact ‹Low _ _›.of_le (Nat.zero_le _)
    | with_reducible apply ask_kept
    | with_reducible apply bodyRegRead_kept)

theorem execRegWrite_kept {lb : Nat} {may : Part → Prop} {s0 s : State} (snd : Sender) (a : Word) (ws : List Word) (h : Kept lb may s0 s) (hn : Low lb 0x0 := by exact ‹Low _ _›.up rfl) (h_free : may .free := by assumption) (h_timers : may .timers := by assumption) (h_tick : may .tick := by assumption) (h_clk : may .clk := by assumption) (h_fab : may .fab := by assumption) (h_bus : may .bus := by assumption) (h_irq : may .irq := by assumption) (h_ain : may .ain := by assumption) (h_phantom : may .phantom := by assumption) (h_aout : may .aout := by assumption) (h_hp : may .hp := by assumption) (h_psc : may .psc := by assumption) (h_asrc : may .asrc := by assumption) (h_sap : may .sap := by assumption) (h_stew : may .stew := by assumption) (h_mbx : may .mbx := by assumption) (h_host : may .host := by assumption) (h_chain : may .chain := by assumption) (h_lsn : may .lsn := by assumption) (h_gauge : may .gauge := by assumption) (h_ram : may .ram := by assumption) (h_flash : may .flash := by assumption) (h_sec : may .sec := by assumption) (h_pwr : may .pwr := by assumption) (h_xing : may .xing := by assumption) :
    ∃ out, execRegWrite snd a ws s = .next out ∧ Kept lb may s0 out := by
  refine ⟨_, rfl, ?_⟩
  repeat' (first
    | with_reducible assumption
    | with_reducible intro v
    | exact ‹Low _ _›.of_le (by decide)
    | exact ‹Low _ _›.of_le (Nat.zero_le _)
    | with_reducible apply ask_kept
    | with_reducible apply bodyRegWrite_kept)

theorem execResetCommand_kept {lb : Nat} {may : Part → Prop} {s0 s : State} (snd : Sender) (key : BitVec 16) (h : Kept lb may s0 s) (hn : Low lb 0x0 := by exact ‹Low _ _›.up rfl) (h_free : may .free := by assumption) (h_timers : may .timers := by assumption) (h_tick : may .tick := by assumption) (h_clk : may .clk := by assumption) (h_fab : may .fab := by assumption) (h_bus : may .bus := by assumption) (h_irq : may .irq := by assumption) (h_ain : may .ain := by assumption) (h_phantom : may .phantom := by assumption) (h_aout : may .aout := by assumption) (h_hp : may .hp := by assumption) (h_psc : may .psc := by assumption) (h_asrc : may .asrc := by assumption) (h_sap : may .sap := by assumption) (h_stew : may .stew := by assumption) (h_mbx : may .mbx := by assumption) (h_host : may .host := by assumption) (h_chain : may .chain := by assumption) (h_lsn : may .lsn := by assumption) (h_gauge : may .gauge := by assumption) (h_ram : may .ram := by assumption) (h_flash : may .flash := by assumption) (h_sec : may .sec := by assumption) (h_pwr : may .pwr := by assumption) (h_xing : may .xing := by assumption) :
    ∃ out, execResetCommand snd key s = .next out ∧ Kept lb may s0 out := by
  refine ⟨_, rfl, ?_⟩
  repeat' (first
    | with_reducible assumption
    | with_reducible intro v
    | exact ‹Low _ _›.of_le (by decide)
    | exact ‹Low _ _›.of_le (Nat.zero_le _)
    | with_reducible apply ask_kept
    | with_reducible apply bodyReset_kept)

theorem execGoLive_kept {lb : Nat} {may : Part → Prop} {s0 s : State} (snd : Sender) (h : Kept lb may s0 s) (hn : Low lb 0x0 := by exact ‹Low _ _›.up rfl) (h_free : may .free := by assumption) (h_timers : may .timers := by assumption) (h_tick : may .tick := by assumption) (h_clk : may .clk := by assumption) (h_fab : may .fab := by assumption) (h_bus : may .bus := by assumption) (h_irq : may .irq := by assumption) (h_ain : may .ain := by assumption) (h_phantom : may .phantom := by assumption) (h_aout : may .aout := by assumption) (h_hp : may .hp := by assumption) (h_psc : may .psc := by assumption) (h_asrc : may .asrc := by assumption) (h_sap : may .sap := by assumption) (h_stew : may .stew := by assumption) (h_mbx : may .mbx := by assumption) (h_host : may .host := by assumption) (h_chain : may .chain := by assumption) (h_lsn : may .lsn := by assumption) (h_gauge : may .gauge := by assumption) (h_ram : may .ram := by assumption) (h_flash : may .flash := by assumption) (h_sec : may .sec := by assumption) (h_pwr : may .pwr := by assumption) (h_xing : may .xing := by assumption) :
    ∃ out, execGoLive snd s = .next out ∧ Kept lb may s0 out := by
  refine ⟨_, rfl, ?_⟩
  repeat' (first
    | with_reducible assumption
    | with_reducible intro v
    | exact ‹Low _ _›.of_le (by decide)
    | exact ‹Low _ _›.of_le (Nat.zero_le _)
    | with_reducible apply ask_kept
    | with_reducible apply bodyGoLive_kept)

theorem execGoLoaded_kept {lb : Nat} {may : Part → Prop} {s0 s : State} (snd : Sender) (h : Kept lb may s0 s) (hn : Low lb 0x0 := by exact ‹Low _ _›.up rfl) (h_free : may .free := by assumption) (h_timers : may .timers := by assumption) (h_tick : may .tick := by assumption) (h_clk : may .clk := by assumption) (h_fab : may .fab := by assumption) (h_bus : may .bus := by assumption) (h_irq : may .irq := by assumption) (h_ain : may .ain := by assumption) (h_phantom : may .phantom := by assumption) (h_aout : may .aout := by assumption) (h_hp : may .hp := by assumption) (h_psc : may .psc := by assumption) (h_asrc : may .asrc := by assumption) (h_sap : may .sap := by assumption) (h_stew : may .stew := by assumption) (h_mbx : may .mbx := by assumption) (h_host : may .host := by assumption) (h_chain : may .chain := by assumption) (h_lsn : may .lsn := by assumption) (h_gauge : may .gauge := by assumption) (h_ram : may .ram := by assumption) (h_flash : may .flash := by assumption) (h_sec : may .sec := by assumption) (h_pwr : may .pwr := by assumption) (h_xing : may .xing := by assumption) :
    ∃ out, execGoLoaded snd s = .next out ∧ Kept lb may s0 out := by
  refine ⟨_, rfl, ?_⟩
  repeat' (first
    | with_reducible assumption
    | with_reducible intro v
    | exact ‹Low _ _›.of_le (by decide)
    | exact ‹Low _ _›.of_le (Nat.zero_le _)
    | with_reducible apply ask_kept
    | with_reducible apply bodyGoLoaded_kept)

theorem execUnload_kept {lb : Nat} {may : Part → Prop} {s0 s : State} (snd : Sender) (h : Kept lb may s0 s) (hn : Low lb 0x0 := by exact ‹Low _ _›.up rfl) (h_free : may .free := by assumption) (h_timers : may .timers := by assumption) (h_tick : may .tick := by assumption) (h_clk : may .clk := by assumption) (h_fab : may .fab := by assumption) (h_bus : may .bus := by assumption) (h_irq : may .irq := by assumption) (h_ain : may .ain := by assumption) (h_phantom : may .phantom := by assumption) (h_aout : may .aout := by assumption) (h_hp : may .hp := by assumption) (h_psc : may .psc := by assumption) (h_asrc : may .asrc := by assumption) (h_sap : may .sap := by assumption) (h_stew : may .stew := by assumption) (h_mbx : may .mbx := by assumption) (h_host : may .host := by assumption) (h_chain : may .chain := by assumption) (h_lsn : may .lsn := by assumption) (h_gauge : may .gauge := by assumption) (h_ram : may .ram := by assumption) (h_flash : may .flash := by assumption) (h_sec : may .sec := by assumption) (h_pwr : may .pwr := by assumption) (h_xing : may .xing := by assumption) :
    ∃ out, execUnload snd s = .next out ∧ Kept lb may s0 out := by
  refine ⟨_, rfl, ?_⟩
  repeat' (first
    | with_reducible assumption
    | with_reducible intro v
    | exact ‹Low _ _›.of_le (by decide)
    | exact ‹Low _ _›.of_le (Nat.zero_le _)
    | with_reducible apply ask_kept
    | with_reducible apply bodyUnload_kept)

theorem execEnterSafe_kept {lb : Nat} {may : Part → Prop} {s0 s : State} (snd : Sender) (h : Kept lb may s0 s) (hn : Low lb 0x0 := by exact ‹Low _ _›.up rfl) (h_free : may .free := by assumption) (h_timers : may .timers := by assumption) (h_tick : may .tick := by assumption) (h_clk : may .clk := by assumption) (h_fab : may .fab := by assumption) (h_bus : may .bus := by assumption) (h_irq : may .irq := by assumption) (h_ain : may .ain := by assumption) (h_phantom : may .phantom := by assumption) (h_aout : may .aout := by assumption) (h_hp : may .hp := by assumption) (h_psc : may .psc := by assumption) (h_asrc : may .asrc := by assumption) (h_sap : may .sap := by assumption) (h_stew : may .stew := by assumption) (h_mbx : may .mbx := by assumption) (h_host : may .host := by assumption) (h_chain : may .chain := by assumption) (h_lsn : may .lsn := by assumption) (h_gauge : may .gauge := by assumption) (h_ram : may .ram := by assumption) (h_flash : may .flash := by assumption) (h_sec : may .sec := by assumption) (h_pwr : may .pwr := by assumption) (h_xing : may .xing := by assumption) :
    ∃ out, execEnterSafe snd s = .next out ∧ Kept lb may s0 out := by
  refine ⟨_, rfl, ?_⟩
  repeat' (first
    | with_reducible assumption
    | with_reducible intro v
    | exact ‹Low _ _›.of_le (by decide)
    | exact ‹Low _ _›.of_le (Nat.zero_le _)
    | with_reducible apply ask_kept
    | with_reducible apply bodyEnterSafe_kept)

theorem execCommitCmd_kept {lb : Nat} {may : Part → Prop} {s0 s : State} (snd : Sender) (h : Kept lb may s0 s) (hn : Low lb 0x0 := by exact ‹Low _ _›.up rfl) (h_free : may .free := by assumption) (h_timers : may .timers := by assumption) (h_tick : may .tick := by assumption) (h_clk : may .clk := by assumption) (h_fab : may .fab := by assumption) (h_bus : may .bus := by assumption) (h_irq : may .irq := by assumption) (h_ain : may .ain := by assumption) (h_phantom : may .phantom := by assumption) (h_aout : may .aout := by assumption) (h_hp : may .hp := by assumption) (h_psc : may .psc := by assumption) (h_asrc : may .asrc := by assumption) (h_sap : may .sap := by assumption) (h_stew : may .stew := by assumption) (h_mbx : may .mbx := by assumption) (h_host : may .host := by assumption) (h_chain : may .chain := by assumption) (h_lsn : may .lsn := by assumption) (h_gauge : may .gauge := by assumption) (h_ram : may .ram := by assumption) (h_flash : may .flash := by assumption) (h_sec : may .sec := by assumption) (h_pwr : may .pwr := by assumption) (h_xing : may .xing := by assumption) :
    ∃ out, execCommitCmd snd s = .next out ∧ Kept lb may s0 out := by
  refine ⟨_, rfl, ?_⟩
  repeat' (first
    | with_reducible assumption
    | with_reducible intro v
    | exact ‹Low _ _›.of_le (by decide)
    | exact ‹Low _ _›.of_le (Nat.zero_le _)
    | with_reducible apply ask_kept
    | with_reducible apply bodyCommit_kept)

theorem execCommitAt_kept {lb : Nat} {may : Part → Prop} {s0 s : State} (snd : Sender) (t : TickNo) (h : Kept lb may s0 s) (hn : Low lb 0x0 := by exact ‹Low _ _›.up rfl) (h_free : may .free := by assumption) (h_timers : may .timers := by assumption) (h_tick : may .tick := by assumption) (h_clk : may .clk := by assumption) (h_fab : may .fab := by assumption) (h_bus : may .bus := by assumption) (h_irq : may .irq := by assumption) (h_ain : may .ain := by assumption) (h_phantom : may .phantom := by assumption) (h_aout : may .aout := by assumption) (h_hp : may .hp := by assumption) (h_psc : may .psc := by assumption) (h_asrc : may .asrc := by assumption) (h_sap : may .sap := by assumption) (h_stew : may .stew := by assumption) (h_mbx : may .mbx := by assumption) (h_host : may .host := by assumption) (h_chain : may .chain := by assumption) (h_lsn : may .lsn := by assumption) (h_gauge : may .gauge := by assumption) (h_ram : may .ram := by assumption) (h_flash : may .flash := by assumption) (h_sec : may .sec := by assumption) (h_pwr : may .pwr := by assumption) (h_xing : may .xing := by assumption) :
    ∃ out, execCommitAt snd t s = .next out ∧ Kept lb may s0 out := by
  refine ⟨_, rfl, ?_⟩
  repeat' (first
    | with_reducible assumption
    | with_reducible intro v
    | exact ‹Low _ _›.of_le (by decide)
    | exact ‹Low _ _›.of_le (Nat.zero_le _)
    | with_reducible apply ask_kept
    | with_reducible apply bodyCommitAt_kept)

theorem execCommitCancel_kept {lb : Nat} {may : Part → Prop} {s0 s : State} (snd : Sender) (h : Kept lb may s0 s) (hn : Low lb 0x0 := by exact ‹Low _ _›.up rfl) (h_free : may .free := by assumption) (h_timers : may .timers := by assumption) (h_tick : may .tick := by assumption) (h_clk : may .clk := by assumption) (h_fab : may .fab := by assumption) (h_bus : may .bus := by assumption) (h_irq : may .irq := by assumption) (h_ain : may .ain := by assumption) (h_phantom : may .phantom := by assumption) (h_aout : may .aout := by assumption) (h_hp : may .hp := by assumption) (h_psc : may .psc := by assumption) (h_asrc : may .asrc := by assumption) (h_sap : may .sap := by assumption) (h_stew : may .stew := by assumption) (h_mbx : may .mbx := by assumption) (h_host : may .host := by assumption) (h_chain : may .chain := by assumption) (h_lsn : may .lsn := by assumption) (h_gauge : may .gauge := by assumption) (h_ram : may .ram := by assumption) (h_flash : may .flash := by assumption) (h_sec : may .sec := by assumption) (h_pwr : may .pwr := by assumption) (h_xing : may .xing := by assumption) :
    ∃ out, execCommitCancel snd s = .next out ∧ Kept lb may s0 out := by
  refine ⟨_, rfl, ?_⟩
  repeat' (first
    | with_reducible assumption
    | with_reducible intro v
    | exact ‹Low _ _›.of_le (by decide)
    | exact ‹Low _ _›.of_le (Nat.zero_le _)
    | with_reducible apply ask_kept
    | with_reducible apply bodyCommitCancel_kept)

theorem execBasinHold_kept {lb : Nat} {may : Part → Prop} {s0 s : State} (snd : Sender) (L : Byte) (h : Kept lb may s0 s) (hn : Low lb 0x0 := by exact ‹Low _ _›.up rfl) (h_free : may .free := by assumption) (h_timers : may .timers := by assumption) (h_tick : may .tick := by assumption) (h_clk : may .clk := by assumption) (h_fab : may .fab := by assumption) (h_bus : may .bus := by assumption) (h_irq : may .irq := by assumption) (h_ain : may .ain := by assumption) (h_phantom : may .phantom := by assumption) (h_aout : may .aout := by assumption) (h_hp : may .hp := by assumption) (h_psc : may .psc := by assumption) (h_asrc : may .asrc := by assumption) (h_sap : may .sap := by assumption) (h_stew : may .stew := by assumption) (h_mbx : may .mbx := by assumption) (h_host : may .host := by assumption) (h_chain : may .chain := by assumption) (h_lsn : may .lsn := by assumption) (h_gauge : may .gauge := by assumption) (h_ram : may .ram := by assumption) (h_flash : may .flash := by assumption) (h_sec : may .sec := by assumption) (h_pwr : may .pwr := by assumption) (h_xing : may .xing := by assumption) :
    ∃ out, execBasinHold snd L s = .next out ∧ Kept lb may s0 out := by
  refine ⟨_, rfl, ?_⟩
  repeat' (first
    | with_reducible assumption
    | with_reducible intro v
    | exact ‹Low _ _›.of_le (by decide)
    | exact ‹Low _ _›.of_le (Nat.zero_le _)
    | with_reducible apply ask_kept
    | with_reducible apply bodyBasinHold_kept)

theorem execBasinResume_kept {lb : Nat} {may : Part → Prop} {s0 s : State} (snd : Sender) (L : Byte) (h : Kept lb may s0 s) (hn : Low lb 0x0 := by exact ‹Low _ _›.up rfl) (h_free : may .free := by assumption) (h_timers : may .timers := by assumption) (h_tick : may .tick := by assumption) (h_clk : may .clk := by assumption) (h_fab : may .fab := by assumption) (h_bus : may .bus := by assumption) (h_irq : may .irq := by assumption) (h_ain : may .ain := by assumption) (h_phantom : may .phantom := by assumption) (h_aout : may .aout := by assumption) (h_hp : may .hp := by assumption) (h_psc : may .psc := by assumption) (h_asrc : may .asrc := by assumption) (h_sap : may .sap := by assumption) (h_stew : may .stew := by assumption) (h_mbx : may .mbx := by assumption) (h_host : may .host := by assumption) (h_chain : may .chain := by assumption) (h_lsn : may .lsn := by assumption) (h_gauge : may .gauge := by assumption) (h_ram : may .ram := by assumption) (h_flash : may .flash := by assumption) (h_sec : may .sec := by assumption) (h_pwr : may .pwr := by assumption) (h_xing : may .xing := by assumption) :
    ∃ out, execBasinResume snd L s = .next out ∧ Kept lb may s0 out := by
  refine ⟨_, rfl, ?_⟩
  repeat' (first
    | with_reducible assumption
    | with_reducible intro v
    | exact ‹Low _ _›.of_le (by decide)
    | exact ‹Low _ _›.of_le (Nat.zero_le _)
    | with_reducible apply ask_kept
    | with_reducible apply bodyBasinResume_kept)

theorem execPoolWrite_kept {lb : Nat} {may : Part → Prop} {s0 s : State} (snd : Sender) (L : Byte) (a : BitVec 16) (ws : List Word) (h : Kept lb may s0 s) (hn : Low lb 0x0 := by exact ‹Low _ _›.up rfl) (h_free : may .free := by assumption) (h_timers : may .timers := by assumption) (h_tick : may .tick := by assumption) (h_clk : may .clk := by assumption) (h_fab : may .fab := by assumption) (h_bus : may .bus := by assumption) (h_irq : may .irq := by assumption) (h_ain : may .ain := by assumption) (h_phantom : may .phantom := by assumption) (h_aout : may .aout := by assumption) (h_hp : may .hp := by assumption) (h_psc : may .psc := by assumption) (h_asrc : may .asrc := by assumption) (h_sap : may .sap := by assumption) (h_stew : may .stew := by assumption) (h_mbx : may .mbx := by assumption) (h_host : may .host := by assumption) (h_chain : may .chain := by assumption) (h_lsn : may .lsn := by assumption) (h_gauge : may .gauge := by assumption) (h_ram : may .ram := by assumption) (h_flash : may .flash := by assumption) (h_sec : may .sec := by assumption) (h_pwr : may .pwr := by assumption) (h_xing : may .xing := by assumption) :
    ∃ out, execPoolWrite snd L a ws s = .next out ∧ Kept lb may s0 out := by
  refine ⟨_, rfl, ?_⟩
  repeat' (first
    | with_reducible assumption
    | with_reducible intro v
    | exact ‹Low _ _›.of_le (by decide)
    | exact ‹Low _ _›.of_le (Nat.zero_le _)
    | with_reducible apply ask_kept
    | with_reducible apply bodyPoolWrite_kept)

theorem execImageOpen_kept {lb : Nat} {may : Part → Prop} {s0 s : State} (snd : Sender) (kind : Byte) (total : Word) (h : Kept lb may s0 s) (hn : Low lb 0x0 := by exact ‹Low _ _›.up rfl) (h_free : may .free := by assumption) (h_timers : may .timers := by assumption) (h_tick : may .tick := by assumption) (h_clk : may .clk := by assumption) (h_fab : may .fab := by assumption) (h_bus : may .bus := by assumption) (h_irq : may .irq := by assumption) (h_ain : may .ain := by assumption) (h_phantom : may .phantom := by assumption) (h_aout : may .aout := by assumption) (h_hp : may .hp := by assumption) (h_psc : may .psc := by assumption) (h_asrc : may .asrc := by assumption) (h_sap : may .sap := by assumption) (h_stew : may .stew := by assumption) (h_mbx : may .mbx := by assumption) (h_host : may .host := by assumption) (h_chain : may .chain := by assumption) (h_lsn : may .lsn := by assumption) (h_gauge : may .gauge := by assumption) (h_ram : may .ram := by assumption) (h_flash : may .flash := by assumption) (h_sec : may .sec := by assumption) (h_pwr : may .pwr := by assumption) (h_xing : may .xing := by assumption) :
    ∃ out, execImageOpen snd kind total s = .next out ∧ Kept lb may s0 out := by
  refine ⟨_, rfl, ?_⟩
  repeat' (first
    | with_reducible assumption
    | with_reducible intro v
    | exact ‹Low _ _›.of_le (by decide)
    | exact ‹Low _ _›.of_le (Nat.zero_le _)
    | with_reducible apply ask_kept
    | with_reducible apply bodyImageOpen_kept)

theorem execImageData_kept {lb : Nat} {may : Part → Prop} {s0 s : State} (snd : Sender) (off : Word) (bs : List Byte) (h : Kept lb may s0 s) (hn : Low lb 0x0 := by exact ‹Low _ _›.up rfl) (h_free : may .free := by assumption) (h_timers : may .timers := by assumption) (h_tick : may .tick := by assumption) (h_clk : may .clk := by assumption) (h_fab : may .fab := by assumption) (h_bus : may .bus := by assumption) (h_irq : may .irq := by assumption) (h_ain : may .ain := by assumption) (h_phantom : may .phantom := by assumption) (h_aout : may .aout := by assumption) (h_hp : may .hp := by assumption) (h_psc : may .psc := by assumption) (h_asrc : may .asrc := by assumption) (h_sap : may .sap := by assumption) (h_stew : may .stew := by assumption) (h_mbx : may .mbx := by assumption) (h_host : may .host := by assumption) (h_chain : may .chain := by assumption) (h_lsn : may .lsn := by assumption) (h_gauge : may .gauge := by assumption) (h_ram : may .ram := by assumption) (h_flash : may .flash := by assumption) (h_sec : may .sec := by assumption) (h_pwr : may .pwr := by assumption) (h_xing : may .xing := by assumption) :
    ∃ out, execImageData snd off bs s = .next out ∧ Kept lb may s0 out := by
  refine ⟨_, rfl, ?_⟩
  repeat' (first
    | with_reducible assumption
    | with_reducible intro v
    | exact ‹Low _ _›.of_le (by decide)
    | exact ‹Low _ _›.of_le (Nat.zero_le _)
    | with_reducible apply ask_kept
    | with_reducible apply bodyImageData_kept)

theorem execImageClose_kept {lb : Nat} {may : Part → Prop} {s0 s : State} (snd : Sender) (bad : Option Word) (h : Kept lb may s0 s) (hn : Low lb 0x0 := by exact ‹Low _ _›.up rfl) (h_free : may .free := by assumption) (h_timers : may .timers := by assumption) (h_tick : may .tick := by assumption) (h_clk : may .clk := by assumption) (h_fab : may .fab := by assumption) (h_bus : may .bus := by assumption) (h_irq : may .irq := by assumption) (h_ain : may .ain := by assumption) (h_phantom : may .phantom := by assumption) (h_aout : may .aout := by assumption) (h_hp : may .hp := by assumption) (h_psc : may .psc := by assumption) (h_asrc : may .asrc := by assumption) (h_sap : may .sap := by assumption) (h_stew : may .stew := by assumption) (h_mbx : may .mbx := by assumption) (h_host : may .host := by assumption) (h_chain : may .chain := by assumption) (h_lsn : may .lsn := by assumption) (h_gauge : may .gauge := by assumption) (h_ram : may .ram := by assumption) (h_flash : may .flash := by assumption) (h_sec : may .sec := by assumption) (h_pwr : may .pwr := by assumption) (h_xing : may .xing := by assumption) :
    ∃ out, execImageClose snd bad s = .next out ∧ Kept lb may s0 out := by
  refine ⟨_, rfl, ?_⟩
  repeat' (first
    | with_reducible assumption
    | with_reducible intro v
    | exact ‹Low _ _›.of_le (by decide)
    | exact ‹Low _ _›.of_le (Nat.zero_le _)
    | with_reducible apply ask_kept
    | with_reducible apply bodyImageClose_kept)

theorem execImageConfirm_kept {lb : Nat} {may : Part → Prop} {s0 s : State} (snd : Sender) (h : Kept lb may s0 s) (hn : Low lb 0x0 := by exact ‹Low _ _›.up rfl) (h_free : may .free := by assumption) (h_timers : may .timers := by assumption) (h_tick : may .tick := by assumption) (h_clk : may .clk := by assumption) (h_fab : may .fab := by assumption) (h_bus : may .bus := by assumption) (h_irq : may .irq := by assumption) (h_ain : may .ain := by assumption) (h_phantom : may .phantom := by assumption) (h_aout : may .aout := by assumption) (h_hp : may .hp := by assumption) (h_psc : may .psc := by assumption) (h_asrc : may .asrc := by assumption) (h_sap : may .sap := by assumption) (h_stew : may .stew := by assumption) (h_mbx : may .mbx := by assumption) (h_host : may .host := by assumption) (h_chain : may .chain := by assumption) (h_lsn : may .lsn := by assumption) (h_gauge : may .gauge := by assumption) (h_ram : may .ram := by assumption) (h_flash : may .flash := by assumption) (h_sec : may .sec := by assumption) (h_pwr : may .pwr := by assumption) (h_xing : may .xing := by assumption) :
    ∃ out, execImageConfirm snd s = .next out ∧ Kept lb may s0 out := by
  refine ⟨_, rfl, ?_⟩
  repeat' (first
    | with_reducible assumption
    | with_reducible intro v
    | exact ‹Low _ _›.of_le (by decide)
    | exact ‹Low _ _›.of_le (Nat.zero_le _)
    | with_reducible apply ask_kept
    | with_reducible apply bodyImageConfirm_kept)

theorem execImageAbort_kept {lb : Nat} {may : Part → Prop} {s0 s : State} (snd : Sender) (h : Kept lb may s0 s) (hn : Low lb 0x0 := by exact ‹Low _ _›.up rfl) (h_free : may .free := by assumption) (h_timers : may .timers := by assumption) (h_tick : may .tick := by assumption) (h_clk : may .clk := by assumption) (h_fab : may .fab := by assumption) (h_bus : may .bus := by assumption) (h_irq : may .irq := by assumption) (h_ain : may .ain := by assumption) (h_phantom : may .phantom := by assumption) (h_aout : may .aout := by assumption) (h_hp : may .hp := by assumption) (h_psc : may .psc := by assumption) (h_asrc : may .asrc := by assumption) (h_sap : may .sap := by assumption) (h_stew : may .stew := by assumption) (h_mbx : may .mbx := by assumption) (h_host : may .host := by assumption) (h_chain : may .chain := by assumption) (h_lsn : may .lsn := by assumption) (h_gauge : may .gauge := by assumption) (h_ram : may .ram := by assumption) (h_flash : may .flash := by assumption) (h_sec : may .sec := by assumption) (h_pwr : may .pwr := by assumption) (h_xing : may .xing := by assumption) :
    ∃ out, execImageAbort snd s = .next out ∧ Kept lb may s0 out := by
  refine ⟨_, rfl, ?_⟩
  repeat' (first
    | with_reducible assumption
    | with_reducible intro v
    | exact ‹Low _ _›.of_le (by decide)
    | exact ‹Low _ _›.of_le (Nat.zero_le _)
    | with_reducible apply ask_kept
    | with_reducible apply bodyImageAbort_kept)

theorem execFlashRead_kept {lb : Nat} {may : Part → Prop} {s0 s : State} (snd : Sender) (a : Word) (n : BitVec 16) (h : Kept lb may s0 s) (hn : Low lb 0x0 := by exact ‹Low _ _›.up rfl) (h_free : may .free := by assumption) (h_timers : may .timers := by assumption) (h_tick : may .tick := by assumption) (h_clk : may .clk := by assumption) (h_fab : may .fab := by assumption) (h_bus : may .bus := by assumption) (h_irq : may .irq := by assumption) (h_ain : may .ain := by assumption) (h_phantom : may .phantom := by assumption) (h_aout : may .aout := by assumption) (h_hp : may .hp := by assumption) (h_psc : may .psc := by assumption) (h_asrc : may .asrc := by assumption) (h_sap : may .sap := by assumption) (h_stew : may .stew := by assumption) (h_mbx : may .mbx := by assumption) (h_host : may .host := by assumption) (h_chain : may .chain := by assumption) (h_lsn : may .lsn := by assumption) (h_gauge : may .gauge := by assumption) (h_ram : may .ram := by assumption) (h_flash : may .flash := by assumption) (h_sec : may .sec := by assumption) (h_pwr : may .pwr := by assumption) (h_xing : may .xing := by assumption) :
    ∃ out, execFlashRead snd a n s = .next out ∧ Kept lb may s0 out := by
  refine ⟨_, rfl, ?_⟩
  repeat' (first
    | with_reducible assumption
    | with_reducible intro v
    | exact ‹Low _ _›.of_le (by decide)
    | exact ‹Low _ _›.of_le (Nat.zero_le _)
    | with_reducible apply ask_kept
    | with_reducible apply bodyFlashRead_kept)

theorem execConvCal_kept {lb : Nat} {may : Part → Prop} {s0 s : State} (snd : Sender) (ain : BitVec 16) (aout : BitVec 16) (h : Kept lb may s0 s) (hn : Low lb 0x0 := by exact ‹Low _ _›.up rfl) (h_free : may .free := by assumption) (h_timers : may .timers := by assumption) (h_tick : may .tick := by assumption) (h_clk : may .clk := by assumption) (h_fab : may .fab := by assumption) (h_bus : may .bus := by assumption) (h_irq : may .irq := by assumption) (h_ain : may .ain := by assumption) (h_phantom : may .phantom := by assumption) (h_aout : may .aout := by assumption) (h_hp : may .hp := by assumption) (h_psc : may .psc := by assumption) (h_asrc : may .asrc := by assumption) (h_sap : may .sap := by assumption) (h_stew : may .stew := by assumption) (h_mbx : may .mbx := by assumption) (h_host : may .host := by assumption) (h_chain : may .chain := by assumption) (h_lsn : may .lsn := by assumption) (h_gauge : may .gauge := by assumption) (h_ram : may .ram := by assumption) (h_flash : may .flash := by assumption) (h_sec : may .sec := by assumption) (h_pwr : may .pwr := by assumption) (h_xing : may .xing := by assumption) :
    ∃ out, execConvCal snd ain aout s = .next out ∧ Kept lb may s0 out := by
  refine ⟨_, rfl, ?_⟩
  repeat' (first
    | with_reducible assumption
    | with_reducible intro v
    | exact ‹Low _ _›.of_le (by decide)
    | exact ‹Low _ _›.of_le (Nat.zero_le _)
    | with_reducible apply ask_kept
    | with_reducible apply bodyConvCal_kept)

theorem execGaugeCal_kept {lb : Nat} {may : Part → Prop} {s0 s : State} (snd : Sender) (m : Byte) (h : Kept lb may s0 s) (hn : Low lb 0x0 := by exact ‹Low _ _›.up rfl) (h_free : may .free := by assumption) (h_timers : may .timers := by assumption) (h_tick : may .tick := by assumption) (h_clk : may .clk := by assumption) (h_fab : may .fab := by assumption) (h_bus : may .bus := by assumption) (h_irq : may .irq := by assumption) (h_ain : may .ain := by assumption) (h_phantom : may .phantom := by assumption) (h_aout : may .aout := by assumption) (h_hp : may .hp := by assumption) (h_psc : may .psc := by assumption) (h_asrc : may .asrc := by assumption) (h_sap : may .sap := by assumption) (h_stew : may .stew := by assumption) (h_mbx : may .mbx := by assumption) (h_host : may .host := by assumption) (h_chain : may .chain := by assumption) (h_lsn : may .lsn := by assumption) (h_gauge : may .gauge := by assumption) (h_ram : may .ram := by assumption) (h_flash : may .flash := by assumption) (h_sec : may .sec := by assumption) (h_pwr : may .pwr := by assumption) (h_xing : may .xing := by assumption) :
    ∃ out, execGaugeCal snd m s = .next out ∧ Kept lb may s0 out := by
  refine ⟨_, rfl, ?_⟩
  repeat' (first
    | with_reducible assumption
    | with_reducible intro v
    | exact ‹Low _ _›.of_le (by decide)
    | exact ‹Low _ _›.of_le (Nat.zero_le _)
    | with_reducible apply ask_kept
    | with_reducible apply bodyGaugeCal_kept)

theorem execTwcXfer_kept {lb : Nat} {may : Part → Prop} {s0 s : State} (snd : Sender) (a : Byte) (rlen : Byte) (pec : Byte) (ws : List Byte) (h : Kept lb may s0 s) (hn : Low lb 0x0 := by exact ‹Low _ _›.up rfl) (h_free : may .free := by assumption) (h_timers : may .timers := by assumption) (h_tick : may .tick := by assumption) (h_clk : may .clk := by assumption) (h_fab : may .fab := by assumption) (h_bus : may .bus := by assumption) (h_irq : may .irq := by assumption) (h_ain : may .ain := by assumption) (h_phantom : may .phantom := by assumption) (h_aout : may .aout := by assumption) (h_hp : may .hp := by assumption) (h_psc : may .psc := by assumption) (h_asrc : may .asrc := by assumption) (h_sap : may .sap := by assumption) (h_stew : may .stew := by assumption) (h_mbx : may .mbx := by assumption) (h_host : may .host := by assumption) (h_chain : may .chain := by assumption) (h_lsn : may .lsn := by assumption) (h_gauge : may .gauge := by assumption) (h_ram : may .ram := by assumption) (h_flash : may .flash := by assumption) (h_sec : may .sec := by assumption) (h_pwr : may .pwr := by assumption) (h_xing : may .xing := by assumption) :
    ∃ out, execTwcXfer snd a rlen pec ws s = .next out ∧ Kept lb may s0 out := by
  refine ⟨_, rfl, ?_⟩
  repeat' (first
    | with_reducible assumption
    | with_reducible intro v
    | exact ‹Low _ _›.of_le (by decide)
    | exact ‹Low _ _›.of_le (Nat.zero_le _)
    | with_reducible apply ask_kept
    | with_reducible apply bodyTwcXfer_kept)

theorem execAdopt_kept {lb : Nat} {may : Part → Prop} {s0 s : State} (snd : Sender) (owner : BitVec 16) (h : Kept lb may s0 s) (hn : Low lb 0x0 := by exact ‹Low _ _›.up rfl) (h_free : may .free := by assumption) (h_timers : may .timers := by assumption) (h_tick : may .tick := by assumption) (h_clk : may .clk := by assumption) (h_fab : may .fab := by assumption) (h_bus : may .bus := by assumption) (h_irq : may .irq := by assumption) (h_ain : may .ain := by assumption) (h_phantom : may .phantom := by assumption) (h_aout : may .aout := by assumption) (h_hp : may .hp := by assumption) (h_psc : may .psc := by assumption) (h_asrc : may .asrc := by assumption) (h_sap : may .sap := by assumption) (h_stew : may .stew := by assumption) (h_mbx : may .mbx := by assumption) (h_host : may .host := by assumption) (h_chain : may .chain := by assumption) (h_lsn : may .lsn := by assumption) (h_gauge : may .gauge := by assumption) (h_ram : may .ram := by assumption) (h_flash : may .flash := by assumption) (h_sec : may .sec := by assumption) (h_pwr : may .pwr := by assumption) (h_xing : may .xing := by assumption) :
    ∃ out, execAdopt snd owner s = .next out ∧ Kept lb may s0 out := by
  refine ⟨_, rfl, ?_⟩
  repeat' (first
    | with_reducible assumption
    | with_reducible intro v
    | exact ‹Low _ _›.of_le (by decide)
    | exact ‹Low _ _›.of_le (Nat.zero_le _)
    | with_reducible apply ask_kept
    | with_reducible apply bodyAdopt_kept)

theorem execRelease_kept {lb : Nat} {may : Part → Prop} {s0 s : State} (snd : Sender) (h : Kept lb may s0 s) (hn : Low lb 0x0 := by exact ‹Low _ _›.up rfl) (h_free : may .free := by assumption) (h_timers : may .timers := by assumption) (h_tick : may .tick := by assumption) (h_clk : may .clk := by assumption) (h_fab : may .fab := by assumption) (h_bus : may .bus := by assumption) (h_irq : may .irq := by assumption) (h_ain : may .ain := by assumption) (h_phantom : may .phantom := by assumption) (h_aout : may .aout := by assumption) (h_hp : may .hp := by assumption) (h_psc : may .psc := by assumption) (h_asrc : may .asrc := by assumption) (h_sap : may .sap := by assumption) (h_stew : may .stew := by assumption) (h_mbx : may .mbx := by assumption) (h_host : may .host := by assumption) (h_chain : may .chain := by assumption) (h_lsn : may .lsn := by assumption) (h_gauge : may .gauge := by assumption) (h_ram : may .ram := by assumption) (h_flash : may .flash := by assumption) (h_sec : may .sec := by assumption) (h_pwr : may .pwr := by assumption) (h_xing : may .xing := by assumption) :
    ∃ out, execRelease snd s = .next out ∧ Kept lb may s0 out := by
  refine ⟨_, rfl, ?_⟩
  repeat' (first
    | with_reducible assumption
    | with_reducible intro v
    | exact ‹Low _ _›.of_le (by decide)
    | exact ‹Low _ _›.of_le (Nat.zero_le _)
    | with_reducible apply ask_kept
    | with_reducible apply bodyRelease_kept)

theorem execSetIdentity_kept {lb : Nat} {may : Part → Prop} {s0 s : State} (snd : Sender) (node : BitVec 16) (h : Kept lb may s0 s) (hn : Low lb 0x0 := by exact ‹Low _ _›.up rfl) (h_free : may .free := by assumption) (h_timers : may .timers := by assumption) (h_tick : may .tick := by assumption) (h_clk : may .clk := by assumption) (h_fab : may .fab := by assumption) (h_bus : may .bus := by assumption) (h_irq : may .irq := by assumption) (h_ain : may .ain := by assumption) (h_phantom : may .phantom := by assumption) (h_aout : may .aout := by assumption) (h_hp : may .hp := by assumption) (h_psc : may .psc := by assumption) (h_asrc : may .asrc := by assumption) (h_sap : may .sap := by assumption) (h_stew : may .stew := by assumption) (h_mbx : may .mbx := by assumption) (h_host : may .host := by assumption) (h_chain : may .chain := by assumption) (h_lsn : may .lsn := by assumption) (h_gauge : may .gauge := by assumption) (h_ram : may .ram := by assumption) (h_flash : may .flash := by assumption) (h_sec : may .sec := by assumption) (h_pwr : may .pwr := by assumption) (h_xing : may .xing := by assumption) :
    ∃ out, execSetIdentity snd node s = .next out ∧ Kept lb may s0 out := by
  refine ⟨_, rfl, ?_⟩
  repeat' (first
    | with_reducible assumption
    | with_reducible intro v
    | exact ‹Low _ _›.of_le (by decide)
    | exact ‹Low _ _›.of_le (Nat.zero_le _)
    | with_reducible apply ask_kept
    | with_reducible apply bodySetIdentity_kept)

theorem execFactoryReset_kept {lb : Nat} {may : Part → Prop} {s0 s : State} (snd : Sender) (h : Kept lb may s0 s) (hn : Low lb 0x0 := by exact ‹Low _ _›.up rfl) (h_free : may .free := by assumption) (h_timers : may .timers := by assumption) (h_tick : may .tick := by assumption) (h_clk : may .clk := by assumption) (h_fab : may .fab := by assumption) (h_bus : may .bus := by assumption) (h_irq : may .irq := by assumption) (h_ain : may .ain := by assumption) (h_phantom : may .phantom := by assumption) (h_aout : may .aout := by assumption) (h_hp : may .hp := by assumption) (h_psc : may .psc := by assumption) (h_asrc : may .asrc := by assumption) (h_sap : may .sap := by assumption) (h_stew : may .stew := by assumption) (h_mbx : may .mbx := by assumption) (h_host : may .host := by assumption) (h_chain : may .chain := by assumption) (h_lsn : may .lsn := by assumption) (h_gauge : may .gauge := by assumption) (h_ram : may .ram := by assumption) (h_flash : may .flash := by assumption) (h_sec : may .sec := by assumption) (h_pwr : may .pwr := by assumption) (h_xing : may .xing := by assumption) :
    ∃ out, execFactoryReset snd s = .next out ∧ Kept lb may s0 out := by
  refine ⟨_, rfl, ?_⟩
  repeat' (first
    | with_reducible assumption
    | with_reducible intro v
    | exact ‹Low _ _›.of_le (by decide)
    | exact ‹Low _ _›.of_le (Nat.zero_le _)
    | with_reducible apply ask_kept
    | with_reducible apply bodyFactoryReset_kept)

theorem execPolicyPersist_kept {lb : Nat} {may : Part → Prop} {s0 s : State} (snd : Sender) (h : Kept lb may s0 s) (hn : Low lb 0x0 := by exact ‹Low _ _›.up rfl) (h_free : may .free := by assumption) (h_timers : may .timers := by assumption) (h_tick : may .tick := by assumption) (h_clk : may .clk := by assumption) (h_fab : may .fab := by assumption) (h_bus : may .bus := by assumption) (h_irq : may .irq := by assumption) (h_ain : may .ain := by assumption) (h_phantom : may .phantom := by assumption) (h_aout : may .aout := by assumption) (h_hp : may .hp := by assumption) (h_psc : may .psc := by assumption) (h_asrc : may .asrc := by assumption) (h_sap : may .sap := by assumption) (h_stew : may .stew := by assumption) (h_mbx : may .mbx := by assumption) (h_host : may .host := by assumption) (h_chain : may .chain := by assumption) (h_lsn : may .lsn := by assumption) (h_gauge : may .gauge := by assumption) (h_ram : may .ram := by assumption) (h_flash : may .flash := by assumption) (h_sec : may .sec := by assumption) (h_pwr : may .pwr := by assumption) (h_xing : may .xing := by assumption) :
    ∃ out, execPolicyPersist snd s = .next out ∧ Kept lb may s0 out := by
  refine ⟨_, rfl, ?_⟩
  repeat' (first
    | with_reducible assumption
    | with_reducible intro v
    | exact ‹Low _ _›.of_le (by decide)
    | exact ‹Low _ _›.of_le (Nat.zero_le _)
    | with_reducible apply ask_kept
    | with_reducible apply bodyPolicyPersist_kept)

theorem execUnlockChallenge_kept {lb : Nat} {may : Part → Prop} {s0 s : State} (snd : Sender) (h : Kept lb may s0 s) (hn : Low lb 0x0 := by exact ‹Low _ _›.up rfl) (h_free : may .free := by assumption) (h_timers : may .timers := by assumption) (h_tick : may .tick := by assumption) (h_clk : may .clk := by assumption) (h_fab : may .fab := by assumption) (h_bus : may .bus := by assumption) (h_irq : may .irq := by assumption) (h_ain : may .ain := by assumption) (h_phantom : may .phantom := by assumption) (h_aout : may .aout := by assumption) (h_hp : may .hp := by assumption) (h_psc : may .psc := by assumption) (h_asrc : may .asrc := by assumption) (h_sap : may .sap := by assumption) (h_stew : may .stew := by assumption) (h_mbx : may .mbx := by assumption) (h_host : may .host := by assumption) (h_chain : may .chain := by assumption) (h_lsn : may .lsn := by assumption) (h_gauge : may .gauge := by assumption) (h_ram : may .ram := by assumption) (h_flash : may .flash := by assumption) (h_sec : may .sec := by assumption) (h_pwr : may .pwr := by assumption) (h_xing : may .xing := by assumption) :
    ∃ out, execUnlockChallenge snd s = .next out ∧ Kept lb may s0 out := by
  refine ⟨_, rfl, ?_⟩
  repeat' (first
    | with_reducible assumption
    | with_reducible intro v
    | exact ‹Low _ _›.of_le (by decide)
    | exact ‹Low _ _›.of_le (Nat.zero_le _)
    | with_reducible apply ask_kept
    | with_reducible apply bodyUnlockChallenge_kept)

theorem execUnlockResponse_kept {lb : Nat} {may : Part → Prop} {s0 s : State} (snd : Sender) (mac : BitVec 128) (h : Kept lb may s0 s) (hn : Low lb 0x0 := by exact ‹Low _ _›.up rfl) (h_free : may .free := by assumption) (h_timers : may .timers := by assumption) (h_tick : may .tick := by assumption) (h_clk : may .clk := by assumption) (h_fab : may .fab := by assumption) (h_bus : may .bus := by assumption) (h_irq : may .irq := by assumption) (h_ain : may .ain := by assumption) (h_phantom : may .phantom := by assumption) (h_aout : may .aout := by assumption) (h_hp : may .hp := by assumption) (h_psc : may .psc := by assumption) (h_asrc : may .asrc := by assumption) (h_sap : may .sap := by assumption) (h_stew : may .stew := by assumption) (h_mbx : may .mbx := by assumption) (h_host : may .host := by assumption) (h_chain : may .chain := by assumption) (h_lsn : may .lsn := by assumption) (h_gauge : may .gauge := by assumption) (h_ram : may .ram := by assumption) (h_flash : may .flash := by assumption) (h_sec : may .sec := by assumption) (h_pwr : may .pwr := by assumption) (h_xing : may .xing := by assumption) :
    ∃ out, execUnlockResponse snd mac s = .next out ∧ Kept lb may s0 out := by
  refine ⟨_, rfl, ?_⟩
  repeat' (first
    | with_reducible assumption
    | with_reducible intro v
    | exact ‹Low _ _›.of_le (by decide)
    | exact ‹Low _ _›.of_le (Nat.zero_le _)
    | with_reducible apply ask_kept
    | with_reducible apply bodyUnlockResponse_kept)

theorem execLedgerRead_kept {lb : Nat} {may : Part → Prop} {s0 s : State} (snd : Sender) (index : Word) (n : BitVec 16) (h : Kept lb may s0 s) (hn : Low lb 0x0 := by exact ‹Low _ _›.up rfl) (h_free : may .free := by assumption) (h_timers : may .timers := by assumption) (h_tick : may .tick := by assumption) (h_clk : may .clk := by assumption) (h_fab : may .fab := by assumption) (h_bus : may .bus := by assumption) (h_irq : may .irq := by assumption) (h_ain : may .ain := by assumption) (h_phantom : may .phantom := by assumption) (h_aout : may .aout := by assumption) (h_hp : may .hp := by assumption) (h_psc : may .psc := by assumption) (h_asrc : may .asrc := by assumption) (h_sap : may .sap := by assumption) (h_stew : may .stew := by assumption) (h_mbx : may .mbx := by assumption) (h_host : may .host := by assumption) (h_chain : may .chain := by assumption) (h_lsn : may .lsn := by assumption) (h_gauge : may .gauge := by assumption) (h_ram : may .ram := by assumption) (h_flash : may .flash := by assumption) (h_sec : may .sec := by assumption) (h_pwr : may .pwr := by assumption) (h_xing : may .xing := by assumption) :
    ∃ out, execLedgerRead snd index n s = .next out ∧ Kept lb may s0 out := by
  refine ⟨_, rfl, ?_⟩
  repeat' (first
    | with_reducible assumption
    | with_reducible intro v
    | exact ‹Low _ _›.of_le (by decide)
    | exact ‹Low _ _›.of_le (Nat.zero_le _)
    | with_reducible apply ask_kept
    | with_reducible apply bodyLedgerRead_kept)

theorem execMreq_kept {lb : Nat} {may : Part → Prop} {s0 s : State} (src : BitVec 16) (mseq : BitVec 16) (frame : List Byte) (h : Kept lb may s0 s) (hn : Low lb 0x0 := by exact ‹Low _ _›.up rfl) (h_free : may .free := by assumption) (h_timers : may .timers := by assumption) (h_tick : may .tick := by assumption) (h_clk : may .clk := by assumption) (h_fab : may .fab := by assumption) (h_bus : may .bus := by assumption) (h_irq : may .irq := by assumption) (h_ain : may .ain := by assumption) (h_phantom : may .phantom := by assumption) (h_aout : may .aout := by assumption) (h_hp : may .hp := by assumption) (h_psc : may .psc := by assumption) (h_asrc : may .asrc := by assumption) (h_sap : may .sap := by assumption) (h_stew : may .stew := by assumption) (h_mbx : may .mbx := by assumption) (h_host : may .host := by assumption) (h_chain : may .chain := by assumption) (h_lsn : may .lsn := by assumption) (h_gauge : may .gauge := by assumption) (h_ram : may .ram := by assumption) (h_flash : may .flash := by assumption) (h_sec : may .sec := by assumption) (h_pwr : may .pwr := by assumption) (h_xing : may .xing := by assumption) :
    ∃ out, execMreq src mseq frame s = .next out ∧ Kept lb may s0 out := by
  refine ⟨_, rfl, ?_⟩
  repeat' (first
    | with_reducible assumption
    | with_reducible intro v
    | exact ‹Low _ _›.of_le (by decide)
    | exact ‹Low _ _›.of_le (Nat.zero_le _)
    | with_reducible apply engine_kept
    | with_reducible apply arrive_kept
)

theorem execRegisterWrite_kept {lb : Nat} {may : Part → Prop} {s0 s : State} (who : Requester) (a : BitVec 24) (v : Word) (cyc : ℕ) (h : Kept lb may s0 s) (hn : Low lb 0x0 := by exact ‹Low _ _›.up rfl) (h_free : may .free := by assumption) (h_timers : may .timers := by assumption) (h_tick : may .tick := by assumption) (h_clk : may .clk := by assumption) (h_fab : may .fab := by assumption) (h_bus : may .bus := by assumption) (h_irq : may .irq := by assumption) (h_ain : may .ain := by assumption) (h_phantom : may .phantom := by assumption) (h_aout : may .aout := by assumption) (h_hp : may .hp := by assumption) (h_psc : may .psc := by assumption) (h_asrc : may .asrc := by assumption) (h_sap : may .sap := by assumption) (h_stew : may .stew := by assumption) (h_mbx : may .mbx := by assumption) (h_host : may .host := by assumption) (h_chain : may .chain := by assumption) (h_lsn : may .lsn := by assumption) (h_gauge : may .gauge := by assumption) (h_ram : may .ram := by assumption) (h_flash : may .flash := by assumption) (h_sec : may .sec := by assumption) (h_pwr : may .pwr := by assumption) (h_xing : may .xing := by assumption) :
    ∃ out, execRegisterWrite who a v cyc s = .next out ∧ Kept lb may s0 out := by
  refine ⟨_, rfl, ?_⟩
  repeat' (first
    | with_reducible assumption
    | with_reducible intro v
    | exact ‹Low _ _›.of_le (by decide)
    | exact ‹Low _ _›.of_le (Nat.zero_le _)
    | with_reducible apply engine_kept
    | with_reducible apply access_kept
)

end Sys2Proof.Laws
end

