-- ==== Sys2Proof/Laws/KeptPorts.lean ====
section
/-! SUPPORT. Each operation of Machine/Ports.lean keeps the queue, the time and the invariant. -/

set_option Elab.async false

namespace Sys2Proof.Laws

open Sys2Proof.Machine

theorem hspCrcErr_kept {lb : Nat} {may : Part → Prop} {s0 s : State} (h : Kept lb may s0 s) (hn : Low lb 0x50004 := by exact ‹Low _ _›.up rfl) (h_host : may .host := by assumption) :
    Kept lb may s0 (State.hspCrcErr s) := by
  unfold State.hspCrcErr
  repeat' (first
    | with_reducible assumption
    | exact ‹Low _ _›.of_le (by decide)
    | (extract_lets +onlyGivenNames x; subst x)
    | with_reducible apply flag_kept
    | with_reducible apply hspCount_kept
    | with_reducible apply setHost_kept
    | (fail_if_no_progress beta_reduce)
    | rfl)

theorem hspAbort_kept {lb : Nat} {may : Part → Prop} {s0 s : State} (h : Kept lb may s0 s) (hn : Low lb 0x50004 := by exact ‹Low _ _›.up rfl) (h_host : may .host := by assumption) :
    Kept lb may s0 (State.hspAbort s) := by
  unfold State.hspAbort
  repeat' (first
    | with_reducible assumption
    | exact ‹Low _ _›.of_le (by decide)
    | (extract_lets +onlyGivenNames x; subst x)
    | with_reducible apply flag_kept
    | with_reducible apply hspCount_kept
    | with_reducible apply setHost_kept
    | (fail_if_no_progress beta_reduce)
    | rfl)

theorem hspMisalign_kept {lb : Nat} {may : Part → Prop} {s0 s : State} (h : Kept lb may s0 s) (hn : Low lb 0x50004 := by exact ‹Low _ _›.up rfl) (h_host : may .host := by assumption) :
    Kept lb may s0 (State.hspMisalign s) := by
  unfold State.hspMisalign
  repeat' (first
    | with_reducible assumption
    | exact ‹Low _ _›.of_le (by decide)
    | (extract_lets +onlyGivenNames x; subst x)
    | with_reducible apply flag_kept
    | with_reducible apply hspCount_kept
    | with_reducible apply setHost_kept
    | (fail_if_no_progress beta_reduce)
    | rfl)

theorem hspOverflow_kept {lb : Nat} {may : Part → Prop} {s0 s : State} (h : Kept lb may s0 s) (hn : Low lb 0x50004 := by exact ‹Low _ _›.up rfl) (h_host : may .host := by assumption) :
    Kept lb may s0 (State.hspOverflow s) := by
  unfold State.hspOverflow
  repeat' (first
    | with_reducible assumption
    | exact ‹Low _ _›.of_le (by decide)
    | (extract_lets +onlyGivenNames x; subst x)
    | with_reducible apply flag_kept
    | with_reducible apply hspCount_kept
    | with_reducible apply setHost_kept
    | (fail_if_no_progress beta_reduce)
    | rfl)

theorem hspBegin_kept {lb : Nat} {may : Part → Prop} {s0 s : State} (h : Kept lb may s0 s) (h_host : may .host := by assumption) :
    Kept lb may s0 (State.hspBegin s) := by
  unfold State.hspBegin
  repeat' (first
    | with_reducible assumption
    | (extract_lets +onlyGivenNames x; subst x)
    | with_reducible apply setHost_kept
    | intro v
    | (fail_if_no_progress beta_reduce)
    | rfl)

theorem hspOut_kept {lb : Nat} {may : Part → Prop} {s0 s : State} (ws : List Word) (h : Kept lb may s0 s) (h_host : may .host := by assumption) :
    Kept lb may s0 (State.hspOut s ws) := by
  unfold State.hspOut
  repeat' (first
    | with_reducible assumption
    | (extract_lets +onlyGivenNames x; subst x)
    | with_reducible apply setHost_kept
    | (fail_if_no_progress beta_reduce)
    | rfl)

theorem hspPost_kept {lb : Nat} {may : Part → Prop} {s0 s : State} (c : Word) (ws : List Word) (h : Kept lb may s0 s) (hn : Low lb 0x50004 := by exact ‹Low _ _›.up rfl) (h_host : may .host := by assumption) : Kept lb may s0 (State.hspPost s c ws) := by
  unfold State.hspPost
  refine Kept.foldl _ _ _ h fun u e hu => iteInduction (fun _ => hspOverflow_kept hu) fun hlt => ?_
  refine setHost_kept_of_le _ hu (.inl ?_) (.inr le_rfl)
  simp only [List.length_append, List.length_singleton]
  omega


theorem hspRead_kept {lb : Nat} {may : Part → Prop} {s0 s : State} (status : Word) (c : Word) (crc : Bool) (ws : List Word) (cyc : ℕ) (h : Kept lb may s0 s) (hn : Low lb 0x0 := by exact ‹Low _ _›.up rfl) (h_free : may .free := by assumption) (h_timers : may .timers := by assumption) (h_tick : may .tick := by assumption) (h_clk : may .clk := by assumption) (h_fab : may .fab := by assumption) (h_bus : may .bus := by assumption) (h_irq : may .irq := by assumption) (h_ain : may .ain := by assumption) (h_phantom : may .phantom := by assumption) (h_aout : may .aout := by assumption) (h_hp : may .hp := by assumption) (h_psc : may .psc := by assumption) (h_asrc : may .asrc := by assumption) (h_sap : may .sap := by assumption) (h_stew : may .stew := by assumption) (h_mbx : may .mbx := by assumption) (h_host : may .host := by assumption) (h_chain : may .chain := by assumption) (h_lsn : may .lsn := by assumption) (h_gauge : may .gauge := by assumption) (h_ram : may .ram := by assumption) (h_sec : may .sec := by assumption) (h_pwr : may .pwr := by assumption) (h_xing : may .xing := by assumption) :
    Kept lb may s0 (State.hspRead s status c crc ws cyc) := by
  unfold State.hspRead
  repeat' (first
    | with_reducible assumption
    | exact ‹Low _ _›.of_le (by decide)
    | exact ‹Low _ _›.of_le (Nat.zero_le _)
    | (extract_lets +onlyGivenNames x; subst x)
    | with_reducible apply hspAnswer_kept
    | with_reducible apply hspCrcErr_kept
    | with_reducible apply hspMisalign_kept
    | with_reducible apply arbiter_kept
    | with_reducible apply setHost_kept
    | split
    | (fail_if_no_progress beta_reduce)
    | rfl)

theorem hspWrite_kept {lb : Nat} {may : Part → Prop} {s0 s : State} (status : Word) (c : Word) (crc : Bool) (ws : List Word) (h : Kept lb may s0 s) (hn : Low lb 0x50004 := by exact ‹Low _ _›.up rfl) (h_host : may .host := by assumption) :
    Kept lb may s0 (State.hspWrite s status c crc ws) := by
  unfold State.hspWrite
  repeat' (first
    | with_reducible assumption
    | exact ‹Low _ _›.of_le (by decide)
    | (extract_lets +onlyGivenNames x; subst x)
    | with_reducible apply hspOut_kept
    | with_reducible apply hspCrcErr_kept
    | with_reducible apply hspMisalign_kept
    | with_reducible apply hspPost_kept
    | split)

theorem hspFrame_kept {lb : Nat} {may : Part → Prop} {s0 s : State} (op : ℕ) (frame : List Word) (cut : Bool) (cyc : ℕ) (h : Kept lb may s0 s) (hn : Low lb 0x0 := by exact ‹Low _ _›.up rfl) (h_free : may .free := by assumption) (h_timers : may .timers := by assumption) (h_tick : may .tick := by assumption) (h_clk : may .clk := by assumption) (h_fab : may .fab := by assumption) (h_bus : may .bus := by assumption) (h_irq : may .irq := by assumption) (h_ain : may .ain := by assumption) (h_phantom : may .phantom := by assumption) (h_aout : may .aout := by assumption) (h_hp : may .hp := by assumption) (h_psc : may .psc := by assumption) (h_asrc : may .asrc := by assumption) (h_sap : may .sap := by assumption) (h_stew : may .stew := by assumption) (h_mbx : may .mbx := by assumption) (h_host : may .host := by assumption) (h_chain : may .chain := by assumption) (h_lsn : may .lsn := by assumption) (h_gauge : may .gauge := by assumption) (h_ram : may .ram := by assumption) (h_sec : may .sec := by assumption) (h_pwr : may .pwr := by assumption) (h_xing : may .xing := by assumption) :
    Kept lb may s0 (State.hspFrame s op frame cut cyc) := by
  unfold State.hspFrame
  repeat' (first
    | with_reducible assumption
    | exact ‹Low _ _›.of_le (by decide)
    | exact ‹Low _ _›.of_le (Nat.zero_le _)
    | (extract_lets +onlyGivenNames x; subst x)
    | with_reducible apply hspAbort_kept
    | with_reducible apply hspOut_kept
    | with_reducible apply hspBegin_kept
    | with_reducible apply hspWrite_kept
    | with_reducible apply hspRead_kept
    | split)

theorem execHspRegisterRead_kept {lb : Nat} {may : Part → Prop} {s0 s : State} (frame : List Word) (cut : Bool) (cyc : ℕ) (h : Kept lb may s0 s) (hn : Low lb 0x0 := by exact ‹Low _ _›.up rfl) (h_free : may .free := by assumption) (h_timers : may .timers := by assumption) (h_tick : may .tick := by assumption) (h_clk : may .clk := by assumption) (h_fab : may .fab := by assumption) (h_bus : may .bus := by assumption) (h_irq : may .irq := by assumption) (h_ain : may .ain := by assumption) (h_phantom : may .phantom := by assumption) (h_aout : may .aout := by assumption) (h_hp : may .hp := by assumption) (h_psc : may .psc := by assumption) (h_asrc : may .asrc := by assumption) (h_sap : may .sap := by assumption) (h_stew : may .stew := by assumption) (h_mbx : may .mbx := by assumption) (h_host : may .host := by assumption) (h_chain : may .chain := by assumption) (h_lsn : may .lsn := by assumption) (h_gauge : may .gauge := by assumption) (h_ram : may .ram := by assumption) (h_flash : may .flash := by assumption) (h_sec : may .sec := by assumption) (h_pwr : may .pwr := by assumption) (h_xing : may .xing := by assumption) :
    ∃ out, execHspRegisterRead frame cut cyc s = .next out ∧ Kept lb may s0 out := by
  refine ⟨_, rfl, ?_⟩
  repeat' (first
    | with_reducible assumption
    | with_reducible intro v
    | exact ‹Low _ _›.of_le (by decide)
    | exact ‹Low _ _›.of_le (Nat.zero_le _)
    | with_reducible apply engine_kept
    | with_reducible apply hspFrame_kept
)

theorem execHspRegisterWrite_kept {lb : Nat} {may : Part → Prop} {s0 s : State} (frame : List Word) (cut : Bool) (h : Kept lb may s0 s) (hn : Low lb 0x0 := by exact ‹Low _ _›.up rfl) (h_free : may .free := by assumption) (h_timers : may .timers := by assumption) (h_tick : may .tick := by assumption) (h_clk : may .clk := by assumption) (h_fab : may .fab := by assumption) (h_bus : may .bus := by assumption) (h_irq : may .irq := by assumption) (h_ain : may .ain := by assumption) (h_phantom : may .phantom := by assumption) (h_aout : may .aout := by assumption) (h_hp : may .hp := by assumption) (h_psc : may .psc := by assumption) (h_asrc : may .asrc := by assumption) (h_sap : may .sap := by assumption) (h_stew : may .stew := by assumption) (h_mbx : may .mbx := by assumption) (h_host : may .host := by assumption) (h_chain : may .chain := by assumption) (h_lsn : may .lsn := by assumption) (h_gauge : may .gauge := by assumption) (h_ram : may .ram := by assumption) (h_sec : may .sec := by assumption) (h_pwr : may .pwr := by assumption) (h_xing : may .xing := by assumption) :
    ∃ out, execHspRegisterWrite frame cut s = .next out ∧ Kept lb may s0 out := by
  refine ⟨_, rfl, ?_⟩
  repeat' (first
    | with_reducible assumption
    | with_reducible intro v
    | exact ‹Low _ _›.of_le (by decide)
    | exact ‹Low _ _›.of_le (Nat.zero_le _)
    | with_reducible apply hspFrame_kept
)

theorem execSysRamRead_kept {lb : Nat} {may : Part → Prop} {s0 s : State} (frame : List Word) (cut : Bool) (cyc : ℕ) (h : Kept lb may s0 s) (hn : Low lb 0x0 := by exact ‹Low _ _›.up rfl) (h_free : may .free := by assumption) (h_timers : may .timers := by assumption) (h_tick : may .tick := by assumption) (h_clk : may .clk := by assumption) (h_fab : may .fab := by assumption) (h_bus : may .bus := by assumption) (h_irq : may .irq := by assumption) (h_ain : may .ain := by assumption) (h_phantom : may .phantom := by assumption) (h_aout : may .aout := by assumption) (h_hp : may .hp := by assumption) (h_psc : may .psc := by assumption) (h_asrc : may .asrc := by assumption) (h_sap : may .sap := by assumption) (h_stew : may .stew := by assumption) (h_mbx : may .mbx := by assumption) (h_host : may .host := by assumption) (h_chain : may .chain := by assumption) (h_lsn : may .lsn := by assumption) (h_gauge : may .gauge := by assumption) (h_ram : may .ram := by assumption) (h_flash : may .flash := by assumption) (h_sec : may .sec := by assumption) (h_pwr : may .pwr := by assumption) (h_xing : may .xing := by assumption) :
    ∃ out, execSysRamRead frame cut cyc s = .next out ∧ Kept lb may s0 out := by
  refine ⟨_, rfl, ?_⟩
  repeat' (first
    | with_reducible assumption
    | with_reducible intro v
    | exact ‹Low _ _›.of_le (by decide)
    | exact ‹Low _ _›.of_le (Nat.zero_le _)
    | with_reducible apply engine_kept
    | with_reducible apply hspFrame_kept
)

theorem execSysRamWrite_kept {lb : Nat} {may : Part → Prop} {s0 s : State} (frame : List Word) (cut : Bool) (h : Kept lb may s0 s) (hn : Low lb 0x0 := by exact ‹Low _ _›.up rfl) (h_free : may .free := by assumption) (h_timers : may .timers := by assumption) (h_tick : may .tick := by assumption) (h_clk : may .clk := by assumption) (h_fab : may .fab := by assumption) (h_bus : may .bus := by assumption) (h_irq : may .irq := by assumption) (h_ain : may .ain := by assumption) (h_phantom : may .phantom := by assumption) (h_aout : may .aout := by assumption) (h_hp : may .hp := by assumption) (h_psc : may .psc := by assumption) (h_asrc : may .asrc := by assumption) (h_sap : may .sap := by assumption) (h_stew : may .stew := by assumption) (h_mbx : may .mbx := by assumption) (h_host : may .host := by assumption) (h_chain : may .chain := by assumption) (h_lsn : may .lsn := by assumption) (h_gauge : may .gauge := by assumption) (h_ram : may .ram := by assumption) (h_sec : may .sec := by assumption) (h_pwr : may .pwr := by assumption) (h_xing : may .xing := by assumption) :
    ∃ out, execSysRamWrite frame cut s = .next out ∧ Kept lb may s0 out := by
  refine ⟨_, rfl, ?_⟩
  repeat' (first
    | with_reducible assumption
    | with_reducible intro v
    | exact ‹Low _ _›.of_le (by decide)
    | exact ‹Low _ _›.of_le (Nat.zero_le _)
    | with_reducible apply hspFrame_kept
)

theorem execPostedWrite_kept {lb : Nat} {may : Part → Prop} {s0 s : State} (cyc : ℕ) (h : Kept lb may s0 s) (hn : Low lb 0x0 := by exact ‹Low _ _›.up rfl) (h_free : may .free := by assumption) (h_timers : may .timers := by assumption) (h_tick : may .tick := by assumption) (h_clk : may .clk := by assumption) (h_fab : may .fab := by assumption) (h_bus : may .bus := by assumption) (h_irq : may .irq := by assumption) (h_ain : may .ain := by assumption) (h_phantom : may .phantom := by assumption) (h_aout : may .aout := by assumption) (h_hp : may .hp := by assumption) (h_psc : may .psc := by assumption) (h_asrc : may .asrc := by assumption) (h_sap : may .sap := by assumption) (h_stew : may .stew := by assumption) (h_mbx : may .mbx := by assumption) (h_host : may .host := by assumption) (h_chain : may .chain := by assumption) (h_lsn : may .lsn := by assumption) (h_gauge : may .gauge := by assumption) (h_ram : may .ram := by assumption) (h_flash : may .flash := by assumption) (h_sec : may .sec := by assumption) (h_pwr : may .pwr := by assumption) (h_xing : may .xing := by assumption) :
    ∃ out, execPostedWrite cyc s = .next out ∧ Kept lb may s0 out := by
  refine ⟨_, rfl, ?_⟩
  repeat' (first
    | with_reducible assumption
    | with_reducible intro v
    | exact ‹Low _ _›.of_le (by decide)
    | exact ‹Low _ _›.of_le (Nat.zero_le _)
    | with_reducible apply engine_kept
    | with_reducible apply postedWrite_kept
    | split)

theorem execHostMbxGo_kept {lb : Nat} {may : Part → Prop} {s0 s : State} (len : BitVec 13) (cyc : ℕ) (h : Kept lb may s0 s) (hn : Low lb 0x0 := by exact ‹Low _ _›.up rfl) (h_free : may .free := by assumption) (h_timers : may .timers := by assumption) (h_tick : may .tick := by assumption) (h_clk : may .clk := by assumption) (h_fab : may .fab := by assumption) (h_bus : may .bus := by assumption) (h_irq : may .irq := by assumption) (h_ain : may .ain := by assumption) (h_phantom : may .phantom := by assumption) (h_aout : may .aout := by assumption) (h_hp : may .hp := by assumption) (h_psc : may .psc := by assumption) (h_asrc : may .asrc := by assumption) (h_sap : may .sap := by assumption) (h_stew : may .stew := by assumption) (h_mbx : may .mbx := by assumption) (h_host : may .host := by assumption) (h_chain : may .chain := by assumption) (h_lsn : may .lsn := by assumption) (h_gauge : may .gauge := by assumption) (h_ram : may .ram := by assumption) (h_flash : may .flash := by assumption) (h_sec : may .sec := by assumption) (h_pwr : may .pwr := by assumption) (h_xing : may .xing := by assumption) :
    ∃ out, execHostMbxGo len cyc s = .next out ∧ Kept lb may s0 out := by
  refine ⟨_, rfl, ?_⟩
  repeat' (first
    | with_reducible assumption
    | with_reducible intro v
    | exact ‹Low _ _›.of_le (by decide)
    | exact ‹Low _ _›.of_le (Nat.zero_le _)
    | with_reducible apply byRow_kept
    | with_reducible apply engine_kept
    | with_reducible apply onBus_kept
    | with_reducible apply mbxGo_kept
)

theorem execHostMbxDiscard_kept {lb : Nat} {may : Part → Prop} {s0 s : State} (h : Kept lb may s0 s) (hn : Low lb 0x5001c := by exact ‹Low _ _›.up rfl) (h_bus : may .bus := by assumption) (h_host : may .host := by assumption) :
    ∃ out, execHostMbxDiscard s = .next out ∧ Kept lb may s0 out := by
  refine ⟨_, rfl, ?_⟩
  repeat' (first
    | with_reducible assumption
    | with_reducible intro v
    | exact ‹Low _ _›.of_le (by decide)
    | with_reducible apply byRow_kept
    | with_reducible apply onBus_kept
    | with_reducible apply mbxDiscard_kept
)

theorem execHostMbxRxRead_kept {lb : Nat} {may : Part → Prop} {s0 s : State} (h : Kept lb may s0 s) (h_bus : may .bus := by assumption) (h_host : may .host := by assumption) :
    ∃ out, execHostMbxRxRead s = .next out ∧ Kept lb may s0 out := by
  refine ⟨_, rfl, ?_⟩
  repeat' (first
    | with_reducible assumption
    | with_reducible intro v
    | with_reducible apply byRow_kept
    | with_reducible apply mbxRead_kept
    | with_reducible apply readDone_kept
)

theorem twtStart_kept {lb : Nat} {may : Part → Prop} {s0 s : State} (pins : BitVec 2) (h : Kept lb may s0 s) (hn : Low lb 0x50044 := by exact ‹Low _ _›.up rfl) :
    Kept lb may s0 (State.twtStart s pins) := by
  unfold State.twtStart
  repeat' (first
    | with_reducible assumption
    | exact ‹Low _ _›.of_le (by decide)
    | with_reducible apply set_kept
)

theorem twtNack_kept {lb : Nat} {may : Part → Prop} {s0 s : State} (h : Kept lb may s0 s) (hn : Low lb 0x50048 := by exact ‹Low _ _›.up rfl) :
    Kept lb may s0 (State.twtNack s) := by
  unfold State.twtNack
  repeat' (first
    | with_reducible assumption
    | exact ‹Low _ _›.of_le (by decide)
    | with_reducible apply flag_kept
)

theorem twtTransfer_kept {lb : Nat} {may : Part → Prop} {s0 s : State} (a1 : BitVec 7) (pins : BitVec 2) (write : Bool) (w : ℕ) (act : State → State) (hact : ∀  u, Kept lb may s0 u → Kept lb may s0 (act  u)) (h : Kept lb may s0 s) (hn : Low lb 0x50044 := by exact ‹Low _ _›.up rfl) (h_host : may .host := by assumption) :
    Kept lb may s0 (State.twtTransfer s a1 pins write w act) := by
  unfold State.twtTransfer
  repeat' (first
    | with_reducible assumption
    | exact ‹Low _ _›.of_le (by decide)
    | (extract_lets +onlyGivenNames x; refine (have hx : Kept lb may s0 x := ?_; ?_); rotate_left; clear_value x; rotate_right; subst x)
    | (extract_lets +onlyGivenNames x; subst x)
    | with_reducible apply twtStart_kept
    | with_reducible apply setHost_kept
    | with_reducible apply flagIf_kept
    | with_reducible apply hact
    | split
    | (fail_if_no_progress beta_reduce)
    | rfl)

theorem twtReturn_kept {lb : Nat} {may : Part → Prop} {s0 s : State} (n : ℕ) (bs : List Byte) (h : Kept lb may s0 s) (h_host : may .host := by assumption) :
    Kept lb may s0 (State.twtReturn s n bs) := by
  unfold State.twtReturn
  repeat' (first
    | with_reducible assumption
    | (extract_lets +onlyGivenNames x; subst x)
    | with_reducible apply setHost_kept
    | (fail_if_no_progress beta_reduce)
    | rfl)

theorem twtRequest_kept {lb : Nat} {may : Part → Prop} {s0 s : State} (bs : List Byte) (cyc : ℕ) (h : Kept lb may s0 s) (hn : Low lb 0x0 := by exact ‹Low _ _›.up rfl) (h_free : may .free := by assumption) (h_timers : may .timers := by assumption) (h_tick : may .tick := by assumption) (h_clk : may .clk := by assumption) (h_fab : may .fab := by assumption) (h_bus : may .bus := by assumption) (h_irq : may .irq := by assumption) (h_ain : may .ain := by assumption) (h_phantom : may .phantom := by assumption) (h_aout : may .aout := by assumption) (h_hp : may .hp := by assumption) (h_psc : may .psc := by assumption) (h_asrc : may .asrc := by assumption) (h_sap : may .sap := by assumption) (h_stew : may .stew := by assumption) (h_mbx : may .mbx := by assumption) (h_host : may .host := by assumption) (h_chain : may .chain := by assumption) (h_lsn : may .lsn := by assumption) (h_gauge : may .gauge := by assumption) (h_ram : may .ram := by assumption) (h_flash : may .flash := by assumption) (h_sec : may .sec := by assumption) (h_pwr : may .pwr := by assumption) (h_xing : may .xing := by assumption) :
    Kept lb may s0 (State.twtRequest s bs cyc) := by
  unfold State.twtRequest
  repeat' (first
    | with_reducible assumption
    | exact ‹Low _ _›.of_le (by decide)
    | exact ‹Low _ _›.of_le (Nat.zero_le _)
    | with_reducible apply twtNack_kept
    | with_reducible apply engine_kept
    | with_reducible apply enqueue_kept
    | split)

theorem twtResponse_kept {lb : Nat} {may : Part → Prop} {s0 s : State} (n : ℕ) (h : Kept lb may s0 s) (hn : Low lb 0x50048 := by exact ‹Low _ _›.up rfl) (h_host : may .host := by assumption) :
    Kept lb may s0 (State.twtResponse s n) := by
  unfold State.twtResponse
  repeat' (first
    | with_reducible assumption
    | exact ‹Low _ _›.of_le (by decide)
    | (extract_lets +onlyGivenNames x; subst x)
    | with_reducible apply twtReturn_kept
    | with_reducible apply setHost_kept
    | with_reducible apply twtNack_kept
    | split
    | (fail_if_no_progress beta_reduce)
    | rfl)

theorem twtStream_kept {lb : Nat} {may : Part → Prop} {s0 s : State} (bs : List Byte) (h : Kept lb may s0 s) (hn : Low lb 0x50048 := by exact ‹Low _ _›.up rfl) (h_fab : may .fab := by assumption) (h_mbx : may .mbx := by assumption) :
    Kept lb may s0 (State.twtStream s bs) := by
  unfold State.twtStream
  repeat' (first
    | with_reducible assumption
    | exact ‹Low _ _›.of_le (by decide)
    | (extract_lets +onlyGivenNames x; subst x)
    | with_reducible apply flagIf_kept
    | with_reducible apply imageAppend_kept
    | split)

theorem twtClaim_kept {lb : Nat} {may : Part → Prop} {s0 s : State} (h : Kept lb may s0 s) (hn : Low lb 0x40008 := by exact ‹Low _ _›.up rfl) (h_irq : may .irq := by assumption) (h_host : may .host := by assumption) :
    Kept lb may s0 (State.twtClaim s) := by
  unfold State.twtClaim
  repeat' (first
    | with_reducible assumption
    | exact ‹Low _ _›.of_le (by decide)
    | (extract_lets +onlyGivenNames x; subst x)
    | with_reducible apply claim_kept
    | with_reducible apply twtReturn_kept)

theorem twtComplete_kept {lb : Nat} {may : Part → Prop} {s0 s : State} (bs : List Byte) (h : Kept lb may s0 s) (hn : Low lb 0x40004 := by exact ‹Low _ _›.up rfl) (h_irq : may .irq := by assumption) :
    Kept lb may s0 (State.twtComplete s bs) := by
  unfold State.twtComplete
  repeat' (first
    | with_reducible assumption
    | exact ‹Low _ _›.of_le (by decide)
    | with_reducible apply completeSource_kept
    | with_reducible apply flagIf_kept
    | split)

theorem execMailboxWrite_kept {lb : Nat} {may : Part → Prop} {s0 s : State} (a0 : BitVec 7) (pins : BitVec 2) (bs : List Byte) (cyc : ℕ) (h : Kept lb may s0 s) (hn : Low lb 0x0 := by exact ‹Low _ _›.up rfl) (h_free : may .free := by assumption) (h_timers : may .timers := by assumption) (h_tick : may .tick := by assumption) (h_clk : may .clk := by assumption) (h_fab : may .fab := by assumption) (h_bus : may .bus := by assumption) (h_irq : may .irq := by assumption) (h_ain : may .ain := by assumption) (h_phantom : may .phantom := by assumption) (h_aout : may .aout := by assumption) (h_hp : may .hp := by assumption) (h_psc : may .psc := by assumption) (h_asrc : may .asrc := by assumption) (h_sap : may .sap := by assumption) (h_stew : may .stew := by assumption) (h_mbx : may .mbx := by assumption) (h_host : may .host := by assumption) (h_chain : may .chain := by assumption) (h_lsn : may .lsn := by assumption) (h_gauge : may .gauge := by assumption) (h_ram : may .ram := by assumption) (h_flash : may .flash := by assumption) (h_sec : may .sec := by assumption) (h_pwr : may .pwr := by assumption) (h_xing : may .xing := by assumption) :
    ∃ out, execMailboxWrite a0 pins bs cyc s = .next out ∧ Kept lb may s0 out := by
  refine ⟨_, rfl, ?_⟩
  repeat' (first
    | with_reducible assumption
    | exact ‹Low _ _›.of_le (by decide)
    | exact ‹Low _ _›.of_le (Nat.zero_le _)
    | with_reducible apply twtTransfer_kept
    | with_reducible apply twtRequest_kept
    | intro v)

theorem execMailboxRead_kept {lb : Nat} {may : Part → Prop} {s0 s : State} (a0 : BitVec 7) (pins : BitVec 2) (n : ℕ) (h : Kept lb may s0 s) (hn : Low lb 0x50044 := by exact ‹Low _ _›.up rfl) (h_host : may .host := by assumption) :
    ∃ out, execMailboxRead a0 pins n s = .next out ∧ Kept lb may s0 out := by
  refine ⟨_, rfl, ?_⟩
  repeat' (first
    | with_reducible assumption
    | exact ‹Low _ _›.of_le (by decide)
    | with_reducible apply twtTransfer_kept
    | with_reducible apply twtResponse_kept
    | intro v)

theorem execStatusRead_kept {lb : Nat} {may : Part → Prop} {s0 s : State} (a0 : BitVec 7) (pins : BitVec 2) (n : ℕ) (h : Kept lb may s0 s) (hn : Low lb 0x50044 := by exact ‹Low _ _›.up rfl) (h_host : may .host := by assumption) :
    ∃ out, execStatusRead a0 pins n s = .next out ∧ Kept lb may s0 out := by
  refine ⟨_, rfl, ?_⟩
  repeat' (first
    | with_reducible assumption
    | exact ‹Low _ _›.of_le (by decide)
    | with_reducible apply twtTransfer_kept
    | with_reducible apply twtReturn_kept
    | intro v)

theorem execStreamWrite_kept {lb : Nat} {may : Part → Prop} {s0 s : State} (a0 : BitVec 7) (pins : BitVec 2) (bs : List Byte) (h : Kept lb may s0 s) (hn : Low lb 0x50044 := by exact ‹Low _ _›.up rfl) (h_fab : may .fab := by assumption) (h_mbx : may .mbx := by assumption) (h_host : may .host := by assumption) :
    ∃ out, execStreamWrite a0 pins bs s = .next out ∧ Kept lb may s0 out := by
  refine ⟨_, rfl, ?_⟩
  repeat' (first
    | with_reducible assumption
    | exact ‹Low _ _›.of_le (by decide)
    | with_reducible apply twtTransfer_kept
    | with_reducible apply twtStream_kept
    | intro v)

theorem execClaimRead_kept {lb : Nat} {may : Part → Prop} {s0 s : State} (a0 : BitVec 7) (pins : BitVec 2) (h : Kept lb may s0 s) (hn : Low lb 0x40008 := by exact ‹Low _ _›.up rfl) (h_irq : may .irq := by assumption) (h_host : may .host := by assumption) :
    ∃ out, execClaimRead a0 pins s = .next out ∧ Kept lb may s0 out := by
  refine ⟨_, rfl, ?_⟩
  repeat' (first
    | with_reducible assumption
    | with_reducible intro v
    | exact ‹Low _ _›.of_le (by decide)
    | with_reducible apply twtTransfer_kept
    | with_reducible apply twtClaim_kept
)

theorem execClaimWrite_kept {lb : Nat} {may : Part → Prop} {s0 s : State} (a0 : BitVec 7) (pins : BitVec 2) (bs : List Byte) (h : Kept lb may s0 s) (hn : Low lb 0x40004 := by exact ‹Low _ _›.up rfl) (h_irq : may .irq := by assumption) (h_host : may .host := by assumption) :
    ∃ out, execClaimWrite a0 pins bs s = .next out ∧ Kept lb may s0 out := by
  refine ⟨_, rfl, ?_⟩
  repeat' (first
    | with_reducible assumption
    | exact ‹Low _ _›.of_le (by decide)
    | with_reducible apply twtTransfer_kept
    | with_reducible apply twtComplete_kept
    | intro v)

theorem execTwtAbort_kept {lb : Nat} {may : Part → Prop} {s0 s : State} (a0 : BitVec 7) (pins : BitVec 2) (bs : List Byte) (h : Kept lb may s0 s) (hn : Low lb 0x50044 := by exact ‹Low _ _›.up rfl) (h_fab : may .fab := by assumption) (h_mbx : may .mbx := by assumption) (h_host : may .host := by assumption) :
    ∃ out, execTwtAbort a0 pins bs s = .next out ∧ Kept lb may s0 out := by
  refine ⟨_, rfl, ?_⟩
  repeat' (first
    | with_reducible assumption
    | exact ‹Low _ _›.of_le (by decide)
    | with_reducible apply flag_kept
    | with_reducible apply count_kept
    | with_reducible apply twtTransfer_kept
    | with_reducible apply imageAppend_kept
    | intro v
    | split)

theorem twtWake_kept {lb : Nat} {may : Part → Prop} {s0 s : State} (a1 : BitVec 7) (pins : BitVec 2) (h : Kept lb may s0 s) (hn : Low lb 0x0 := by exact ‹Low _ _›.up rfl) (h_timers : may .timers := by assumption) (h_tick : may .tick := by assumption) (h_clk : may .clk := by assumption) (h_bus : may .bus := by assumption) (h_ain : may .ain := by assumption) (h_phantom : may .phantom := by assumption) (h_aout : may .aout := by assumption) (h_hp : may .hp := by assumption) (h_psc : may .psc := by assumption) (h_asrc : may .asrc := by assumption) (h_sap : may .sap := by assumption) (h_host : may .host := by assumption) (h_chain : may .chain := by assumption) (h_lsn : may .lsn := by assumption) (h_pwr : may .pwr := by assumption) (h_xing : may .xing := by assumption) :
    Kept lb may s0 (State.twtWake s a1 pins) := by
  unfold State.twtWake
  repeat' (first
    | with_reducible assumption
    | exact ‹Low _ _›.of_le (by decide)
    | exact ‹Low _ _›.of_le (Nat.zero_le _)
    | (extract_lets +onlyGivenNames x; subst x)
    | with_reducible apply wake_kept
    | with_reducible apply setHost_kept
    | with_reducible apply flagIf_kept
    | intro v
    | split
    | (fail_if_no_progress beta_reduce)
    | rfl)

theorem execTwtWake_kept {lb : Nat} {may : Part → Prop} {s0 s : State} (a0 : BitVec 7) (pins : BitVec 2) (h : Kept lb may s0 s) (hn : Low lb 0x0 := by exact ‹Low _ _›.up rfl) (h_timers : may .timers := by assumption) (h_tick : may .tick := by assumption) (h_clk : may .clk := by assumption) (h_bus : may .bus := by assumption) (h_ain : may .ain := by assumption) (h_phantom : may .phantom := by assumption) (h_aout : may .aout := by assumption) (h_hp : may .hp := by assumption) (h_psc : may .psc := by assumption) (h_asrc : may .asrc := by assumption) (h_sap : may .sap := by assumption) (h_host : may .host := by assumption) (h_chain : may .chain := by assumption) (h_lsn : may .lsn := by assumption) (h_pwr : may .pwr := by assumption) (h_xing : may .xing := by assumption) :
    ∃ out, execTwtWake a0 pins s = .next out ∧ Kept lb may s0 out := by
  refine ⟨_, rfl, ?_⟩
  repeat' (first
    | with_reducible assumption
    | with_reducible intro v
    | exact ‹Low _ _›.of_le (by decide)
    | exact ‹Low _ _›.of_le (Nat.zero_le _)
    | with_reducible apply twtWake_kept
)

end Sys2Proof.Laws
end

