-- ==== Sys2Proof/Laws/KeptParcel.lean ====
section
/-! SUPPORT. Each operation of Machine/Parcel.lean keeps the queue, the time and the invariant. -/

set_option Elab.async false

namespace Sys2Proof.Laws

open Sys2Proof.Machine

theorem nextParcel_kept {lb : Nat} {may : Part → Prop} {s0 s : State} (p : ℕ) (err : Bool) (h : Kept lb may s0 s) (h_chain : may .chain := by assumption) :
    Kept lb may s0 (State.nextParcel s p err) := by
  unfold State.nextParcel
  repeat' (first
    | with_reducible assumption
    | (extract_lets +onlyGivenNames x; clear_value x)
    | with_reducible apply setPort_kept)

theorem noteErrored_kept {lb : Nat} {may : Part → Prop} {s0 s : State} (p : ℕ) (h : Kept lb may s0 s) (hn : Low lb 0x7000c := by exact ‹Low _ _›.up rfl) (h_timers : may .timers := by assumption) (h_stew : may .stew := by assumption) (h_chain : may .chain := by assumption) :
    Kept lb may s0 (State.noteErrored s p) := by
  unfold State.noteErrored
  repeat' (first
    | with_reducible assumption
    | exact ‹Low _ _›.of_le (by decide)
    | (extract_lets +onlyGivenNames x; refine (have hx : Kept lb may s0 x := ?_; ?_); rotate_left; clear_value x; rotate_right; subst x)
    | with_reducible apply nextParcel_kept
    | with_reducible apply degrade_kept
    | split)

theorem noteParcel_kept {lb : Nat} {may : Part → Prop} {s0 s : State} (p : ℕ) (err : Bool) (h : Kept lb may s0 s) (hn : Low lb 0x7000c := by exact ‹Low _ _›.up rfl) (h_timers : may .timers := by assumption) (h_stew : may .stew := by assumption) (h_chain : may .chain := by assumption) :
    Kept lb may s0 (State.noteParcel s p err) := by
  unfold State.noteParcel
  repeat' (first
    | with_reducible assumption
    | exact ‹Low _ _›.up1 rfl
    | exact ‹Low _ _›.of_le (by decide)
    | with_reducible apply noteErrored_kept
    | with_reducible apply count_kept
    | with_reducible apply nextParcel_kept
    | split)

theorem controlArea_kept {lb : Nat} {may : Part → Prop} {s0 s : State} (d : ℕ) (passed : List (List Byte)) (h : Kept lb may s0 s) (h_chain : may .chain := by assumption) :
    Kept lb may s0 (State.controlArea s d passed).2 := by
  unfold State.controlArea
  repeat' (first
    | with_reducible assumption
    | (extract_lets +onlyGivenNames x; subst x)
    | with_reducible apply setPort_kept
    | split)

theorem sideArea_kept {lb : Nat} {may : Part → Prop} {s0 s : State} (d : ℕ) (n : ℕ) (segs : List (List Byte)) (h : Kept lb may s0 s) (h_chain : may .chain := by assumption) :
    Kept lb may s0 (State.sideArea s d n segs).2 := by
  unfold State.sideArea
  repeat' (first
    | with_reducible assumption
    | (extract_lets +onlyGivenNames x; subst x; beta_reduce)
    | with_reducible apply setPort_kept
    | with_reducible apply Kept.foldl
    | with_reducible apply Kept.foldl_snd
    | with_reducible apply Kept.foldl_fst
    | intro v
    | split)

theorem chEvent_kept {lb : Nat} {may : Part → Prop} {s0 s : State} (h : Kept lb may s0 s) (hn : Low lb 0x40008 := by exact ‹Low _ _›.up rfl) (h_irq : may .irq := by assumption) (h_chain : may .chain := by assumption) :
    Kept lb may s0 (State.chEvent s) := by
  unfold State.chEvent
  repeat' (first
    | with_reducible assumption
    | exact ‹Low _ _›.of_le (by decide)
    | (extract_lets +onlyGivenNames x; subst x)
    | with_reducible apply followLevels_kept
    | with_reducible apply claim_kept
    | with_reducible apply sendMsg_kept
    | split)

theorem sendParcel_kept {lb : Nat} {may : Part → Prop} {s0 s : State} (d : ℕ) (b : Beacon) (cells : List (List Byte)) (slots : List (List Byte)) (segs : List (List Byte)) (h : Kept lb may s0 s) (hn : Low lb 0x40008 := by exact ‹Low _ _›.up rfl) (h_irq : may .irq := by assumption) (h_chain : may .chain := by assumption) :
    Kept lb may s0 (State.sendParcel s d b cells slots segs) := by
  unfold State.sendParcel
  repeat' (first
    | with_reducible assumption
    | exact ‹Low _ _›.of_le (by decide)
    | (extract_lets +onlyGivenNames x; subst x)
    | with_reducible apply queueFeed_kept
    | with_reducible apply chEvent_kept
    | with_reducible apply controlArea_kept
    | with_reducible apply sideArea_kept
    | with_reducible apply setPort_kept
    | intro v
    | split)

theorem emitClosure_kept {lb : Nat} {may : Part → Prop} {s0 s : State} (d : ℕ) (dep : ℕ) (h : Kept lb may s0 s) (hn : Low lb 0x40008 := by exact ‹Low _ _›.up rfl) (h_irq : may .irq := by assumption) (h_chain : may .chain := by assumption) :
    Kept lb may s0 (State.emitClosure s d dep) := by
  unfold State.emitClosure
  repeat' (first
    | with_reducible assumption
    | exact ‹Low _ _›.of_le (by decide)
    | (extract_lets +onlyGivenNames x; subst x)
    | with_reducible apply setPort_kept
    | with_reducible apply showTopo_kept
    | with_reducible apply setChain_kept
    | with_reducible apply sendParcel_kept)

theorem emitOrigin_kept {lb : Nat} {may : Part → Prop} {s0 s : State} (d : ℕ) (h : Kept lb may s0 s) (hn : Low lb 0x40008 := by exact ‹Low _ _›.up rfl) (h_irq : may .irq := by assumption) (h_chain : may .chain := by assumption) :
    Kept lb may s0 (State.emitOrigin s d) := by
  unfold State.emitOrigin
  repeat' (first
    | with_reducible assumption
    | exact ‹Low _ _›.of_le (by decide)
    | (split <;> exact ‹Low _ _›.of_le (by decide))
    | (extract_lets +onlyGivenNames x; refine (have hx : Kept lb may s0 x := ?_; ?_); rotate_left; clear_value x; rotate_right; subst x)
    | (extract_lets +onlyGivenNames x; clear_value x)
    | with_reducible apply set_kept
    | with_reducible apply sendParcel_kept)

theorem emitParcel_kept {lb : Nat} {may : Part → Prop} {s0 s : State} (d : ℕ) (dep : ℕ) (h : Kept lb may s0 s) (hn : Low lb 0x40008 := by exact ‹Low _ _›.up rfl) (h_irq : may .irq := by assumption) (h_chain : may .chain := by assumption) :
    Kept lb may s0 (State.emitParcel s d dep) := by
  unfold State.emitParcel
  repeat' (first
    | with_reducible assumption
    | exact ‹Low _ _›.of_le (by decide)
    | with_reducible apply emitClosure_kept
    | with_reducible apply emitOrigin_kept
    | split)

theorem forwardParcel_kept {lb : Nat} {may : Part → Prop} {s0 s : State} (p : ℕ) (b : Beacon) (pc : Parcel) (arr : ℤ) (h : Kept lb may s0 s) (hn : Low lb 0x40008 := by exact ‹Low _ _›.up rfl) (h_irq : may .irq := by assumption) (h_chain : may .chain := by assumption) :
    Kept lb may s0 (State.forwardParcel s p b pc arr) := by
  unfold State.forwardParcel
  repeat' (first
    | with_reducible assumption
    | exact ‹Low _ _›.of_le (by decide)
    | (extract_lets +onlyGivenNames x; refine (have hx : Kept lb may s0 x := ?_; ?_); rotate_left; clear_value x; rotate_right; subst x)
    | (extract_lets +onlyGivenNames x; clear_value x)
    | with_reducible apply set_kept
    | with_reducible apply sendParcel_kept
    | intro v
    | split)

theorem measureDelay_kept {lb : Nat} {may : Part → Prop} {s0 s : State} (p : ℕ) (cell : List Byte) (b : Beacon) (arr : ℤ) (h : Kept lb may s0 s) (hn : Low lb 0x1a010c := by exact ‹Low _ _›.up rfl) (h_chain : may .chain := by assumption) :
    Kept lb may s0 (State.measureDelay s p cell b arr) := by
  unfold State.measureDelay
  repeat' (first
    | with_reducible assumption
    | exact ‹Low _ _›.up1 rfl
    | exact ‹Low _ _›.of_le (by decide)
    | (extract_lets +onlyGivenNames x; subst x)
    | with_reducible apply setInt_kept
    | with_reducible apply setPort_kept
    | with_reducible apply Kept.foldl
    | with_reducible apply Kept.foldl_snd
    | with_reducible apply Kept.foldl_fst
    | intro v
    | split)

theorem measureResidence_kept {lb : Nat} {may : Part → Prop} {s0 s : State} (p : ℕ) (b : Beacon) (arr : ℤ) (h : Kept lb may s0 s) (hn : Low lb 0x1a0004 := by exact ‹Low _ _›.up rfl) (h_chain : may .chain := by assumption) :
    Kept lb may s0 (State.measureResidence s p b arr) := by
  unfold State.measureResidence
  repeat' (first
    | with_reducible assumption
    | exact ‹Low _ _›.up1 rfl
    | exact ‹Low _ _›.of_le (by decide)
    | (extract_lets +onlyGivenNames x; subst x)
    | with_reducible apply flagIf_kept
    | with_reducible apply set_kept
    | with_reducible apply setPort_kept
    | with_reducible apply excludePeer_kept
    | split)

theorem takeCopy_kept {lb : Nat} {may : Part → Prop} {s0 s : State} (p : ℕ) (i : ℕ) (j : ℕ) (arr : ℤ) (bs : List Byte) (h : Kept lb may s0 s) (hn : Low lb 0x1a0420 := by exact ‹Low _ _›.up rfl) (h_chain : may .chain := by assumption) :
    Kept lb may s0 (State.takeCopy s p i j arr bs) := by
  unfold State.takeCopy
  repeat' (first
    | with_reducible assumption
    | exact ‹Low _ _›.up1 rfl
    | exact ‹Low _ _›.of_le (by decide)
    | (extract_lets +onlyGivenNames x; subst x)
    | with_reducible apply setSub_kept
    | with_reducible apply flag_kept
    | with_reducible apply count_kept
    | split)

theorem takeSlots_kept {lb : Nat} {may : Part → Prop} {s0 s : State} (p : ℕ) (arr : ℤ) (slots : List (List Byte)) (h : Kept lb may s0 s) (hn : Low lb 0x1a0114 := by exact ‹Low _ _›.up rfl) (h_chain : may .chain := by assumption) :
    Kept lb may s0 (State.takeSlots s p arr slots) := by
  unfold State.takeSlots
  repeat' (first
    | with_reducible assumption
    | exact ‹Low _ _›.up1 rfl
    | exact ‹Low _ _›.of_le (by decide)
    | with_reducible apply takeCopy_kept
    | with_reducible apply count_kept
    | with_reducible apply Kept.foldl
    | with_reducible apply Kept.foldl_snd
    | with_reducible apply Kept.foldl_fst
    | intro v
    | split)

theorem takeCell_kept {lb : Nat} {may : Part → Prop} {s0 s : State} (old : List CellMsg) (kept : List CellMsg) (c : List Byte) (h : Kept lb may s0 s) (hn : Low lb 0x1a0004 := by exact ‹Low _ _›.up rfl) (h_timers : may .timers := by assumption) (h_mbx : may .mbx := by assumption) (h_chain : may .chain := by assumption) :
    Kept lb may s0 (State.takeCell s old kept c).2 := by
  unfold State.takeCell
  repeat' (first
    | with_reducible assumption
    | exact ‹Low _ _›.of_le (by decide)
    | (extract_lets +onlyGivenNames x; subst x)
    | with_reducible apply dupId_kept
    | with_reducible apply arrive_kept
    | intro v
    | split)

theorem takeCells_kept {lb : Nat} {may : Part → Prop} {s0 s : State} (p : ℕ) (cells : List (List Byte)) (h : Kept lb may s0 s) (hn : Low lb 0x1a0004 := by exact ‹Low _ _›.up rfl) (h_timers : may .timers := by assumption) (h_mbx : may .mbx := by assumption) (h_chain : may .chain := by assumption) :
    Kept lb may s0 (State.takeCells s p cells) := by
  unfold State.takeCells
  repeat' (first
    | with_reducible assumption
    | exact ‹Low _ _›.of_le (by decide)
    | (extract_lets +onlyGivenNames x; subst x)
    | with_reducible apply takeCell_kept
    | with_reducible apply setPort_kept
    | with_reducible apply Kept.foldl
    | with_reducible apply Kept.foldl_snd
    | with_reducible apply Kept.foldl_fst
    | intro v)

theorem sideFrame_kept {lb : Nat} {may : Part → Prop} {s0 s : State} (src : ℕ) (fseq : ℕ) (f : List Byte) (h : Kept lb may s0 s) (hn : Low lb 0x1a050c := by exact ‹Low _ _›.up rfl) (h_chain : may .chain := by assumption) :
    Kept lb may s0 (State.sideFrame s src fseq f) := by
  unfold State.sideFrame
  repeat' (first
    | with_reducible assumption
    | exact ‹Low _ _›.of_le (by decide)
    | (extract_lets +onlyGivenNames x; subst x)
    | with_reducible apply queueReceive_kept
    | with_reducible apply setChain_kept
    | split)

theorem takeSegment_kept {lb : Nat} {may : Part → Prop} {s0 s : State} (p : ℕ) (g : List Byte) (h : Kept lb may s0 s) (hn : Low lb 0x1a050c := by exact ‹Low _ _›.up rfl) (h_chain : may .chain := by assumption) :
    Kept lb may s0 (State.takeSegment s p g) := by
  unfold State.takeSegment
  repeat' (first
    | with_reducible assumption
    | exact ‹Low _ _›.of_le (by decide)
    | (extract_lets +onlyGivenNames x; subst x)
    | with_reducible apply setPort_kept
    | with_reducible apply sideFrame_kept
    | intro v
    | split)

theorem tickError_kept {lb : Nat} {may : Part → Prop} {s0 s : State} (e : ℤ) (h : Kept lb may s0 s) (hn : Low lb 0x1a0414 := by exact ‹Low _ _›.up rfl) (h_chain : may .chain := by assumption) :
    Kept lb may s0 (State.tickError s e) := by
  unfold State.tickError
  repeat' (first
    | with_reducible assumption
    | exact ‹Low _ _›.of_le (by decide)
    | (extract_lets +onlyGivenNames x; clear_value x)
    | with_reducible apply setInt_kept
    | with_reducible apply setChain_kept)

theorem takeTime_kept {lb : Nat} {may : Part → Prop} {s0 s : State} (p : ℕ) (b : Beacon) (arr : ℤ) (h : Kept lb may s0 s) (hn : Low lb 0x1a0004 := by exact ‹Low _ _›.up rfl) (h_timers : may .timers := by assumption) (h_chain : may .chain := by assumption) :
    Kept lb may s0 (State.takeTime s p b arr) := by
  unfold State.takeTime
  repeat' (first
    | with_reducible assumption
    | exact ‹Low _ _›.of_le (by decide)
    | (extract_lets +onlyGivenNames x; refine (have hx : Kept lb may s0 x := ?_; ?_); rotate_left; clear_value x; rotate_right; subst x)
    | (extract_lets +onlyGivenNames x; clear_value x)
    | with_reducible apply followMaster_kept
    | with_reducible apply hearMaster_kept
    | with_reducible apply set_kept
    | with_reducible apply tickError_kept
    | with_reducible apply showTopo_kept
    | with_reducible apply setChain_kept
    | with_reducible apply setPofs_kept
    | with_reducible apply watchBetter_kept
    | split)

theorem takeClosure_kept {lb : Nat} {may : Part → Prop} {s0 s : State} (p : ℕ) (b : Beacon) (pc : Parcel) (arr : ℤ) (h : Kept lb may s0 s) (hn : Low lb 0x1a0004 := by exact ‹Low _ _›.up rfl) (h_chain : may .chain := by assumption) :
    Kept lb may s0 (State.takeClosure s p b pc arr) := by
  unfold State.takeClosure
  repeat' (first
    | with_reducible assumption
    | exact ‹Low _ _›.of_le (by decide)
    | (extract_lets +onlyGivenNames x; subst x; beta_reduce)
    | with_reducible apply setPort_kept
    | with_reducible apply showTopo_kept
    | with_reducible apply setChain_kept
    | with_reducible apply measureLoop_kept
    | intro v
    | split)

theorem receiveParcel_kept {lb : Nat} {may : Part → Prop} {s0 s : State} (p : ℕ) (pc : Parcel) (now : ℕ) (h : Kept lb may s0 s) (hn : Low lb 0x40008 := by exact ‹Low _ _›.up rfl) (h_timers : may .timers := by assumption) (h_irq : may .irq := by assumption) (h_stew : may .stew := by assumption) (h_mbx : may .mbx := by assumption) (h_chain : may .chain := by assumption) : Kept lb may s0 (State.receiveParcel s p pc now) := by
  unfold State.receiveParcel
  refine iteInduction (fun _ => h) fun _ => ?_
  split
  · exact noteErrored_kept _ (parcelsMissing_kept _ _ h)
  · rename_i b _
    extract_lets arr link goodLink err x keeps s1 _ s2 s3 s4 s5 t1 t2 t3 t4 t5 t6 t7 t8 t9
    have h1 : Kept lb may s0 s1 := setPort_kept _ _ h
    have h2 : Kept lb may s0 s2 := iteInduction (fun _ => setChain_kept _ h1) fun _ => h1
    have h3 : Kept lb may s0 s3 := noteParcel_kept _ _ h2
    have h4 : Kept lb may s0 s4 := iteInduction (fun _ => measureDelay_kept _ _ _ _ h3) fun _ => h3
    have h5 : Kept lb may s0 s5 := measureResidence_kept _ _ _ h4

    refine iteInduction (fun _ => h5) fun _ => ?_
    have k1 : Kept lb may s0 t1 := iteInduction (fun _ => excludedNow_kept _ h5) fun _ => h5
    have k2 : Kept lb may s0 t2 := iteInduction (fun _ => excludePeer_kept _ k1) fun _ => k1
    have k3 : Kept lb may s0 t3 := iteInduction (fun _ => dupId_kept k2) fun _ => k2
    have k4 : Kept lb may s0 t4 := takeTime_kept _ _ _ k3
    have k5 : Kept lb may s0 t5 := takeSlots_kept _ _ _ k4
    have k6 : Kept lb may s0 t6 := takeCells_kept _ _ k5
    have k7 : Kept lb may s0 t7 := Kept.foldl _ _ _ k6 fun _ _ hu => takeSegment_kept _ _ hu
    have k8 : Kept lb may s0 t8 := takeClosure_kept _ _ _ _ k7
    have k9 : Kept lb may s0 t9 := forwardParcel_kept _ _ _ _ k8
    exact iteInduction (fun _ => linkTest_kept _ _ k9) fun _ => k9


theorem execParcelEmit_kept {lb : Nat} {may : Part → Prop} {s0 s : State} (d : Fin 2) (dep : BitVec 32) (h : Kept lb may s0 s) (hn : Low lb 0x40008 := by exact ‹Low _ _›.up rfl) (h_irq : may .irq := by assumption) (h_chain : may .chain := by assumption) :
    ∃ out, execParcelEmit d dep s = .next out ∧ Kept lb may s0 out := by
  refine ⟨_, rfl, ?_⟩
  repeat' (first
    | with_reducible assumption
    | with_reducible intro v
    | exact ‹Low _ _›.of_le (by decide)
    | with_reducible apply emitParcel_kept
)

theorem execParcelReceive_kept {lb : Nat} {may : Part → Prop} {s0 s : State} (p : Fin 2) (pc : Parcel) (now : BitVec 32) (h : Kept lb may s0 s) (hn : Low lb 0x40008 := by exact ‹Low _ _›.up rfl) (h_timers : may .timers := by assumption) (h_irq : may .irq := by assumption) (h_stew : may .stew := by assumption) (h_mbx : may .mbx := by assumption) (h_chain : may .chain := by assumption) :
    ∃ out, execParcelReceive p pc now s = .next out ∧ Kept lb may s0 out := by
  refine ⟨_, rfl, ?_⟩
  repeat' (first
    | with_reducible assumption
    | with_reducible intro v
    | exact ‹Low _ _›.of_le (by decide)
    | with_reducible apply receiveParcel_kept
)

end Sys2Proof.Laws
end

