-- ==== Sys2Proof/Laws/KeptIdle.lean ====
section
/-! SUPPORT. Each operation of Machine/Idle.lean keeps the queue, the time and the invariant. -/

set_option Elab.async false

namespace Sys2Proof.Laws

open Sys2Proof.Machine

theorem poweredMs_kept {lb : Nat} {may : Part → Prop} {s0 s : State} (h : Kept lb may s0 s) (hn : Low lb 0x70018 := by exact ‹Low _ _›.up rfl) (h_stew : may .stew := by assumption) :
    Kept lb may s0 (State.poweredMs s) := by
  unfold State.poweredMs
  repeat' (first
    | with_reducible assumption
    | exact ‹Low _ _›.of_le (by decide)
    | (extract_lets +onlyGivenNames x; subst x)
    | with_reducible apply setStew_kept
    | with_reducible apply count_kept
    | split)

theorem resetNow_kept {lb : Nat} {may : Part → Prop} {s0 s : State} (h : Kept lb may s0 s) (hn : Low lb 0x0 := by exact ‹Low _ _›.up rfl) (h_timers : may .timers := by assumption) (h_tick : may .tick := by assumption) (h_clk : may .clk := by assumption) (h_fab : may .fab := by assumption) (h_bus : may .bus := by assumption) (h_irq : may .irq := by assumption) (h_ain : may .ain := by assumption) (h_phantom : may .phantom := by assumption) (h_aout : may .aout := by assumption) (h_hp : may .hp := by assumption) (h_psc : may .psc := by assumption) (h_asrc : may .asrc := by assumption) (h_sap : may .sap := by assumption) (h_stew : may .stew := by assumption) (h_mbx : may .mbx := by assumption) (h_host : may .host := by assumption) (h_chain : may .chain := by assumption) (h_lsn : may .lsn := by assumption) (h_gauge : may .gauge := by assumption) (h_ram : may .ram := by assumption) (h_sec : may .sec := by assumption) (h_pwr : may .pwr := by assumption) (h_xing : may .xing := by assumption) :
    Kept lb may s0 (State.resetNow s) := by
  unfold State.resetNow
  repeat' (first
    | with_reducible assumption
    | exact ‹Low _ _›.of_le (by decide)
    | exact ‹Low _ _›.of_le (Nat.zero_le _)
    | with_reducible apply resetDevice_kept
    | split)

theorem sysMs_kept {lb : Nat} {may : Part → Prop} {s0 s : State} (h : Kept lb may s0 s) (hn : Low lb 0x0 := by exact ‹Low _ _›.up rfl) (h_free : may .free := by assumption) (h_timers : may .timers := by assumption) (h_tick : may .tick := by assumption) (h_clk : may .clk := by assumption) (h_fab : may .fab := by assumption) (h_bus : may .bus := by assumption) (h_irq : may .irq := by assumption) (h_ain : may .ain := by assumption) (h_phantom : may .phantom := by assumption) (h_aout : may .aout := by assumption) (h_hp : may .hp := by assumption) (h_psc : may .psc := by assumption) (h_asrc : may .asrc := by assumption) (h_sap : may .sap := by assumption) (h_stew : may .stew := by assumption) (h_mbx : may .mbx := by assumption) (h_host : may .host := by assumption) (h_chain : may .chain := by assumption) (h_lsn : may .lsn := by assumption) (h_gauge : may .gauge := by assumption) (h_ram : may .ram := by assumption) (h_flash : may .flash := by assumption) (h_sec : may .sec := by assumption) (h_pwr : may .pwr := by assumption) (h_xing : may .xing := by assumption) :
    Kept lb may s0 (State.sysMs s) := by
  unfold State.sysMs
  repeat' (first
    | with_reducible assumption
    | exact ‹Low _ _›.of_le (by decide)
    | exact ‹Low _ _›.of_le (Nat.zero_le _)
    | (extract_lets +onlyGivenNames x; refine (have hx : Kept lb may s0 x := ?_; ?_); rotate_left; clear_value x; rotate_right; subst x)
    | with_reducible apply clkMs_kept
    | with_reducible apply ainAdvanceAll_kept
    | with_reducible apply aoResetMs_kept
    | with_reducible apply hpMs_kept
    | with_reducible apply aoSettle_kept
    | with_reducible apply pscMs_kept
    | with_reducible apply asrcMs_kept
    | with_reducible apply modHeld_kept
    | with_reducible apply watchBetter_kept
    | with_reducible apply xingMs_kept
    | with_reducible apply resetNow_kept
    | with_reducible apply ungateEnded_kept
    | with_reducible apply gpioFollow_kept
    | with_reducible apply engine_kept
    | with_reducible apply flashStep_kept
    | with_reducible apply watchMargin_kept
    | with_reducible apply liveSettle_kept
    | with_reducible apply vfabMs_kept
    | with_reducible apply coreMs_kept
    | with_reducible apply skimMs_kept
    | with_reducible apply poweredMs_kept
    | with_reducible apply gaugeMs_kept
    | with_reducible refine Kept.foldl _ _ _ ?_ fun _ _ _ => ?_
    | with_reducible refine Kept.foldl_snd _ _ _ ?_ fun _ _ _ => ?_
    | with_reducible refine Kept.foldl_fst _ _ _ ?_ fun _ _ _ => ?_
    | intro v
    | split)

/-- On an empty queue only the time passes on; queue and invariant are kept. -/
theorem idle_kept (s : State) : Kept 0 (fun _ => True) { s with now := s.now + 1 } s.idle := by
  unfold State.idle
  extract_lets u t
  have hu : Kept 0 (fun _ => True) u u := .refl u
  have ht : Kept 0 (fun _ => True) u t := by
    apply featureMs_kept <;> first | exact Low.zero _ | trivial | skip
    apply w1Tick_kept <;> first | exact Low.zero _ | trivial | skip
    exact showPres_kept hu (Low.zero _)
  refine iteInduction (fun _ => hu) fun _ => ?_
  apply evaluateIrq_kept <;> first | exact Low.zero _ | trivial | skip
  refine iteInduction (fun _ => ?_) fun _ => ht
  apply sysMs_kept <;> first | exact ht | exact Low.zero _ | trivial

end Sys2Proof.Laws
end

