-- ==== Sys2Proof/Laws/Service.lean ====
section
/-! SUPPORT. The mailbox engine where nothing is under way. -/

set_option Elab.async false

namespace Sys2Proof.Machine

theorem State.sendResponses_nil (s : State) (h : s.mbx.chainOut = []) : s.sendResponses = s := by
  unfold State.sendResponses
  rw [h]
  show { s with mbx := { s.mbx with chainOut := [] } } = s
  rw [← h]

/-- With nothing under way the engine does nothing. -/
theorem State.engine_idle (s : State) (h : Quiet s) : s.engine = s := by
  unfold State.engine
  split
  · have b : s.burstEnd = s := by
      unfold State.burstEnd
      rw [h.2.2.1]
    have e : State.runEngine 8 s = s := by
      unfold State.runEngine
      rw [h.2.2.1, h.1]
      rfl
    rw [s.arbiter_quiet h, b, e, State.sendResponses_nil s h.2.1]
  · rfl

end Sys2Proof.Machine
end

