-- ==== Sys2Proof/Laws/Slots.lean ====
section
/-! SUPPORT. What one slot word does to its jet, said once: the shared steps of every row that executes a slot word, and the
operands and results in W registers. -/

set_option Elab.async false

namespace Sys2Proof.Machine

open Sys2Proof.Laws

/-- A slot word that is ready acts on the jet as it stands, and the jet goes on to the next slot. -/
theorem runWord_ready {op b j : Nat} {s : State} {sl : Slot} {x : Jet} (h : SlotReady op b j s sl x) (f : Slot → JetCtx → JetCtx) :
    s.runWord b j f = (let c := f sl { basin := s.basin b, j := j, jet := x, cyc := x.cycle, tcnt := s.tick.count.toNat % 2 ^ 32, rate := s.rate, free := s.free }
      { s.setBasin b (c.basin.setJet j { c.jet with slot := c.jet.slot + 1, cycle := x.cycle + slotCost sl }) with free := c.free }) := by
  obtain ⟨h1, h2, h3, h4, h5, h6, h7⟩ := h
  unfold State.runWord
  have e : (s.basin b).jet j = x := h1
  simp only [h3, e, h6, List.length_nil, State.serveUntil]
  have r : x.receive x.cycle = x := by simp [Jet.receive, h7]; cases x; simp_all
  simp only [r, h5, Nat.lt_irrefl, if_false]

/-- Putting a jet back into a basin that kept its pool, cascade and jets touches nothing else. -/
theorem OnlyJet.of_put {b j : Nat} {s : State} {c : JetCtx} {f : Nat} {z : Jet}
    (hp : c.basin.pool = (s.basin b).pool) (hc : c.basin.cascade = (s.basin b).cascade) (hj : c.basin.jets = (s.basin b).jets) : OnlyJet b j s { s.setBasin b (c.basin.setJet j z) with free := f } := by
  refine ⟨?_, rfl, ?_, ?_, ?_, ?_⟩
  · refine ⟨fun _ _ _ => rfl, rfl, rfl, fun p hp => ?_⟩
    cases p <;> first | exact absurd (by decide) hp | rfl
  · intro b' hb
    simp [State.setBasin, State.setFab, State.basin, tabGet_put, hb]
  · intro i hi
    simp [State.jetAt, State.setBasin, State.setFab, State.basin, Basin.jet, Basin.setJet, tabGet_put, hi, hj]
  · simpa [State.setBasin, State.setFab, State.basin, Basin.setJet, tabGet_put] using hp
  · simpa [State.setBasin, State.setFab, State.basin, Basin.setJet, tabGet_put] using hc

/-- The jet just put back. -/
theorem jetAt_self {b j : Nat} {s : State} {x : Basin} {f : Nat} {z : Jet} : State.jetAt { s.setBasin b (x.setJet j z) with free := f } b j = z := by
  simp [State.jetAt, State.setBasin, State.setFab, State.basin, Basin.jet, Basin.setJet]

/-- A W register as a source operand. -/
theorem read_w (c : JetCtx) (sl : Slot) (n : Nat) (h : n < 64) : c.read sl n = c.jet.wVal n := by
  have : c.srcAddr sl n = none := by unfold JetCtx.srcAddr; rw [if_neg (by omega), if_neg (by omega)]
  simp only [JetCtx.read, JetCtx.readAt, this, JetCtx.special]
  rw [if_pos (by omega)]; rfl

/-- Saturation twice is saturation once. -/
theorem satTo_idem (w : Nat) (v : Int) : satTo w (satTo w v) = satTo w v := by
  simp only [satTo, clampInt]
  have : (0 : Int) < 2 ^ (w - 1) := by positivity
  omega

/-- A result of the arithmetic group in a W register, with its flags. -/
theorem arith_w (c : JetCtx) (sl : Slot) (r : SlotResult) (hd : sl.dst < 64) (hv : satTo 40 r.value = r.value) :
    c.arith sl r = { c with jet := (c.jet.putW sl.dst r.value r.cut).znv r.value r.ovf } := by
  have hn (c : JetCtx) : c.dstAddr sl sl.dst = none := by unfold JetCtx.dstAddr; rw [if_neg (by omega), if_neg (by omega)]
  simp only [JetCtx.arith, JetCtx.storeResult, JetCtx.store, hn, hv, decide_eq_true hd, Bool.true_or, Bool.and_true]
  rw [if_neg (by omega), if_pos (by omega)]
  cases r.cut <;> simp [JetCtx.sticky, JetCtx.setW, JetCtx.setFlags, Jet.putW, Jet.znv, JetFlags.arith]

end Sys2Proof.Machine
end

