-- ==== Sys2Proof/WellFormed.lean ====
section
/-! DEFINITION. Which commands can occur: the bounds that an operand's type alone does not give. A grant falls in one of
the at most 16,384 FAB cycles of a tick (02_tick_and_commit.md, the table of tick rates); a chain node is a 10-bit number
(14_chain_links.md, the beacon); a parcel is cut as R269 fixes; a mailbox payload has the length that its port allows (R357). The meanings are total: they take an ill-formed command too. -/

namespace Sys2Proof

/-- A FAB cycle of the tick. -/
def cycleOk (cyc : Nat) : Bool := decide (cyc < 16384)

/-- A chain node. -/
def nodeOk (n : Nat) : Bool := decide (n < 1024)

/-- A mailbox port: over the chain it names a node. -/
def portOk : MbxPort → Bool
  | .hsp => true
  | .twt => true
  | .cells n => nodeOk n
  | .queue n => nodeOk n

/-- Payload bytes that a port carries (R357): 4,092 over HSP and TWT, 4,088 over the chain. -/
def payloadMax : MbxPort → Nat
  | .hsp => 4092
  | .twt => 4092
  | .cells _ => 4088
  | .queue _ => 4088

/-- A sender of mailbox requests. -/
def senderOk (snd : Sender) : Bool := portOk snd.port && cycleOk snd.cyc

/-- A request with `n` bytes of payload. -/
def requestOk (snd : Sender) (n : Nat) : Bool := senderOk snd && decide (n ≤ payloadMax snd.port)

/-- A parcel: a 32-byte beacon, 32-byte cells, 40-byte slots. -/
def parcelOk (p : Parcel) : Bool :=
  p.beacon.length == 32 && p.cells.all (fun c => c.length == 32) && p.slots.all fun c => c.length == 40

/-- A command that can occur. A command not named here has only operands that their types bound. -/
def Instr.wellFormed : Instr → Bool
  | .tcStage _ _ _ cyc => cycleOk cyc
  | .registerWrite _ _ _ cyc => cycleOk cyc
  | .devCommitGo cyc => cycleOk cyc
  | .devCommitCancel _ cyc => cycleOk cyc
  | .devCommitAtLoWrite _ cyc => cycleOk cyc
  | .devTickLoRead cyc => cycleOk cyc
  | .hspRegisterRead _ _ cyc => cycleOk cyc
  | .sysRamRead _ _ cyc => cycleOk cyc
  | .postedWrite cyc => cycleOk cyc
  | .hostMbxGo _ cyc => cycleOk cyc
  | .mailboxWrite _ _ _ cyc => cycleOk cyc
  | .marginCommit cyc => cycleOk cyc
  | .parcelReceive _ pc _ => parcelOk pc
  | .helloBlock _ block => block.length == 32
  | .announce src _ _ _ _ => nodeOk src.toNat
  | .grant src dst _ _ _ => nodeOk src.toNat && nodeOk dst.toNat
  | .testReq src _ _ => nodeOk src.toNat
  | .testGrant src _ node _ => nodeOk src.toNat && nodeOk node.toNat
  | .pofs src _ _ _ => nodeOk src.toNat
  | .mreq src _ frame => nodeOk src.toNat && decide (frame.length ≤ 4092)
  | .mrsp src _ frame => nodeOk src.toNat && decide (frame.length ≤ 4092)
  | .queueFrameReceived _ src _ frame => nodeOk src.toNat && decide (frame.length ≤ 4096)
  | .chkDone levels => decide (levels.length ≤ 31)
  | .dieTemperatureSample ts => ts.length == 6
  | .getInfo snd => senderOk snd
  | .getState snd => senderOk snd
  | .regRead snd _ _ => senderOk snd
  | .regWrite snd _ ws => requestOk snd (8 + 4 * ws.length)
  | .resetCommand snd _ => senderOk snd
  | .goLive snd => senderOk snd
  | .goLoaded snd => senderOk snd
  | .unload snd => senderOk snd
  | .enterSafe snd => senderOk snd
  | .commitCmd snd => senderOk snd
  | .commitAt snd _ => senderOk snd
  | .commitCancel snd => senderOk snd
  | .basinHold snd _ => senderOk snd
  | .basinResume snd _ => senderOk snd
  | .poolWrite snd _ _ ws => requestOk snd (8 + 4 * ws.length)
  | .imageOpen snd _ _ => senderOk snd
  | .imageData snd _ bs => requestOk snd (4 + bs.length)
  | .imageClose snd _ => senderOk snd
  | .imageConfirm snd => senderOk snd
  | .imageAbort snd => senderOk snd
  | .flashRead snd _ _ => senderOk snd
  | .convCal snd _ _ => senderOk snd
  | .gaugeCal snd _ => senderOk snd
  | .twcXfer snd _ _ _ ws => requestOk snd (4 + ws.length) && decide (ws.length < 256)
  | .adopt snd _ => senderOk snd
  | .release snd => senderOk snd
  | .setIdentity snd _ => senderOk snd
  | .factoryReset snd => senderOk snd
  | .policyPersist snd => senderOk snd
  | .unlockChallenge snd => senderOk snd
  | .unlockResponse snd _ => senderOk snd
  | .ledgerRead snd _ _ => senderOk snd
  | _ => true

end Sys2Proof
end

