-- ==== Sys2Proof/Tests/Slice0.lean ====
section
/-! SUPPORT. Tests of the model: ill-formed commands that each check refuses, small worked steps, and for each statement of
Certificates/Slice0/Obligations.lean with hypotheses a concrete state and operands that meet them. -/

set_option Elab.async false

open Sys2Proof Sys2Proof.Machine

/-! ### Small states -/

/-- The blank state with the listed fields set. -/
def bank (l : List (Fld × Nat)) (s : State := {}) : State := l.foldl (fun s f => s.set f.1 f.2) s

/-- FAB is on and its clock runs. -/
def fabOn : List (Fld × Nat) := [(Reg.PWRM_STAT.DOM_ON, 255), (Reg.CLK_STAT.REF_OK, 1), (Reg.CLK_STAT.LOCKED, 15), (Reg.SEC_STAT.LOCKED, 0)]

/-! ### Ill-formed commands, one for each check of WellFormed -/

theorem test_wf_cycle : (Instr.devCommitGo 16383).wellFormed = true ∧ (Instr.devCommitGo 16384).wellFormed = false := by decide
theorem test_wf_node : (Instr.announce 1023 0 0 0 false).wellFormed = true ∧ (Instr.announce 1024 0 0 0 false).wellFormed = false := by decide
theorem test_wf_port : (Instr.getInfo ⟨.queue 1023, 0⟩).wellFormed = true ∧ (Instr.getInfo ⟨.queue 1024, 0⟩).wellFormed = false := by decide
theorem test_wf_sender : (Instr.commitCmd ⟨.hsp, 16384⟩).wellFormed = false := by decide
theorem test_wf_payload : requestOk ⟨.hsp, 0⟩ 4092 = true ∧ requestOk ⟨.twt, 0⟩ 4093 = false ∧ requestOk ⟨.cells 1, 0⟩ 4088 = true ∧ requestOk ⟨.queue 1, 0⟩ 4089 = false := by decide
theorem test_wf_parcel : (Instr.parcelReceive 0 { beacon := List.replicate 31 0 } 0).wellFormed = false ∧
    (Instr.parcelReceive 0 { beacon := List.replicate 32 0, cells := [[]] } 0).wellFormed = false ∧
    (Instr.parcelReceive 0 { beacon := List.replicate 32 0, slots := [List.replicate 39 0] } 0).wellFormed = false ∧
    (Instr.parcelReceive 0 { beacon := List.replicate 32 0, slots := [List.replicate 40 0] } 0).wellFormed = true := by decide
theorem test_wf_hello : (Instr.helloBlock 1 (List.replicate 33 0)).wellFormed = false := by decide
theorem test_wf_levels : (Instr.chkDone (List.replicate 32 0)).wellFormed = false := by decide
theorem test_wf_sensors : (Instr.dieTemperatureSample [0, 0, 0, 0, 0]).wellFormed = false := by decide
theorem test_wf_transfer : (Instr.twcXfer ⟨.hsp, 0⟩ 0 0 0 (List.replicate 255 0)).wellFormed = true ∧
    (Instr.twcXfer ⟨.hsp, 0⟩ 0 0 0 (List.replicate 256 0)).wellFormed = false := by decide +kernel

/-! ### Small steps worked out from the manual -/

/-- The check values of the three codes over the digits 1 to 9, R127 gives the first, catalogues of CRC parameters the others. -/
theorem test_check_codes : crc32 [0x31, 0x32, 0x33, 0x34, 0x35, 0x36, 0x37, 0x38, 0x39] = 0xCBF43926 ∧ crc8 [0x31, 0x32, 0x33, 0x34, 0x35, 0x36, 0x37, 0x38, 0x39] = 0xF4 ∧
    crc16 [0x31, 0x32, 0x33, 0x34, 0x35, 0x36, 0x37, 0x38, 0x39] = 0x29B1 := by decide +kernel

/-- SHA-256 of "abc" (the worked value of FIPS 180-4). -/
theorem test_sha256 : sha256 [0x61, 0x62, 0x63] = [0xBA, 0x78, 0x16, 0xBF, 0x8F, 0x01, 0xCF, 0xEA, 0x41, 0x41, 0x40, 0xDE, 0x5D, 0xAE, 0x22, 0x23,
    0xB0, 0x03, 0x61, 0xA3, 0x96, 0x17, 0x7A, 0x9C, 0xB4, 0x10, 0xFF, 0x61, 0xF2, 0x00, 0x15, 0xAD] := by decide +kernel

/-- The usable slots of R22 at each tick rate: 48, 96, 44.1, 88.2, 192 and 176.4 kHz. -/
theorem test_usable_slots : (usableSlots 1, usableSlots 2, usableSlots 4) = (16192, 8000, 3904) := by decide

/-- The address decode worked in 24_register_index.md: 0x17_0908 is PSC_DCTEST of channel 2, and its RUN is not TC. -/
theorem test_decode_dctest : (Reg.PSC_DCTEST.word 2).addr = 0x170908 ∧ (regRow 0x170908).map (fun r => r.tc.getLsbD 31) = some false ∧
    (regRow 0x170908).map (fun r => r.tc.getLsbD 0) = some true := by decide +kernel

/-- Step 0 and step 4 of the first biquad of the crossover worked in 06_slot_words.md. -/
theorem test_slot_fields : slotOf 0x40C0100020010000 = ⟨0x20, 3, 1, 0, 0x200, 0x100, 0⟩ ∧ slotOf 0x40D0100120400004 = ⟨0x20, 3, 0x101, 1, 0x204, 0, 4⟩ := by decide +kernel

/-- A section: its header, then its payload (R130). -/
def aSection (ty : Byte) (p : List Byte) : List Byte := [ty, 0, 0, 0] ++ leBytes 4 p.length ++ leBytes 4 (crc32 p) ++ [0, 0, 0, 0] ++ p
/-- The header of the smallest useful image of 07_image_format.md, up to its CRC. -/
def aHeader : List Byte := [0x55, 0x4C, 0x51, 0x49, 3, 0, 0x40, 0, 2, 0, 0, 0, 0x44, 1, 0, 0, 1, 1, 0, 0, 0, 0, 0, 0, 1, 0, 3, 0, 0x96, 0x48, 0xB0, 0] ++ List.replicate 28 0
/-- That image, with zeros for the key and the signature. -/
def anImage (h : List Byte) : List Byte := withCrc h ++
  aSection 0x10 [1, 0, 2, 0, 0, 0, 0, 0, 0, 0x0C, 0, 0x80, 1, 0, 0, 0, 0, 0, 0, 0x8C] ++ List.replicate 12 0 ++
  aSection 0x20 [3, 0, 0, 0, 0, 0, 0, 0, 0, 0, 0, 0, 0, 0, 0, 0, 0, 0, 0, 0, 0, 0, 0, 0x90, 0, 0, 0, 0, 0, 0, 0, 0x92, 0, 0, 0, 0, 0, 0, 0, 2] ++ List.replicate 8 0 ++
  aSection 0x7F (List.replicate 132 0)

/-- The example passes the checks of its form on a device of revision 0xB0 and is refused with PRODUCT below it; its length is 324. -/
theorem test_image_form : (anImage aHeader).length = 324 ∧ hdrRefused (anImage aHeader) 0xB0 0 = none ∧ orderRefused (anImage aHeader) = none ∧ crcRefused (anImage aHeader) = none ∧
    (hdrRefused (anImage aHeader) 0xAF 0).map Refused.reason = some 0x05 := by decide +kernel

/-- The sections of the example stand where its layout says. -/
theorem test_image_sections : (imgSections (anImage aHeader)).1.map (fun x => (x.ty, x.off - 16, x.len)) = [(0x10, 0x40, 20), (0x20, 0x70, 40), (0x7F, 0xB0, 132)] := by decide +kernel

/-- The fade worked in 08_live_reconfiguration.md: 10 ms are 480 ticks, and a quarter of the way 0.5 and 0.4 mix to 0.475. -/
theorem test_fade : fadeTicks 10 48000 = 480 ∧ fadeMix false 120 480 0x40000000 0x33333333 = 0x3CCCCCCD := by decide +kernel

/-- The first pass worked in 21_faults_ageing_recovery.md plans 710 mV, and its point at 850 mV is 127 ps. -/
theorem test_plan : plannedVfab 720 40 75 40 = 710 ∧ marginPoint 40 1440 (leBytes 2 720 ++ leBytes 2 75) = (1440, 12700) := by decide +kernel

/-- SYS and its clocks run in BARE. -/
def sBare (h : HostSt := {}) : State := { bank fabOn with host := h, tick := { count := 0x123456789ABC } }

/-- A BASIN_HOLD that comes too early, worked in 19_commands_and_states.md: the request and its response, byte for byte. -/
theorem test_hold_too_early : (match execHostMbxGo 8 0 (sBare { mbxTx := [0x23, 0, 4, 0, 2, 0, 0, 0] }) with
    | .next t => t.host.mbxRsp
    | _ => []) = [0x21, 0, 0x23, 0, 2, 0, 0, 0, 6, 1] := by decide +kernel

/-- TICK_COUNT read in one frame, worked in 18_host_ports.md. -/
theorem test_read_tick : (match execHspRegisterRead [0x00001001, 0, 0, 0] false 0 (sBare) with
    | .next t => t.host.miso
    | _ => []) = [0x01000000, 0xA5, 0x56789ABC, 0x1234] := by decide +kernel

/-! ### The register bus -/

/-- No register. -/
def noRow : RegRow := ⟨0, 0, 0, 0, 0, 0, 0, 0, 0, 0, 0, .aon⟩
/-- The rows of HOST_TWC_CFG, which has no behaviour of its own on being written, of RX_ROUTE, whose fields are all TC, and of AIN_CLIP. -/
def rowTwc : RegRow := (regRow 0x50080).getD noRow
def rowRoute : RegRow := (regRow 0x110000).getD noRow
def rowClip : RegRow := (regRow 0x140008).getD noRow

theorem w_PlainWrite_alone (u : State) (v : Word) (cyc : Nat) : u.ownWrite rowTwc 0x50080 v cyc = none ∧ u.writeDone 0x50080 v = u ∧ u.ownRead 0x50080 cyc = none := ⟨rfl, rfl, rfl⟩

theorem w_RegisterBus :
    (regRow 0x50080 = some rowTwc ∧ rowTwc.tc = 0 ∧ stewardOnly 0x50080 = false ∧ 0x50080 ≠ Reg.GAUGE_CTL.word.addr) ∧
    (regRow 0x3FFFFC = none ∧ (regRow 0x100000).isSome = true ∧ (regRow 0x100000).map (fun r => (bank [(Reg.PWRM_STAT.DOM_ON, 3)]).domOn (accessDom r 0x100000)) = some false ∧
      (bank [(Reg.PWRM_STAT.DOM_ON, 3)]).domOn .sys = true) ∧
    (regRow 0x110000 = some rowRoute ∧ (bank fabOn).domOn (accessDom rowRoute 0x110000) = true ∧ readMask rowRoute &&& ~~~rowRoute.tc = 0) ∧
    (regRow 0x140008 = some rowClip ∧ (bank fabOn).domOn (accessDom rowClip 0x140008) = true ∧ rowClip.tc = 0 ∧ xingOfDom (accessDom rowClip 0x140008) = some 4 ∧
      Access.leavesSys { who := .hsp, addr := 0x140008, write := some 1 } rowClip = true ∧ (bank [(Reg.XING_STAT.RDY 4, 0)] (bank fabOn)).bit (Reg.XING_STAT.RDY 4) = false) := by
  decide +kernel

theorem w_PlainWrite_ready : Quiet (bank fabOn) ∧ AccessReady .hsp (accessDom rowTwc 0x50080) (bank fabOn) :=
  ⟨by decide +kernel, by decide +kernel, by decide +kernel, by decide +kernel, by decide +kernel, by decide +kernel, fun _ h => nomatch h⟩

/-! ### Staging and the commit -/

/-- The row of DEV_TICK_CTL, whose field RATE is TC. -/
def rowTick : RegRow := ((regRow 0x4C).getD ⟨0, 0, 0, 0, 0, 0, 0, 0, 0, 0, 0, .aon⟩)
/-- Ticks run, and a commit is armed for tick 9. -/
def sArmed : State := { bank fabOn with tick := { target := some 9, count := 5 } }

theorem w_TcWrites :
    (regRow 0x4C = some rowTick ∧ rowTick.tc ≠ 0 ∧ (bank fabOn).domOn rowTick.dom = true ∧ (bank fabOn).weirPhase 0 = false ∧ (bank fabOn).tcCheck 0x4C 2 = none) ∧
    ((bank fabOn).ticksRun = true ∧ usableSlots (bank fabOn).rate ≤ usableSlots (bank fabOn).rate + 183 ∧ 183 < 192) := by decide +kernel

theorem w_CommitRequests :
    (bank fabOn).domOn .sys = true ∧ (bank fabOn).tick.target = none ∧ sArmed.tick.target = some 9 ∧ sArmed.tick.goNow = false ∧ sArmed.tick.goNext = false ∧
    (2 : Int) ≤ ((9 : TickNo) - sArmed.countAt 0).toInt ∧ ((6 : TickNo) - sArmed.countAt 0).toInt < 2 ∧ sArmed.domOn .sys = true := by decide +kernel

/-! ### Clocks -/

/-- PLL-S locks. -/
def sLocking : State := { bank [(Reg.CLK_STAT.REF_OK, 1), (Reg.CLK_PLL_CTL.EN 1, 1)] with clk := { pll := [(1, { busy := true, search := true })] } }
def sRefDown : State := bank [(Reg.CLK_STAT.REF_OK, 0), (Reg.PWRM_STAT.DOM_ON, 255)]

theorem w_PllLocks :
    (sRefDown.domOn .sys = true ∧ sRefDown.bit Reg.CLK_STAT.REF_OK = false) ∧
    (sLocking.lockSeen 1 ⟨0, 65536, false⟩ = true ∧ sLocking.outerLockSeen ⟨0, 0x1000000, false⟩ = true) ∧
    ((sLocking.pll 1).busy = true ∧ (sLocking.pll 1).dead = false ∧ sLocking.bit Reg.CLK_STAT.REF_OK = true ∧
      sLocking.bit (Reg.CLK_PLL_CTL.EN 1) = true ∧ (sLocking.pll 1).search = true) ∧
    (bank [(Reg.CLK_PLLA_REFST.STATE, 1)]).refState = 1 := by decide +kernel

def sFollowed : State := bank [(Reg.CLK_PLLA_REFST.ACTIVE, 4), (Reg.CLK_PLLA_REFST.STATE, 0), (Reg.CLK_PLLA_REFST.QUALIFIED, 15)]
/-- WCLK is followed at 48 kHz. -/
def sGlitching : State := bank [(Reg.CLK_PLLA_REFST.STATE, 0), (Reg.CLK_PLLA_REFST.ACTIVE, 2), (Reg.CLK_PLLA_REFST.QUALIFIED, 15)]
/-- In holdover past its limit, with FREE first in the list. -/
def sHold : State := { bank [(Reg.CLK_PLLA_REFST.STATE, 2), (Reg.CLK_PLLA_POL.HOLD_LIMIT, 1), (Reg.CLK_PLLA_SRC.ENTRY0, 5)] with now := 9, timers := [(tmHold, 1)] }
def sHoldOn : State := bank [(Reg.CLK_PLLA_SRC.ENTRY0, 1), (Reg.CLK_PLLA_SRC.ENTRY1, 1), (Reg.CLK_PLLA_SRC.ENTRY2, 1), (Reg.CLK_PLLA_SRC.ENTRY3, 1)] sHold

theorem w_Holdover :
    (sFollowed.outerLossSeen ⟨0, 0, true⟩ = true ∧ sFollowed.badPeriod 90000 = true ∧ sGlitching.badPeriod 90000 = true ∧
      sGlitching.get Reg.CLK_PLLA_REFST.ACTIVE = 2 ∧ sGlitching.clk.hop = none ∧ sGlitching.refState = 0) ∧
    (sFollowed.clk.hop = none ∧ sFollowed.refState = 0 ∧ 1 ≤ sFollowed.get Reg.CLK_PLLA_REFST.ACTIVE ∧ sFollowed.get Reg.CLK_PLLA_REFST.ACTIVE ≤ 4) ∧
    (sHold.refState = 2 ∧ sHold.get Reg.CLK_PLLA_POL.HOLD_LIMIT ≠ 0 ∧ sHold.due tmHold (sHold.get Reg.CLK_PLLA_POL.HOLD_LIMIT) = true ∧
      sHold.srcListed 5 = true ∧ sHold.get Reg.CLK_PLLA_POL.FREE_FAMILY = sHold.get Reg.CLK_STAT.FAMILY) ∧
    (sHoldOn.srcListed 5 = false ∧ sHoldOn.refState = 2 ∧ sHoldOn.get Reg.CLK_PLLA_POL.HOLD_LIMIT ≠ 0 ∧
      sHoldOn.due tmHold (sHoldOn.get Reg.CLK_PLLA_POL.HOLD_LIMIT) = true) := by decide +kernel

/-- A decision is due in holdover; source 1 qualifies. -/
def sDecide : State := { bank [(Reg.CLK_PLLA_REFST.STATE, 2), (Reg.CLK_STAT.REF_OK, 1), (Reg.CLK_PLLA_REFST.QUALIFIED, 1), (Reg.CLK_PLLA_SRC.ENTRY0, 1)] with clk := { decide := true, rates := [(1, 1)] } }
def sRevert : State := { bank [(Reg.CLK_PLLA_REFST.STATE, 0), (Reg.CLK_PLLA_REFST.ACTIVE, 2), (Reg.CLK_STAT.REF_OK, 1), (Reg.CLK_PLLA_REFST.QUALIFIED, 3),
  (Reg.CLK_PLLA_SRC.ENTRY0, 1), (Reg.CLK_PLLA_SRC.ENTRY1, 2), (Reg.CLK_PLLA_POL.REVERT, 1), (Reg.CLK_PLLA_POL.REVERT_HOLD, 1)] with now := 1000, timers := [(tmSource 1, 1)], clk := { rates := [(1, 1)] } }

theorem w_ReferenceDecides :
    (sDecide.clk.decide = true ∧ sDecide.refState = 2 ∧ sDecide.bit Reg.CLK_STAT.REF_OK = true ∧
      sDecide.srcList.find? (fun x => sDecide.srcQualified x && x != 5) = some 1 ∧ sDecide.srcRate 1 = sDecide.rate) ∧
    (sRevert.bit Reg.CLK_PLLA_POL.REVERT = true ∧ sRevert.refState ≠ 3 ∧ sRevert.clk.hop = none ∧ sRevert.srcQualified 1 = true ∧ sRevert.srcRate 1 = sRevert.rate ∧ sRevert.bit Reg.CLK_STAT.REF_OK = true ∧
      sRevert.srcPlace 1 < sRevert.srcPlace (sRevert.get Reg.CLK_PLLA_REFST.ACTIVE) ∧
      sRevert.due (tmSource 1) (1000 * max 1 (sRevert.get Reg.CLK_PLLA_POL.REVERT_HOLD)) = true ∧
      sRevert.srcList.find? (fun x => sRevert.srcQualified x && !((sRevert.clk.afterLoss || sRevert.refState == 2) && x == 5)) = some 1) := by decide +kernel

def sFollowDue : State := { ({} : State) with clk := { follow := some ⟨1, 2, 3⟩ }, now := 40, timers := [(tmFollow, 1)] }
def sHopLocked : State := { bank [(Reg.CLK_STAT.LOCKED, 15), (Reg.DEV_TICK_CTL.RATE, 1)] with clk := { hop := some ⟨3, 5, 0, false⟩, stopped := true } }
def sHopOver : State := { ({} : State) with clk := { hop := some ⟨4, 5, 0, false⟩ }, now := 40, timers := [(tmHop, 1)] }

theorem w_ForcedRateChanges :
    (sFollowDue.clk.follow = some ⟨1, 2, 3⟩ ∧ (3 < 4) ∧ sFollowDue.due tmFollow 20 = true ∧
      ∀ b < 10, sFollowDue.basinLoaded b = true → (sFollowDue.basin b).asImage.fits 3 = true) ∧
    (sHopLocked.clk.hop = some ⟨3, 5, 0, false⟩ ∧ sHopLocked.locked 0 = true ∧ sHopLocked.locked 3 = true ∧ 0 < 6 ∧ 0 = otherFamily sHopLocked.rate) ∧
    (sHopOver.clk.hop = some ⟨4, 5, 0, false⟩ ∧ sHopOver.due tmHop 20 = true) := by decide +kernel

def sRefUp : State := bank [(Reg.CLK_STAT.REF_OK, 1), (Reg.DEV_SVC.STATE, 2), (Reg.CLK_STAT.LOCKED, 15)]
def sRelock : State := { sRefUp with stew := { errs := [{ cls := clsPLL, unit := 1, tick := 0, status := 0 }] } }

theorem w_ClockLosses :
    (sRefUp.bit Reg.CLK_STAT.REF_OK = true ∧ sRefUp.svc ≠ 0) ∧ (sRefUp.locked 1 = true ∧ sRefUp.lossSeen 1 ⟨0xFFFFFFFF, 0xFFFFFFFF, true⟩ = true) ∧
    (∃ e s, State.errOf s clsPLL 1 = some e ∧ s.locked 1 = false ∧ s.bit Reg.CLK_STAT.REF_OK = true ∧ e.tries = 0 ∧ s.recurrences clsPLL 1 msHour < 3) := by
  refine ⟨by decide +kernel, by decide +kernel, { cls := clsPLL, unit := 1, tick := 0, status := 0 }, bank [(Reg.CLK_STAT.LOCKED, 0)] sRelock, by decide +kernel⟩

theorem w_PllUpdate :
    (bank [(Reg.PWRM_STAT.DOM_ON, 3)]).domOn .sys = true ∧ (bank [(Reg.CLK_PLLA_REFST.STATE, 0)]).refState ≠ 3 ∧ (bank [(Reg.CLK_PLLA_REFST.STATE, 3)]).refState = 3 ∧
    (bank [(Reg.CLK_PLL_DEN.DEN 1, 1)]).get (Reg.CLK_PLL_DEN.DEN 1) ≠ 0 ∧ (bank [(Reg.CLK_PLL_DEN.DEN 1, 0)]).get (Reg.CLK_PLL_DEN.DEN 1) = 0 := by decide +kernel

/-! ### Domain crossings -/

/-- Crossing 2 is ready and FAB's clock stands still; crossing 7, which has a pulse channel, is ready too. -/
def sReady (compat : Nat) : State := bank [(Reg.XING_STAT.RDY 2, 1), (Reg.XING_STAT.RDY 7, 1), (Reg.XING_CFG.COMPAT 7, compat), (Reg.PWRM_STAT.DOM_ON, 255)]
def sNotReady : State := bank [(Reg.XING_STAT.RDY 7, 0), (Reg.PWRM_STAT.DOM_ON, 255)]
/-- A register access that stands in crossing 2, or is held before it. -/
def accX : Access := { who := .hsp, addr := 0x100000, write := none }
def sInFifo : State := { sReady 0 with xing := [(2, { words := [.access accX] })] }
def sHeldAt : State := { bank [(Reg.XING_STAT.SILENT 2, 1)] (sReady 0) with xing := [(2, { held := [accX] })] }

theorem w_CrossingPulses :
    ((xingRow 7).pulses = true ∧ ∀ i < 2, (sReady i).bit (Reg.XING_STAT.RDY 7) = true ∧ (sReady i).sideOn (xingRow 7).dstDoms = true ∧
      (sReady i).bit (Reg.XING_STAT.SILENT 7) = false) ∧ (sReady 0).bit (Reg.XING_CFG.COMPAT 7) = false ∧
    (sReady 1).bit (Reg.XING_CFG.COMPAT 7) = true ∧ (sNotReady.bit (Reg.XING_STAT.RDY 7) = false ∧ sNotReady.sideOn (xingRow 7).dstDoms = true) ∧
    (bank [(Reg.PWRM_STAT.DOM_ON, 1)]).sideOn (xingRow 7).dstDoms = false := by decide +kernel

theorem w_CrossingTimeout :
    (Quiet (sReady 0) ∧ (sReady 0).xingSure 2 = false ∧ (sReady 0).xingPowered 2 = true ∧ (sReady 0).bit (Reg.XING_STAT.SILENT 2) = false ∧
      (sReady 0).bit (Reg.XING_STAT.RDY 2) = true ∧ (sReady 0).xingSt 2 = {}) ∧
    (Quiet sInFifo ∧ sInFifo.xingSure 2 = false ∧ (sInFifo.xingSt 2).words = [.access accX] ∧ accX.serves = .row ∧ accX.addr ≠ Reg.FAB_CIS_DATA.word.addr) ∧
    (Quiet sHeldAt ∧ sHeldAt.xingSure 2 = false ∧ sHeldAt.bit (Reg.XING_STAT.SILENT 2) = true ∧ (sHeldAt.xingSt 2).held = [accX]) := by decide +kernel

theorem w_CrossingResync :
    (Quiet (sReady 0) ∧ (sReady 0).xingPowered 7 = true ∧ (bank fabOn).xingClocked 7 = true ∧ (bank fabOn).xingPowered 7 = true) ∧
    (sReady 0).xingClocked 2 = false := by decide +kernel

/-! ### Basins, hand-over and relocation -/

def aCkpt : Ckpt := { tick := 0x100000002, words := [7] }
def sDrain (last1 : Bool) : State := { ({} : State) with fab := { basins := [(9, { shadow := some aCkpt, ckptLast1 := last1 })] } }
def sMeter : State := { ({} : State) with fab := { basins := [(9, { meters := [(31, { full := some (0x80000001, true) })] })] } }

theorem w_CheckpointsAndMeters : (∀ l ∈ [false, true], ((sDrain l).basin 9).shadow = some aCkpt ∧ ((sDrain l).basin 9).ckptLast1 = l) ∧
    (tabGet (fun _ => ({} : MeterWin)) (sMeter.basin 9).meters 31).full = some (0x80000001, true) := by decide +kernel

def sFading (old : Nat) : State := bank [(Reg.FAB_HO_STAT.STATE 3, 3), (Reg.FAB_HO_STAT.LEFT 3, 0), (Reg.FAB_HO_CTL.OLD 3, old), (Reg.FAB_B_STAT.STATE 9, 3)]
/-- The FAB registers can be reached: everything is on and runs, and crossing 2 is ready. -/
def fabReady : List (Fld × Nat) := fabOn ++ [(Reg.XING_STAT.RDY 2, 1)]
theorem w_FabReady (s : State) (h : s.domOn .sys = true ∧ s.domOn .fab = true ∧ s.isGated .fab = false ∧ s.isHeld .hsp = false ∧
    s.bus.wait.any (fun y => y.who == Requester.hsp) = false ∧ s.xingOpen 2 = true ∧ s.farRuns .fab = true ∧ (s.xingSt 2).words = []) : AccessReady .hsp .fab s :=
  ⟨h.1, h.2.1, h.2.2.1, h.2.2.2.1, h.2.2.2.2.1, fun n hn => by cases hn; exact h.2.2.2.2.2⟩

def sPending : State := bank (fabReady ++ [(Reg.FAB_HO_STAT.STATE 3, 2), (Reg.FAB_HO_CTL.NEW 3, 9), (Reg.FAB_B_STAT.STATE 9, 3)])

theorem w_HandOverEnds :
    (∀ o ∈ [9, 15], (sFading o).hoState 3 = 3 ∧ (sFading o).get (Reg.FAB_HO_STAT.LEFT 3) = 0 ∧ ((sFading o).chan 3).oldFault = false ∧ (sFading o).get (Reg.FAB_HO_CTL.OLD 3) = o) ∧
    (AccessReady .hsp .fab sPending ∧ sPending.hoState 3 = 2 ∧ sPending.get (Reg.FAB_HO_CTL.NEW 3) < 10 ∧ (sPending.chan 3).oldFault = false) ∧
    sPending.hoState 0 ≠ 2 := by
  refine ⟨by decide +kernel, ⟨w_FabReady _ (by decide +kernel), by decide +kernel⟩, by decide +kernel⟩

def sBasin (st : Nat) : State := { bank (fabOn ++ [(Reg.FAB_B_STAT.STATE 0, st), (Reg.FAB_B_STAT.STATE 9, 1), (Reg.FAB_MAP.EN 4, 1), (Reg.FAB_MAP.PHYS 4, 0), (Reg.FAB_RESV.COUNT, 1)]) with fab := { shelf := [(4, { valid := true })] } }

theorem w_BasinFaults :
    ((sBasin 3).domOn .fab = true ∧ (sBasin 3).basinState 0 = 3 ∧ ∀ h < 4, (sBasin 3).hoState h = 0) ∧
    ((sBasin 4).basinState 0 = 4 ∧ (∀ h < 4, (sBasin 4).hoState h = 0) ∧ (sBasin 4).handleOf 0 = some 4 ∧ ((sBasin 4).shelf 4).valid = true ∧
      (∃ tg, (sBasin 4).lowestBasin 1 = some tg ∧ tg < 10) ∧ (sBasin 4).fab.relocs = []) := by
  refine ⟨by decide +kernel, by decide +kernel, by decide +kernel, by decide +kernel, by decide +kernel, ⟨_, rfl, by decide +kernel⟩, rfl⟩

def aReloc : Reloc := { handle := 4, source := 0, target := 9, step := .reloading }
def sReload : State := { ({} : State) with fab := { shelf := [(4, { image := some {} })], relocs := [aReloc], basins := [(0, { ckpt0 := some aCkpt })] } }
/-- Slot A was booted: a header of 96 bytes in all, and a BASIN section of handle 4 with nothing in it. -/
def aFlash : List Byte := List.replicate 12 0 ++ [96, 0, 0, 0] ++ List.replicate 10 0 ++ [1, 0] ++ List.replicate 36 0 ++ [0x20, 0, 4, 0, 16] ++ List.replicate 27 0
def sRewrite : State := { bank [(Reg.FAB_MAP.EN 4, 1), (Reg.FAB_MAP.PHYS 4, 9), (Reg.FAB_B_STAT.SHELF_STALE 9, 1), (Reg.DEV_IMG_BOOT.BOOTED, 0), (Reg.FAB_B_STAT.STATE 9, 4)] with
  fab := { shelf := [(4, {})] }, flash := (List.range 96).map fun i => (0x10000 + i, aFlash.getD i 0) }

theorem w_ShelfReloads :
    (sReload.fab.relocs.find? (fun q => q.target == 9 && q.step == .reloading) = some aReloc ∧ (sReload.shelf 4).image = some {} ∧
      BasinImage.fits {} sReload.rate = true ∧ (sReload.basin 0).lastCkpt true = some aCkpt) ∧
    ((sRewrite.shelf 4).valid = false ∧ (sRewrite.shelf 4).part = false ∧ (sRewrite.flashBasin 4).isSome = true ∧ sRewrite.mapped 4 = some 9 ∧ sRewrite.basinState 9 ≠ 2 ∧ sRewrite.fab.relocs = []) := by decide +kernel

/-! ### The cistern and the raw windows -/

def cisWord5 : Access := { who := .s1, addr := Reg.FAB_CIS_DATA.word.addr, write := some 5 }
def sQueue (e : JetAccess) : State := { bank fabReady with fab := { basins := [(9, { jets := [(3, { queue := [e] })] })] }, xing := [(2, { words := [.access cisWord5] })] }
def wrAccess : JetAccess := { write := true, word := some 7, value := 11, turn := 70 }
def rdAccess : JetAccess := { write := false, word := some 7, dst := some 3, turn := 70 }

theorem w_CisternTurns :
    (((sQueue wrAccess).basin 9).jet 3).queue = [wrAccess] ∧ (((sQueue rdAccess).basin 9).jet 3).queue = [rdAccess] ∧
    (Quiet (sQueue wrAccess) ∧ (sQueue wrAccess).fabClock = true ∧ (sQueue wrAccess).cisAddr < shelfBase ∧ (sQueue wrAccess).domOn .fab = true ∧
      (sQueue wrAccess).isGated .fab = false ∧ (sQueue wrAccess).xingOpen 2 = true ∧ ((sQueue wrAccess).xingSt 2).words = [.access cisWord5] ∧ ((sQueue wrAccess).xingSt 2).held = []) ∧
    ({} : State).fabClock = false := by decide +kernel

theorem w_CisternErrors :
    tabGet (fun _ => 0) (bank fabOn).fab.rowCe (cisRow (4194303 : BitVec 22).toNat) = 0 ∧ 8 * (0x31FFFF : BitVec 22).toNat < shelfBase ∧
    (shelfBase ≤ 8 * (0x320000 : BitVec 22).toNat ∧ 8 * (0x3DFFFF : BitVec 22).toNat < shelfBase + 10 * shelfSize) ∧ (bank fabOn).fabClock = true := by decide +kernel

def sCis (a inc : Nat) : State := bank (fabReady ++ [(Reg.FAB_CIS_ADDR.ADDR, a), (Reg.FAB_CIS_ADDR.INC, inc), (Reg.SEC_STAT.LOCKED, 1)])
def sCisStill : State := bank [(Reg.CLK_STAT.LOCKED, 0), (Reg.SEC_STAT.LOCKED, 0)] (sCis 5 1)

theorem w_CisternData :
    (∀ i < 2, AccessReady .hsp .fab (sCis 0x63FFFF i) ∧ (sCis 0x63FFFF i).cisAddr < shelfBase) ∧
    (sCisStill.domOn .sys = true ∧ sCisStill.domOn .fab = true ∧ sCisStill.farRuns .fab = false ∧ sCisStill.isGated .fab = false ∧ sCisStill.xingOpen 2 = true ∧
      sCisStill.xingFull 2 = false ∧ sCisStill.isHeld .hsp = false) ∧ (AccessReady .hsp .fab (sCis 0x640000 1) ∧ (sCis 0x640000 1).cisDenied = true) := by
  refine ⟨?_, by decide +kernel, w_FabReady _ (by decide +kernel), by decide +kernel⟩
  intro i hi
  match i, hi with
  | 0, _ => exact ⟨w_FabReady _ (by decide +kernel), by decide +kernel⟩
  | 1, _ => exact ⟨w_FabReady _ (by decide +kernel), by decide +kernel⟩

def sRaw : State := bank (fabReady ++ [(Reg.FAB_WIN_SEL.BASIN, 9), (Reg.FAB_B_STAT.STATE 9, 3), (Reg.FAB_B_TDESC.VALID 9 31, 1)])

theorem w_RawWindows :
    ((sCis 0 0).fieldLocked = true ∧ (sCis 0 0).domOn .sys = true ∧ (sCis 0 0).isHeld .hsp = false) ∧ (AccessReady .hsp .fab sRaw ∧ sRaw.fieldLocked = false ∧ sRaw.get Reg.FAB_WIN_SEL.BASIN < 10 ∧
      sRaw.rawOpen (sRaw.get Reg.FAB_WIN_SEL.BASIN) = true) ∧ sRaw.bit (Reg.FAB_B_TDESC.VALID 9 31) = true := by
  refine ⟨by decide +kernel, ⟨w_FabReady _ (by decide +kernel), by decide +kernel⟩, by decide +kernel⟩

/-! ### Slot words -/

/-- A slot word (R104). -/
def slotWord (op mod dst sra srb src aux : Nat) : DWord :=
  BitVec.ofNat 64 (op * 2 ^ 57 + mod * 2 ^ 54 + dst * 2 ^ 44 + sra * 2 ^ 32 + srb * 2 ^ 20 + src * 2 ^ 8 + aux)

/-- A jet about to run: W1 = −3, W2 = 2^33, W3 a delay line of 16 words at word 32. -/
def aJet : Jet := { ended := false, w := [(1, BitVec.ofInt 40 (-3)), (2, 0x200000000), (3, 0x20000020)], a0 := 12, p := [(1, 5)] }
def sSlot (w : DWord) (x : Jet := aJet) : State :=
  { bank fabOn with fab := { basins := [(0, { cascade := [(0, w)], jets := [(0, x)], pool := [(5, 9), (6, 8)], tables := [], inp := [(4, 3)] })] } }

/-- Every opcode with W1 and W2 as sources, W3 or a pool word as SRC and W4 as destination. -/
theorem w_Slots : ∀ op ∈ [0x00, 0x01, 0x02, 0x08, 0x09, 0x0A, 0x0B, 0x0C, 0x0D, 0x0E, 0x0F, 0x10, 0x11, 0x12, 0x20, 0x21, 0x28, 0x30, 0x31, 0x32, 0x33, 0x38, 0x39,
    0x40, 0x48, 0x49, 0x50], SlotReady op 0 0 (sSlot (slotWord op 0 4 1 2 3 0)) (slotOf (slotWord op 0 4 1 2 3 0)) aJet := by
  unfold SlotReady
  decide +kernel

/-- The side conditions of single rows: SKIP on Z and on a condition that fails, a suppressed word, an accumulator shifted in place, RAMP with a pool word, FIRT of one tap that
clears its accumulator, a delay line, a range of EXP2, a table. -/
theorem w_SlotForms :
    (slotOf (slotWord 0x02 0 4 1 2 3 0x13)).aux / 16 = 1 ∧ ({ aJet with flags := { z := true } } : Jet).flags.z = true ∧ aJet.flags.z = false ∧
    ((sSlot (slotWord 0x0B 0 4 1 2 3 0) { aJet with skip := 2 }).wordNext 0 0 = true ∧ 0 < ((sSlot (slotWord 0x0B 0 4 1 2 3 0) { aJet with skip := 2 }).jetAt 0 0).skip) ∧
    (slotOf (slotWord 0x11 0 4 1 2 3 0x41)).aux / 64 = 1 ∧ (slotOf (slotWord 0x28 0 4 1 2 0x105 0)).src = 0x105 ∧
    ((slotOf (slotWord 0x21 0 4 1 1 2 0)).src % 4 = 2 ∧ ∀ n < 8, 0 ≤ ptrEff (aJet.ptr n) 0 ∧ ptrEff (aJet.ptr n) 0 < poolWords) ∧
    lineOf (aJet.wVal 3 % 2 ^ 32).toNat = some (4, 32) ∧ aJet.wVal 2 = 0x200000000 ∧ aJet.wVal 1 < 0 ∧
    (slotOf (slotWord 0x40 0 4 1 2 3 0x25)).aux / 32 = 1 := by decide +kernel

/-! ### Analogue inputs and outputs -/

/-- AIN and AOUT are on, LIVE in RUN; input 15, output 15 and amplifier 1 stand in the given states. -/
def anaOn (ai ao hp : Nat) : List (Fld × Nat) := fabOn ++ [(Reg.XING_STAT.RDY 4, 1), (Reg.DEV_SVC.STATE, svcLIVE), (Reg.AIN_CH_STAT.STATE 15, ai),
  (Reg.AOUT_CH_STAT.STATE 15, ao), (Reg.HP_AMP_STAT.STATE 1, hp), (Reg.HP_AMP_CTL.EN 1, 1), (Reg.HP_STAT.JACK1, 1), (Reg.AOUT_CH_CFG.TARGET 15, 1),
  (Reg.AOUT_CH_CFG.SAFE 15, 1), (Reg.AIN_CH_CFG.MODE 15, 1)]
def sAna (ai ao hp : Nat) (t : List Nat := []) : State := { bank (anaOn ai ao hp) with
  ain := [(15, { net := 1, netTo := 1, calAt := some 1940 })], now := 2000, timers := t.map (·, 30), hp := [(1, { trips := [1999] })], aout := [(15, { calAt := some 1970 })] }
def sTimed (ao hp : Nat) : State := sAna 1 ao hp [tmAoutSettle 15, tmHpRetest 1, tmHpStart 1, tmAinClip 15, tmAinOvl 15]
/-- The converter registers can be reached over crossing 4. -/
theorem w_AnaReady (s : State) (d : Dom) (hd : d = .ain ∨ d = .aout) (h : s.domOn .sys = true ∧ s.domOn d = true ∧ s.isGated d = false ∧ s.isHeld .hsp = false ∧
    s.bus.wait.any (fun y => y.who == Requester.hsp) = false ∧ s.xingOpen 4 = true ∧ s.farRuns d = true ∧ (s.xingSt 4).words = []) : AccessReady .hsp d s := by
  rcases hd with rfl | rfl <;> exact ⟨h.1, h.2.1, h.2.2.1, h.2.2.2.1, h.2.2.2.2.1, fun n hn => by cases hn; exact h.2.2.2.2.2⟩

theorem w_ClipReports : (∀ st ∈ [aiRUNNING, aiRAMP], (sAna st 1 3).aiState 15 = st ∧ ((sAna st 1 3).aiCh 15).mute = none) ∧
    ((sAna 2 1 3).aiState 15 ≠ aiRUNNING ∧ (sAna 2 1 3).aiState 15 ≠ aiRAMP) ∧
    ((sTimed 1 3).due (tmAinClip 15) (max 1 ((sTimed 1 3).get Reg.AIN_HOLD.MS)) = true ∧ (sTimed 1 3).due (tmAinOvl 15) (max 1 ((sTimed 1 3).get Reg.AIN_HOLD.MS)) = true) := by
  decide +kernel

theorem w_Calibration :
    (AccessReady .hsp .ain (sAna 1 1 3) ∧ AccessReady .hsp .aout (sAna 1 1 3)) ∧
    ((sAna 1 1 3).get Reg.AIN_STAT.NOSUPPLY = 0 ∧ (sAna 1 1 3).get (Reg.AIN_CALST.BUSY.nth 15) = 0 ∧
      (sAna 1 1 3).aiState 15 ≠ aiOFF ∧ (sAna 1 1 3).aiState 15 ≠ aiUNAVAILABLE) ∧
    ((sAna 1 1 3).get (Reg.AOUT_CALST.BUSY.nth 15) = 0 ∧ (sAna 1 1 3).aoState 15 ≠ aoOFF ∧ (sAna 1 1 3).aoState 15 ≠ aoSETTLING) ∧
    ((((sAna 1 1 3).aoCh 15).calAt.any fun t => decide (t + 30 ≤ (sAna 1 1 3).now)) = true ∧ (sAna 1 1 3).mbx.convCal = none ∧
      (((sAna 1 1 3).aiCh 15).calAt.any fun t => decide (t + 60 ≤ (sAna 1 1 3).now)) = true) :=
  ⟨⟨w_AnaReady _ _ (.inl rfl) (by decide +kernel), w_AnaReady _ _ (.inr rfl) (by decide +kernel)⟩, by decide +kernel, by decide +kernel, by decide +kernel⟩

def sPhantom : State := { bank [(Reg.AIN_PHGRP.EN 7, 1), (Reg.AIN_PHGRP.SETTLE 7, 2)] with now := 100, phantom := [(7, { change := some ⟨true, 76, 20⟩ })] }

theorem w_AnalogueSupply : (sAna 1 1 3).get Reg.AIN_STAT.NOSUPPLY = 0 ∧ (bank [(Reg.AIN_STAT.NOSUPPLY, 1)] (sAna 6 1 7)).get Reg.AIN_STAT.NOSUPPLY = 1 ∧
    ((sPhantom.ph 7).change = some ⟨true, 76, 20⟩ ∧ 76 + 4 + 20 ≤ sPhantom.now ∧ sPhantom.bit (Reg.AIN_PHGRP.EN 7) = true) := by
  decide +kernel

def sMoved : State := { sAna 1 aoTRANSITION 3 with aout := [(15, { goal := .run, g := fullWeight })] }
def sDclr (l d h : Nat) : State := bank [(Reg.AOUT_STAT.DCLR, d), (Reg.AOUT_STAT.HELD, h), (Reg.AOUT_CTL.DCLR_LATCH, l)] (sAna 1 1 3)

theorem w_LineOutputs : (sMoved.aoState 15 = aoTRANSITION ∧ (sMoved.aoCh 15).settled (sMoved.aoTrim 15) = true) ∧
    ((sTimed aoSETTLING 3).aoState 15 = aoSETTLING ∧ (sTimed aoSETTLING 3).due (tmAoutSettle 15) 10 = true) ∧
    ((sAna 1 1 3).bit (Reg.AOUT_CH_CFG.SAFE 15) = true ∧ (sAna 1 1 3).aoState 15 = aoRUN ∧ ((sAna 1 1 3).aoCh 15).engaged = false) ∧
    (sDclr 0 0 0).get Reg.AOUT_STAT.DCLR = 0 ∧ (∀ l < 2, (sDclr l 1 0).get Reg.AOUT_STAT.DCLR = 1 ∧ (sDclr l 1 0).get Reg.AOUT_CTL.DCLR_LATCH = l) ∧
    (AccessReady .hsp .aout (sDclr 1 0 1) ∧ (sDclr 1 0 1).get Reg.AOUT_STAT.HELD = 1 ∧ (sDclr 1 0 1).get Reg.AOUT_STAT.DCLR = 0) :=
  ⟨by decide +kernel, by decide +kernel, by decide +kernel, by decide +kernel, by decide +kernel, w_AnaReady _ _ (.inr rfl) (by decide +kernel), by decide +kernel⟩

def sJack (j st : Nat) : State := bank [(Reg.HP_STAT.JACK1, j)] (sTimed 1 st)
/-- An amplifier in RUN that has reached −20 dB; its jack is gone. -/
def sLoud : State := { sJack 0 3 with hp := [(1, { attL := 40, attR := 40 })] }

theorem w_Headphones :
    ((sJack 0 1).bit (fldJack 1) = false ∧ (sJack 0 1).hpState 1 = hpNOJACK ∧ (sJack 0 1).domOn .aout = true ∧ (sJack 0 1).bit (Reg.HP_AMP_CTL.EN 1) = true ∧
      (sJack 0 1).bit Reg.HP_STAT.NOSUPPLY = false ∧ (sJack 0 1).aoPlaying = true ∧ (sJack 0 1).dclrParksHp = false) ∧
    ((sJack 1 3).bit (fldJack 1) = true ∧ (sJack 1 3).bitAt Reg.HP_DETCFG.IGNORE 1 = false ∧ (sJack 1 3).hpState 1 = hpRUN ∧ ((sJack 1 3).hpAmp 1).latched = false) ∧
    ((sJack 1 2).hpWants 1 = true ∧ (sJack 1 2).hpState 1 = hpSTARTING ∧ ((sJack 1 2).hpAmp 1).measured = false ∧ (sJack 1 2).due (tmHpStart 1) 20 = true) ∧
    ((sJack 0 3).hpWants 1 = false ∧ (sJack 0 3).hpState 1 = hpRUN ∧ 201 ≤ ((sJack 0 3).hpAmp 1).attL ∧ 201 ≤ ((sJack 0 3).hpAmp 1).attR) ∧
    (sLoud.hpWants 1 = false ∧ sLoud.hpState 1 = hpRUN ∧ (sLoud.hpAmp 1).attL < 201) ∧
    ((sTimed 1 5).hpState 1 = hpFAULT ∧ (sTimed 1 5).due (tmHpRetest 1) 70 = true ∧ (recent (sTimed 1 5).now 10000 ((sTimed 1 5).hpAmp 1).trips).length ≤ 3 ∧
      (sTimed 1 5).hpWants 1 = true) ∧
    (AccessReady .hsp .aout (sAna 1 1 6) ∧ (sAna 1 1 6).hpState 1 = hpLATCHED ∧ (sAna 1 1 6).hpWants 1 = true) ∧
    (8 ≤ ((sAna 1 1 3).hpAmp 1).tickL ∧ ((sAna 1 1 3).hpAmp 1).stopping = false ∧ ((sAna 1 1 3).hpAmp 1).attL ≠ hpTarget ((bank [(Reg.HP_AMP_VOL.LEFT 1, 0)] (sAna 1 1 3)).get (Reg.HP_AMP_VOL.LEFT 1))
      ((bank [(Reg.HP_AMP_VOL.LEFT 1, 0)] (sAna 1 1 3)).get (Reg.HP_AMP_STAT.LIM_L 1))) := 
  ⟨by decide +kernel, by decide +kernel, by decide +kernel, by decide +kernel, by decide +kernel, by decide +kernel,
    ⟨w_AnaReady _ _ (.inr rfl) (by decide +kernel), by decide +kernel⟩, by decide +kernel⟩

/-! ### Single slot words, worked out by hand from 06_slot_words.md -/

/-- The state that a command answers, the blank state where it stops. -/
def nextOf : Host.Outcome State Fault Refusal → State
  | .next t => t
  | _ => {}
/-- Jet 0 of basin 0 after the command. -/
def jetOf (o : Host.Outcome State Fault Refusal) : Jet := (nextOf o).jetAt 0 0

/-- SUB takes SRB from SRA: −3 − 2^33 is −0x2_0000_0003, and N is set. -/
theorem test_sub : tabGet (fun _ => (0 : BitVec 40)) (jetOf (execSub 0 0 (sSlot (slotWord 0x0C 0 4 1 2 0 0)))).w 4 = BitVec.ofInt 40 (-0x200000003) ∧
    (jetOf (execSub 0 0 (sSlot (slotWord 0x0C 0 4 1 2 0 0)))).flags = ⟨false, false, true, false⟩ := by decide +kernel
/-- MSU subtracts the product from A0: 12 − (−3 × 0x7FFF_FFFF), W2 being cut to 32 bits first, which sets S (R106, R114). -/
theorem test_msu : (jetOf (execMsu 0 0 (sSlot (slotWord 0x09 0 4 1 2 0 0)))).a0 = BitVec.ofInt 72 (12 + 3 * 0x7FFFFFFF) ∧
    (jetOf (execMsu 0 0 (sSlot (slotWord 0x09 0 4 1 2 0 0)))).flags.s = true := by decide +kernel
/-- SHL past 40 bits saturates and sets V (R110, R114). -/
theorem test_shl : tabGet (fun _ => (0 : BitVec 40)) (jetOf (execShl 0 0 (sSlot (slotWord 0x10 0 4 2 0 0 10)))).w 4 = 0x7FFFFFFFFF ∧
    (jetOf (execShl 0 0 (sSlot (slotWord 0x10 0 4 2 0 0 10)))).flags.v = true := by decide +kernel
/-- SHR is arithmetic: −3 by one place is −2. -/
theorem test_shr : tabGet (fun _ => (0 : BitVec 40)) (jetOf (execShr 0 0 (sSlot (slotWord 0x11 0 4 1 0 0 1)))).w 4 = BitVec.ofInt 40 (-2) := by decide +kernel
/-- SKIP on N set: the next word is suppressed; with N clear nothing is (R115). -/
theorem test_skip : (jetOf (execSkip 0 0 (sSlot (slotWord 0x02 0 0 0 0 0 0x30) { aJet with flags := { n := true } }))).skip = 1 ∧
    (jetOf (execSkip 0 0 (sSlot (slotWord 0x02 0 0 0 0 0 0x30)))).skip = 0 := by decide +kernel
/-- ROUT stores 2^33 to an outbound port as full scale and sets S (R109, R123). -/
theorem test_rout : ((nextOf (execRout 0 0 (sSlot (slotWord 0x49 0 0 2 0 0 7)))).basin 0).writes = [⟨0, 0, 65543, 0x7FFFFFFF⟩] ∧
    (jetOf (execRout 0 0 (sSlot (slotWord 0x49 0 0 2 0 0 7)))).flags.s = true := by decide +kernel
/-- RIN of port 4, holding 3, shifted left by 2 places (R123). -/
theorem test_rin : tabGet (fun _ => (0 : BitVec 40)) (jetOf (execRin 0 0 (sSlot (slotWord 0x48 0 4 0 0 0 0x44)))).w 4 = 12 := by decide +kernel
/-- The words of a FIRT cost one cycle a tap, those of RAMP two (R113). -/
theorem test_cost : (jetOf (execRamp 0 0 (sSlot (slotWord 0x28 0 4 1 2 3 0)))).cycle = 2 ∧ slotCost (slotOf (slotWord 0x21 0 4 0 0 0 63)) = 64 := by decide +kernel

/-- A command at the front of the queue is taken off it, and it acts: DEV_COMMIT_GO makes a GO commit wait for the weir (R35). -/
theorem test_step : (nextOf (step { bank fabOn with pending := [.devCommitGo 0, .refGood] })).pending = [.refGood] ∧
    (nextOf (step { bank fabOn with pending := [.devCommitGo 0, .refGood] })).tick.goNow = true := by decide +kernel

/-! ### Power stages -/

/-- PST is on, LIVE in RUN with PLL-P locked, its crossings ready and a converter in service; channel 7 is enabled and stands in `st`. -/
def pstOn (st : Nat) : List (Fld × Nat) := [(Reg.PWRM_STAT.DOM_ON, 255), (Reg.DEV_SVC.STATE, svcLIVE), (Reg.CLK_STAT.LOCKED, 15), (Reg.GAUGE_STAT.STATE_A, 2),
  (Reg.XING_STAT.RDY 14, 1), (Reg.XING_STAT.RDY 15, 1), (Reg.PSC_CTL.EN 7, 1), (Reg.PSC_STAT.STATE 7, st), (Reg.PSC_LF.COEF 7 0 0, 1), (Reg.PSC_CABSRC.EN, 1),
  (Reg.XING_STAT.RDY 6, 1), (Reg.CLK_STAT.REF_OK, 1)]
def sPst (st : Nat) (c : PscCh := {}) (l : List (Fld × Nat) := []) : State := { bank (pstOn st ++ l) with
  now := 5000, psc := [(7, c)], timers := [tmPscReady 7, tmPscPrecharge 7, tmPscFault 7, tmPscTest 7, tmPscPilot 7].map (·, 1) }

/-- The power stages can be reached over crossing 6. -/
theorem w_PstReady (s : State) (h : s.domOn .sys = true ∧ s.domOn .pst = true ∧ s.isGated .pst = false ∧ s.isHeld .hsp = false ∧
    s.bus.wait.any (fun y => y.who == Requester.hsp) = false ∧ s.xingOpen 6 = true ∧ s.farRuns .pst = true ∧ (s.xingSt 6).words = []) : AccessReady .hsp .pst s :=
  ⟨h.1, h.2.1, h.2.2.1, h.2.2.2.1, h.2.2.2.2.1, fun n hn => by cases hn; exact h.2.2.2.2.2⟩

theorem w_StageAccess : AccessReady .hsp .pst (sPst 6 {} [(Reg.PSC_CTL.EN 7, 0)]) ∧ AccessReady .hsp .pst (sPst 6) ∧ AccessReady .hsp .pst (sPst 0) :=
  ⟨w_PstReady _ (by decide +kernel), w_PstReady _ (by decide +kernel), w_PstReady _ (by decide +kernel)⟩

theorem w_StageStarts :
    ((sPst 0).pscWants 7 = true ∧ (sPst 0).psState 7 = psOFF ∧ ((sPst 0).pscCh 7).dcTest = .none ∧ (sPst 0).pscNoCoef 7 = false) ∧
    ((sPst 0 {} [(Reg.PSC_LF.COEF 7 0 0, 0)]).pscWants 7 = true ∧ (sPst 0 {} [(Reg.PSC_LF.COEF 7 0 0, 0)]).pscNoCoef 7 = true) ∧
    (∀ l ∈ [1, 3], (sPst 1 { step := .waitReady } [(Reg.PSC_STAT.LEVELS 7, l)]).psState 7 = psSTARTING ∧
      (sPst 1 { step := .waitReady } [(Reg.PSC_STAT.LEVELS 7, l)]).get (Reg.PSC_STAT.LEVELS 7) = l) ∧
    ((sPst 1 { step := .settle } [(Reg.PSC_STAT.LEVELS 7, 2)]).get (Reg.PSC_STAT.LEVELS 7) ≠ 1 ∧ (sPst 1).due (tmPscReady 7) 1 = true) ∧
    ((sPst 1 { step := .precharge, est := [some 1431655765, some 2863311531, some 1431655765, some 2863311531] }
      [(Reg.PSC_STAT.LEVELS 7, 3), (Reg.PSC_PRECHG.WIN 7, 1)]).pscInWindow 7 = true) ∧
    (((sPst 1 { step := .cmRamp, cm := ⟨0, 0x8000, 4950, 50⟩ }).pscCh 7).cm.done 5000 = true) ∧
    (((sPst 1 { step := .gainRamp, gain := ⟨0, 0x10000, 4980, 20⟩ }).pscCh 7).gain.done 5000 = true) ∧
    (∀ e < 2, (sPst 6 {} [(Reg.PSC_CTL.EN 7, e)]).psState 7 = psLATCHED ∧
      (sPst 6 {} [(Reg.PSC_CTL.EN 7, e)]).bit (Reg.PSC_CTL.EN 7) = (e == 1)) ∧
    ((sPst 6).playing = true ∧ (sPst 6).pscClocked = true ∧ (sPst 6).gaugeInService = true) := by decide +kernel

def sFaulted (rs : List Nat) : State := sPst 5 { restarts := rs } [(Reg.PSC_STAT.CAUSE 7, 4)]

theorem w_StageStops :
    ((sPst 2 { drive := .switching } [(Reg.PSC_CTL.EN 7, 0)]).psState 7 = psRUN ∧ (sPst 2 { drive := .switching } [(Reg.PSC_CTL.EN 7, 0)]).bit (Reg.PSC_CTL.EN 7) = false ∧
      (sPst 2 { drive := .switching } [(Reg.PSC_CTL.EN 7, 0)]).gaugeInService = true) ∧
    ((sPst 3 { step := .stopCm, cm := ⟨0x8000, 0, 4950, 50⟩ }).psState 7 = psSTOPPING ∧ ((sPst 3 { step := .stopCm, cm := ⟨0x8000, 0, 4950, 50⟩ }).pscCh 7).cm.done 5000 = true) ∧
    (((sPst 3 { step := .stopLow }).pscCh 7).step = .stopLow ∧ ((sPst 3 { step := .stopLow }).pscCh 7).stopFault = false) ∧
    ((∀ c ∈ [({ step := .waitReady } : PscCh), { dcTest := .line true }], (sPst 1 c).pscAwaitsLine 7 = true ∧
        (sPst 1 c).due (tmPscReady 7) ((sPst 1 c).get (Reg.PSC_RDYCFG.TO 7)) = true) ∧
      (∀ c ∈ [({ step := .precharge } : PscCh), { dcTest := .probing true }], (sPst 1 c).pscProbes 7 = true ∧
        (sPst 1 c).due (tmPscPrecharge 7) (10 * max 1 ((sPst 1 c).get (Reg.PSC_PRECHG.TO 7))) = true) ∧
      ((sPst 2 { rdyReleased := true }).psState 7 = psRUN ∧ ((sPst 2 { rdyReleased := true }).pscCh 7).rdyReleased = true)) ∧
    ((sFaulted [4999, 3]).psState 7 = psFAULT ∧ (sFaulted [4999, 3]).get (Reg.PSC_STAT.CAUSE 7) ∈ [2, 3, 4] ∧ (sFaulted [4999, 3]).pscWants 7 = true ∧
      (sFaulted [4999, 3]).pscNoCoef 7 = false ∧ (sFaulted [4999, 3]).due (tmPscFault 7) 10 = true) ∧
    ((sFaulted [4999, 3]).pscSpent 7 = false ∧ (sFaulted [4999, 3, 2]).pscSpent 7 = true) := by decide +kernel

def aCode : FcCode := ⟨false, .v1, 100⟩
def sCode : State := sPst 2 { drive := .switching, fcBad := 14, codes := [aCode], pvdd := 200 }

theorem w_StageLoop : (sPst 2 { drive := .switching }).pscLoopRuns 7 = true ∧ ((sPst 2).pscCh 7).drive = .low ∧
    (((sPst 2 { drive := .switching, fcMissed := 63 }).pscCh 7).switches = true ∧ ((sPst 2 { drive := .switching, fcMissed := 63 }).pscCh 7).codes = []) ∧
    ((sCode.pscCh 7).switches = true ∧ (sCode.pscCh 7).codes = [aCode] ∧ (sCode.pscCh 7).est.length = 4 ∧ ((aCode.code * 65536 : Nat) : Int) = 32768 * (sCode.pscCh 7).pvdd ∧
      (sCode.pscCh 7).fcBad < 15) := by decide +kernel

def sLimits : State := sPst 7 { drive := .freewheel, tripped := 7, beforeTrip := psRUN, tripCarrier := 4, carriers := 5 }
def sDcRun : State := sPst 0 { dcTest := .running false }

theorem w_StageProtection :
    (19999 < (sPst 2).ilimUv 7 ∧ (sPst 2).ilimUv 7 ≤ 145000) ∧
    (((sPst 2 { drive := .switching }).pscCh 7).dcTest = .none ∧ ((sPst 2 { drive := .switching }).pscCh 7).switches = true ∧ (sPst 2 {}).psState 7 ≠ psLIMITING ∧ 1 < (sPst 2 {}).ilimCnt 7) ∧
    ((sLimits.pscCh 7).dcTest = .none ∧ (sLimits.pscCh 7).switches = true ∧ sLimits.psState 7 = psLIMITING ∧ sLimits.ilimCnt 7 ≤ (sLimits.pscCh 7).tripped + 1 ∧
      (sLimits.pscCh 7).carriers = (sLimits.pscCh 7).tripCarrier + 1 ∧ (sLimits.pscCh 7).shortSoFar = true ∧ sLimits.belowShort 7 0 = true ∧
      (sLimits.pscCh 7).beforeTrip ≠ psSTOPPING) ∧
    ((sPst 7 { tripCarrier := 4, carriers := 6, beforeTrip := psRUN }).psState 7 = psLIMITING ∧ (sPst 7).playing = true) ∧
    ((sPst 0).psState 7 = psOFF ∧ (sPst 0).pscReadyToRun 7 = true ∧ ((sPst 0).pscCh 7).dcTest = .none) ∧
    (((sPst 0 { dcTest := .line false }).pscCh 7).dcTest = .line false ∧ (sPst 0 { dcTest := .probing true } [(Reg.PSC_STAT.LEVELS 7, 1)]).pscInWindow 7 = true) ∧
    ((sDcRun.pscCh 7).dcTest = .running false ∧ sDcRun.gaugeInService = true ∧ sDcRun.due (tmPscTest 7) 40 = true ∧ sDcRun.dcOpenCurrent 7 1000000 = false ∧
      4000 * 1000000 % 1000000 = 0 ∧ 100 * sDcRun.get (Reg.PSC_DCTEST.RMIN 7) ≤ 4000 * 1000000 / 1000000 ∧ 4000 * 1000000 / 1000000 ≤ 1000 * sDcRun.get (Reg.PSC_DCTEST.RMAX 7)) := by
  decide +kernel

def sPilot (c : PscCh := {}) : State := sPst 2 c [(Reg.PSC_PILOT.EN 7, 1), (Reg.PSC_CAB.RE0 7, 0)]
def sNtc (lim : Nat) : State := sPst 2 { ntc := 99 } [(Reg.PSC_NTC.LIM 7, lim)]
/-- A cabinet record of one channel; the CRC-32 (zlib's) of its first 32 bytes is 0x6E576539. -/
def aCabinet : List Byte := [0x43, 0x41, 0x42, 0x31, 1, 1, 0, 0] ++ List.replicate 24 1

theorem w_StageModels : (sPilot.bit (Reg.PSC_PILOT.EN 7) = true ∧ sPilot.psState 7 = psRUN ∧ (sPilot.pscCh 7).pilotVoid = false ∧ sPilot.get (Reg.PSC_CAB.RE0 7) = 0 ∧
      sPilot.due (tmPscPilot 7) ((sPilot.get (Reg.PSC_PILOT.INT 7) + 1) * 100) = true) ∧
    ((sPilot { pilotVoid := true }).pilotOn 7 = true ∧ ((sPilot { pilotVoid := true }).pscCh 7).pilotVoid = true ∧
      (sPst 7 { pilotVoid := true }).psState 7 = psLIMITING) ∧
    ((sNtc 99).domOn .pst = true ∧ (sNtc 99).get (Reg.PSC_CAB.XGAIN 7) = 0 ∧ (sNtc 99).get (Reg.PSC_NTC.MAX 7) = 0 ∧ 0 < (sNtc 99).get (Reg.PSC_NTC.LIM 7) ∧
      ((sNtc 99).pscCh 7).ntc ≤ (sNtc 99).get (Reg.PSC_NTC.LIM 7)) ∧ (sNtc 0).get (Reg.PSC_NTC.LIM 7) = 0 ∧ (sNtc 0).bit Reg.PSC_CABSRC.EN = true ∧
    (cabValid (aCabinet ++ leBytes 4 (crc32 aCabinet)) = true ∧ cabValid (aCabinet ++ [0, 0, 0, 0]) = false) := by decide +kernel

/-! ### Rate-converter lanes and serial ports -/

/-- FAB is on; port 1 is an enabled slave in ASRC mode that runs qualified at 44.1 kHz, as the ticks do, and lane 95 is on it. -/
def sapOn : List (Fld × Nat) := fabOn ++ [(Reg.SAP_CTL.EN 1, 1), (Reg.SAP_CTL.DATA 1, 1), (Reg.SAP_STAT.RUN 1, 1), (Reg.SAP_STAT.QUAL 1, 1), (Reg.SAP_STAT.RATE 1, 4410),
  (Reg.SAP_RXMASK.SLOT 1 3, 0xFFFFFFFF), (Reg.ASRC_LANE_CFG.EN 95, 1), (Reg.ASRC_LANE_CFG.PORT 95, 1), (Reg.ASRC_LANE_CFG.SLOT 95, 127), (Reg.XING_STAT.RDY 2, 1),
  (Reg.CLK_STAT.FAMILY, 1), (Reg.DEV_TICK_CTL.RATE, 0)]
def sSap (l : List (Fld × Nat) := []) (p : SapPort := { tx := [[]], prevBits := 256 }) (a : AsrcLane := {}) : State :=
  { bank (sapOn ++ l) with sap := [(1, p)], asrc := [(95, a)] }
def sLocked : State := sSap [(Reg.ASRC_LANE_STAT.LOCKED 95, 1)] {} { building := true, want := some 0 }
def sTracks : State := sSap [(Reg.ASRC_LANE_STAT.LOCKED 95, 1), (Reg.ASRC_LANE_STAT.RATIO 95, 2 * ratioOne)] {} { past := 20 }

theorem w_Lanes : ((sSap).laneFed 95 = true ∧ (sSap).bit (Reg.ASRC_LANE_STAT.LOCKED 95) = false ∧
      (∀ r ∈ [ratioOne / 8, 8 * ratioOne], ratioInRange ((sSap).get (Reg.SAP_STAT.RATE ((sSap).get (Reg.ASRC_LANE_CFG.PORT 95)))) r = true) ∧
      ratioInRange ((sSap).get (Reg.SAP_STAT.RATE ((sSap).get (Reg.ASRC_LANE_CFG.PORT 95)))) (ratioOne / 8 - 1) = false) ∧
    (((sSap [] {} { page := some 3 }).lane 95).page = some (ratioClass (8 * ratioOne)) ∧ ((sSap).lane 95).page = none) ∧
    (sLocked.bit (Reg.ASRC_LANE_STAT.LOCKED 95) = true ∧ (sLocked.lane 95).building = true) ∧
    (sTracks.laneHeld 95 = true ∧ stepped (sTracks.get (Reg.ASRC_LANE_STAT.RATIO 95)) (2 * ratioOne + 20000) = true ∧
      stepped (sTracks.get (Reg.ASRC_LANE_STAT.RATIO 95)) (2 * ratioOne) = false ∧ pastBoundary (sTracks.get (Reg.ASRC_LANE_STAT.CLASS 95)) (2 * ratioOne) = true ∧
      (sTracks.lane 95).past = 20 ∧ (sTracks.lane 95).want = none) := by decide +kernel

def sLegacy (r : Nat) (p : SapPort) : State := sSap [(Reg.SAP_CTL.LEGACY 1, 1), (Reg.SAP_CTL.DATA 1, 0), (Reg.SAP_STAT.RUN 1, r)] p

theorem w_SerialFrames_ready : AccessReady .hsp .fab (sSap) := w_FabReady _ (by decide +kernel)

theorem w_SerialFrames : ((sSap).domOn .fab = true ∧ (sSap).get (Reg.SAP_CTL.EN 1) = 1 ∧ (sSap).get (Reg.SAP_CTL.MASTER 1) = 0 ∧ (sSap).get (Reg.SAP_CTL.LEGACY 1) = 0 ∧
      (sSap).get (Reg.SAP_STAT.RUN 1) = 1 ∧ ((sSap).sapP 1).master = false ∧ ((sSap).sapP 1).ending = false ∧ ((sSap).sapP 1).lost = false ∧ ((sSap).sapP 1).masks = [] ∧
      ((sSap).sapP 1).rx.length < 4 ∧ ((sSap).sapP 1).tx = [[]] ∧ (sSap).get (Reg.SAP_STAT.OFFRATE 1) = 0 ∧ offRate 4410 (tickHz (sSap).rate) = false ∧
      (sSap).sapStartEdge 1 = true ∧ ((sSap).sapP 1).prevBits ≠ 0 ∧ ((sSap).sapP 1).prevBits ≠ 255) ∧
    ((sLegacy 1 { tx := [[]] }).get (Reg.SAP_CTL.LEGACY 1) = 1 ∧ (sLegacy 1 { tx := [[]] }).get (Reg.SAP_STAT.RUN 1) = 1) ∧
    (∀ m ∈ [[], [(7, (5 : Word))]], (sSap [(Reg.SAP_STAT.RUN 1, 0)] { masks := m }).get (Reg.SAP_STAT.RUN 1) = 0 ∧ ((sSap [(Reg.SAP_STAT.RUN 1, 0)] { masks := m }).sapP 1).masks = m) := by
  decide +kernel

def sSlips (r : List SapFrame) (l : List (Fld × Nat) := []) : State := sSap ([(Reg.SAP_CTL.DATA 1, 0)] ++ l) { rx := r, tx := r }

theorem w_SerialErrors : (∀ l < 2, (sSap [(Reg.SAP_CTL.LEGACY 1, l)]).get (Reg.SAP_STAT.RUN 1) = 1 ∧ (sSap [(Reg.SAP_CTL.LEGACY 1, l)]).get (Reg.SAP_CTL.LEGACY 1) = l) ∧
    (∀ r ∈ [[], [[], [], [], []]], (sSlips r).sapSlips 1 = true ∧ (sSlips r).sapElastic 1 = true ∧ (sSlips r).sapIsReference 1 = false ∧ ((sSlips r).sapP 1).rx = r ∧
      ((sSlips r).sapP 1).tx = r) ∧
    (sSlips [] [(Reg.CLK_PLLA_REFST.ACTIVE, 4), (Reg.CLK_PLLA_REFST.STATE, 0)]).sapIsReference 1 = true := by decide +kernel

/-! ### The chain -/

/-- CHN is on and PLL-C locked; port 1 is enabled at all rates and stands in `st`; this node is 5 in time role `role`. -/
def chnOn (st role : Nat) : List (Fld × Nat) := [(Reg.PWRM_STAT.DOM_ON, 255), (Reg.CLK_STAT.LOCKED, 15), (Reg.CHAIN_CP_CTL.EN 1, 1), (Reg.CHAIN_CP_CTL.RATES 1, 7),
  (Reg.CHAIN_CP_STAT.STATE 1, st), (Reg.CHAIN_LINK_STAT.NODE_ID, 5), (Reg.CHAIN_TIME_STAT.ROLE, role), (Reg.CHAIN_LINK_STAT.RATE, 1), (Reg.CHAIN_TX.EN 11, 1),
  (Reg.CHAIN_TX.LOCAL 11, 63)]
def sChn (st : Nat) (role : Nat := 3) (l : List (Fld × Nat) := []) (x : ChainPort := { txDis := false }) (c : ChainSt := {}) : State :=
  { bank (chnOn st role ++ l) with chain := { c with ports := [(1, x)] }, now := 9000, timers := [tmSearch, tmNoLock 1, tmTest 1, tmGrant, tmBetter, tmMod 1].map (·, 1) }

/-- The chain's registers need no crossing. -/
theorem w_ChainReady (s : State) (h : s.domOn .sys = true ∧ s.domOn .chn = true ∧ s.isGated .chn = false ∧ s.isHeld .hsp = false ∧
    s.bus.wait.any (fun y => y.who == Requester.hsp) = false) : AccessReady .hsp .chn s := ⟨h.1, h.2.1, h.2.2.1, h.2.2.2.1, h.2.2.2.2, fun n hn => by cases hn⟩

theorem w_ChainPorts :
    ((sChn cpUP).bit (Reg.CHAIN_CP_CTL.EN 1) = true ∧ (sChn cpUP).domOn .chn = true ∧ (sChn cpUP).portState 1 = cpUP ∧ (sChn cpUP).bit (Reg.CHAIN_CP_STAT.MOD_ABS 1) = false ∧
      (wakeModes 5).elem (sChn cpUP).wakeMode = false ∧ (sChn cpUP).portHears 1 = true) ∧
    ((sChn cpRX_DOWN 3 [(Reg.CHAIN_CP_STAT.MOD_ABS 1, 1)]).bit (Reg.CHAIN_CP_STAT.MOD_ABS 1) = true ∧ (sChn cpRX_DOWN).due (tmMod 1) 1 = true) ∧
    ((sChn cpSEARCH).portState 1 = cpSEARCH ∧ (sChn cpSEARCH).bit (Reg.CHAIN_CP_STAT.LOS 1) = false ∧ (sChn cpSEARCH).due (tmNoLock 1) 1000 = true ∧ (sChn cpSEARCH).searching = true ∧
      (sChn cpSEARCH).due tmSearch 20 = true ∧ rateBelow (sChn cpSEARCH 3 [] {} { search := 3 }).ratesEither 3 ≠ 0) ∧
    ((sChn cpSEARCH).locked pllC = true ∧ (sChn cpSEARCH 3 [(Reg.CHAIN_LINK_STAT.RATE, 0)] {} { search := 2 }).nodeRate = 0) := by decide +kernel

def helloOf (w0 w1 : Nat) : List Byte := padTo 28 (leBytes 4 w0 ++ leBytes 4 w1) ++ leBytes 4 (crc32 (padTo 28 (leBytes 4 w0 ++ leBytes 4 w1)))
def aHello : List Byte := helloOf (7 + 1024 + 2048 + 65536) (7 + 256 + 65536 * 7)

theorem w_ChainLinks : ((sChn cpHELLO).portState 1 = cpHELLO ∧ helloValid aHello = true ∧ helloValid (helloOf 7 0) = true ∧ leAt (helloOf 7 0) 0 4 / 2048 % 2 = 0) ∧
    (((sChn cpHELLO 3 [] { ack := true }).port 1).ack = true ∧ leAt aHello 0 4 / 2048 % 2 = 1 ∧ leAt aHello 0 4 / 65536 % 256 = 1 ∧
      rateIn ((sChn cpHELLO).get (Reg.CHAIN_CP_CTL.RATES 1) &&& ((sChn cpHELLO).port 1).ceiling &&& (leAt aHello 4 4 % 8) &&& (leAt aHello 4 4 / 65536 % 8)) (sChn cpHELLO).nodeRate = true ∧
      leAt aHello 4 4 / 2048 % 2 = (sChn cpHELLO).get Reg.CLK_STAT.FAMILY ∧ leAt aHello 4 4 / 256 % 8 = (sChn cpHELLO).rate ∧ (sChn cpHELLO).nodeRate ≠ 3 ∧
      (sChn cpHELLO).get (Reg.CHAIN_CP_STAT.FEC 1) = 0 ∧ (sChn cpHELLO).portState 0 ≠ cpEXCLUDED) ∧
    (∀ t ∈ [1, 2], (sChn cpUP 3 [(Reg.CHAIN_LINK_STAT.TOPO, t)]).inRing = (t == 2)) ∧
    ((sChn cpTESTING).portState 1 = cpTESTING ∧ (sChn cpTESTING).due (tmTest 1) 2 = true ∧ (sChn cpTESTING).chain.asked = []) := by decide +kernel

def aBeacon : Beacon := { flags := 4, tick := 3, master := 7, origin := 7, sender := 7, hops := 2, pofs := 0, nbundle := 0, clockQ := 0, arr := ofsNONE, dep := ofsNONE }
def aLink : List Byte := sealCell [1]

theorem w_ChainParcels : ((sChn cpUP 1).portSends 1 = true ∧ (sChn cpUP 1).isMaster = true) ∧ ((sChn cpUP 1).portHears 1 = true ∧ readBeacon (beaconBytes aBeacon) = some aBeacon ∧
      cellValid aLink = true ∧ byteAt aLink 0 = 1 ∧ byteAt aLink 1 = 0 ∧ (sChn cpUP 1).shouldFollow aBeacon.master aBeacon.clockQ aBeacon.hold = false ∧ ((sChn cpUP 1).port 1).deps = [] ∧ aBeacon.keep = false ∧ aBeacon.hold = true ∧ aBeacon.origin ≠ (sChn cpUP 1).nodeId) ∧
    (readBeacon [0xD1] = none ∧ ((sChn cpUP 1).port 1).bad < 2 ∧ ((sChn cpUP 1).port 1).errs.length < max 1 ((sChn cpUP 1).get Reg.CHAIN_LINK_POL.DEG_CNT)) := by decide +kernel

def sStreams (role : Nat) : State := sChn cpUP role [] {} { slots := [(9, 0x1FF)] }

theorem w_ChainStreams : ((sStreams 1).domOn .chn = true ∧ (3, 4) ∉ (sStreams 1).chain.taken ∧ (sStreams 1).isMaster = true ∧ (sStreams 1).slotFor 0x2FF = none ∧ 8 < (sStreams 1).slotLimit ∧
      tabGet (fun _ => 0) (sStreams 1).chain.slots 8 = 0 ∧ 0x2FF / 64 ≠ (sStreams 1).nodeId) ∧ (sStreams 1).slotFor 0x1FE = some 9 ∧
    ((sStreams 0).nodeId = 5 ∧ (List.range 12).find? (fun b => (sStreams 0).bit (Reg.CHAIN_TX.EN b) && (sStreams 0).streamId b == 383) = some 11) ∧
    ((sStreams 0).bit (Reg.CHAIN_TX.EN 11) = true ∧ (sStreams 0).bit (Reg.CHAIN_TX.GRANTED 11) = false ∧ (sStreams 0).timerOn (tmAnnounce 11) = false ∧ (sStreams 0).timeRole = roleFOLLOWER ∧
      (sStreams 0).chain.silent = false ∧ (sStreams 0).isMaster = false) ∧
    ({ sStreams 0 with tick := { count := 1024 } } : State).chain.reportAt + 1024 ≤ ({ sStreams 0 with tick := { count := 1024 } } : State).tick.count.toNat := by decide +kernel

def sGranted : State := sChn cpUP 1 [(Reg.CHAIN_LINK_STAT.TOPO, 2)] {} { testNow := some (6, 1), queues := [(1, { rx := [(6, [1, 2, 3, 4, 5])], tx := List.replicate 8 [] }), (0, { rx := List.replicate 16 (6, []) })] }

theorem w_ChainAccess : AccessReady .hsp .chn (sChn cpUP) ∧ AccessReady .hsp .chn sGranted ∧ AccessReady .hsp .chn (sStreams 1) :=
  ⟨w_ChainReady _ (by decide +kernel), w_ChainReady _ (by decide +kernel), w_ChainReady _ (by decide +kernel)⟩

theorem w_ChainMessages : ((sStreams 1).chain.testNow = none ∧ (sStreams 1).chain.testQueue = [] ∧ 6 ≠ (sStreams 1).nodeId) ∧ (sGranted.portState 1 = cpUP ∧ sGranted.inRing = true ∧ sGranted.nodeId = 5) ∧
    (sGranted.isMaster = true ∧ sGranted.chain.testNow ≠ none ∧ sGranted.due tmGrant 20 = true ∧ sGranted.chain.testQueue = []) ∧
    ((sGranted.queue 1).rx.length < 16 ∧ (sStreams 1).queue 1 = {} ∧ 8 ≤ (sGranted.queue 1).tx.length ∧ (6, 1) ∉ sGranted.chain.sideTaken ∧ 16 ≤ (sGranted.queue 0).rx.length) := by decide +kernel

def sTime (role cap : Nat) : State := { sChn cpUP role [(Reg.CHAIN_TIME_POL.MASTER_CAP, cap), (Reg.CHAIN_TIME_POL.REELECT_HOLD, 2), (Reg.CLK_PLLA_SRC.ENTRY0, 1), (Reg.CLK_PLLA_SRC.ENTRY1, 5), (Reg.CLK_PLLA_REFST.ACTIVE, 1), (Reg.CLK_PLLA_REFST.STATE, 0)] { txDis := false }
  { dHeld := 64, ahead := 5, heardAt := 0 } with tick := { count := 3 } }

theorem w_ChainTime : ((sTime 3 1).timeRole = roleNONE ∧ (sTime 3 1).clockQ ≠ 0 ∧ (sTime 3 1).heardMaster = false ∧ (sTime 3 1).portState 1 = cpUP ∧ ((sTime 3 1).port 1).upTick + 3 ≤ (sTime 3 1).tick.count.toNat) ∧
    ((sTime 2 1).portHears 1 = true ∧ (sTime 2 1).shouldFollow 1 1 false = true) ∧
    ((sTime 0 1).timeRole = roleFOLLOWER ∧ (sTime 0 1).clockQ ≠ 0 ∧ (sTime 0 1).due tmBetter (1000 * max 1 ((sTime 0 1).get Reg.CHAIN_TIME_POL.REELECT_HOLD)) = true ∧
      (bank [(Reg.CLK_PLLA_REFST.ACTIVE, 5)] (sTime 0 1)).get Reg.CLK_PLLA_REFST.ACTIVE ≠ 1) ∧ ((sTime 0 0).clockQ = 0 ∧ (sTime 0 0).masterSilent = true) ∧
    ((sTime 0 1).refState = refLOCKED ∧ (sTime 0 1).get Reg.CLK_PLLA_REFST.ACTIVE = 1 ∧ (sTime 0 1).chain.ahead ≠ 0 ∧ (9 : TickNo) = (sTime 0 1).tick.count + 1 + BitVec.ofInt 48 (sTime 0 1).chain.ahead) ∧ ((sTime 1 1).isMaster = true ∧ (sTime 1 1).chain.dHeld = 64 ∧ (sTime 1 1).pofs = 0 ∧ (sTime 1 1).chain.capped = false) := by
  decide +kernel

/-! ### Listening -/

/-- LSN is on in RUN with every stage enabled; template 3 is stored with two variants of ten frames. -/
def aTemplate : List Byte := [1, 2, 10, 20, 0, 0, 0, 0] ++ List.replicate 640 7
def aPath : List (Nat × Nat) := (List.range 10).map fun i => (i, i)
def sLsn (l : LsnSt) (f : List (Fld × Nat) := []) : State := { bank ([(Reg.PWRM_STAT.DOM_ON, 255), (Reg.LSN_CTL.EN, 1), (Reg.LSN_CTL.W1EN, 1), (Reg.LSN_CTL.W2EN, 1),
  (Reg.LSN_CTL.W3EN, 1), (Reg.LSN_CTL.TMASK, 8), (Reg.LSN_TMPL.VALID 3, 1), (Reg.LSN_TMPL.NVAR 3, 2), (Reg.LSN_TMPL.THRESH 3, 20), (Reg.LSN_CTL.AUTOREL, 2)] ++ f) with
  lsn := { l with templates := [(3, aTemplate)], features := List.replicate 10 (List.replicate 32 9), w1Run := 255 }, now := 9000, timers := [tmW2, tmW3, tmAutorel].map (·, 1) }

theorem w_WakeStages :
    ((sLsn {}).w1Runs = true ∧ (sLsn {}).w1Met = true ∧ (sLsn {}).frozen = false ∧ (sLsn {}).bit Reg.LSN_CTL.W2EN = true ∧ (sLsn {} [(Reg.LSN_CTL.W2EN, 0)]).bit Reg.LSN_CTL.W2EN = false ∧
      (sLsn {}).bit Reg.LSN_CTL.W3EN = true ∧ (sLsn {}).domOn .lsn = true ∧ (sLsn {} [(Reg.LSN_CTL.W3EN, 0)]).bit Reg.LSN_CTL.W3EN = false ∧
      (wakeModes 3).elem (sLsn {}).wakeMode = false) ∧
    ((sLsn { w2 := true }).templateOn 3 = true ∧ (sLsn { w2 := true }).due tmW2 1500 = true ∧
      pathLegal (sLsn {}).lsn.features.reverse ((sLsn {}).template 3) (min 30 (byteAt ((sLsn {}).template 3) 2)) aPath = true ∧
      (sLsn {}).get Reg.LSN_WCFG.TH2 ≤ pathScore (sLsn {}).lsn.features.reverse ((sLsn {}).template 3) 0 true aPath) ∧
    ((sLsn { w3 := true }).due tmW3 3000 = true ∧ (sLsn { w3 := true }).domMode = modeRUN) ∧ (sLsn {} [(Reg.LSN_STAT.FROZEN, 1)]).frozen = true := by decide +kernel

theorem w_LsnMatch : (sLsn { w3 := true }).matchAllowed ⟨3, 1, pathScore (sLsn { w3 := true }).lsn.features.reverse ((sLsn { w3 := true }).template 3) 1 false aPath, 10, 5, 6, 7, [8]⟩ aPath = true ∧
    (10 : BitVec 8).toNat = min 255 (pathLength aPath) := by decide +kernel

def sFrozen : State := sLsn { ring := [1, 2, 3, 4, 5], check := some { beam := 1, ticks := 256, len := 256 } } [(Reg.LSN_STAT.FROZEN, 1)]

theorem w_PreRollAndChecks : (sFrozen.domOn .sys = true ∧ sFrozen.frozen = true ∧ sFrozen.get Reg.LSN_CTL.AUTOREL ≠ 0 ∧ sFrozen.due tmAutorel (1000 * sFrozen.get Reg.LSN_CTL.AUTOREL) = true) ∧
    (sLsn {}).frozen = false ∧ sFrozen.lsn.check = some { beam := 1, ticks := 256, len := 256 } := by decide +kernel

/-! ### The gauge -/

/-- Both converters serve, sequence 1 is enabled with triggers `inj` and `reg`, and buffer 7 of 256 entries is full but for one. -/
def gauOn (inj reg : Nat) : List (Fld × Nat) := [(Reg.PWRM_STAT.DOM_ON, 255), (Reg.GAUGE_STAT.STATE_A, 2), (Reg.GAUGE_STAT.STATE_B, 2), (Reg.GAUGE_STAT.REFRDY, 1),
  (Reg.GAUGE_INJCTL.EN 1, 1), (Reg.GAUGE_INJCTL.TRIG 1, inj), (Reg.GAUGE_INJCTL.PMASK 1, 0x80), (Reg.GAUGE_SEQ.EN 1, 1), (Reg.GAUGE_SEQ.TRIG 1, reg),
  (Reg.GAUGE_SEQ.EN 0, 1), (Reg.GAUGE_SEQ.TRIG 0, 1), (Reg.GAUGE_TMR.EN, 1), (Reg.GAUGE_BUF_CFG.EN 7, 1), (Reg.GAUGE_BUF_WR.WR 7, 255), (Reg.GAUGE_BUF_RD.RD 7, 1),
  (Reg.GAUGE_BUF_BASE.ADDR 7, 0x3FFFF), (Reg.GAUGE_PLCFG.WIN, 100)]
def sGau (inj reg : Nat) (g : GaugeSt := {}) (l : List (Fld × Nat) := []) : State :=
  { bank (gauOn inj reg ++ l) with gauge := g, now := 100, timers := [(tmGaugeCal 1, 1)] }
def sBusy : State := sGau 0 3 { tmr := 70000, convs := [(1, { reg := some { entries := [] }, inj := some { entries := [] } })] }

theorem w_GaugeTriggers :
    ((sGau 1 1).bit (Reg.GAUGE_INJCTL.EN 1) = true ∧ ((sGau 1 1).gconv 1).inj = none ∧ (sGau 1 1).get (Reg.GAUGE_INJCTL.TRIG 1) = 1 ∧ (sGau 1 1).bitAt (Reg.GAUGE_INJCTL.PMASK 1) 7 = true) ∧
    ((sBusy.gconv 1).inj = some { entries := [] } ∧ sBusy.bit (Reg.GAUGE_SEQ.EN 1) = true ∧ sBusy.get (Reg.GAUGE_SEQ.TRIG 1) = 3 ∧ (sBusy.gconv 1).reg ≠ none ∧ sBusy.gaugePeriod ≤ sBusy.gauge.tmr ∧
      (bank [(Reg.GAUGE_SEQ.TRIG 1, 2)] sBusy).get (Reg.GAUGE_SEQ.TRIG 1) = 2) ∧
    (({ sBusy with psc := [(0, { drive := .switching })] } : State).pscCh (sBusy.get (Reg.GAUGE_SEQ.PCH 1))).switches = true ∧
    ((sGau 1 1).get (Reg.GAUGE_SEQ.TRIG 1) = 1 ∧ ((sGau 1 1).gconv 1).reg = none) ∧
    (sBusy.bit Reg.GAUGE_TMR.EN = true ∧ sBusy.get (Reg.GAUGE_INJCTL.TRIG 0) ≠ 2 ∧ sBusy.get (Reg.GAUGE_INJCTL.TRIG 1) ≠ 2 ∧ sBusy.get (Reg.GAUGE_SEQ.TRIG 0) = 1 ∧
      sBusy.bit (Reg.GAUGE_SEQ.EN 0) = true ∧ (sBusy.gconv 0).reg = none ∧ sBusy.get (Reg.GAUGE_SEQ.TRIG 1) ≠ 1) ∧
    (sBusy.domOn .pst = true ∧ sBusy.gaugeServes 0 = true ∧ sBusy.gaugeServes 1 = true ∧ (sBusy.hold 1).length < 8) := by decide +kernel

def sProbe : State := bank [(Reg.PSC_STAT.LEVELS 7, 3), (Reg.PSC_STAT.STATE 7, 1)] { sGau 1 1 with psc := [(7, { drive := .probe })] }

theorem w_GaugeEvents : sProbe.domOn .pst = true ∧ sProbe.gaugeServes 0 = true ∧ sProbe.gaugeServes 1 = true ∧ (sProbe.hold 1).length < 8 ∧ (sProbe.hold 2).length < 8 ∧
    (∀ h ∈ [false, true], sProbe.fcNode 7 h true = some .notV2 ∧ sProbe.fcDue 7 (2 * b2n h + 1) = true ∧
      (sProbe.fcTaken 7 (2 * b2n h + 1)).fcLasts 7 h (if sProbe.bit (Reg.CLK_PLL_STAT.BYPASSED 1) then 165 else 120) = true) ∧ sProbe.psState 7 = psSTARTING := by decide +kernel

def sDeliver : State := sGau 0 0 { holdA := [⟨0xDEADBEEF, 7, .v1⟩] } [(Reg.GAUGE_STAT.STATE_A, 0), (Reg.GAUGE_STAT.STATE_B, 0)]
def sCal : State := sGau 0 0 { calNow := 2 } [(Reg.GAUGE_STAT.STATE_B, 1)]
def sSettle : State := sGau 0 0 { recal := true } [(Reg.GAUGE_STAT.REFRDY, 0)]

theorem w_GaugeResults :
    (sDeliver.gaugeServes 0 = false ∧ sDeliver.gaugeServes 1 = false ∧ sDeliver.gauge.holdInj = [] ∧ sDeliver.gauge.holdA = [⟨0xDEADBEEF, 7, .v1⟩] ∧ sDeliver.bit (Reg.GAUGE_BUF_CFG.EN 7) = true ∧
      sDeliver.bufFill 7 ≠ sDeliver.bufSize 7 - 1) ∧ (255 < sDeliver.bufSize 7 ∧ sDeliver.anyPscOn = false ∧ (sPst 2).anyPscOn = true) ∧
    ((sGau 0 0).gaugeInService = true ∧ (sGau 0 0).domOn .pst = true ∧ (sGau 0 0).get (Reg.PSC_CAB.RE0 0) = 0 ∧ (sGau 0 0).get (Reg.PSC_NTC.MAX 0) = 0) ∧
    ((sGau 0 0).gaugeServes 0 = true ∧ (sGau 0 0).stew.gxOff = false ∧ (sGau 0 0).timerOn tmGaugeGx = false ∧
      ((sGau 0 0).gaugeCode 0 ((sGau 0 0).get Reg.GAUGE_PLCFG.SRC) 0 - (sGau 0 0).gaugeCode 1 ((sGau 0 0).get Reg.GAUGE_PLCFG.SRC) 0).natAbs ≤ (sGau 0 0).get Reg.GAUGE_PLCFG.WIN) ∧
    ((∀ k < 8, (sGau 0 0).psState k = psOFF) ∧ (sGau 0 0).gauge.calNow = 0 ∧ (sGau 0 0).get Reg.GAUGE_STAT.REFRDY = 1 ∧ 3 ≠ (sGau 0 0).get Reg.GAUGE_CTL.REF) ∧
    ((∀ k < 8, sSettle.psState k = psOFF) ∧ sSettle.get Reg.GAUGE_STAT.REFRDY = 0 ∧ sSettle.domOn .sys = true ∧ sSettle.gauge.calNext = 0) ∧
    (sCal.gaugeState 1 = gsCAL ∧ sCal.calGain (calOffset 4096) 130000000 ≠ none ∧ sCal.due (tmGaugeCal 1) 2 = true ∧ sCal.mbx.gaugeCal = none) := by decide +kernel

/-! ### The ports -/

/-- SYS and every other domain are on, the clocks run, and `h` stands at the ports. -/
def sPort (h : HostSt := {}) (l : List (Fld × Nat) := []) : State := { bank (fabOn ++ l) with host := h }
/-- A command word for operation `op` and address `a`, one word long. -/
def hspC (op a : Nat) : Word := BitVec.ofNat 32 (op * 2 ^ 30 + a * 64)

/-- A register of SYS takes an access at once. -/
theorem w_SysReady (s : State) (h : s.domOn .sys = true ∧ s.isGated .sys = false ∧ s.isHeld .hsp = false ∧ s.bus.wait.any (fun y => y.who == Requester.hsp) = false) :
    AccessReady .hsp .sys s := ⟨h.1, h.1, h.2.1, h.2.2.1, h.2.2.2, fun _ hn => by cases hn⟩

theorem w_HspFrames :
    ((sPort).domOn .sys = true ∧ (sPort).bit Reg.HOST_HSP_CFG.CRC = false ∧ hspOp (hspC 0 0x50040) = 0 ∧ hspBad (hspC 0 0x50040) = false ∧ hspLen (hspC 0 0x50040) = 1 ∧
      hspAddr (hspC 0 0x50040) = 0x50040 ∧ (regRow 0x50040).map (fun r => accessDom r 0x50040) = some Dom.sys ∧ Quiet (sPort) ∧ stewardOnly 0x50040 = false) ∧
    AccessReady .hsp .sys (sPort) ∧
    (hspOp (hspC 2 0xFFFFC) = 2 ∧ hspBad (hspC 2 0xFFFFC) = false ∧ hspOp (hspC 3 0xFFFFC) = 3 ∧ hspBad (hspC 1 0x5FFFFC) = false ∧ hspBad (hspC 2 0x600000) = true ∧ hspBad (hspC 1 0x50041) = true) := by
  refine ⟨by decide +kernel, w_SysReady _ (by decide +kernel), by decide +kernel⟩

def sPosted (ram : Bool) (a : Nat) : State := sPort { posted := [⟨1, ram, a, 0x01020304⟩], frames := 1 }
/-- GET_STATE written to the mailbox. -/
def sAsk : State := sPort { mbxTx := [0x02, 0x00, 0x00, 0x00, 0xFF] }

theorem w_HspMailbox :
    ((sPosted true 0xFFFFC).host.posted = [⟨1, true, 0xFFFFC, 0x01020304⟩] ∧ 0xFFFFC + 3 < ramBytes ∧ Quiet (sPosted true 0xFFFFC) ∧ (sPosted true 0xFFFFC).isHeld .hsp = false ∧
      (sPosted true 0xFFFFC).domOn .sys = true) ∧
    ((regRow 0x50080).map (fun r => (r.tc, accessDom r 0x50080)) = some (0, Dom.sys) ∧ Quiet (sPosted false 0x50080) ∧ stewardOnly 0x50080 = false) ∧ AccessReady .hsp .sys (sPosted false 0x50080) ∧
    (MbxReady sAsk ∧ sAsk.bit Reg.HOST_MBX_STAT.BUSY = false ∧ sAsk.host.mbxTx.take 4 = [0x02, 0x00, 0x00, 0x00] ∧ (sPort {} [(Reg.HOST_MBX_STAT.BUSY, 1)]).bit Reg.HOST_MBX_STAT.BUSY = true) := by
  refine ⟨by decide +kernel, by decide +kernel, w_SysReady _ (by decide +kernel), by decide +kernel⟩

/-- Source 0xC5 is pending for target HB, or in its service. -/
def sClaim (g : GateSt) : State := { sPort {} [(Reg.IC_SRC.LEVEL 0xC5, 3), (Reg.IC_SRC.MASK 0xC5, 2)] with irq := { gates := [(0xC5, { st := g })] } }
def sStream : State := { sPort with mbx := { image := some { part := false, total := 8, bytes := [1, 2], port := .hsp, at_ := 0 } } }
def sAsleep : State := bank [(Reg.PWRM_STAT.DOM_ON, 1), (Reg.PWRM_STAT.MODE, modeLISTEN)]

theorem w_TwoWireTarget :
    ((sPort).twtHit 0x40 0 0 = true ∧ (sPort).twtHit 0x43 0 3 = true ∧ (sPort).twtHit 0x4D 3 1 = true ∧ (sPort).twtHit 0x40 0 2 = false ∧ (sPort).twtPending = false ∧ Quiet (sPort)) ∧
    ((sPort { twtRsp := some [1] }).host.twtRsp = some [1] ∧ (sPort).host.twtRsp = none ∧ (sPort).host.twtWoken = false) ∧ (sStream.mbx.image.map (fun b => b.total) = some 8) ∧
    (((sClaim .pending).twtStart 0).followLevels.claimSource 1 = some 0xC5) ∧ ((sClaim (.inService 1)).gate 0xC5).st = .inService 1 ∧
    (sAsleep.mode = modeLISTEN ∧ sAsleep.domOn .sys = false ∧ sAsleep.bit Reg.HOST_TWT_CFG.WAKE = true ∧ sAsleep.wakeEnabled 2 = true ∧ sAsleep.twtHit 0x41 0 1 = true) := by decide +kernel

/-! ### The two-wire controller -/

def xferT : TwcXfer := { port := .twt, addr := 0x50, wdata := [1], rlen := 2, pec := false }
/-- One transfer waits, or stands between two tries; a setpoint waits where `v` names one. -/
def sTwc (now : Option (TwcWho × Nat) := none) (v : Option Nat := none) : State :=
  { sPort { twcQueue := if now.isSome then [] else [xferT], twcNow := now } [(Reg.HOST_TWC_CFG.RETRY, 3), (Reg.HOST_TWC_CFG.BACKOFF, 10), (Reg.PWRM_VFAB_CFG.EN, b2n v.isSome)] with
    now := 5, timers := [(tmTwc, 4)], stew := { vfab := v }, mbx := { twc := [.twt] } }

theorem w_TwoWireController :
    ((sTwc).host.twcNow = none ∧ (sTwc).vfabWaits = false ∧ (sTwc).host.twcQueue = [xferT] ∧ 2 ≤ (sTwc).get Reg.HOST_TWC_CFG.RETRY ∧ (sTwc).domOn .sys = true) ∧
    ((sTwc (some (.host xferT, 1))).host.twcNow = some (.host xferT, 1) ∧ (sTwc (some (.host xferT, 1))).due tmTwc (1 * (sTwc (some (.host xferT, 1))).get Reg.HOST_TWC_CFG.BACKOFF / 10) = true) ∧
    ((sTwc none (some 730)).vfabWaits = true ∧ (sTwc none (some 730)).stew.vfab = some 730 ∧ max 1 ((sTwc).get Reg.HOST_TWC_CFG.STRETCH_TO) < 36) := by decide +kernel

/-! ### The mailbox -/

/-- SYS runs with every domain on in service state `svc`, presence is valid, handle 9 is mapped to basin 9, `m` stands at the engine. -/
def sMbx (svc : Nat) (m : MbxSt := {}) (l : List (Fld × Nat) := []) : State :=
  { bank (fabOn ++ [(Reg.DEV_SVC.STATE, svc), (Reg.FAB_MAP.EN 9, 1), (Reg.FAB_MAP.PHYS 9, 9), (Reg.SEC_STAT.UKEY, 1), (Reg.GAUGE_STAT.REFRDY, 1), (Reg.AIN_CH_STAT.STATE 15, 4)] ++ l) with
    mbx := m, timers := [(tmPresLow, 1)], now := 7 }
def imgT (part : Bool) : ImgBuf := { part := part, total := 8, bytes := [1, 2], port := .hsp, at_ := 0 }

theorem w_MailboxRefusals :
    (MbxReady (sMbx 0) ∧ (sMbx 0).svc = svcBARE ∧ MbxReady sAsk) ∧
    ((sMbx 0 {} [(Reg.SEC_STAT.SEAL_BROKEN, 1), (Reg.STEW_POL_SEC.SEAL_BLOCK, 1)]).bit Reg.STEW_POL_SEC.SEAL_BLOCK = true ∧ (sAsk).presValid = false ∧ (sAsk).svc < 4) ∧
    ((sMbx 1 { image := some (imgT false) }).mbx.image = some (imgT false)) := by decide +kernel

/-- The engine can read and write a register of SYS at once. -/
theorem w_MailboxAccess : AccessReady .mailbox .sys (sMbx 0) ∧ MbxReady (sMbx 0) ∧ (sMbx 0).host.posted = [] ∧ (regRow 0x50080).map (fun r => (r.tc, accessDom r 0x50080)) = some (0, Dom.sys) :=
  ⟨⟨by decide +kernel, by decide +kernel, by decide +kernel, by decide +kernel, by decide +kernel, fun _ hn => by cases hn⟩, by decide +kernel⟩

theorem w_MailboxReads :
    (sMbx 0).mbxRefused .hsp 0x01 true [] = none ∧ (sMbx 3).mbxRefused .hsp 0x02 true [] = none ∧ (sMbx 0).mbxRefused .hsp 0x03 true [0x80, 0, 5, 0, 1, 0, 0, 0] = none ∧
    (sMbx 0).mbxRefused .hsp 0x04 true [0x80, 0, 5, 0, 1, 0, 0, 0, 1, 2, 3, 4] = none ∧ (sMbx 0).mbxRefused .hsp 0x35 true [0xFF, 0xFF, 0xFF, 3, 1, 0, 0, 0] = none ∧
    (sMbx 0).mbxRefused .hsp 0x60 true [0, 0, 0, 0, 64, 0, 0, 0] = none := by decide +kernel

theorem w_ServiceCommands : MbxReady (sMbx 1) ∧ MbxReady (sMbx 2) ∧ MbxReady (sMbx 3) ∧
    (sMbx 0).mbxRefused .hsp 0x05 true [0xA5, 0x5A, 0, 0] = none ∧ (sMbx 1).mbxRefused .hsp 0x10 true [] = none ∧ (sMbx 1).svc ≠ svcSAFE ∧ (sMbx 2).mbxRefused .hsp 0x11 true [] = none ∧
    (sMbx 3).mbxRefused .hsp 0x12 true [] = none ∧ (sMbx 2).mbxRefused .hsp 0x13 true [] = none ∧ (sMbx 2).mbx.live = none := by decide +kernel

def sArmed16 : State := { sMbx 2 with tick := { target := some 9 } }

theorem w_CommitCommands :
    ((sMbx 1).mbxRefused .hsp 0x20 true [] = none ∧ (sMbx 1).tick.target = none ∧ (sMbx 1).mbxRefused .hsp 0x21 true [2, 0, 0, 0, 0, 0, 0, 0] = none ∧ (2 : Int) ≤ ((2 : TickNo) - (sMbx 1).countAt 0).toInt ∧
      (sMbx 1).tick.goNow = false) ∧
    (MbxReady sArmed16 ∧ sArmed16.mbxRefused .hsp 0x22 true [] = none ∧ sArmed16.tick.target = some 9) ∧
    ((sMbx 2).mbxRefused .hsp 0x23 true [9, 0, 0, 0] = none ∧ (sMbx 2).mbxRefused .hsp 0x24 true [9, 0, 0, 0] = none ∧ (sMbx 2).mapped 9 = some 9 ∧ (sMbx 2).inWeir 0 = false ∧
      (sMbx 2).tcCheck (Reg.FAB_B_CTL.word 9).addr 1 = none ∧ (sMbx 2).tcCheck (Reg.FAB_B_CTL.word 9).addr 0 = none) ∧
    ((sMbx 2).mbxRefused .hsp 0x25 true ([9, 0, 0, 0] ++ [1, 0, 0, 0] ++ [1, 2, 3, 4]) = none ∧ 0 < poolWords) := by decide +kernel

theorem w_ImageCommands :
    ((sMbx 0).mbxRefused .hsp 0x30 true [0, 0, 0, 0, 0, 0, 0, 1] = none ∧ (sMbx 1 { image := some (imgT true) }).mbxRefused .hsp 0x31 true [2, 0, 0, 0, 1, 2, 3, 4, 5, 6] = none ∧
      (sMbx 1).mbxRefused .hsp 0x34 true [] = none ∧ (sMbx 1 { image := some (imgT true) }).mbxRefused .hsp 0x32 true [] = none) ∧
    ((sMbx 1 {} [(Reg.DEV_IMG_BOOT.TRIAL, 1), (Reg.DEV_IMG_BOOT.BOOTED, 0)]).mbxRefused .hsp 0x33 true [] = none ∧ (sMbx 1 {} [(Reg.DEV_IMG_BOOT.TRIAL, 1), (Reg.DEV_IMG_BOOT.BOOTED, 0)]).booted = some false) ∧
    ((sMbx 1).mbxRefused .hsp 0x40 true [0, 0x80, 0, 0] = none ∧ (sMbx 1).get Reg.AIN_STAT.NOSUPPLY = 0 ∧ (sMbx 1).get Reg.AIN_CALST.BUSY = 0 ∧ (sMbx 1).aiState 15 ≠ aiOFF ∧ (sMbx 1).aiState 15 ≠ aiUNAVAILABLE) ∧
    ((sMbx 1).mbxRefused .hsp 0x41 true [2, 0, 0, 0] = none ∧ (∀ k < 8, (sMbx 1).psState k = psOFF) ∧ (sMbx 1).gauge.calNow = 0 ∧ (sMbx 1).get Reg.GAUGE_STAT.REFRDY = 1) ∧
    (sMbx 1).mbxRefused .hsp 0x48 true [0x50, 1, 2, 0, 7] = none := by decide +kernel

def sNonce : State := { sMbx 0 with sec := { nonce := some [1] }, timers := [(tmPresLow, 1), (tmNonce, 1)] }

theorem w_IdentityCommands :
    ((sMbx 0).mbxRefused .hsp 0x50 true [0xFF, 3, 0, 0] = none ∧ (sMbx 0).mbxRefused .hsp 0x51 true [] = none ∧ (sMbx 0).mbxRefused .hsp 0x52 true [0xFF, 3, 0, 0] = none ∧
      (sMbx 0).mbxRefused .hsp 0x53 true [] = none ∧ (sMbx 1).mbxRefused .hsp 0x54 true [] = none ∧ (sMbx 0).mbxRefused .hsp 0x58 true [] = none ∧
      (sMbx 0).mbxRefused .hsp 0x59 true (List.replicate 16 0) = none) ∧
    ((bank [(Reg.PWRM_STAT.DOM_ON, 0x03)]).domOn .chn = false ∧ (bank [(Reg.PWRM_STAT.DOM_ON, 0x03)]).domOn .sys = true) ∧
    (sNonce.nonceNow = some [1] ∧ sNonce.bit Reg.SEC_STAT.UKEY = true ∧ sNonce.get Reg.SEC_STAT.FAILS < 4) ∧
    ((sMbx 0).domOn .chn = true ∧ (sMbx 0).chain.silent = false ∧ (sMbx 0).chain.taken = [] ∧ (sMbx 0).bit Reg.CHAIN_OWNER.ADOPTED = false) := by decide +kernel

/-! ### The weir, interrupts and the image timers -/

/-- The tick runs at 48 kHz with nothing loaded, a GO commit stands, and `v` is staged for DEV_TICK_CTL. -/
def sWeir (go : Bool) (v : Word) : State :=
  { bank (fabOn ++ [(Reg.DEV_TICK_CTL.RATE, 1)]) with tick := { goNow := go, count := 41, started := true, staged := if go then [(Reg.DEV_TICK_CTL.word.addr, { mask := 7, value := v })] else [] } }

theorem w_WeirCommits :
    ((sWeir false 0).ticksRun = true ∧ (sWeir false 0).weirLeft.runningBasins = [] ∧ (sWeir false 0).tick.held = [] ∧ (sWeir false 0).tick.target = none) ∧
    ((sWeir true 3).weirLeft = sWeir true 3 ∧ (sWeir true 3).runningBasins = [] ∧ (∀ h < 4, (sWeir true 3).hoState h ≠ hoFADING) ∧ (sWeir true 3).tick.goNow = true ∧
      (sWeir true 3).commitFamily = false ∧ (sWeir true 3).commitMisfit = false) ∧
    ((sWeir true 0).commitFamily = true ∧ (sWeir true 0).weirLeft.runningBasins = []) := by decide +kernel

theorem w_Interrupts :
    ((sClaim .pending).followLevels.claimSource 0 = none ∧ (sClaim .pending).followLevels.claimSource 1 = some 0xC5 ∧ (sClaim .pending).irq.wakeA = none) ∧
    (((sClaim (.inService 3)).gate 0xC5).st = .inService 3 ∧ pulseSource 0xFF = true ∧ pulseSource 0xC5 = true ∧ pulseSource 5 = false ∧ ((sClaim .pending).gate 0xFF).st = .idle) ∧
    ((sPort {} [(Reg.DEV_COMMIT_STAT.DONE, 1)]).sourceAsserted 1 = true ∧ (sClaim .pending).get Reg.IC_TGT_SLEEP.SLEEP = 0 ∧ (bank [(Reg.PWRM_STAT.DOM_ON, 1)]).domOn .sys = false) := by decide +kernel

def sLive : State := { bank [(Reg.DEV_IMG_BOOT.TRIAL, 1), (Reg.DEV_IMG_BOOT.BOOTED, 1), (Reg.DEV_SVC.STATE, svcLIVE)] with now := 60000, mbx := { confirm := true, image := some (imgT true) } }

theorem w_ImageTimers : (sLive.mbx.confirm = true ∧ sLive.get Reg.DEV_IMG_BOOT.TRIAL = 1 ∧ sLive.svc = svcLIVE ∧ sLive.mbx.liveSince + 60000 ≤ sLive.now ∧ sLive.booted = some true) ∧
    sLive.mbx.image = some (imgT true) ∧ (imgT true).at_ + 10000 ≤ sLive.now := by decide +kernel

/-! ### The stewards -/

/-- One error of the class on the unit is noted. -/
def sErr (cls unit : Nat) (l : List (Fld × Nat) := []) : State := { bank (fabOn ++ l) with stew := { errs := [{ cls := cls, unit := unit }] } }

theorem w_StewardTests :
    ((sErr 8 1).errOf 8 1 = some { cls := 8, unit := 1 } ∧ (sErr 8 1).domOn .sys = true ∧ (8 : Fin 16).val ∈ [1, 3, 4, 5, 7, 8]) ∧
    ((sErr 2 9 [(Reg.FAB_B_STAT.STATE 9, bsPARKED)]).struckOut 9 = false ∧ (sErr 2 9 [(Reg.FAB_B_STAT.STATE 9, bsPARKED)]).bistReady 9 = true) ∧ ((sErr 7 3).locked 3 = true) ∧
    ((sErr 8 1 [(Reg.HP_AMP_STAT.STATE 1, hpLATCHED)]).hpState 1 = hpLATCHED ∧ (sErr 8 1 [(Reg.STEW_POL_SAFE.MASK, 0)]).bitAt Reg.STEW_POL_SAFE.MASK 8 = false) ∧
    (7 < classUnits 5 ∧ (sErr 8 1).errOf 5 7 = none) := by decide +kernel

def sHot : State := { bank fabOn with regs := (bank fabOn).regs ++ [(0x7010C, 0x7A6C64)], stew := { crit := 9, history := [(11, 1, 0)] }, now := 5 }

theorem w_StewardHealth :
    ((0x1000 : BitVec 16).toInt < 128 * (sHot.get Reg.STEW_POL_THERM.TWARN : Int) ∧ (0x1000 : BitVec 16).toInt < 128 * ((sHot.get Reg.STEW_POL_THERM.THOT : Int) - 10)) ∧
    ((128 * sHot.get Reg.STEW_POL_THERM.TCRIT : Int) ≤ (0x3FFF : BitVec 16).toInt ∧ sHot.bitAt Reg.STEW_POL_SAFE.MASK 9 = false ∧ sHot.mode < 2 ∧ sHot.stew.warm ≠ 99) ∧
    (sHot.get Reg.STEW_STAT.CORES = 3 ∧ sHot.recurrences clsSTEWARD 1 msHour = 1 ∧ sHot.recurrences clsSTEWARD 0 msHour = 0 ∧ sHot.bitAt Reg.STEW_POL_SAFE.MASK 11 = false) := by decide +kernel

/-- Sector 63 is the newest and its last place alone is erased. -/
def sLedger : State := { bank fabOn with
  flash := (List.range 32).map (fun i => (sectorAddr 63 + i, (sectorHeader 5 2).getD i 0))
  stew := { records := [⟨rtHOURS, 0, 0, 0, 0, 0, 0, []⟩], msHours := 4 * msHour } }
def sSkim : State := { bank (fabOn ++ [(Reg.STEW_STAT.SKIM, skRUNNING), (Reg.FAB_B_STAT.STATE 9, bsRUNNING)]) with timers := [(tmSkim, 1)], now := 110 }
def sMargin : State := { bank (fabOn ++ [(Reg.STEW_POL_GEN.MARGIN_COMMIT, 1)]) with
  tick := { staged := [((Reg.PSC_ILIM.word 7).addr, { mask := 7, value := 1, stew := 7 })] }, timers := [(tmMargin, 1)], now := 1000 }

/-- A fold whose step changes nothing on the listed values. -/
theorem foldl_keeps {α β : Type} (f : β → α → β) (b : β) (l : List α) (h : ∀ a ∈ l, f b a = b) : l.foldl f b = b := by
  induction l with
  | nil => rfl
  | cons a l ih => rw [List.foldl_cons, h a (by simp)]; exact ih fun i hi => h i (by simp [hi])

/-- In a state with one valid sector header that sector is the newest. -/
theorem newestSector_last (s : State) (q e : Nat) (h : ∀ i < 63, s.sectorHdr i = none) (hl : s.sectorHdr 63 = some (q, e)) : s.newestSector = some (63, q) := by
  unfold State.newestSector
  rw [show List.range 64 = List.range 63 ++ [63] from rfl, List.foldl_append, foldl_keeps _ none (List.range 63) fun i hi => by rw [h i (List.mem_range.1 hi)], List.foldl_cons, hl]
  rfl

theorem w_LedgerPlaces : sLedger.newestSector = some (63, 5) ∧ (sLedger.carriedIn 0).length < (sLedger.erasedPlaces 63).length ∧ (sLedger.erasedPlaces 63).head? = some 0 := by
  have hn : ((List.range 63).all fun i => (sLedger.sectorHdr i).isNone) = true := by decide +kernel
  have hp : placeErased (sLedger.place 63 0) = true := by decide +kernel
  have hc : sLedger.carriedIn 0 = [] := by
    unfold State.carriedIn
    rw [show sLedger.sectorHdr 0 = none by decide +kernel]
  have he : sLedger.erasedPlaces 63 = 0 :: (List.range' 1 126).filter fun k => placeErased (sLedger.place 63 k) := by
    unfold State.erasedPlaces
    rw [show List.range 127 = 0 :: List.range' 1 126 from rfl, List.filter_cons_of_pos (p := fun k => placeErased (sLedger.place 63 k)) hp]
  exact ⟨newestSector_last _ 5 2 (fun i hi => Option.isNone_iff_eq_none.1 (List.all_eq_true.1 hn i (List.mem_range.2 hi))) (by decide +kernel), by rw [hc, he, List.length_nil, List.length_cons]; exact Nat.lt_add_one_of_le (Nat.zero_le _), by rw [he, List.head?_cons]⟩

theorem w_LedgerAndPlans :
    sLedger.stew.stopped = false ∧
    (sLedger.stew.msHours = 4 * msHour ∧ sLedger.bit Reg.STEW_CTL.RETEST = false ∧ sLedger.get Reg.STEW_STAT.SKIM = 0) ∧ (sSkim.get Reg.STEW_STAT.SKIM = skRUNNING ∧ sSkim.due tmSkim 110 = true ∧ sSkim.stew.skimFab = false ∧ sSkim.basinState 9 = bsRUNNING ∧ sSkim.mode ≠ modeSTANDBY) ∧
    (sMargin.onlyStewards = true ∧ sMargin.due tmMargin 1000 = true) := by decide +kernel

/-! ### Power -/

/-- The device in mode `m` with SYS on and what the power manager holds. -/
def sPwr (m : Nat) (p : PwrSt := {}) (l : List (Fld × Nat) := []) : State :=
  { bank (fabOn ++ [(Reg.PWRM_STAT.MODE, m), (Reg.PWRM_WAKE_EN.SRC, 127)] ++ l) with pwr := p, now := 40, timers := [(tmAon, 1), (tmReturn, 1)] }

theorem w_PowerModes :
    ((sPwr 0).changeRuns = false ∧ (sPwr 0).stew.critHold = false ∧ (4 ≠ (sPwr 0).mode) ∧ (sPwr 0).domOn .sys = true ∧ (sPwr 0).get Reg.STEW_STAT.SKIM ≠ skDUE ∧ (sPwr 0).get Reg.DEV_IMG_BOOT.TRIAL = 0 ∧ (sPwr 0).get Reg.DEV_COMMIT_STAT.STAGED = 0) ∧
    ((sPwr 0 { entry := some { mode := 1, step := 2 } }).outputsSettled = true ∧ (sPwr 0 { entry := some { mode := 2, step := 1 } }).clk.hop = none) ∧
    (sPwr 0 { entry := some { mode := 4, step := 6 } }).pwr.entry = some { mode := 4, step := 6 } := by decide +kernel

theorem w_Wakes :
    ((sPwr 4).mode = 4 ∧ 4 ∈ wakeModes 7 ∧ 2 ∈ wakeModes 1 ∧ (sPwr 4).wakeEnabled 7 = true ∧ (sPwr 2).wakeEnabled 1 = true ∧ (sPwr 2).stew.critHold = false) ∧
    ({ sPwr 2 with now := 1000 } : State).due tmAon (1000 * max 1 ((sPwr 2).get Reg.PWRM_TMR.SEC)) = true ∧ (sPwr 2).wakeEnabled 4 = true ∧
    ((sPwr 2 { ret := some { step := 4 } }).due tmReturn 32 = true ∧ (sPwr 2).get Reg.CLK_STAT.REF_OK = 1) := by decide +kernel

/-- Every supply at its threshold. -/
def vGood : SupplyLevels := { vaon := 1620, vddSoc := 680, vddFab := 600, vddSd := 770, vddhSd := 1080, vdda18 := 1620, vdda5 := 4750, vddioA := 1620, vddioB := 1620 }
def sHeld : State := { sPwr 0 { inReset := true } with timers := [(tmPor, 38)] }

theorem w_Resets :
    ((sPwr 0).pwr.inReset = false ∧ (∀ k < 8, ((sPwr 0).pscCh k).drive = .low) ∧ (sPwr 0).domOn .sys = true) ∧
    ((goodSupplies vGood).toNat &&& (sPwr 0).supplyNeed = (sPwr 0).supplyNeed ∧ (goodSupplies {}).toNat &&& (sPwr 0).supplyNeed ≠ (sPwr 0).supplyNeed) ∧
    (sHeld.pwr.inReset = true ∧ sHeld.due tmPor 2 = true ∧ (goodSupplies vGood).toNat &&& sHeld.supplyNeed = sHeld.supplyNeed ∧ (sPwr 0 { inReset := true }).timerOn tmPor = false) ∧
    ((sPwr 0).get Reg.AIN_CALST.BUSY = 0 ∧ (sPwr 0).get Reg.AOUT_CALST.BUSY = 0 ∧ (sPwr 0).pwr.startUp = 1) := by decide +kernel

theorem w_DomainResets : (sPwr 0).domOn .sys = true ∧ (sPwr 0).domOn .fab = true ∧ (sPwr 0).gpioDrive 7 = none ∧ (sPwr 0 {} [(Reg.PWRM_STAT.DOM_ON, 3)]).domOn .lsn = false ∧ (sPwr 0).pwr.inReset = false := by decide +kernel

/-! ### Security -/

/-- Presence is valid by a press; `target` is what a running program serves. -/
def sSec (target : Option Nat := none) (l : List (Fld × Nat) := []) : State :=
  { bank (fabOn ++ [(Reg.SEC_FDATA.word 7, 0x12345678)] ++ l) with sec := { target := target, window := 60 }, now := 900000, timers := [(tmPresLow, 1), (tmWindow, 1), (tmNonce, 1), (tmLockout, 1)] }

theorem w_Presence :
    ((sSec).pwr.inReset = false ∧ (sSec).mode = modeRUN ∧ (sSec).due tmWindow (1000 * (sSec).sec.window) = true ∧ (sSec).due tmPresLow 600000 = true ∧ (sSec).get Reg.SEC_STAT.JUMPER = 0) := by decide +kernel

/-- The same shortly after the press. -/
def sPressed (l : List (Fld × Nat) := []) : State := { sSec none l with now := 1 }

theorem w_SealAndLock :
    ((sPressed).domOn .sys = true ∧ (sPressed).presValid = true ∧ (sPressed).get Reg.SEC_STAT.SEAL_OPEN = 0 ∧ (sPressed).fieldLocked = false ∧ (sPressed [(Reg.SEC_STAT.LOCKED, 1)]).fieldLocked = true) ∧
    ((sSec).due tmNonce 120000 = true ∧ (sSec).due tmLockout 900000 = true) ∧ (sPressed [(Reg.STEW_POL_SEC.SEAL_BLOCK, 1)]).get Reg.STEW_POL_SEC.SEAL_BLOCK = 1 := by decide +kernel

theorem w_Fuses :
    ((sPressed).get Reg.SEC_FPROG.BUSY = 0 ∧ (sPressed).fprogRefusal 10 = 0 ∧ (sPressed [(Reg.SEC_STAT.LOCK_FUSE, 1)]).targetUsed 10 = true ∧ (sPwr 0).presValid = false) ∧
    ((0x80A5000A : Word).toNat / 65536 % 256 = 0xA5 ∧ (0x80A5000A : Word).getLsbD 31 = true ∧ (0x80A5000A : Word).toNat % 16 = 10) ∧ ((sSec (some 10)).sec.target = some 10 ∧ (sSec (some 3)).sec.target = some 3) := by
  decide +kernel
end

/-! What the arbiter does with an access at its grant where no register answers: at an address that no register has (R8), and in
the raw basin windows of a field-locked device (R9). -/

namespace Sys2Proof.Machine

/-! ### Frames -/

theorem Frame.trans {fs : List Fld} {ps : List Part} {s t u : State} (h : Frame fs ps s t) (k : Frame fs ps t u) : Frame fs ps s u :=
  ⟨h.1.trans k.1, h.2.trans k.2⟩

/-- A new bus state is a change of the bus alone. -/
theorem Frame.of_bus (fs : List Fld) (s : State) (b : BusSt) : Frame fs [.bus] s { s with bus := b } := by
  refine ⟨(OnlyFields.refl fs s).other rfl, rfl, rfl, fun p hp => ?_⟩
  cases p
  case bus => exact absurd (List.mem_singleton_self _) hp
  all_goals rfl

/-- A flag that is set is a change of its field alone. -/
theorem Frame.of_flag (ps : List Part) (s : State) (f : Fld) : Frame [f] ps s (s.flag f) :=
  ⟨(OnlyFields.refl [f] s).flag f ⟨f, List.mem_singleton_self f, rfl, le_rfl, le_rfl⟩, rfl, rfl, fun p _ => by cases p <;> rfl⟩

/-! ### Grants that no register answers -/

/-- R8: an access to an unassigned address is over at once. -/
theorem State.grant_unassigned {s : State} {x : Access} (hsys : s.domOn .sys = true) (halign : x.addr % 4 = 0) (hlow : x.addr < 0x400000)
    (hrow : regRow x.addr = none) : s.grant x = s.onBus 0 .done := by
  have hwin : ¬ (0x400000 ≤ x.addr ∧ x.addr < 0x600000) := fun h => absurd h.1 (Nat.not_le.mpr hlow)
  simp [State.grant, hsys, halign, hwin, hrow]

/-- R9: the field lock turns an access to the raw basin windows away, and SEC_EVT.DENIED tells of it. -/
theorem State.grant_lockedWindow {s : State} {x : Access} (hsys : s.domOn .sys = true) (halign : x.addr % 4 = 0) (hlo : 0x400000 ≤ x.addr)
    (hhi : x.addr < 0x600000) (hlock : s.fieldLocked = true) : s.grant x = (s.flag Reg.SEC_EVT.DENIED).onBus 0 .refused := by
  simp [State.grant, hsys, halign, hlo, hhi, hlock]

/-- A refusal that is told in SEC_EVT.DENIED shows on the bus and in that flag, and nowhere else. -/
theorem State.denied_effect (s : State) :
    ((s.flag Reg.SEC_EVT.DENIED).onBus 0 .refused).bus = { s.bus with data := 0, last := .refused } ∧
      ((s.flag Reg.SEC_EVT.DENIED).onBus 0 .refused).get Reg.SEC_EVT.DENIED = 1 ∧
      Frame [Reg.SEC_EVT.DENIED] [.bus] s ((s.flag Reg.SEC_EVT.DENIED).onBus 0 .refused) :=
  ⟨rfl, State.get_flag_self s Reg.SEC_EVT.DENIED (by decide) (by decide),
    (Frame.of_flag [.bus] s Reg.SEC_EVT.DENIED).trans (Frame.of_bus _ _ _)⟩

/-! ### The command of a raw window -/

/-- An access of a command's own row is granted in the turn of its requester, where no earlier access of it is under way. -/
theorem State.access_free {s : State} {x : Access} (hrow : x.serves = .row) (hheld : s.isHeld x.who = false)
    (hwait : s.bus.wait.any (fun y => y.who == x.who) = false) : s.access x = ({ s with bus := { s.bus with turn := x.who } }).grant x := by
  unfold State.access
  rw [hheld, hwait, if_neg (by simp), State.grantTo_row _ _ hrow]

/-- RAW_WINDOW_ACCESS of an address in the windows is an access of the host's SPI port. -/
theorem exec_rawWindowAccess {a : BitVec 24} (hlo : 0x400000 ≤ a.toNat) (hhi : a.toNat < 0x600000) (write : Option Word) (s : State) :
    exec (.rawWindowAccess a write) s = .next (s.access { who := .hsp, addr := a.toNat, write := write }) :=
  congrArg Host.Outcome.next (if_pos ⟨hlo, hhi⟩)

end Sys2Proof.Machine

/-! ### What is settled -/

section

open Sys2Proof Sys2Proof.Machine

/-- Settles O6: no register covers the address, so the grant ends the access at once. -/
theorem unassignedAddress : Obligations.UnassignedAddress := by
  unfold Obligations.UnassignedAddress
  exact fun _ _ => State.grant_unassigned

/-- Settles O22: the field lock denies the grant, whoever asked; and the command of a host that waits for nothing comes to its grant at once. -/
theorem rawWindowsClosedByLock : Obligations.RawWindowsClosedByLock := by
  unfold Obligations.RawWindowsClosedByLock
  constructor
  · intro a write s hsys hlock halign hlo hhi hheld hwait
    have hgrant := (State.access_free (x := { who := .hsp, addr := a.toNat, write := write }) rfl hheld hwait).trans
      (State.grant_lockedWindow hsys halign hlo hhi hlock)
    refine ⟨_, (exec_rawWindowAccess hlo hhi write s).trans (congrArg Host.Outcome.next hgrant), ?_⟩
    obtain ⟨hbus, hflag, hframe⟩ := State.denied_effect { s with bus := { s.bus with turn := .hsp } }
    exact ⟨hbus, hflag, (Frame.of_bus _ s _).trans hframe⟩
  · intro x s hsys halign hlo hhi hlock
    rw [State.grant_lockedWindow hsys halign hlo hhi hlock]
    exact s.denied_effect

end

/-! What a read of the low word of a tick latches (R31), and what the arbiter does with a read of a register of SYS that has no operation of its own. -/

namespace Sys2Proof.Machine

/-! ### A 48-bit tick in two registers -/

/-- The words that hold bits 47:32 and 31:0 of a tick hold all of it. -/
theorem hi_lo_toNat (n : TickNo) :
    (BitVec.ofNat 32 (n.toNat / 2 ^ 32)).toNat * 2 ^ 32 + (BitVec.ofNat 32 n.toNat).toNat = n.toNat := by
  have hhi : n.toNat / 2 ^ 32 < 2 ^ 32 := by omega
  rw [BitVec.toNat_ofNat, BitVec.toNat_ofNat, Nat.mod_eq_of_lt hhi]
  exact Nat.div_add_mod' _ _

/-- The low word of `n` is read while its high word is latched into register `hi`: the two hold `n`, and beside the bus no other register changes. -/
theorem State.readDone_latch (s : State) (hi : Fld) (n : TickNo) :
    let t := State.readDone (BitVec.ofNat 32 n.toNat, s.setNat hi (n.toNat / 2 ^ 32))
    t.bus.last = .done ∧ (t.word hi.addr).toNat * 2 ^ 32 + t.bus.data.toNat = n.toNat ∧
      SameRegsBut [hi.addr] s t ∧ t = { s with regs := t.regs, bus := t.bus } := by
  intro t
  have hword : t.word hi.addr = BitVec.ofNat 32 (n.toNat / 2 ^ 32) := s.word_setNat_self hi _
  have hregs : SameRegsBut [hi.addr] s t := (SameRegsBut.refl [hi.addr] s).setNat hi _ (List.mem_singleton_self _)
  refine ⟨rfl, ?_, hregs, rfl⟩
  rw [hword]
  exact hi_lo_toNat n

/-- DEV_TICK_LO_READ is the read of DEV_TICK_LO, while SYS is on. -/
theorem exec_devTickLoRead (cyc : Nat) {s : State} (hsys : s.domOn .sys = true) :
    exec (.devTickLoRead cyc) s = .next (State.readDone (s.readTickLo cyc)) :=
  congrArg Host.Outcome.next (State.byRow_on hsys)

/-- DEV_COMMIT_LAST_LO_READ is the read of DEV_COMMIT_LAST_LO, while SYS is on. -/
theorem exec_devCommitLastLoRead {s : State} (hsys : s.domOn .sys = true) :
    exec .devCommitLastLoRead s = .next (State.readDone s.readLastLo) :=
  congrArg Host.Outcome.next (State.byRow_on hsys)

/-! ### Reads that change no register -/

/-- An access to a domain that no crossing parts from SYS takes place at once. -/
theorem State.cross_uncrossed (s : State) {x : Access} (hdom : xingOfDom x.dom = none) : s.cross x = s.perform x := by
  unfold State.cross
  rw [hdom]

/-- A granted access to a register of SYS takes place at once. -/
theorem State.grant_sysRow {s : State} {x : Access} {r : RegRow} (hsys : s.domOn .sys = true) (halign : x.addr % 4 = 0)
    (hlow : x.addr < 0x400000) (hrow : regRow x.addr = some r) (hdom : accessDom r x.addr = .sys) : s.grant x = s.perform x := by
  have hwin : ¬ (0x400000 ≤ x.addr ∧ x.addr < 0x600000) := fun h => absurd h.1 (Nat.not_le.mpr hlow)
  have hx : x.dom = .sys := by simp [Access.dom, hrow, hdom]
  have hcross : s.cross x = s.perform x := s.cross_uncrossed (by rw [hx]; rfl)
  simp [State.grant, hsys, halign, hwin, hrow, hdom, hcross]

/-- A read that is no operation of its own returns the readable bits of the register's word (R6, R7). -/
theorem State.readReg_plain {s : State} {r : RegRow} {a cyc : Nat} {m : Word} (hmask : readMask r = m) (hopen : stewardOnly a = false)
    (hown : s.ownRead a cyc = none) (hlive : deadSource a = false) : s.readReg r a cyc = s.onBus (s.word a &&& m) .done := by
  simp [State.readReg, hmask, hopen, hown, hlive]

/-- A read of a register, as the access comes to it. -/
theorem State.perform_read {s : State} {x : Access} {r : RegRow} (hrow : regRow x.addr = some r) (hread : x.write = none) :
    s.perform x = s.readReg r x.addr x.cyc := by
  unfold State.perform
  rw [hrow, hread]

/-- A granted read of a register of SYS returns its word under the row's read mask `m`, where the read is no operation of its own. -/
theorem State.grant_plainRead {s : State} {a : Nat} {m : Word} (w : Requester) (cyc : Nat) (hsys : s.domOn .sys = true) (halign : a % 4 = 0)
    (hlow : a < 0x400000) (hreg : ∃ r, regRow a = some r ∧ accessDom r a = .sys ∧ readMask r = m) (hopen : stewardOnly a = false)
    (hown : s.ownRead a cyc = none) (hlive : deadSource a = false) :
    s.grant { who := w, addr := a, write := none, cyc := cyc } = s.onBus (s.word a &&& m) .done := by
  obtain ⟨r, hrow, hdom, hmask⟩ := hreg
  rw [State.grant_sysRow hsys halign hlow hrow hdom, State.perform_read hrow rfl]
  exact State.readReg_plain hmask hopen hown hlive

end Sys2Proof.Machine

section

open Sys2Proof Sys2Proof.Machine

/-- Settles O13: each LO read latches the high word of the tick it returns, and a HI read returns what was latched. -/
theorem tickReadsLatch : Obligations.TickReadsLatch := by
  unfold Obligations.TickReadsLatch
  refine ⟨fun cyc s hsys => ?_, fun s hsys => ?_, fun cyc s hsys => ?_⟩
  · exact ⟨_, exec_devTickLoRead cyc hsys, s.readDone_latch Reg.DEV_TICK_HI.word (s.countAt cyc)⟩
  · exact ⟨_, exec_devCommitLastLoRead hsys, s.readDone_latch Reg.DEV_COMMIT_LAST_HI.word s.tick.last⟩
  · exact ⟨State.grant_plainRead .hsp cyc hsys rfl (by decide) ⟨_, rfl, rfl, rfl⟩ rfl rfl rfl,
      State.grant_plainRead .hsp cyc hsys rfl (by decide) ⟨_, rfl, rfl, rfl⟩ rfl rfl rfl⟩

end
